-- ==== Sys2Proof/Word.lean ====
section
/-! DEFINITION. Word.lean: identifiers and units of Table SCOPE-3 (R8), the completion status codes of
Table SCOPE-4 (R9), and the sparse tables the state is built of. -/

namespace Sys2Proof

/-- One byte. -/
abbrev Byte := BitVec 8
/-- One coherence line of 64 bytes, byte i in bits 8i+7 to 8i (R4, R8). -/
abbrev Line := BitVec 512
/-- A 64-bit register word. -/
abbrev Word64 := BitVec 64
/-- Endpoint id (R8). -/
abbrev Ep := BitVec 14
/-- Tenant id (R8). -/
abbrev Tenant := BitVec 12
/-- Region id (R8). -/
abbrev RegionId := BitVec 20
/-- Pool virtual address (R8, R31). -/
abbrev Pva := BitVec 56
/-- Pool physical address: home endpoint id and home-local address (R8, R31). -/
abbrev Ppa := BitVec 60
/-- Map epoch (R8). -/
abbrev Epoch := BitVec 16
/-- Key generation (R8). -/
abbrev KeyGen := BitVec 8
/-- Queue-pair number (R8). -/
abbrev Qpn := BitVec 16
/-- A queue pair across the fabric: its origin endpoint in bits 29:16 and its number in bits 15:0 (R125). -/
abbrev QpKey := BitVec 30
/-- Packet sequence number (R8). -/
abbrev Psn := BitVec 32
/-- Half-port number, 2p for half-port pa or port p and 2p+1 for half-port pb (R154). -/
abbrev HalfPort := BitVec 6
/-- Sector or stack number (R8, R11). -/
abbrev Sector := BitVec 3
/-- Home extent slot (R31). -/
abbrev Slot := BitVec 18
/-- Transaction tag (Table LINK-5). -/
abbrev Tag := BitVec 16
/-- Source stream id, class and number (Table ORDER-1). -/
abbrev Stream := BitVec 18
/-- Collective group id (R154). -/
abbrev GroupId := BitVec 12
/-- Home-local line number, bits 45:6 of a PPA (R63). -/
abbrev LineNo := BitVec 40

/-- The completion status codes of Table SCOPE-4 (R9). -/
inductive Status where
  | ok | partialResult | alreadyComplete | aborted | flushed | retry
  | accessViolation | withdrawn | quota | versionConflict | epochStale | keyRetired
  | uncorrectable | timeout | linkDown
  | unsupportedVersion
  deriving DecidableEq, Repr, Inhabited

/-- The 8-bit code of a status (Table SCOPE-4). -/
def Status.code : Status → BitVec 8
  | .ok => 0x00 | .partialResult => 0x01 | .alreadyComplete => 0x02 | .aborted => 0x03
  | .flushed => 0x04 | .retry => 0x05
  | .accessViolation => 0x10 | .withdrawn => 0x11 | .quota => 0x12 | .versionConflict => 0x13
  | .epochStale => 0x14 | .keyRetired => 0x15
  | .uncorrectable => 0x20 | .timeout => 0x21 | .linkDown => 0x22
  | .unsupportedVersion => 0x30

/-- Whether a status reports a failure: the codes from 0x10 upward (R9). -/
def Status.isFailure (s : Status) : Bool := s.code ≥ 0x10

/-- A sparse table keyed by Nat: pairs in strictly rising key order.  A key not listed reads as the
value the reader names, which is the field's reset value. -/
abbrev Tbl (α : Type) := List (Nat × α)

namespace Tbl
variable {α : Type}

/-- The value at a key, if listed. -/
def find? : Tbl α → Nat → Option α
  | [], _ => none
  | (j, v) :: t, k => if j = k then some v else find? t k

/-- The value at a key, or the given one where the key is not listed. -/
def get (t : Tbl α) (k : Nat) (d : α) : α := (find? t k).getD d

/-- Set the value at a key, keeping the keys in rising order. -/
def set : Tbl α → Nat → α → Tbl α
  | [], k, v => [(k, v)]
  | (j, w) :: t, k, v =>
    if k < j then (k, v) :: (j, w) :: t
    else if j = k then (k, v) :: t
    else (j, w) :: set t k v

/-- Remove a key. -/
def del : Tbl α → Nat → Tbl α
  | [], _ => []
  | (j, w) :: t, k => if j = k then del t k else (j, w) :: del t k

/-- Change the value at a key, reading the given one where the key is not listed. -/
def upd (t : Tbl α) (k : Nat) (d : α) (f : α → α) : Tbl α := set t k (f (get t k d))

/-- Whether a key is listed. -/
def has (t : Tbl α) (k : Nat) : Bool := (find? t k).isSome

/-- The values, in key order. -/
def vals (t : Tbl α) : List α := t.map Prod.snd

end Tbl

/-- Change the first element a test picks; the list is unchanged where none is picked. -/
def updFirst {α : Type} (p : α → Bool) (f : α → α) : List α → List α
  | [] => []
  | x :: xs => if p x then f x :: xs else x :: updFirst p f xs

/-- Remove the first element a test picks. -/
def dropFirst {α : Type} (p : α → Bool) : List α → List α
  | [] => []
  | x :: xs => if p x then xs else x :: dropFirst p xs

/-- Bits hi down to lo of a word, as an n-bit field starting at bit lo. -/
def fld {w : Nat} (x : BitVec w) (lo n : Nat) : BitVec n := x.extractLsb' lo n

/-- The little-endian value of a byte string (R4). -/
def leNat : List Byte → Nat
  | [] => 0
  | b :: bs => b.toNat + 256 * leNat bs

/-- The n low bytes of a value, lowest first (R4). -/
def natLe : Nat → Nat → List Byte
  | 0, _ => []
  | n + 1, x => BitVec.ofNat 8 x :: natLe n (x / 256)

/-- Exclusive-or of all bits of a word (parity in R63 and R64). -/
def parity {w : Nat} (x : BitVec w) : Bool :=
  (List.range w).foldl (fun a i => xor a (x.getLsbD i)) false

/-- 1 for true, 0 for false. -/
def b2n (b : Bool) : Nat := if b then 1 else 0

/-- A Bool as one bit. -/
def bit (b : Bool) : BitVec 1 := BitVec.ofBool b

/-- Smallest multiple of m at or above n. -/
def roundUp (n m : Nat) : Nat := (n + m - 1) / m * m

/-- n divided by m, rounded up. -/
def ceilDiv (n m : Nat) : Nat := (n + m - 1) / m

end Sys2Proof
end

