-- ==== Sys2Proof/Word/Packet.lean ====
section
/-! DEFINITION. Word/Packet.lean: packets, flits and the other operands that commands carry.
Base header Table LINK-5, optional headers Table LINK-6, COL header Table LINK-8 (R300 to R307). -/

namespace Sys2Proof

/-- Where a packet or request comes from: a half-port, a sector's local units or the management
island (the numbering of R351). -/
inductive Ingress where
  | half (h : HalfPort)
  | unit (s : Sector)
  | mgmt
  deriving DecidableEq, Repr, Inhabited

/-- The COL header (Table LINK-8). -/
structure ColHdr where
  groupId : GroupId := 0
  instanceSeq : BitVec 32 := 0
  firstBlock : BitVec 32 := 0
  run : BitVec 16 := 0
  form : BitVec 2 := 0
  control : Bool := false
  reason : BitVec 8 := 0
  op : BitVec 4 := 0
  inFmt : BitVec 4 := 0
  outFmt : BitVec 4 := 0
  mode : Bool := false
  elements : BitVec 32 := 0
  commitTime : BitVec 64 := 0
  rsvd : BitVec 44 := 0
  deriving DecidableEq, Repr, Inhabited

/-- The MSG header (Table LINK-6). -/
structure MsgHdr where
  msgId : BitVec 24 := 0
  offset : BitVec 32 := 0
  totalLen : BitVec 32 := 0
  completionReq : Bool := false
  rsvd : BitVec 39 := 0
  deriving DecidableEq, Repr, Inhabited

/-- The QP header (Table LINK-6). -/
structure QpHdr where
  originEp : Ep := 0
  qpn : Qpn := 0
  ownEpoch : BitVec 32 := 0
  psn : Psn := 0
  rsvd : BitVec 34 := 0
  deriving DecidableEq, Repr, Inhabited

/-- The AUX header (Table LINK-6). -/
structure AuxHdr where
  byteMask : BitVec 64 := 0
  rsvd : BitVec 4 := 0
  counterAddr : BitVec 60 := 0
  deriving DecidableEq, Repr, Inhabited

/-- The Pennant record (Table ORDER-3, R79). -/
structure PennantRec where
  flagAddr : BitVec 64 := 0
  flagValue : BitVec 64 := 0
  stream : Stream := 0
  flagOp : BitVec 4 := 0
  flagWidth : Bool := false
  scope : Bool := false
  keyTenant : Tenant := 0
  keyGen : KeyGen := 0
  view : BitVec 3 := 0
  rsvd : BitVec 81 := 0
  deriving DecidableEq, Repr, Inhabited

/-- The wait record (Table ORDER-5, R86). -/
structure WaitRec where
  addr : BitVec 64 := 0
  compare : BitVec 64 := 0
  cond : BitVec 4 := 0
  width : Bool := false
  timeoutUs : BitVec 32 := 0
  rsvd : BitVec 91 := 0
  deriving DecidableEq, Repr, Inhabited

/-- The fields of the base header that route a packet (Table LINK-5). -/
structure Packet where
  opcode : BitVec 8 := 0
  vc : BitVec 3 := 0
  tc : BitVec 3 := 0
  partitionId : BitVec 6 := 0
  destEp : Ep := 0
  srcEp : Ep := 0
  far : Bool := false
  relaxed : Bool := false
  acquire : Bool := false
  release : Bool := false
  world : Bool := false
  view : BitVec 3 := 0
  atomicWidth : BitVec 2 := 0
  atomicOp : BitVec 4 := 0
  status : BitVec 8 := 0
  tag : Tag := 0
  stream : Stream := 0
  tenant : Tenant := 0
  keyTenant : Tenant := 0
  keyGen : KeyGen := 0
  mapEpoch : Epoch := 0
  addr : BitVec 60 := 0
  rsvd : BitVec 27 := 0
  col : Option ColHdr := none
  msg : Option MsgHdr := none
  qp : Option QpHdr := none
  aux : Option AuxHdr := none
  pennant : Option PennantRec := none
  payload : List Byte := []
  deriving DecidableEq, Repr, Inhabited

/-- A flit: the 8 header bytes, the 15 slots of 16 bytes and the check word (R291). -/
structure Flit where
  hdr : BitVec 64 := 0
  slots : List (BitVec 128) := []
  check : BitVec 64 := 0
  deriving DecidableEq, Repr, Inhabited

/-- A manager command's own identity: the port and queue it was fetched from, its producer count,
its TAG, its FORMAT and NOTIFY bits, the reserved bits of its header (bits 7:6 of byte 1, then bytes 4 to 15) and the bits
of ARGS beyond its last argument (R473). -/
structure MgrRef where
  port : Bool := false
  queue : BitVec 3 := 0
  cmdIndex : BitVec 16 := 0
  tag : BitVec 16 := 0
  format : BitVec 4 := 1
  notify : Bool := false
  hdrRsvd : BitVec 98 := 0
  extra : BitVec 896 := 0
  generation : BitVec 32 := 0
  deriving DecidableEq, Repr, Inhabited

/-- One Agwen request: its session and SEQ (Table MGMT-2). -/
structure AgwenRef where
  session : Nat := 0
  seq : BitVec 32 := 0
  deriving DecidableEq, Repr, Inhabited

/-- A host access through BAR2 (R471): a read of n bytes or a write of bytes. -/
inductive Bar2Op where
  | read (n : Nat)
  | write (data : List Byte)
  deriving DecidableEq, Repr, Inhabited

/-- A register with no row of its own (R456, R467, R469). -/
inductive RegTarget where
  | dict (a : AgwenRef) (index : BitVec 16) (sub : BitVec 8) (value : List Byte)
  | bar0 (port : Bool) (offset : BitVec 26) (value : BitVec 64)
  deriving DecidableEq, Repr, Inhabited

/-- A resource the skew guard watches (R65). -/
inductive SkewResource where
  | t0Channel (stack : Sector) (channel : BitVec 5)
  | trayChannel (tray : Ep) (channel : BitVec 6)
  | egress (h : HalfPort) (tc : BitVec 3)
  deriving DecidableEq, Repr, Inhabited

/-- The CAP message (R312, R319), with the peer's full-rate declaration (R313). -/
structure CapMsg where
  versions : BitVec 3 := 0
  qfpm : Bool := false
  ep : Ep := 0
  partitionId : BitVec 6 := 0
  booted : Bool := false
  fullRate : Bool := false
  isQf960 : Bool := false
  channels : BitVec 8 := 0
  capacity : BitVec 16 := 0
  protect : Bool := false
  deriving DecidableEq, Repr, Inhabited

/-- A HELLO session message (R394 step 1). -/
structure HelloMsg where
  nonce : List Byte := []
  ecPub : List Byte := []
  kemPub : List Byte := []
  rsaChain : List Byte := []
  mldsaChain : List Byte := []
  deriving DecidableEq, Repr, Inhabited

/-- A TIME message (Table OBS-1) with the lane-contact time at which it was received, each time in
units of 1/65,536 ns. -/
structure TimeMsg where
  kind : BitVec 8 := 0
  seq : BitVec 32 := 0
  t1 : BitVec 80 := 0
  t2 : BitVec 80 := 0
  t3 : BitVec 80 := 0
  received : BitVec 80 := 0
  deriving DecidableEq, Repr, Inhabited

/-- A core that has a watchdog (R408). -/
inductive WdCore where
  | sector (s : Sector)
  | mgmt (c : Bool)
  deriving DecidableEq, Repr, Inhabited

/-- A CXL host's access (R322). -/
structure CxlReq where
  halfport : HalfPort := 0
  tag : Tag := 0
  hpa : BitVec 64 := 0
  /-- 0 no state, 1 shared, 2 exclusive -/
  want : BitVec 2 := 0
  mask : BitVec 64 := 0
  data : List Byte := []
  deriving DecidableEq, Repr, Inhabited

/-- A CXL tray's completion (R325): which operation, on which tray line, with its data or an error. -/
structure CxlTrayCpl where
  halfport : HalfPort := 0
  tag : Tag := 0
  /-- 0 MemRd of the line, 1 MemRd of the sideband line, 2 MemWr, 3 MemWrPtl -/
  kind : BitVec 2 := 0
  error : Bool := false
  data : List Byte := []
  deriving DecidableEq, Repr, Inhabited

/-- A DTLS handshake's outcome as the management controller sees it (R445). -/
structure DtlsMsg where
  session : Nat := 0
  suite : BitVec 16 := 0
  group : BitVec 16 := 0
  scheme : BitVec 16 := 0
  cookie : Bool := false
  rsaChain : List Byte := []
  exporter : List Byte := []
  v6 : Bool := false
  deriving DecidableEq, Repr, Inhabited

/-- A firmware image as R501 lays it out, with the two signatures behind it. -/
structure FwImage where
  magic : BitVec 32 := 0
  format : BitVec 4 := 0
  version : BitVec 32 := 0
  securityVersion : BitVec 16 := 0
  length : BitVec 32 := 0
  configOffset : BitVec 32 := 0
  configLength : BitVec 32 := 0
  settingsOffset : BitVec 32 := 0
  settingsEntries : BitVec 16 := 0
  dictRevision : BitVec 8 := 0
  rsvd : BitVec 276 := 0
  body : List Byte := []
  settings : List (BitVec 16 × BitVec 8 × BitVec 8) := []
  rsaSig : List Byte := []
  mldsaSig : List Byte := []
  deriving DecidableEq, Repr, Inhabited

/-- An address-resolution or reachability query on the management network (R444). -/
inductive NetQuery where
  | arp (addr : BitVec 32)
  | nd (addr : BitVec 128)
  | echo4 (addr : BitVec 32) (data : List Byte)
  | echo6 (addr : BitVec 128) (data : List Byte)
  deriving DecidableEq, Repr, Inhabited

/-- The unit of the fault-record UNIT codes (Table FAULT-2). -/
abbrev UnitCode := BitVec 4

end Sys2Proof
end

