-- ==== Sys2Proof/Syntax.lean ====
section
/-! DEFINITION. Syntax.lean: the commands of the block, one constructor per row of spec/opcode_table.json,
with the row's operands.  A docstring gives the rule the table names for the row. -/

namespace Sys2Proof

/-- A command (one row of the table of operations and events). -/
inductive Instr where
  /-- TENANT_RECORD (R36). -/
  | tenantRecord (port : Bool) (t : Tenant) (value : BitVec 64)
  /-- BAR2_ACCESS (R471). -/
  | bar2Access (port : Bool) (offset : BitVec 36) (op : Bar2Op)
  /-- EXTENT_ASSIGN (R540). -/
  | extentAssign (m : MgrRef) (slot : BitVec 32) (tray : BitVec 16) (trayExtent : BitVec 16) (tenant : BitVec 16) (region : BitVec 32) (flags : BitVec 8)
  /-- EXTENT_WITHDRAW (R540). -/
  | extentWithdraw (m : MgrRef) (slot : BitVec 32) (tw : BitVec 64)
  /-- WITHDRAW_EFFECT (R43). -/
  | withdrawEffect (slot : Slot)
  /-- WITHDRAW_DRAIN_END (R43). -/
  | withdrawDrainEnd (slot : Slot)
  /-- WITHDRAW_DRAIN_TIMEOUT (R43). -/
  | withdrawDrainTimeout (slot : Slot)
  /-- SCRUB_DONE (R43). -/
  | scrubDone (slot : Slot)
  /-- TRAY_FILL_TIMEOUT (R542). -/
  | trayFillTimeout (slot : Slot)
  /-- EXTENT_MOVE (R60). -/
  | extentMove (m : MgrRef) (slot : BitVec 32) (newHome : BitVec 16) (newSlot : BitVec 32)
  /-- MOVE_COPY_PASS (R60). -/
  | moveCopyPass (slot : Slot)
  /-- PLACE_T0 (R49). -/
  | placeT0 (m : MgrRef) (slot : BitVec 32)
  /-- T0_FILL_DONE (R49). -/
  | t0FillDone (slot : Slot)
  /-- CIRRUS_REGISTER (R51). -/
  | cirrusRegister (m : MgrRef) (lender : BitVec 16) (first : BitVec 16) (count : BitVec 16)
  /-- CIRRUS_REPLICATE (R51). -/
  | cirrusReplicate (m : MgrRef) (slot : BitVec 32) (lender : BitVec 16) (extent : BitVec 16)
  /-- CIRRUS_REPLICA_COMPLETE (R51). -/
  | cirrusReplicaComplete (slot : Slot)
  /-- RECLAIM (R52). -/
  | reclaim (i : Ingress) (p : Packet)
  /-- RECLAIM_ACK (R52). -/
  | reclaimAck (lender : Ep)
  /-- EXTENT_RESTORE (R409). -/
  | extentRestore (m : MgrRef) (slot : BitVec 32) (image : BitVec 64) (tenant : BitVec 16)
  /-- OPEN_VERSION (R56). -/
  | openVersion (m : MgrRef) (tenant : BitVec 16) (region : BitVec 32)
  /-- CLOSE_VERSION (R56). -/
  | closeVersion (m : MgrRef) (tenant : BitVec 16) (region : BitVec 32) (slot : BitVec 8)
  /-- FOLD_PAGE (R59). -/
  | foldPage (tenant : Tenant) (region : RegionId)
  /-- OPEN_DRAFT (R56). -/
  | openDraft (m : MgrRef) (tenant : BitVec 16) (region : BitVec 32)
  /-- PUBLISH (R56). -/
  | publish (m : MgrRef) (tenant : BitVec 16) (region : BitVec 32) (draft : BitVec 8) (expected : BitVec 64)
  /-- ABANDON (R56). -/
  | abandon (m : MgrRef) (tenant : BitVec 16) (region : BitVec 32) (draft : BitVec 8)
  /-- THROTTLE (R369). -/
  | throttle (home : Ep) (short : Bool) (tenants : List Tenant)
  /-- THROTTLE_RENEW (R369). -/
  | throttleRenew
  /-- THROTTLE_LAPSE (R369). -/
  | throttleLapse (home : Ep)
  /-- SKEW_HOT (R65). -/
  | skewHot (r : SkewResource) (hot : Bool) (lines : List LineNo)
  /-- REPLICA_IDLE_DROP (R66). -/
  | replicaIdleDrop (page : BitVec 34)
  /-- EPOCH_RETIRE (R62). -/
  | epochRetire
  /-- EPOCH_RETIRE_EARLY (R62). -/
  | epochRetireEarly
  /-- ADVANCE (R470). -/
  | advance (port : Bool) (value : BitVec 64)
  /-- RETIRE_EARLY (R470). -/
  | retireEarly (port : Bool) (value : BitVec 64)
  /-- PLACED (R71). -/
  | placed (i : Ingress) (p : Packet)
  /-- PENNANT (R80). -/
  | pennant (i : Ingress) (p : Packet)
  /-- PENNANT_DONE (R91). -/
  | pennantDone (i : Ingress) (p : Packet)
  /-- STREAM_RESET (R82). -/
  | streamReset (i : Ingress) (p : Packet)
  /-- WAIT_REGISTER (R543). -/
  | waitRegister (i : Ingress) (p : Packet)
  /-- WAIT_TIMEOUT (R87). -/
  | waitTimeout (waiter : Ep) (tag : Tag)
  /-- WAIT_REGISTER_RESEND (R543). -/
  | waitRegisterResend (pair : QpKey)
  /-- WAIT_POLL (R87). -/
  | waitPoll (pair : QpKey)
  /-- WAIT_DONE (R543). -/
  | waitDone (i : Ingress) (p : Packet)
  /-- CANCEL (R546). -/
  | cancel (i : Ingress) (p : Packet)
  /-- REASSEMBLY_CLEAR (R93). -/
  | reassemblyClear (a : AgwenRef) (value : List Byte)
  /-- CLEARED_PAIR_EXPIRY (R93). -/
  | clearedPairExpiry (src : Ep) (msgId : BitVec 24)
  /-- RD_NC (R108). -/
  | rdNc (i : Ingress) (p : Packet)
  /-- RD_SHARED (R108). -/
  | rdShared (i : Ingress) (p : Packet)
  /-- RD_OWN (R108). -/
  | rdOwn (i : Ingress) (p : Packet)
  /-- UPGRADE (R108). -/
  | upgrade (i : Ingress) (p : Packet)
  /-- WR_NC (R108). -/
  | wrNc (i : Ingress) (p : Packet)
  /-- WR_FULL_NC (R108). -/
  | wrFullNc (i : Ingress) (p : Packet)
  /-- WR_BULK (R304). -/
  | wrBulk (i : Ingress) (p : Packet)
  /-- RD_BULK (R304). -/
  | rdBulk (i : Ingress) (p : Packet)
  /-- WB_DIRTY (R114). -/
  | wbDirty (i : Ingress) (p : Packet)
  /-- EVICT_CLEAN (R115). -/
  | evictClean (i : Ingress) (p : Packet)
  /-- ATOMIC (R119). -/
  | atomic (i : Ingress) (p : Packet)
  /-- SNP_RSP_I (R544). -/
  | snpRspI (i : Ingress) (p : Packet)
  /-- SNP_RSP_S (R544). -/
  | snpRspS (i : Ingress) (p : Packet)
  /-- SNP_RSP_WRITTEN_BACK (R114). -/
  | snpRspWrittenBack (i : Ingress) (p : Packet)
  /-- SNP_RSP_KEEP (R544). -/
  | snpRspKeep (i : Ingress) (p : Packet)
  /-- DATA_DIRTY (R544). -/
  | dataDirty (i : Ingress) (p : Packet)
  /-- DATA_WRITE (R544). -/
  | dataWrite (i : Ingress) (p : Packet)
  /-- DATA_CLEAN (R544). -/
  | dataClean (i : Ingress) (p : Packet)
  /-- CMP_ACK (R110). -/
  | cmpAck (i : Ingress) (p : Packet)
  /-- GRANT_M (R119). -/
  | grantM (i : Ingress) (p : Packet)
  /-- ATOMIC_RESULT (R121). -/
  | atomicResult (i : Ingress) (p : Packet)
  /-- FAIL (R82). -/
  | fail (i : Ingress) (p : Packet)
  /-- WB_DONE (R347). -/
  | wbDone (i : Ingress) (p : Packet)
  /-- SNOOP_TIMEOUT (R113). -/
  | snoopTimeout (line : LineNo)
  /-- RETRY_BACKOFF (R111). -/
  | retryBackoff (tag : Tag)
  /-- QP_DOORBELL (R130). -/
  | qpDoorbell (port : Bool) (word : BitVec 64)
  /-- DOORBELL (R130). -/
  | doorbell (i : Ingress) (p : Packet)
  /-- WRITE (R133). -/
  | write (pair : QpKey) (wr : BitVec 512)
  /-- READ (R133). -/
  | read (pair : QpKey) (wr : BitVec 512)
  /-- COPY (R145). -/
  | copy (pair : QpKey) (wr : BitVec 512)
  /-- QP_ATOMIC (R133). -/
  | qpAtomic (pair : QpKey) (wr : BitVec 512)
  /-- PENNANT_WRITE (R133). -/
  | pennantWrite (pair : QpKey) (wr : BitVec 512)
  /-- WAIT (R133). -/
  | wait (pair : QpKey) (wr : BitVec 512)
  /-- FLUSH (R133). -/
  | flush (pair : QpKey) (wr : BitVec 512)
  /-- SIGNAL (R133). -/
  | signal (pair : QpKey) (wr : BitVec 512)
  /-- ACK_TIMEOUT (R141). -/
  | ackTimeout (tag : Tag)
  /-- PEER_SLOT_REOPEN (R126). -/
  | peerSlotReopen (pair : QpKey) (peer : Ep)
  /-- QP_CLOSE (R138). -/
  | qpClose (i : Ingress) (p : Packet)
  /-- QP_CREATE (R125). -/
  | qpCreate (m : MgrRef) (qpn : BitVec 16) (context : BitVec 512)
  /-- QP_RESET (R142). -/
  | qpReset (m : MgrRef) (qpn : BitVec 16)
  /-- QP_DESTROY (R142). -/
  | qpDestroy (m : MgrRef) (qpn : BitVec 16)
  /-- QP_ABORT (R151). -/
  | qpAbort (m : Option MgrRef) (src : Ep) (qpn : BitVec 16) (wrIndex : BitVec 16)
  /-- ABORT_RESOLVE (R151). -/
  | abortResolve (pair : QpKey)
  /-- PIPE_CREATE (R187). -/
  | pipeCreate (m : MgrRef) (qpn : BitVec 16) (context : BitVec 512)
  /-- RENEW (R148). -/
  | renew (i : Ingress) (p : Packet)
  /-- RELEASE (R149). -/
  | release (i : Ingress) (p : Packet)
  /-- TRANSFER (R149). -/
  | transfer (i : Ingress) (p : Packet)
  /-- CLAIM (R149). -/
  | claim (i : Ingress) (p : Packet)
  /-- OWN_ANSWER (R150). -/
  | ownAnswer (i : Ingress) (p : Packet)
  /-- LEASE_RENEWAL (R148). -/
  | leaseRenewal (pair : QpKey)
  /-- LEASE_END (R149). -/
  | leaseEnd (pair : QpKey)
  /-- OWNER_LEASE_STOP (R148). -/
  | ownerLeaseStop (pair : QpKey)
  /-- KEY_RETIRE_DEADLINE (R146). -/
  | keyRetireDeadline (t : Tenant) (g : KeyGen)
  /-- KEY_SLOT_ZEROISE (R386). -/
  | keySlotZeroise (t : Tenant) (g : KeyGen)
  /-- KEY_RETIRE_TIMEOUT (R386). -/
  | keyRetireTimeout (t : Tenant) (g : KeyGen)
  /-- GROUP_ARM (R156). -/
  | groupArm (m : MgrRef) (record : BitVec 256)
  /-- GROUP_DISARM (R157). -/
  | groupDisarm (m : MgrRef) (group : BitVec 16)
  /-- COL_ABORT_COMMAND (R183). -/
  | colAbortCommand (m : MgrRef) (group : BitVec 16) (inst : BitVec 32)
  /-- COL_LAUNCH (R161). -/
  | colLaunch (h : HalfPort) (p : Packet)
  /-- COL_EXP (R166). -/
  | colExp (h : HalfPort) (p : Packet)
  /-- COL_EBCAST (R166). -/
  | colEbcast (h : HalfPort) (p : Packet)
  /-- COL_DATA (R175). -/
  | colData (h : HalfPort) (p : Packet)
  /-- COL_PARTIAL (R177). -/
  | colPartial (h : HalfPort) (p : Packet)
  /-- COL_COMMIT (R179). -/
  | colCommit (h : HalfPort) (p : Packet)
  /-- COL_RESULT (R180). -/
  | colResult (h : HalfPort) (p : Packet)
  /-- COL_ABORT_REQ (R183). -/
  | colAbortReq (h : HalfPort) (p : Packet)
  /-- COL_ABORT (R182). -/
  | colAbort (h : HalfPort) (p : Packet)
  /-- COL_ABORT_ANSWER (R183). -/
  | colAbortAnswer (h : HalfPort) (p : Packet)
  /-- COLLECTIVE_TIMEOUT (R184). -/
  | collectiveTimeout (group : GroupId)
  /-- RUN_PIPELINE (R188). -/
  | runPipeline (origin : Ep) (qpn : Qpn) (wr : BitVec 512)
  /-- PIPELINE_START (R194). -/
  | pipelineStart (sector : Sector)
  /-- PIPELINE_COMPLETE (R189). -/
  | pipelineComplete (pair : QpKey) (wrIndex : BitVec 16)
  /-- GATHER_BACKUP (R201). -/
  | gatherBackup (pair : QpKey) (wrIndex : BitVec 16) (stage : BitVec 3) (ordinal : BitVec 32)
  /-- SEARCH_SHARD (R236). -/
  | searchShard (i : Ingress) (p : Packet)
  /-- SEARCH_ANSWER (R237). -/
  | searchAnswer (i : Ingress) (p : Packet)
  /-- SEARCH_BACKUP (R238). -/
  | searchBackup (pair : QpKey) (wrIndex : BitVec 16) (shard : BitVec 8)
  /-- SIDE_APPEND (R221). -/
  | sideAppend (i : Ingress) (p : Packet)
  /-- INDEX_MERGE (R233). -/
  | indexMerge (m : MgrRef) (tenant : BitVec 16) (region : BitVec 32) (t : BitVec 64) (metric : BitVec 8)
  /-- SIDE_RECLAIM (R234). -/
  | sideReclaim (m : MgrRef) (tenant : BitVec 16) (side : BitVec 64) (r : BitVec 64) (indexes : List (BitVec 32))
  /-- FRB_ENCODE (R262). -/
  | frbEncode (m : MgrRef) (descriptor : BitVec 512)
  /-- LINK_DETECT (R311). -/
  | linkDetect (h : HalfPort)
  /-- EQUALIZE_DONE (R311). -/
  | equalizeDone (h : HalfPort) (good : Bool)
  /-- FRAME_LOCK (R290). -/
  | frameLock (h : HalfPort) (good : Bool)
  /-- CAP (R312). -/
  | cap (h : HalfPort) (c : CapMsg)
  /-- SESSION_HELLO (R394). -/
  | sessionHello (h : HalfPort) (c : HelloMsg)
  /-- SESSION_KEM (R394). -/
  | sessionKem (h : HalfPort) (ct : List Byte)
  /-- SESSION_FINISH (R394). -/
  | sessionFinish (h : HalfPort) (rsaSig : List Byte) (mldsaSig : List Byte)
  /-- CREDIT_INIT (R297). -/
  | creditInit (h : HalfPort) (credits : List (BitVec 14))
  /-- TIME (R482). -/
  | time (h : HalfPort) (c : TimeMsg)
  /-- REKEY (R316). -/
  | rekey (h : HalfPort)
  /-- REKEY_INTERVAL (R316). -/
  | rekeyInterval (h : HalfPort)
  /-- RATE_UP (R313). -/
  | rateUp (h : HalfPort) (good : Bool)
  /-- DOWN (R311). -/
  | down (h : HalfPort)
  /-- LINK_STATE_TIMEOUT (R311). -/
  | linkStateTimeout (h : HalfPort)
  /-- FRAME_LOCK_LOSS (R311). -/
  | frameLockLoss (h : HalfPort)
  /-- FLIT_RECEIVE (R293). -/
  | flitReceive (h : HalfPort) (f : Flit)
  /-- REPLAY_TIMEOUT (R294). -/
  | replayTimeout (h : HalfPort)
  /-- PORT_MODE (R289). -/
  | portMode (a : AgwenRef) (value : List Byte)
  /-- TRAY_DONE (R320). -/
  | trayDone (i : Ingress) (p : Packet)
  /-- MEM_RD (R322). -/
  | memRd (c : CxlReq)
  /-- MEM_WR (R322). -/
  | memWr (c : CxlReq)
  /-- MEM_WR_PTL (R322). -/
  | memWrPtl (c : CxlReq)
  /-- BI_RSP (R322). -/
  | biRsp (h : HalfPort) (tag : Tag) (state : BitVec 2) (data : List Byte)
  /-- PACKET_ADMIT (R332). -/
  | packetAdmit (i : Ingress) (vc : BitVec 3)
  /-- PACKET_DEPART (R362). -/
  | packetDepart (h : HalfPort)
  /-- ROUTE_WRITE (R344). -/
  | routeWrite (m : MgrRef) (first : BitVec 16) (count : BitVec 16) (entries : List (BitVec 64))
  /-- GROUP_WRITE (R344). -/
  | groupWrite (m : MgrRef) (first : BitVec 16) (count : BitVec 16) (entries : List (BitVec 128))
  /-- ROUTE_BANK_EMPTY (R346). -/
  | routeBankEmpty
  /-- STUCK_QUEUE (R355). -/
  | stuckQueue (h : HalfPort) (vc : BitVec 3)
  /-- QUEUE_PURGE (R356). -/
  | queuePurge (a : AgwenRef) (value : List Byte)
  /-- SAMPLER_N (R350). -/
  | samplerN (a : AgwenRef) (value : List Byte)
  /-- SAMPLE_RECORD (R353). -/
  | sampleRecord (a : AgwenRef)
  /-- RECONFIGURATION (R366). -/
  | reconfiguration (a : AgwenRef) (index : BitVec 16) (sub : BitVec 8) (value : List Byte)
  /-- POLICER_RELEASE (R368). -/
  | policerRelease (t : Tenant)
  /-- GATE_ARM (R373). -/
  | gateArm (a : AgwenRef) (value : List Byte)
  /-- GATE_TAKEOVER (R373). -/
  | gateTakeover (h : HalfPort)
  /-- GATE_ENTRY_CHANGE (R371). -/
  | gateEntryChange (h : HalfPort)
  /-- ATTEST_CHALLENGE (R389). -/
  | attestChallenge (a : AgwenRef) (value : List Byte)
  /-- EPHEMERAL_KEY_EXPIRY (R389). -/
  | ephemeralKeyExpiry
  /-- TENANT_ENROL (R391). -/
  | tenantEnrol (a : AgwenRef) (value : List Byte)
  /-- DEBUG_AUTHORISE (R400). -/
  | debugAuthorise (a : AgwenRef) (value : List Byte)
  /-- DEBUG_EXPIRY (R400). -/
  | debugExpiry
  /-- KEY_LOAD (R547). -/
  | keyLoad (m : MgrRef) (tenant : BitVec 16) (gen : BitVec 8)
  /-- KEY_ROTATE (R547). -/
  | keyRotate (m : MgrRef) (tenant : BitVec 16)
  /-- SWEEP_DONE (R388). -/
  | sweepDone (t : Tenant)
  /-- KEY_RETIRE (R547). -/
  | keyRetire (m : MgrRef) (tenant : BitVec 16) (gen : BitVec 8) (td : BitVec 64)
  /-- TENANT_REMOVE (R397). -/
  | tenantRemove (m : MgrRef) (tenant : BitVec 16) (td : BitVec 64)
  /-- REMOVAL_DEADLINE (R397). -/
  | removalDeadline (t : Tenant)
  /-- REMOVAL_WITHDRAW (R397). -/
  | removalWithdraw (t : Tenant)
  /-- FAULT_HEARTBEAT (R415). -/
  | faultHeartbeat (h : HalfPort)
  /-- HEARTBEAT_SEND (R415). -/
  | heartbeatSend
  /-- SILENT_NEIGHBOUR (R415). -/
  | silentNeighbour (ep : Ep)
  /-- FENCE_PROPOSE (R417). -/
  | fencePropose (h : HalfPort) (p : Packet)
  /-- FENCE_VOTE (R417). -/
  | fenceVote (p : Packet)
  /-- FENCE_VOTE_WINDOW (R417). -/
  | fenceVoteWindow (suspect : Ep) (proposer : Ep)
  /-- FENCE_COMMIT (R418). -/
  | fenceCommit (h : HalfPort) (p : Packet)
  /-- FENCE_ABANDON (R417). -/
  | fenceAbandon (h : HalfPort) (p : Packet)
  /-- FENCE_ENDPOINT (R417). -/
  | fenceEndpoint (a : AgwenRef) (value : List Byte)
  /-- PORT_FENCE (R420). -/
  | portFence (a : AgwenRef) (value : List Byte)
  /-- LINE_CLEAR (R411). -/
  | lineClear (a : AgwenRef) (value : List Byte)
  /-- OWN_MIRROR (R421). -/
  | ownMirror (i : Ingress) (p : Packet)
  /-- OWN_MIRROR_ACK (R421). -/
  | ownMirrorAck (i : Ingress) (p : Packet)
  /-- OWNERSHIP_BACKUP_EP (R421). -/
  | ownershipBackupEp (a : AgwenRef) (value : List Byte)
  /-- FAULT_RECORD (R405). -/
  | faultRecord (a : AgwenRef)
  /-- REQUEST_TIMEOUT (R407). -/
  | requestTimeout (src : Ep) (tag : Tag)
  /-- WATCHDOG (R408). -/
  | watchdog (core : WdCore)
  /-- UNIT_FAULT (R405). -/
  | unitFault (sector : Sector) (unitCode : UnitCode) (index : BitVec 4)
  /-- UNDERVOLTAGE (R426). -/
  | undervoltage
  /-- DRAIN_DONE (R426). -/
  | drainDone
  /-- METER_TAP_FLUSH (R434). -/
  | meterTapFlush (sector : Sector)
  /-- METER_TAP (R434). -/
  | meterTap (sector : Sector)
  /-- INTERVAL_END (R437). -/
  | intervalEnd
  /-- INTERVAL_LENGTH (R439). -/
  | intervalLength (a : AgwenRef) (value : List Byte)
  /-- FW_STAGE (R439). -/
  | fwStage (a : AgwenRef) (image : FwImage)
  /-- ENSIGN_FW_ACTIVATE (R439). -/
  | ensignFwActivate (a : AgwenRef) (value : List Byte)
  /-- AUTHORITY_KEYS (R439). -/
  | authorityKeys (a : AgwenRef) (value : List Byte)
  /-- RECORD_AT_CURSOR (R441). -/
  | recordAtCursor (a : AgwenRef)
  /-- ENSIGN_FINAL_RECORD (R440). -/
  | ensignFinalRecord
  /-- DTLS_HANDSHAKE (R445). -/
  | dtlsHandshake (c : DtlsMsg)
  /-- AGWEN_HELLO (R452). -/
  | agwenHello (a : AgwenRef) (versions : BitVec 8) (revLow : BitVec 16) (revHigh : BitVec 16) (role : BitVec 8)
  /-- BIND (R445). -/
  | bind (a : AgwenRef) (chain : List Byte) (sig : List Byte)
  /-- AGWEN_READ (R447). -/
  | agwenRead (a : AgwenRef) (index : BitVec 16) (sub : BitVec 8)
  /-- AGWEN_WRITE (R456). -/
  | agwenWrite (a : AgwenRef) (index : BitVec 16) (sub : BitVec 8) (value : List Byte)
  /-- COMPARE_WRITE (R456). -/
  | compareWrite (a : AgwenRef) (index : BitVec 16) (sub : BitVec 8) (expected : List Byte) (value : List Byte)
  /-- READ_SEG (R455). -/
  | readSeg (a : AgwenRef) (index : BitVec 16) (sub : BitVec 8) (offset : BitVec 64)
  /-- WRITE_SEG (R455). -/
  | writeSeg (a : AgwenRef) (index : BitVec 16) (sub : BitVec 8) (offset : BitVec 64) (final : Bool) (data : List Byte)
  /-- SEGMENT_TIMEOUT (R455). -/
  | segmentTimeout (session : Nat) (index : BitVec 16) (sub : BitVec 8)
  /-- SUBSCRIBE (R459). -/
  | subscribe (a : AgwenRef) (mask : BitVec 32)
  /-- EVENT_ACK (R459). -/
  | eventAck (a : AgwenRef) (event : BitVec 32)
  /-- EVENT_REPEAT (R459). -/
  | eventRepeat (session : Nat)
  /-- KEEPALIVE (R460). -/
  | keepalive (a : AgwenRef)
  /-- CLOSE (R460). -/
  | close (a : AgwenRef)
  /-- SESSION_IDLE (R460). -/
  | sessionIdle (session : Nat)
  /-- MGMT_PORT_TAKEOVER (R443). -/
  | mgmtPortTakeover (port : Bool)
  /-- DHCP_LEASE_EXPIRY (R444). -/
  | dhcpLeaseExpiry (v6 : Bool)
  /-- OWNER_CLAIM (R448). -/
  | ownerClaim (a : AgwenRef) (value : List Byte)
  /-- ROLE_ANCHORS (R449). -/
  | roleAnchors (a : AgwenRef) (value : List Byte)
  /-- RELEASE_RECORD (R448). -/
  | releaseRecord (a : AgwenRef) (value : List Byte)
  /-- HOST_TAKEOVER (R468). -/
  | hostTakeover (port : Bool) (value : BitVec 64)
  /-- MQ_DOORBELL (R472). -/
  | mqDoorbell (port : Bool) (queue : BitVec 3) (value : BitVec 64)
  /-- MQ_CONFIG (R472). -/
  | mqConfig (port : Bool) (queue : BitVec 3) (value : BitVec 64)
  /-- EQ_DOORBELL (R477). -/
  | eqDoorbell (port : Bool) (value : BitVec 64)
  /-- COMMAND_FETCH (R474). -/
  | commandFetch (queue : BitVec 3) (command : Option (BitVec 1024))
  /-- NOP (R473). -/
  | nop (m : MgrRef)
  /-- COMPLETION_RING_FULL (R472). -/
  | completionRingFull (port : Bool) (queue : BitVec 3)
  /-- PROGRESS_FREE (R463). -/
  | progressFree (n : BitVec 10)
  /-- VIOLATION_RECORD (R465). -/
  | violationRecord (a : AgwenRef)
  /-- TIME_SYNC (R482). -/
  | timeSync
  /-- PPS_IN (R485). -/
  | ppsIn (stamp : BitVec 64)
  /-- PPS_IN_LOST (R485). -/
  | ppsInLost
  /-- PPS_OUT (R485). -/
  | ppsOut
  /-- ZENITH_SET (R485). -/
  | zenithSet (a : AgwenRef) (value : List Byte)
  /-- SQUALL_TRIGGER (R488). -/
  | squallTrigger (a : AgwenRef) (value : List Byte)
  /-- SQUALL_PACKET (R490). -/
  | squallPacket (h : HalfPort) (p : Packet)
  /-- SQUALL (R492). -/
  | squall (update : Bool)
  /-- EXTEST (R492). -/
  | extest (value : BitVec 64)
  /-- SAMPLE_PRELOAD (R492). -/
  | samplePreload (value : BitVec 64)
  /-- IDCODE (R492). -/
  | idcode
  /-- SCAN_SELECT (R492). -/
  | scanSelect (chain : BitVec 8)
  /-- SCAN_READ (R492). -/
  | scanRead
  /-- BYPASS (R492). -/
  | bypass
  /-- SCAN_DATA (R493). -/
  | scanData (a : AgwenRef) (offset : BitVec 64)
  /-- HORIZON_CAPTURE (R494). -/
  | horizonCapture (a : AgwenRef) (value : List Byte)
  /-- HORIZON (R494). -/
  | horizon (h : HalfPort) (p : Packet)
  /-- HORIZON_LATCH (R495). -/
  | horizonLatch
  /-- HORIZON_READY (R496). -/
  | horizonReady
  /-- HORIZON_RELEASE (R496). -/
  | horizonRelease (a : AgwenRef) (value : List Byte)
  /-- COUNTER_PAGE (R487). -/
  | counterPage (t : Tenant)
  /-- POWER_UP (R503). -/
  | powerUp
  /-- RESET_RELEASE (R503). -/
  | resetRelease
  /-- REDUCED_SERVICE (R507). -/
  | reducedService
  /-- STACK_RETRAIN (R509). -/
  | stackRetrain (stack : Sector) (good : Bool)
  /-- CUMULUS_SELF_TEST (R509). -/
  | cumulusSelfTest (sector : Sector) (good : Bool)
  /-- FULL_SERVICE (R507). -/
  | fullService
  /-- FULL_TIMEOUT (R510). -/
  | fullTimeout
  /-- PARTITION_BOOT (R512). -/
  | partitionBoot (m : MgrRef) (partition : BitVec 8) (endpoint : BitVec 16) (epoch : BitVec 16) (count : BitVec 16) (composition : List (BitVec 32)) (fence : List Byte) (routes : List (BitVec 64)) (groups : List (BitVec 128)) (masks : List (BitVec 64))
  /-- FW_IMAGE (R516). -/
  | fwImage (a : AgwenRef) (image : FwImage)
  /-- FW_ACTIVATE (R518). -/
  | fwActivate (a : AgwenRef) (value : List Byte)
  /-- SELF_RESET (R518). -/
  | selfReset
  /-- FW_CONFIRM (R519). -/
  | fwConfirm (a : AgwenRef) (value : List Byte)
  /-- FW_ROLLBACK (R520). -/
  | fwRollback (a : AgwenRef) (value : List Byte)
  /-- RESET_N (R525). -/
  | resetN (low : Bool)
  /-- PERST_N (R508). -/
  | perstN (port : Bool) (asserted : Bool)
  /-- INPUT_LOSS (R526). -/
  | inputLoss
  /-- HOLDUP_TEST (R529). -/
  | holdupTest
  /-- HOLDUP_TEST_END (R528). -/
  | holdupTestEnd (charge : Nat) (droop : Nat)
  /-- HOLDUP_TEST_NOW (R529). -/
  | holdupTestNow (a : AgwenRef) (value : List Byte)
  /-- DOMAIN_ENABLE (R531). -/
  | domainEnable (a : AgwenRef) (value : List Byte)
  /-- DOMAIN_POWER_DOWN (R27). -/
  | domainPowerDown (domain : BitVec 7)
  /-- DOMAIN_WAKE (R27). -/
  | domainWake (domain : BitVec 7)
  /-- THERMAL_SAMPLE (R534). -/
  | thermalSample (die : BitVec 16) (stackTemps : List (BitVec 16))
  /-- REGISTER_WRITE (R456). -/
  | registerWrite (r : RegTarget)
  /-- CONTROL_MESSAGE_REPEAT (R312). -/
  | controlMessageRepeat (h : HalfPort)
  /-- REGULATOR_FAILURE (R404). -/
  | regulatorFailure (domain : BitVec 7)
  /-- DTLS_ALERT (R460). -/
  | dtlsAlert (session : Nat)
  /-- DHCP_LEASE (R444). -/
  | dhcpLease (v6 : Bool) (address : List Byte) (seconds : BitVec 32)
  /-- ARP_ND_ICMP_ECHO (R444). -/
  | arpNdIcmpEcho (q : NetQuery)
  /-- MGMT_LINK_UP (R443). -/
  | mgmtLinkUp (port : Bool)
  /-- CXL_TRAY_MEM_COMPLETION (R325). -/
  | cxlTrayMemCompletion (c : CxlTrayCpl)
  deriving DecidableEq, Repr

end Sys2Proof
end

