-- ==== Sys2Proof/Config.lean ====
section
/-! DEFINITION. Config.lean: what one module fixes, and the values the spec leaves open.  None has a body, so
nothing can be proved of its value; each is named in the assumption log (logs 6 and 9). -/

namespace Sys2Proof.Config

/-- AES-256 under a key, as a permutation of blocks (R315, R382, R383; log 6). -/
opaque aes256 : BitVec 256 → Equiv.Perm (BitVec 128)
/-- SHA-512 (R380, R390, R395; log 6). -/
opaque sha512 : List Byte → BitVec 512
/-- RSASSA-PSS verification: certificate, message, signature (R390; log 6). -/
opaque rsaVerify : List Byte → List Byte → List Byte → Bool
/-- ML-DSA-87 verification: certificate, message, signature (R390; log 6). -/
opaque mldsaVerify : List Byte → List Byte → List Byte → Bool
/-- The certificate at which a chain ends, if the chain is good (R396, R446; log 6). -/
opaque chainEnd : List Byte → Option (List Byte)
/-- The leaf certificate of a chain (R396; log 6). -/
opaque chainLeaf : List Byte → List Byte
/-- A signature by one of this module's private keys: key number, message (R390, R437; log 6). -/
opaque sign : Nat → List Byte → List Byte
/-- A fresh public key of this module: kind and how many were made before (R389, R394; log 6). -/
opaque freshPub : Nat → Nat → List Byte
/-- Fresh random bytes, such as a nonce (R394; log 6). -/
opaque fresh : Nat → List Byte
/-- ECDH secret of this module's key of the given number with a peer's key (R391, R395; log 6). -/
opaque ecdh : Nat → List Byte → List Byte
/-- ML-KEM secret from a ciphertext under this module's key of the given number (R391, R394; log 6). -/
opaque kemDecap : Nat → List Byte → List Byte
/-- ML-KEM ciphertext and secret that this module makes for a peer's key (R394; log 6). -/
opaque kemEncap : Nat → List Byte → List Byte × List Byte
/-- The secret of the physically unclonable function (R378; log 6). -/
opaque pufSecret : List Byte
/-- DEVICE_SERIAL (R379; log 6). -/
opaque deviceSerial : Word64
/-- METER_SERIAL (R432; log 6). -/
opaque meterSerial : Word64
/-- Certificate chains of the module: identity RSA and ML-DSA, Ensign RSA and ML-DSA (R379, R432). -/
opaque certs : Nat → List Byte
/-- Ednivon's device certificate authority, as an anchor pair (R396). -/
opaque ednivon : List Byte × List Byte
/-- The MAC address of a management port, derived from DEVICE_SERIAL (R443). -/
opaque macOf : Bool → List Byte
/-- Ednivon's service anchor pair (R447). -/
opaque service : List Byte × List Byte
/-- The metrology authority's key pair at manufacture (R431). -/
opaque metrology : List Byte × List Byte
/-- Ednivon's firmware-signing key pair (R502). -/
opaque fwKeys : List Byte × List Byte
/-- The boot firmware's bytes (R499). -/
opaque bootFirmware : List Byte
/-- A distance-table entry whose value the rule does not give: table values, subspace, centroid (R217; log 9). -/
opaque searchTable : List Nat → Nat → Nat → BitVec 16
/-- Silicon revision of DEVICE_ID (Table MGMT-11). -/
opaque siliconRevision : BitVec 16
/-- Ednivon's JEP106 code and version bits of IDCODE (R492). -/
opaque jep106 : BitVec 16
/-- Input power in mW, voltage in mV and current in mA that the senses read in a given ms (log 9). -/
opaque sense : Nat → Nat × Nat × Nat
/-- Load power of a domain in mW in a given ms (Table ELEC-9; log 9). -/
opaque domainPower : Nat → Nat → Nat
/-- Bit of a scan chain that no part of the model's state gives (R493; log 10). -/
opaque scanBit : Nat → Nat → Bool
/-- Length of a scan chain in bits (Table OBS-8; log 10). -/
opaque scanLength : Nat → Nat
/-- Pages of the version and page-map part of the system area whose bytes the spec does not place (log 7). -/
opaque sysByte : Nat → Byte
/-- Where the version and page-map part of the system area holds a region's version record (R55; log 7). -/
opaque versionRecAt : RegionId → Nat
/-- Whether a queue pair that another QF960 holds is privileged at a time: its packets do not say (R144; log 17). -/
opaque privilegedElsewhere (origin : Ep) (qpn : Qpn) (now : Nat) : Bool
/-- Whether the read of a stored packet's cells finds an error beyond correction (R357; log 9). -/
opaque cellFault : Nat → Bool
/-- Which stored word is found beyond correction while no command waits: its place (0: none) and its number (R409; log 9). -/
opaque worn : Nat → Nat × Nat
/-- A free value of the given number (log 9). -/
opaque freeValue : Nat → BitVec 64

end Sys2Proof.Config
end

