-- ==== Sys2Proof/Machine/Entries.lean ====
section
/-! DEFINITION. Machine/Entries.lean: the entries of the Agwen dictionary, table by table (R454, R461): index,
sub-index, type, access and world. -/

namespace Sys2Proof.Machine

/-- A value's type, in the order of R454. -/
inductive EntryType where
  | bool | enum | u8 | u16 | u32 | u64 | i64 | time | str | blob | signedRecord
  deriving DecidableEq, Repr, Inhabited

/-- An entry's access. -/
inductive EntryAccess where
  | ro | rw | wo | const
  deriving DecidableEq, Repr, Inhabited

/-- One entry. -/
structure Entry where
  index : BitVec 16 := 0
  sub : BitVec 8 := 0
  type : EntryType := .u8
  access : EntryAccess := .ro
  /-- world S -/
  secure : Bool := false
  deriving DecidableEq, Repr, Inhabited

/-- The revision that introduced an entry (R461): 2 for 0x5400 and 0x5600, else 1. -/
def Entry.revision (e : Entry) : Nat := if e.index = 0x5400 || e.index = 0x5600 then 2 else 1

/-- The code of a type (R461). -/
def EntryType.code : EntryType → Nat
  | .bool => 0 | .enum => 1 | .u8 => 2 | .u16 => 3 | .u32 => 4 | .u64 => 5 | .i64 => 6 | .time => 7 | .str => 8
  | .blob => 9 | .signedRecord => 10

/-- The code of an access (R461). -/
def EntryAccess.code : EntryAccess → Nat
  | .ro => 0 | .rw => 1 | .wo => 2 | .const => 3

/-- The bytes of a value of a type; none where they vary (R454). -/
def EntryType.width : EntryType → Option Nat
  | .bool | .enum | .u8 => some 1
  | .u16 => some 2
  | .u32 => some 4
  | .u64 | .i64 | .time => some 8
  | .str | .blob | .signedRecord => none

/-- Table POOL-14. -/
def entriesPool : List Entry := [
  ⟨0x4000, 0x01, .u32, .const, false⟩, ⟨0x4000, 0x02, .u32, .ro, false⟩,
  ⟨0x4000, 0x03, .u32, .ro, false⟩, ⟨0x4000, 0x04, .u32, .ro, false⟩,
  ⟨0x4000, 0x05, .bool, .ro, false⟩, ⟨0x4010, 0x00, .u16, .rw, false⟩,
  ⟨0x4010, 0x01, .u32, .rw, false⟩, ⟨0x4010, 0x02, .u32, .rw, false⟩,
  ⟨0x4010, 0x03, .u32, .rw, false⟩, ⟨0x4010, 0x04, .u32, .ro, false⟩,
  ⟨0x4010, 0x05, .u32, .ro, false⟩, ⟨0x4010, 0x06, .u32, .ro, false⟩,
  ⟨0x4020, 0x01, .u8, .rw, false⟩, ⟨0x4020, 0x02, .time, .rw, false⟩,
  ⟨0x4020, 0x03, .time, .rw, false⟩, ⟨0x4030, 0x01, .u8, .rw, false⟩,
  ⟨0x4030, 0x02, .u8, .rw, false⟩, ⟨0x4030, 0x03, .u8, .rw, false⟩]

/-- Table COH-11. -/
def entriesCoh : List Entry := [
  ⟨0x4040, 0x01, .time, .rw, false⟩, ⟨0x4040, 0x02, .bool, .rw, false⟩,
  ⟨0x4040, 0x03, .bool, .rw, false⟩, ⟨0x4040, 0x04, .u32, .ro, false⟩,
  ⟨0x4040, 0x05, .u32, .ro, false⟩, ⟨0x4040, 0x06, .u64, .ro, false⟩,
  ⟨0x4040, 0x07, .u32, .ro, false⟩]

/-- Table COPY-15. -/
def entriesCopy : List Entry := [
  ⟨0x5100, 0x01, .time, .rw, false⟩, ⟨0x5100, 0x02, .u8, .const, false⟩,
  ⟨0x5100, 0x03, .time, .const, false⟩, ⟨0x5100, 0x04, .time, .const, false⟩,
  ⟨0x5100, 0x05, .u32, .ro, false⟩, ⟨0x5100, 0x06, .u64, .ro, false⟩,
  ⟨0x5100, 0x07, .u16, .ro, true⟩, ⟨0x5100, 0x08, .u32, .ro, false⟩,
  ⟨0x5100, 0x09, .u64, .ro, false⟩, ⟨0x5100, 0x0A, .u64, .ro, false⟩,
  ⟨0x5100, 0x0B, .u64, .ro, false⟩]

/-- Table CUM-13. -/
def entriesCum : List Entry := [
  ⟨0x5200, 0x01, .bool, .ro, false⟩, ⟨0x5200, 0x02, .time, .rw, false⟩,
  ⟨0x5200, 0x03, .u16, .ro, false⟩, ⟨0x5200, 0x04, .u32, .ro, false⟩,
  ⟨0x5200, 0x05, .u64, .ro, false⟩, ⟨0x5200, 0x06, .u64, .ro, false⟩,
  ⟨0x5200, 0x07, .u64, .ro, false⟩, ⟨0x5200, 0x08, .u64, .ro, false⟩]

/-- Table GATH-13. -/
def entriesGath : List Entry := [
  ⟨0x5300, 0x01, .u8, .rw, false⟩, ⟨0x5300, 0x02, .u16, .rw, false⟩,
  ⟨0x5300, 0x03, .u8, .rw, false⟩, ⟨0x5300, 0x04, .u32, .ro, false⟩,
  ⟨0x5300, 0x05, .u16, .ro, false⟩, ⟨0x5300, 0x06, .u64, .ro, false⟩,
  ⟨0x5300, 0x07, .u64, .ro, false⟩, ⟨0x5300, 0x08, .u64, .ro, false⟩,
  ⟨0x5300, 0x09, .u64, .ro, false⟩]

/-- Table SRCH-12. -/
def entriesSrch : List Entry := [
  ⟨0x5400, 0x01, .u8, .rw, false⟩, ⟨0x5400, 0x02, .u16, .rw, false⟩,
  ⟨0x5400, 0x03, .u8, .rw, false⟩, ⟨0x5400, 0x04, .u64, .ro, false⟩,
  ⟨0x5400, 0x05, .u64, .ro, false⟩, ⟨0x5400, 0x06, .u64, .ro, false⟩,
  ⟨0x5400, 0x07, .u64, .ro, false⟩, ⟨0x5400, 0x08, .u64, .ro, false⟩,
  ⟨0x5400, 0x09, .u8, .ro, false⟩]

/-- Table FRB-12. -/
def entriesFrb : List Entry := [
  ⟨0x5500, 0x01, .u64, .ro, false⟩, ⟨0x5500, 0x02, .u64, .ro, false⟩,
  ⟨0x5500, 0x03, .u64, .ro, false⟩, ⟨0x5500, 0x04, .u64, .ro, false⟩,
  ⟨0x5500, 0x05, .u64, .ro, false⟩, ⟨0x5500, 0x06, .u64, .ro, false⟩]

/-- Table MATX-8. -/
def entriesMatx : List Entry := [
  ⟨0x5600, 0x01, .u64, .ro, false⟩, ⟨0x5600, 0x02, .u64, .ro, false⟩,
  ⟨0x5600, 0x03, .u64, .ro, false⟩, ⟨0x5600, 0x04, .u32, .ro, false⟩,
  ⟨0x5600, 0x05, .u64, .ro, false⟩, ⟨0x5600, 0x06, .u64, .ro, false⟩]

/-- Table LINK-13. -/
def entriesLink : List Entry := [
  ⟨0x3000, 0x00, .u8, .rw, false⟩, ⟨0x3000, 0x01, .enum, .rw, false⟩,
  ⟨0x3000, 0x02, .enum, .rw, false⟩, ⟨0x3000, 0x03, .enum, .ro, false⟩,
  ⟨0x3000, 0x04, .enum, .ro, false⟩, ⟨0x3000, 0x05, .u8, .ro, false⟩,
  ⟨0x3000, 0x06, .u16, .ro, false⟩, ⟨0x3000, 0x07, .enum, .ro, false⟩,
  ⟨0x3000, 0x08, .bool, .ro, false⟩, ⟨0x3000, 0x09, .u64, .ro, false⟩,
  ⟨0x3000, 0x0A, .u64, .ro, false⟩, ⟨0x3000, 0x0B, .u64, .ro, false⟩,
  ⟨0x3000, 0x0C, .u64, .ro, false⟩, ⟨0x3000, 0x0D, .u64, .ro, false⟩,
  ⟨0x3000, 0x0E, .enum, .ro, false⟩, ⟨0x3000, 0x0F, .u64, .ro, false⟩,
  ⟨0x3010, 0x01, .time, .rw, false⟩, ⟨0x3010, 0x02, .u64, .rw, true⟩,
  ⟨0x3010, 0x03, .bool, .rw, true⟩, ⟨0x3010, 0x04, .u8, .rw, false⟩,
  ⟨0x3010, 0x05, .u8, .rw, false⟩]

/-- Table CORE-7. -/
def entriesCore : List Entry := [
  ⟨0x3100, 0x01, .u32, .const, false⟩, ⟨0x3100, 0x02, .u32, .ro, false⟩,
  ⟨0x3100, 0x03, .u32, .rw, false⟩, ⟨0x3100, 0x04, .time, .rw, false⟩,
  ⟨0x3100, 0x05, .u32, .ro, false⟩, ⟨0x3100, 0x06, .u32, .ro, false⟩,
  ⟨0x3100, 0x07, .u64, .ro, false⟩, ⟨0x3100, 0x08, .u64, .ro, false⟩,
  ⟨0x3100, 0x09, .u64, .ro, false⟩, ⟨0x3100, 0x0A, .u64, .ro, false⟩,
  ⟨0x3101, 0x00, .u8, .rw, false⟩, ⟨0x3101, 0x01, .u8, .rw, false⟩,
  ⟨0x3101, 0x02, .u8, .rw, false⟩, ⟨0x3101, 0x03, .u8, .rw, false⟩,
  ⟨0x3101, 0x04, .u8, .rw, false⟩, ⟨0x3101, 0x05, .u8, .rw, false⟩,
  ⟨0x3101, 0x06, .u8, .rw, false⟩, ⟨0x3101, 0x07, .u8, .rw, false⟩,
  ⟨0x3110, 0x00, .u8, .rw, false⟩, ⟨0x3110, 0x01, .u8, .rw, false⟩,
  ⟨0x3110, 0x02, .u32, .ro, false⟩, ⟨0x3110, 0x03, .time, .ro, false⟩,
  ⟨0x3110, 0x04, .u8, .wo, false⟩, ⟨0x3110, 0x05, .u64, .ro, false⟩,
  ⟨0x8100, 0x00, .u8, .rw, false⟩, ⟨0x8100, 0x01, .u16, .rw, false⟩,
  ⟨0x8100, 0x02, .enum, .rw, false⟩, ⟨0x8100, 0x03, .u8, .rw, false⟩,
  ⟨0x8100, 0x04, .u8, .rw, false⟩, ⟨0x8100, 0x05, .u8, .rw, false⟩,
  ⟨0x8100, 0x06, .u64, .ro, false⟩, ⟨0x8100, 0x07, .u64, .ro, false⟩,
  ⟨0x8101, 0x01, .blob, .ro, false⟩]

/-- Table SCHED-5. -/
def entriesSched : List Entry := [
  ⟨0x3200, 0x00, .u8, .rw, false⟩, ⟨0x3200, 0x01, .enum, .rw, false⟩,
  ⟨0x3200, 0x02, .u32, .rw, false⟩, ⟨0x3200, 0x03, .u32, .rw, false⟩,
  ⟨0x3200, 0x04, .u32, .rw, false⟩, ⟨0x3200, 0x05, .u8, .rw, false⟩,
  ⟨0x3200, 0x06, .enum, .rw, false⟩, ⟨0x3200, 0x07, .i64, .ro, false⟩,
  ⟨0x3201, 0x01, .u32, .rw, false⟩, ⟨0x3201, 0x02, .u32, .rw, false⟩,
  ⟨0x3201, 0x03, .u8, .rw, false⟩, ⟨0x3201, 0x04, .enum, .rw, false⟩,
  ⟨0x3201, 0x05, .u8, .rw, false⟩, ⟨0x3210, 0x01, .u16, .ro, false⟩,
  ⟨0x3210, 0x02, .time, .ro, false⟩, ⟨0x3210, 0x03, .blob, .rw, false⟩,
  ⟨0x3210, 0x04, .u16, .rw, false⟩, ⟨0x3210, 0x05, .time, .rw, false⟩,
  ⟨0x3210, 0x06, .time, .rw, false⟩, ⟨0x3210, 0x07, .bool, .wo, false⟩,
  ⟨0x3210, 0x08, .enum, .ro, false⟩, ⟨0x3210, 0x09, .u64, .ro, false⟩,
  ⟨0x3220, 0x00, .u16, .rw, false⟩, ⟨0x3220, 0x01, .u32, .rw, false⟩,
  ⟨0x3220, 0x02, .u32, .rw, false⟩, ⟨0x3220, 0x03, .u8, .rw, false⟩,
  ⟨0x3220, 0x04, .enum, .rw, false⟩, ⟨0x3220, 0x05, .u8, .rw, false⟩,
  ⟨0x3220, 0x06, .u8, .rw, false⟩, ⟨0x3220, 0x07, .bool, .ro, false⟩,
  ⟨0x3220, 0x08, .u64, .ro, false⟩, ⟨0x3230, 0x01, .u8, .rw, false⟩]

/-- Table SEC-8. -/
def entriesSec : List Entry := [
  ⟨0x6000, 0x01, .u64, .const, false⟩, ⟨0x6000, 0x02, .blob, .const, false⟩,
  ⟨0x6000, 0x03, .blob, .const, false⟩, ⟨0x6010, 0x01, .blob, .wo, false⟩,
  ⟨0x6010, 0x02, .signedRecord, .ro, false⟩, ⟨0x6010, 0x03, .blob, .wo, false⟩,
  ⟨0x6010, 0x04, .u8, .ro, false⟩, ⟨0x6010, 0x05, .time, .rw, true⟩,
  ⟨0x6020, 0x00, .u16, .rw, false⟩, ⟨0x6020, 0x01, .u8, .ro, false⟩,
  ⟨0x6020, 0x02, .u8, .ro, false⟩, ⟨0x6020, 0x03, .u8, .ro, false⟩,
  ⟨0x6020, 0x04, .bool, .ro, false⟩, ⟨0x6020, 0x05, .bool, .ro, false⟩,
  ⟨0x6030, 0x01, .u64, .ro, false⟩, ⟨0x6030, 0x02, .u64, .ro, false⟩,
  ⟨0x6030, 0x03, .u64, .ro, false⟩, ⟨0x6030, 0x04, .u64, .ro, false⟩,
  ⟨0x6030, 0x05, .u64, .ro, false⟩, ⟨0x6040, 0x01, .blob, .rw, true⟩,
  ⟨0x6040, 0x02, .time, .rw, true⟩, ⟨0x6040, 0x03, .enum, .ro, false⟩,
  ⟨0x6040, 0x04, .blob, .ro, false⟩, ⟨0x6050, 0x01, .u64, .ro, false⟩,
  ⟨0x6050, 0x02, .u64, .ro, false⟩, ⟨0x6050, 0x03, .u64, .ro, false⟩,
  ⟨0x6051, 0x01, .u64, .ro, true⟩, ⟨0x6051, 0x02, .u64, .ro, true⟩,
  ⟨0x6051, 0x03, .u64, .ro, true⟩]

/-- Table FAULT-8. -/
def entriesFault : List Entry := [
  ⟨0x2100, 0x01, .enum, .ro, false⟩, ⟨0x2100, 0x02, .u8, .ro, false⟩,
  ⟨0x2100, 0x03, .u32, .rw, false⟩, ⟨0x2100, 0x04, .u32, .ro, false⟩,
  ⟨0x2100, 0x05, .time, .ro, false⟩, ⟨0x2100, 0x06, .u64, .ro, false⟩,
  ⟨0x3000, 0x10, .bool, .rw, false⟩, ⟨0x8200, 0x01, .enum, .rw, false⟩,
  ⟨0x8200, 0x02, .blob, .ro, false⟩, ⟨0x8200, 0x03, .u64, .ro, false⟩,
  ⟨0x8200, 0x04, .time, .rw, false⟩, ⟨0x8200, 0x05, .time, .rw, false⟩,
  ⟨0x8200, 0x06, .u8, .rw, false⟩, ⟨0x8200, 0x07, .time, .const, false⟩,
  ⟨0x8200, 0x08, .u16, .wo, false⟩, ⟨0x8200, 0x09, .u64, .ro, false⟩,
  ⟨0x8200, 0x0A, .u16, .rw, false⟩, ⟨0x8200, 0x0B, .blob, .wo, false⟩,
  ⟨0x8200, 0x0C, .u32, .ro, false⟩, ⟨0x8200, 0x0D, .u32, .ro, false⟩,
  ⟨0x8200, 0x0E, .u64, .ro, false⟩, ⟨0x8200, 0x0F, .u16, .wo, false⟩,
  ⟨0x8200, 0x10, .u64, .ro, false⟩, ⟨0x8200, 0x11, .time, .rw, false⟩]

/-- Table ENS-6. -/
def entriesEns : List Entry := [
  ⟨0x7000, 0x01, .u64, .const, false⟩, ⟨0x7000, 0x02, .u32, .ro, false⟩,
  ⟨0x7000, 0x03, .blob, .ro, false⟩, ⟨0x7000, 0x04, .u32, .ro, false⟩,
  ⟨0x7000, 0x05, .blob, .const, false⟩, ⟨0x7000, 0x06, .u64, .ro, false⟩,
  ⟨0x7000, 0x07, .u16, .ro, false⟩, ⟨0x7010, 0x01, .time, .rw, false⟩,
  ⟨0x7010, 0x02, .u64, .ro, false⟩, ⟨0x7010, 0x03, .u64, .ro, false⟩,
  ⟨0x7010, 0x04, .signedRecord, .ro, false⟩, ⟨0x7010, 0x05, .u8, .ro, false⟩,
  ⟨0x7020, 0x01, .blob, .wo, false⟩, ⟨0x7020, 0x02, .bool, .wo, false⟩,
  ⟨0x7020, 0x03, .enum, .ro, false⟩, ⟨0x7020, 0x04, .blob, .wo, false⟩,
  ⟨0x1100, 0x01, .u64, .rw, false⟩]

/-- Table MGMT-7. -/
def entriesMgmt : List Entry := [
  ⟨0x1000, 0x01, .str, .const, false⟩, ⟨0x1000, 0x02, .u8, .const, false⟩,
  ⟨0x1000, 0x03, .blob, .ro, false⟩, ⟨0x1000, 0x04, .u8, .ro, false⟩,
  ⟨0x1000, 0x05, .enum, .ro, false⟩, ⟨0x1010, 0x01, .enum, .rw, false⟩,
  ⟨0x1010, 0x02, .blob, .rw, false⟩, ⟨0x1010, 0x03, .blob, .rw, false⟩,
  ⟨0x1010, 0x04, .u16, .rw, false⟩, ⟨0x1010, 0x05, .enum, .ro, false⟩,
  ⟨0x1020, 0x01, .blob, .wo, false⟩, ⟨0x1020, 0x02, .blob, .rw, true⟩,
  ⟨0x8010, 0x00, .u16, .rw, false⟩, ⟨0x8010, 0x01, .blob, .ro, false⟩,
  ⟨0x8020, 0x01, .blob, .ro, true⟩, ⟨0x8020, 0x02, .u64, .ro, false⟩]

/-- Table OBS-8. -/
def entriesObs : List Entry := [
  ⟨0x8300, 0x01, .time, .ro, false⟩, ⟨0x8300, 0x02, .enum, .ro, false⟩,
  ⟨0x8300, 0x03, .u8, .rw, false⟩, ⟨0x8300, 0x04, .time, .rw, false⟩,
  ⟨0x8300, 0x05, .i64, .ro, false⟩, ⟨0x8300, 0x06, .u32, .ro, false⟩,
  ⟨0x8300, 0x07, .time, .wo, false⟩, ⟨0x8300, 0x08, .bool, .rw, false⟩,
  ⟨0x8300, 0x09, .bool, .rw, false⟩, ⟨0x8300, 0x0A, .enum, .ro, false⟩,
  ⟨0x8300, 0x0B, .u64, .ro, false⟩, ⟨0x8300, 0x0C, .u64, .ro, false⟩,
  ⟨0x8301, 0x01, .i64, .rw, false⟩, ⟨0x8310, 0x01, .bool, .wo, false⟩,
  ⟨0x8310, 0x02, .enum, .ro, false⟩, ⟨0x8310, 0x03, .bool, .rw, false⟩,
  ⟨0x8310, 0x04, .bool, .rw, false⟩, ⟨0x8310, 0x05, .u16, .rw, false⟩,
  ⟨0x8310, 0x06, .time, .ro, false⟩, ⟨0x8310, 0x07, .enum, .ro, false⟩,
  ⟨0x8311, 0x00, .u8, .rw, false⟩, ⟨0x8311, 0x01, .u32, .ro, false⟩,
  ⟨0x8311, 0x02, .blob, .ro, false⟩, ⟨0x8311, 0x03, .bool, .rw, false⟩,
  ⟨0x8320, 0x01, .time, .wo, false⟩, ⟨0x8320, 0x02, .bool, .rw, false⟩,
  ⟨0x8320, 0x03, .enum, .ro, false⟩, ⟨0x8320, 0x04, .blob, .ro, false⟩,
  ⟨0x8320, 0x05, .bool, .wo, false⟩, ⟨0x8330, 0x01, .u64, .rw, false⟩,
  ⟨0x8330, 0x02, .u64, .ro, false⟩]

/-- Table BOOT-7. -/
def entriesBoot : List Entry := [
  ⟨0x9000, 0x01, .enum, .ro, false⟩, ⟨0x9000, 0x02, .enum, .ro, false⟩,
  ⟨0x9000, 0x03, .bool, .ro, false⟩, ⟨0x9000, 0x04, .u32, .ro, false⟩,
  ⟨0x9000, 0x05, .u32, .ro, false⟩, ⟨0x9000, 0x06, .u16, .ro, false⟩,
  ⟨0x9000, 0x07, .time, .ro, false⟩, ⟨0x9010, 0x01, .blob, .wo, false⟩,
  ⟨0x9010, 0x02, .enum, .ro, false⟩, ⟨0x9010, 0x03, .bool, .wo, false⟩,
  ⟨0x9010, 0x04, .bool, .wo, false⟩, ⟨0x9010, 0x05, .bool, .wo, false⟩,
  ⟨0x9010, 0x06, .enum, .ro, false⟩, ⟨0x9010, 0x07, .bool, .rw, true⟩,
  ⟨0x9020, 0x01, .blob, .ro, false⟩]

/-- Table ELEC-9. -/
def entriesElec : List Entry := [
  ⟨0x2000, 0x01, .u32, .ro, false⟩, ⟨0x2000, 0x02, .u32, .ro, true⟩,
  ⟨0x2000, 0x03, .u32, .ro, false⟩, ⟨0x2000, 0x04, .u32, .ro, true⟩,
  ⟨0x2001, 0x00, .u8, .rw, false⟩, ⟨0x2001, 0x01, .bool, .rw, false⟩,
  ⟨0x2001, 0x02, .enum, .ro, false⟩, ⟨0x2001, 0x03, .u32, .ro, true⟩,
  ⟨0x2002, 0x01, .u16, .ro, false⟩, ⟨0x2002, 0x02, .u16, .rw, false⟩,
  ⟨0x2002, 0x03, .u16, .ro, false⟩, ⟨0x2002, 0x04, .enum, .ro, false⟩,
  ⟨0x2002, 0x05, .u64, .ro, false⟩, ⟨0x2010, 0x01, .time, .rw, false⟩,
  ⟨0x2010, 0x02, .bool, .wo, false⟩, ⟨0x2010, 0x03, .u32, .ro, false⟩,
  ⟨0x2010, 0x04, .time, .ro, false⟩]

/-- The release record of Ednivon's service (R448). -/
def entriesService : List Entry := [⟨0xF000, 0x01, .blob, .wo, false⟩]

/-- Every entry, in the order of its index and sub-index within each table. -/
def entries : List Entry :=
  entriesPool ++ entriesCoh ++ entriesCopy ++ entriesCum ++ entriesGath ++ entriesSrch ++ entriesFrb ++ entriesMatx ++ entriesLink ++ entriesCore ++ entriesSched ++ entriesSec ++ entriesFault ++ entriesEns ++ entriesMgmt ++ entriesObs ++ entriesBoot ++ entriesElec ++ entriesService

/-- The entry at an index and sub-index. -/
def entryAt (index : BitVec 16) (sub : BitVec 8) : Option Entry :=
  entries.find? (fun e => e.index = index && e.sub = sub)

/-- An entry that each session holds for itself (R457): a *_SELECT, or any of 0x1100. -/
def perSession (index : BitVec 16) (sub : BitVec 8) : Bool :=
  index = 0x1100 || (sub = 0 && index != 0x3101)

end Sys2Proof.Machine
end

