-- ==== Sys2Proof/Machine/PoolParts.lean ====
section
/-! DEFINITION. Machine/PoolParts.lean: the parts of the state that The Memory Pool names: the home extent
map, withdrawals and moves, tier-0 frames, hot pages, Cirrus, quotas, versions and the edge's tenant records
(R31 to R68, R539 to R542). -/

namespace Sys2Proof.Machine

/-- STATE of a home extent map entry (Table POOL-4). -/
inductive ExtState where
  | free | assigned | withdrawing | scrubbing | moved
  deriving DecidableEq, Repr, Inhabited

/-- A home extent map entry (Table POOL-4, R41), with the lost flag of Table FAULT-3. -/
structure Extent where
  state : ExtState := .free
  prot : Bool := false
  sealedX : Bool := false
  versioned : Bool := false
  trayEp : Ep := 0
  trayExtent : BitVec 13 := 0
  t0Frame : BitVec 12 := 0xFFF
  cirrusEp : Ep := 0
  cirrusExtent : BitVec 16 := 0
  cirrusValid : Bool := false
  tenant : Tenant := 0
  region : RegionId := 0
  newHome : Ep := 0
  /-- the entry cannot be read (Table FAULT-3): its requests fail UNCORRECTABLE -/
  lost : Bool := false
  /-- a version-reserve extent of the key tenant (R53, R55) -/
  reserve : Bool := false
  deriving DecidableEq, Repr, Inhabited

/-- A withdrawal of a slot, or its stopped scrub (R43 to R46, R542). -/
structure Withdrawal where
  tw : Nat := 0
  /-- Tw has passed and the slot is WITHDRAWING or beyond -/
  effective : Bool := false
  /-- home lines ordered before Tw and still incomplete -/
  drainEnd : Nat := 0
  discarded : Bool := false
  /-- lines confirmed by the tray -/
  scrubPos : Nat := 0
  /-- tag, lines and send time of the outstanding TRAY_FILL -/
  fill : Option (Tag × Nat × Nat) := none
  stopped : Bool := false
  cmd : Option MgrRef := none
  progress : Option Nat := none
  removal : Bool := false
  /-- the cached lines are being recalled (R117) -/
  recalling : Bool := false
  deriving DecidableEq, Repr, Inhabited

/-- A move in progress (R60). -/
structure Move where
  newHome : Ep := 0
  newSlot : Slot := 0
  cmd : Option MgrRef := none
  progress : Option Nat := none
  pass : Nat := 0
  /-- next page of the first pass -/
  pos : Nat := 0
  /-- pages still to copy in this pass, the page being copied first -/
  todo : List Nat := []
  /-- pages written since they were last copied -/
  dirty : List Nat := []
  copied : Nat := 0
  blocked : Bool := false
  recalled : Bool := false
  /-- writes held by step 2, each with its payload's packet if it has one -/
  held : List (Packet × Option Packet) := []
  deriving DecidableEq, Repr, Inhabited

/-- A line as a tier stores it: 64 bytes of ciphertext and the 8 sideband bytes (R382, R383). -/
structure StoredLine where
  data : Line := 0
  side : Word64 := 0
  deriving DecidableEq, Repr, Inhabited

/-- A tier-0 frame in use: the slot it copies and the next line to fill (R49). -/
structure Frame where
  slot : Slot := 0
  fillPos : Nat := 0
  progress : Option Nat := none
  /-- pages that failed once and were remapped to spare rows (R409) -/
  badPages : List Nat := []
  deriving DecidableEq, Repr, Inhabited

/-- A hot-page replica (R65, R66): the home page, its place in the hot-page area, the stored lines copied so far by
line in page, and its last use. -/
structure HotPage where
  page : BitVec 34 := 0
  slot : Nat := 0
  lines : Tbl StoredLine := []
  lastUse : Nat := 0
  deriving DecidableEq, Repr, Inhabited

/-- A registered Cirrus extent (R51). -/
structure CirrusReg where
  lender : Ep := 0
  extent : BitVec 16 := 0
  /-- the slot whose replica it holds, if any -/
  slot : Option Slot := none
  deriving DecidableEq, Repr, Inhabited

/-- A replica being written (R51). -/
structure Replication where
  slot : Slot := 0
  lender : Ep := 0
  extent : BitVec 16 := 0
  pos : Nat := 0
  cmd : Option MgrRef := none
  progress : Option Nat := none
  deriving DecidableEq, Repr, Inhabited

/-- A reclaim not yet acknowledged (R52). -/
structure Reclaim where
  lender : Ep := 0
  exts : List (BitVec 16) := []
  tag : Tag := 0
  /-- its class, which its answer bears (R359) -/
  tc : BitVec 3 := 0
  since : Nat := 0
  deriving DecidableEq, Repr, Inhabited

/-- Per-tenant quotas and usage at this home (R53). -/
structure Quota where
  q0 : BitVec 32 := 0
  q1 : BitVec 32 := 0
  q2 : BitVec 32 := 0
  u0 : Nat := 0
  u1 : Nat := 0
  u2 : Nat := 0
  deriving DecidableEq, Repr, Inhabited

/-- An extent command that waits for a withdrawal to end (R540). -/
inductive ExtCmd where
  | assign (tray trayExtent tenant : BitVec 16) (region : BitVec 32) (flags : BitVec 8)
  | withdraw (tw : BitVec 64)
  | move (newHome : BitVec 16) (newSlot : BitVec 32)
  | placeT0
  | replicate (lender extent : BitVec 16)
  | restore (entry : BitVec 128)
  deriving DecidableEq, Repr, Inhabited

/-- The pool at this home (Tables POOL-4, POOL-8, POOL-14). -/
structure Pool where
  extents : Tbl Extent := []
  withdrawals : Tbl Withdrawal := []
  moves : Tbl Move := []
  /-- slots that another home's move has begun to fill, until the next map epoch (R517) -/
  incoming : List Slot := []
  waiting : List (Slot × MgrRef × ExtCmd) := []
  /-- EXTENT_RESTORE commands whose image is being read -/
  restoring : List (Slot × MgrRef) := []
  frames : Tbl Frame := []
  t0Lines : Tbl StoredLine := []
  hotPages : List HotPage := []
  hot : List SkewResource := []
  sampled : List (SkewResource × List LineNo) := []
  cirrus : List CirrusReg := []
  replications : List Replication := []
  reclaims : List Reclaim := []
  quotas : Tbl Quota := []
  short : Bool := false
  skewThreshold : BitVec 8 := 48
  skewHold : BitVec 64 := 1000000
  skewIdle : BitVec 64 := 10000000
  highMark : BitVec 8 := 5
  lowMark : BitVec 8 := 10
  creditFraction : BitVec 8 := 25
  /-- last write time of pages the guard watches -/
  pageWrites : Tbl Nat := []
  deriving DecidableEq, Repr, Inhabited

/-- The version record of a versioned region at its record home (Table POOL-11, R55), with its page
maps (slot and draft) and the fold in progress (R59). -/
structure VersionRec where
  versions : List (BitVec 64) := [1, 0, 0, 0]
  draftBase : List (BitVec 64) := [0, 0, 0, 0]
  current : BitVec 64 := 1
  readers : List (BitVec 16) := [0, 0, 0, 0]
  draftOpen : BitVec 4 := 0
  slotValid : BitVec 4 := 1
  currentSlot : BitVec 2 := 0
  /-- page-map addresses of slots and drafts -/
  mapSlot : List (BitVec 46) := [0, 0, 0, 0]
  mapDraft : List (BitVec 46) := [0, 0, 0, 0]
  lost : Bool := false
  /-- non-zero page-map entries of slots 0 to 3 and drafts 0 to 3: region page to copy-on-write page -/
  maps : List (Tbl (BitVec 32)) := [[], [], [], [], [], [], [], []]
  /-- copy-on-write pages whose last reader is still to finish (R59 step 3) -/
  freeing : List (BitVec 32) := []
  folding : Bool := false
  foldDone : Nat := 0
  foldTotal : Nat := 0
  /-- the region page being copied back, with the copy-on-write page it comes from -/
  foldPage : Option (Nat × BitVec 32) := none
  progress : Option Nat := none
  deriving DecidableEq, Repr, Inhabited

/-- The versioned regions homed here and the creating tenants' version-reserve pages (R53, R55). -/
structure Versions where
  recs : Tbl VersionRec := []
  /-- copy-on-write pages in use, by entry value -/
  cowUsed : Tbl (Tenant × RegionId) := []
  deriving DecidableEq, Repr, Inhabited

end Sys2Proof.Machine
end

