-- ==== Sys2Proof/Machine/OrderParts.lean ====
section
/-! DEFINITION. Machine/OrderParts.lean: the parts of the state that Ordering and Visibility, Coherence at
the Home, and the edge sections of Switch Core and Buffering name: translation caches, streams, hazards,
open requests, registered waits, reassembly, the directory, blocked lines and their transactions. -/

namespace Sys2Proof.Machine

/-- A cached region-table entry (R36). -/
structure RtCache where
  sector : Sector := 0
  tenant : Tenant := 0
  ven : BitVec 28 := 0
  entry : BitVec 128 := 0
  deriving DecidableEq, Repr, Inhabited

/-- What an engine's internal request is for. -/
inductive Owner where
  | accel
  | qpData (pair : QpKey) (wr : BitVec 16) (off : Nat) (len : Nat)
  | qpRing (pair : QpKey)
  | qpAtomic (pair : QpKey) (wr : BitVec 16)
  | qpPennant (pair : QpKey) (wr : BitVec 16)
  | qpWait (pair : QpKey) (wr : BitVec 16)
  | qpClose (pair : QpKey) (peer : Ep)
  | pipeLine (pair : QpKey) (wr : BitVec 16) (stage : Nat) (key : Nat)
  | pipeWrite (pair : QpKey) (wr : BitVec 16) (stage : Nat)
  | frbLine (job : Nat) (key : Nat)
  | frbWrite (job : Nat)
  | colLine (group : GroupId) (key : Nat)
  | colWrite (group : GroupId) (key : Nat)
  | sideLine (job : Nat) (key : Nat)
  | sideWrite (job : Nat) (key : Nat)
  | mergeLine (job : Nat) (key : Nat)
  | mergeWrite (job : Nat)
  | moveLine (slot : Slot) (page : Nat) (line : Nat)
  | moveWrite (slot : Slot) (page : Nat)
  | shardLine (job : Nat) (key : Nat)
  | shardAsk (pair : QpKey) (wr : BitVec 16) (key : Nat)
  | sideAsk (pair : QpKey) (wr : BitVec 16) (key : Nat)
  | counterPage (tenant : Tenant)
  | ownership (pair : QpKey)
  | bar2 (port : Bool)
  | restore (slot : Slot)
  deriving DecidableEq, Repr, Inhabited

/-- A request that waits at the edge, for a hazard (R347) or a policer (R368), with its payload. -/
structure HeldReq where
  ing : Ingress := .mgmt
  owner : Owner := .accel
  /-- as it arrived -/
  orig : Packet := {}
  /-- translated and stamped -/
  sent : Packet := {}
  data : Option Packet := none
  deriving DecidableEq, Repr, Inhabited

/-- A Pennant held at the source edge until placed reaches need (R81). -/
structure HeldPennant where
  need : Nat := 0
  req : HeldReq := {}
  deriving DecidableEq, Repr, Inhabited

/-- A stream tracked at the edge (R81 to R83). -/
structure StreamRec where
  src : Ep := 0
  stream : Stream := 0
  ing : Ingress := .mgmt
  issued : Nat := 0
  placed : Nat := 0
  /-- writes among the issued ones that still await PLACED (R83, R120) -/
  writes : Nat := 0
  fail : BitVec 8 := 0
  held : List HeldPennant := []
  deriving DecidableEq, Repr, Inhabited

/-- A hazard entry (R347): the lines of one page that a stream's unresolved writes touch. -/
structure Hazard where
  sector : Sector := 0
  src : Ep := 0
  stream : Stream := 0
  home : Ep := 0
  page : BitVec 34 := 0
  mask : BitVec 64 := 0
  unresolved : Nat := 0
  path : Option HalfPort := none
  deriving DecidableEq, Repr, Inhabited

/-- A request that an edge has sent and that is unresolved (R61, R407). -/
structure OpenReq where
  src : Ep := 0
  tag : Tag := 0
  ing : Ingress := .mgmt
  owner : Owner := .accel
  /-- the request as it arrived, untranslated, for the one retry of R61 -/
  orig : Packet := {}
  /-- the request as it was sent -/
  sent : Packet := {}
  sentAt : Nat := 0
  retried : Bool := false
  /-- answered EPOCH_STALE, and to be sent again in issue order (R75) -/
  stale : Bool := false
  backoff : Nat := 0
  /-- a write or atomic counted in its stream -/
  counted : Bool := false
  /-- the payload that follows the request, as it arrived -/
  data : Option Packet := none
  /-- the request's grant has come -/
  granted : Bool := false
  /-- resends of an engine's request after ACK_TIMEOUT -/
  tries : Nat := 0
  /-- its last attempt found no route (R141, R211) -/
  noRoute : Bool := false
  /-- when the back-off of a request refused with RETRY ends -/
  resendAt : Option Nat := none
  /-- when ACK_TIMEOUT, as it stood when the request was last sent, has passed (R141, R153) -/
  ackAt : Nat := 0
  deriving DecidableEq, Repr, Inhabited

/-- The edge (R33 to R36, R81 to R83, R347, R348). -/
structure Edge where
  records : Tbl (BitVec 64) := []
  cache : List RtCache := []
  streams : List StreamRec := []
  hazards : List Hazard := []
  /-- requests held by the path rule, in stream order (R348) -/
  heldByHazard : List HeldReq := []
  reqs : List OpenReq := []
  nextTag : Tag := 0
  nextMsg : BitVec 24 := 0
  openMsgs : List (BitVec 24 × Ep) := []
  /-- requests failed with TIMEOUT, whose late responses are discarded (R407) -/
  expired : List (Ep × Tag) := []
  /-- addresses of region-table entries beyond correction, until they are rewritten (Table FAULT-3) -/
  worn : List Nat := []
  deriving DecidableEq, Repr, Inhabited

/-- A registered wait (R87, R543). -/
structure WaitSlot where
  sector : Sector := 0
  waiter : Ep := 0
  tag : Tag := 0
  record : WaitRec := {}
  deadline : Option Nat := none
  /-- the word's value when last compared -/
  value : Nat := 0
  pkt : Packet := {}
  deriving DecidableEq, Repr, Inhabited

/-- A reassembly entry (Table ORDER-6, R90), with the Pennant it holds. -/
structure Reassembly where
  srcEp : Ep := 0
  msgId : BitVec 24 := 0
  totalLen : BitVec 32 := 0
  counted : BitVec 32 := 0
  pennant : Option Packet := none
  completion : Option Packet := none
  firstFail : BitVec 8 := 0
  streamNo : BitVec 16 := 0
  deriving DecidableEq, Repr, Inhabited

/-- A source and message pair whose packets are discarded until its expiry (R93). -/
structure ClearedPair where
  src : Ep := 0
  msgId : BitVec 24 := 0
  expiry : Nat := 0
  deriving DecidableEq, Repr, Inhabited

/-- DSTATE of a directory entry other than INVALID (Table COH-2). -/
inductive DState where
  | shared | coarse | owned
  deriving DecidableEq, Repr, Inhabited

/-- A valid primary directory entry with its extension blocks (Tables COH-2 and COH-3): PTR0 and the
pointers in order, the group vector of a COARSE line, the numbers of its blocks and its last use. -/
structure DirEnt where
  dstate : DState := .owned
  holders : List Ep := []
  groups : BitVec 256 := 0
  blocks : List Nat := []
  lastUse : Nat := 0
  deriving DecidableEq, Repr, Inhabited

/-- The kind of work a home does on one line. -/
inductive LineOp where
  | rdShared | rdOwn | upgrade | rdNc | write | atomic | wbDirty | evictClean
  /-- directory eviction on behalf of another line (R106) -/
  | evict (for_ : LineNo)
  /-- recall of R117; true where dirty data is discarded -/
  | extRecall (discard : Bool)
  | counterAdd
  | flag
  /-- re-encryption under the current key (R388) -/
  | sweep
  /-- fill of a tier-0 frame line (R49) -/
  | fill
  /-- copy of the line to a Cirrus replica (R51) or a hot page (R65) -/
  | replicate
  | hotCopy
  /-- fill of a page by copying another page's line: copy-on-write and fold (R55, R59) -/
  | copyFrom (src : LineNo)
  /-- a read for the evaluation of registered waits (R87) -/
  | waitEval
  deriving DecidableEq, Repr, Inhabited

/-- One line request at a home sector: the packet that asked, its data and byte mask, and the bulk
operation it is a piece of. -/
structure LineReq where
  op : LineOp := .rdNc
  line : LineNo := 0
  pkt : Packet := {}
  data : Line := 0
  mask : BitVec 64 := 0
  bulk : Option Nat := none
  /-- Zenith when the home sector ordered it -/
  ordered : Nat := 0
  /-- the line was blocked on its arrival (R118) -/
  late : Bool := false
  deriving DecidableEq, Repr, Inhabited

/-- A snoop outstanding (R108, R544). -/
structure Snoop where
  ep : Ep := 0
  tag : Tag := 0
  /-- the snoop's opcode: 0x20, 0x21 or 0x22 -/
  op : BitVec 8 := 0x20
  since : Nat := 0
  answered : Bool := false
  wantData : Bool := false
  wantWb : Bool := false
  /-- the holder's crossing write-back has come, or was refused (R114, R116) -/
  wbSeen : Bool := false
  deriving DecidableEq, Repr, Inhabited

/-- Where a line transaction stands. -/
inductive Phase where
  | evicting | ready | snooping | reading | placing | granted
  deriving DecidableEq, Repr, Inhabited

/-- The transaction that blocks a line (R110 to R115). -/
structure Txn where
  req : LineReq := {}
  phase : Phase := .snooping
  snoops : List Snoop := []
  dirty : Option Line := none
  /-- holders that answered S to SNP_SHARE -/
  kept : List Ep := []
  wb : Option LineReq := none
  far : Bool := false
  noData : Bool := false
  /-- TRAY_DONE answers still awaited by this transaction's placement -/
  trayLeft : Nat := 0
  result : Line := 0
  /-- the old operand of an atomic -/
  old : Nat := 0
  /-- the directory entry that CMP_ACK records (Tables COH-5, COH-7, COH-8) -/
  newDir : Option DirEnt := none
  since : Nat := 0
  deriving DecidableEq, Repr, Inhabited

/-- A blocked line: its transaction, its waiters in order, and whether a snoop timeout left it blocked
for good (R113). -/
structure BlockedLine where
  txn : Option Txn := none
  waiters : List LineReq := []
  /-- a recall that takes the line ahead of its waiters (R117) -/
  extRecall : Option LineReq := none
  stuck : Bool := false
  deriving DecidableEq, Repr, Inhabited

/-- A read sent to a tray or a Cirrus lender (R50, R318). -/
structure TrayRead where
  ep : Ep := 0
  tag : Tag := 0
  line : LineNo := 0
  /-- the line whose transaction the read serves -/
  forLine : LineNo := 0
  /-- the lender's extent that a Cirrus read names -/
  ext : BitVec 16 := 0
  cirrus : Bool := false
  cancelled : Bool := false
  since : Nat := 0
  deriving DecidableEq, Repr, Inhabited

/-- A write sent to a tray and not yet answered by TRAY_DONE (R320, R424). -/
structure TrayWrite where
  ep : Ep := 0
  tag : Tag := 0
  line : LineNo := 0
  stored : StoredLine := {}
  prot : Bool := false
  /-- whether a transaction or answer waits for it -/
  waits : Bool := false
  /-- a write-back that this places, with its data: the directory and WB_DONE follow it (R108, R109, R114) -/
  wb : Option (Packet × Line) := none
  since : Nat := 0
  deriving DecidableEq, Repr, Inhabited

/-- A packet of several lines being placed or read (WR_BULK, RD_BULK): the packet, its pieces left,
what has been placed or read, and its first failure. -/
structure BulkOp where
  pkt : Packet := {}
  ing : Ingress := .mgmt
  read : Bool := false
  left : Nat := 0
  placed : Nat := 0
  fail : BitVec 8 := 0
  data : Tbl Line := []
  deriving DecidableEq, Repr, Inhabited

/-- A combining entry of a switch sector (R120, R121). -/
structure Combine where
  sector : Sector := 0
  /-- the request outstanding at the home -/
  first : Packet := {}
  members : List Packet := []
  atomic : Bool := false
  pending : List Packet := []
  deriving DecidableEq, Repr, Inhabited

/-- The home's ordering and coherence state (R87 to R93, R101 to R121, R410, R544). -/
structure Home where
  waits : List WaitSlot := []
  reasm : List Reassembly := []
  cleared : List ClearedPair := []
  dir : Tbl DirEnt := []
  lostSets : List (Sector × BitVec 21) := []
  lines : Tbl BlockedLine := []
  atomicCtr : Tbl (BitVec 2) := []
  combines : List Combine := []
  /-- a request or its data that arrived first (R544) -/
  unpaired : List (Ingress × Packet) := []
  trayReads : List TrayRead := []
  trayWrites : List TrayWrite := []
  bulks : Tbl BulkOp := []
  nextBulk : Nat := 0
  snoopTimeout : BitVec 64 := 100000
  farEnable : Bool := true
  combineEnable : Bool := true
  evictions : Nat := 0
  reasmCleared : Nat := 0
  nextSnoopTag : Tag := 0
  nextTrayTag : Tag := 0
  deriving DecidableEq, Repr, Inhabited

end Sys2Proof.Machine
end

