-- ==== Sys2Proof/Machine/QpParts.lean ====
section
/-! DEFINITION. Machine/QpParts.lean: the parts of the state that Queue Pairs and Copy Engines names:
contexts, peer slots, work in flight, target records and ownership (R124 to R153, R546). -/

namespace Sys2Proof.Machine

/-- STATE of a queue-pair context (Table COPY-1, Table COPY-9). -/
inductive QpState where
  | reset | ready | error | released
  deriving DecidableEq, Repr, Inhabited

/-- A peer slot (Table COPY-2); closing while its QP_CLOSE is unanswered. -/
structure PeerSlot where
  peer : Ep := 0
  nextPsn : Psn := 0
  unacked : Nat := 0
  atomicOut : Bool := false
  closing : Bool := false
  deriving DecidableEq, Repr, Inhabited

/-- A sent packet kept in the retransmission store (R136, R141). -/
structure SentPkt where
  tag : Tag := 0
  pkt : Packet := {}
  data : Option Packet := none
  peer : Ep := 0
  psn : Psn := 0
  wr : BitVec 16 := 0
  len : Nat := 0
  tries : Nat := 0
  noRoute : Bool := false
  /-- what its answer is for -/
  owner : Owner := .accel
  /-- writes issued earlier that a RELEASE waits for (R77) -/
  after : List Tag := []
  /-- the place of its work request in the order in which the engine started them (R77, R149) -/
  seq : Nat := 0
  /-- a packet with no PSN and no peer slot: a window access, a WAIT_REGISTER or a read made again -/
  bare : Bool := false
  /-- a bare packet that goes to the accelerator's window -/
  window : Bool := false
  /-- answered EPOCH_STALE: its PSN is resolved, and it waits to be sent again under a new one (R61, R75) -/
  stale : Bool := false
  /-- a CANCEL listed it (R546) -/
  cancelled : Bool := false
  deriving DecidableEq, Repr, Inhabited

/-- A piece of a transfer: at most one page on either side (R32, R124). -/
structure Piece where
  src : BitVec 64 := 0
  dst : BitVec 64 := 0
  len : Nat := 0
  msg : MsgHdr := {}
  deriving DecidableEq, Repr, Inhabited

/-- A started work request. -/
structure WorkReq where
  index : BitVec 16 := 0
  wr : BitVec 512 := 0
  /-- its place in the order in which work requests have started at this QF960 -/
  seq : Nat := 0
  /-- the first PSN that it took at each home (R149) -/
  firstPsn : List (Ep × Psn) := []
  /-- pieces not yet read -/
  todo : List Piece := []
  /-- pieces being read, or read and waiting for a peer slot, by source offset -/
  reading : List (Piece × List Byte) := []
  unresolved : Nat := 0
  placed : Nat := 0
  retransmits : Nat := 0
  /-- messages open at their homes, with the bytes whose outcome is still due -/
  msgs : List (BitVec 24 × Ep × Nat) := []
  /-- a status fixed before its packets are all resolved -/
  final : Option (BitVec 8) := none
  /-- completed at its point of Table COPY-5 -/
  done : Bool := false
  status : BitVec 8 := 0
  result : BitVec 128 := 0
  begun : Bool := false
  aborting : Option (Option MgrRef) := none
  late : Bool := false
  reported : Bool := false
  deriving DecidableEq, Repr, Inhabited

/-- A CANCEL that lists PSNs still unanswered (R546). -/
structure CancelRec where
  tag : Tag := 0
  peer : Ep := 0
  wr : BitVec 16 := 0
  msg : Option MsgHdr := none
  psns : List Psn := []
  /-- when ACK_TIMEOUT of its last sending has passed -/
  ackAt : Nat := 0
  tries : Nat := 0
  noRoute : Bool := false
  /-- the last back-off of one refused with RETRY, and when it ends -/
  backoff : Nat := 0
  resendAt : Option Nat := none
  deriving DecidableEq, Repr, Inhabited

/-- A wait the engine is holding (R87, R543). -/
structure EngineWait where
  wr : BitVec 16 := 0
  tag : Tag := 0
  record : WaitRec := {}
  started : Nat := 0
  polling : Bool := false
  lastSend : Nat := 0
  retried : Bool := false
  deriving DecidableEq, Repr, Inhabited

/-- A queue-pair context (Table COPY-1). -/
structure QpCtx where
  state : QpState := .reset
  priv : Bool := false
  world : Bool := false
  tenant : Tenant := 0
  boundEp : Ep := 0
  ownEpoch : BitVec 32 := 0
  originEp : Ep := 0
  sqLog2 : BitVec 4 := 0
  cqLog2 : BitVec 4 := 0
  sqProducer : BitVec 16 := 0
  sqConsumer : BitVec 16 := 0
  cqProducer : BitVec 16 := 0
  sqBase : Pva := 0
  cqBase : Pva := 0
  winBase : Pva := 0
  winPages : BitVec 28 := 0
  msixVector : BitVec 11 := 0
  msixEnable : Bool := false
  firstFail : BitVec 8 := 0
  deriving DecidableEq, Repr, Inhabited

/-- A queue pair held at this QF960: its context and everything in flight. -/
structure Qp where
  ctx : QpCtx := {}
  /-- a pipeline queue pair (R187) -/
  pipe : Bool := false
  cqConsumer : BitVec 16 := 0
  completionCount : BitVec 64 := 0
  /-- completion entries written since the queue pair was created (R135) -/
  cqTotal : Nat := 0
  /-- the next work request, read from the ring and not yet started -/
  fetched : Option (BitVec 512) := none
  /-- a ring access failed -/
  ringDead : Bool := false
  /-- ring writes that wait for the writes before them (R134) -/
  ringOut : List SentPkt := []
  cancels : List CancelRec := []
  /-- aborts of work requests posted and not started -/
  preAbort : List (BitVec 16 × Option MgrRef) := []
  /-- among the sector's cached contexts (R125) -/
  cached : Bool := false
  /-- a QP_RESET that waits for packets and closes (Table COPY-9) -/
  resetting : Option MgrRef := none
  /-- COMPLETION_COUNT is being read for a replay -/
  counting : Bool := false
  /-- where renewals go: the origin, or its backup after a fence (R422) -/
  authority : Option Ep := none
  peers : List PeerSlot := []
  work : List WorkReq := []
  store : List SentPkt := []
  /-- packets that wait for a peer slot, the window or the store, in the order of their work requests (R126, R127, R136) -/
  outbox : List SentPkt := []
  wait : Option EngineWait := none
  /-- completion entries that wait for room in the completion ring -/
  waitingCpl : List (BitVec 256) := []
  /-- bytes that the engine's round robin lets this queue pair still send in its turn (R124) -/
  deficit : Nat := 0
  /-- the status of its first write that will never be placed; 0 none (R133, R136) -/
  broken : BitVec 8 := 0
  lastUse : Nat := 0
  leaseEnd : Nat := 0
  renewSent : Option Nat := none
  fetching : Bool := false
  /-- completion count read from memory at a replay (R149 step 4) -/
  replayBelow : BitVec 64 := 0
  transferTo : Option Ep := none
  deriving DecidableEq, Repr, Inhabited

/-- A target record (Table COPY-7). -/
structure TargetRec where
  originEp : Ep := 0
  qpn : Qpn := 0
  ownEpoch : BitVec 32 := 0
  expected : Psn := 0
  received : BitVec 256 := 0
  lastAtomicPsn : Psn := 0
  lastAtomicResult : BitVec 128 := 0
  failPsn : Psn := 0
  failStatus : BitVec 8 := 0
  cancelBase : Psn := 0
  cancelled : BitVec 256 := 0
  /-- PSNs admitted and not yet final (R140, R546) -/
  admitted : List (Psn × Tag) := []
  lost : Bool := false
  deriving DecidableEq, Repr, Inhabited

/-- An ownership record (Table COPY-11) with the last checkpoint (R148). -/
structure OwnRec where
  ownerEp : Ep := 0
  ownEpoch : BitVec 32 := 1
  released : Bool := false
  qpn : Qpn := 0
  leaseEnd : BitVec 64 := 0
  ckConsumer : BitVec 16 := 0
  ckProducer : BitVec 16 := 0
  ckPeers : List PeerSlot := []
  /-- the answer kept back until the backup acknowledges the mirrored record (R421) -/
  pendingAnswer : Option (BitVec 32 × Packet) := none
  deriving DecidableEq, Repr, Inhabited

/-- A mirrored ownership record held for another origin (R421). -/
structure MirrorRec where
  origin : Ep := 0
  mirrorSeq : BitVec 32 := 0
  record : OwnRec := {}
  deriving DecidableEq, Repr, Inhabited

/-- A manager command on a queue pair that another command is still changing (R474): its kind, 0 QP_CREATE,
1 PIPE_CREATE, 2 QP_RESET or 3 QP_DESTROY, and its context. -/
structure QpWaiting where
  pair : QpKey := 0
  cmd : MgrRef := {}
  kind : Nat := 0
  context : BitVec 512 := 0
  deriving DecidableEq, Repr, Inhabited

/-- Queue pairs, target records and ownership (Table COPY-15): the tables of queue pairs and of ownership records go by the
number of the pair's key, and the engines' turns by the number of the engine. -/
structure Qps where
  qps : Tbl Qp := []
  targets : List TargetRec := []
  own : Tbl OwnRec := []
  mirrors : List MirrorRec := []
  mirrorSeq : BitVec 32 := 0
  useSeq : Nat := 0
  /-- the queue pair whose turn it is at each engine (R124) -/
  turns : Tbl QpKey := []
  waiting : List QpWaiting := []
  backupEp : BitVec 16 := 0xFFFF
  ackTimeout : BitVec 64 := 16000
  ctxMisses : Nat := 0
  duplicates : Nat := 0
  retransmissions : Nat := 0
  doorbellRefused : Nat := 0
  deriving DecidableEq, Repr, Inhabited

end Sys2Proof.Machine
end

