-- ==== Sys2Proof/Machine/EngineParts.lean ====
section
/-! DEFINITION. Machine/EngineParts.lean: the parts of the state that Cumulus Reduction, Gather and Filter,
Vector Search, Fixed-Rate Compression and Matrix Engines name (R154 to R282). -/

namespace Sys2Proof.Machine

/-- ISTATE of a group record (Table CUM-1, Table CUM-8). -/
inductive IState where
  | free | idle | prepass | summing | committed | aborting
  deriving DecidableEq, Repr, Inhabited

/-- The signature of an instance (R162). -/
structure ColSig where
  op : BitVec 4 := 0
  inFmt : BitVec 4 := 0
  outFmt : BitVec 4 := 0
  mode : Bool := false
  elements : Nat := 0
  deriving DecidableEq, Repr, Inhabited

/-- One block being reduced: its accumulators and the half-ports whose contribution it holds. -/
structure ColBlock where
  acc : List (BitVec 64) := []
  got : List HalfPort := []
  deriving DecidableEq, Repr, Inhabited

/-- A member's launch with its reading and delivery (R160, R166, R175, R180). -/
structure ColMember where
  half : HalfPort := 0
  ep : Ep := 0
  tag : Tag := 0
  desc : BitVec 512 := 0
  /-- the code table of an FRB input, once read -/
  table : Option Line := none
  /-- reading of a pool source: 0 pre-pass, 1 sum -/
  pass : Nat := 0
  rdPos : Nat := 0
  buf : List Byte := []
  reading : Bool := false
  /-- next block to take from the source -/
  blk : Nat := 0
  writesOut : Nat := 0
  flagSent : Bool := false
  flagDone : Bool := false
  fail : BitVec 8 := 0
  doneSent : Bool := false
  deriving DecidableEq, Repr, Inhabited

/-- Who asked for an abort: a half-port with the member's endpoint and tag, or a manager command (R183). -/
structure ColReq where
  half : Option HalfPort := none
  ep : Ep := 0
  tag : Tag := 0
  cmd : Option MgrRef := none
  deriving DecidableEq, Repr, Inhabited

/-- The current instance of a group. -/
structure ColInst where
  sig : Option ColSig := none
  members : List ColMember := []
  /-- E bytes by source half-port and block (R166) -/
  eFrom : Tbl (Tbl Byte) := []
  /-- blocks whose maximum has been forwarded upward, and the final bytes held -/
  eSent : Nat := 0
  eFinal : Tbl Byte := []
  blocks : Tbl ColBlock := []
  /-- B0 of R158, and the blocks at or above it that are forwarded or staged -/
  b0 : Nat := 0
  ahead : List Nat := []
  staged : Tbl (List Byte) := []
  commitTime : Nat := 0
  reason : BitVec 8 := 0
  status : BitVec 8 := 0
  requests : List ColReq := []
  acks : List HalfPort := []
  /-- result blocks passed down: all below resNext, and those of resAhead -/
  resNext : Nat := 0
  resAhead : List Nat := []
  /-- blocks already taken of the first data packet that waits at a half-port (R158) -/
  part : Tbl Nat := []
  overflow : Nat := 0
  contributions : Nat := 0
  lastPacket : Nat := 0
  abortSent : Bool := false
  /-- COLLECTIVE_TIMEOUT as it stood at the start -/
  timeout : Nat := 0
  deriving DecidableEq, Repr, Inhabited

/-- A group record (Table CUM-1) with its staging frames and the packets that wait (R158, R159). -/
structure Group where
  tenant : Tenant := 0
  istate : IState := .idle
  root : Bool := false
  parent : HalfPort := 0
  modes : BitVec 2 := 0
  children : BitVec 64 := 0
  memberMask : BitVec 64 := 0
  subtree : Nat := 0
  window : Nat := 0
  nextSeq : BitVec 32 := 0
  frames : List Nat := []
  inst : ColInst := {}
  waiting : List (HalfPort × Packet) := []
  /-- abort commands for an instance that has not begun at the root -/
  waitingCmds : List (BitVec 32 × MgrRef) := []
  /-- abort requests of ended instances that the root has still to answer (R183, Table CUM-9) -/
  asked : List (BitVec 32 × ColReq) := []
  disarm : Option MgrRef := none
  deriving DecidableEq, Repr, Inhabited

/-- A manager command on a group. -/
inductive GroupCmd where
  | arm (record : BitVec 256)
  | disarm
  | abort (inst : BitVec 32)
  deriving DecidableEq, Repr, Inhabited

/-- The Cumulus units (Table CUM-13). -/
structure Cumulus where
  groups : Tbl Group := []
  /-- commands that wait for a group's disarm (R474) -/
  later : List (Nat × MgrRef × GroupCmd) := []
  canonical : Bool := false
  timeout : BitVec 64 := 0
  completed : Nat := 0
  aborted : Nat := 0
  nonfinite : Nat := 0
  stale : Nat := 0
  deriving DecidableEq, Repr, Inhabited

/-- What an engine has got back for one read, by a key of its own: the bytes, or the failure. -/
structure Got where
  key : Nat := 0
  status : BitVec 8 := 0
  data : List Byte := []
  deriving DecidableEq, Repr, Inhabited

/-- A read an engine has outstanding. -/
structure EngRead where
  key : Nat := 0
  stage : Nat := 0
  ordinal : Nat := 0
  /-- the shard whose latency it samples, by its primary's address -/
  shard : Option Pva := none
  backup : Bool := false
  /-- a replica may be asked too -/
  alt : Bool := false
  /-- a query of a shard, not a row -/
  search : Bool := false
  sentAt : Nat := 0
  deriving DecidableEq, Repr, Inhabited

/-- One output of a pipeline: to the accelerator window or the pool, with its arrival counter. -/
structure PipeWrite where
  window : Bool := false
  addr : Nat := 0
  counter : Nat := 0
  data : List Byte := []
  deriving DecidableEq, Repr, Inhabited

/-- What a pipeline reports (Table GATH-11). -/
structure PipeReport where
  status : BitVec 8 := 0
  reason : BitVec 8 := 0
  stage : Nat := 0
  escal : Nat := 0
  rowsOut : Nat := 0
  rowsIn : Nat := 0
  deriving DecidableEq, Repr, Inhabited

/-- Where a pipeline stands: its descriptor being read and checked, waiting for its place, running, writing its outputs, its
report fixed by a failure or an abort, its result record written and not yet placed. -/
inductive PipePhase where
  | fetching | waiting | running | outputs | stopped | record
  deriving DecidableEq, Repr, Inhabited

/-- A pipeline of a sector (R187 to R212). -/
structure PipeJob where
  pair : QpKey := 0
  wrIndex : BitVec 16 := 0
  wr : BitVec 512 := 0
  /-- header and stages -/
  desc : List (BitVec 512) := []
  sector : Sector := 0
  phase : PipePhase := .fetching
  /-- it has taken its place, its link cells and its selection entries (R190, R194, R279) -/
  started : Bool := false
  /-- a read that it needs could not be issued yet (R78, R198) -/
  stalled : Bool := false
  /-- writes that its requests wait for, where it is marked RELEASE (R77) -/
  after : List Tag := []
  /-- GATHER_BACKUP_FACTOR, MIN_SAMPLES and BUDGET, SEARCH_BACKUP_FACTOR and MIN_SAMPLES at its start -/
  par : List Nat := []
  got : List Got := []
  reads : List EngRead := []
  /-- rows and shard queries backed up: stage, ordinal or shard -/
  backs : List (Nat × Nat) := []
  launched : Nat := 0
  won : Nat := 0
  /-- outputs, by stage -/
  outs : List (Nat × PipeWrite) := []
  report : PipeReport := {}
  /-- elements output and consumed by each stage, once all have ended (R210) -/
  counts : List (Nat × Nat) := []
  /-- writes of the result record not yet placed, and the first failure of one -/
  recs : Nat := 0
  recFail : BitVec 8 := 0
  /-- multiply-accumulates, score records, NaN scores, codes scanned, FRB blocks expanded and FRB tables loaded -/
  work : List Nat := []
  /-- an APPEND has sent its message (R240) -/
  begun : Bool := false
  deriving DecidableEq, Repr, Inhabited

/-- A primary's read or query that its pipeline does not wait for any more, and whose latency is sampled when it returns (R201,
R238). -/
structure LateRead where
  pair : QpKey := 0
  wrIndex : BitVec 16 := 0
  sector : Sector := 0
  read : EngRead := {}
  deriving DecidableEq, Repr, Inhabited

/-- The latencies of a shard's last primary answers, newest last, by bin (R201, R238). -/
structure Histogram where
  sector : Sector := 0
  search : Bool := false
  addr : Pva := 0
  bins : List Nat := []
  deriving DecidableEq, Repr, Inhabited

/-- A message of an engine opcode whose packets are still coming (R306). -/
structure MsgBuf where
  src : Ep := 0
  msgId : BitVec 24 := 0
  opcode : BitVec 8 := 0
  total : Nat := 0
  first : Packet := {}
  parts : List (Nat × List Byte) := []
  deriving DecidableEq, Repr, Inhabited

/-- A shard query this QF960 runs for another issuer (R236). -/
structure ShardJob where
  id : Nat := 0
  pkt : Packet := {}
  data : List Byte := []
  sector : Sector := 0
  started : Bool := false
  got : List Got := []
  reads : List EngRead := []
  deriving DecidableEq, Repr, Inhabited

/-- An append message in progress at a side list's home (R221), or a SIDE_RECLAIM of the list (R234): what is
read, what is to be written. -/
structure SideJob where
  id : Nat := 0
  pkt : Packet := {}
  data : List Byte := []
  /-- header address: a reclaim's PVA, an append's place at this home -/
  pva : Nat := 0
  /-- the list, by its header's place at this home, where it lies here -/
  place : Nat := 0
  reclaim : Option (MgrRef × Nat × List (BitVec 32)) := none
  got : List Got := []
  reads : List EngRead := []
  /-- 0 reading, 1 writing TAIL_SEQ, 2 writing entries, 3 rewriting failed ones as VOID, 4 writing the header -/
  phase : Nat := 0
  failed : List Nat := []
  writesOut : Nat := 0
  committed : Nat := 0
  status : BitVec 8 := 0
  deriving DecidableEq, Repr, Inhabited

/-- The sums of the encode report (Table FRB-6). -/
structure FrbReport where
  maxStep : Nat := 0
  blocks : Nat := 0
  coarsened : Nat := 0
  zero : Nat := 0
  nonfinite : Nat := 0
  maxErr : Nat := 0
  maxErrBlock : Nat := 0
  sumErr : Nat := 0
  sumVal : Nat := 0
  clamped : Nat := 0
  deriving DecidableEq, Repr, Inhabited

/-- An FRB_ENCODE (R262): 0 reading the table, 1 counting symbols, 2 writing the table, 3 encoding, 4 waiting for the
blocks to be placed, 5 writing the report. -/
structure EncJob where
  cmd : MgrRef := {}
  progress : Option Nat := none
  desc : BitVec 512 := 0
  phase : Nat := 0
  table : Line := 0
  counts : List Nat := []
  buf : List Byte := []
  reading : Bool := false
  rdPos : Nat := 0
  blk : Nat := 0
  writesOut : Nat := 0
  placed : Nat := 0
  report : FrbReport := {}
  status : BitVec 8 := 0
  deriving DecidableEq, Repr, Inhabited

/-- An INDEX_MERGE (R233): its draft, what it has read, and what is left to write. -/
structure MergeJob where
  cmd : MgrRef := {}
  progress : Option Nat := none
  tenant : Tenant := 0
  region : RegionId := 0
  target : Nat := 0
  metric : Nat := 0
  draft : Nat := 0
  base : Nat := 0
  expected : BitVec 64 := 0
  got : List Got := []
  reads : List EngRead := []
  writing : Bool := false
  writesOut : Nat := 0
  status : BitVec 8 := 0
  deriving DecidableEq, Repr, Inhabited

/-- Pipelines, searches, encodes and merges with their parameters and counters (Tables GATH-13,
SRCH-12, FRB-12, MATX-8). -/
structure Engines where
  jobs : List PipeJob := []
  late : List LateRead := []
  hists : List Histogram := []
  shards : List ShardJob := []
  sides : List SideJob := []
  msgs : List MsgBuf := []
  merges : Tbl MergeJob := []
  encodes : Tbl EncJob := []
  nextJob : Nat := 0
  gBackupFactor : BitVec 8 := 24
  gMinSamples : BitVec 16 := 256
  gBudget : BitVec 8 := 5
  gCompleted : Nat := 0
  gPartial : Nat := 0
  gLaunched : Nat := 0
  gWon : Nat := 0
  sBackupFactor : BitVec 8 := 16
  sMinSamples : BitVec 16 := 64
  sPrefetch : BitVec 8 := 8
  sCompleted : Nat := 0
  sPartial : Nat := 0
  sLaunched : Nat := 0
  sWon : Nat := 0
  sAppends : Nat := 0
  frbEncodes : Nat := 0
  frbEncoded : Nat := 0
  frbCoarsened : Nat := 0
  frbExpanded : Nat := 0
  frbMalformed : Nat := 0
  frbLoads : Nat := 0
  mMacs : Nat := 0
  mRows : Nat := 0
  mNan : Nat := 0
  mSelects : Nat := 0
  mPartial : Nat := 0
  deriving DecidableEq, Repr, Inhabited

end Sys2Proof.Machine
end

