-- ==== Sys2Proof/Machine/LinkParts.lean ====
section
/-! DEFINITION. Machine/LinkParts.lean: the parts of the state that Fabric Ports, Switch Core and Traffic
Scheduling name: links, credits, sessions, CXL ports, virtual output queues, route banks, samplers,
shapers, policers and gates (R285 to R374). -/

namespace Sys2Proof.Machine

/-- Link states (Table LINK-11), in table order. -/
inductive LinkState where
  | detect | equalize | frameLock | capability | session | creditInit | active | rateUp
  deriving DecidableEq, Repr, Inhabited

/-- A sequenced flit kept for replay (R294): its type, slots, the count of its replays. -/
structure ReplayFlit where
  seq : BitVec 10 := 0
  control : Bool := false
  slots : List (BitVec 128) := []
  replays : Nat := 0
  deriving DecidableEq, Repr, Inhabited

/-- A control message of a link (R312). -/
inductive CtlMsg where
  | cap (c : CapMsg)
  | hello (m : HelloMsg)
  | kem (ct : List Byte)
  | finish (rsaSig mldsaSig : List Byte)
  | creditInit (credits : List Nat)
  | time (c : TimeMsg)
  | rekey
  | rateUp
  | down
  deriving DecidableEq, Repr, Inhabited

/-- The receive side of a link (R293, R297, R300, R330). -/
structure LinkRx where
  expect : BitVec 10 := 0
  nak : Bool := false
  /-- slots of a packet not yet complete -/
  partSlots : List (BitVec 128) := []
  /-- complete packets in staging, oldest first -/
  staged : List Packet := []
  /-- slots freed per selector, modulo 2^14 -/
  freed : List (BitVec 14) := [0, 0, 0, 0, 0, 0, 0]
  /-- slots of each selector occupied in staging -/
  held : List Nat := [0, 0, 0, 0, 0, 0, 0]
  /-- staged packets that hold a credit of the COL control pool -/
  ctl : List Packet := []
  /-- the half-port to which the packet now coming in is cut through, and its slots passed on so far (R334, R335) -/
  cut : Option HalfPort := none
  cutSent : Nat := 0
  deriving DecidableEq, Repr, Inhabited

/-- The transmit side of a link (R294, R296, R297). -/
structure LinkTx where
  nextSeq : BitVec 10 := 0
  ackSeen : BitVec 10 := 0x3FF
  replay : List ReplayFlit := []
  lastAck : Nat := 0
  nakSeen : Option (BitVec 10) := none
  advertised : List (BitVec 14) := [0, 0, 0, 0, 0, 0, 0]
  spent : List (BitVec 14) := [0, 0, 0, 0, 0, 0, 0]
  freedSeen : List (BitVec 14) := [0, 0, 0, 0, 0, 0, 0]
  creditsIn : Bool := false
  /-- the credit counter that the next flit's first report names (R297) -/
  sel : Nat := 0
  /-- the half-port whose packet is being cut through to this link (R334, R335) -/
  cutFrom : Option HalfPort := none
  deriving DecidableEq, Repr, Inhabited

/-- One direction of a link session (R315, R316, R395). -/
structure SessDir where
  secret : List Byte := []
  key : BitVec 256 := 0
  salt : BitVec 32 := 0
  frames : BitVec 64 := 0
  phase : Bool := false
  /-- the key of the other phase while it is still taken -/
  oldKey : Option (BitVec 256 × BitVec 32) := none
  deriving DecidableEq, Repr, Inhabited

/-- A link session (R314, R394 to R396). -/
structure Session where
  active : Bool := false
  helloSent : Bool := false
  helloSeen : Option HelloMsg := none
  kem : List Byte := []
  th : List Byte := []
  initiator : Bool := false
  tx : SessDir := {}
  rx : SessDir := {}
  peerPrint : List Byte := []
  /-- which of this module's ephemeral keys the session uses -/
  num : Nat := 0
  /-- LINK_TRUST_ANCHORS as they stood when the link entered SESSION -/
  anchors : List (List Byte × List Byte) := []
  deriving DecidableEq, Repr, Inhabited

/-- An HDM decoder of a CXL host port (R322). -/
structure HdmDecoder where
  base : BitVec 64 := 0
  size : BitVec 64 := 0
  pva : Pva := 0
  deriving DecidableEq, Repr, Inhabited

/-- What a half-port is bound to (R301, R322). -/
structure Binding where
  tenant : Tenant := 0
  world : Bool := false
  ep : Ep := 0
  deriving DecidableEq, Repr, Inhabited

/-- A tray operation on a CXL tray: its tag, whether it is a read, the line and sideband data got, the
parts still due and whether one failed (R325). -/
structure CxlTrayOp where
  tag : Tag := 0
  read : Bool := false
  line : Option (List Byte) := none
  side : Option (List Byte) := none
  left : Nat := 0
  bad : Bool := false
  deriving DecidableEq, Repr, Inhabited

/-- The CXL side of a port (R321 to R325). -/
structure CxlPort where
  decoders : List HdmDecoder := []
  events : List (BitVec 64) := []
  aer : Bool := false
  /-- host reads and writes open at the home, by host tag -/
  openReqs : List (Tag × CxlReq) := []
  /-- lines that the host holds as owner, by PVA -/
  owned : List (BitVec 60) := []
  trayOps : List CxlTrayOp := []
  hdmCapacity : Nat := 0
  deriving DecidableEq, Repr, Inhabited

/-- Counters and dictionary values of a half-port (Table LINK-13). -/
structure LinkCounters where
  fecCorrected : Nat := 0
  checkFailures : Nat := 0
  replays : Nat := 0
  tagFailures : Nat := 0
  downEvents : Nat := 0
  lastDown : Nat := 0
  discarded : Nat := 0
  flaps : List Nat := []
  deriving DecidableEq, Repr, Inhabited

/-- Dictionary parameters of the links (0x3010). -/
structure LinkParams where
  replayTimeout : BitVec 64 := 1000
  rekeyInterval : BitVec 64 := 1099511627776
  sessionRequired : Bool := false
  versionMax : BitVec 8 := 0x20
  versionMin : BitVec 8 := 0x10
  deriving DecidableEq, Repr, Inhabited

/-- A half-port's link. -/
structure Link where
  /-- the 0x3010 values in force since the last training -/
  par : LinkParams := {}
  /-- PORT_MODE of the port, kept at the even half-port: in force and written -/
  mode : Nat := 0
  modeWritten : Nat := 0
  eclass : Nat := 0
  state : LinkState := .detect
  since : Nat := 0
  rate : Nat := 0
  version : BitVec 8 := 0
  peerEp : Ep := 0
  profile : Nat := 0
  trayProt : Bool := false
  trayChannels : Nat := 0
  trayCapacity : Nat := 0
  peerBooted : Bool := false
  peerQf : Bool := false
  peerFull : Bool := false
  rateFails : Nat := 0
  /-- RATE_UP sent and its answer awaited -/
  rateUpSent : Bool := false
  lastControl : Nat := 0
  fence : Bool := false
  bind : Option Binding := none
  /-- snoops sent to this client and not yet answered (R113) -/
  snoops : List Packet := []
  /-- grants sent to this client and not yet acknowledged (R113) -/
  acksDue : List Packet := []
  /-- flits handed to the port, oldest first (R291, R294) -/
  wire : List Flit := []
  /-- control messages sent outside the sequence, oldest first (R312) -/
  ctlOut : List CtlMsg := []
  rx : LinkRx := {}
  tx : LinkTx := {}
  sess : Session := {}
  cxl : CxlPort := {}
  cnt : LinkCounters := {}
  deriving DecidableEq, Repr, Inhabited

/-- A packet in the packet pool, queued for one output (R329, R331). -/
structure QPkt where
  inp : Ingress := .mgmt
  out : Ingress := .mgmt
  pkt : Packet := {}
  cells : Nat := 0
  /-- its cells in each of the eight buffer slices (R21); none where it waits in a sector link's lane -/
  place : List Nat := []
  /-- copies of one stored packet share their cells -/
  share : Option Nat := none
  /-- when the packet reached the head and began to wait for credits -/
  waitSince : Option Nat := none
  deriving DecidableEq, Repr, Inhabited

/-- A packet of a local unit that the core has refused so far (R333). -/
structure UnitPkt where
  inp : Ingress := .mgmt
  pkt : Packet := {}
  /-- outputs fixed by a group record, else looked up in the route table -/
  outs : Option (List HalfPort) := none
  deriving DecidableEq, Repr, Inhabited

/-- A route bank (R344). -/
structure Bank where
  label : Epoch := 0
  routes : Tbl (BitVec 64) := []
  groups : Tbl (BitVec 128) := []
  deriving DecidableEq, Repr, Inhabited

/-- A sampler (R350). -/
structure Sampler where
  n : BitVec 16 := 0
  egress : Bool := false
  half : HalfPort := 0
  vcMask : BitVec 8 := 0x3F
  tcMask : BitVec 8 := 0xFF
  count : Nat := 0
  taken : Nat := 0
  dropped : Nat := 0
  deriving DecidableEq, Repr, Inhabited

/-- The switch core (Table CORE-7). -/
structure Switch where
  queue : List QPkt := []
  /-- packets of several copies: their cells by slice and the copies left (R329) -/
  shares : Tbl (List Nat × Nat) := []
  nextShare : Nat := 0
  /-- what each lane of a sector link holds, by sending sector, receiving sector and virtual channel (R15) -/
  lanes : Tbl (List QPkt) := []
  stalled : List UnitPkt := []
  /-- free cells of the packet pool in each buffer slice (Table CORE-1) -/
  slices : List Nat := [78080, 78080, 78080, 78080, 78080, 78080, 78080, 78080]
  current : Bank := {}
  previous : Option Bank := none
  prevSince : Nat := 0
  pending : Bank := {}
  reqFloor : BitVec 32 := 65536
  stuckTime : BitVec 64 := 10000000
  alpha : List (BitVec 8) := [4, 4, 4, 4, 4, 4, 4, 4]
  cutThrough : Tbl (BitVec 8) := []
  noRoute : Nat := 0
  epochMisses : Nat := 0
  cellErrors : Nat := 0
  purged : Tbl Nat := []
  /-- half-port and virtual channel of the heads reported stuck (R355) -/
  stuck : List (HalfPort × BitVec 3) := []
  reasmRetries : Nat := 0
  samplers : Tbl Sampler := []
  samples : List (BitVec 1536) := []
  vcNext : Tbl Nat := []
  inNext : Tbl Nat := []
  deriving DecidableEq, Repr, Inhabited

/-- Free cells of the packet pool, over all slices: F of R332. -/
def Switch.free (s : Switch) : Nat := s.slices.sum

/-- A token bucket (R364 to R366): tokens in units of 1/800,000 byte at the time stamp. -/
structure Bucket where
  rate : BitVec 32 := 0
  burst : BitVec 32 := 65536
  overhead : BitVec 8 := 0
  resetZero : Bool := false
  tokens : Int := 52428800000
  stamp : Nat := 0
  deriving DecidableEq, Repr, Inhabited

/-- The scheduler of one egress half-port (Table SCHED-5). -/
structure Egress where
  strict : BitVec 8 := 0
  quantum : Tbl (BitVec 32) := []
  shapers : Tbl Bucket := []
  port : Bucket := {}
  control : Bucket := {}
  controlShare : BitVec 8 := 10
  deficit : Tbl Nat := []
  pointer : Nat := 0
  fresh : Bool := true
  gateStart : Nat := 0
  gateCycle : BitVec 64 := 0
  gates : List (BitVec 64) := []
  pendEntries : BitVec 16 := 0
  pendCycle : BitVec 64 := 0
  pendList : List (BitVec 64) := []
  takeover : BitVec 64 := 0
  armed : Option (List (BitVec 64) × Nat × Nat) := none
  pendState : Nat := 0
  takeovers : Nat := 0
  deriving DecidableEq, Repr, Inhabited

/-- The policer and class limits of one tenant at this edge (R367 to R369). -/
structure Policer where
  bucket : Bucket := { burst := 262144, tokens := 209715200000 }
  maxTc : BitVec 8 := 3
  engineTc : BitVec 8 := 0
  /-- homes whose throttle notice is in force, with its expiry -/
  throttles : List (Ep × Nat) := []
  heldTime : Nat := 0
  heldSince : Option Nat := none
  deriving DecidableEq, Repr, Inhabited

/-- Scheduling and policing. -/
structure Sched where
  egress : Tbl Egress := []
  policers : Tbl Policer := []
  /-- engine packets held by a policer, oldest first -/
  held : List HeldReq := []
  colTc : BitVec 8 := 5
  deriving DecidableEq, Repr, Inhabited

end Sys2Proof.Machine
end

