-- ==== Sys2Proof/Machine/SystemParts.lean ====
section
/-! DEFINITION. Machine/SystemParts.lean: the parts of the state that Security, Faults and Power Loss, Ensign,
Management and Host, Observation, Bring-Up and Module name (R375 to R538). -/

namespace Sys2Proof.Machine

/-- A home key slot (Table SEC-4). -/
structure KeySlot where
  gen : KeyGen := 0
  /-- the 96 bytes of Table SEC-2 -/
  key : List Byte := []
  retiring : Bool := false
  deadline : Option Nat := none
  retiredAt : Nat := 0
  /-- the cached lines of the tenant's extents are recalled before the slot is zeroised (R117) -/
  recalls : Bool := false
  deriving DecidableEq, Repr, Inhabited

/-- A tenant's key slots at this home, its sweep and its removal (R386 to R388, R397). -/
structure TenantKeys where
  current : Option KeySlot := none
  previous : Option KeySlot := none
  /-- slots in RETIRING -/
  retiring : List KeySlot := []
  swept : Bool := false
  sweepPos : Nat := 0
  sweepTotal : Nat := 0
  /-- the slots the sweep goes through -/
  sweepSlots : List Slot := []
  sweepRunning : Bool := false
  sweepSince : Nat := 0
  /-- the line that the sweep is re-encrypting now -/
  sweepAt : Option LineNo := none
  progress : Option Nat := none
  /-- the deadline of the removal (R397), and whether it has been carried out -/
  removal : Option Nat := none
  removalDone : Bool := false
  deriving DecidableEq, Repr, Inhabited

/-- An enrolment (R391, R392). -/
structure Enrolment where
  seed : List Byte := []
  protect : Bool := false
  admitted : List (List Byte) := []
  deriving DecidableEq, Repr, Inhabited

/-- A certificate pair: one RSA-4096 and one ML-DSA-87 certificate. -/
structure AnchorPair where
  rsa : List Byte := []
  mldsa : List Byte := []
  deriving DecidableEq, Repr, Inhabited

/-- Security (Table SEC-8). -/
structure Security where
  drk : List Byte := []
  identity : Bool := false
  keys : Tbl TenantKeys := []
  /-- engine key slots: tenant, generation and engine (R381) -/
  engineSlots : List (Tenant × KeyGen × Nat) := []
  enrol : Tbl Enrolment := []
  nonce : Option (List Byte) := none
  challenges : Nat := 0
  ephemeralUntil : Nat := 0
  report : List Byte := []
  enrolResult : BitVec 8 := 0
  enrolWindow : BitVec 64 := 60000000000
  anchors : List AnchorPair := []
  debugUntil : BitVec 64 := 0
  debugState : Nat := 0
  macFailures : Nat := 0
  keyRefusals : Nat := 0
  deadlinesMissed : Nat := 0
  removalPurged : Nat := 0
  bar2Refused : Nat := 0
  deriving DecidableEq, Repr, Inhabited

/-- A fence proposal known here (R416, R417). -/
structure Proposal where
  suspect : Ep := 0
  proposer : Ep := 0
  opened : Nat := 0
  votes : List Ep := []
  voted : Bool := false
  mine : Bool := false
  evidence : BitVec 4 := 0
  deriving DecidableEq, Repr, Inhabited

/-- Faults (Table FAULT-8). -/
structure Faults where
  ring : List (BitVec 256) := []
  seq : BitVec 32 := 0
  lost : Nat := 0
  corrected : Tbl Nat := []
  /-- per half-port, the second and the PROTOCOL records written in it -/
  protoRate : Tbl (Nat × Nat) := []
  mode : Nat := 1
  requestTimeout : BitVec 64 := 2000000
  heartbeat : BitVec 64 := 100000
  flapLimit : BitVec 8 := 4
  colTimeout : BitVec 64 := 100000000
  fences : Nat := 0
  lostSnoops : Nat := 0
  heard : Tbl Nat := []
  suspected : List Ep := []
  /-- endpoints that a FENCE_COMMIT named -/
  fencedEps : List Ep := []
  proposals : List Proposal := []
  /-- fence messages seen: opcode, suspect, proposer and when -/
  seen : List (BitVec 8 × Ep × Ep × Nat) := []
  lastBeat : Nat := 0
  /-- last UNIT fault per unit (sector, unit, index) -/
  unitTimes : List (Nat × Nat) := []
  restarts : List Nat := []
  squallTook : Bool := false
  deriving DecidableEq, Repr, Inhabited

/-- Power, domains, hold-up and thermal state (Tables FAULT-8 and ELEC-9). -/
structure Power where
  /-- the 48 V input has risen above 42 V and not fallen through 40 V since -/
  inputUp : Bool := false
  failState : Nat := 0
  t0 : Nat := 0
  drainBytes : Nat := 0
  lastDrainTime : BitVec 64 := 0
  lastDrainBytes : BitVec 64 := 0
  pendingLimit : BitVec 32 := 100663296
  holdupHealth : BitVec 8 := 0
  holdupUf : BitVec 32 := 0
  holdupLast : BitVec 64 := 0
  holdupInterval : BitVec 64 := 3600000000000
  testSince : Option Nat := none
  testDue : Nat := 0
  isolateLow : Bool := false
  resetLow : Bool := false
  resetHeld : Bool := false
  perst : List Bool := [false, false]
  /-- DOMAIN_ENABLE and DOMAIN_STATE by domain -/
  enable : Tbl Bool := []
  domain : Tbl Nat := []
  offByFault : List Nat := []
  waking : Tbl Nat := []
  tjMax : BitVec 16 := 0
  tjThrottle : BitVec 16 := 1000
  stackMax : BitVec 16 := 0
  thermal : Nat := 0
  throttleTime : Nat := 0
  stackHot : List Nat := []
  refreshDouble : List Nat := []
  lastThermal : Nat := 0
  deriving DecidableEq, Repr, Inhabited

/-- A tenant's metered quantities in one interval or accumulator (Tables ENS-1 and ENS-4). -/
structure Usage where
  amounts : List Nat := [0, 0, 0, 0, 0, 0, 0]
  /-- frames, extents and replicas held, their unit-nanoseconds and when last integrated -/
  held : List Int := [0, 0, 0]
  unitNs : List Nat := [0, 0, 0]
  stamp : Nat := 0
  deriving DecidableEq, Repr, Inhabited

/-- Ensign (Table ENS-6). -/
structure Ensign where
  serialSeen : Bool := false
  fwVersion : BitVec 32 := 0
  fwImage : List Byte := []
  sealCtr : BitVec 32 := 0
  interval : BitVec 64 := 900000000000
  start : Nat := 0
  flags : BitVec 8 := 0
  usage : Tbl Usage := []
  recordSeq : BitVec 64 := 0
  log : List (BitVec 64 × List Byte) := []
  prevDigest : List Byte := []
  finalArea : Option (BitVec 64 × List Byte) := none
  staged : Option FwImage := none
  stageState : Nat := 0
  /-- the metrology authority's keys, once replaced (R439); at first those of Config -/
  authority : Option AnchorPair := none
  lastEnergy : BitVec 64 := 0
  lastPeak : BitVec 16 := 0
  restartUntil : Nat := 0
  /-- sector accumulators: key tenant, quantity, sector (R434) -/
  accum : Tbl Int := []
  /-- per sector, the last multiple of 100 us at which it flushed (R434) -/
  flushed : Tbl Nat := []
  /-- accumulators whose records a full channel has delayed, oldest first (R434) -/
  owed : List Nat := []
  /-- tap channels, 16 records each (Table ENS-2) -/
  taps : List (Sector × BitVec 256) := []
  deriving DecidableEq, Repr, Inhabited

/-- A response or event frame handed to the management network. -/
structure AgFrame where
  session : Nat := 0
  opcode : BitVec 8 := 0
  seq : BitVec 32 := 0
  status : BitVec 8 := 0
  detail : BitVec 8 := 0
  final : Bool := false
  lost : Bool := false
  payload : List Byte := []
  deriving DecidableEq, Repr, Inhabited

/-- A segmented write or read open in a session (R455). -/
structure Segment where
  index : BitVec 16 := 0
  sub : BitVec 8 := 0
  data : List Byte := []
  write : Bool := true
  last : Nat := 0
  /-- the progress object of a staging write (R516) -/
  progress : Option Nat := none
  deriving DecidableEq, Repr, Inhabited

/-- An Agwen session (R445 to R460). -/
structure AgSession where
  id : Nat := 0
  core : Bool := false
  /-- 1 DTLS up, 2 HELLO done, 3 established -/
  phase : Nat := 1
  role : Nat := 0
  wanted : Nat := 0
  service : Bool := false
  version : Nat := 0
  revision : Nat := 0
  rsaChain : List Byte := []
  exporter : List Byte := []
  pair : AnchorPair := {}
  v6 : Bool := false
  last : Nat := 0
  /-- the last 64 responses (R453) -/
  kept : List AgFrame := []
  selects : Tbl Nat := []
  mask : BitVec 32 := 0
  events : List (BitVec 32 × List Byte × Nat × Nat) := []
  eventSeq : BitVec 32 := 0
  eventLost : Bool := false
  segs : List Segment := []
  deriving DecidableEq, Repr, Inhabited

/-- A progress object (Table MGMT-8). -/
structure Progress where
  kind : Nat := 0
  state : Nat := 0
  status : BitVec 8 := 0
  percent : Nat := 0
  unit : Nat := 0
  position : Nat := 0
  total : Nat := 0
  start : Nat := 0
  ended : Option Nat := none
  readFinal : Option Nat := none
  deriving DecidableEq, Repr, Inhabited

/-- The management network and dictionary server (Table MGMT-7). -/
structure Mgmt where
  sessions : List AgSession := []
  outbox : List AgFrame := []
  nextCore : Bool := false
  owner : List AnchorPair := []
  /-- role code and pair -/
  roles : List (Nat × AnchorPair) := []
  addrMode : Nat := 3
  ipv4 : List Byte := List.replicate 9 0
  ipv6 : List Byte := List.replicate 33 0
  udpPort : BitVec 16 := 4871
  activePort : Bool := false
  mgUp : List Bool := [false, false]
  lease4 : Option Nat := none
  lease6 : Option Nat := none
  netOut : List (List Byte) := []
  progress : Tbl Progress := []
  violations : List (BitVec 256) := []
  violationsLost : Nat := 0
  deriving DecidableEq, Repr, Inhabited

/-- STATE of a manager queue (Table MGMT-13). -/
inductive MqState where
  | off | running | error
  deriving DecidableEq, Repr, Inhabited

/-- A manager queue's registers (Table MGMT-13). -/
structure Mq where
  cmdBase : BitVec 64 := 0
  cplBase : BitVec 64 := 0
  config : BitVec 64 := 0
  cmdProducer : BitVec 16 := 0
  cmdConsumer : BitVec 16 := 0
  cplProducer : BitVec 16 := 0
  cplConsumer : BitVec 16 := 0
  state : MqState := .off
  errorStatus : BitVec 8 := 0
  /-- completions that wait for room in the completion ring -/
  waiting : List (BitVec 256 × Bool) := []
  fullSince : Option Nat := none
  deriving DecidableEq, Repr, Inhabited

/-- A command fetched from a queue: its words and whether it has started (R468, R473, R474). -/
structure Fetched where
  port : Bool := false
  queue : BitVec 3 := 0
  index : BitVec 16 := 0
  words : BitVec 1024 := 0
  started : Bool := false
  generation : BitVec 32 := 0
  deriving DecidableEq, Repr, Inhabited

/-- The host interface (Tables MGMT-11 to MGMT-13). -/
structure HostIf where
  active : Option Bool := none
  generation : BitVec 32 := 0
  dropped : Nat := 0
  mqs : Tbl Mq := []
  eqBase : List (BitVec 64) := [0, 0]
  eqConfig : List (BitVec 64) := [0, 0]
  eqConsumer : List (BitVec 16) := [0, 0]
  eqProducer : List (BitVec 16) := [0, 0]
  eventsLost : BitVec 32 := 0
  lostReport : Nat := 0
  waitingEvents : List (BitVec 256) := []
  fetched : List Fetched := []
  /-- MSI-X entries by vector: address, data, masked -/
  msix : Tbl (BitVec 64 × BitVec 32 × Bool) := []
  msixPend : List Nat := []
  /-- posted writes to host memory, oldest first: port, address, bytes -/
  posted : List (Bool × BitVec 64 × List Byte) := []
  messages : List (Bool × Nat) := []
  readData : List Byte := []
  ready : List Bool := [false, false]
  deriving DecidableEq, Repr, Inhabited

/-- Zenith, pulse per second, Squall, TAP and Horizon (Table OBS-8). -/
structure Observe where
  zenith : BitVec 64 := 0
  /-- how far each island's own counter stands from the master counter, in ns: eight sectors, 32 port islands and eight stack
  PHYs (R16) -/
  islands : List Int := []
  slewPpm : Int := 0
  slewFrac : Int := 0
  timeState : Nat := 0
  parent : BitVec 8 := 0xFF
  syncInterval : BitVec 64 := 125000
  offsetPs : BitVec 64 := 0
  delayPs : BitVec 32 := 0
  steps : Nat := 0
  leads : Nat := 0
  ppsIn : Bool := false
  ppsOut : Bool := false
  ppsState : Nat := 0
  ppsLast : Option Nat := none
  ppsHigh : Option Nat := none
  asym : Tbl (BitVec 64) := []
  delays : List Int := []
  good : Nat := 0
  exchSeq : BitVec 32 := 0
  reqT1 : Option (BitVec 80) := none
  lastSync : Nat := 0
  pageAt : Tbl Nat := []
  pages : Tbl (BitVec 64) := []
  pageFails : Nat := 0
  deriving DecidableEq, Repr, Inhabited

/-- Per-tenant exact counts and their values at the last whole millisecond (R401, R403). -/
structure TenantCount where
  now : List Nat := [0, 0, 0]
  last : List Nat := [0, 0, 0]
  ms : Nat := 0
  deriving DecidableEq, Repr, Inhabited

/-- Debug: Squall, TAP and Horizon. -/
structure Debug where
  squalled : Bool := false
  propagate : Bool := true
  accept : Bool := false
  onFault : BitVec 16 := 0
  squallTime : BitVec 64 := 0
  source : Nat := 0
  tapIr : BitVec 8 := 0x02
  tapChain : BitVec 8 := 0
  tapEnable : Bool := false
  tapOut : List Byte := []
  boundary : BitVec 64 := 0
  bypass : Bool := false
  hzState : Nat := 0
  hzPropagate : Bool := false
  /-- the capture was propagated -/
  hzSpread : Bool := false
  hzTh : BitVec 64 := 0
  hzSeq : BitVec 32 := 0
  hzOrigin : Ep := 0
  hzFlags : BitVec 8 := 0
  hzTime : Nat := 0
  hzEntries : List (BitVec 256) := []
  hzDropped : Nat := 0
  hzSeen : List (Ep × BitVec 32) := []
  hzNext : BitVec 32 := 0
  counts : Tbl TenantCount := []
  deriving DecidableEq, Repr, Inhabited

/-- One copy of the boot record (R505). -/
structure BootRec where
  seq : Nat := 0
  slotB : Bool := false
  trial : Bool := false
  boots : Nat := 0
  crcGood : Bool := true
  deriving DecidableEq, Repr, Inhabited

/-- Boot phase before and after reset release (R503, R507). -/
inductive BootPhase where
  | off | secFail | holding | starting | reduced | full | imageInvalid
  deriving DecidableEq, Repr, Inhabited

/-- A main image slot in flash: the image and whether both its signatures verify (R501, R502). -/
structure FwSlot where
  image : FwImage := {}
  sigGood : Bool := false
  deriving DecidableEq, Repr, Inhabited

/-- Bring-up and update (Table BOOT-7). -/
structure Boot where
  phase : BootPhase := .off
  bootGood : Bool := true
  copies : List BootRec := [{ seq := 1 }, { seq := 0 }]
  slotA : Option FwSlot := none
  slotB : Option FwSlot := none
  activeB : Bool := false
  trial : Bool := false
  minSecurity : BitVec 16 := 0
  releaseAt : Nat := 0
  releaseTime : BitVec 64 := 0
  stageState : Nat := 0
  refusal : Nat := 0
  ownerLock : Bool := false
  resetAt : Option Nat := none
  settings : List (BitVec 16 × BitVec 8 × Nat × List Byte × BitVec 8) := []
  resetLog : List Byte := []
  stackRate : List Nat := [0, 0, 0, 0, 0, 0, 0, 0]
  /-- 0 not run, 1 passed, 2 failed -/
  selfTest : List Nat := [0, 0, 0, 0, 0, 0, 0, 0]
  deriving DecidableEq, Repr, Inhabited

/-- The partition (R511, R512, R417, R62, R63). -/
structure Partition where
  booted : Bool := false
  id : BitVec 6 := 0
  ep : Ep := 0
  kinds : Tbl Nat := []
  fences : Tbl Nat := []
  masks : List (BitVec 34) := [0, 0, 0, 0, 0, 0, 0, 0]
  epoch : Epoch := 0
  advancedAt : Nat := 0
  prevRetired : Bool := true
  early : Bool := false
  bootCmd : Option MgrRef := none
  timeTaken : Bool := false
  deriving DecidableEq, Repr, Inhabited

end Sys2Proof.Machine
end

