-- ==== Sys2Proof/Machine/State.lean ====
section
/-! DEFINITION. Machine/State.lean: the whole state of the block (INVENTORY.md, State), the reasons a step can
stop, and the state after reset. -/

namespace Sys2Proof.Machine

/-- Why a step faults.  No meaning raises a fault: the spec gives every command an effect.  Safe. -/
inductive Fault where
  /-- Raised by no one: a place for a fault the spec would name.  Safe. -/
  | none
  deriving DecidableEq, Repr, Inhabited

/-- Why a step is refused. -/
inductive Refusal where
  /-- Raised by Dispatch for a command that has no meaning yet.  Safe. -/
  | notModelled (mnemonic : String)
  deriving DecidableEq, Repr, Inhabited

/-- Everything the QF960 holds but the queue of commands. -/
structure Qf where
  obs : Observe := {}
  boot : Boot := {}
  part : Partition := {}
  pwr : Power := {}
  pool : Pool := {}
  ver : Versions := {}
  edge : Edge := {}
  home : Home := {}
  qps : Qps := {}
  cum : Cumulus := {}
  eng : Engines := {}
  links : Tbl Link := []
  linkPar : LinkParams := {}
  sw : Switch := {}
  sched : Sched := {}
  sec : Security := {}
  flt : Faults := {}
  ens : Ensign := {}
  mgmt : Mgmt := {}
  host : HostIf := {}
  dbg : Debug := {}
  /-- the tier-0 system area, sparse: unlisted bytes read 0 (R471, R512) -/
  sys : List Host.Cell := []
  /-- how many free values have been taken (the model's own; log 9) -/
  freeCount : Nat := 0
  deriving DecidableEq, Repr, Inhabited

/-- The state: the block, and the queue of commands that wait, first in, first out. -/
structure State where
  qf : Qf := {}
  pending : List Instr := []
  deriving DecidableEq, Repr, Inhabited

/-- The entries that the settings store keeps (R515): every RW entry that no session holds for itself. -/
def storedEntries : List Entry := entries.filter (fun e => e.access = .rw && !perSession e.index e.sub)

/-- The image of slot A at manufacture (log 4): it knows every stored entry, in format 1. -/
def factoryImage : FwImage :=
  { magic := 0x45444E51, format := 1, version := 1, length := 64, dictRevision := 2
    settingsEntries := 128, settings := storedEntries.map (fun e => (e.index, e.sub, 1)) }

/-- The machine before its 48 V input rises: every dictionary entry at its Default, every field at its
Reset (log 4 lists the values the spec does not give). -/
def State.reset : State :=
  { qf := { boot := { slotA := some { image := factoryImage, sigGood := true } } }, pending := [] }

end Sys2Proof.Machine
end

