-- ==== Sys2Proof/Machine/Operands.lean ====
section
/-! DEFINITION. Machine/Operands.lean: the operand forms of the commands: bytes and lines (R4, R292), packet
slots (R300, R302, Tables LINK-5, LINK-6, LINK-8), work requests (Table COPY-4), wait and Pennant records,
doorbell words and the packed records the block writes. -/

namespace Sys2Proof.Machine

/-- Fields from the highest bit to the lowest, each a width and a value (R5). -/
def packHi (fs : List (Nat × Nat)) : Nat :=
  fs.foldl (fun a f => a * 2 ^ f.1 + f.2 % 2 ^ f.1) 0

/-- The value of bits lo+n-1 to lo. -/
def nfld (x lo n : Nat) : Nat := x / 2 ^ lo % 2 ^ n

/-- Bytes of a bit string, lowest first (R4). -/
def bytesOf {w : Nat} (n : Nat) (x : BitVec w) : List Byte := natLe n x.toNat

/-- The bit string of some bytes, byte 0 lowest. -/
def bitsOf (w : Nat) (bs : List Byte) : BitVec w := BitVec.ofNat w (leNat bs)

/-- The n bytes from offset o, zero beyond the end. -/
def slice (bs : List Byte) (o n : Nat) : List Byte :=
  ((bs.drop o).take n) ++ List.replicate (n - (bs.length - o)) 0

/-- A line's bytes. -/
def lineBytes (l : Line) : List Byte := bytesOf 64 l
/-- A line from its bytes. -/
def lineOf (bs : List Byte) : Line := bitsOf 512 bs

/-- A byte mask widened to bits. -/
def maskBits (m : BitVec 64) : Line :=
  BitVec.ofNat 512 ((List.range 64).foldl
    (fun a i => if m.getLsbD i then a + 255 * 2 ^ (8 * i) else a) 0)

/-- New bytes where the mask is set, old bytes elsewhere (R109). -/
def mergeLine (old new : Line) (m : BitVec 64) : Line :=
  let b := maskBits m
  (new &&& b) ||| (old &&& ~~~b)

/-- A mask of n bytes from offset o. -/
def maskOf (o n : Nat) : BitVec 64 := BitVec.ofNat 64 ((2 ^ n - 1) * 2 ^ o)

/-- The whole-line mask. -/
def fullMask : BitVec 64 := BitVec.allOnes 64

end Sys2Proof.Machine

namespace Sys2Proof
open Sys2Proof.Machine

/-! ### Packets -/

/-- The base header (Table LINK-5). -/
def Packet.header (p : Packet) : BitVec 256 :=
  p.addr ++ p.mapEpoch ++ p.keyGen ++ p.keyTenant ++ p.tenant ++ p.stream ++ p.tag ++ p.status ++
  p.atomicOp ++ p.atomicWidth ++ p.view ++ bit p.world ++ bit p.release ++ bit p.acquire ++
  bit p.relaxed ++ bit p.far ++ bit p.pennant.isSome ++ bit p.aux.isSome ++ bit p.qp.isSome ++
  bit p.msg.isSome ++ BitVec.ofNat 13 p.payload.length ++ p.srcEp ++ p.destEp ++ p.partitionId ++
  p.tc ++ p.vc ++ p.rsvd ++ p.opcode

/-- The COL header (Table LINK-8). -/
def ColHdr.bits (c : ColHdr) : BitVec 256 :=
  c.groupId ++ c.instanceSeq ++ c.firstBlock ++ c.run ++ c.form ++ bit c.control ++ c.reason ++
  c.op ++ c.inFmt ++ c.outFmt ++ bit c.mode ++ c.elements ++ c.commitTime ++ c.rsvd

/-- A COL header from its bits. -/
def ColHdr.ofBits (x : BitVec 256) : ColHdr where
  groupId := fld x 244 12
  instanceSeq := fld x 212 32
  firstBlock := fld x 180 32
  run := fld x 164 16
  form := fld x 162 2
  control := x.getLsbD 161
  reason := fld x 153 8
  op := fld x 149 4
  inFmt := fld x 145 4
  outFmt := fld x 141 4
  mode := x.getLsbD 140
  elements := fld x 108 32
  commitTime := fld x 44 64
  rsvd := fld x 0 44

/-- The MSG header (Table LINK-6). -/
def MsgHdr.bits (m : MsgHdr) : BitVec 128 :=
  m.msgId ++ m.offset ++ m.totalLen ++ bit m.completionReq ++ m.rsvd

/-- A MSG header from its bits. -/
def MsgHdr.ofBits (x : BitVec 128) : MsgHdr where
  msgId := fld x 104 24
  offset := fld x 72 32
  totalLen := fld x 40 32
  completionReq := x.getLsbD 39
  rsvd := fld x 0 39

/-- The QP header (Table LINK-6). -/
def QpHdr.bits (h : QpHdr) : BitVec 128 := h.originEp ++ h.qpn ++ h.ownEpoch ++ h.psn ++ h.rsvd

/-- A QP header from its bits. -/
def QpHdr.ofBits (x : BitVec 128) : QpHdr where
  originEp := fld x 114 14
  qpn := fld x 98 16
  ownEpoch := fld x 66 32
  psn := fld x 34 32
  rsvd := fld x 0 34

/-- The AUX header (Table LINK-6). -/
def AuxHdr.bits (h : AuxHdr) : BitVec 128 := h.byteMask ++ h.rsvd ++ h.counterAddr

/-- An AUX header from its bits. -/
def AuxHdr.ofBits (x : BitVec 128) : AuxHdr where
  byteMask := fld x 64 64
  rsvd := fld x 60 4
  counterAddr := fld x 0 60

/-- The Pennant record (Table ORDER-3). -/
def PennantRec.bits (r : PennantRec) : BitVec 256 :=
  r.flagAddr ++ r.flagValue ++ r.stream ++ r.flagOp ++ bit r.flagWidth ++ bit r.scope ++
  r.keyTenant ++ r.keyGen ++ r.view ++ r.rsvd

/-- A Pennant record from its bits. -/
def PennantRec.ofBits (x : BitVec 256) : PennantRec where
  flagAddr := fld x 192 64
  flagValue := fld x 128 64
  stream := fld x 110 18
  flagOp := fld x 106 4
  flagWidth := x.getLsbD 105
  scope := x.getLsbD 104
  keyTenant := fld x 92 12
  keyGen := fld x 84 8
  view := fld x 81 3
  rsvd := fld x 0 81

/-- The wait record (Table ORDER-5). -/
def WaitRec.bits (r : WaitRec) : BitVec 256 :=
  r.addr ++ r.compare ++ r.cond ++ bit r.width ++ fld r.rsvd 64 27 ++ r.timeoutUs ++ fld r.rsvd 0 64

/-- A wait record from its bits. -/
def WaitRec.ofBits (x : BitVec 256) : WaitRec where
  addr := fld x 192 64
  compare := fld x 128 64
  cond := fld x 124 4
  width := x.getLsbD 123
  timeoutUs := fld x 64 32
  rsvd := fld x 96 27 ++ fld x 0 64

/-- Sixteen bytes as a slot. -/
def slotOf (bs : List Byte) : BitVec 128 := bitsOf 128 bs

/-- The payload padded with zeros into slots (R300). -/
def payloadSlots : Nat → List Byte → List (BitVec 128)
  | 0, _ => []
  | n + 1, bs => slotOf (bs.take 16) :: payloadSlots n (bs.drop 16)

/-- A 32-byte header as two slots, low slot first (R292). -/
def twoSlots (x : BitVec 256) : List (BitVec 128) := [fld x 0 128, fld x 128 128]

/-- The slots of a packet (R300, R302). -/
def Packet.slots (p : Packet) : List (BitVec 128) :=
  twoSlots p.header ++
  (match p.col with | some c => twoSlots c.bits | none => []) ++
  (match p.msg with | some m => [m.bits] | none => []) ++
  (match p.qp with | some h => [h.bits] | none => []) ++
  (match p.aux with | some h => [h.bits] | none => []) ++
  (match p.pennant with | some r => twoSlots r.bits | none => []) ++
  payloadSlots (ceilDiv p.payload.length 16) p.payload

/-- How many slots a packet takes (R300, R302). -/
def Packet.slotCount (p : Packet) : Nat :=
  2 + (if p.col.isSome then 2 else 0) + b2n p.msg.isSome + b2n p.qp.isSome + b2n p.aux.isSome +
  (if p.pennant.isSome then 2 else 0) + ceilDiv p.payload.length 16

/-- length(p) of R362. -/
def Packet.length (p : Packet) : Nat := 16 * p.slotCount

/-- Pool cells of a packet (R329). -/
def Packet.cells (p : Packet) : Nat := ceilDiv p.slotCount 16

/-- How many slots the packet whose base header this is takes in all. -/
def headerSlots (h : BitVec 256) : Nat :=
  2 + (if fld h 35 3 = (4 : BitVec 3) then 2 else 0) + b2n (h.getLsbD 88) + b2n (h.getLsbD 89) +
  b2n (h.getLsbD 90) + (if h.getLsbD 91 then 2 else 0) + ceilDiv (fld h 75 13).toNat 16

/-- The bytes of some slots. -/
def slotBytes (ss : List (BitVec 128)) : List Byte := ss.flatMap (fun s => bytesOf 16 s)

/-- A packet from exactly its slots (R300, R302). -/
def parsePacket (ss : List (BitVec 128)) : Option Packet :=
  match ss with
  | a :: b :: rest =>
    let h : BitVec 256 := b ++ a
    let isCol := fld h 35 3 = (4 : BitVec 3)
    let col := if isCol then
        match rest with | x :: y :: _ => some (ColHdr.ofBits (y ++ x)) | _ => none
      else none
    let rest := if isCol then rest.drop 2 else rest
    let msg := if h.getLsbD 88 then rest.head?.map MsgHdr.ofBits else none
    let rest := if h.getLsbD 88 then rest.drop 1 else rest
    let qp := if h.getLsbD 89 then rest.head?.map QpHdr.ofBits else none
    let rest := if h.getLsbD 89 then rest.drop 1 else rest
    let aux := if h.getLsbD 90 then rest.head?.map AuxHdr.ofBits else none
    let rest := if h.getLsbD 90 then rest.drop 1 else rest
    let pen := if h.getLsbD 91 then
        match rest with | x :: y :: _ => some (PennantRec.ofBits (y ++ x)) | _ => none
      else none
    let rest := if h.getLsbD 91 then rest.drop 2 else rest
    some
      { opcode := fld h 0 8, rsvd := fld h 8 27, vc := fld h 35 3, tc := fld h 38 3,
        partitionId := fld h 41 6, destEp := fld h 47 14, srcEp := fld h 61 14,
        far := h.getLsbD 92, relaxed := h.getLsbD 93, acquire := h.getLsbD 94,
        release := h.getLsbD 95, world := h.getLsbD 96, view := fld h 97 3,
        atomicWidth := fld h 100 2, atomicOp := fld h 102 4, status := fld h 106 8,
        tag := fld h 114 16, stream := fld h 130 18, tenant := fld h 148 12,
        keyTenant := fld h 160 12, keyGen := fld h 172 8, mapEpoch := fld h 180 16,
        addr := fld h 196 60, col := col, msg := msg, qp := qp, aux := aux, pennant := pen,
        payload := (slotBytes rest).take (fld h 75 13).toNat }
  | _ => none

end Sys2Proof

namespace Sys2Proof.Machine

/-- Home-local line number of an address, bits 45:6 (R63). -/
def lineNo (a : BitVec 60) : LineNo := fld a 6 40
/-- Home extent slot of an address (R31). -/
def slotNo (a : BitVec 60) : Slot := fld a 28 18
/-- Home endpoint of an address (R31). -/
def homeEp (a : BitVec 60) : Ep := fld a 46 14
/-- The slot of a line number. -/
def lineSlot (l : LineNo) : Slot := fld l 22 18
/-- The line number within its extent. -/
def lineInExt (l : LineNo) : BitVec 22 := fld l 0 22
/-- The fabric page of a line. -/
def linePage (l : LineNo) : BitVec 34 := fld l 6 34
/-- The home-local byte address of a line. -/
def lineAddr (l : LineNo) : BitVec 60 := (l.zeroExtend 60) <<< 6
/-- First line of a slot. -/
def slotLine (s : Slot) (i : Nat) : LineNo := BitVec.ofNat 40 (s.toNat * 4194304 + i)
/-- A PPA (R31). -/
def ppaOf (home : Ep) (slot : Slot) (off : BitVec 28) : Ppa := home ++ slot ++ off

/-! ### Opcodes (Tables COH-4, LINK-7, CUM-5, FAULT-5, OBS-3) -/

namespace Opc
def rdNc : BitVec 8 := 0x01
def rdShared : BitVec 8 := 0x02
def rdOwn : BitVec 8 := 0x03
def upgrade : BitVec 8 := 0x04
def wrNc : BitVec 8 := 0x05
def wrFullNc : BitVec 8 := 0x06
def wbDirty : BitVec 8 := 0x07
def evictClean : BitVec 8 := 0x08
def atomic : BitVec 8 := 0x09
def pennant : BitVec 8 := 0x0A
def streamReset : BitVec 8 := 0x0B
def waitRegister : BitVec 8 := 0x0C
def cancel : BitVec 8 := 0x0D
def wrBulk : BitVec 8 := 0x0E
def rdBulk : BitVec 8 := 0x0F
def doorbell : BitVec 8 := 0x10
def qpClose : BitVec 8 := 0x11
def qpAbort : BitVec 8 := 0x12
def ownMsg : BitVec 8 := 0x13
def reclaim : BitVec 8 := 0x14
def searchShard : BitVec 8 := 0x15
def sideAppend : BitVec 8 := 0x16
def snpInv : BitVec 8 := 0x20
def snpShare : BitVec 8 := 0x21
def snpCur : BitVec 8 := 0x22
def trayRd : BitVec 8 := 0x30
def trayWr : BitVec 8 := 0x31
def trayFill : BitVec 8 := 0x32
def grantS : BitVec 8 := 0x40
def grantE : BitVec 8 := 0x41
def grantM : BitVec 8 := 0x42
def placed : BitVec 8 := 0x43
def atomicResult : BitVec 8 := 0x44
def fail : BitVec 8 := 0x45
def wbDone : BitVec 8 := 0x46
def ownAnswer : BitVec 8 := 0x47
def searchAnswer : BitVec 8 := 0x48
def waitDone : BitVec 8 := 0x49
def pennantDone : BitVec 8 := 0x4A
def trayDone : BitVec 8 := 0x4B
def snpRspI : BitVec 8 := 0x50
def snpRspS : BitVec 8 := 0x51
def snpRspWb : BitVec 8 := 0x52
def cmpAck : BitVec 8 := 0x53
def snpRspKeep : BitVec 8 := 0x54
def dataClean : BitVec 8 := 0x60
def dataDirty : BitVec 8 := 0x61
def dataWrite : BitVec 8 := 0x62
def colLaunch : BitVec 8 := 0x80
def colExp : BitVec 8 := 0x81
def colEbcast : BitVec 8 := 0x82
def colData : BitVec 8 := 0x83
def colPartial : BitVec 8 := 0x84
def colCommit : BitVec 8 := 0x85
def colResult : BitVec 8 := 0x86
def colDone : BitVec 8 := 0x87
def colAbortReq : BitVec 8 := 0x88
def colAbort : BitVec 8 := 0x89
def colAbortAnswer : BitVec 8 := 0x8A
def throttle : BitVec 8 := 0xC0
def heartbeat : BitVec 8 := 0xC1
def fencePropose : BitVec 8 := 0xC2
def fenceVote : BitVec 8 := 0xC3
def fenceCommit : BitVec 8 := 0xC4
def fenceAbandon : BitVec 8 := 0xC5
def ownMirror : BitVec 8 := 0xC6
def ownMirrorAck : BitVec 8 := 0xC7
def squall : BitVec 8 := 0xC8
def horizon : BitVec 8 := 0xC9
end Opc

/-- The virtual channel an opcode travels on: 0 REQ, 1 RSP, 2 SNP, 3 DAT, 4 COL, 5 MGT (R296, Tables
COH-4 and LINK-7); none for a reserved opcode. -/
def vcOf (o : BitVec 8) : Option (BitVec 3) :=
  let n := o.toNat
  if (1 ≤ n ∧ n ≤ 0x16) ∨ n = 0x30 ∨ n = 0x31 ∨ n = 0x32 then some 0
  else if (0x40 ≤ n ∧ n ≤ 0x4B) ∨ (0x50 ≤ n ∧ n ≤ 0x54) then some 1
  else if 0x20 ≤ n ∧ n ≤ 0x22 then some 2
  else if 0x60 ≤ n ∧ n ≤ 0x62 then some 3
  else if 0x80 ≤ n ∧ n ≤ 0x8A then some 4
  else if 0xC0 ≤ n ∧ n ≤ 0xC9 then some 5
  else none

/-- COL messages of the control lane (Table CUM-5). -/
def colControl (o : BitVec 8) : Bool :=
  o = Opc.colLaunch || o = Opc.colExp || o = Opc.colEbcast || o = Opc.colCommit ||
  o = Opc.colAbortReq || o = Opc.colAbort || o = Opc.colAbortAnswer

/-- Whether an opcode is a request (its channel is REQ). -/
def isRequest (o : BitVec 8) : Bool := vcOf o = some 0

/-! ### Work requests (Table COPY-4) -/

namespace Wr
def opcode (w : BitVec 512) : BitVec 8 := fld w 504 8
def format (w : BitVec 512) : BitVec 4 := fld w 500 4
def signalled (w : BitVec 512) : Bool := w.getLsbD 499
def fence (w : BitVec 512) : Bool := w.getLsbD 498
def release (w : BitVec 512) : Bool := w.getLsbD 497
def acquire (w : BitVec 512) : Bool := w.getLsbD 496
def relaxed (w : BitVec 512) : Bool := w.getLsbD 495
def atomicOp (w : BitVec 512) : BitVec 4 := fld w 491 4
def atomicWidth (w : BitVec 512) : BitVec 2 := fld w 489 2
def rsvd (w : BitVec 512) : BitVec 9 := fld w 480 9
def len (w : BitVec 512) : Nat := (fld w 448 32).toNat
def dest (w : BitVec 512) : BitVec 64 := fld w 384 64
def source (w : BitVec 512) : BitVec 64 := fld w 320 64
def counter (w : BitVec 512) : BitVec 64 := fld w 256 64
def payload (w : BitVec 512) : BitVec 256 := fld w 0 256
end Wr

/-- A doorbell word (Table COPY-3): queue pair, producer, consumer, reserved bits. -/
def doorbellWord (w : BitVec 64) : Qpn × BitVec 16 × BitVec 16 × BitVec 16 :=
  (fld w 48 16, fld w 32 16, fld w 16 16, fld w 0 16)

/-- A completion entry (Table COPY-6). -/
def copyCompletion (status opcode : BitVec 8) (qpn wr : BitVec 16) (late : Bool) (retr : Nat)
    (phase : Bool) (placed : Nat) (result : BitVec 128) : BitVec 256 :=
  BitVec.ofNat 256 (packHi [(8, status.toNat), (8, opcode.toNat), (16, qpn.toNat), (16, wr.toNat),
    (1, b2n late), (3, min retr 7), (1, b2n phase), (11, 0), (64, placed), (128, result.toNat)])

/-- A manager completion entry without its phase (Table MGMT-16). -/
def mgrCompletion (status opcode : BitVec 8) (index tag : BitVec 16) (prog : Option Nat)
    (result : BitVec 128) : BitVec 256 :=
  BitVec.ofNat 256 (packHi [(8, status.toNat), (8, opcode.toNat), (16, index.toNat), (16, tag.toNat),
    (1, 0), (11, prog.getD 0x7FF), (68, 0), (128, result.toNat)])

/-- An event entry without its phase (Table MGMT-17). -/
def eventEntry (kind : Nat) (status : BitVec 8) (qpn wr : BitVec 16) (ep : Ep) (time : Nat)
    (detail : Nat) : BitVec 256 :=
  BitVec.ofNat 256 (packHi [(8, kind), (8, status.toNat), (16, qpn.toNat), (16, wr.toNat),
    (14, ep.toNat), (1, 0), (65, 0), (64, time), (64, detail)])

/-- Bytes of a 256-bit ring entry. -/
def entryBytes (e : BitVec 256) : List Byte := bytesOf 32 e

/-- A progress object's 256 bits (Table MGMT-8). -/
def Progress.bits (p : Progress) : BitVec 256 :=
  BitVec.ofNat 256 (packHi [(4, p.kind), (2, p.state), (8, p.status.toNat), (7, p.percent),
    (3, p.unit), (40, 0), (64, p.position), (64, p.total), (64, p.start)])

/-- A home extent map entry's 128 bits (Table POOL-4). -/
def Extent.bits (e : Extent) : BitVec 128 :=
  let st := match e.state with
    | .free => 0 | .assigned => 1 | .withdrawing => 2 | .scrubbing => 3 | .moved => 4
  BitVec.ofNat 128 (packHi [(3, st), (1, b2n e.prot), (1, b2n e.sealedX), (1, b2n e.versioned),
    (14, e.trayEp.toNat), (13, e.trayExtent.toNat), (12, e.t0Frame.toNat), (14, e.cirrusEp.toNat),
    (16, e.cirrusExtent.toNat), (1, b2n e.cirrusValid), (12, e.tenant.toNat), (20, e.region.toNat),
    (14, e.newHome.toNat), (6, 0)])

/-- The range of the natural numbers below n that a width-w argument must lie in (R473). -/
def inRange {w : Nat} (x : BitVec w) (n : Nat) : Bool := x.toNat < n

/-- Split a list into pieces of at most n, at most k of them. -/
def chunks {α : Type} (n : Nat) : Nat → List α → List (List α)
  | 0, _ => []
  | _ + 1, [] => []
  | k + 1, xs => xs.take n :: chunks n k (xs.drop n)

end Sys2Proof.Machine
end

