-- ==== Sys2Proof/Machine/Crypt.lean ====
section
/-! DEFINITION. Machine/Crypt.lean: XTS-AES-256 and the line MAC (R382, R383), AES-256-GCM of flits (R315), the
CRC-64 of R291 and HKDF-SHA-512 (R380), over the uninterpreted AES-256 and SHA-512 of Config (log 6). -/

namespace Sys2Proof.Machine

/-- Multiplication of an XTS tweak by alpha (IEEE 1619). -/
def xtsNext (t : BitVec 128) : BitVec 128 :=
  if t.getLsbD 127 then (t <<< 1) ^^^ 0x87 else t <<< 1

/-- The four block tweaks of a data unit. -/
def xtsTweaks (k2 : BitVec 256) (addr : BitVec 128) : List (BitVec 128) :=
  let t0 := Config.aes256 k2 addr
  let t1 := xtsNext t0
  let t2 := xtsNext t1
  [t0, t1, t2, xtsNext t2]

/-- Block j of a line. -/
def lineBlock (l : Line) (j : Nat) : BitVec 128 := fld l (128 * j) 128

/-- A line from its four blocks. -/
def lineOfBlocks (b0 b1 b2 b3 : BitVec 128) : Line := b3 ++ b2 ++ b1 ++ b0

/-- Encryption of one XTS block under its tweak. -/
def xtsBlockEnc (k1 : BitVec 256) (t p : BitVec 128) : BitVec 128 :=
  Config.aes256 k1 (p ^^^ t) ^^^ t

/-- Decryption of one XTS block under its tweak. -/
def xtsBlockDec (k1 : BitVec 256) (t c : BitVec 128) : BitVec 128 :=
  (Config.aes256 k1).symm (c ^^^ t) ^^^ t

/-- XTS-AES-256 of a line (R382). -/
def xtsEnc (k1 k2 : BitVec 256) (addr : BitVec 128) (l : Line) : Line :=
  let t0 := Config.aes256 k2 addr
  let t1 := xtsNext t0
  let t2 := xtsNext t1
  let t3 := xtsNext t2
  lineOfBlocks (xtsBlockEnc k1 t0 (lineBlock l 0)) (xtsBlockEnc k1 t1 (lineBlock l 1))
    (xtsBlockEnc k1 t2 (lineBlock l 2)) (xtsBlockEnc k1 t3 (lineBlock l 3))

/-- The inverse of xtsEnc. -/
def xtsDec (k1 k2 : BitVec 256) (addr : BitVec 128) (l : Line) : Line :=
  let t0 := Config.aes256 k2 addr
  let t1 := xtsNext t0
  let t2 := xtsNext t1
  let t3 := xtsNext t2
  lineOfBlocks (xtsBlockDec k1 t0 (lineBlock l 0)) (xtsBlockDec k1 t1 (lineBlock l 1))
    (xtsBlockDec k1 t2 (lineBlock l 2)) (xtsBlockDec k1 t3 (lineBlock l 3))

/-- A block with its bytes in the other order. -/
def revBlock (x : BitVec 128) : BitVec 128 := bitsOf 128 (bytesOf 16 x).reverse

/-- Product in the field of GHASH, leftmost bit first. -/
def gmul (x y : BitVec 128) : BitVec 128 :=
  ((List.range 128).foldl (fun (zv : BitVec 128 × BitVec 128) i =>
    let z := if x.getLsbD (127 - i) then zv.1 ^^^ zv.2 else zv.1
    let v := if zv.2.getLsbD 0 then (zv.2 >>> 1) ^^^ (0xE1#128 <<< 120) else zv.2 >>> 1
    (z, v)) (0, y)).1

/-- GHASH of some blocks under h, blocks as little-endian numbers. -/
def ghash (h : BitVec 128) (bs : List (BitVec 128)) : BitVec 128 :=
  revBlock (bs.foldl (fun y b => gmul (y ^^^ revBlock b) (revBlock h)) 0)

/-- The line MAC (R383). -/
def lineMac (k : BitVec 256) (c : Line) (n : LineNo) (g : KeyGen) : BitVec 56 :=
  let h := Config.aes256 k 0
  let x := ghash h [lineBlock c 0, lineBlock c 1, lineBlock c 2, lineBlock c 3]
  let t : BitVec 128 := (n.zeroExtend 128) ||| ((g.zeroExtend 128) <<< 40)
  fld (Config.aes256 k (x ^^^ t)) 0 56

/-- The XTS data key, tweak key and MAC key of a memory key (Table SEC-2). -/
def dataKey (k : List Byte) : BitVec 256 := bitsOf 256 (slice k 0 32)
/-- The XTS tweak key. -/
def tweakKey (k : List Byte) : BitVec 256 := bitsOf 256 (slice k 32 32)
/-- The MAC key. -/
def macKey (k : List Byte) : BitVec 256 := bitsOf 256 (slice k 64 32)

/-- The tweak of a line: its home-local byte address (R382). -/
def lineTweak (n : LineNo) : BitVec 128 := (n.zeroExtend 128) <<< 6

/-- The stored form of a line: ciphertext, GEN_TAG and MAC (R382, R383, Table SEC-3). -/
def sealLine (k : List Byte) (g : KeyGen) (n : LineNo) (l : Line) : StoredLine :=
  let c := xtsEnc (dataKey k) (tweakKey k) (lineTweak n) l
  { data := c, side := (0 : BitVec 1) ++ fld g 0 7 ++ lineMac (macKey k) c n g }

/-- A zero line as stored (R45, Table SEC-3). -/
def zeroStored : StoredLine := { data := 0, side := 0x8000000000000000 }

/-- ZERO_LINE of a sideband. -/
def isZeroLine (s : StoredLine) : Bool := s.side.getLsbD 63
/-- GEN_TAG of a sideband. -/
def genTag (s : StoredLine) : BitVec 7 := fld s.side 56 7

/-- Whether a stored line's MAC verifies under a key and generation (R384). -/
def macGood (k : List Byte) (g : KeyGen) (n : LineNo) (s : StoredLine) : Bool :=
  fld s.side 0 56 = lineMac (macKey k) s.data n g

/-- The plaintext of a stored line (R382). -/
def openLine (k : List Byte) (n : LineNo) (s : StoredLine) : Line :=
  xtsDec (dataKey k) (tweakKey k) (lineTweak n) s.data

/-! ### AES-256-GCM (R315) -/

/-- A 32-bit big-endian counter block after a 12-byte IV. -/
def gcmBlock (iv : List Byte) (c : Nat) : BitVec 128 :=
  bitsOf 128 (slice iv 0 12 ++ (natLe 4 c).reverse)

/-- Key stream bytes for n blocks from counter 2. -/
def gcmStream (k : BitVec 256) (iv : List Byte) (n : Nat) : List Byte :=
  (List.range n).flatMap (fun i => bytesOf 16 (Config.aes256 k (gcmBlock iv (i + 2))))

/-- Bytes combined by exclusive or, to the length of the first. -/
def xorBytes (a b : List Byte) : List Byte := List.zipWith (· ^^^ ·) a b

/-- Bytes as blocks, zero padded. -/
def blocksOf (bs : List Byte) : List (BitVec 128) :=
  (chunks 16 (ceilDiv bs.length 16) bs).map (fun c => bitsOf 128 c)

/-- The GCM tag of some additional data and ciphertext. -/
def gcmTag (k : BitVec 256) (iv aad ct : List Byte) : List Byte :=
  let h := Config.aes256 k 0
  let lens := bitsOf 128 ((natLe 8 (8 * aad.length)).reverse ++ (natLe 8 (8 * ct.length)).reverse)
  let s := ghash h (blocksOf aad ++ blocksOf ct ++ [lens])
  bytesOf 16 (s ^^^ Config.aes256 k (gcmBlock iv 1))

/-- GCM encryption, which is its own inverse on the bytes. -/
def gcmCrypt (k : BitVec 256) (iv bs : List Byte) : List Byte :=
  xorBytes bs (gcmStream k iv (ceilDiv bs.length 16))

/-! ### CRC-64 (R291) -/

/-- One bit of the reflected CRC. -/
def crcBit (c : BitVec 64) : BitVec 64 :=
  if c.getLsbD 0 then (c >>> 1) ^^^ 0xC96C5795D7870F42 else c >>> 1

/-- CRC-64 with polynomial 0x42F0_E1EB_A9EA_3693, initial and final all ones, low bit first (R291). -/
def crc64 (bs : List Byte) : BitVec 64 :=
  ~~~(bs.foldl (fun c b =>
    crcBit (crcBit (crcBit (crcBit (crcBit (crcBit (crcBit (crcBit (c ^^^ b.zeroExtend 64)))))))))
    (BitVec.allOnes 64))

/-! ### SHA-512, HMAC and HKDF (R380) -/

/-- SHA-512 as bytes. -/
def sha512 (m : List Byte) : List Byte := bytesOf 64 (Config.sha512 m)

/-- HMAC-SHA-512. -/
def hmac (k m : List Byte) : List Byte :=
  let k := slice (if k.length > 128 then sha512 k else k) 0 128
  sha512 (k.map (· ^^^ 0x5C) ++ sha512 (k.map (· ^^^ 0x36) ++ m))

/-- HKDF-Extract. -/
def hkdfExtract (salt ikm : List Byte) : List Byte := hmac salt ikm

/-- The blocks of HKDF-Expand. -/
def hkdfBlocks (prk info : List Byte) : Nat → Nat → List Byte → List Byte
  | 0, _, _ => []
  | n + 1, i, prev =>
    let t := hmac prk (prev ++ info ++ [BitVec.ofNat 8 i])
    t ++ hkdfBlocks prk info n (i + 1) t

/-- HKDF-Expand of n bytes. -/
def hkdfExpand (prk info : List Byte) (n : Nat) : List Byte :=
  (hkdfBlocks prk info (ceilDiv n 64) 1 []).take n

/-- ASCII bytes. -/
def ascii (s : String) : List Byte := s.toList.map (fun c => BitVec.ofNat 8 c.toNat)

/-- DRK (R378). -/
def deviceRootKey : List Byte := hkdfExtract (ascii "EDN QF960 DRK 1") Config.pufSecret

/-- The memory key of a tenant and generation (Table SEC-2). -/
def memoryKey (drk : List Byte) (part : BitVec 6) (t : Tenant) (g : KeyGen) (seed : List Byte) :
    List Byte :=
  hkdfExpand drk (ascii "MEM" ++ natLe 1 part.toNat ++ natLe 2 t.toNat ++ natLe 1 g.toNat ++
    slice seed 0 32) 96

end Sys2Proof.Machine
end

