-- ==== Sys2Proof/Machine/Arith.lean ====
section
/-! DEFINITION. Machine/Arith.lean: IEEE 754 arithmetic with round-to-nearest-even (R96, R163, R164, R216), the
canonical F64 integers (R165 to R170), and histograms of R201. -/

namespace Sys2Proof.Machine

/-- A binary floating-point format: exponent bits and fraction bits. -/
structure Fmt where
  ebits : Nat
  fbits : Nat
  deriving DecidableEq, Repr

/-- bf16. -/
def bf16 : Fmt := { ebits := 8, fbits := 7 }
/-- binary32. -/
def f32 : Fmt := { ebits := 8, fbits := 23 }
/-- binary64. -/
def f64 : Fmt := { ebits := 11, fbits := 52 }

/-- A decoded value: a NaN, an infinity with its sign, or a finite number, sign, m and e for m * 2^e. -/
inductive FVal where
  | nan
  | inf (neg : Bool)
  | fin (neg : Bool) (m : Nat) (e : Int)
  deriving DecidableEq, Repr

/-- Exponent bias. -/
def Fmt.bias (f : Fmt) : Int := 2 ^ (f.ebits - 1) - 1
/-- The exponent of the unit of the least subnormal. -/
def Fmt.emin (f : Fmt) : Int := 1 - f.bias - f.fbits
/-- Width of the format. -/
def Fmt.width (f : Fmt) : Nat := 1 + f.ebits + f.fbits
/-- The bits of positive infinity. -/
def Fmt.infBits (f : Fmt) : Nat := (2 ^ f.ebits - 1) * 2 ^ f.fbits
/-- The canonical quiet NaN (R96). -/
def Fmt.qnan (f : Fmt) : Nat := f.infBits + 2 ^ (f.fbits - 1)

/-- Decode the bits of a format. -/
def Fmt.decode (f : Fmt) (x : Nat) : FVal :=
  let frac := nfld x 0 f.fbits
  let ex := nfld x f.fbits f.ebits
  let neg := nfld x (f.fbits + f.ebits) 1 = 1
  if ex = 2 ^ f.ebits - 1 then (if frac = 0 then .inf neg else .nan)
  else if ex = 0 then .fin neg frac f.emin
  else .fin neg (frac + 2 ^ f.fbits) (f.emin + ((ex : Int) - 1))

/-- m shifted right by s places, rounded half to even (R168). -/
def roundHalfEven (m s : Nat) : Nat :=
  let q := m / 2 ^ s
  let r := m % 2 ^ s
  let h := 2 ^ s / 2
  if s = 0 then m
  else if r > h || (r = h && q % 2 = 1) then q + 1 else q

/-- Round m * 2^e to a format, to nearest even; overflow gives infinity. -/
def Fmt.round (f : Fmt) (neg : Bool) (m : Nat) (e : Int) : Nat :=
  let sgn := if neg then 2 ^ (f.width - 1) else 0
  if m = 0 then sgn
  else
    let n : Int := Nat.log2 m + 1
    let e' := max (e + n - (f.fbits + 1)) f.emin
    let m' := if e' ≤ e then m * 2 ^ (e - e').toNat else roundHalfEven m (e' - e).toNat
    let bits := (e' - f.emin).toNat * 2 ^ f.fbits + m'
    sgn + min bits f.infBits

/-- Encode a decoded value. -/
def Fmt.encode (f : Fmt) : FVal → Nat
  | .nan => f.qnan
  | .inf neg => (if neg then 2 ^ (f.width - 1) else 0) + f.infBits
  | .fin neg m e => f.round neg m e

/-- The integer of m * 2^e in units of 2^e0, for e0 at most e. -/
def scaled (neg : Bool) (m : Nat) (e e0 : Int) : Int :=
  let v : Int := m * 2 ^ (e - e0).toNat
  if neg then -v else v

/-- Exact sum of two values as a value, before rounding (R96). -/
def FVal.add : FVal → FVal → FVal
  | .nan, _ => .nan
  | _, .nan => .nan
  | .inf a, .inf b => if a = b then .inf a else .nan
  | .inf a, _ => .inf a
  | _, .inf b => .inf b
  | .fin na ma ea, .fin nb mb eb =>
    let e0 := min ea eb
    let s := scaled na ma ea e0 + scaled nb mb eb e0
    if s = 0 then .fin (na && nb) 0 e0 else .fin (s < 0) s.natAbs e0

/-- Exact product of two values. -/
def FVal.mul : FVal → FVal → FVal
  | .nan, _ => .nan
  | _, .nan => .nan
  | .inf a, .inf b => .inf (xor a b)
  | .inf a, .fin b m _ => if m = 0 then .nan else .inf (xor a b)
  | .fin b m _, .inf a => if m = 0 then .nan else .inf (xor a b)
  | .fin na ma ea, .fin nb mb eb => .fin (xor na nb) (ma * mb) (ea + eb)

/-- Negation. -/
def FVal.neg : FVal → FVal
  | .nan => .nan
  | .inf a => .inf (!a)
  | .fin a m e => .fin (!a) m e

/-- A quotient with 64 more bits than needed and a sticky bit, so that rounding it is exact. -/
def FVal.div : FVal → FVal → FVal
  | .nan, _ => .nan
  | _, .nan => .nan
  | .inf _, .inf _ => .nan
  | .inf a, .fin b _ _ => .inf (xor a b)
  | .fin a _ _, .inf b => .fin (xor a b) 0 0
  | .fin na ma ea, .fin nb mb eb =>
    if mb = 0 then (if ma = 0 then .nan else .inf (xor na nb))
    else
      let q := ma * 2 ^ 128 / mb
      let r := ma * 2 ^ 128 % mb
      .fin (xor na nb) (2 * q + b2n (r != 0)) (ea - eb - 129)

/-- A square root with a sticky bit, so that rounding it is exact. -/
def FVal.sqrt : FVal → FVal
  | .nan => .nan
  | .inf neg => if neg then .nan else .inf false
  | .fin neg m e =>
    if m = 0 then .fin neg 0 e
    else if neg then .nan
    else
      let odd := e % 2 ≠ 0
      let m' := if odd then 2 * m else m
      let e' := if odd then e - 1 else e
      let n := m' * 2 ^ 128
      let r := Nat.sqrt n
      .fin false (2 * r + b2n (r * r != n)) (e' / 2 - 65)

/-- Add in a format. -/
def Fmt.add (f : Fmt) (a b : Nat) : Nat := f.encode ((f.decode a).add (f.decode b))
/-- Subtract in a format. -/
def Fmt.sub (f : Fmt) (a b : Nat) : Nat := f.encode ((f.decode a).add (f.decode b).neg)
/-- Multiply in a format. -/
def Fmt.mul (f : Fmt) (a b : Nat) : Nat := f.encode ((f.decode a).mul (f.decode b))
/-- Divide in a format. -/
def Fmt.div (f : Fmt) (a b : Nat) : Nat := f.encode ((f.decode a).div (f.decode b))
/-- Square root in a format. -/
def Fmt.sqrt (f : Fmt) (a : Nat) : Nat := f.encode (f.decode a).sqrt
/-- Convert between formats, rounding to nearest even. -/
def Fmt.conv (src dst : Fmt) (a : Nat) : Nat := dst.encode (src.decode a)
/-- Whether bits are a NaN. -/
def Fmt.isNan (f : Fmt) (a : Nat) : Bool := f.decode a == .nan

/-- A key that orders non-NaN bits as their values, with -0 below +0 (R164). -/
def Fmt.order (f : Fmt) (a : Nat) : Int :=
  let m : Int := nfld a 0 (f.width - 1)
  if nfld a (f.width - 1) 1 = 1 then -m - 1 else m

/-- IEEE comparison: less, with -0 equal to +0; false with a NaN (R206). -/
def Fmt.lt (f : Fmt) (a b : Nat) : Bool :=
  let z (x : Nat) : Nat := if nfld x 0 (f.width - 1) = 0 then 0 else x
  !(f.isNan a) && !(f.isNan b) && decide (f.order (z a) < f.order (z b))

/-- IEEE equality: false with a NaN. -/
def Fmt.eq (f : Fmt) (a b : Nat) : Bool :=
  !(f.isNan a) && !(f.isNan b) && !(f.lt a b) && !(f.lt b a)

/-! ### Canonical summation (R165 to R170) -/

/-- The exponent code of a binary32 or bf16 element (R165). -/
def expCode (f : Fmt) (x : Nat) : Nat := nfld x f.fbits f.ebits

/-- The block exponent of an E byte (R165). -/
def blockExp (e : Nat) : Int := (max e 1 : Nat) - 127

/-- Conversion of one element to F64 at block exponent e (R168). -/
def toF64 (f : Fmt) (x : Nat) (e : Int) : Int :=
  match f.decode x with
  | .fin neg m ex =>
    -- ex counts units of the significand: the rule's ex less f
    let shift := ex - e + 40
    let i : Int := if m = 0 then 0
      else if 0 ≤ shift then (m * 2 ^ shift.toNat : Nat) else (roundHalfEven m (-shift).toNat : Nat)
    if neg then -i else i
  | _ => 0

/-- The root's conversion of a sum to the output format (R170), and whether it overflowed. -/
def fromF64 (f : Fmt) (s : Int) (e : Int) : Nat × Bool :=
  if s = 0 then (0, false)
  else
    let r := f.round (s < 0) s.natAbs (e - 40)
    (r, nfld r 0 (f.width - 1) = f.infBits)

/-- Two's complement value of n bits. -/
def signed (n x : Nat) : Int := if nfld x (n - 1) 1 = 1 then (x : Int) - 2 ^ n else x

/-! ### Latency histograms (R201) -/

/-- The upper edge of bin i in ns, times 2^20 and rounded up: 2^((i+1)/4), or 2^24 for the last bin. -/
def binUpper (i : Nat) : Nat :=
  let k := if i ≥ 95 then 96 else i + 1
  -- the least u with u^4 at least 2^k * 2^80
  let n := 2 ^ (k + 80)
  let r := Nat.sqrt (Nat.sqrt n)
  if r ^ 4 ≥ n then r else r + 1

/-- The bin of a latency in ns (R201): the number of edges 2^(i/4), i from 1 to 95, at or below it. -/
def binOf (ns : Nat) : Nat :=
  ((List.range 95).filter (fun i => 2 ^ (i + 1) ≤ ns ^ 4)).length

/-- The bin that holds the 99th percentile of some samples. -/
def p99Bin (samples : List Nat) : Nat :=
  let need := ceilDiv (99 * samples.length) 100
  ((List.range 96).find? (fun b => (samples.filter (· ≤ b)).length ≥ need)).getD 95

end Sys2Proof.Machine
end

