-- ==== Sys2Proof/Machine/Flags.lean ====
section
/-! DEFINITION. Machine/Flags.lean: the computations on words and conditions: atomic operations (Table
ORDER-8), Pennant operations (Table ORDER-3), wait conditions (Table ORDER-5), rights (Table POOL-15), epoch
comparison (R61) and the contention counter (R118). -/

namespace Sys2Proof.Machine

/-- Whether Table ORDER-8 lists a width, in bytes, for an operation code. -/
def atomicWidthOk (op : BitVec 4) (bytes : Nat) : Bool :=
  let n := op.toNat
  if n ≤ 7 then bytes = 4 || bytes = 8
  else if n = 8 || n = 9 then bytes = 4 || bytes = 8 || bytes = 16
  else if n = 10 || n = 11 then bytes = 4
  else if n = 12 then bytes = 8
  else false

/-- The bytes of ATOMIC_WIDTH (Table LINK-5); 0 for the reserved code. -/
def widthBytes (w : BitVec 2) : Nat :=
  match w.toNat with | 0 => 4 | 1 => 8 | 2 => 16 | _ => 0

/-- Two's complement reading of n bytes. -/
def sval (bytes x : Nat) : Int := signed (8 * bytes) (x % 2 ^ (8 * bytes))

/-- The new value of an atomic operand (R94, R96, Table ORDER-8). -/
def atomicNew (op : BitVec 4) (bytes old arg cmp : Nat) : Nat :=
  let m := 2 ^ (8 * bytes)
  let arg := arg % m
  let cmp := cmp % m
  match op.toNat with
  | 0 => (old + arg) % m
  | 1 => Nat.land old arg
  | 2 => Nat.lor old arg
  | 3 => Nat.xor old arg
  | 4 => if sval bytes arg < sval bytes old then arg else old
  | 5 => if sval bytes old < sval bytes arg then arg else old
  | 6 => min old arg
  | 7 => max old arg
  | 8 => arg
  | 9 => if old = cmp then arg else old
  | 10 => f32.add old arg
  | 11 => bf16.add (nfld old 0 16) (nfld arg 0 16) + 65536 * bf16.add (nfld old 16 16) (nfld arg 16 16)
  | 12 => f64.add old arg
  | _ => old

/-- An operation that may run far (R119): integer, SWAP or COMPARE_SWAP. -/
def atomicFarOk (op : BitVec 4) : Bool := op.toNat ≤ 9

/-- An operation that a switch combines (R121). -/
def atomicCombines (op : BitVec 4) : Bool := op.toNat ≤ 3

/-- FLAG_OP applied to a flag (Table ORDER-3); codes 4 to 15 are reserved. -/
def flagNew (op : BitVec 4) (bytes old val : Nat) : Nat :=
  let m := 2 ^ (8 * bytes)
  let val := val % m
  match op.toNat with
  | 0 => val
  | 1 => (old + val) % m
  | 2 => max old val
  | 3 => Nat.lor old val
  | _ => old

/-- COND of a wait record (Table ORDER-5). -/
def waitHolds (r : WaitRec) (value : Nat) : Bool :=
  let bits := if r.width then 32 else 64
  let m := 2 ^ bits
  let c := r.compare.toNat % m
  let v := value % m
  match r.cond.toNat with
  | 0 => decide (0 ≤ signed bits ((v + (m - c)) % m))
  | 1 => v = c
  | 2 => v != c
  | _ => false

/-- The saturating two-bit counter of R118. -/
def ctrStep (c : BitVec 2) (up : Bool) : BitVec 2 :=
  if up then (if c = 3 then 3 else c + 1) else (if c = 0 then 0 else c - 1)

/-- The counter index of a line (R118). -/
def ctrIndex (n : LineNo) : BitVec 11 :=
  fld n 0 11 ^^^ fld n 11 11 ^^^ fld n 22 11 ^^^ (fld n 33 7).zeroExtend 11

/-- d of R61: the distance of a request's epoch from the home's. -/
def epochDist (e c : Epoch) : Epoch := e - c

/-- Whether a home serves a request's epoch (R61): current, next, or previous and not retired. -/
def epochServed (e c : Epoch) (prevRetired : Bool) : Bool :=
  let d := epochDist e c
  d = 0 || d = 1 || (d = 0xFFFF && !prevRetired)

/-- The rights an address needs at the edge: READ, WRITE, ATOMIC (Table POOL-15). -/
structure Rights where
  read : Bool := false
  write : Bool := false
  atomic : Bool := false
  deriving DecidableEq, Repr

/-- Rights for the main address of a request opcode (Table POOL-15). -/
def rightsFor (o : BitVec 8) : Rights :=
  if o = Opc.rdNc || o = Opc.rdBulk || o = Opc.rdShared then { read := true }
  else if o = Opc.rdOwn || o = Opc.upgrade then { read := true, write := true }
  else if o = Opc.wrNc || o = Opc.wrFullNc || o = Opc.wrBulk || o = Opc.wbDirty then { write := true }
  else if o = Opc.atomic then { read := true, write := true, atomic := true }
  else if o = Opc.waitRegister then { read := true }
  else if o = Opc.sideAppend then { write := true }
  else {}

/-- Rights for a Pennant flag (Table POOL-15, R80). -/
def flagRights (op : BitVec 4) : Rights := { write := true, atomic := op != 0 }

/-- Rights for an arrival counter (Table POOL-15, R85). -/
def counterRights : Rights := { write := true, atomic := true }

end Sys2Proof.Machine
end

