-- ==== Sys2Proof/Machine/Ops.lean ====
section
/-! DEFINITION. Machine/Ops.lean: the named operations every family uses: outcomes, Zenith, the system area's
bytes, progress objects (R463), fault records (R404 to R406), events (R459, R476, R477), manager completions
(R475), MSI-X (R478), Squall's trigger (R488 to R490), meter counts (R433) and free values. -/

namespace Sys2Proof.Machine

/-- The outcome of a command. -/
abbrev Out := Host.Outcome State Fault Refusal

/-- A command that completes: its effect on the block, the queue untouched. -/
def done (f : Qf → Qf) (s : State) : Out := .next { s with qf := f s.qf }

/-- An effect only where a condition holds. -/
def Qf.onlyIf (q : Qf) (b : Bool) (f : Qf → Qf) : Qf := if b then f q else q

/-- Zenith now, in ns. -/
def Qf.now (q : Qf) : Nat := q.obs.zenith.toNat

/-- The block's own endpoint id (R511). -/
def Qf.ownEp (q : Qf) : Ep := q.part.ep

/-- Whether the clock of R479 runs. -/
def Qf.zenithOn (q : Qf) : Bool := q.boot.phase = .starting || q.boot.phase = .reduced || q.boot.phase = .full

/-- Whether the image runs and Squall has not stopped the chip (R489, R503). -/
def Qf.running (q : Qf) : Bool :=
  (q.boot.phase = .starting || q.boot.phase = .reduced || q.boot.phase = .full) && !q.dbg.squalled

/-- Whether service traffic is taken: booted, not squalled, not in the power-fail sequence
(R426, R489, R511). -/
def Qf.inService (q : Qf) : Bool :=
  (q.boot.phase = .reduced || q.boot.phase = .full) && q.part.booted && !q.dbg.squalled &&
  q.pwr.failState = 0

/-- A free value: the counter names which (log 9). -/
def Qf.takeFree (q : Qf) : BitVec 64 × Qf :=
  (Config.freeValue q.freeCount, { q with freeCount := q.freeCount + 1 })

/-! ### Power domains (R27, R530) -/

/-- Whether a domain is ON. -/
def Qf.domainOn (q : Qf) (d : Nat) : Bool := q.pwr.domain.get d 0 = 2

/-- The switch slice's domain that a domain depends on (R24, R530). -/
def sliceOf (d : Nat) : Nat := if d < 40 then d / 5 * 5 else if d < 72 then (d - 40) / 4 * 5 else (d - 72) * 5

/-- A descriptor for a unit: a domain that is OFF begins to wake, unless a fault keeps it off (R27, R405) or its switch
slice's domain is not on (R24). -/
def Qf.wantUnit (q : Qf) (d : Nat) : Qf :=
  if q.pwr.domain.get d 0 = 0 && !q.pwr.offByFault.contains d && q.domainOn (sliceOf d) then
    { q with pwr := { q.pwr with domain := q.pwr.domain.set d 1, waking := q.pwr.waking.set d q.now } }
  else q

/-! ### Bytes of the system area -/

namespace Mem

/-- The byte at an address; unlisted addresses read 0. -/
def get : List Host.Cell → Nat → Byte
  | [], _ => 0
  | (j, b) :: t, a => if j = a then b else if a < j then 0 else get t a

/-- Write a byte, keeping the addresses rising and listing no zero. -/
def put : List Host.Cell → Nat → Byte → List Host.Cell
  | [], a, b => if b = 0 then [] else [(a, b)]
  | (j, c) :: t, a, b =>
    if a < j then (if b = 0 then (j, c) :: t else (a, b) :: (j, c) :: t)
    else if j = a then (if b = 0 then t else (a, b) :: t)
    else (j, c) :: put t a b

/-- Write bytes from an address upward. -/
def putAll (m : List Host.Cell) (a : Nat) : List Byte → List Host.Cell
  | [] => m
  | b :: bs => putAll (put m a b) (a + 1) bs

/-- Read n bytes from an address upward. -/
def getAll (m : List Host.Cell) (a n : Nat) : List Byte := (List.range n).map (fun i => get m (a + i))

/-- The canonical form: addresses strictly rising from lo, no zero listed. -/
def wfFrom : Nat → List Host.Cell → Bool
  | _, [] => true
  | lo, (a, b) :: t => decide (lo ≤ a) && b != 0 && wfFrom (a + 1) t

end Mem

/-- The canonical form of the system area's bytes. -/
def Memory.wf (m : List Host.Cell) : Bool := Mem.wfFrom 0 m

/-! ### Progress objects (R463) -/

/-- A free progress object, lowest first (log 8). -/
def freeProgress (t : Tbl Progress) : Option Nat :=
  (List.range 1024).find? (fun i => (t.get i {}).kind = 0)

/-- Take a progress object; none where none is free. -/
def Qf.newProgress (q : Qf) (kind unit total : Nat) : Option (Nat × Qf) :=
  (freeProgress q.mgmt.progress).map (fun i =>
    (i, { q with mgmt := { q.mgmt with
      progress := q.mgmt.progress.set i { kind, unit, total, start := q.now } } }))

/-- Send an event of a class to every session subscribed to it (R459). -/
def Qf.sessionEvent (q : Qf) (cls : Nat) (record : List Byte) : Qf :=
  let step (a : List AgSession × List AgFrame) (x : AgSession) : List AgSession × List AgFrame :=
    if x.phase = 3 && x.mask.getLsbD cls then
      let full := x.events.length ≥ 256
      let evs := if full then x.events.drop 1 else x.events
      let body := BitVec.ofNat 8 cls :: record
      let seq := x.eventSeq + 1
      (a.1 ++ [{ x with eventSeq := seq, events := evs ++ [(seq, body, q.now, 1)],
                        eventLost := false }],
       a.2 ++ [{ session := x.id, opcode := 0x09, seq := seq, lost := full || x.eventLost,
                 payload := body }])
    else (a.1 ++ [x], a.2)
  let r := q.mgmt.sessions.foldl step ([], [])
  { q with mgmt := { q.mgmt with sessions := r.1, outbox := q.mgmt.outbox ++ r.2 } }

/-- Change a progress object. -/
def Qf.updProgress (q : Qf) (i : Option Nat) (f : Progress → Progress) : Qf :=
  match i with
  | some i => { q with mgmt := { q.mgmt with progress := q.mgmt.progress.upd i {} f } }
  | none => q

/-- End a progress object: 1 DONE, 2 FAILED, 3 ABORTED; PROGRESS events follow (Table MGMT-5). -/
def Qf.endProgress (q : Qf) (i : Option Nat) (state : Nat) (status : BitVec 8) : Qf :=
  match i with
  | none => q
  | some k =>
    let q := q.updProgress i (fun p =>
      { p with state, status, ended := some q.now, percent := if state = 1 then 100 else p.percent,
               position := if state = 1 then p.total else p.position })
    q.sessionEvent 2 (bytesOf 32 (q.mgmt.progress.get k {}).bits)

/-- Some sessions end (R460): what they hold open is discarded, a staging write among it. -/
def Qf.endSessions (q : Qf) (gone : AgSession → Bool) : Qf :=
  let open_ := (q.mgmt.sessions.filter gone).flatMap (fun x => x.segs.filterMap (fun g => g.progress))
  let q : Qf := open_.foldl (fun q k => q.endProgress (some k) 3 Status.aborted.code) q
  { q with mgmt := { q.mgmt with sessions := q.mgmt.sessions.filter (fun x => !gone x) } }

/-! ### Host: MSI-X, events, completions (R475 to R478) -/

/-- The place of a port's vector in the MSI-X tables. -/
def msixKey (p : Bool) (v : Nat) : Nat := 2048 * b2n p + v

/-- Raise an MSI-X vector toward the active port; a masked vector stays pending (R478). -/
def Qf.msix (q : Qf) (v : Nat) : Qf :=
  match q.host.active with
  | none => q
  | some p =>
    let k := msixKey p v
    if (q.host.msix.get k (0, 0, true)).2.2 then
      { q with host := { q.host with
        msixPend := if q.host.msixPend.contains k then q.host.msixPend else q.host.msixPend ++ [k] } }
    else { q with host := { q.host with messages := q.host.messages ++ [(p, v)] } }

/-- Bytes posted to host memory through a port. -/
def Qf.post (q : Qf) (p : Bool) (a : BitVec 64) (bs : List Byte) : Qf :=
  { q with host := { q.host with posted := q.host.posted ++ [(p, a, bs)] } }

/-- ENABLE of a queue's CONFIG. -/
def cfgEnable (c : BitVec 64) : Bool := c.getLsbD 63
/-- The ring sizes of a queue's CONFIG: commands (or events) and completions, 16 to 4,096. -/
def cfgCmdSize (c : BitVec 64) : Nat := 2 ^ ((fld c 59 4).toNat + 4)
/-- Completion ring size. -/
def cfgCplSize (c : BitVec 64) : Nat := 2 ^ ((fld c 55 4).toNat + 4)
/-- MSIX_VECTOR of a queue's CONFIG. -/
def cfgVector (c : BitVec 64) : Nat := (fld c 44 11).toNat
/-- MSIX_ENABLE of a queue's CONFIG. -/
def cfgMsix (c : BitVec 64) : Bool := c.getLsbD 43

/-- Set a port's place in a pair of values. -/
def setPort {α : Type} (l : List α) (p : Bool) (v : α) : List α := l.set (b2n p) v
/-- A port's place in a pair of values. -/
def getPort {α : Type} (l : List α) (p : Bool) (d : α) : α := (l[b2n p]?).getD d

/-- Phase of a ring entry at a producer count: 1 on the first pass (R135, R475). -/
def ringPhase (producer size : Nat) : Bool := producer / size % 2 = 0

/-- Write one event to the ring of the active port. -/
def Qf.writeEvent (q : Qf) (p : Bool) (e : BitVec 256) : Qf :=
  let c := getPort q.host.eqConfig p 0
  let n := cfgCmdSize c
  let k := (getPort q.host.eqProducer p 0).toNat
  let e := if ringPhase k n then e ||| ((1 : BitVec 256) <<< 193) else e
  let q := q.post p (getPort q.host.eqBase p 0 + BitVec.ofNat 64 (32 * (k % n))) (entryBytes e)
  let q := { q with host := { q.host with
    eqProducer := setPort q.host.eqProducer p (getPort q.host.eqProducer p 0 + 1) } }
  if cfgMsix c then q.msix (cfgVector c) else q

/-- Whether the event ring of a port is enabled and has room. -/
def Qf.eventRoom (q : Qf) (p : Bool) : Bool :=
  let c := getPort q.host.eqConfig p 0
  cfgEnable c &&
    decide ((getPort q.host.eqProducer p 0 - getPort q.host.eqConsumer p 0).toNat < cfgCmdSize c)

/-- Write waiting events while there is room, at most n of them; then one EVENTS_LOST where some were
lost (R477). -/
def Qf.drainEvents : Nat → Qf → Qf
  | 0, q => q
  | n + 1, q =>
    match q.host.active with
    | none => q
    | some p =>
      if !q.eventRoom p then q
      else match q.host.waitingEvents with
        | e :: es => Qf.drainEvents n
            (({ q with host := { q.host with waitingEvents := es } }).writeEvent p e)
        | [] =>
          if q.host.lostReport = 0 then q
          else ({ q with host := { q.host with lostReport := 0 } }).writeEvent p
            (eventEntry 6 0 0 0 0 q.now q.host.lostReport)

/-- Post an event on the fabric manager's event queue (R476, R477). -/
def Qf.event (q : Qf) (kind : Nat) (status : BitVec 8) (qpn wr : BitVec 16) (ep : Ep) (detail : Nat) :
    Qf :=
  let q :=
    if q.host.waitingEvents.length ≥ 4096 then
      { q with host := { q.host with eventsLost := q.host.eventsLost + 1,
                                     lostReport := q.host.lostReport + 1 } }
    else { q with host := { q.host with
      waitingEvents := q.host.waitingEvents ++ [eventEntry kind status qpn wr ep q.now detail] } }
  q.drainEvents 2

/-- Key of a manager queue: port and number. -/
def mqKey (port : Bool) (queue : BitVec 3) : Nat := 8 * b2n port + queue.toNat

/-- A manager queue. -/
def Qf.mq (q : Qf) (port : Bool) (queue : BitVec 3) : Mq := q.host.mqs.get (mqKey port queue) {}

/-- Change a manager queue. -/
def Qf.updMq (q : Qf) (port : Bool) (queue : BitVec 3) (f : Mq → Mq) : Qf :=
  { q with host := { q.host with mqs := q.host.mqs.upd (mqKey port queue) {} f } }

/-- Write waiting completions of a queue while its ring has room (R472, R475). -/
def Qf.drainCpl (port : Bool) (queue : BitVec 3) : Nat → Qf → Qf
  | 0, q => q
  | n + 1, q =>
    let m := q.mq port queue
    match m.waiting with
    | [] => q.updMq port queue (fun m => { m with fullSince := none })
    | (e, notify) :: es =>
      let size := cfgCplSize m.config
      if (m.cplProducer - m.cplConsumer).toNat ≥ size then
        q.updMq port queue (fun m =>
          { m with fullSince := if m.fullSince.isSome then m.fullSince else some q.now })
      else
        let k := m.cplProducer.toNat
        let e := if ringPhase k size then e ||| ((1 : BitVec 256) <<< 207) else e
        let q := q.post port (m.cplBase + BitVec.ofNat 64 (32 * (k % size))) (entryBytes e)
        let q := q.updMq port queue (fun m =>
          { m with waiting := es, cplProducer := m.cplProducer + 1, fullSince := none })
        let q := if notify && cfgMsix m.config then q.msix (cfgVector m.config) else q
        Qf.drainCpl port queue n q

/-- A command leaves the fetched list when it completes. -/
def isRef (m : MgrRef) (f : Fetched) : Bool :=
  f.port = m.port && f.queue = m.queue && f.index = m.cmdIndex && f.generation = m.generation

/-- Post a manager command's completion; after a takeover it becomes an ORPHAN_COMPLETION event
(R468, R475). -/
def Qf.complete (q : Qf) (m : MgrRef) (op : BitVec 8) (st : Status) (prog : Option Nat := none)
    (result : BitVec 128 := 0) : Qf :=
  let q := { q with host := { q.host with fetched := dropFirst (isRef m) q.host.fetched } }
  if m.generation = q.host.generation then
    let e := mgrCompletion st.code op m.cmdIndex m.tag prog result
    Qf.drainCpl m.port m.queue 2
      (q.updMq m.port m.queue (fun x => { x with waiting := x.waiting ++ [(e, m.notify)] }))
  else
    q.event 3 st.code 0 0 0 (packHi [(8, op.toNat), (16, m.tag.toNat), (11, prog.getD 0x7FF), (29, 0)])

/-- R6 and R473 for a command: FORMAT 1, and zeros in the header's reserved bits and beyond the arguments. -/
def mgrOk (m : MgrRef) : Bool := m.format = 1 && m.hdrRsvd = 0 && m.extra = 0

/-- R6 for the header of a command as it was fetched: its reserved bits are zero (R473). -/
def Qf.fetchedOk (q : Qf) (m : MgrRef) : Bool :=
  match q.host.fetched.find? (isRef m) with
  | some f => fld f.words 14 2 = (0 : BitVec 2) && fld f.words 32 96 = (0 : BitVec 96)
  | none => true

/-! ### Meter counts and tenant counters (R401, R433, R434) -/

/-- Key of a sector accumulator: tenant, quantity, sector. -/
def accKey (t : Tenant) (quantity : Nat) (s : Sector) : Nat :=
  (t.toNat * 16 + quantity) * 8 + s.toNat

/-- Add an amount to a sector's accumulator (R434). -/
def Qf.meter (q : Qf) (s : Sector) (t : Tenant) (quantity : Nat) (v : Int) : Qf :=
  if v = 0 then q
  else { q with ens := { q.ens with accum := q.ens.accum.upd (accKey t quantity s) 0 (· + v) } }

/-- Add to a tenant's exact counts: 0 bytes read, 1 bytes written, 2 requests (R403). -/
def Qf.tenantCount (q : Qf) (t : Tenant) (k n : Nat) : Qf :=
  let ms := q.now / 1000000
  let f (c : TenantCount) : TenantCount :=
    let c := if c.ms = ms then c else { c with last := c.now, ms := ms }
    { c with now := c.now.set k ((c.now[k]?).getD 0 + n) }
  { q with dbg := { q.dbg with counts := q.dbg.counts.upd t.toNat {} f } }

/-- A tenant's counts as NS readers see them (R401): those of the last whole millisecond, byte counts
rounded up to 65,536 and event counts to 1,024. -/
def Qf.coarse (q : Qf) (t : Tenant) (k : Nat) : Nat :=
  let c := q.dbg.counts.get t.toNat {}
  let v := if c.ms = q.now / 1000000 then (c.last[k]?).getD 0 else (c.now[k]?).getD 0
  if k = 2 then roundUp v 1024 else roundUp v 65536

/-! ### Links, briefly -/

/-- A half-port's link. -/
def Qf.link (q : Qf) (h : HalfPort) : Link := q.links.get h.toNat {}
/-- Change a half-port's link. -/
def Qf.updLink (q : Qf) (h : HalfPort) (f : Link → Link) : Qf :=
  { q with links := q.links.upd h.toNat {} f }
/-- All half-ports. -/
def allHalves : List HalfPort := (List.range 64).map (BitVec.ofNat 6)
/-- The half-port that keeps its port's mode. -/
def evenHalf (h : HalfPort) : HalfPort := h &&& 0x3E
/-- The mode in force at a half-port's port (R289). -/
def Qf.portMode (q : Qf) (h : HalfPort) : Nat := (q.link (evenHalf h)).mode
/-- Whether a half-port is half of a split port. -/
def Qf.isHalf (q : Qf) (h : HalfPort) : Bool := q.portMode h = 1
/-- A link is live while ACTIVE or in RATE_UP (R339). -/
def Link.live (l : Link) : Bool := l.state = .active || l.state = .rateUp
/-- The sector of a half-port: port 4s to 4s+3 is sector s (R11). -/
def halfSector (h : HalfPort) : Sector := fld h 3 3
/-- The sector that takes what comes in at an ingress. -/
def ingressSector : Ingress → Sector
  | .half h => halfSector h
  | .unit s => s
  | .mgmt => 0

/-! ### Squall's trigger (R488 to R490) -/

/-- The SQUALL packet (Table OBS-3). -/
def squallPacket (own : Ep) (time : Nat) : Packet :=
  { opcode := Opc.squall, vc := 5, tc := 7, srcEp := own,
    payload := bytesOf 16 (BitVec.ofNat 128 (own.toNat + time * 2 ^ 64)) }

/-- The header of the next flit (Table LINK-2): what was last accepted, the NAK, the phase of the key and two credit
reports in rotation (R293, R297). -/
def Link.flitHeader (l : Link) (ty : BitVec 2) (seq : BitVec 10) : BitVec 64 :=
  let a := l.tx.sel % 7
  let b := (a + 1) % 7
  ty ++ seq ++ (l.rx.expect - 1) ++ bit l.rx.nak ++ bit l.sess.tx.phase ++
    BitVec.ofNat 3 a ++ (l.rx.freed[a]?).getD 0 ++ BitVec.ofNat 3 b ++ (l.rx.freed[b]?).getD 0 ++ (0 : BitVec 6)

/-- A flit as it leaves (R291, R315): its check word is the CRC, or under a session the tag over the encrypted slots. -/
def Link.sealFlit (l : Link) (hdr : BitVec 64) (slots : List (BitVec 128)) : Flit :=
  let body := slotBytes (slots ++ List.replicate (15 - slots.length) 0)
  if l.sess.active then
    let iv := bytesOf 4 l.sess.tx.salt ++ bytesOf 8 l.sess.tx.frames
    let ct := gcmCrypt l.sess.tx.key iv body
    { hdr, slots := payloadSlots 15 ct, check := bitsOf 64 ((gcmTag l.sess.tx.key iv (bytesOf 8 hdr) ct).take 8) }
  else { hdr, slots := payloadSlots 15 body, check := crc64 (bytesOf 8 hdr ++ body) }

/-- A flit is handed to the port; under a session its frame is counted (R315). -/
def Link.emit (l : Link) (ty : BitVec 2) (seq : BitVec 10) (slots : List (BitVec 128)) : Link :=
  let f := l.sealFlit (l.flitHeader ty seq) slots
  { l with
    wire := l.wire ++ [f]
    tx := { l.tx with sel := (l.tx.sel + 2) % 7 }
    sess := if l.sess.active then { l.sess with tx := { l.sess.tx with frames := l.sess.tx.frames + 1 } } else l.sess }

/-- One sequenced flit goes out and into the replay buffer (R294). -/
def Link.sendFlit (l : Link) (now : Nat) (control : Bool) (ss : List (BitVec 128)) : Link :=
  let seq := l.tx.nextSeq
  let l := { l with tx := { l.tx with
    nextSeq := l.tx.nextSeq + 1
    lastAck := if l.tx.replay.isEmpty then now else l.tx.lastAck
    replay := l.tx.replay ++ ([{ seq, control, slots := ss }] : List ReplayFlit) } }
  l.emit (if control then 2 else 1) seq ss

/-- Slots go out, 15 to a flit, in sequence (R294, R300). -/
def Link.sendNow (l : Link) (now : Nat) (control : Bool) (slots : List (BitVec 128)) : Link :=
  (chunks 15 (ceilDiv slots.length 15) slots).foldl (fun l ss => l.sendFlit now control ss) l

/-- A sequenced control message of a type without a body: 5 REKEY, 6 RATE_UP, 7 DOWN (R312). -/
def Link.sendControl (l : Link) (now : Nat) (ty : BitVec 8) : Link :=
  l.sendNow now true [ty.zeroExtend 128]

/-- Trigger Squall from a source: 1 dictionary, 2 TAP, 3 fault, 4 peer.  No effect while squalled or
outside POWER_FAIL_STATE NORMAL (R488); with SQUALL_PROPAGATE each QF960 neighbour is sent SQUALL as the
next flit (R490). -/
def Qf.squall (q : Qf) (source : Nat) : Qf :=
  if q.dbg.squalled || q.pwr.failState != 0 then q
  else
    let q := { q with dbg := { q.dbg with
      squalled := true, squallTime := q.obs.zenith, source := source } }
    if q.dbg.propagate then
      { q with links := q.links.map (fun x =>
          if x.2.live && x.2.peerQf then
            (x.1, x.2.sendNow q.now false (squallPacket q.part.ep q.now).slots)
          else x) }
    else q

/-! ### Fault records (R404 to R406) -/

/-- What a fault record names besides its class. -/
structure FaultInfo where
  sector : Sector := 0
  unit : BitVec 4 := 0
  half : HalfPort := 0
  status : BitVec 8 := 0
  tenant : Tenant := 0
  peer : Ep := 0
  addr : BitVec 60 := 0
  detail : BitVec 16 := 0
  deriving DecidableEq, Repr

/-- The severity of a class (Table FAULT-1); UNIT recurrence and the like pass their own. -/
def severity (cls : Nat) : Nat :=
  match cls with
  | 0 => 0 | 1 => 1 | 2 => 1 | 3 => 2 | 4 => 1 | 5 => 1 | 6 => 2 | 7 => 2 | 8 => 2 | 9 => 3
  | 10 => 2 | 11 => 2 | 12 => 3 | _ => 1

/-- A tenant enrolled with PROTECT (R393). -/
def Qf.protectedTenant (q : Qf) (t : Tenant) : Bool := (q.sec.enrol.get t.toNat {}).protect

/-- Whether a debugger authorisation is in force (R400). -/
def Qf.debugOn (q : Qf) : Bool := q.sec.debugUntil != 0 && decide (q.now < q.sec.debugUntil.toNat)

/-- ADDR under the redaction of R406: zero for WORLD 1 unless a debugger is authorised, and always for a
protected tenant's request. -/
def Qf.redact (q : Qf) (world : Bool) (t : Tenant) (a : BitVec 60) : BitVec 60 :=
  if (world && !q.debugOn) || q.protectedTenant t then 0 else a

/-- Write a fault record of a class and severity (R404, R405), with the event it causes and, where its
class is set in SQUALL_ON_FAULT, Squall (R488). -/
def Qf.faultSev (q : Qf) (cls sev : Nat) (i : FaultInfo) : Qf :=
  let seq := q.flt.seq + 1
  let rec_ : BitVec 256 := BitVec.ofNat 256 (packHi [(64, q.now), (32, seq.toNat), (4, cls), (2, sev),
    (3, i.sector.toNat), (4, i.unit.toNat), (6, i.half.toNat), (8, i.status.toNat),
    (12, i.tenant.toNat), (14, i.peer.toNat), (60, i.addr.toNat), (16, i.detail.toNat), (31, 0)])
  let full := q.flt.ring.length ≥ 4096
  let q := { q with flt := { q.flt with
    seq := seq, ring := (if full then q.flt.ring.drop 1 else q.flt.ring) ++ [rec_],
    lost := if full then q.flt.lost + 1 else q.flt.lost } }
  let q := q.sessionEvent 0 (bytesOf 32 rec_)
  let q := if sev ≥ 2 then q.event 5 i.status 0 0 i.peer seq.toNat else q
  if q.dbg.onFault.getLsbD cls then q.squall 3 else q

/-- Write a fault record of a class with the class's severity.  CORRECTED: one per 1,024 of a unit;
PROTOCOL: at most 1,000 per second per half-port (Table FAULT-1). -/
def Qf.fault (q : Qf) (cls : Nat) (i : FaultInfo) : Qf :=
  if cls = 0 then
    let k := i.sector.toNat * 16 + i.unit.toNat
    let n := q.flt.corrected.get k 0 + 1
    let q := { q with flt := { q.flt with corrected := q.flt.corrected.set k n } }
    if n % 1024 = 0 then q.faultSev 0 0 i else q
  else if cls = 4 then
    let sec := q.now / 1000000000
    let r := q.flt.protoRate.get i.half.toNat (sec, 0)
    let n := if r.1 = sec then r.2 else 0
    if n ≥ 1000 then q
    else ({ q with flt := { q.flt with
      protoRate := q.flt.protoRate.set i.half.toNat (sec, n + 1) } }).faultSev 4 1 i
  else q.faultSev cls (severity cls) i

/-- Add a violation record (Table MGMT-9, R144, R464, R465). -/
def Qf.violation (q : Qf) (addr : BitVec 60) (world : Bool) (origin : Ep) (qpn : Qpn) (psn : Psn)
    (atHome : Bool) (t : Tenant) : Qf :=
  let r : BitVec 256 := BitVec.ofNat 256 (packHi [(64, q.now), (60, (q.redact world t addr).toNat),
    (14, origin.toNat), (16, qpn.toNat), (32, psn.toNat), (8, Status.accessViolation.code.toNat),
    (1, b2n atHome), (12, t.toNat), (49, 0)])
  let full := q.mgmt.violations.length ≥ 1024
  let q := { q with mgmt := { q.mgmt with
    violations := (if full then q.mgmt.violations.drop 1 else q.mgmt.violations) ++ [r],
    violationsLost := if full then q.mgmt.violationsLost + 1 else q.mgmt.violationsLost } }
  q.sessionEvent 1 (bytesOf 32 r)

/-! ### Interleave (R63, R64) -/

/-- Mask k of the salt. -/
def Qf.mask (q : Qf) (k : Nat) : BitVec 34 := (q.part.masks[k]?).getD 0

/-- The tier-0 stack, and so the home sector, of a line (R18, R63). -/
def Qf.sectorOf (q : Qf) (n : LineNo) : Sector :=
  let p := linePage n
  let b (k : Nat) : BitVec 1 := bit (xor (n.getLsbD k) (parity (p &&& q.mask k)))
  b 2 ++ b 1 ++ b 0

/-- The tier-0 channel of a frame-part slot (R64). -/
def Qf.t0Channel (q : Qf) (slot : BitVec 34) (n : LineNo) : BitVec 5 :=
  let p (k : Nat) : BitVec 1 := bit (parity ((slot >>> 2) &&& q.mask k))
  let h : BitVec 3 := p 5 ++ p 4 ++ p 3
  fld slot 0 2 ++ (fld n 3 3 ^^^ h)

/-- The tray channel of a line within its extent, for a tray of c channels (R64). -/
def Qf.trayChannel (q : Qf) (u : BitVec 22) (c : Nat) : BitVec 6 :=
  let s : BitVec 34 := (fld u 6 16 : BitVec 16).zeroExtend 34
  let b (k : Nat) : BitVec 1 := bit (parity (s &&& ((q.mask (6 + k / 3) >>> (k % 3)) &&& 0xffff)))
  let f : BitVec 6 := b 5 ++ b 4 ++ b 3 ++ b 2 ++ b 1 ++ b 0
  (fld u 0 6 ^^^ f) &&& BitVec.ofNat 6 (c - 1)

end Sys2Proof.Machine
end

