-- ==== Sys2Proof/Machine/Fabric.lean ====
section
/-! DEFINITION. Machine/Fabric.lean: the switch core's operations: route lookup (R337 to R346), admission and
virtual output queues (R329 to R333), sampling (R350 to R353), token buckets (R364 to R369), what may be sent
on a link's version (R309), and sending and taking packets. -/

namespace Sys2Proof.Machine

/-! ### Token buckets (R364 to R366) -/

/-- Tokens at a time, in 1/800,000 byte: RATE Mb/s is RATE * 100 of these per ns. -/
def Bucket.at (b : Bucket) (now : Nat) (rate : Nat) : Int :=
  min (b.burst.toNat * 800000 : Int) (b.tokens + ((now - b.stamp) * rate * 100 : Nat))

/-- Whether a shaper that is off, or holds tokens at or above zero (R364). -/
def Bucket.open_ (b : Bucket) (now : Nat) : Bool :=
  b.rate = 0 || decide (0 ≤ b.at now b.rate.toNat)

/-- Charge length + OVERHEAD when a packet starts (R364), never below -4,303 bytes (R365). -/
def Bucket.charge (b : Bucket) (now rate len : Nat) : Bucket :=
  if rate = 0 then { b with stamp := now }
  else { b with
    stamp := now
    tokens := max (-4303 * 800000 : Int) (b.at now rate - ((len + b.overhead.toNat) * 800000 : Nat)) }

/-- A reconfiguration (R366): new values and tokens to BURST or 0. -/
def Bucket.reconf (b : Bucket) (now : Nat) (rate burst : BitVec 32) (overhead : BitVec 8) : Bucket :=
  { b with rate, burst, overhead, stamp := now,
           tokens := if b.resetZero then 0 else (burst.toNat * 800000 : Nat) }

/-- A half-port's egress scheduler. -/
def Qf.egress (q : Qf) (h : HalfPort) : Egress := q.sched.egress.get h.toNat {}
/-- Change an egress scheduler. -/
def Qf.updEgress (q : Qf) (h : HalfPort) (f : Egress → Egress) : Qf :=
  { q with sched := { q.sched with egress := q.sched.egress.upd h.toNat {} f } }

/-- A tenant's policer. -/
def Qf.policer (q : Qf) (t : Tenant) : Policer := q.sched.policers.get t.toNat {}
/-- Change a policer. -/
def Qf.updPolicer (q : Qf) (t : Tenant) (f : Policer → Policer) : Qf :=
  { q with sched := { q.sched with policers := q.sched.policers.upd t.toNat {} f } }

/-- Whether a tenant is throttled (R369): some home's notice has not lapsed. -/
def Policer.throttled (p : Policer) (now : Nat) : Bool := p.throttles.any (fun x => now < x.2)

/-- The rate a policer runs at, in Mb/s (R369): cut to SHORT_CREDIT_FRACTION while throttled, and then from
the bound half-ports' full line rate where RATE is 0. -/
def Qf.policeRate (q : Qf) (t : Tenant) : Nat :=
  let p := q.policer t
  if p.throttled q.now then
    let bound := allHalves.filter (fun h => (q.link h).bind.any (fun b => b.tenant = t))
    let lines := (bound.map (fun h => if q.isHalf h then 1600000 else 3200000)).sum
    let base := if p.bucket.rate = 0 then lines else p.bucket.rate.toNat
    base * q.pool.creditFraction.toNat / 100
  else p.bucket.rate.toNat

/-- Whether the policer lets a packet of the tenant through now (R368). -/
def Qf.policeOpen (q : Qf) (t : Tenant) : Bool :=
  let r := q.policeRate t
  let p := q.policer t
  if r = 0 && !p.throttled q.now then true else decide (0 ≤ p.bucket.at q.now r)

/-- Charge a tenant's policer (R367). -/
def Qf.policeCharge (q : Qf) (t : Tenant) (len : Nat) : Qf :=
  let r := q.policeRate t
  q.updPolicer t (fun p => { p with bucket := p.bucket.charge q.now r len })

/-- A packet of a tenant is held by its policer from now on (POLICE_HELD_TIME). -/
def Qf.markHeld (q : Qf) (t : Tenant) : Qf :=
  q.updPolicer t (fun p => if p.heldSince.isSome then p else { p with heldSince := some q.now })

/-- Requests charged but never held (R368). -/
def neverHeld (o : BitVec 8) : Bool :=
  o = Opc.wbDirty || o = Opc.evictClean || o = Opc.cancel || o = Opc.streamReset ||
  o = Opc.qpClose || o = Opc.ownMsg

/-! ### Queues -/

/-- Cells queued for an output and class: Q of R332. -/
def Qf.egressCells (q : Qf) (out : Ingress) (tc : BitVec 3) : Nat :=
  (q.sw.queue.filter (fun e => e.out = out && e.pkt.tc = tc)).foldl (fun a e => a + e.cells) 0

/-- 2^ALPHA_LOG2 of a class, 64 times the rule's alpha. -/
def Qf.alpha (q : Qf) (tc : BitVec 3) : Nat := 2 ^ ((q.sw.alpha[tc.toNat]?).getD 4).toNat

/-- The admission rule (R332). -/
def Qf.admits (q : Qf) (p : Packet) (outs : List Ingress) : Bool :=
  let c := p.cells
  let f := q.sw.free
  outs.all (fun o => decide ((q.egressCells o p.tc + c) * 64 ≤ q.alpha p.tc * f)) &&
  (p.vc != 0 || decide (q.sw.reqFloor.toNat + c ≤ f)) && decide (c ≤ f)

/-- An egress queue's occupancy for the skew guard (R340): floor(64 Q / (alpha F)). -/
def Qf.occupancy (q : Qf) (h : HalfPort) (tc : BitVec 3) : Nat :=
  64 * 64 * q.egressCells (.half h) tc / (q.alpha tc * q.sw.free)

/-- Cells of a packet in each slice, taken one by one in rotation from a slice on (R21); a slice that is full is passed
over (log 167). -/
def stripe (free : List Nat) : Nat → Nat → List Nat → List Nat
  | 0, _, a => a
  | n + 1, s, a =>
    match (List.range 8).find? (fun k => decide ((a[(s + k) % 8]?).getD 0 < (free[(s + k) % 8]?).getD 0)) with
    | some k => stripe free n ((s + k + 1) % 8) (a.set ((s + k) % 8) ((a[(s + k) % 8]?).getD 0 + 1))
    | none => a

/-- Where the allocator puts a packet of n cells that came in at an input: its ingress sector's slice first (R21). -/
def Qf.cellPlace (q : Qf) (inp : Ingress) (n : Nat) : List Nat :=
  stripe q.sw.slices n (ingressSector inp).toNat (List.replicate 8 0)

/-- Give cells back to their slices. -/
def Switch.giveBack (s : Switch) (place : List Nat) : Switch :=
  { s with slices := if place = [] then s.slices else List.zipWith (· + ·) s.slices place }

/-- Queue a packet for its outputs, stored once (R21, R329, R331). -/
def Qf.store (q : Qf) (inp : Ingress) (outs : List Ingress) (p : Packet) : Qf :=
  let c := p.cells
  let place := q.cellPlace inp c
  let many := decide (1 < outs.length)
  let id := q.sw.nextShare
  let add := outs.map (fun o =>
    ({ inp, out := o, pkt := p, cells := c, place, share := if many then some id else none } : QPkt))
  if outs = [] then q
  else { q with sw := { q.sw with
    queue := q.sw.queue ++ add
    slices := List.zipWith (· - ·) q.sw.slices place
    shares := if many then q.sw.shares.set id (place, outs.length) else q.sw.shares
    nextShare := if many then id + 1 else id } }

/-- Free a queued packet's cells; shared cells are freed when the last copy has left (R329). -/
def Qf.freeCells (q : Qf) (e : QPkt) : Qf :=
  match e.share with
  | none => { q with sw := q.sw.giveBack e.place }
  | some id =>
    let (c, n) := q.sw.shares.get id (e.place, 1)
    if n ≤ 1 then { q with sw := { (q.sw.giveBack c) with shares := q.sw.shares.del id } }
    else { q with sw := { q.sw with shares := q.sw.shares.set id (c, n - 1) } }

/-- Remove the first queued packet a test picks. -/
def Qf.dequeue (q : Qf) (f : QPkt → Bool) : Qf :=
  match q.sw.queue.find? f with
  | none => q
  | some e => ({ q with sw := { q.sw with queue := dropFirst f q.sw.queue } }).freeCells e

/-! ### Sector links (R13 to R15) -/

/-- Entries of one lane of a sector link (Table ARCH-4). -/
def laneDepth : Nat := 16
/-- Entries of 256 bytes that a packet takes. -/
def laneEntries (p : Packet) : Nat := ceilDiv p.slotCount 16

/-- The lane by which a packet crosses from the sector where it came in to the units of another: sending sector,
receiving sector and virtual channel.  The management island is reached by another channel. -/
def laneOf (inp out : Ingress) (p : Packet) : Option Nat :=
  match inp, out with
  | .mgmt, _ => none
  | i, .unit b => if ingressSector i = b then none
      else some (((ingressSector i).toNat * 8 + b.toNat) * 8 + p.vc.toNat)
  | _, _ => none

/-- Whether a lane has credits for a packet (R15); one longer than the lane passes through an empty lane (log 168). -/
def Qf.laneRoom (q : Qf) (k : Nat) (p : Packet) : Bool :=
  let used := ((q.sw.lanes.get k []).map (fun e => laneEntries e.pkt)).sum
  used = 0 || decide (used + laneEntries p ≤ laneDepth)

/-- Whether a packet goes straight into its lane: the lane has credits and no packet of it waits in the buffer. -/
def Qf.laneOpen (q : Qf) (inp : Ingress) (outs : List Ingress) (p : Packet) : Bool :=
  match outs with
  | [o] => (match laneOf inp o p with
    | some k => q.laneRoom k p && !q.sw.queue.any (fun e => laneOf e.inp e.out e.pkt = some k)
    | none => false)
  | _ => false

/-- A packet enters its lane. -/
def Qf.enterLane (q : Qf) (inp out : Ingress) (p : Packet) : Qf :=
  match laneOf inp out p with
  | some k => { q with sw := { q.sw with lanes := q.sw.lanes.set k (q.sw.lanes.get k [] ++ [{ inp, out, pkt := p }]) } }
  | none => q

/-- Packets that wait in the buffer for a lane enter it, in order, while it has credits. -/
def Qf.fillLane : Nat → Nat → Qf → Qf
  | 0, _, q => q
  | n + 1, k, q =>
    let isIt (e : QPkt) : Bool := laneOf e.inp e.out e.pkt = some k
    match q.sw.queue.find? isIt with
    | some e => if q.laneRoom k e.pkt then Qf.fillLane n k ((q.dequeue isIt).enterLane e.inp e.out e.pkt) else q
    | none => q

/-- The receiving sector takes a packet out of a lane, which returns its credits (R15). -/
def Qf.leaveLane (q : Qf) (out : Ingress) (p : Packet) : Option Qf :=
  let ls : List (Nat × List QPkt) := q.sw.lanes
  (ls.find? (fun x => x.2.any (fun e => e.out = out && e.pkt = p))).map (fun x =>
    let rest := dropFirst (fun (e : QPkt) => e.out = out && e.pkt = p) x.2
    let q : Qf := { q with sw := { q.sw with
      lanes := if rest = [] then Tbl.del q.sw.lanes x.1 else Tbl.set q.sw.lanes x.1 rest } }
    q.fillLane q.sw.queue.length x.1)

/-- Pass a packet on to its outputs: straight into its lane where that is open, else into the buffer. -/
def Qf.enqueue (q : Qf) (inp : Ingress) (outs : List Ingress) (p : Packet) : Qf :=
  match outs with
  | [o] => if q.laneOpen inp outs p then q.enterLane inp o p else q.store inp outs p
  | _ => q.store inp outs p

/-- Whether the core takes a packet now: its lane is open, or the buffer admits it (R332). -/
def Qf.accepts (q : Qf) (inp : Ingress) (p : Packet) (outs : List Ingress) : Bool :=
  q.laneOpen inp outs p || q.admits p outs

/-! ### Routing -/

/-- The bank that routes an epoch, and whether one matched (R345). -/
def Qf.bankFor (q : Qf) (e : Epoch) : Bank × Bool :=
  if q.sw.current.label = e then (q.sw.current, true)
  else match q.sw.previous with
    | some b => if b.label = e then (b, true)
                else if q.sw.pending.label = e then (q.sw.pending, true) else (q.sw.current, false)
    | none => if q.sw.pending.label = e then (q.sw.pending, true) else (q.sw.current, false)

/-- Members of a group-table entry (Table CORE-4). -/
def groupMembers (g : BitVec 128) : List HalfPort :=
  (List.range ((fld g 124 4).toNat + 1)).map (fun i => fld g (6 * i) 6)

/-- Whether a half-port is hot under R65. -/
def Qf.hotHalf (q : Qf) (h : HalfPort) : Bool :=
  q.pool.hot.any (fun r => match r with | .egress k _ => k = h | _ => false)

/-- h of R339. -/
def routeHash (p : Packet) : BitVec 16 :=
  p.srcEp.zeroExtend 16 ^^^ p.destEp.zeroExtend 16 ^^^ fld p.stream 0 16 ^^^ fld p.addr 6 16 ^^^
  fld p.addr 22 16

/-- The member of a GROUP route that a packet takes (R339, R340). -/
def Qf.groupPick (q : Qf) (p : Packet) (g : BitVec 128) (adapt : Bool) : Option HalfPort :=
  let ms := groupMembers g
  let live := ms.filter (fun h => (q.link h).live && !(q.link h).fence)
  let adapt := adapt || ms.any q.hotHalf
  let pool := if live.all q.hotHalf then live else live.filter (fun h => !q.hotHalf h)
  let hash := (routeHash p).toNat
  if live = [] then none
  else if adapt then
    let cells (h : HalfPort) : Nat := q.egressCells (.half h) p.tc
    let least := pool.foldl (fun a h => min a (cells h)) (cells (pool.headD 0))
    let tied := pool.filter (fun h => cells h = least)
    tied[hash % tied.length]?
  else live[hash % live.length]?

/-- The sector's local units that serve a packet for this QF960: the home sector of its line, or the
sector of its message (R90), else sector 0; MGT goes to the management island. -/
def Qf.localOut (q : Qf) (p : Packet) : Ingress :=
  if p.vc = 5 then .mgmt else .unit (q.sectorOf (lineNo p.addr))

/-- The half-port whose link's peer is an endpoint, lowest first. -/
def Qf.halfTo (q : Qf) (ep : Ep) : Option HalfPort :=
  allHalves.find? (fun h => (q.link h).live && (q.link h).peerEp = ep && !(q.link h).fence)

/-- The way out of a packet that is not a COL packet (R337 to R341): none where it has none.  A packet for
this QF960 goes to its local units. -/
def Qf.route (q : Qf) (p : Packet) : Option Ingress :=
  if p.destEp = q.ownEp then some (q.localOut p)
  else
    let b := (q.bankFor p.mapEpoch).1
    let e := b.routes.get p.destEp.toNat 0
    match (fld e 62 2).toNat with
    | 0 => none
    | 1 => some (q.localOut p)
    | 2 =>
      let h : HalfPort := fld e 56 6
      if (q.link h).live && !(q.link h).fence then some (.half h) else none
    | _ => (q.groupPick p (b.groups.get (fld e 46 10).toNat 0) (e.getLsbD 45)).map Ingress.half

/-- Count a packet whose epoch matches no bank (R345). -/
def Qf.countEpoch (q : Qf) (p : Packet) : Qf :=
  if p.destEp = q.ownEp || (q.bankFor p.mapEpoch).2 then q
  else { q with sw := { q.sw with epochMisses := q.sw.epochMisses + 1 } }

/-! ### Versions of links (R308, R309) -/

/-- Whether a link version has an opcode, its optional headers and its FORM (Table LINK-10). -/
def versionHas (v : BitVec 8) (p : Packet) : Bool :=
  let o := p.opcode
  let needs11 := o = Opc.colExp || o = Opc.colEbcast || o = Opc.searchShard || o = Opc.searchAnswer ||
    o = Opc.sideAppend || (match p.col with | some c => decide (2 ≤ c.form.toNat) | none => false)
  let needs20 := o = Opc.ownMsg || o = Opc.ownAnswer ||
    (match p.pennant with | some r => r.scope | none => false)
  if needs20 then v = 0x20 || v = 0x31 else if needs11 then v != 0x10 else true

/-! ### Sampling (R350 to R353) -/

/-- Numbering of inputs and outputs in a sample record (R351). -/
def ingressCode : Ingress → Nat
  | .half h => h.toNat
  | .unit s => 64 + s.toNat
  | .mgmt => 72

/-- A sample record (Table CORE-6) with the redaction of R352. -/
def Qf.sampleRecord (q : Qf) (k : Nat) (egressPt : Bool) (inp : Ingress) (out : Option Ingress)
    (cut : Bool) (p : Packet) : BitVec 1536 :=
  let red := p.vc != 5 && decide (0 < p.payload.length)
  let hide := p.world
  let p' := if hide then { p with addr := 0, keyGen := 0, keyTenant := 0 } else p
  let p' := if p.vc = 5 then p' else { p' with payload := p'.payload.map (fun _ => 0) }
  let pkt := leNat (slice (slotBytes p'.slots) 0 128)
  let cells := match out with | some o => q.egressCells o p.tc | none => 0
  BitVec.ofNat 1536 (packHi [(64, q.now), (4, k), (1, b2n egressPt), (7, ingressCode inp),
    (7, match out with | some o => ingressCode o | none => 127), (3, p.vc.toNat), (3, p.tc.toNat),
    (9, p.slotCount), (20, cells), (20, q.sw.free), (1, b2n cut), (1, b2n (red || hide)),
    (372, 0), (1024, pkt)])

/-- Count a packet at one sampler and take every Nth (R350, R353). -/
def Qf.sampleOne (q : Qf) (k : Nat) (egressPt : Bool) (h : HalfPort) (inp : Ingress)
    (out : Option Ingress) (cut : Bool) (p : Packet) : Qf :=
  let x := q.sw.samplers.get k {}
  if x.n = 0 || x.egress != egressPt || x.half != h || !x.vcMask.getLsbD p.vc.toNat ||
      !x.tcMask.getLsbD p.tc.toNat then q
  else if x.count + 1 < x.n.toNat then
    { q with sw := { q.sw with samplers := q.sw.samplers.set k { x with count := x.count + 1 } } }
  else if q.sw.samples.length ≥ 1024 then
    { q with sw := { q.sw with
      samplers := q.sw.samplers.set k { x with count := 0, dropped := x.dropped + 1 } } }
  else
    { q with sw := { q.sw with
      samplers := q.sw.samplers.set k { x with count := 0, taken := x.taken + 1 }
      samples := q.sw.samples ++ [q.sampleRecord k egressPt inp out cut p] } }

/-- A packet passes the samplers of a half-port. -/
def Qf.sample (q : Qf) (egressPt : Bool) (h : HalfPort) (inp : Ingress) (out : Option Ingress)
    (cut : Bool) (p : Packet) : Qf :=
  (List.range 16).foldl (fun q k => q.sampleOne k egressPt h inp out cut p) q

/-! ### Sending from this QF960 -/

/-- A response to a packet: its source, tag, stream, tenant, class and address (R359, R544). -/
def Qf.reply (q : Qf) (p : Packet) (o : BitVec 8) (st : BitVec 8 := 0) (payload : List Byte := []) :
    Packet :=
  { opcode := o, vc := (vcOf o).getD 1, tc := p.tc, partitionId := q.part.id, destEp := p.srcEp,
    srcEp := q.ownEp, world := p.world, view := p.view, status := st, tag := p.tag,
    stream := p.stream, tenant := p.tenant, keyTenant := p.keyTenant, keyGen := p.keyGen,
    mapEpoch := q.part.epoch, addr := p.addr, qp := p.qp, payload := payload }

/-- Count a packet that has no way out (R341). -/
def Qf.noRoute (q : Qf) : Qf := { q with sw := { q.sw with noRoute := q.sw.noRoute + 1 } }

/-- Hand a packet of a local unit to the core: queued where admitted, else it stalls at its channel behind
any packet of its unit, channel and lane that already stalls (R331 to R333, R176). -/
def Qf.offer (q : Qf) (inp : Ingress) (outs : List Ingress) (fixed : Bool) (p : Packet) : Qf :=
  if q.sw.stalled.any (fun u => u.inp = inp && u.pkt.vc = p.vc && colControl u.pkt.opcode = colControl p.opcode) ||
      !q.accepts inp p outs then
    { q with sw := { q.sw with stalled := q.sw.stalled ++
      [{ inp, pkt := p, outs := if fixed then some (outs.filterMap (fun o =>
          match o with | .half h => some h | _ => none)) else none }] } }
  else q.enqueue inp outs p

/-- Send a response or other packet that is no request; where it has no way out it is discarded and
counted (R341). -/
def Qf.sendPlain (q : Qf) (inp : Ingress) (p : Packet) : Qf :=
  let q := q.countEpoch p
  match q.route p with
  | some o => q.offer inp [o] false p
  | none => q.noRoute

/-- FAIL to a packet's source with a status. -/
def Qf.sendFail (q : Qf) (inp : Ingress) (p : Packet) (st : Status) : Qf :=
  q.sendPlain inp (q.reply p Opc.fail st.code)

/-- Send a packet of a local unit by route; a request with no way out is answered FAIL and LINK_DOWN to
its source (R341). -/
def Qf.send (q : Qf) (inp : Ingress) (p : Packet) : Qf :=
  let q := q.countEpoch p
  match q.route p with
  | some o => q.offer inp [o] false p
  | none => if p.vc = 0 then q.sendFail inp p .linkDown else q.noRoute

/-- Send a packet on one half-port, by no route: MGT floods and QFP-M (R317, R416). -/
def Qf.sendOn (q : Qf) (inp : Ingress) (h : HalfPort) (p : Packet) : Qf :=
  if (q.link h).live && !(q.link h).fence then q.offer inp [.half h] true p else q.noRoute

/-- Send a COL packet on half-ports of its group record (R342). -/
def Qf.sendCol (q : Qf) (inp : Ingress) (hs : List HalfPort) (p : Packet) : Qf :=
  let live := hs.filter (fun h => (q.link h).live && !(q.link h).fence)
  if live = [] then q.noRoute else q.offer inp (live.map Ingress.half) true p

/-- Half-ports with a live link to another QF960. -/
def Qf.qfNeighbours (q : Qf) : List HalfPort :=
  allHalves.filter (fun h => (q.link h).live && (q.link h).peerQf && !(q.link h).fence)

/-- An MGT message of this QF960 to a neighbour or endpoint. -/
def Qf.mgt (q : Qf) (o : BitVec 8) (dest : Ep) (payload : List Byte) : Packet :=
  { opcode := o, vc := 5, tc := 7, partitionId := q.part.id, destEp := dest, srcEp := q.ownEp,
    mapEpoch := q.part.epoch, payload := payload }

/-- The first half-port to each QF960 neighbour. -/
def Qf.firstHalves (q : Qf) : List HalfPort :=
  let hs := q.qfNeighbours
  hs.filter (fun h => hs.find? (fun x => (q.link x).peerEp = (q.link h).peerEp) = some h)

/-- Flood an MGT message of a source to every QF960 neighbour but the one it came from (R416). -/
def Qf.flood (q : Qf) (o : BitVec 8) (src : Ep) (payload : List Byte) (but : Option HalfPort) : Qf :=
  let came := but.map (fun h => (q.link h).peerEp)
  (q.firstHalves.filter (fun h => some (q.link h).peerEp != came)).foldl
    (fun q h => q.sendOn .mgmt h { (q.mgt o (q.link h).peerEp payload) with srcEp := src }) q

/-! ### Cells that cannot be read (R357) -/

/-- The cells of a packet are read: whether an error beyond correction is found, which is a free value (log 9). -/
def Qf.readCells (q : Qf) : Bool × Qf := (Config.cellFault q.freeCount, { q with freeCount := q.freeCount + 1 })

/-- A packet whose cells cannot be read is not forwarded: a request is answered, any other is discarded; either way it is
counted (R357). -/
def Qf.badCells (q : Qf) (inp : Ingress) (p : Packet) : Qf :=
  let q : Qf := { q with sw := { q.sw with cellErrors := q.sw.cellErrors + 1 } }
  if p.vc = 0 then q.sendFail inp p .uncorrectable else q

/-! ### Taking what has arrived -/

/-- Credit selectors of a packet (R296, R297): 0 to 5 by channel; the slots it holds. -/
def selOf (p : Packet) : Nat := p.vc.toNat

/-- Free a staged packet's slots as credits (R297, R330). -/
def LinkRx.release (r : LinkRx) (p : Packet) : LinkRx :=
  let pool := r.ctl.contains p
  let k := if pool then 6 else selOf p
  let n := if pool then 1 else p.slotCount
  { r with
    ctl := dropFirst (· = p) r.ctl
    freed := r.freed.set k ((r.freed[k]?).getD 0 + BitVec.ofNat 14 n)
    held := r.held.set k ((r.held[k]?).getD 0 - n) }

/-- A packet leaves where it waits for its unit: the staging of its half-port, or the queue of the local
units.  A packet that waits nowhere is taken as it comes (log 12). -/
def Qf.take (q : Qf) (i : Ingress) (p : Packet) : Qf :=
  match i with
  | .half h =>
    if (q.link h).rx.staged.any (· = p) then
      q.updLink h (fun l => { l with rx := { (l.rx.release p) with
        staged := dropFirst (· = p) l.rx.staged } })
    else q
  | _ => (q.leaveLane i p).getD (q.dequeue (fun e => e.out = i && e.pkt = p))

/-- Whether the peer of a half-port is an accelerator or a CXL host, for which this QF960 is the edge. -/
def Link.isClient (l : Link) : Bool := (l.profile = 1 && !l.peerQf) || l.profile = 3

/-- Whether a packet arriving at i is at its source edge here. -/
def Qf.atEdge (q : Qf) (i : Ingress) : Bool :=
  match i with
  | .half h => (q.link h).isClient
  | _ => false

/-! ### Credits (R296) -/

/-- Spend credits for a packet: a COL control packet takes slots where enough are free, else one credit of the control
pool (R296). -/
def LinkTx.spend (t : LinkTx) (p : Packet) : Option LinkTx :=
  let free (k : Nat) : Nat :=
    ((t.advertised[k]?).getD 0).toNat - ((t.spent[k]?).getD 0 - (t.freedSeen[k]?).getD 0).toNat
  let put (k n : Nat) : LinkTx := { t with spent := t.spent.set k ((t.spent[k]?).getD 0 + BitVec.ofNat 14 n) }
  let k := p.vc.toNat
  let n := p.slotCount
  if n ≤ free k then some (put k n)
  else if colControl p.opcode && decide (1 ≤ free 6) then some (put 6 1)
  else none

/-- Whether a link takes a packet now: no packet is being cut through to it, it has credits for all the slots, and room for
the flits in the replay buffer (R294, R296, R300); a CXL port has neither credits nor replay. -/
def Link.canSend (l : Link) (p : Packet) : Bool :=
  l.profile = 3 || (l.tx.cutFrom.isNone && (l.tx.spend p).isSome && decide (l.tx.replay.length + ceilDiv p.slotCount 15 ≤ 128))

/-- Whether an opcode is a grant of a line. -/
def isGrant (o : BitVec 8) : Bool := o = Opc.grantS || o = Opc.grantE || o = Opc.grantM

/-- A packet starts to go out on a link: credits are spent, and what it makes the client owe is noted (R113, R296). -/
def Link.startPkt (l : Link) (p : Packet) : Link :=
  match l.tx.spend p with
  | none => l
  | some t =>
    let l := { l with tx := t }
    if !l.isClient then l
    else if p.vc = 2 then { l with snoops := l.snoops ++ [p] }
    else if isGrant p.opcode then { l with acksDue := l.acksDue ++ [p] }
    else l

/-! ### Passing through -/

/-- Whether an endpoint is a client of this edge whose link is down (R113). -/
def Qf.clientDown (q : Qf) (ep : Ep) : Bool :=
  allHalves.any (fun h => (q.link h).isClient && (q.link h).peerEp = ep && !(q.link h).live)

/-- A packet with no way out: a request is answered LINK_DOWN, a snoop of a client whose link is down SNP_RSP_I on its
behalf, anything else is discarded and counted (R113, R341). -/
def Qf.noWay (q : Qf) (i : Ingress) (p : Packet) : Qf :=
  if p.vc = 0 then q.sendFail i p .linkDown
  else if p.vc = 2 && q.clientDown p.destEp then
    q.sendPlain i { (q.reply p Opc.snpRspI) with srcEp := p.destEp }
  else q.noRoute

/-- A packet for another endpoint passes through: it is queued by its route (R331, R341). -/
def Qf.transit (q : Qf) (i : Ingress) (p : Packet) : Qf :=
  let q := q.countEpoch p
  match q.route p with
  | some o => if q.accepts i p [o] then q.enqueue i [o] p
              else { q with sw := { q.sw with stalled := q.sw.stalled ++ [{ inp := i, pkt := p }] } }
  | none => q.noWay i p

end Sys2Proof.Machine
end

