-- ==== Sys2Proof/Machine/Lines.lean ====
section
/-! DEFINITION. Machine/Lines.lean: one line at its home: the extent that holds it, the live key generations (R381 to
R386), verification and decryption (R384, R385), the tiers that hold it (R48 to R51, R66) and the requests sent
to trays and lenders (R317 to R325). -/

namespace Sys2Proof.Machine

/-! ### Extents and keys -/

/-- The home extent map entry of a slot. -/
def Qf.extent (q : Qf) (s : Slot) : Extent := q.pool.extents.get s.toNat {}
/-- Change a slot's entry. -/
def Qf.updExtent (q : Qf) (s : Slot) (f : Extent → Extent) : Qf :=
  { q with pool := { q.pool with extents := q.pool.extents.upd s.toNat {} f } }

/-- A tenant's key slots. -/
def Qf.keysOf (q : Qf) (t : Tenant) : TenantKeys := q.sec.keys.get t.toNat {}
/-- Change a tenant's key slots. -/
def Qf.updKeys (q : Qf) (t : Tenant) (f : TenantKeys → TenantKeys) : Qf :=
  { q with sec := { q.sec with keys := q.sec.keys.upd t.toNat {} f } }

/-- The live slots of a tenant: CURRENT and PREVIOUS (R386). -/
def TenantKeys.live (k : TenantKeys) : List KeySlot := k.current.toList ++ k.previous.toList

/-- Whether a generation is live. -/
def TenantKeys.isLive (k : TenantKeys) (g : KeyGen) : Bool := k.live.any (fun s => s.gen = g)

/-- The plaintext of a stored line of an extent, or why it cannot be delivered (R384, R385). -/
def Qf.openStored (q : Qf) (n : LineNo) (s : StoredLine) : Except Status Line :=
  if isZeroLine s then .ok 0
  else
    let t := (q.extent (lineSlot n)).tenant
    match (q.keysOf t).live.find? (fun k => fld k.gen 0 7 = genTag s) with
    | none => .error .keyRetired
    | some k => if macGood k.key k.gen n s then .ok (openLine k.key n s) else .error .uncorrectable

/-- Count and report a MAC failure (R384). -/
def Qf.macFailure (q : Qf) (n : LineNo) : Qf :=
  ({ q with sec := { q.sec with macFailures := q.sec.macFailures + 1 } }).fault 2
    { sector := q.sectorOf n, unit := 2, status := Status.uncorrectable.code,
      tenant := (q.extent (lineSlot n)).tenant,
      addr := q.redact false (q.extent (lineSlot n)).tenant
        (ppaOf q.ownEp (lineSlot n) (fld (lineAddr n) 0 28)) }

/-- A line as the home places it, under its tenant's CURRENT generation, or the RETIRING one of a write ordered before it
retired (R385, R386). -/
def Qf.sealFor (q : Qf) (n : LineNo) (l : Line) : StoredLine :=
  let ks := q.keysOf (q.extent (lineSlot n)).tenant
  match ks.current.orElse (fun _ => ks.retiring.head?) with
  | some k => sealLine k.key k.gen n l
  | none => zeroStored

/-- A fault record that names a line. -/
def Qf.lineFault (q : Qf) (cls : Nat) (n : LineNo) (st : Status) (world : Bool := false) : Qf :=
  let t := (q.extent (lineSlot n)).tenant
  q.fault cls { sector := q.sectorOf n, unit := 2, status := st.code, tenant := t,
                addr := q.redact world t (ppaOf q.ownEp (lineSlot n) (fld (lineAddr n) 0 28)) }

/-! ### Tier 0 -/

/-- The tier-0 copy of a line that a frame holds and has filled. -/
def Qf.frameLine (q : Qf) (n : LineNo) : Option StoredLine :=
  if (q.extent (lineSlot n)).t0Frame = 0xFFF then none else q.pool.t0Lines.find? n.toNat

/-- A page's hot-page replica. -/
def Qf.hotPage (q : Qf) (pg : BitVec 34) : Option HotPage :=
  q.pool.hotPages.find? (fun h => h.page = pg)

/-- The copy of a line that a complete hot-page replica holds. -/
def Qf.hotLine (q : Qf) (n : LineNo) : Option StoredLine :=
  (q.hotPage (linePage n)).bind (fun h =>
    if h.lines.length = 64 then h.lines.find? (fld n 0 6 : BitVec 6).toNat else none)

/-- Drop a page's hot-page replica (R66). -/
def Qf.dropHot (q : Qf) (pg : BitVec 34) : Qf :=
  { q with pool := { q.pool with hotPages := q.pool.hotPages.filter (fun h => h.page != pg) } }

/-- A hot-page replica has been used (R66). -/
def Qf.touchHot (q : Qf) (pg : BitVec 34) : Qf :=
  { q with pool := { q.pool with
    hotPages := updFirst (fun h => h.page = pg) (fun h => { h with lastUse := q.now })
      q.pool.hotPages } }

/-- The frame-part offset of a line in 512-byte slots: a page's eight lines on a stack are one slot (R47, R64). -/
def frameSlot (n : LineNo) : BitVec 34 := (fld n 6 16 : BitVec 16).zeroExtend 34

/-- Whether the tier-0 channel that holds a line is hot (R50, R65). -/
def Qf.t0Hot (q : Qf) (n : LineNo) : Bool :=
  q.pool.hot.any (fun r => match r with
    | .t0Channel st c => st = q.sectorOf n && c = q.t0Channel (frameSlot n) n
    | _ => false)

/-- Whether the channel of a line's hot-page copy is hot (R50): the channel of the replica's place, on the stack with the
stack bits inverted where the page has a tier-0 frame and on the line's own stack where it has none (R65; log 174). -/
def Qf.hotPageHot (q : Qf) (n : LineNo) : Bool :=
  match q.hotPage (linePage n) with
  | none => false
  | some h =>
    let own := q.sectorOf n
    let stack := if (q.extent (lineSlot n)).t0Frame = 0xFFF then own else ~~~own
    q.pool.hot.any (fun r => match r with
      | .t0Channel st c => st = stack && c = q.t0Channel (BitVec.ofNat 34 h.slot) n
      | _ => false)

/-- How many channels a tray has (R319, R64). -/
def Qf.trayChannels (q : Qf) (ep : Ep) : Nat :=
  match q.halfTo ep with | some h => max 1 (q.link h).trayChannels | none => 1

/-- Requests at a tray channel that its tray has not answered, which are the entries of its queue (R65; log 174). -/
def Qf.trayQueue (q : Qf) (ep : Ep) (c : BitVec 6) : Nat :=
  let at_ (e : Ep) (n : LineNo) : Bool := e = ep && q.trayChannel (lineInExt n) (q.trayChannels ep) = c
  (q.home.trayReads.filter (fun r => at_ r.ep r.line)).length + (q.home.trayWrites.filter (fun w => at_ w.ep w.line)).length

/-- Whether the tray channel of a line is at or above the skew threshold (R50): its queue is, or the guard calls it hot. -/
def Qf.trayHot (q : Qf) (n : LineNo) : Bool :=
  let e := q.extent (lineSlot n)
  let c := q.trayChannel (lineInExt n) (q.trayChannels e.trayEp)
  decide (q.pool.skewThreshold.toNat ≤ q.trayQueue e.trayEp c) || q.pool.hot.any (fun r => match r with
    | .trayChannel t k => t = e.trayEp && k = c
    | _ => false)

/-- Whether the egress queue on the way to a line's Cirrus lender is at or above the skew threshold (R50; log 174). -/
def Qf.cirrusHot (q : Qf) (n : LineNo) : Bool :=
  match q.route { destEp := (q.extent (lineSlot n)).cirrusEp, mapEpoch := q.part.epoch, tc := 7 } with
  | some (.half h) => decide (q.pool.skewThreshold.toNat ≤ q.occupancy h 7) || q.hotHalf h
  | _ => false

/-- The sources of a line for a read (R50). -/
inductive Source where
  | frame (s : StoredLine)
  | hot (s : StoredLine)
  | cirrus
  | tray
  deriving DecidableEq, Repr

/-- Every source that holds a line, in the order of R50, with whether its channel is hot. -/
def Qf.sources (q : Qf) (n : LineNo) : List (Source × Bool) :=
  let e := q.extent (lineSlot n)
  (match q.frameLine n with | some s => [(.frame s, q.t0Hot n)] | none => []) ++
  (match q.hotLine n with | some s => [(.hot s, q.hotPageHot n)] | none => []) ++
  (if e.cirrusValid then [(.cirrus, q.cirrusHot n)] else []) ++ [(.tray, q.trayHot n)]

/-- The source that serves a read (R50): the first whose channel is not hot, else the first. -/
def Qf.source (q : Qf) (n : LineNo) : Source :=
  let l := q.sources n
  match l.find? (fun x => !x.2) with
  | some x => x.1
  | none => match l with | x :: _ => x.1 | [] => .tray

/-! ### Trays and lenders -/

/-- The address of a line on its tray: tray extent and offset (R317). -/
def Qf.trayAddr (q : Qf) (n : LineNo) : BitVec 60 :=
  BitVec.ofNat 60 ((q.extent (lineSlot n)).trayExtent.toNat * 2 ^ 28 + (lineInExt n).toNat * 64)

/-- A QFP-M request (R317, Table LINK-7). -/
def Qf.trayPkt (q : Qf) (o : BitVec 8) (ep : Ep) (addr : BitVec 60) (tag : Tag) (n : LineNo)
    (payload : List Byte) : Packet :=
  { opcode := o, vc := (vcOf o).getD 0, tc := 7, partitionId := q.part.id, destEp := ep, srcEp := q.ownEp,
    tag, addr, payload, mapEpoch := q.part.epoch,
    stream := (q.trayChannel (lineInExt n) (q.trayChannels ep)).zeroExtend 18 }

/-- Whether a tray or lender endpoint can be reached. -/
def Qf.trayUp (q : Qf) (ep : Ep) : Bool := (q.halfTo ep).isSome

/-- Take the next tray tag. -/
def Qf.takeTrayTag (q : Qf) : Tag × Qf :=
  (q.home.nextTrayTag, { q with home := { q.home with nextTrayTag := q.home.nextTrayTag + 1 } })

/-- Send a request to a tray, as QFP-M packets or as the CXL operations of R325. -/
def Qf.toTray (q : Qf) (ep : Ep) (n : LineNo) (ps : List Packet) (read : Bool) (tag : Tag) : Qf :=
  match q.halfTo ep with
  | none => q.noRoute
  | some h =>
    if (q.link h).profile = 4 then
      q.updLink h (fun l => { l with cxl := { l.cxl with
        trayOps := l.cxl.trayOps ++ ([{ tag, read, left := 2 }] : List CxlTrayOp) } })
    else ps.foldl (fun q p => q.sendOn (.unit (q.sectorOf n)) h p) q

/-- Send TRAY_RD for a line (R318). -/
def Qf.trayRead (q : Qf) (n for_ : LineNo) : Qf :=
  let e := q.extent (lineSlot n)
  let (tag, q) := q.takeTrayTag
  let q := { q with home := { q.home with
    trayReads := q.home.trayReads ++
      ([{ ep := e.trayEp, tag, line := n, forLine := for_, since := q.now }] : List TrayRead) } }
  q.toTray e.trayEp n [q.trayPkt Opc.trayRd e.trayEp (q.trayAddr n) tag n []] true tag

/-- Read a line from its Cirrus lender (R50, R51; the opcode is log 13). -/
def Qf.cirrusRead (q : Qf) (n for_ : LineNo) : Qf :=
  let e := q.extent (lineSlot n)
  let (tag, q) := q.takeTrayTag
  let q := { q with home := { q.home with
    trayReads := q.home.trayReads ++
      ([{ ep := e.cirrusEp, tag, line := n, forLine := for_, ext := e.cirrusExtent, cirrus := true, since := q.now }] :
        List TrayRead) } }
  let a := BitVec.ofNat 60 (e.cirrusExtent.toNat * 2 ^ 28 + (lineInExt n).toNat * 64)
  q.send (.unit (q.sectorOf n)) (q.trayPkt Opc.trayRd e.cirrusEp a tag n [])

/-- The 72 bytes of a stored line (R318). -/
def storedBytes (s : StoredLine) : List Byte := bytesOf 64 s.data ++ bytesOf 8 s.side
/-- A stored line from its 72 bytes. -/
def storedOf (bs : List Byte) : StoredLine :=
  { data := bitsOf 512 (slice bs 0 64), side := bitsOf 64 (slice bs 64 8) }

/-- Send TRAY_WR of a stored line; waits says whether a transaction waits for its TRAY_DONE (R320). -/
def Qf.trayWrite (q : Qf) (n : LineNo) (s : StoredLine) (waits : Bool)
    (wb : Option (Packet × Line) := none) : Qf :=
  let e := q.extent (lineSlot n)
  let (tag, q) := q.takeTrayTag
  let q := { q with home := { q.home with trayWrites := q.home.trayWrites ++
    ([{ ep := e.trayEp, tag, line := n, stored := s, prot := e.prot, waits, wb, since := q.now }] :
      List TrayWrite) } }
  let a := q.trayAddr n
  q.toTray e.trayEp n [q.trayPkt Opc.trayWr e.trayEp a tag n [],
    q.trayPkt Opc.dataWrite e.trayEp a tag n (storedBytes s)] false tag

/-- Whether a transaction is a write whose TRAY_WR is still to come (R424). -/
def Txn.toWrite (t : Txn) : Bool :=
  (match t.req.op with
   | .write | .wbDirty | .counterAdd | .flag => true
   | .atomic => !t.far
   | _ => false) && t.phase != .placing && t.phase != .granted

/-- Lines of protected extents with an accepted write that is not yet sent to its tray (R424). -/
def Qf.acceptedLines (q : Qf) : List LineNo :=
  (q.home.lines.map (fun x => ((BitVec.ofNat 40 x.1 : LineNo), x.2))).filterMap (fun x =>
    if x.2.txn.any Txn.toWrite && !x.2.stuck && (q.extent (lineSlot x.1)).prot then some x.1 else none)

/-- Bytes of accepted protected writes that await TRAY_DONE, 64 for each line (R424). -/
def Qf.protectedPending (q : Qf) : Nat :=
  64 * ((q.home.trayWrites.filter (fun w => w.prot)).length + q.acceptedLines.length)

/-- The effective limit on them (R425). -/
def Qf.pendingLimit (q : Qf) : Nat :=
  let h := q.pwr.holdupHealth.toNat
  if h ≥ 100 then q.pwr.pendingLimit.toNat
  else q.pwr.pendingLimit.toNat * (max (h - 50) 1) / 50 / 64 * 64

/-- Place a line: tier 0 where a frame holds the extent, and its tray, in the same order (R48, R71); a
hot-page replica is dropped (R66), the page's write noted (R65) and a move's dirty page marked (R60).  Tier 0 is not
written where the tray cannot be sent the line (R48).  Answers whether a TRAY_DONE is awaited, which a protected extent's
placement is (R320). -/
def Qf.placeStored (q : Qf) (n : LineNo) (s : StoredLine) (wb : Option (Packet × Line) := none) :
    Bool × Qf :=
  let slot := lineSlot n
  let e := q.extent slot
  let q := q.dropHot (linePage n)
  let q := if e.t0Frame = 0xFFF || !q.trayUp e.trayEp then q
    else { q with pool := { q.pool with t0Lines := q.pool.t0Lines.set n.toNat s } }
  let pg := (fld n 6 16 : BitVec 16).toNat
  let q := if q.pool.moves.has slot.toNat then
      { q with pool := { q.pool with moves := q.pool.moves.upd slot.toNat {} (fun m =>
        if m.dirty.contains pg then m else { m with dirty := m.dirty ++ [pg] }) } }
    else q
  let q := { q with pool := { q.pool with pageWrites := q.pool.pageWrites.set (linePage n).toNat q.now } }
  (e.prot, q.trayWrite n s e.prot wb)

/-- Place plaintext under the CURRENT generation (R385). -/
def Qf.placeLine (q : Qf) (n : LineNo) (l : Line) : Bool × Qf := q.placeStored n (q.sealFor n l)

end Sys2Proof.Machine
end

