-- ==== Sys2Proof/Machine/Targets.lean ====
section
/-! DEFINITION. Machine/Targets.lean: what a home keeps between packets: target records and duplicates (R138 to R140,
R146, R546), reassembly entries (R90 to R93), pairs of requests and data (R544) and registered waits (R87, R543). -/

namespace Sys2Proof.Machine

/-- A sector's local units as an ingress. -/
def unitOf (s : Sector) : Ingress := .unit s

/-- The half-port of a client endpoint for which this QF960 is the edge. -/
def Qf.clientHalf (q : Qf) (ep : Ep) : Option HalfPort :=
  allHalves.find? (fun h => (q.link h).isClient && (q.link h).live && (q.link h).peerEp = ep)

/-- Send a response from a local unit.  One for a client of this edge goes to the edge's slice first, which
resolves the request before it passes the response on (R81, R347). -/
def Qf.respond (q : Qf) (s : Sector) (p : Packet) : Qf :=
  if (q.clientHalf p.destEp).isSome && p.opcode != Opc.grantS && p.opcode != Opc.grantE then
    q.offer (.unit s) [.unit s] false p
  else q.sendPlain (.unit s) p

/-- Answer a packet from the home sector of its address. -/
def Qf.answer (q : Qf) (p : Packet) (o : BitVec 8) (st : BitVec 8 := 0) (payload : List Byte := []) : Qf :=
  q.respond (q.sectorOf (lineNo p.addr)) (q.reply p o st payload)

/-- Answer FAIL with a status. -/
def Qf.answerFail (q : Qf) (p : Packet) (st : Status) : Qf := q.answer p Opc.fail st.code

/-! ### Target records -/

/-- Whether a record is the one of a QP header. -/
def TargetRec.is (t : TargetRec) (h : QpHdr) : Bool := t.originEp = h.originEp && t.qpn = h.qpn

/-- The record of a QP header. -/
def Qf.target (q : Qf) (h : QpHdr) : Option TargetRec := q.qps.targets.find? (fun t => t.is h)

/-- Change the record of a QP header. -/
def Qf.updTarget (q : Qf) (h : QpHdr) (f : TargetRec → TargetRec) : Qf :=
  { q with qps := { q.qps with targets := updFirst (fun t => t.is h) f q.qps.targets } }

/-- Whether no record is free for a queue pair (R138): its record lies in the stack QPN mod 8, of the sector that caches it, and
takes no place in another stack (DESIGN CHOICE, log 180). -/
def Qf.targetFull (q : Qf) (qpn : Qpn) : Bool :=
  decide (131072 ≤ (q.qps.targets.filter (fun t => fld t.qpn 0 3 = (fld qpn 0 3 : BitVec 3))).length)

/-- Set bits from bit 0 upward: how many consecutive. -/
def trailingOnes : Nat → BitVec 256 → Nat
  | 0, _ => 0
  | n + 1, x => if x.getLsbD 0 then trailingOnes n (x >>> 1) + 1 else 0

/-- A PSN's outcome becomes final (R139). -/
def TargetRec.final (t : TargetRec) (psn : Psn) : TargetRec :=
  let t := { t with admitted := t.admitted.filter (fun a => a.1 != psn) }
  let d := psn - t.expected
  if d = 0 then
    let k := trailingOnes 256 t.received
    { t with expected := t.expected + 1 + BitVec.ofNat 32 k, received := t.received >>> (k + 1) }
  else if d.toNat ≤ 256 then
    { t with received := t.received ||| ((1 : BitVec 256) <<< (d.toNat - 1)) }
  else t

/-- How the home classifies a queue-pair packet (R139, R150). -/
inductive PsnClass where
  | process | duplicate | discard | stale | lost
  deriving DecidableEq, Repr

/-- The class of a PSN against a record (R139). -/
def TargetRec.classify (t : TargetRec) (h : QpHdr) : PsnClass :=
  if t.lost then .lost
  else if h.ownEpoch < t.ownEpoch then .stale
  else
    let d := (h.psn - t.expected).toNat
    if d = 0 then .process
    else if d ≤ 256 then (if t.received.getLsbD (d - 1) then .duplicate else .process)
    else if 2 ^ 31 ≤ d then .duplicate else .discard

/-- Whether a PSN's bit is set in CANCELLED (R546). -/
def TargetRec.isCancelled (t : TargetRec) (psn : Psn) : Bool :=
  let d := (psn - t.cancelBase).toNat
  decide (d < 256) && t.cancelled.getLsbD d

/-- Acknowledge a duplicate again (R140). -/
def Qf.ackDuplicate (q : Qf) (t : TargetRec) (p : Packet) (psn : Psn) : Qf :=
  let q := { q with qps := { q.qps with duplicates := q.qps.duplicates + 1 } }
  if t.admitted.any (fun a => a.1 = psn) then q
  else if t.isCancelled psn then q.answerFail p .aborted
  else if t.failStatus != 0 && t.failPsn = psn then q.answer p Opc.fail t.failStatus
  else if t.lastAtomicPsn = psn then
    q.answer p Opc.atomicResult 0 (bytesOf 16 t.lastAtomicResult)
  else q.answer p Opc.placed

/-- Refuse a packet of a queue pair that another QF960 owns by now (R150): the answer's QP header carries the record's epoch,
which tells the sender what is stale (DESIGN CHOICE, log 181). -/
def Qf.answerOwner (q : Qf) (p : Packet) (h : QpHdr) (e : BitVec 32) : Qf :=
  q.answerFail { p with qp := some { h with ownEpoch := e } } .epochStale

/-- Classify a queue-pair packet, making its record where none is held (R138); true where the packet is to
be processed. -/
def Qf.targetCheck (q : Qf) (p : Packet) : Bool × Qf :=
  match p.qp with
  | none => (true, q)
  | some h =>
    match q.target h with
    | none =>
      if q.targetFull h.qpn then (false, q.answerFail p .retry)
      else (true, { q with qps := { q.qps with targets := q.qps.targets ++
        [{ originEp := h.originEp, qpn := h.qpn, ownEpoch := h.ownEpoch, expected := h.psn }] } })
    | some t =>
      let q := if t.ownEpoch < h.ownEpoch && !t.lost then
          q.updTarget h (fun t => { t with ownEpoch := h.ownEpoch }) else q
      match t.classify h with
      | .lost => (false, q.answerFail p .uncorrectable)
      | .stale => (false, q.answerOwner p h t.ownEpoch)
      | .discard => (false, q)
      | .duplicate => (false, q.ackDuplicate t p h.psn)
      | .process =>
        if t.admitted.any (fun a => a.1 = h.psn) then
          (false, { q with qps := { q.qps with duplicates := q.qps.duplicates + 1 } })
        else (true, q)

/-- A packet is admitted: its first line is ordered (R546). -/
def Qf.takeIn (q : Qf) (p : Packet) : Qf :=
  match p.qp with
  | none => q
  | some h => q.updTarget h (fun t => { t with admitted := t.admitted ++ [(h.psn, p.tag)] })

/-- A packet's outcome is final (R139, R140): status 0 where it is placed. -/
def Qf.psnFinal (q : Qf) (p : Packet) (st : BitVec 8) (result : Option (BitVec 128) := none) : Qf :=
  match p.qp with
  | none => q
  | some h => q.updTarget h (fun t =>
      let t := t.final h.psn
      let t := if st != 0 && t.failStatus = 0 then { t with failPsn := h.psn, failStatus := st } else t
      match result with
      | some r => { t with lastAtomicPsn := h.psn, lastAtomicResult := r }
      | none => t)

/-! ### Reassembly -/

/-- The sector of a message's entry (R90). -/
def msgSector (id : BitVec 24) : Sector := fld id 0 3

/-- Whether a reassembly entry is that of a source and message. -/
def Reassembly.is (r : Reassembly) (src : Ep) (id : BitVec 24) : Bool := r.srcEp = src && r.msgId = id

/-- Whether packets of a message are discarded: cleared less than 10 ms ago (R93). -/
def Qf.isCleared (q : Qf) (p : Packet) : Bool :=
  match p.msg with
  | none => false
  | some m => q.home.cleared.any (fun c =>
      c.src = p.srcEp && c.msgId = m.msgId && decide (q.now < c.expiry))

/-- Open a message's entry with a packet; none where the sector's table is full (R90, R92). -/
def Qf.openMsg (q : Qf) (p : Packet) : Option Qf :=
  match p.msg with
  | none => some q
  | some m =>
    let isIt := fun (r : Reassembly) => r.is p.srcEp m.msgId
    let q? : Option Qf :=
      if q.home.reasm.any isIt then some q
      else if 262144 ≤ (q.home.reasm.filter (fun r => msgSector r.msgId = msgSector m.msgId)).length then
        none
      else some { q with home := { q.home with reasm := q.home.reasm ++
        [{ srcEp := p.srcEp, msgId := m.msgId, totalLen := m.totalLen,
           streamNo := fld p.stream 0 16 }] } }
    q?.map (fun q => { q with home := { q.home with reasm := updFirst isIt (fun r =>
      { r with
        pennant := match p.pennant with
          | some pr => if pr.scope then some p else r.pennant
          | none => r.pennant
        completion := if m.completionReq then some p else r.completion }) q.home.reasm } })

/-- The request that carries a Pennant to its flag's home (R80). -/
def Qf.flagRequest (q : Qf) (p : Packet) (r : PennantRec) : Packet :=
  { opcode := Opc.pennant, vc := 0, tc := p.tc, partitionId := q.part.id,
    destEp := fld r.flagAddr 46 14, srcEp := p.srcEp, world := p.world, view := r.view, tag := p.tag,
    stream := p.stream, tenant := p.tenant, keyTenant := r.keyTenant, keyGen := r.keyGen,
    mapEpoch := p.mapEpoch, addr := fld r.flagAddr 0 60, pennant := some r }

/-- A message closes (R91): its Pennant goes to the flag's home, or back unapplied with FIRST_FAIL; its
completion is returned. -/
def Qf.closeMsg (q : Qf) (r : Reassembly) : Qf :=
  let q := { q with home := { q.home with
    reasm := dropFirst (fun x => x.is r.srcEp r.msgId) q.home.reasm } }
  let u := msgSector r.msgId
  let q := match r.pennant with
    | none => q
    | some p => match p.pennant with
      | none => q
      | some pr =>
        if r.firstFail = 0 then q.send (.unit u) (q.flagRequest p pr)
        else q.respond u (q.reply p Opc.pennantDone r.firstFail)
  match r.completion with
  | none => q
  | some p =>
    let a := q.reply p (if r.firstFail = 0 then Opc.placed else Opc.fail) r.firstFail
    q.respond u { a with msg := p.msg }

/-- Count a packet of a message once it is placed or has failed (R90, R91). -/
def Qf.countMsg (q : Qf) (p : Packet) (bytes : Nat) (st : BitVec 8) : Qf :=
  match p.msg with
  | none => q
  | some m =>
    let isIt := fun (r : Reassembly) => r.is p.srcEp m.msgId
    let q := { q with home := { q.home with reasm := updFirst isIt (fun r =>
      { r with counted := r.counted + BitVec.ofNat 32 bytes,
               firstFail := if r.firstFail = 0 then st else r.firstFail }) q.home.reasm } }
    match q.home.reasm.find? isIt with
    | some r => if r.totalLen ≤ r.counted then q.closeMsg r else q
    | none => q

/-- Close a message's entry and keep its pair for 10 ms (R93); a query of a shard that the message is ends (R240). -/
def Qf.clearMsg (q : Qf) (src : Ep) (id : BitVec 24) (counted : Bool) : Qf :=
  let open_ := q.home.reasm.any (fun r => r.is src id)
  let ours (s : Ep) (m : Option MsgHdr) : Bool := s = src && m.any (fun h => h.msgId = id)
  let q := { q with eng := { q.eng with
    msgs := q.eng.msgs.filter (fun b => !(b.src = src && b.msgId = id))
    shards := q.eng.shards.filter (fun j => !ours j.pkt.srcEp j.pkt.msg) } }
  { q with home := { q.home with
    reasm := q.home.reasm.filter (fun r => !r.is src id)
    cleared := (q.home.cleared.filter (fun c => !(c.src = src && c.msgId = id))) ++
      [{ src, msgId := id, expiry := q.now + 10000000 }]
    reasmCleared := if counted && open_ then q.home.reasmCleared + 1 else q.home.reasmCleared } }

/-- Clear every open entry of a source (R93). -/
def Qf.clearSource (q : Qf) (src : Ep) : Qf :=
  (q.home.reasm.filter (fun r => r.srcEp = src)).foldl (fun q r => q.clearMsg src r.msgId true) q

/-! ### Pairs (R544) -/

/-- The waiting mate of a packet: of its source and TAG, and one of the two is DAT where the other is not. -/
def isMate (p : Packet) (x : Ingress × Packet) : Bool :=
  x.2.srcEp = p.srcEp && x.2.tag = p.tag && (decide (x.2.vc = 3) != decide (p.vc = 3))

/-- Take a packet's mate where it has arrived, or hold the packet. -/
def Qf.pair (q : Qf) (i : Ingress) (p : Packet) : Option (Ingress × Packet) × Qf :=
  match q.home.unpaired.find? (isMate p) with
  | some x => (some x, { q with home := { q.home with
      unpaired := dropFirst (isMate p) q.home.unpaired } })
  | none => (none, { q with home := { q.home with unpaired := q.home.unpaired ++ [(i, p)] } })

/-! ### Version views (R55 to R58, R100) -/

/-- The version record of a region. -/
def Qf.verRec (q : Qf) (r : RegionId) : VersionRec := q.ver.recs.get r.toNat {}
/-- Change a version record. -/
def Qf.updVer (q : Qf) (r : RegionId) (f : VersionRec → VersionRec) : Qf :=
  { q with ver := { q.ver with recs := q.ver.recs.upd r.toNat {} f } }

/-- A page-map entry of a view: 0, or the home-local page that holds the page's content (log 15). -/
def VersionRec.entry (v : VersionRec) (view : BitVec 3) (page : BitVec 34) : BitVec 32 :=
  ((v.maps[view.toNat]?).getD []).get page.toNat 0

/-- The stream of the copies of a move (R60; log 173): of class 3, with a number that no issuer of Table ORDER-1 has. -/
def moveStream : Stream := (3 : BitVec 2) ++ (512 : BitVec 16)

/-- Whether a request is a copy engine's, of a move of its extent between homes: it reads and writes the extent itself,
whatever views show of it (R60; log 173). -/
def Qf.copyMove (q : Qf) (p : Packet) : Bool := p.stream = moveStream && q.part.kinds.get p.srcEp.toNat 0 = 2

/-- The place of a line seen through a view (R55, R100). -/
def Qf.viewLine (q : Qf) (p : Packet) (n : LineNo) : LineNo :=
  let e := q.extent (lineSlot n)
  if !e.versioned || q.copyMove p then n
  else
    let v := (q.verRec e.region).entry p.view (linePage n)
    if v = 0 then n else (v.zeroExtend 34 : BitVec 34) ++ (fld n 0 6 : BitVec 6)

/-! ### Registered waits -/

/-- The value of a waited word in its line. -/
def waitValue (l : Line) (w : WaitSlot) : Nat :=
  let off := (fld w.pkt.addr 0 6 : BitVec 6).toNat
  nfld l.toNat (8 * off) (if w.record.width then 32 else 64)

/-- Whether a wait's word lies in a line, seen through the wait's view. -/
def Qf.waitsOn (q : Qf) (n : LineNo) (w : WaitSlot) : Bool := q.viewLine w.pkt (lineNo w.pkt.addr) = n

/-- Re-evaluate the waits on a line after a placed change (R87). -/
def Qf.evalWaits (q : Qf) (n : LineNo) (l : Line) : Qf :=
  let mine := q.home.waits.filter (fun w => q.waitsOn n w && waitHolds w.record (waitValue l w))
  let seen (w : WaitSlot) : WaitSlot := if q.waitsOn n w then { w with value := waitValue l w } else w
  let q := { q with home := { q.home with waits := (q.home.waits.filter (fun w => !mine.contains w)).map seen } }
  mine.foldl (fun q w => q.answer w.pkt Opc.waitDone 0 (natLe 8 (waitValue l w))) q

/-- Fail the waits that a test picks (R543). -/
def Qf.failWaits (q : Qf) (f : WaitSlot → Bool) (st : Status) : Qf :=
  let mine := q.home.waits.filter f
  let q := { q with home := { q.home with waits := q.home.waits.filter (fun w => !f w) } }
  mine.foldl (fun q w => q.answerFail w.pkt st) q

end Sys2Proof.Machine
end

