-- ==== Sys2Proof/Machine/Home.lean ====
section
/-! DEFINITION. Machine/Home.lean: a home sector's service of its lines: checks (R42), ordering, blocking and waiters
(R110, R111), directory and snoops (R100 to R108, R410), placement and reads (R48 to R50, R109), atomics
(R118, R119), and how each kind of line request ends. -/

namespace Sys2Proof.Machine

/-! ### Directory -/

/-- The directory entry of a line. -/
def Qf.dirEnt (q : Qf) (n : LineNo) : Option DirEnt := q.home.dir.find? n.toNat

/-- Set a line's directory entry, or make it INVALID. -/
def Qf.setDir (q : Qf) (n : LineNo) (d : Option DirEnt) : Qf :=
  { q with home := { q.home with dir := match d with
    | some e => q.home.dir.set n.toNat e
    | none => q.home.dir.del n.toNat } }

/-- The set of a line's directory (R102). -/
def setOf (n : LineNo) : BitVec 21 := fld n 3 21

/-- Whether a line's directory set is LOST (R410). -/
def Qf.isLost (q : Qf) (n : LineNo) : Bool := q.home.lostSets.contains (q.sectorOf n, setOf n)

/-- The accelerators of the partition (composition kind 0). -/
def Qf.accelerators (q : Qf) : List Ep :=
  (q.part.kinds.filter (fun x => x.2 = 0)).map (fun x => BitVec.ofNat 14 x.1)

/-- The owner a directory entry records. -/
def DirEnt.owner (d : DirEnt) : Option Ep := if d.dstate = .owned then d.holders.head? else none

/-- The holders of a line for a snoop: for a COARSE line every accelerator of each set group (R105). -/
def Qf.holdersOf (q : Qf) (d : DirEnt) : List Ep :=
  if d.dstate = .coarse then q.accelerators.filter (fun e => d.groups.getLsbD (e.toNat / 64))
  else d.holders

/-- Whether an endpoint is a recorded holder. -/
def Qf.holds (q : Qf) (n : LineNo) (x : Ep) : Bool :=
  match q.dirEnt n with | some d => (q.holdersOf d).contains x | none => false

/-- Extension blocks in use in a sector: those of recorded entries and of entries that a CMP_ACK will record. -/
def Qf.blocksUsed (q : Qf) (s : Sector) : List Nat :=
  let coming := q.home.lines.filterMap (fun x => (x.2.txn.bind Txn.newDir).map (fun d => (x.1, d)))
  (q.home.dir ++ coming).flatMap (fun x => if q.sectorOf (BitVec.ofNat 40 x.1) = s then x.2.blocks else [])

/-- The lowest free extension block of a sector (R104; log 8). -/
def Qf.freeBlock (q : Qf) (s : Sector) : Option Nat :=
  let used := q.blocksUsed s
  let b := ((List.range (used.length + 1)).find? (fun i => !used.contains i)).getD 0
  if b < 524287 then some b else none

/-- The entry after a line gains a sharer; none where the grant must be refused (R105). -/
def Qf.addSharer (q : Qf) (n : LineNo) (x : Ep) : Option DirEnt :=
  match q.dirEnt n with
  | none => some { dstate := .owned, holders := [x], lastUse := q.now }
  | some d =>
    let d := { d with lastUse := q.now }
    if d.dstate = .coarse then
      some { d with groups := d.groups ||| ((1 : BitVec 256) <<< (x.toNat / 64)) }
    else if d.holders.contains x then some d
    else
      let count := d.holders.length + 1
      let need := ceilDiv (count - 1) 32
      let blk := if need ≤ d.blocks.length then some d.blocks
        else (q.freeBlock (q.sectorOf n)).map (fun b => d.blocks ++ [b])
      match blk with
      | some bs => if count ≤ 1024 then some { d with holders := d.holders ++ [x], blocks := bs }
                   else coarse d (bs.take 1)
      | none => if d.blocks = [] then none else coarse d (d.blocks.take 1)
where
  coarse (d : DirEnt) (bs : List Nat) : Option DirEnt :=
    some { d with
      dstate := .coarse, blocks := bs, holders := []
      groups := (d.holders ++ [x]).foldl
        (fun g e => g ||| ((1 : BitVec 256) <<< (e.toNat / 64))) 0 }

/-- A line loses a holder; a COARSE entry is unchanged (R105). -/
def Qf.dropHolder (q : Qf) (n : LineNo) (x : Ep) : Qf :=
  match q.dirEnt n with
  | none => q
  | some d =>
    if d.dstate = .coarse then q
    else
      let hs := d.holders.filter (· != x)
      if hs = [] then q.setDir n none
      else q.setDir n (some { d with
        holders := hs, blocks := d.blocks.take (ceilDiv (hs.length - 1) 32) })

/-- A line is OWNED by an endpoint. -/
def Qf.setOwner (q : Qf) (n : LineNo) (x : Ep) : Qf :=
  q.setDir n (some { dstate := .owned, holders := [x], lastUse := q.now })

/-- The valid lines of a line's directory set. -/
def Qf.setLines (q : Qf) (n : LineNo) : List (LineNo × DirEnt) :=
  (q.home.dir.map (fun x => ((BitVec.ofNat 40 x.1 : LineNo), x.2))).filter
    (fun x => setOf x.1 = setOf n && q.sectorOf x.1 = q.sectorOf n)

/-! ### Lines and their queues -/

/-- A blocked line. -/
def Qf.lineQ (q : Qf) (n : LineNo) : Option BlockedLine := q.home.lines.find? n.toNat

/-- Change a blocked line. -/
def Qf.updLine (q : Qf) (n : LineNo) (f : BlockedLine → BlockedLine) : Qf :=
  { q with home := { q.home with lines := q.home.lines.upd n.toNat {} f } }

/-- Change the transaction of a line that has one. -/
def Qf.updTxn (q : Qf) (n : LineNo) (f : Txn → Txn) : Qf :=
  if (q.lineQ n).isSome then q.updLine n (fun b => { b with txn := b.txn.map f }) else q

/-- Release a line: its entry goes where nothing waits for it (R110). -/
def Qf.release (q : Qf) (n : LineNo) : Qf :=
  match q.lineQ n with
  | none => q
  | some b =>
    if b.waiters = [] && b.extRecall.isNone then
      { q with home := { q.home with lines := q.home.lines.del n.toNat } }
    else q.updLine n (fun b => { b with txn := none })

/-- A line is blocked. -/
def Qf.blocked (q : Qf) (n : LineNo) : Bool := (q.lineQ n).isSome

/-! ### Failure and completion of one line request -/

/-- Change a bulk operation. -/
def Qf.updBulk (q : Qf) (id : Nat) (f : BulkOp → BulkOp) : Qf :=
  { q with home := { q.home with bulks := q.home.bulks.upd id {} f } }

/-- The opcodes of writes (R71). -/
def isWrite (o : BitVec 8) : Bool := o = Opc.wrNc || o = Opc.wrFullNc || o = Opc.wrBulk

/-- The arrival counter a write names, if any (R84). -/
def counterOf (p : Packet) : Option (BitVec 60) :=
  match p.aux with
  | some a => if a.counterAddr = 0 then none else some a.counterAddr
  | none => none

/-- The kinds of work on a line that write it. -/
def LineOp.writes : LineOp → Bool
  | .write | .atomic | .wbDirty | .counterAdd | .flag => true
  | _ => false

/-- A write drops its page's hot-page replica before it is ordered (R66). -/
def Qf.dropHotFor (q : Qf) (r : LineReq) : Qf := if r.op.writes then q.dropHot (linePage r.line) else q

/-- Order an internal request on a line, with no limit of R111. -/
def Qf.orderInternal (q : Qf) (r : LineReq) : Qf :=
  (q.dropHotFor r).updLine r.line (fun b => { b with waiters := b.waiters ++ [{ r with ordered := q.now }] })

/-- A bulk operation ends: its counter is added to (R84), its message and PSN counted, and it is answered. -/
def Qf.endBulk (q : Qf) (id : Nat) : Qf :=
  match q.home.bulks.find? id with
  | none => q
  | some b =>
    let p := b.pkt
    let q := { q with home := { q.home with bulks := q.home.bulks.del id } }
    if b.read then
      let len := match p.msg with | some m => m.totalLen.toNat | none => b.data.length * 64
      let off := (fld p.addr 0 6 : BitVec 6).toNat
      if b.fail = 0 then
        let bytes := slice (b.data.vals.flatMap lineBytes) off len
        let q := q.meter (q.sectorOf (lineNo p.addr)) p.tenant 0 bytes.length
        (q.answer p Opc.dataClean 0 bytes).psnFinal p 0
      else (q.answer p Opc.fail b.fail).psnFinal p b.fail
    else
      let q := if b.fail = 0 then
          let q := match counterOf p with
            | some c => q.orderInternal { op := .counterAdd, line := lineNo c, pkt := { p with addr := c },
                                          data := BitVec.ofNat 512 b.placed }
            | none => q
          (q.meter (q.sectorOf (lineNo p.addr)) p.tenant 1 b.placed).answer p Opc.placed
        else q.answer p Opc.fail b.fail
      let q := q.countMsg p p.payload.length b.fail
      q.psnFinal p b.fail

/-- One piece of a bulk operation is placed, or has failed (status not 0). -/
def Qf.pieceDone (q : Qf) (id : Nat) (st : BitVec 8) (n : LineNo) (bytes : Nat) (l : Line) : Qf :=
  let q := q.updBulk id (fun b =>
    { b with
      left := b.left - 1, fail := if b.fail = 0 then st else b.fail
      placed := if st = 0 then b.placed + bytes else b.placed
      data := if b.read && st = 0 then b.data.set n.toNat l else b.data })
  if (q.home.bulks.get id {}).left = 0 then q.endBulk id else q

/-- How many bytes a byte mask selects. -/
def maskCount (m : BitVec 64) : Nat :=
  (List.range 64).foldl (fun a i => if m.getLsbD i then a + 1 else a) 0

/-- A refusal with KEY_RETIRED is counted (Table SEC-8). -/
def Qf.countKey (q : Qf) (st : Status) : Qf :=
  if st = .keyRetired then { q with sec := { q.sec with keyRefusals := q.sec.keyRefusals + 1 } } else q

/-- A replication ends with a status. -/
def Qf.replicaEnd (q : Qf) (s : Slot) (st : Status) : Qf :=
  match q.pool.replications.find? (fun r => r.slot = s) with
  | none => q
  | some r =>
    let q := { q with pool := { q.pool with
      replications := q.pool.replications.filter (fun r => r.slot != s) } }
    let q := if st = .ok then q else { q with pool := { q.pool with
      cirrus := q.pool.cirrus.map (fun c => if c.slot = some s then { c with slot := none } else c) } }
    match r.cmd with | some m => q.complete m 0x15 st | none => q

/-- A line request fails that no other request waits for. -/
def Qf.failOne (q : Qf) (r : LineReq) (st : Status) : Qf :=
  let q := q.countKey st
  match r.op with
  | .write | .rdNc =>
    (match r.bulk with
     | some id => q.pieceDone id st.code r.line 0 0
     | none => (q.answerFail r.pkt st).psnFinal r.pkt st.code)
  | .rdShared | .rdOwn | .upgrade | .wbDirty | .evictClean => q.answerFail r.pkt st
  | .atomic => (q.answerFail r.pkt st).psnFinal r.pkt st.code
  | .flag => (q.answer r.pkt Opc.pennantDone st.code).psnFinal r.pkt st.code
  | .copyFrom _ =>
    let e := (q.extent (lineSlot r.line)).region
    { q with ver := { q.ver with recs := q.ver.recs.upd e.toNat {} (fun v =>
      if (v.foldPage.map Prod.fst) = some (linePage r.line).toNat then { v with foldPage := none } else v) } }
  | .replicate => q.replicaEnd (lineSlot r.line) st
  | .evict _ | .extRecall _ | .counterAdd | .sweep | .fill | .hotCopy | .waitEval => q

/-- A line request fails.  Where it is an eviction, the request that caused it returns RETRY (R106). -/
def Qf.failReq (q : Qf) (r : LineReq) (st : Status) : Qf :=
  match r.op with
  | .evict for_ =>
    (match (q.lineQ for_).bind BlockedLine.txn with
     | some t => if t.phase = .evicting then (q.failOne t.req .retry).release for_ else q
     | none => q)
  | _ => q.failOne r st

/-! ### Snoops -/

/-- The class of a line's snoops: that of the request that caused them; 6 for a recall, a control core's (R359; log 199). -/
def Qf.causeTc (q : Qf) (n : LineNo) : BitVec 3 :=
  let req (n : LineNo) : Option LineReq := ((q.lineQ n).bind BlockedLine.txn).map Txn.req
  match req n with
  | none => 6
  | some r => match r.op with
    | .evict for_ => ((req for_).map (fun r => r.pkt.tc)).getD 6
    | .extRecall _ => 6
    | _ => r.pkt.tc

/-- Send the snoops of a transaction; one to an endpoint whose link is down counts as answered SNP_RSP_I
at once (R113).  A write-back that still awaits its TRAY_DONE is the crossing write-back of its sender's snoop (R114). -/
def Qf.sendSnoops (q : Qf) (n : LineNo) (op : BitVec 8) (eps : List Ep) : Qf :=
  eps.foldl (fun q ep =>
    if q.clientDown ep then
      (q.dropHolder n ep).updTxn n (fun t => { t with snoops := t.snoops ++ [{ ep, op, since := q.now, answered := true }] })
    else
      let tag := q.home.nextSnoopTag
      let q := { q with home := { q.home with nextSnoopTag := tag + 1 } }
      let crossing := q.home.trayWrites.any (fun w => w.line = n && w.wb.any (fun x => x.1.srcEp = ep))
      let q := q.updTxn n (fun t => { t with
        snoops := t.snoops ++ [{ ep, tag, op, since := q.now, wbSeen := crossing }] })
      let e := q.extent (lineSlot n)
      let k := (q.keysOf e.tenant).current
      q.sendPlain (.unit (q.sectorOf n))
        { opcode := op, vc := 2, tc := q.causeTc n, partitionId := q.part.id, destEp := ep, srcEp := q.ownEp, tag,
          tenant := e.tenant, keyTenant := e.tenant, keyGen := (k.map KeySlot.gen).getD 0,
          mapEpoch := q.part.epoch, addr := ppaOf q.ownEp (lineSlot n) (fld (lineAddr n) 0 28) }) q

/-- The snoops a request causes against the recorded holders (Table COH-5, R410): opcode and endpoints. -/
def Qf.snoopsFor (q : Qf) (t : Txn) (n : LineNo) : BitVec 8 × List Ep :=
  let x := t.req.pkt.srcEp
  match q.dirEnt n with
  | none =>
    if q.isLost n && (match t.req.op with
        | .rdShared | .rdOwn | .upgrade | .rdNc | .write | .atomic | .counterAdd | .flag => true
        | _ => false)
    then (Opc.snpInv, q.accelerators.filter (· != x)) else (Opc.snpInv, [])
  | some d =>
    let others := (q.holdersOf d).filter (· != x)
    match t.req.op with
    | .rdShared => if d.dstate = .owned then (Opc.snpShare, others) else (Opc.snpInv, [])
    | .rdOwn | .upgrade => (Opc.snpInv, others)
    | .rdNc => if d.dstate = .owned then (Opc.snpCur, others) else (Opc.snpInv, [])
    | .write | .atomic =>
      if t.far then (Opc.snpInv, others)
      else if d.owner = some x then (Opc.snpInv, []) else (Opc.snpInv, q.holdersOf d)
    | .counterAdd | .flag | .evict _ | .extRecall _ => (Opc.snpInv, q.holdersOf d)
    | .wbDirty | .evictClean | .sweep | .fill | .replicate | .hotCopy | .copyFrom _ |
        .waitEval => (Opc.snpInv, [])

/-! ### Ends of transactions -/

/-- GRANT and data to the requester; the line stays blocked until CMP_ACK, which records the entry (Tables COH-5 to
COH-8). -/
def Qf.grant (q : Qf) (n : LineNo) (t : Txn) (l : Line) : Qf :=
  let p := t.req.pkt
  let s := q.sectorOf n
  let old := q.dirEnt n
  let shared := t.req.op = .rdShared && (t.snoops.any (fun s => s.op = Opc.snpShare) ||
    (match old with
     | none => false
     | some d => d.owner != some p.srcEp))
  let ent? : Option DirEnt :=
    if shared then q.addSharer n p.srcEp
    else some { dstate := .owned, holders := [p.srcEp], lastUse := q.now }
  match ent? with
  | none => (q.failReq t.req .retry).release n
  | some e =>
    let e := if shared && e.dstate = .owned then { e with dstate := .shared } else e
    let op := if shared then Opc.grantS else if t.req.op = .rdShared then Opc.grantE else Opc.grantM
    let q := q.updTxn n (fun t => { t with phase := .granted, newDir := some e, since := q.now })
    let q := q.respond s { (q.reply p op) with far := t.far }
    if t.noData then q
    else
      let q := q.meter s p.tenant 0 64
      q.respond s (q.reply p Opc.dataClean 0 (lineBytes l))

/-- The operand of an atomic request: the operand in the upper, the compare value in the lower 16 bytes
(Table COPY-4; log 14). -/
def atomicArgs (p : Packet) : Nat × Nat :=
  (leNat (slice p.payload 16 16), leNat (slice p.payload 0 16))

/-- Replace n bytes of a line from an offset. -/
def putBytes (l : Line) (off n v : Nat) : Line :=
  mergeLine l (BitVec.ofNat 512 (v % 2 ^ (8 * n) * 2 ^ (8 * off))) (maskOf off n)

/-- The new line and the old operand of an atomic, a counter add or a flag. -/
def rmw (r : LineReq) (l : Line) : Line × Nat :=
  let off := (fld r.pkt.addr 0 6 : BitVec 6).toNat
  match r.op with
  | .atomic =>
    let n := widthBytes r.pkt.atomicWidth
    let old := nfld l.toNat (8 * off) (8 * n)
    let (arg, cmp) := atomicArgs r.pkt
    (putBytes l off n (atomicNew r.pkt.atomicOp n old arg cmp), old)
  | .counterAdd =>
    let old := nfld l.toNat (8 * off) 64
    (putBytes l off 8 (old + r.data.toNat), old)
  | .flag =>
    (match r.pkt.pennant with
     | some f =>
       let n := if f.flagWidth then 4 else 8
       let old := nfld l.toNat (8 * off) (8 * n)
       (putBytes l off n (flagNew f.flagOp n old f.flagValue.toNat), old)
     | none => (l, 0))
  | _ => (mergeLine l r.data r.mask, 0)

/-- Whether an extent's withdrawal has reached Tw + 10 ms, past which a request has no effect (R43). -/
def Qf.discardedSlot (q : Qf) (s : Slot) : Bool :=
  match q.pool.withdrawals.find? s.toNat with | some w => w.discarded | none => false

/-- Complete the write-back that served a snoop, once: WB_DONE where its data is placed, else its failure (R109, R114). -/
def Qf.wbAnswer (q : Qf) (n : LineNo) (t : Txn) (st : Status := .ok) : Qf :=
  match t.wb with
  | some w =>
    let q := q.updTxn n (fun t => { t with wb := none })
    if st = .ok then (q.meter (q.sectorOf n) w.pkt.tenant 1 64).answer w.pkt Opc.wbDone else q.answerFail w.pkt st
  | none => q

/-- A line's placement is complete: the request is answered and the line released (Table COH-6). -/
def Qf.placedNow (q : Qf) (n : LineNo) (t : Txn) : Qf :=
  let r := t.req
  let q := (q.wbAnswer n t).evalWaits n t.result
  match r.op with
  | .write =>
    let q := q.setDir n none
    let q := match r.bulk with
      | some id => q.pieceDone id 0 n (maskCount r.mask) t.result
      | none => q
    q.release n
  | .atomic =>
    let q := q.setDir n none
    let res : BitVec 128 := BitVec.ofNat 128 t.old
    let q := q.answer r.pkt Opc.atomicResult 0 (bytesOf 16 res)
    (q.psnFinal r.pkt 0 (some res)).release n
  | .wbDirty => (((q.dropHolder n r.pkt.srcEp).meter (q.sectorOf n) r.pkt.tenant 1 64).answer r.pkt
      Opc.wbDone).release n
  | .counterAdd => (q.setDir n none).release n
  | .flag => (((q.setDir n none).answer r.pkt Opc.pennantDone).psnFinal r.pkt 0).release n
  | _ => q.release n

/-- A transaction fails: its request fails, and a write-back that it holds unplaced with it, and the line is released
(R110). -/
def Qf.failTxn (q : Qf) (n : LineNo) (t : Txn) (st : Status) : Qf := ((q.wbAnswer n t st).failReq t.req st).release n

/-- Whether a line's tray can be sent the line. -/
def Qf.canPlace (q : Qf) (n : LineNo) : Bool := q.trayUp (q.extent (lineSlot n)).trayEp

/-- Place a line for a transaction; it goes on at once, or at TRAY_DONE for a protected extent.  A line whose tray cannot be
reached is not placed (R48). -/
def Qf.placeFor (q : Qf) (n : LineNo) (l : Line) : Qf :=
  let q := q.updTxn n (fun t => { t with phase := .placing, result := l })
  if !q.canPlace n then
    match (q.lineQ n).bind BlockedLine.txn with
    | some t => q.failTxn n t .linkDown
    | none => q
  else
    let (w, q) := q.placeLine n l
    if w then q.updTxn n (fun t => { t with trayLeft := t.trayLeft + 1 })
    else match (q.lineQ n).bind BlockedLine.txn with
      | some t => q.placedNow n t
      | none => q

/-- Fill the next line of a tier-0 frame, one at a time (R49). -/
def Qf.fillNext (q : Qf) (f : Nat) : Qf :=
  match q.pool.frames.find? f with
  | none => q
  | some fr =>
    let q := q.updProgress fr.progress (fun p => { p with
      position := fr.fillPos, percent := fr.fillPos * 100 / 4194304 })
    if fr.fillPos < 4194304 then
      q.orderInternal { op := .fill, line := slotLine fr.slot fr.fillPos }
    else q

/-- A line of a frame's fill is done. -/
def Qf.fillDone (q : Qf) (n : LineNo) (s : Option StoredLine) : Qf :=
  let f := (q.extent (lineSlot n)).t0Frame.toNat
  let q := match s with
    | some s => if f = 0xFFF then q
        else { q with pool := { q.pool with t0Lines := q.pool.t0Lines.set n.toNat s } }
    | none => q
  match q.pool.frames.find? f with
  | none => q
  | some fr =>
    if slotLine fr.slot fr.fillPos = n then
      ({ q with pool := { q.pool with
        frames := q.pool.frames.set f { fr with fillPos := fr.fillPos + 1 } } }).fillNext f
    else q

/-- Add a line to a hot-page replica being copied (R65). -/
def Qf.hotAdd (q : Qf) (n : LineNo) (s : StoredLine) : Qf :=
  let put (h : HotPage) : HotPage := { h with lines := h.lines.set (fld n 0 6 : BitVec 6).toNat s }
  { q with pool := { q.pool with hotPages := updFirst (fun h => h.page = linePage n) put q.pool.hotPages } }

/-- Send the next line of a Cirrus replica to its lender (R51). -/
def Qf.replicaSend (q : Qf) (n : LineNo) (s : StoredLine) : Qf :=
  match q.pool.replications.find? (fun r => r.slot = lineSlot n) with
  | none => q
  | some r =>
    let (tag, q) := q.takeTrayTag
    let q := { q with home := { q.home with trayWrites := q.home.trayWrites ++
      ([{ ep := r.lender, tag, line := n, stored := s, waits := true, since := q.now }] :
        List TrayWrite) } }
    let a := BitVec.ofNat 60 (r.extent.toNat * 2 ^ 28 + (lineInExt n).toNat * 64)
    let u := Ingress.unit (q.sectorOf n)
    let q := q.send u (q.trayPkt Opc.trayWr r.lender a tag n [])
    q.send u (q.trayPkt Opc.dataWrite r.lender a tag n (storedBytes s))

/-- Whether two reads at a home are identical (R65). -/
def identicalRead (a b : LineReq) : Bool :=
  b.op = .rdNc && b.bulk.isNone && a.pkt.addr = b.pkt.addr && a.pkt.tenant = b.pkt.tenant &&
  a.pkt.keyGen = b.pkt.keyGen && a.pkt.mapEpoch = b.pkt.mapEpoch && a.pkt.view = b.pkt.view

/-- A read is answered with its line, and with it the identical reads that wait next where the line is one that
the skew guard samples (R65). -/
def Qf.readOut (q : Qf) (n : LineNo) (t : Txn) (l : Line) : Qf :=
  match t.req.bulk with
  | some id => (q.release n).pieceDone id 0 n 64 l
  | none =>
    let hot := q.pool.sampled.any (fun x => x.2.contains n)
    let ws := match q.lineQ n with | some b => b.waiters | none => []
    let group := if hot then ws.takeWhile (identicalRead t.req) else []
    let q := if group = [] then q else q.updLine n (fun b => { b with waiters := b.waiters.drop group.length })
    (t.req :: group).foldl (fun q r =>
      ((q.meter (q.sectorOf n) r.pkt.tenant 0 64).answer r.pkt Opc.dataClean 0 (lineBytes l)).psnFinal r.pkt 0)
        (q.release n)

/-- A line read from below goes to the request that read it. -/
def Qf.gotLine (q : Qf) (n : LineNo) (t : Txn) (s : StoredLine) (l : Line) : Qf :=
  if q.discardedSlot (lineSlot n) then q.failTxn n t .withdrawn
  else match t.req.op with
  | .rdNc => q.readOut n t l
  | .rdShared | .rdOwn | .upgrade => q.grant n t l
  | .atomic =>
    if t.far then q.grant n t l
    else
      let r := rmw t.req l
      (q.updTxn n (fun t => { t with old := r.2 })).placeFor n r.1
  | .write | .counterAdd | .flag => q.placeFor n (rmw t.req l).1
  | .sweep =>
    let k := q.keysOf (q.extent (lineSlot n)).tenant
    let old := match k.previous with | some p => fld p.gen 0 7 = genTag s | none => false
    if old && !isZeroLine s then q.placeFor n l else q.release n
  | .copyFrom _ => q.placeFor n l
  | .waitEval => (q.evalWaits n l).release n
  | _ => q.release n

/-- A line's stored form has been read for its transaction; status where it could not be. -/
def Qf.gotStored (q : Qf) (n : LineNo) (t : Txn) (s : Except Status StoredLine) : Qf :=
  match s with
  | .error st =>
    (match t.req.op with
     | .fill => (q.fillDone n none).release n
     | _ => q.failTxn n t st)
  | .ok s =>
    match t.req.op with
    | .fill => (q.fillDone n (some s)).release n
    | .hotCopy => (q.hotAdd n s).release n
    | .replicate => (q.replicaSend n s).release n
    | _ =>
      -- a page copied from another was sealed under the other page's line (R55, R59)
      let from_ := match t.req.op with | .copyFrom src => src | _ => n
      match q.openStored from_ s with
      | .error .uncorrectable => (q.macFailure from_).failTxn n t .uncorrectable
      | .error st => q.failTxn n t st
      | .ok l => q.gotLine n t s l

/-- The line whose stored form a transaction reads. -/
def Txn.readLine (t : Txn) (n : LineNo) : LineNo := match t.req.op with | .copyFrom s => s | _ => n

/-- Read a line for its transaction from a source. -/
def Qf.readFrom (q : Qf) (n : LineNo) (t : Txn) (source : Source) : Qf :=
  let src := t.readLine n
  let q := q.updTxn n (fun t => { t with phase := .reading })
  match source with
  | .frame s => q.gotStored n t (.ok s)
  | .hot s => (q.touchHot (linePage src)).gotStored n t (.ok s)
  | .cirrus => q.cirrusRead src n
  | .tray =>
    if q.canPlace src then q.trayRead src n
    else q.gotStored n t (.error .linkDown)

/-- Read a line for its transaction from the source of R50; a fill and a sweep read tier 1. -/
def Qf.readFor (q : Qf) (n : LineNo) (t : Txn) : Qf :=
  q.readFrom n t (match t.req.op with | .fill | .sweep => Source.tray | _ => q.source (t.readLine n))

/-- Read a line for its transaction from tier 0 where a frame holds it, and otherwise from tier 1 (R52). -/
def Qf.readTier (q : Qf) (n : LineNo) (t : Txn) : Qf :=
  q.readFrom n t (match q.frameLine (t.readLine n) with | some s => Source.frame s | none => Source.tray)

/-- A recalled line goes to its requester: plaintext is known. -/
def Qf.gotDirty (q : Qf) (n : LineNo) (t : Txn) (l : Line) : Qf :=
  match t.req.op with
  | .rdNc => q.readOut n t l
  | .rdShared | .rdOwn | .upgrade => q.grant n t l
  | .atomic => q.grant n t l
  | _ => q.release n

/-- Every snoop is answered and dirty data placed: the transaction goes on. -/
def Qf.afterSnoops (q : Qf) (n : LineNo) (t : Txn) : Qf :=
  match t.req.op with
  | .evict for_ =>
    let q := (q.setDir n none).release n
    let q := { q with home := { q.home with evictions := q.home.evictions + 1 } }
    q.updTxn for_ (fun t => if t.phase = .evicting then { t with phase := .ready } else t)
  | .extRecall _ =>
    -- each recalled entry is an eviction of R106 (R117)
    let q := (q.setDir n none).release n
    { q with home := { q.home with evictions := q.home.evictions + 1 } }
  | .evictClean => ((q.dropHolder n t.req.pkt.srcEp).answer t.req.pkt Opc.wbDone).release n
  | .wbDirty => q.placeFor n t.req.data
  | .upgrade => if t.noData then q.grant n t 0 else
      (match t.dirty with | some l => q.gotDirty n t l | none => q.readFor n t)
  | .write =>
    (match t.dirty with
     | some l => q.placeFor n (mergeLine l t.req.data t.req.mask)
     | none =>
       -- a WR_NC reads its line first even where it writes all of it (Table FAULT-3)
       if t.req.mask = fullMask && t.req.pkt.opcode != Opc.wrNc then q.placeFor n t.req.data else q.readFor n t)
  | .atomic =>
    (match t.dirty with
     | some l => if t.far then q.gotDirty n t l
       else
         let r := rmw t.req l
         (q.updTxn n (fun t => { t with old := r.2 })).placeFor n r.1
     | none => q.readFor n t)
  | .counterAdd | .flag =>
    (match t.dirty with
     | some l => q.placeFor n (rmw t.req l).1
     | none => q.readFor n t)
  | .rdNc | .rdShared | .rdOwn =>
    (match t.dirty with | some l => q.gotDirty n t l | none => q.readFor n t)
  | .sweep | .fill | .replicate | .hotCopy | .copyFrom _ | .waitEval => q.readFor n t

/-- Whether the request's own single placement takes in the recalled data (R109). -/
def mergesDirty (t : Txn) : Bool :=
  match t.req.op with
  | .write | .counterAdd | .flag => true
  | .atomic => !t.far
  | _ => false

/-- Every snoop of a line's transaction is complete: place dirty data first, or discard it (R109, R117). -/
def Qf.snoopsDone (q : Qf) (n : LineNo) (t : Txn) : Qf :=
  let discard := match t.req.op with | .extRecall d => d | _ => false
  match t.dirty with
  | none => q.afterSnoops n t
  | some l =>
    if discard || q.discardedSlot (lineSlot n) then
      let st := if (q.extent (lineSlot n)).state = .assigned then Status.keyRetired else .withdrawn
      (q.wbAnswer n t st).afterSnoops n { t with dirty := none, wb := none }
    else if mergesDirty t then q.afterSnoops n t
    else if !q.canPlace n then
      match t.req.op with
      | .evict _ | .extRecall _ =>
        ((q.wbAnswer n t .linkDown).lineFault 1 n .linkDown).afterSnoops n { t with dirty := none, wb := none }
      | _ => q.failTxn n t .linkDown
    else
      let (w, q) := q.placeLine n l
      if w then q.updTxn n (fun x => { x with phase := .placing, trayLeft := 1, dirty := some l })
      else ((q.evalWaits n l).wbAnswer n t).afterSnoops n { t with wb := none }

/-- Whether all of a transaction's snoops are complete (R544, R114). -/
def Txn.answered (t : Txn) : Bool :=
  t.snoops.all (fun s => s.answered && !s.wantData && !s.wantWb)

/-- Go on where the snoops are complete. -/
def Qf.checkSnoops (q : Qf) (n : LineNo) : Qf :=
  match (q.lineQ n).bind BlockedLine.txn with
  | some t => if t.phase = .snooping && t.answered then q.snoopsDone n t else q
  | none => q

/-- Start the snoops of a transaction, after any eviction it needed. -/
def Qf.snoopPhase (q : Qf) (n : LineNo) (t : Txn) : Qf :=
  let (op, eps) := q.snoopsFor t n
  let q := if (q.dirEnt n).isNone && eps != [] then
      { q with flt := { q.flt with lostSnoops := q.flt.lostSnoops + 1 } } else q
  let noData := t.req.op = .upgrade && (match q.dirEnt n with
    | some d => d.dstate = .shared && d.holders.contains t.req.pkt.srcEp
    | none => false)
  let q := q.updTxn n (fun t => { t with phase := .snooping, noData := noData, snoops := [] })
  (q.sendSnoops n op eps).checkSnoops n

/-- Whether a request needs a primary entry that its set may lack (R106). -/
def needsEntry (t : Txn) : Bool :=
  match t.req.op with
  | .rdShared | .rdOwn | .upgrade => true
  | .atomic => t.far
  | _ => false

/-- Transactions of a set that will record an entry for a line that has none. -/
def Qf.comingInSet (q : Qf) (n : LineNo) : Nat :=
  (q.home.lines.filter (fun x =>
    let m : LineNo := BitVec.ofNat 40 x.1
    m != n && setOf m = setOf n && q.sectorOf m = q.sectorOf n && (q.dirEnt m).isNone &&
    x.2.txn.any (fun t => needsEntry t && t.phase != .evicting))).length

/-- Start a transaction: evict an entry where the set is full (R106), else snoop.  An entry is used at each grant and each
SNP_RSP_S that writes it, and of entries used last at the same time the first in line order goes (log 175). -/
def Qf.begin (q : Qf) (n : LineNo) (t : Txn) : Qf :=
  if needsEntry t && (q.dirEnt n).isNone then
    let set := q.setLines n
    if set.length + q.comingInSet n < 14 then q.snoopPhase n t
    else
      match set.filter (fun x => !q.blocked x.1) with
      | [] => q.failTxn n t .retry
      | x :: xs =>
        let v := xs.foldl (fun a y => if y.2.lastUse < a.2.lastUse then y else a) x
        let q := q.updTxn n (fun t => { t with phase := .evicting })
        q.orderInternal { op := .evict n, line := v.1 }
  else q.snoopPhase n t

/-- Decide near or far and move the contention counter (R118, R119). -/
def Qf.orderAtomic (q : Qf) (r : LineReq) : Bool × Qf :=
  let i := (q.sectorOf r.line).toNat * 2048 + (ctrIndex r.line).toNat
  let c := q.home.atomicCtr.get i 2
  let others := match q.dirEnt r.line with
    | some d => (q.holdersOf d).any (· != r.pkt.srcEp)
    | none => false
  let far := q.home.farEnable && decide (c.toNat ≤ 1) && r.pkt.far && atomicFarOk r.pkt.atomicOp
  (far, { q with home := { q.home with
    atomicCtr := q.home.atomicCtr.set i (ctrStep c (r.late || others)) } })

/-- Whether a WB_DIRTY's sender is the recorded owner, or stands for it in a LOST set (R114, R410). -/
def Qf.wbOwner (q : Qf) (n : LineNo) (x : Ep) : Bool :=
  q.isLost n || (match q.dirEnt n with | some d => d.owner = some x | none => false)

/-- Serve a request on its line, which has no transaction. -/
def Qf.serve (q : Qf) (n : LineNo) (r : LineReq) : Qf :=
  let (far, q) := match r.op with
    | .atomic => q.orderAtomic r
    | _ => (false, q)
  let t : Txn := { req := r, far, since := q.now }
  let q := q.updLine n (fun b => { b with txn := some t })
  match r.op with
  | .wbDirty =>
    if q.wbOwner n r.pkt.srcEp then q.afterSnoops n t
    else (q.fault 4 { sector := q.sectorOf n, unit := 2, status := Status.accessViolation.code,
                      tenant := r.pkt.tenant, peer := r.pkt.srcEp,
                      addr := q.redact r.pkt.world r.pkt.tenant r.pkt.addr,
                      detail := r.pkt.opcode.zeroExtend 16 }).failTxn n t .accessViolation
  | .evictClean => q.afterSnoops n t
  | _ => q.begin n t

/-! ### The queue of a line -/

/-- Whether a write may start under the limit on accepted protected writes (R424). -/
def Qf.roomFor (q : Qf) (r : LineReq) : Bool :=
  match r.op with
  | .write =>
    !(q.extent (lineSlot r.line)).prot || q.protectedPending = 0 ||
      decide (q.protectedPending + 64 ≤ q.pendingLimit)
  | _ => true

/-- What a line can do next, if anything. -/
inductive Ready where
  | resume (t : Txn)
  | serve (r : LineReq)
  deriving DecidableEq, Repr

/-- Whether a line has work to start: a transaction whose eviction is done, a recall, or its first waiter.  From a freeze
on nothing is ordered (R426). -/
def Qf.readyOf (q : Qf) (b : BlockedLine) : Option Ready :=
  if b.stuck || q.pwr.failState != 0 then none
  else match b.txn with
  | some t => if t.phase = .ready then some (.resume t) else none
  | none =>
    match b.extRecall with
    | some r => some (.serve r)
    | none => match b.waiters with
      | r :: _ => if q.roomFor r then some (.serve r) else none
      | [] => none

/-- Start everything that can start, at most k times. -/
def Qf.pump : Nat → Qf → Qf
  | 0, q => q
  | k + 1, q =>
    match List.find? (fun (x : Nat × BlockedLine) => (q.readyOf x.2).isSome) q.home.lines with
    | none => q
    | some (i, b) =>
      let n : LineNo := BitVec.ofNat 40 i
      match q.readyOf b with
      | none => q
      | some (.resume t) => Qf.pump k (q.snoopPhase n t)
      | some (.serve r) =>
        let q := q.updLine n (fun b =>
          if b.extRecall.isSome then { b with extRecall := none } else { b with waiters := b.waiters.drop 1 })
        Qf.pump k (q.serve n r)

/-- A bound on how often lines can start in one command. -/
def Qf.pumpBound (q : Qf) : Nat :=
  q.home.lines.foldl (fun a x => a + 4 * x.2.waiters.length + 4) 64

/-- Start everything on the lines that can start. -/
def Qf.settleLines (q : Qf) : Qf := q.pump q.pumpBound

/-! ### Checks and ordering (R42, R111) -/

/-- Requests that write (check 4 of Table POOL-5). -/
def writesLine (o : BitVec 8) : Bool :=
  isWrite o || o = Opc.wbDirty || o = Opc.atomic || o = Opc.rdOwn || o = Opc.upgrade || o = Opc.pennant

/-- Checks 1 to 3 of Table POOL-5.  A copy of a move is stamped with the other home's generation: it is placed under this
home's own (log 173). -/
def Qf.check123 (q : Qf) (p : Packet) : Option Status :=
  let e := q.extent (slotNo p.addr)
  if e.lost then some .uncorrectable
  else if !epochServed p.mapEpoch q.part.epoch q.part.prevRetired || e.state = .moved then
    some .epochStale
  else if e.state != .assigned then some .withdrawn
  else if q.copyMove p then (if (q.keysOf e.tenant).current.isNone then some .keyRetired else none)
  else if !(q.keysOf p.keyTenant).isLive p.keyGen then some .keyRetired
  else none

/-- Check 4, which a copy of a move passes (log 173): a write to a SEALED extent or through a version-slot view, or another tenant's request to a
protected tenant's data (R393). -/
def Qf.check4 (q : Qf) (p : Packet) : Option Status :=
  let e := q.extent (slotNo p.addr)
  if q.copyMove p then none
  else if writesLine p.opcode && (e.sealedX || (e.versioned && decide (p.view.toNat < 4))) then
    some .accessViolation
  else if q.protectedTenant p.keyTenant && p.tenant != p.keyTenant then some .accessViolation
  else none

/-- The checks on an arrival counter's own extent (R85). -/
def Qf.checkCounter (q : Qf) (p : Packet) (c : BitVec 60) : Option Status :=
  let e := q.extent (slotNo c)
  if e.lost then some .uncorrectable
  else if !epochServed p.mapEpoch q.part.epoch q.part.prevRetired || e.state = .moved then
    some .epochStale
  else if e.state != .assigned then some .withdrawn
  else if (q.keysOf e.tenant).current.isNone then some .keyRetired
  else if e.sealedX || e.versioned then some .accessViolation
  else none

/-- Checks 1 to 4, with those of an arrival counter. -/
def Qf.homeChecks (q : Qf) (p : Packet) : Option Status :=
  match q.check123 p with
  | some s => some s
  | none => match q.check4 p with
    | some s => some s
    | none => if isWrite p.opcode then (counterOf p).bind (q.checkCounter p) else none

/-- Waiters of a sector, and blocked lines of it (R111). -/
def Qf.sectorLoad (q : Qf) (s : Sector) : Nat × Nat :=
  q.home.lines.foldl (fun a x =>
    if q.sectorOf (BitVec.ofNat 40 x.1) = s then (a.1 + 1, a.2 + x.2.waiters.length) else a) (0, 0)

/-- Whether a request to a line is refused with RETRY (R111). -/
def Qf.queueFull (q : Qf) (n : LineNo) : Bool :=
  let l := q.sectorLoad (q.sectorOf n)
  match q.lineQ n with
  | some b => decide (64 ≤ b.waiters.length) || decide (32768 ≤ l.2)
  | none => decide (8192 ≤ l.1)

/-- Order a request at its line's home sector: it joins the line's queue; a stuck line answers TIMEOUT
(R113). -/
def Qf.order (q : Qf) (r : LineReq) : Qf :=
  let n := r.line
  if (match q.lineQ n with | some b => b.stuck | none => false) then q.failReq r .timeout
  else (q.dropHotFor r).updLine n (fun b => { b with
    waiters := b.waiters ++ [{ r with ordered := q.now, late := q.blocked n }] })

/-! ### Copy-on-write pages (R53, R55 to R58) -/

/-- Whether a page is mapped by a view other than the given one. -/
def VersionRec.sharedPage (v : VersionRec) (view : Nat) (w : BitVec 32) : Bool :=
  (List.range 8).any (fun k => k != view && ((v.maps[k]?).getD []).any (fun x => x.2 = w))

/-- The reserve extents of a tenant at this home. -/
def Qf.reserves (q : Qf) (t : Tenant) : List Nat :=
  (q.pool.extents.filter (fun x => x.2.reserve && x.2.tenant = t && x.2.state = .assigned)).map Prod.fst

/-- The lowest free page of some reserve extents (log 8). -/
def Qf.freePage (q : Qf) (slots : List Nat) : Option (BitVec 32) :=
  let k := q.ver.cowUsed.length + 2
  (slots.flatMap (fun s => (List.range (min k 65536)).map (fun i => s * 65536 + i))).find?
    (fun v => v != 0 && !q.ver.cowUsed.has v) |>.map (BitVec.ofNat 32)

/-- Change a tenant's quota record. -/
def Qf.updQuota (q : Qf) (t : Tenant) (f : Quota → Quota) : Qf :=
  { q with pool := { q.pool with quotas := q.pool.quotas.upd t.toNat {} f } }
/-- A tenant's quotas and usage (R53). -/
def Qf.quota (q : Qf) (t : Tenant) : Quota := q.pool.quotas.get t.toNat {}

/-- Take another reserve extent for a tenant beside an extent, within the tier-1 quota (R53; log 15): the lowest
free slot below 65,536 and the lowest free extent of the same tray. -/
def Qf.takeReserve (q : Qf) (e : Extent) : Option (Nat × Qf) :=
  let u := q.quota e.tenant
  let k := q.pool.extents.length + 2
  let cap := match q.halfTo e.trayEp with | some h => (q.link h).trayCapacity | none => 0
  let slot? := (List.range (min k 65536)).find? (fun s => (q.pool.extents.get s {}).state = .free)
  let ext? := (List.range (min k cap)).find? (fun x =>
    !q.pool.extents.any (fun y => y.2.state != .free && y.2.trayEp = e.trayEp && y.2.trayExtent.toNat = x))
  if u.q1.toNat < u.u1 + 1 then none
  else match slot?, ext? with
  | some s, some x =>
    let new : Extent := { state := .assigned, versioned := false, prot := e.prot, trayEp := e.trayEp,
                          trayExtent := BitVec.ofNat 13 x, tenant := e.tenant, region := e.region,
                          reserve := true }
    let q := { q with pool := { q.pool with extents := q.pool.extents.set s new } }
    let q := q.updQuota e.tenant (fun u => { u with u1 := u.u1 + 1 })
    some (s, q.meter 0 e.tenant 4 1)
  | _, _ => none

/-- A free page of the tenant's reserve extents, or one of a reserve extent newly taken. -/
def Qf.takePage (q : Qf) (e : Extent) : Option (BitVec 32 × Qf) :=
  match q.freePage (q.reserves e.tenant) with
  | some w => some (w, q)
  | none =>
    match q.takeReserve e with
    | none => none
    | some (s, q) => (q.freePage [s]).map (fun w => (w, q))

/-- A copy-on-write page for a draft's write to a page (R53, R55): none where the quota is reached. -/
def Qf.cowPage (q : Qf) (p : Packet) (n : LineNo) : Option Qf :=
  let e := q.extent (lineSlot n)
  let v := q.verRec e.region
  let page := linePage n
  let old := v.entry p.view page
  if !e.versioned || q.copyMove p || (old != 0 && !v.sharedPage p.view.toNat old) then some q
  else
    (q.takePage e).map (fun x =>
      let w := x.1
      let q := x.2
      let src : BitVec 34 := if old = 0 then page else old.zeroExtend 34
      let q := { q with ver := { q.ver with cowUsed := q.ver.cowUsed.set w.toNat (e.tenant, e.region) } }
      let q := q.updVer e.region (fun v => { v with
        maps := v.maps.set p.view.toNat (((v.maps[p.view.toNat]?).getD []).set page.toNat w) })
      (List.range 64).foldl (fun q i =>
        let o : BitVec 6 := BitVec.ofNat 6 i
        q.orderInternal { op := .copyFrom (src ++ o), line := (w.zeroExtend 34 : BitVec 34) ++ o }) q)

end Sys2Proof.Machine
end

