-- ==== Sys2Proof/Machine/Withdraw.lean ====
section
/-! DEFINITION. Machine/Withdraw.lean: what happens to a whole extent: recalls (R117), the drain, the scrub and its stop
(R43 to R46, R542), tier-0 frames and shortage (R49, R54), and the end of an extent. -/

namespace Sys2Proof.Machine

/-! ### Shortage and notices (R54, R369) -/

/-- Tier-0 frames that hold the staging of collectives (R157). -/
def Qf.stagingFrames (q : Qf) : List Nat := q.cum.groups.flatMap (fun y => y.2.frames)

/-- Free tier-0 frames. -/
def Qf.framesFree (q : Qf) : Nat := 3712 - q.pool.frames.length - q.stagingFrames.length

/-- Tier-0 frames that no extent and no group holds, lowest first (log 8). -/
def Qf.freeFrames (q : Qf) (n : Nat) : List Nat :=
  ((List.range (min 3712 (q.pool.frames.length + q.stagingFrames.length + n))).filter (fun f =>
    !q.pool.frames.has f && !q.stagingFrames.contains f)).take n

/-- QF960 endpoints of the partition (composition kind 2). -/
def Qf.qfEps (q : Qf) : List Ep :=
  (q.part.kinds.filter (fun x => x.2 = 2)).map (fun x => BitVec.ofNat 14 x.1)

/-- A partition of at most 1,024 endpoints (R54). -/
def Qf.smallPartition (q : Qf) : Bool := decide (q.part.kinds.length ≤ 1024)

/-- Tenants whose tier-0 usage is above their quota share (R54; log 19). -/
def Qf.overShare (q : Qf) : List Tenant :=
  let total := q.pool.quotas.foldl (fun a x => a + x.2.q0.toNat) 0
  (q.pool.quotas.filter (fun x =>
    let share := if total ≤ 3712 then x.2.q0.toNat else x.2.q0.toNat * 3712 / total
    decide (share < x.2.u0))).map (fun x => BitVec.ofNat 12 x.1)

/-- The THROTTLE notice's payload: 1 while short, 0 at the end, then the tenants (log 19). -/
def throttleBytes (short : Bool) (ts : List Tenant) : List Byte :=
  natLe 2 (b2n short) ++ ts.flatMap (fun t => natLe 2 t.toNat)

/-- Send the shortage notice to every edge of a small partition (R54). -/
def Qf.notifyShort (q : Qf) : Qf :=
  if !q.smallPartition then q
  else
    let body := throttleBytes q.pool.short (if q.pool.short then q.overShare else [])
    q.qfEps.foldl (fun q e => q.sendPlain .mgmt (q.mgt Opc.throttle e body)) q

/-- Shortage starts below the high watermark and ends above the low one (R54). -/
def Qf.checkShort (q : Qf) : Qf :=
  let f := q.framesFree
  if !q.pool.short && decide (f * 100 < q.pool.highMark.toNat * 3712) then
    ({ q with pool := { q.pool with short := true } }).notifyShort
  else if q.pool.short && decide (q.pool.lowMark.toNat * 3712 < f * 100) then
    ({ q with pool := { q.pool with short := false } }).notifyShort
  else q

/-! ### Frames -/

/-- Whether a line of the tier-0 table lies in a slot. -/
def inSlot (s : Slot) (n : Nat) : Bool := n / 4194304 = s.toNat

/-- Return an extent's tier-0 frame (R43, R53). -/
def Qf.releaseFrame (q : Qf) (s : Slot) (st : Status) : Qf :=
  let e := q.extent s
  if e.t0Frame = 0xFFF then q
  else
    let fr := q.pool.frames.get e.t0Frame.toNat {}
    let q := q.endProgress fr.progress 2 st.code
    let q := { q with pool := { q.pool with
      frames := q.pool.frames.del e.t0Frame.toNat
      t0Lines := q.pool.t0Lines.filter (fun x => !inSlot s x.1) } }
    let q := q.updExtent s (fun e => { e with t0Frame := 0xFFF })
    let q := q.updQuota e.tenant (fun u => { u with u0 := u.u0 - 1 })
    (q.meter 0 e.tenant 3 (-1)).checkShort

/-- An extent leaves ASSIGNED while its frame fills: the fill's progress ends FAILED (R49). -/
def Qf.failFill (q : Qf) (s : Slot) (st : Status) : Qf :=
  let f := (q.extent s).t0Frame.toNat
  match q.pool.frames.find? f with
  | none => q
  | some fr =>
    let q := q.endProgress fr.progress 2 st.code
    { q with pool := { q.pool with frames := q.pool.frames.set f { fr with progress := none } } }

/-- Discard an extent's Cirrus replica (R43, R53). -/
def Qf.dropReplica (q : Qf) (s : Slot) : Qf :=
  let e := q.extent s
  let q := { q with pool := { q.pool with
    cirrus := q.pool.cirrus.map (fun c => if c.slot = some s then { c with slot := none } else c) } }
  if !e.cirrusValid then q
  else
    let q := q.updExtent s (fun e => { e with cirrusValid := false, cirrusEp := 0, cirrusExtent := 0 })
    let q := q.updQuota e.tenant (fun u => { u with u2 := u.u2 - 1 })
    q.meter 0 e.tenant 5 (-1)

/-- Drop the hot-page replicas of a slot's pages. -/
def Qf.dropHotSlot (q : Qf) (s : Slot) : Qf :=
  { q with pool := { q.pool with
    hotPages := q.pool.hotPages.filter (fun h => fld h.page 16 18 != (s : BitVec 18)) } }

/-! ### Recall and drain -/

/-- Whether a line request is one that a client or engine sent, and so counts as in flight (R44). -/
def isClientOp (r : LineReq) : Bool :=
  match r.op with
  | .rdShared | .rdOwn | .upgrade | .rdNc | .write | .atomic | .wbDirty | .evictClean | .flag |
    .counterAdd => true
  | _ => false

/-- Requests in flight at a slot (R44). -/
def Qf.slotInFlight (q : Qf) (s : Slot) : Nat :=
  q.home.lines.foldl (fun a x =>
    if inSlot s x.1 then
      a + (x.2.waiters.filter isClientOp).length +
        (match x.2.txn with | some t => b2n (isClientOp t.req && !x.2.stuck) | none => 0)
    else a) 0

/-- Recall every cached line of a slot, granted ones not yet acknowledged included, by directory evictions that take
each line ahead of its waiters (R117). -/
def Qf.recallSlot (q : Qf) (s : Slot) (discard : Bool) : Qf :=
  let granted := (q.home.lines.filter (fun x => (x.2.txn.bind Txn.newDir).isSome)).map Prod.fst
  (((q.home.dir.map Prod.fst) ++ granted).filter (fun x => inSlot s x)).eraseDups.foldl (fun q x =>
    q.updLine (BitVec.ofNat 40 x) (fun b => { b with
      extRecall := some { op := .extRecall discard, line := BitVec.ofNat 40 x, ordered := q.now } })) q

/-- Whether a slot has no cached line left and no recall running. -/
def Qf.recalled (q : Qf) (s : Slot) : Bool :=
  !q.home.dir.any (fun x => inSlot s x.1) &&
  !q.home.lines.any (fun x => inSlot s x.1 && (x.2.extRecall.isSome ||
    (match x.2.txn with | some t => (match t.req.op with | .extRecall _ => true | _ => false) | none => false)))

/-! ### Scrub (R45, R46, R542) -/

/-- Change a withdrawal. -/
def Qf.updWd (q : Qf) (s : Slot) (f : Withdrawal → Withdrawal) : Qf :=
  { q with pool := { q.pool with withdrawals := q.pool.withdrawals.upd s.toNat {} f } }

/-- The withdrawal of a slot. -/
def Qf.wd (q : Qf) (s : Slot) : Option Withdrawal := q.pool.withdrawals.find? s.toNat

/-- Lines that one TRAY_FILL covers (log 21). -/
def fillLines : Nat := 65536

/-- The scrub stops with a status: the withdrawal ends, and its command and progress object with it (R542). -/
def Qf.scrubStop (q : Qf) (s : Slot) (st : Status) : Qf :=
  match q.wd s with
  | none => q
  | some w =>
    let q := match w.cmd with
      | some m => q.complete m 0x11 st w.progress
      | none => q
    let q := q.endProgress w.progress 2 st.code
    let q := q.updWd s (fun w => { w with
      fill := none, stopped := true, cmd := none, progress := none, recalling := false })
    let cls := if st = .linkDown then 3 else if st = .timeout then 5 else 1
    q.fault cls { sector := 0, unit := 2, status := st.code, tenant := (q.extent s).tenant,
                  peer := (q.extent s).trayEp, addr := ppaOf q.ownEp s 0 }

/-- Send the next TRAY_FILL of a scrub (R542). -/
def Qf.scrubNext (q : Qf) (s : Slot) : Qf :=
  match q.wd s with
  | none => q
  | some w =>
    if 4194304 ≤ w.scrubPos then q
    else
      let e := q.extent s
      match q.halfTo e.trayEp with
      | none => q.scrubStop s .linkDown
      | some h =>
        let n := min fillLines (4194304 - w.scrubPos)
        let (tag, q) := q.takeTrayTag
        let q := q.updWd s (fun w => { w with fill := some (tag, n, q.now) })
        let line := slotLine s w.scrubPos
        if (q.link h).profile = 4 then
          q.updLink h (fun l => { l with cxl := { l.cxl with
            trayOps := l.cxl.trayOps ++ ([{ tag, left := ceilDiv n 8 }] : List CxlTrayOp) } })
        else q.sendOn (.unit (q.sectorOf line)) h
          (q.trayPkt Opc.trayFill e.trayEp (q.trayAddr line) tag line (natLe 4 n))

/-- The slot enters SCRUBBING: frame and replica are discarded, progress is 10 % (R43, R46). -/
def Qf.scrubStart (q : Qf) (s : Slot) : Qf :=
  let q := q.updExtent s (fun e => { e with state := .scrubbing })
  let q := ((q.releaseFrame s .withdrawn).dropReplica s).dropHotSlot s
  let q := q.updWd s (fun w => { w with recalling := false })
  let q := q.updProgress ((q.wd s).bind Withdrawal.progress) (fun p => { p with percent := 10 })
  q.scrubNext s

/-- A TRAY_FILL is done: progress, and the next range (R46). -/
def Qf.scrubDone (q : Qf) (s : Slot) (n : Nat) : Qf :=
  let q := q.updWd s (fun w => { w with fill := none, scrubPos := w.scrubPos + n })
  match q.wd s with
  | none => q
  | some w =>
    let q := q.updProgress w.progress (fun p => { p with
      position := w.scrubPos, percent := 10 + 90 * w.scrubPos / 4194304 })
    q.scrubNext s

/-- A slot becomes FREE: its usage goes, and its entry reads as at reset (R43, R53). -/
def Qf.freeSlot (q : Qf) (s : Slot) : Qf :=
  let e := q.extent s
  let q := ((q.releaseFrame s .withdrawn).dropReplica s).dropHotSlot s
  let q := { q with pool := { q.pool with extents := q.pool.extents.del s.toNat } }
  let q := q.updQuota e.tenant (fun u => { u with u1 := u.u1 - 1 })
  q.meter 0 e.tenant 4 (-1)

end Sys2Proof.Machine
end

