-- ==== Sys2Proof/Machine/Extents.lean ====
section
/-! DEFINITION. Machine/Extents.lean: the extent commands as Table POOL-16 states them (R40, R43, R49, R51, R53, R60, R540 to
R542), and the one turn that starts everything on lines and extents that can start (R110, R117, R388, R540). -/

namespace Sys2Proof.Machine

/-! ### When manager commands run (R474) -/

/-- Whether manager commands run: the image runs and power is good. -/
def Qf.mgrLive (q : Qf) : Bool := q.running && decide (q.pwr.failState = 0)

/-- Whether a command may start: one fetched from a queue after every earlier command of the queue has started, and with
FENCE after they have completed (R473, R474). -/
def Qf.mayStart (q : Qf) (m : MgrRef) : Bool :=
  match q.host.fetched.find? (isRef m) with
  | none => true
  | some f =>
    let before := (q.host.fetched.takeWhile (fun x => !isRef m x)).filter (fun x =>
      x.port = m.port && x.queue = m.queue && x.generation = m.generation)
    before.all (fun x => x.started) && (!f.words.getLsbD 12 || before = [])

/-- Note whether a fetched command has started. -/
def Qf.markStart (q : Qf) (m : MgrRef) (b : Bool) : Qf :=
  { q with host := { q.host with fetched := updFirst (isRef m) (fun x => { x with started := b }) q.host.fetched } }

/-! ### Region-table entries (R34, R36) -/

/-- A region-table entry (Table POOL-3). -/
structure RtEntry where
  valid : Bool
  read : Bool
  write : Bool
  atomic : Bool
  prot : Bool
  world : Bool
  view : BitVec 3
  sharedX : Bool
  keyTenant : Tenant
  region : RegionId
  home : Ep
  slot : Slot
  keyGen : KeyGen
  rsvd : BitVec 46
  deriving DecidableEq, Repr

/-- A region-table entry from its bits. -/
def RtEntry.ofBits (x : BitVec 128) : RtEntry where
  valid := x.getLsbD 127
  read := x.getLsbD 126
  write := x.getLsbD 125
  atomic := x.getLsbD 124
  prot := x.getLsbD 123
  world := x.getLsbD 122
  view := fld x 119 3
  sharedX := x.getLsbD 118
  keyTenant := fld x 106 12
  region := fld x 86 20
  home := fld x 72 14
  slot := fld x 54 18
  keyGen := fld x 46 8
  rsvd := fld x 0 46

/-- ENABLE of a tenant record (Table POOL-2). -/
def recEnable (r : BitVec 64) : Bool := r.getLsbD 63
/-- RT_ENTRIES. -/
def recEntries (r : BitVec 64) : Nat := (fld r 35 28).toNat
/-- RT_BASE as a system-area address. -/
def recBase (r : BitVec 64) : Nat := (fld r 6 29).toNat * 64

/-- A tenant's record. -/
def Qf.tenantRec (q : Qf) (t : Tenant) : BitVec 64 := q.edge.records.get t.toNat 0

/-! ### Sending an engine's request by PPA -/

/-- The payload packet of a request, with the request's route and stamps (R544). -/
def dataFor (sent : Packet) (d : Packet) : Packet :=
  { d with
    destEp := sent.destEp, srcEp := sent.srcEp, tag := sent.tag, addr := sent.addr, tc := sent.tc
    mapEpoch := sent.mapEpoch, keyTenant := sent.keyTenant, keyGen := sent.keyGen, view := sent.view
    tenant := sent.tenant, stream := sent.stream, world := sent.world, qp := sent.qp, msg := sent.msg }

/-- A request of this home's own copy work, already a PPA: open at the edge under its owner, and sent. -/
def Qf.issueRaw (q : Qf) (s : Sector) (owner : Owner) (p : Packet) (data : Option Packet := none) : Qf :=
  let tag := q.edge.nextTag
  let p : Packet := { p with
    srcEp := q.ownEp, tag := tag, partitionId := q.part.id, tc := 6, vc := (vcOf p.opcode).getD 0
    mapEpoch := q.part.epoch, destEp := homeEp p.addr }
  let new : OpenReq := { src := q.ownEp, tag, ing := .unit s, owner, orig := p, sent := p,
                         sentAt := q.now, data, retried := true, ackAt := q.now + q.qps.ackTimeout.toNat }
  let q := { q with edge := { q.edge with nextTag := tag + 1, reqs := q.edge.reqs ++ [new] } }
  let q := q.send (.unit s) p
  match data with
  | some d => q.send (.unit s) (dataFor p d)
  | none => q

/-- Take the next message id (R89). -/
def Qf.takeMsg (q : Qf) : BitVec 24 × Qf :=
  (q.edge.nextMsg, { q with edge := { q.edge with nextMsg := q.edge.nextMsg + 1 } })

/-! ### Extents (R43, R53, R540, R541) -/

/-- The home of a region's record (R37): that of its extent with the lowest VEN in the creating tenant's table; this home
where the table lists none (log 177). -/
def Qf.recordHome (q : Qf) (t : Tenant) (r : RegionId) : Ep :=
  let b := recBase (q.tenantRec t)
  let n := if recEnable (q.tenantRec t) then recEntries (q.tenantRec t) else 0
  let vens := ((q.sys.filter (fun c => decide (b ≤ c.1) && decide (c.1 < b + 16 * n))).map (fun c =>
    (c.1 - b) / 16)).eraseDups
  let es := vens.map (fun v => RtEntry.ofBits (bitsOf 128 (Mem.getAll q.sys (b + 16 * v) 16)))
  match es.find? (fun e => e.valid && e.region = r && e.keyTenant = t) with
  | some e => e.home
  | none => q.ownEp

/-- Whether a slot is being changed by a withdrawal, a move or a replication that still runs (R474, R540). -/
def Qf.slotBusy (q : Qf) (s : Slot) : Bool :=
  (match q.wd s with | some w => !w.stopped | none => false) || q.pool.moves.has s.toNat ||
  q.pool.replications.any (fun r => r.slot = s) || q.pool.restoring.any (fun r => r.1 = s)

/-- Assign a free slot (R40, R53, R541). -/
def Qf.assign (q : Qf) (s : Slot) (tray : Ep) (x : BitVec 13) (t : Tenant) (r : RegionId)
    (flags : BitVec 8) : Status × Qf :=
  let prot := flags.getLsbD 0
  match q.halfTo tray with
  | none => (.accessViolation, q)
  | some h =>
    let l := q.link h
    let tr := l.profile = 2 || l.profile = 4
    let taken := q.pool.extents.any (fun e => e.2.state != .free && e.2.trayEp = tray && e.2.trayExtent = x)
    if !tr || decide (l.trayCapacity ≤ x.toNat) || taken then (.accessViolation, q)
    else if prot && !(l.profile = 2 && l.trayProt) then (.accessViolation, q)
    else
      let u := q.quota t
      if u.q1.toNat < u.u1 + 1 then (.quota, q)
      else
        let e : Extent := { state := .assigned, prot, sealedX := flags.getLsbD 1,
                            versioned := flags.getLsbD 2, trayEp := tray, trayExtent := x, tenant := t,
                            region := r }
        let q := q.updExtent s (fun _ => e)
        let q := q.updQuota t (fun u => { u with u1 := u.u1 + 1 })
        let q := if e.versioned && q.recordHome t r = q.ownEp && !q.ver.recs.has r.toNat then q.updVer r (fun v => v) else q
        (.ok, q.meter 0 t 4 1)

/-- Start a withdrawal at Tw, at once where Tw is past (R43). -/
def Qf.withdrawNow (q : Qf) (s : Slot) : Qf :=
  let q := q.failFill s .withdrawn
  let q := q.updExtent s (fun e => { e with state := .withdrawing })
  let q := q.updWd s (fun w => { w with effective := true })
  q.failWaits (fun w => slotNo w.pkt.addr = s) .withdrawn

/-- Begin a withdrawal of an assigned slot. -/
def Qf.withdrawBegin (q : Qf) (s : Slot) (tw : Nat) (cmd : Option MgrRef) (prog : Option Nat)
    (removal : Bool) : Qf :=
  let q := q.updWd s (fun _ => { tw, cmd, progress := prog, removal })
  if tw ≤ q.now then q.withdrawNow s else q

/-- Start a move's copying of its next page (R60 step 1). -/
def Qf.moveNext (q : Qf) (s : Slot) : Qf :=
  match q.pool.moves.find? s.toNat with
  | none => q
  | some m =>
    let page? : Option Nat := if m.pass = 0 then (if m.pos < 65536 then some m.pos else none) else m.todo.head?
    match page? with
    | none => q
    | some pg =>
      let e := q.extent s
      let k := (q.keysOf e.tenant).current
      let (id, q) := q.takeMsg
      let p : Packet :=
        { opcode := Opc.rdBulk, tenant := e.tenant, keyTenant := e.tenant, world := true,
          keyGen := (k.map KeySlot.gen).getD 0, stream := moveStream,
          addr := ppaOf q.ownEp s (BitVec.ofNat 28 (pg * 4096)),
          msg := some { msgId := id, totalLen := 4096 } }
      q.issueRaw 0 (.moveLine s pg 0) p

/-- Take a tier-0 frame for an assigned extent (R49). -/
def Qf.placeT0 (q : Qf) (m : MgrRef) (s : Slot) : Qf :=
  let e := q.extent s
  let u := q.quota e.tenant
  let frame := (q.freeFrames 1).head?
  if e.t0Frame != 0xFFF then q.complete m 0x13 .ok none 1
  else if q.pool.short || decide (u.q0.toNat ≤ u.u0) then q.complete m 0x13 .ok none 0
  else match frame with
  | none => q.complete m 0x13 .ok none 0
  | some f =>
    match q.newProgress 8 0 4194304 with
    | none => q.complete m 0x13 .retry
    | some (pr, q) =>
      let q := q.updExtent s (fun e => { e with t0Frame := BitVec.ofNat 12 f })
      let q := { q with pool := { q.pool with frames := q.pool.frames.set f { slot := s, progress := some pr } } }
      let q := q.updQuota e.tenant (fun u => { u with u0 := u.u0 + 1 })
      let q := (q.meter 0 e.tenant 3 1).checkShort
      (q.complete m 0x13 .ok (some pr) 1).fillNext f

/-- Order the next line of a replica (R51). -/
def Qf.replicaNext (q : Qf) (s : Slot) : Qf :=
  match q.pool.replications.find? (fun r => r.slot = s) with
  | none => q
  | some r =>
    if r.pos < 4194304 then q.orderInternal { op := .replicate, line := slotLine s r.pos } else q

/-- Replicas of a tenant that are being written and count toward its tier-2 quota once they are (R51, R53). -/
def Qf.replicating (q : Qf) (t : Tenant) : Nat :=
  (q.pool.replications.filter (fun r => (q.extent r.slot).tenant = t)).length

/-- Start a replica of a sealed extent (R51). -/
def Qf.replicate (q : Qf) (m : MgrRef) (s : Slot) (lender : Ep) (x : BitVec 16) : Qf :=
  let e := q.extent s
  let u := q.quota e.tenant
  let isIt (c : CirrusReg) : Bool := c.lender = lender && c.extent = x && c.slot.isNone
  if !e.sealedX || e.cirrusValid || !q.pool.cirrus.any isIt then q.complete m 0x15 .accessViolation
  else if u.q2.toNat ≤ u.u2 + q.replicating e.tenant then q.complete m 0x15 .quota
  else
    let q := { q with pool := { q.pool with
      cirrus := updFirst isIt (fun c => { c with slot := some s }) q.pool.cirrus
      replications := q.pool.replications ++ ([{ slot := s, lender, extent := x, cmd := some m }] :
        List Replication) } }
    q.replicaNext s

/-- Start a move (R60). -/
def Qf.moveStart (q : Qf) (m : MgrRef) (s : Slot) (h : Ep) (n : Slot) : Qf :=
  match q.newProgress 2 1 65536 with
  | none => q.complete m 0x12 .retry
  | some (pr, q) =>
    let new : Move := { newHome := h, newSlot := n, cmd := some m, progress := some pr }
    ({ q with pool := { q.pool with moves := q.pool.moves.set s.toNat new } }).moveNext s

/-- The manager code of an extent command. -/
def extCode : ExtCmd → BitVec 8
  | .assign _ _ _ _ _ => 0x10
  | .withdraw _ => 0x11
  | .move _ _ => 0x12
  | .placeT0 => 0x13
  | .replicate _ _ => 0x15
  | .restore _ => 0x16

/-- EXTENT_WITHDRAW of an assigned slot: the withdrawal begins (Table POOL-6). -/
def Qf.startWithdraw (q : Qf) (m : MgrRef) (s : Slot) (tw : Nat) : Qf :=
  match q.newProgress 1 0 4194304 with
  | none => q.complete m 0x11 .retry
  | some (pr, q) => q.withdrawBegin s tw (some m) (some pr) false

/-- EXTENT_WITHDRAW of a slot whose scrub stopped: the scrub goes on from where it stopped (R542). -/
def Qf.resumeScrub (q : Qf) (m : MgrRef) (s : Slot) : Qf :=
  match q.newProgress 1 0 4194304 with
  | none => q.complete m 0x11 .retry
  | some (pr, q) =>
    let q := q.updWd s (fun w => { w with stopped := false, cmd := some m, progress := some pr })
    let pos := ((q.wd s).map Withdrawal.scrubPos).getD 0
    let q := q.updProgress (some pr) (fun p => { p with
      position := pos, percent := 10 + 90 * pos / 4194304 })
    q.scrubNext s

/-- A home extent map entry from its 128 bits (Table POOL-4). -/
def Extent.ofBits (x : BitVec 128) : Extent where
  state := match (fld x 125 3 : BitVec 3).toNat with
    | 1 => .assigned | 2 => .withdrawing | 3 => .scrubbing | 4 => .moved | _ => .free
  prot := x.getLsbD 124
  sealedX := x.getLsbD 123
  versioned := x.getLsbD 122
  trayEp := fld x 108 14
  trayExtent := fld x 95 13
  t0Frame := fld x 83 12
  cirrusEp := fld x 69 14
  cirrusExtent := fld x 53 16
  cirrusValid := x.getLsbD 52
  tenant := fld x 40 12
  region := fld x 20 20
  newHome := fld x 6 14

/-- A slot's entry is rewritten from a restore image (Table FAULT-3; log 23). -/
def Qf.restoreEntry (q : Qf) (m : MgrRef) (s : Slot) (entry : BitVec 128) : Qf :=
  let old := q.extent s
  let e := Extent.ofBits entry
  let q := q.updExtent s (fun _ => { e with t0Frame := old.t0Frame })
  let recs := if q.ver.recs.has e.region.toNat then q.ver.recs.upd e.region.toNat {} (fun v => { v with lost := false }) else q.ver.recs
  ({ q with ver := { q.ver with recs := recs } }).complete m 0x16 .ok

/-- Run an extent command on a slot that nothing is changing, as Table POOL-16 states; a lost entry cannot be read, so that
only a restore acts on it (Table FAULT-3). -/
def Qf.runExt (q : Qf) (m : MgrRef) (s : Slot) (c : ExtCmd) : Qf :=
  let code := extCode c
  match c with
  | .restore entry => q.restoreEntry m s entry
  | _ =>
  if (q.extent s).lost then q.complete m code .uncorrectable
  else match (q.extent s).state with
  | .assigned =>
    (match c with
     | .restore _ => q
     | .assign _ _ _ _ _ => q.complete m code .accessViolation
     | .withdraw tw => q.startWithdraw m s tw.toNat
     | .move h n => q.moveStart m s (fld h 0 14) (fld n 0 18)
     | .placeT0 => q.placeT0 m s
     | .replicate l x => q.replicate m s (fld l 0 14) x)
  | .moved =>
    (match c with
     | .assign _ _ _ _ _ => q.complete m code .accessViolation
     | _ => q.complete m code .epochStale)
  | .free =>
    (match c with
     | .assign tray x t r f =>
       let a := q.assign s (fld tray 0 14) (fld x 0 13) (fld t 0 12) (fld r 0 20) f
       a.2.complete m code a.1
     | _ => q.complete m code .withdrawn)
  | .scrubbing =>
    (match c with
     | .withdraw _ => q.resumeScrub m s
     | _ => q.complete m code .withdrawn)
  | .withdrawing => q.complete m code .withdrawn

/-- Decide the commands that waited for a slot, in order, while nothing changes it (R540). -/
def Qf.wake (q : Qf) (s : Slot) : Qf :=
  (q.pool.waiting.filter (fun x => x.1 = s)).foldl (fun q x =>
    if q.slotBusy s then q
    else ({ q.markStart x.2.1 true with pool := { q.pool with
      waiting := dropFirst (fun y => y.1 = s) q.pool.waiting } }).runExt x.2.1 s x.2.2) q

/-! ### Turns -/

/-- Go on with the withdrawals whose recall is complete (R117). -/
def Qf.drainChecks (q : Qf) : Qf :=
  q.pool.withdrawals.foldl (fun q x =>
    let s : Slot := BitVec.ofNat 18 x.1
    if x.2.recalling && q.recalled s && q.slotInFlight s = 0 then q.scrubStart s else q) q

/-- A tenant's sweep goes on once its line is done (R388): the next line of its slots that are still assigned is read and,
where its GEN_TAG names PREVIOUS, rewritten. -/
def Qf.sweepTurn (q : Qf) (t : Tenant) : Qf :=
  let k := q.keysOf t
  let busy (n : LineNo) : Bool := (q.lineQ n).any (fun b =>
    b.txn.any (fun x => x.req.op = .sweep) || b.waiters.any (fun r => r.op = .sweep))
  if !k.sweepRunning || k.sweepAt.any busy then q
  else
    let pos := if k.sweepAt.isSome then k.sweepPos + 1 else k.sweepPos
    let gone (s : Slot) : Bool := (q.extent s).tenant != t || (q.extent s).state = .free
    let pos := match k.sweepSlots[pos / 4194304]? with
      | some s => if gone s then (pos / 4194304 + 1) * 4194304 else pos
      | none => pos
    let q := q.updProgress k.progress (fun p => { p with position := pos, percent := if p.total = 0 then 0 else pos * 100 / p.total })
    match k.sweepSlots[pos / 4194304]? with
    | some s =>
      let n := slotLine s (pos % 4194304)
      (q.updKeys t (fun k => { k with sweepPos := pos, sweepAt := some n })).orderInternal { op := .sweep, line := n }
    | none => q.updKeys t (fun k => { k with sweepPos := k.sweepTotal, sweepAt := none })

/-- Decide the extent commands whose slots nothing changes any more (R540). -/
def Qf.wakeAll (q : Qf) : Qf := ((q.pool.waiting.map (fun x => x.1)).eraseDups).foldl (fun q s => q.wake s) q

/-- Start everything that can start. -/
def Qf.settle (q : Qf) : Qf :=
  let q := q.settleLines
  let ks := q.sec.keys.filter (fun x => x.2.sweepRunning && x.2.sweepPos < x.2.sweepTotal)
  let q := if ks.isEmpty then q else (ks.foldl (fun q x => q.sweepTurn (BitVec.ofNat 12 x.1)) q).settleLines
  let q := if q.pool.withdrawals.any (fun x => x.2.recalling) then q.drainChecks else q
  if q.pool.waiting = [] || !q.mgrLive then q else q.wakeAll.settleLines

/-- An extent command waits, not yet started, while its slot is being changed (R474, R540, Table MGMT-10). -/
def Qf.extCmd (q : Qf) (m : MgrRef) (s : Slot) (c : ExtCmd) : Qf :=
  if q.slotBusy s || q.pool.waiting.any (fun x => x.1 = s) then
    { q.markStart m false with pool := { q.pool with waiting := q.pool.waiting ++ [(s, m, c)] } }
  else (q.runExt m s c).settle

end Sys2Proof.Machine
end

