-- ==== Sys2Proof/Machine/Edge.lean ====
section
/-! DEFINITION. Machine/Edge.lean: the source edge: translation and rights (R31 to R36, R539), stamps, streams and
Pennants (R70, R79 to R83), hazards (R347, R348), policing (R367, R368), retry at a stale epoch (R61, R75) and
the resolution of requests. -/

namespace Sys2Proof.Machine

/-! ### Translation (R33 to R36) -/

/-- Whether a cached entry is the one of a sector, tenant and extent number. -/
def RtCache.is (c : RtCache) (s : Sector) (t : Tenant) (ven : BitVec 28) : Bool :=
  c.sector = s && c.tenant = t && c.ven = ven

/-- A region-table entry, from the sector's cache or by one tier-0 read (R36). -/
def Qf.regionEntry (q : Qf) (s : Sector) (t : Tenant) (ven : BitVec 28) : BitVec 128 × Qf :=
  match q.edge.cache.find? (fun c => c.is s t ven) with
  | some c => (c.entry, q)
  | none =>
    let a := recBase (q.tenantRec t) + 16 * ven.toNat
    let e : BitVec 128 := bitsOf 128 (Mem.getAll q.sys a 16)
    (e, { q with edge := { q.edge with
      cache := q.edge.cache ++ [{ sector := s, tenant := t, ven, entry := e }] } })

/-- Whether a region-table entry lies beyond correction and no copy of it is cached (Table FAULT-3). -/
def Qf.entryWorn (q : Qf) (s : Sector) (t : Tenant) (ven : BitVec 28) : Bool :=
  q.edge.worn.contains (recBase (q.tenantRec t) + 16 * ven.toNat) && !q.edge.cache.any (fun c => c.is s t ven)

/-- The check and translation of one address (R35): the entry and the PPA, or the status. -/
def Qf.translate (q : Qf) (s : Sector) (t : Tenant) (world : Bool) (need : Rights) (a : BitVec 60) :
    Except Status (RtEntry × BitVec 60) × Qf :=
  let r := q.tenantRec t
  if !recEnable r then (.error .accessViolation, q)
  else if recEntries r ≤ a.toNat / 2 ^ 28 then (.error .accessViolation, q)
  else if q.entryWorn s t (fld a 28 28) then (.error .uncorrectable, q)
  else
    let x := q.regionEntry s t (fld a 28 28)
    let e := RtEntry.ofBits x.1
    let q := x.2
    if !e.valid then (.error .accessViolation, q)
    else if e.rsvd != 0 then (.error .unsupportedVersion, q)
    else if need.read && !e.read then (.error .accessViolation, q)
    else if need.write && !e.write then (.error .accessViolation, q)
    else if need.atomic && !e.atomic then (.error .accessViolation, q)
    else if e.world && !world then (.error .accessViolation, q)
    else (.ok (e, ppaOf e.home e.slot (fld a 0 28)), q)

/-- Drop cached entries of a tenant's extent number in every sector, so that it is read again (R61). -/
def Qf.forgetEntry (q : Qf) (t : Tenant) (ven : BitVec 28) : Qf :=
  { q with edge := { q.edge with
    cache := q.edge.cache.filter (fun c => !(c.tenant = t && c.ven = ven)) } }

/-! ### Streams (R70, R81 to R83) -/

/-- Whether a stream record is that of a source and stream. -/
def StreamRec.is (r : StreamRec) (src : Ep) (st : Stream) : Bool := r.src = src && r.stream = st

/-- A tracked stream. -/
def Qf.stream (q : Qf) (src : Ep) (st : Stream) : StreamRec :=
  (q.edge.streams.find? (fun r => r.is src st)).getD { src, stream := st }

/-- Change a stream, tracking it from now on. -/
def Qf.updStream (q : Qf) (i : Ingress) (src : Ep) (st : Stream) (f : StreamRec → StreamRec) : Qf :=
  if q.edge.streams.any (fun r => r.is src st) then
    { q with edge := { q.edge with streams := updFirst (fun r => r.is src st) f q.edge.streams } }
  else { q with edge := { q.edge with streams := q.edge.streams ++ [f { src, stream := st, ing := i }] } }

/-- The fabric port of an ingress; none for this QF960's own units. -/
def portOf (i : Ingress) : Option Nat := match i with | .half h => some (h.toNat / 2) | _ => none

/-- Streams of the fabric port of an ingress, both its halves, with writes awaiting PLACED (R83). -/
def Qf.openStreams (q : Qf) (i : Ingress) : Nat :=
  (q.edge.streams.filter (fun r => portOf r.ing = portOf i && decide (0 < r.writes))).length

/-- A stream's first failure is recorded (R82). -/
def Qf.recordFail (q : Qf) (i : Ingress) (src : Ep) (st : Stream) (code : BitVec 8) : Qf :=
  q.updStream i src st (fun r => { r with fail := if r.fail = 0 then code else r.fail })

/-- Requests counted in their stream: writes and atomics (R81). -/
def countsInStream (o : BitVec 8) : Bool := isWrite o || o = Opc.atomic

/-! ### Hazards (R347, R348) -/

/-- The lines of its page that a request touches. -/
def touches (p : Packet) (len : Nat) : BitVec 64 :=
  let first := (fld p.addr 6 6 : BitVec 6).toNat
  let n := max 1 (ceilDiv ((fld p.addr 0 6 : BitVec 6).toNat + len) 64)
  maskOf first (min n (64 - first))

/-- Bytes that a request covers from its address. -/
def reqLen (p : Packet) (data : Option Packet) : Nat :=
  match data with
  | some d => if p.opcode = Opc.wrBulk then d.payload.length else 1
  | none => if p.opcode = Opc.rdBulk then
      (match p.msg with | some m => m.totalLen.toNat | none => 4096 - (fld p.addr 0 12 : BitVec 12).toNat)
    else 1

/-- Requests that name a line and are tracked in the hazard table. -/
def inHazard (o : BitVec 8) : Bool :=
  o = Opc.rdNc || o = Opc.rdShared || o = Opc.rdOwn || o = Opc.upgrade || isWrite o ||
  o = Opc.rdBulk || o = Opc.atomic || o = Opc.wbDirty || o = Opc.evictClean

/-- Whether an open request of the same stream touches a line of the packet (R347). -/
def conflicts (src : Ep) (p : Packet) (m : BitVec 64) (r : OpenReq) : Bool :=
  r.src = src && r.sent.stream = p.stream && inHazard r.sent.opcode &&
  fld r.sent.addr 12 48 = (fld p.addr 12 48 : BitVec 48) &&
  (touches r.sent (reqLen r.orig r.data) &&& m) != 0

/-- Whether a request is held by the path rule, by a held one of its stream before it, or by a retried stale write
to its extent (R347, R75). -/
def Qf.isHeld (q : Qf) (h : HeldReq) : Bool :=
  let p := h.sent
  let m := touches p (reqLen h.orig h.data)
  let never := p.opcode = Opc.wbDirty || p.opcode = Opc.evictClean || !inHazard p.opcode
  let relaxed := p.relaxed && p.opcode = Opc.rdNc
  if never || relaxed then false
  else
    q.edge.reqs.any (conflicts h.orig.srcEp p m) ||
    q.edge.heldByHazard.any (fun x => x.orig.srcEp = h.orig.srcEp && x.sent.stream = p.stream &&
      fld x.sent.addr 12 48 = (fld p.addr 12 48 : BitVec 48) &&
      (touches x.sent (reqLen x.orig x.data) &&& m) != 0) ||
    (isWrite p.opcode && q.edge.reqs.any (fun r => (r.retried || r.stale) && isWrite r.sent.opcode &&
      r.src = h.orig.srcEp && r.sent.stream = p.stream &&
      fld r.orig.addr 28 32 = (fld h.orig.addr 28 32 : BitVec 32)))

/-- The sector whose slice does an ingress's edge work (R17). -/
def edgeSector (i : Ingress) : Sector := ingressSector i

/-- Add a request to the hazard table's entry of its stream and page (R347). -/
def Qf.addHazard (q : Qf) (i : Ingress) (src : Ep) (p : Packet) (len : Nat) : Qf :=
  if !inHazard p.opcode then q
  else
    let isIt (h : Hazard) : Bool := h.src = src && h.stream = p.stream &&
      h.home = homeEp p.addr && h.page = linePage (lineNo p.addr)
    let m := touches p len
    let new : Hazard := { sector := edgeSector i, src, stream := p.stream, home := homeEp p.addr,
                          page := linePage (lineNo p.addr), mask := m, unresolved := 1 }
    let hs := if q.edge.hazards.any isIt then
        updFirst isIt (fun h => { h with mask := h.mask ||| m, unresolved := h.unresolved + 1 }) q.edge.hazards
      else q.edge.hazards ++ [new]
    { q with edge := { q.edge with hazards := hs } }

/-- Take a resolved request out of its hazard entry, which goes with its last request. -/
def Qf.dropHazard (q : Qf) (src : Ep) (p : Packet) : Qf :=
  if !inHazard p.opcode then q
  else
    let isIt (h : Hazard) : Bool := h.src = src && h.stream = p.stream &&
      h.home = homeEp p.addr && h.page = linePage (lineNo p.addr)
    let rest := q.edge.reqs.foldl (fun (a : BitVec 64) r =>
      if r.src = src && r.sent.stream = p.stream && inHazard r.sent.opcode &&
          fld r.sent.addr 12 48 = (fld p.addr 12 48 : BitVec 48) then
        a ||| touches r.sent (reqLen r.orig r.data) else a) 0
    let hs := (updFirst isIt (fun h => { h with unresolved := h.unresolved - 1, mask := rest })
      q.edge.hazards).filter (fun h => h.unresolved != 0)
    { q with edge := { q.edge with hazards := hs } }

/-- Whether the sector's hazard table has no room for a new entry (R348). -/
def Qf.hazardFull (q : Qf) (i : Ingress) (src : Ep) (p : Packet) : Bool :=
  inHazard p.opcode && !q.edge.hazards.any (fun h => h.src = src && h.stream = p.stream &&
    h.home = homeEp p.addr && h.page = linePage (lineNo p.addr)) &&
  decide (65536 ≤ (q.edge.hazards.filter (fun h => h.sector = edgeSector i)).length)

/-! ### Checking and stamping -/

/-- Whether an atomic's operand lies aligned, and its width is listed (R94, R95).  One that is neither answers for its width
(DESIGN CHOICE, log 171). -/
def atomicCheck (p : Packet) : Option Status :=
  let n := widthBytes p.atomicWidth
  if !atomicWidthOk p.atomicOp n then some .unsupportedVersion
  else if (fld p.addr 0 6 : BitVec 6).toNat % n != 0 then some .accessViolation
  else none

/-- Whether a Pennant record's flag is aligned and its operation defined (R6, R79, R80).  One that is neither answers for its
operation (DESIGN CHOICE, log 171). -/
def pennantCheck (r : PennantRec) : Option Status :=
  if 4 ≤ r.flagOp.toNat || r.rsvd != 0 || fld r.flagAddr 56 8 != (0 : BitVec 8) then
    some .unsupportedVersion
  else if (fld r.flagAddr 0 6 : BitVec 6).toNat % (if r.flagWidth then 4 else 8) != 0 then
    some .accessViolation
  else none

/-- Whether a wait record is defined and its word aligned (R6, R86).  The status of a misaligned word is the model's choice
(DESIGN CHOICE, log 172). -/
def waitCheck (r : WaitRec) : Option Status :=
  if 3 ≤ r.cond.toNat || r.rsvd != 0 then some .unsupportedVersion
  else if (fld r.addr 0 6 : BitVec 6).toNat % (if r.width then 4 else 8) != 0 then
    some .accessViolation
  else none

/-- Whether a transfer of a request leaves its page (R32).  The status of one that does is the model's choice (DESIGN CHOICE,
log 170). -/
def spanCheck (p : Packet) (data : Option Packet) : Option Status :=
  if p.opcode = Opc.wrBulk || p.opcode = Opc.rdBulk then
    (if 4096 < (fld p.addr 0 12 : BitVec 12).toNat + reqLen p data then some .unsupportedVersion else none)
  else none

/-- Checks on a request's own form. -/
def formCheck (p : Packet) (data : Option Packet) : Option Status :=
  if p.opcode = Opc.atomic then atomicCheck p
  else if p.opcode = Opc.waitRegister then waitCheck (WaitRec.ofBits (bitsOf 256 p.payload))
  else match p.pennant with
    | some r => (pennantCheck r).or (spanCheck p data)
    | none => spanCheck p data

/-- Fill a Pennant record with its flag's PPA and key stamps (R80). -/
def Qf.stampFlag (q : Qf) (s : Sector) (p : Packet) : Except Status Packet × Qf :=
  match p.pennant with
  | none => (.ok p, q)
  | some r =>
    let x := q.translate s p.tenant p.world (flagRights r.flagOp) (fld r.flagAddr 0 60)
    match x.1 with
    | .error st => (.error st, x.2)
    | .ok (e, a) =>
      let r' : PennantRec := { r with
        flagAddr := a.zeroExtend 64, keyTenant := e.keyTenant, keyGen := e.keyGen, view := e.view
        stream := p.stream }
      (.ok { p with pennant := some r' }, x.2)

/-- Translate an arrival counter, homed where the data is homed (R85).  The status of a misaligned counter is the model's
choice (DESIGN CHOICE, log 172). -/
def Qf.stampCounter (q : Qf) (s : Sector) (p : Packet) : Except Status Packet × Qf :=
  match p.aux with
  | none => (.ok p, q)
  | some a =>
    if a.counterAddr = 0 || !isWrite p.opcode then (.ok p, q)
    else
      let x := q.translate s p.tenant p.world counterRights a.counterAddr
      match x.1 with
      | .error st => (.error st, x.2)
      | .ok (_, c) =>
        if homeEp c != homeEp p.addr || fld c 0 3 != (0 : BitVec 3) then (.error .accessViolation, x.2)
        else (.ok { p with aux := some { a with counterAddr := c } }, x.2)

/-- The whole edge check and stamp of a request (R35, R80, R85, R301, R393).  The spec gives no order between a request's own
form and its tenant record and region entry: the form is checked first (DESIGN CHOICE, log 171). -/
def Qf.edgeCheck (q : Qf) (i : Ingress) (p : Packet) (data : Option Packet) : Except Status Packet × Qf :=
  let s := edgeSector i
  match formCheck p data with
  | some st => (.error st, q)
  | none =>
    let x : Except Status Packet × Qf :=
      if p.opcode = Opc.pennant then
        let y := q.stampFlag s p
        (match y.1 with
         | .error st => (.error st, y.2)
         | .ok p =>
           (match p.pennant with
            | some r =>
              let p' : Packet := { p with
                destEp := fld r.flagAddr 46 14, addr := fld r.flagAddr 0 60, keyTenant := r.keyTenant
                keyGen := r.keyGen, view := r.view, mapEpoch := q.part.epoch }
              (.ok p', y.2)
            | none => (.error .unsupportedVersion, y.2)))
      else
        let y := q.translate s p.tenant p.world (rightsFor p.opcode) p.addr
        (match y.1 with
         | .error st => (.error st, y.2)
         | .ok (e, a) =>
           let p : Packet := { p with destEp := e.home, addr := a, mapEpoch := q.part.epoch, keyTenant := e.keyTenant,
                                      keyGen := e.keyGen, view := e.view }
           let z := y.2.stampCounter s p
           (match z.1 with
            | .error st => (.error st, z.2)
            | .ok p => z.2.stampFlag s p))
    match x.1 with
    | .error st => (.error st, x.2)
    | .ok p' =>
      let wr := isWrite p.opcode || p.opcode = Opc.atomic || p.opcode = Opc.pennant ||
        p.opcode = Opc.wbDirty || p.opcode = Opc.rdOwn || p.opcode = Opc.upgrade
      if q.protectedTenant p.tenant && wr && p'.keyTenant != p.tenant then (.error .accessViolation, x.2)
      else (.ok p', x.2)

/-! ### Combining in a switch (R120 to R122) -/

/-- The sector whose switch slice handles an ingress. -/
def switchSector (i : Ingress) : Sector := ingressSector i

/-- Whether two reads may be combined (R120). -/
def sameRead (a b : Packet) : Bool :=
  a.addr = b.addr && a.tenant = b.tenant && a.keyGen = b.keyGen && a.mapEpoch = b.mapEpoch && a.view = b.view

/-- Whether two atomics may be combined (R121). -/
def sameAtomic (a b : Packet) : Bool :=
  a.addr = b.addr && a.atomicWidth = b.atomicWidth && a.atomicOp = b.atomicOp && a.tenant = b.tenant &&
  a.keyGen = b.keyGen && a.mapEpoch = b.mapEpoch

/-- Whether an entry's request is that of a source and tag. -/
def Combine.is (c : Combine) (src : Ep) (tag : Tag) : Bool := c.first.srcEp = src && c.first.tag = tag

/-- A request leaves this QF960 for another home: whether it is to be forwarded, or else has joined the group of one that is
outstanding (R120, R121).  A packet of a queue pair's PSN is never combined, since its home must see its PSN (log 176). -/
def Qf.combine (q : Qf) (i : Ingress) (p : Packet) : Bool × Qf :=
  let s := switchSector i
  let mine := fun (c : Combine) => c.sector = s
  let room := decide ((q.home.combines.filter mine).length < 1024)
  let put (cs : List Combine) : Qf := { q with home := { q.home with combines := cs } }
  if !q.home.combineEnable || p.destEp = q.ownEp || p.qp.isSome || (q.route p).isNone ||
      q.home.combines.any (fun c => c.is p.srcEp p.tag) then (true, q)
  else if p.opcode = Opc.rdNc && p.relaxed then
    let isIt := fun (c : Combine) => mine c && !c.atomic && sameRead c.first p
    if q.home.combines.any isIt then
      (false, put (updFirst isIt (fun c => { c with members := c.members ++ [p] }) q.home.combines))
    else if room then
      (true, put (q.home.combines ++ ([{ sector := s, first := p, members := [p] }] : List Combine)))
    else (true, q)
  else if p.opcode = Opc.atomic && atomicCombines p.atomicOp then
    let isIt := fun (c : Combine) => mine c && c.atomic && sameAtomic c.first p
    match q.home.combines.find? isIt with
    | some c =>
      if 64 ≤ c.pending.length then (true, q)
      else (false, put (updFirst isIt (fun c => { c with pending := c.pending ++ [p] }) q.home.combines))
    | none =>
      if room then
        (true, put (q.home.combines ++ ([{ sector := s, first := p, members := [p], atomic := true }] : List Combine)))
      else (true, q)
  else (true, q)

/-! ### Sending requests -/

/-- What a policer charges for a request (R367). -/
def chargeOf (h : HeldReq) : Nat :=
  h.sent.length + (if h.sent.opcode = Opc.wrBulk then
    (match h.data with | some d => (dataFor h.sent d).length | none => 0) else 0)

/-- Answer a Pennant that is not applied, to its source. -/
def Qf.pennantFail (q : Qf) (i : Ingress) (p : Packet) (st : BitVec 8) : Qf :=
  let a := q.reply p Opc.pennantDone st
  match i with
  | .half h => q.sendOn (unitOf (halfSector h)) h a
  | _ => q.offer i [i] false a

/-- When ACK_TIMEOUT of a packet sent now has passed (R141, R153). -/
def Qf.ackTime (q : Qf) : Nat := q.now + q.qps.ackTimeout.toNat

/-- A request is open at the edge from now on. -/
def Qf.openReq (q : Qf) (h : HeldReq) : Qf :=
  let src := h.orig.srcEp
  let new : OpenReq := { src, tag := h.sent.tag, ing := h.ing, owner := h.owner, orig := h.orig, sent := h.sent,
                         sentAt := q.now, counted := countsInStream h.sent.opcode, data := h.data, ackAt := q.ackTime }
  { q with edge := { q.edge with
    reqs := q.edge.reqs ++ [new]
    expired := q.edge.expired.filter (fun x => !(x.1 = src && x.2 = h.sent.tag)) } }

/-- A request with the RELAXED mark it may carry: a read of a stream with writes or atomics unresolved is not RELAXED (R74,
R120). -/
def Qf.unrelaxed (q : Qf) (h : HeldReq) : HeldReq :=
  let r := q.stream h.orig.srcEp h.sent.stream
  { h with sent := { h.sent with relaxed := h.sent.relaxed && decide (r.issued ≤ r.placed) } }

/-- Send a request from the edge through this QF960's switch, which may combine it with others (R120, R121). -/
def Qf.sendReq (q : Qf) (u : Ingress) (p : Packet) : Qf :=
  let x := q.combine u p
  if x.1 then x.2.send u p else x.2

/-- A request leaves the edge: open, in the hazard table, counted in its stream, metered, charged and sent,
its payload after it. -/
def Qf.emitReq (q : Qf) (h : HeldReq) : Qf :=
  let p := h.sent
  let s := edgeSector h.ing
  let q := (q.openReq h).addHazard h.ing h.orig.srcEp p (reqLen h.orig h.data)
  let q := q.meter s p.tenant 9 1
  let q := q.tenantCount p.tenant 2 1
  let q := q.tenantCount p.tenant 1 (if isWrite p.opcode then
    (match h.data with | some d => d.payload.length | none => 0) else 0)
  let q := q.policeCharge p.tenant (chargeOf h)
  let q := q.sendReq (unitOf s) p
  match h.data with
  | some d => q.send (unitOf s) (dataFor p d)
  | none => q

/-- A checked request that nothing holds leaves the edge.  A Pennant of a stream with a failure is not applied: it is
answered with the first failure's status (R82); a queue pair's bears a PSN by then, and its engine has looked at the stream. -/
def Qf.launch (q : Qf) (h0 : HeldReq) : Qf :=
  let h := q.unrelaxed h0
  let bad := (q.stream h.orig.srcEp h.sent.stream).fail
  if h.sent.opcode = Opc.pennant && h.sent.qp.isNone && bad != 0 then
    (match h.ing with | .half _ => q | _ => q.openReq h).pennantFail h.ing h.sent bad
  else q.emitReq h

/-- A request that no hazard holds is launched, or, from an engine, held by the policer (R368). -/
def Qf.passPolicer (q : Qf) (h : HeldReq) : Qf :=
  if h.owner != .accel && !neverHeld h.sent.opcode &&
      (!q.policeOpen h.sent.tenant || q.sched.held.any (fun x => x.sent.tenant = h.sent.tenant)) then
    ({ q with sched := { q.sched with held := q.sched.held ++ [h] } }).markHeld h.sent.tenant
  else q.launch h

/-- A Pennant of stream scope arrives at its source edge, checked and stamped: it is held until the writes and atomics that
its stream issued before it are resolved (R81). -/
def Qf.holdPennant (q : Qf) (h : HeldReq) : Qf :=
  let src := h.orig.srcEp
  let r := q.stream src h.sent.stream
  if r.placed < r.issued then
    q.updStream h.ing src h.sent.stream (fun r => { r with held := r.held ++ [{ need := r.issued, req := h }] })
  else q.passPolicer h

/-- A checked request: a Pennant waits for its stream (R81); any other is counted in its stream, and is held by the path rule
(R347, R348) or goes on. -/
def Qf.submit (q : Qf) (h0 : HeldReq) : Qf :=
  let h := q.unrelaxed h0
  if h.sent.opcode = Opc.pennant then q.holdPennant h
  else
    let q := if countsInStream h.sent.opcode then
        q.updStream h.ing h.orig.srcEp h.sent.stream (fun r => { r with
          issued := r.issued + 1, writes := r.writes + b2n (isWrite h.sent.opcode) }) else q
    if q.isHeld h || q.hazardFull h.ing h.orig.srcEp h.sent then
      { q with edge := { q.edge with heldByHazard := q.edge.heldByHazard ++ [h] } }
    else q.passPolicer h

/-- Let the held requests go that nothing holds any more, in issue order (R347). -/
def Qf.releaseHeld : Nat → List HeldReq → Qf → Qf
  | 0, _, q => q
  | _ + 1, [], q => q
  | k + 1, h :: hs, q =>
    let q' := { q with edge := { q.edge with heldByHazard := dropFirst (· = h) q.edge.heldByHazard } }
    let before := { q' with edge := { q'.edge with
      heldByHazard := q'.edge.heldByHazard.takeWhile (fun x => !(hs.contains x)) } }
    if before.isHeld h || q'.hazardFull h.ing h.orig.srcEp h.sent then Qf.releaseHeld k hs q
    else Qf.releaseHeld k hs (q'.passPolicer h)

/-- Release what the hazards no longer hold. -/
def Qf.unhold (q : Qf) : Qf := q.releaseHeld q.edge.heldByHazard.length q.edge.heldByHazard

/-- Whether the failure of an owner's write counts against its stream (R82): a collective's member fails its own flag only
(R180). -/
def Owner.failsStream : Owner → Bool
  | .colWrite _ _ => false
  | _ => true

/-- A request of this QF960's own engine: checked, stamped and submitted; the status where it is refused, which a write or
an atomic leaves as its stream's first failure (R82).  Its TAG is the next of the edge's tags. -/
def Qf.issue (q : Qf) (s : Sector) (owner : Owner) (p : Packet) (data : Option Packet := none) :
    Option Status × Qf :=
  let tag := q.edge.nextTag
  let q := { q with edge := { q.edge with nextTag := tag + 1 } }
  let pol := q.policer p.tenant
  let tc := if owner = .counterPage p.tenant then 6 else BitVec.ofNat 3 (min pol.engineTc.toNat pol.maxTc.toNat)
  let p := { p with srcEp := q.ownEp, tag, partitionId := q.part.id, tc, vc := (vcOf p.opcode).getD 0 }
  let x := q.edgeCheck (.unit s) p data
  match x.1 with
  | .error st =>
    (some st, if countsInStream p.opcode && owner.failsStream then
      x.2.recordFail (.unit s) p.srcEp p.stream st.code else x.2)
  | .ok p' => (none, x.2.submit { ing := .unit s, owner, orig := p, sent := p', data })

/-! ### Resolution -/

/-- Release the Pennants of a stream that wait for no more writes (R81); forget a stream that has nothing left. -/
def Qf.releasePennants (q : Qf) (src : Ep) (st : Stream) : Qf :=
  let r := q.stream src st
  let go := r.held.filter (fun h => h.need ≤ r.placed)
  let q := if go = [] then q else
    q.updStream r.ing src st (fun r => { r with held := r.held.filter (fun h => !(h.need ≤ r.placed)) })
  let q := go.foldl (fun q h => q.passPolicer h.req) q
  let r := q.stream src st
  if r.issued = r.placed && r.fail = 0 && r.held = [] then
    { q with edge := { q.edge with streams := q.edge.streams.filter (fun x => !x.is src st) } }
  else q

/-- Requests that have not left the edge are taken back, and count as resolved in their streams (R81). -/
def Qf.dropHeld (q : Qf) (mine : HeldReq → Bool) : Qf :=
  let gone := (q.edge.heldByHazard ++ q.sched.held).filter mine
  let q := { q with
    edge := { q.edge with heldByHazard := q.edge.heldByHazard.filter (fun h => !mine h) }
    sched := { q.sched with held := q.sched.held.filter (fun h => !mine h) } }
  gone.foldl (fun q h =>
    if countsInStream h.sent.opcode then
      (q.updStream h.ing h.orig.srcEp h.sent.stream (fun r => { r with
        placed := r.placed + 1, writes := r.writes - b2n (isWrite h.sent.opcode) })).releasePennants h.orig.srcEp h.sent.stream
    else q) q

/-- The open request that a response answers. -/
def Qf.openFor (q : Qf) (p : Packet) : Option OpenReq :=
  q.edge.reqs.find? (fun r => r.src = p.destEp && r.tag = p.tag)

/-- Whether an open request is a given one. -/
def OpenReq.is (x r : OpenReq) : Bool := x.src = r.src && x.tag = r.tag

/-- An open request is no longer open, and holds no hazard (R347). -/
def Qf.closeReq (q : Qf) (r : OpenReq) : Qf :=
  ({ q with edge := { q.edge with reqs := dropFirst (fun x => x.is r) q.edge.reqs } }).dropHazard r.src r.sent

/-- An open request is resolved with a status, 0 where it succeeded: it counts in its stream, and lets go what waited for it
(R81, R82, R347). -/
def Qf.resolved (q : Qf) (r : OpenReq) (st : BitVec 8) : Qf :=
  let q := q.closeReq r
  let bad := if r.owner.failsStream then st else 0
  let q := if r.counted then
      (q.updStream r.ing r.src r.sent.stream (fun x =>
        { x with placed := x.placed + 1, writes := x.writes - b2n (isWrite r.sent.opcode)
                 fail := if x.fail = 0 then bad else x.fail })).releasePennants
          r.src r.sent.stream
    else q
  q.unhold

/-! ### Stale requests (R61, R75) -/

/-- An open request has met EPOCH_STALE for the first time: its entry is read again, and it is to be sent again. -/
def Qf.markStale (q : Qf) (r : OpenReq) : Qf :=
  let q := q.forgetEntry r.orig.tenant (fld r.orig.addr 28 28)
  { q with edge := { q.edge with reqs := updFirst (fun x => x.is r) (fun x => { x with stale := true }) q.edge.reqs } }

/-- The first stale request whose turn has come, of those not passed over: every request that its stream issued before it is
resolved or has been sent again (R75). -/
def Qf.staleTurn (q : Qf) (skip : List OpenReq) : Option OpenReq :=
  q.edge.reqs.find? (fun r => r.stale && !skip.any (fun x => x.is r) &&
    (q.edge.reqs.takeWhile (fun x => !x.is r)).all (fun x =>
      x.retried || !inHazard x.sent.opcode || !(x.src = r.src && x.sent.stream = r.sent.stream)))

/-- Send a stale request again as its entry stands now, in its place among its stream's (R61, R75). -/
def Qf.resendAs (q : Qf) (r : OpenReq) (p0 : Packet) : Qf :=
  let p := (q.unrelaxed { ing := r.ing, owner := r.owner, orig := r.orig, sent := p0 }).sent
  let q := { q with edge := { q.edge with reqs := updFirst (fun y => y.is r) (fun y =>
    { y with sent := p, retried := true, stale := false, sentAt := q.now, ackAt := q.ackTime }) q.edge.reqs } }
  let q := (q.dropHazard r.src r.sent).addHazard r.ing r.src p (reqLen r.orig r.data)
  let u := unitOf (edgeSector r.ing)
  let q := q.sendReq u p
  match r.data with | some d => q.send u (dataFor p d) | none => q

/-- Retry a stale request once (R61): none where its entry refuses it. -/
def Qf.retryStale (q : Qf) (r : OpenReq) : Except Status Qf :=
  let x := q.edgeCheck r.ing r.orig r.data
  match x.1 with
  | .error st => .error st
  | .ok p => .ok (x.2.resendAs r p)

end Sys2Proof.Machine
end

