-- ==== Sys2Proof/Machine/EngineIo.lean ====
section
/-! DEFINITION. Machine/EngineIo.lean: how the engines read and write pool memory: page pieces (R32), reads, writes
with an arrival counter (R84) and flags (R81), all checked at the edge (R35). -/

namespace Sys2Proof.Machine

/-- Whose memory an engine reads or writes: the sector that issues, and the tenant, world and stream. -/
structure Issuer where
  sector : Sector := 0
  tenant : Tenant := 0
  world : Bool := false
  stream : Stream := 0
  relaxed : Bool := false
  acquire : Bool := false
  release : Bool := false
  deriving DecidableEq, Repr, Inhabited

/-- The status of a code; OK where the code is none. -/
def statusOf (c : BitVec 8) : Status :=
  ([Status.partialResult, .alreadyComplete, .aborted, .flushed, .retry, .accessViolation, .withdrawn, .quota,
    .versionConflict, .epochStale, .keyRetired, .uncorrectable, .timeout, .linkDown, .unsupportedVersion].find?
      (fun s => s.code = c)).getD .ok

/-- The pieces of a byte range at page bounds: offset in the range, address, length (R32). -/
def pageCuts : Nat → Nat → Nat → Nat → List (Nat × Nat × Nat)
  | 0, _, _, _ => []
  | k + 1, off, a, n =>
    if n = 0 then []
    else
      let m := min n (4096 - a % 4096)
      (off, a, m) :: pageCuts k (off + m) (a + m) (n - m)

/-- The page pieces of n bytes at an address. -/
def pagesOf (a n : Nat) : List (Nat × Nat × Nat) := pageCuts (n / 4096 + 2) 0 a n

/-- A stream of a class and number (Table ORDER-1). -/
def streamOf (cls num : Nat) : Stream := BitVec.ofNat 18 (cls * 65536 + num)

/-- Read up to a page. -/
def Qf.engRead (q : Qf) (w : Issuer) (o : Owner) (a len : Nat) : Option Status × Qf :=
  q.issue w.sector o
    { opcode := Opc.rdBulk, tenant := w.tenant, world := w.world, stream := w.stream, relaxed := w.relaxed
      addr := BitVec.ofNat 60 a, msg := some { totalLen := BitVec.ofNat 32 len } }

/-! ### Messages (R89) -/

/-- The header of each packet of a transfer: the message of its home, at its offset in that message. -/
def msgHeads (ids : List (BitVec 24 × Ep × Nat)) : List (Ep × Nat) → List (Ep × Nat) → List MsgHdr
  | _, [] => []
  | seen, (h, n) :: t =>
    let m := (ids.find? (fun x => x.2.1 = h)).getD (0, h, n)
    let off := ((seen.filter (fun x => x.1 = h)).map Prod.snd).sum
    { msgId := m.1, offset := BitVec.ofNat 32 off, totalLen := BitVec.ofNat 32 m.2.2 } :: msgHeads ids (seen ++ [(h, n)]) t

/-- One message for each home of a transfer (R89), from the home and length of each packet: the packets' headers, and each
message's id, home and length. -/
def Qf.nameHomes (q : Qf) (ps : List (Ep × Nat)) : List MsgHdr × List (BitVec 24 × Ep × Nat) × Qf :=
  let x := ((ps.map Prod.fst).eraseDups).foldl (fun (a : List (BitVec 24 × Ep × Nat) × Qf) h =>
    let (id, q) := a.2.takeMsg
    (a.1 ++ [(id, h, ((ps.filter (fun p => p.1 = h)).map Prod.snd).sum)], q)) ([], q)
  (msgHeads x.1 [] ps, x.1, x.2)

/-- The home of a pool address of a tenant; 0 where its entry gives none, whose packets the edge refuses. -/
def Qf.homeAt (q : Qf) (s : Sector) (t : Tenant) (world : Bool) (a : BitVec 60) : Ep :=
  match (q.translate s t world {} a).1 with
  | .ok (e, _) => e.home
  | .error _ => 0

/-- CANCEL a message of an engine that will not be completed (R93). -/
def Qf.dropMsg (q : Qf) (w : Issuer) (home : Ep) (id : BitVec 24) : Qf :=
  let pol := q.policer w.tenant
  q.send (.unit w.sector)
    { opcode := Opc.cancel, vc := 0, tc := BitVec.ofNat 3 (min pol.engineTc.toNat pol.maxTc.toNat), partitionId := q.part.id, destEp := home, srcEp := q.ownEp
      tenant := w.tenant, world := w.world, stream := w.stream, mapEpoch := q.part.epoch, msg := some { msgId := id } }

/-- Write up to a page, adding to an arrival counter where one is named (R84). -/
def Qf.engWrite (q : Qf) (w : Issuer) (o : Owner) (counter : Nat) (a : Nat) (bs : List Byte) (msg : MsgHdr) :
    Option Status × Qf :=
  let aux : Option AuxHdr := if counter = 0 then none
    else some { byteMask := fullMask, counterAddr := BitVec.ofNat 60 counter }
  q.issue w.sector o
    { opcode := Opc.wrBulk, tenant := w.tenant, world := w.world, stream := w.stream, acquire := w.acquire, release := w.release
      addr := BitVec.ofNat 60 a, aux := aux, msg := some msg }
    (some { opcode := Opc.dataWrite, vc := 3, payload := bs })

/-- Write a byte range in page pieces, as one message to each home (R89): the first refusal, which cancels the messages, how
many writes went out, and the block. -/
def Qf.engWriteAll (q : Qf) (w : Issuer) (o : Owner) (counter a : Nat) (bs : List Byte) :
    Option Status × Nat × Qf :=
  let cs := pagesOf a bs.length
  let (heads, ids, q) := q.nameHomes (cs.map (fun c => (q.homeAt w.sector w.tenant w.world (BitVec.ofNat 60 c.2.1), c.2.2)))
  let x := (cs.zip heads).foldl (fun (x : Option Status × Nat × Qf) c =>
    match x.1 with
    | some st => (some st, x.2)
    | none =>
      let y := x.2.2.engWrite w o counter c.1.2.1 (slice bs c.1.1 c.1.2.2) c.2
      match y.1 with
      | some st => (some st, x.2.1, y.2)
      | none => (none, x.2.1 + 1, y.2)) (none, 0, q)
  match x.1 with
  | none => x
  | some _ => if x.2.1 = 0 then x else (x.1, x.2.1, ids.foldl (fun q m => q.dropMsg w m.2.1 m.1) x.2.2)

/-- Apply a flag (R79 to R81). -/
def Qf.engFlag (q : Qf) (w : Issuer) (o : Owner) (r : PennantRec) : Option Status × Qf :=
  q.issue w.sector o
    { opcode := Opc.pennant, tenant := w.tenant, world := w.world, stream := w.stream
      addr := fld r.flagAddr 0 60, pennant := some { r with stream := w.stream } }

end Sys2Proof.Machine
end

