-- ==== Sys2Proof/Machine/Frb.lean ====
section
/-! DEFINITION. Machine/Frb.lean: fixed-rate blocks: code tables (R248 to R251), decoding (R252 to R254), the
encoder's block (R255), the built table (R256) and the encode report (R258). -/

namespace Sys2Proof.Machine

/-- Bytes of a block at a rate code (Table FRB-2); 0 for the reserved codes. -/
def frbBytes (rate : Nat) : Nat := ([64, 96, 128, 160, 192, 256][rate]?).getD 0
/-- Payload bits of a block (Table FRB-2). -/
def frbPayload (rate : Nat) : Nat := 8 * frbBytes rate - 32
/-- Zero-code limit (Table FRB-2). -/
def frbZeroLimit (rate : Nat) : Nat := frbPayload rate / 256

/-! ### Code tables -/

/-- RATE of a code table (Table FRB-3). -/
def frbRate (t : Line) : Nat := (fld t 505 3).toNat
/-- PRECISION of a code table. -/
def frbPrecision (t : Line) : Nat := (fld t 501 4).toNat
/-- The code length of a symbol. -/
def frbLen (t : Line) (s : Nat) : Nat := (fld t (304 + 4 * s) 4).toNat

/-- Whether a code table is valid (R250). -/
def frbValid (t : Line) : Bool :=
  let ls := (List.range 48).map (frbLen t)
  let used := ls.filter (· != 0)
  fld t 508 4 = (1 : BitVec 4) && decide (frbRate t ≤ 5) && frbLen t 47 = 0 && decide (2 ≤ used.length) &&
  used.foldl (fun a l => a + 2 ^ (15 - l)) 0 = 2 ^ 15 &&
  decide (1 ≤ frbLen t 15) && decide (frbLen t 15 ≤ frbZeroLimit (frbRate t))

/-- The codewords: length, symbol, code, in the order of their assignment (R251). -/
def frbCodes (t : Line) : List (Nat × Nat × Nat) :=
  ((List.range 15).foldl (fun (a : Nat × List (Nat × Nat × Nat)) i =>
    let r := (List.range 48).foldl (fun (b : Nat × List (Nat × Nat × Nat)) s =>
      if frbLen t s = i + 1 then (b.1 + 1, b.2 ++ [(i + 1, s, b.1)]) else b) a
    (r.1 * 2, r.2)) (0, [])).2

/-- A code table from its lengths (Table FRB-3). -/
def frbTable (rate precision : Nat) (lens : List Nat) : Line :=
  BitVec.ofNat 512 (packHi ([(4, 1), (3, rate), (4, precision), (5, 0)] ++
    lens.reverse.map (fun l => (4, l)) ++ [(304, 0)]))

/-- The default code lengths (Table FRB-5). -/
def frbDefault : List Nat :=
  (List.range 48).map (fun s =>
    if s = 15 then 1 else if s = 14 ∨ s = 16 then 3 else if s = 13 ∨ s = 17 then 5
    else if (10 ≤ s ∧ s ≤ 12) ∨ (18 ≤ s ∧ s ≤ 20) then 7 else if s = 47 then 0 else 8)

/-! ### Steps -/

/-- The multiplier and exponent of a step (R252). -/
def frbStep (scale step : Nat) : Nat × Int :=
  (([128, 152, 181, 215][step % 4]?).getD 128, (scale : Int) - 262 + (step / 4 : Nat))

/-- q times the step, rounded to binary32 (R253). -/
def frbValue (scale step : Nat) (q : Int) : Nat :=
  let (m, e) := frbStep scale step
  if q = 0 then 0 else f32.round (q < 0) (q.natAbs * m) e

/-- The symbol and raw bits of a quantised value (Table FRB-4): symbol, raw bits, raw width. -/
def frbSymbol (q : Int) : Option (Nat × Nat × Nat) :=
  let n := q.natAbs
  if n ≤ 15 then some ((q + 15).toNat, 0, 0)
  else
    let c := Nat.log2 (n / 16)
    if c ≤ 7 then some (31 + 2 * c + b2n (q < 0), n - 16 * 2 ^ c, c + 4) else none

/-- The quantised value of an escape symbol and its raw bits, or of a plain symbol. -/
def frbQuant (s r : Nat) : Int :=
  if s ≤ 30 then (s : Int) - 15
  else
    let n : Int := 16 * 2 ^ ((s - 31) / 2) + r
    if s % 2 = 1 then n else -n

/-- Raw bits after a symbol's codeword. -/
def frbRaw (s : Nat) : Nat := if s ≤ 30 then 0 else (s - 31) / 2 + 4

/-! ### Decoding -/

/-- The bits of a byte string, bit 0 of byte 0 first (R244). -/
def bitList (bs : List Byte) : List Bool :=
  bs.flatMap (fun b => (List.range 8).map (fun i => b.getLsbD i))

/-- The value of bits, most significant first. -/
def msbNat (bs : List Bool) : Nat := bs.foldl (fun a b => 2 * a + b2n b) 0

/-- One symbol from the bits, with what remains: codewords are tried by length. -/
def frbNext (codes : List (Nat × Nat × Nat)) (bs : List Bool) : Option (Nat × List Bool) :=
  (codes.find? (fun c => decide (c.1 ≤ bs.length) && msbNat (bs.take c.1) = c.2.2)).map
    (fun c => (c.2.1, bs.drop c.1))

/-- n values from the bits, with what remains. -/
def frbDecode (codes : List (Nat × Nat × Nat)) : Nat → List Bool → Option (List Int × List Bool)
  | 0, bs => some ([], bs)
  | n + 1, bs =>
    match frbNext codes bs with
    | none => none
    | some (s, bs) =>
      let k := frbRaw s
      if bs.length < k then none
      else match frbDecode codes n (bs.drop k) with
        | none => none
        | some (qs, rest) => some (frbQuant s (msbNat (bs.take k)) :: qs, rest)

/-- The 256 binary32 values of a block, none where it is malformed (R245, R252 to R254). -/
def frbExpand (t : Line) (block : List Byte) : Option (List Nat) :=
  let rate := frbRate t
  let h := leNat (slice block 0 4)
  let scale := nfld h 23 9
  let step := nfld h 17 6
  let used := nfld h 6 11
  let pay := bitList (slice block 4 (frbBytes rate - 4))
  if nfld h 0 6 != 0 || frbPayload rate < used || (pay.drop used).any id then none
  else if scale = 0 || scale = 0x1FF then
    if step = 0 && used = 0 then some (List.replicate 256 (if scale = 0 then 0 else f32.qnan)) else none
  else match frbDecode (frbCodes t) 256 (pay.take used) with
    | some (qs, []) => some (qs.map (frbValue scale step))
    | _ => none

/-! ### Encoding -/

/-- m * 2^e over d, rounded half to even. -/
def ratRound (m : Nat) (e : Int) (d : Nat) : Nat :=
  let n := m * 2 ^ e.toNat
  let d := d * 2 ^ (-e).toNat
  let q := n / d
  let r := n % d
  if 2 * r > d || (2 * r = d && q % 2 = 1) then q + 1 else q

/-- Whether n * 2^e passes the largest finite binary32. -/
def passesF32 (n : Nat) (e : Int) : Bool :=
  decide ((2 ^ 24 - 1) * 2 ^ (104 - e).toNat < n * 2 ^ (e - 104).toNat)

/-- One value quantised at a step, and whether the overflow rule changed it (R255). -/
def frbQuantise (scale step : Nat) (x : FVal) : Int × Bool :=
  match x with
  | .fin neg m ex =>
    let (k, e) := frbStep scale step
    let q := ratRound m (ex - e) k
    let big := passesF32 (q * k) e
    let q := if big then q - 1 else q
    (if neg then -(q : Int) else q, big)
  | _ => (0, false)

/-- Bits that a quantised value takes; none where its symbol is unused. -/
def frbBits (t : Line) (q : Int) : Option Nat :=
  match frbSymbol q with
  | some (s, _, k) => if frbLen t s = 0 then none else some (frbLen t s + k)
  | none => none

/-- codebits of R255, none where a value has no used symbol. -/
def frbCodeBits (t : Line) (qs : List Int) : Option Nat :=
  qs.foldl (fun a q => match a, frbBits t q with | some a, some b => some (a + b) | _, _ => none) (some 0)

/-- A value's bits, most significant first. -/
def natMsb (n x : Nat) : List Bool := (List.range n).map (fun i => nfld x (n - 1 - i) 1 = 1)

/-- Bytes from bits, bit 0 of byte 0 first. -/
def bitBytes (n : Nat) (bs : List Bool) : List Byte :=
  (List.range n).map (fun i => BitVec.ofNat 8
    ((List.range 8).foldl (fun a j => a + 2 ^ j * b2n ((bs[8 * i + j]?).getD false)) 0))

/-- A block from its header fields and values (R243, R244). -/
def frbBlock (t : Line) (scale step : Nat) (qs : List Int) : List Byte :=
  let codes := frbCodes t
  let bits := qs.flatMap (fun q => match frbSymbol q with
    | some (s, r, k) =>
      (match codes.find? (fun c => c.2.1 = s) with | some c => natMsb c.1 c.2.2 | none => []) ++ natMsb k r
    | none => [])
  natLe 4 (packHi [(9, scale), (6, step), (11, bits.length), (6, 0)]) ++ bitBytes (frbBytes (frbRate t) - 4) bits

/-- What the encoder finds of one block: its bytes, STEP, SCALE_EXP, values changed by the overflow rule and
quantised values; SCALE_EXP 0 for a zero block and 0x1FF for a non-finite one. -/
structure FrbOut where
  bytes : List Byte := []
  step : Nat := 0
  scale : Nat := 0
  clamped : Nat := 0
  deriving DecidableEq, Repr

/-- floor(log2 |x|) of a finite non-zero value. -/
def floorLog : FVal → Int
  | .fin _ m e => (Nat.log2 m : Int) + e
  | _ => 0

/-- SCALE_EXP of a block with precision p (R255): 0 where all are zero, 0x1FF where one is not finite. -/
def frbScale (p : Nat) (xs : List FVal) : Nat :=
  let nonzero := xs.filter (fun x => match x with | .fin _ 0 _ => false | _ => true)
  if xs.any (fun x => match x with | .fin _ _ _ => false | _ => true) then 0x1FF
  else match nonzero with
    | [] => 0
    | x :: r => ((r.foldl (fun a y => max a (floorLog y)) (floorLog x)) - p + 257).toNat

/-- The first step that fits (R255). -/
def frbFit (t : Line) (scale : Nat) (xs : List FVal) : Option FrbOut :=
  let P := frbPayload (frbRate t)
  ((List.range 64).find? (fun s =>
    match frbCodeBits t (xs.map (fun x => (frbQuantise scale s x).1)) with
    | some n => decide (n ≤ P) | none => false)).map (fun s =>
      let qs := xs.map (frbQuantise scale s)
      { bytes := frbBlock t scale s (qs.map Prod.fst), step := s, scale
        clamped := (qs.filter Prod.snd).length })

/-- The encoder's block of 256 values at precision p (R255). -/
def frbEncode (t : Line) (p : Nat) (xs : List FVal) : FrbOut :=
  let scale := frbScale p xs
  let plain : FrbOut := { bytes := slice (natLe 4 (scale * 2 ^ 23)) 0 (frbBytes (frbRate t)), scale }
  if scale = 0 || scale = 0x1FF then plain else (frbFit t scale xs).getD plain

/-- Add a block's symbols at STEP 0 to the counts (R256 step 2). -/
def frbCount (p : Nat) (xs : List FVal) (counts : List Nat) : List Nat :=
  let scale := frbScale p xs
  if scale = 0 || scale = 0x1FF then counts
  else xs.foldl (fun c x => match frbSymbol (frbQuantise scale 0 x).1 with
    | some (s, _, _) => c.set s (c.getD s 0 + 1)
    | none => c) counts

/-- The node of least count, ties to the lowest symbol, and the others. -/
def leastNode (ns : List (Nat × List Nat)) : Option ((Nat × List Nat) × List (Nat × List Nat)) :=
  match ns with
  | [] => none
  | x :: r =>
    let low (n : Nat × List Nat) : Nat := n.2.foldl min 99
    let best := r.foldl (fun b n => if n.1 < b.1 || (n.1 = b.1 && low n < low b) then n else b) x
    some (best, dropFirst (· = best) ns)

/-- Merge the two least nodes until one is left, counting each symbol's depth (R256 step 3). -/
def huffman : Nat → List (Nat × List Nat) → List Nat → List Nat
  | 0, _, d => d
  | n + 1, ns, d =>
    match leastNode ns with
    | none => d
    | some (a, r) =>
      match leastNode r with
      | none => d
      | some (b, r) =>
        let m := a.2 ++ b.2
        huffman n ((a.1 + b.1, m) :: r) (m.foldl (fun d s => d.set s (d.getD s 0 + 1)) d)

/-- The built table (R256) of counts of 47 symbols. -/
def frbBuild (rate p : Nat) (counts : List Nat) : Line :=
  let ns := (List.range 47).map (fun s => (counts.getD s 1, [s]))
  let ls := huffman 46 ns (List.replicate 48 0)
  if ls.any (fun l => 15 < l) || decide (frbZeroLimit rate < ls.getD 15 0) then frbTable rate p frbDefault
  else frbTable rate p ls

/-! ### The encode report (R258) -/

/-- Add one value's error and square to a report: the term is exact, the sum is rounded (R258). -/
def FrbReport.value (r : FrbReport) (block : Nat) (x : FVal) (dec : Nat) : FrbReport :=
  let d := x.add (f32.decode dec).neg
  let a := match d with | .fin _ m e => f32.round false m e | v => f32.encode v
  { r with
    maxErr := if r.maxErr < a then a else r.maxErr
    maxErrBlock := if r.maxErr < a then block else r.maxErrBlock
    sumErr := f64.encode ((f64.decode r.sumErr).add (d.mul d))
    sumVal := f64.encode ((f64.decode r.sumVal).add (x.mul x)) }

/-- Add one block. -/
def FrbReport.block (r : FrbReport) (k : Nat) (t : Line) (xs : List FVal) (o : FrbOut) : FrbReport :=
  let r := { r with
    maxStep := max r.maxStep o.step
    blocks := r.blocks + 1
    coarsened := r.coarsened + b2n (0 < o.step)
    zero := r.zero + b2n (o.scale = 0)
    nonfinite := r.nonfinite + b2n (o.scale = 0x1FF)
    clamped := r.clamped + o.clamped }
  if o.scale = 0x1FF then r
  else (xs.zip ((frbExpand t o.bytes).getD [])).foldl (fun r v => r.value k v.1 v.2) r

/-- The report's 512 bits (Table FRB-6). -/
def FrbReport.bits (r : FrbReport) : Line :=
  BitVec.ofNat 512 (packHi [(4, 1), (6, r.maxStep), (6, 0), (32, r.blocks), (32, r.coarsened), (32, r.zero),
    (32, r.nonfinite), (32, r.maxErr), (32, r.maxErrBlock), (64, r.sumErr), (64, r.sumVal), (32, r.clamped),
    (144, 0)])

end Sys2Proof.Machine
end

