-- ==== Sys2Proof/Machine/Pipe.lean ====
section
/-! DEFINITION. Machine/Pipe.lean: what a pipeline computes (R191 to R210, R267 to R281): its stages evaluated over the
lines read so far, which end in their outputs, in the reads still needed, or in the first failure. -/

namespace Sys2Proof.Machine

/-! ### Evaluation over what has been read -/

/-- A read that is needed, of one line, or one of a shard's answers: its key, its line, the row or shard it is for,
and the message to send where it is a query of a shard; or a write that must be placed first. -/
structure Need where
  key : Nat := 0
  line : Nat := 0
  stage : Nat := 0
  ordinal : Nat := 0
  shard : Option Pva := none
  backup : Bool := false
  alt : Bool := false
  ask : Option (Nat × List Byte) := none
  put : Option PipeWrite := none
  deriving DecidableEq, Repr

/-- The result of an evaluation: done, reads needed, or a failure of a stage, with the elements that it has output and consumed
till then (R210). -/
inductive Ev (α : Type) where
  | ok (a : α)
  | need (rs : List Need)
  | fail (st : BitVec 8) (stage : Nat) (out : Nat := 0) (inn : Nat := 0)

/-- Go on with a result. -/
def Ev.bind {α β : Type} (x : Ev α) (f : α → Ev β) : Ev β :=
  match x with
  | .ok a => f a
  | .need rs => .need rs
  | .fail st k a b => .fail st k a b

/-- A failure of a stage comes when it has output and consumed so many elements. -/
def Ev.counted {α : Type} (x : Ev α) (stage out inn : Nat) : Ev α :=
  match x with
  | .fail st k a b => if k = stage then .fail st k out inn else .fail st k a b
  | x => x

/-- Both results: the needs of both where both need reads. -/
def Ev.both {α β : Type} (x : Ev α) (y : Ev β) : Ev (α × β) :=
  match x, y with
  | .ok a, .ok b => .ok (a, b)
  | .fail st k a b, _ => .fail st k a b
  | .need rs, .need ss => .need (rs ++ ss)
  | .need rs, _ => .need rs
  | _, .need ss => .need ss
  | _, .fail st k a b => .fail st k a b

/-- All the results of a list, in order. -/
def Ev.all {α : Type} : List (Ev α) → Ev (List α)
  | [] => .ok []
  | x :: xs => (x.both (Ev.all xs)).bind (fun r => .ok (r.1 :: r.2))

/-- Ordinal under which a stage reads what no row of its own names. -/
def sharedOrd : Nat := 4294967296

/-- Key of a line read: the read of the backup, stage, ordinal and line (R198: rows read their lines independently). -/
def needKey (backup : Bool) (stage ordinal line : Nat) : Nat :=
  ((b2n backup * 16 + stage) * 8589934592 + ordinal) * 2 ^ 58 + line

/-- What an evaluation sees: the answers so far, and the rows and shards that have a backup read.  An evaluation that is cut
short fails where it would wait. -/
structure Env where
  got : List Got := []
  backs : List (Nat × Nat) := []
  cut : Bool := false
  deriving DecidableEq, Repr

/-- The answer to a read. -/
def Env.find (e : Env) (k : Nat) : Option Got := e.got.find? (fun g => g.key = k)

/-- What is not there yet is waited for; an evaluation cut short fails. -/
def Env.wait (e : Env) {α : Type} (x : Need) : Ev α :=
  if e.cut then .fail Status.aborted.code x.stage else .need [x]

/-- One line. -/
def Env.line (e : Env) (backup : Bool) (stage ordinal line : Nat) (shard : Option Pva := none) (alt : Bool := false) :
    Ev (List Byte) :=
  let k := needKey backup stage ordinal line
  match e.find k with
  | some g => if g.status = 0 then .ok g.data else .fail g.status stage
  | none => e.wait { key := k, line, stage, ordinal, shard, backup, alt }

/-- The lines that n bytes at an address cover. -/
def linesOf (a n : Nat) : List Nat := (List.range ((a % 64 + n + 63) / 64)).map (fun i => a / 64 + i)

/-- n bytes at an address, every line read on its own. -/
def Env.bytes (e : Env) (backup : Bool) (stage ordinal a n : Nat) (shard : Option Pva := none) (alt : Bool := false) :
    Ev (List Byte) :=
  (Ev.all ((linesOf a n).map (fun l => e.line backup stage ordinal l shard alt))).bind (fun ls =>
    .ok (slice ls.flatten (a % 64) n))

/-- Bytes that a stage reads for itself. -/
def Env.shared (e : Env) (stage a n : Nat) : Ev (List Byte) := e.bytes false stage sharedOrd a n

/-- What a read's key names: backup, stage and ordinal. -/
def keyOf (k : Nat) : Bool × Nat × Nat :=
  let hi := k / 2 ^ 58 / 8589934592
  (hi / 16 = 1, hi % 16, k / 2 ^ 58 % 8589934592)

/-- The first failure that came for a row or a shard (R202). -/
def Env.firstFail (e : Env) (stage ordinal : Nat) : Option (BitVec 8) :=
  (e.got.find? (fun g => g.status != 0 && (keyOf g.key).2 = (stage, ordinal))).map Got.status

/-- A sharded row: from the primary, or from the replica where a backup read was sent: the first answer with OK, a
failure only where both fail (R202). -/
def Env.row (e : Env) (stage ordinal a n : Nat) (alt : Option Nat) (shard : Option Pva) : Ev (List Byte) :=
  let p := e.bytes false stage ordinal a n shard alt.isSome
  match alt with
  | none => p
  | some b =>
    if !e.backs.contains (stage, ordinal) then p
    else match p, e.bytes true stage ordinal b n shard with
      | .ok x, _ => .ok x
      | _, .ok y => .ok y
      | .fail st k .., .fail .. => .fail ((e.firstFail stage ordinal).getD st) k
      | .fail .., .need rs => .need rs
      | .need rs, .fail .. => .need rs
      | .need rs, .need ss => .need (rs ++ ss)

/-! ### Elements and links -/

/-- An element of a link (R194): its tag and its row. -/
structure Elem where
  ord : Nat := 0
  id : Nat := 0
  row : List Byte := []
  deriving DecidableEq, Repr

/-- A tag's 16 bytes (Table GATH-4). -/
def Elem.tag (x : Elem) : List Byte := natLe 8 x.id ++ natLe 8 x.ord

/-- A link as its reader sees it: the row size, and the element at each place, none where the link has closed. -/
structure LinkOut where
  num : Nat
  rowBytes : Nat
  at_ : Nat → Ev (Option Elem)

/-- Every element of a link from a place on, at most n. -/
def drainLink (f : Nat → Ev (Option Elem)) : Nat → Nat → Ev (List Elem)
  | 0, _ => .ok []
  | n + 1, k => (f k).bind (fun x => match x with
      | none => .ok []
      | some e => (drainLink f n (k + 1)).bind (fun es => .ok (e :: es)))

/-- A link fed by a finished list. -/
def listLink (num rowBytes : Nat) (es : List Elem) : LinkOut := { num, rowBytes, at_ := fun k => .ok es[k]? }

/-- More elements than any link carries. -/
def linkFuel : Nat := 4294967297

/-! ### Stage descriptors -/

namespace Stage
def kind (d : BitVec 512) : Nat := (fld d 508 4).toNat
def inValid (d : BitVec 512) : Bool := d.getLsbD 507
def inLink (d : BitVec 512) : Nat := (fld d 504 3).toNat
def outValid (d : BitVec 512) : Bool := d.getLsbD 503
def outLink (d : BitVec 512) : Nat := (fld d 500 3).toNat
end Stage

namespace GS
def mode (d : BitVec 512) : Nat := (fld d 498 2).toNat
def width (d : BitVec 512) : Nat := if d.getLsbD 497 then 8 else 4
def fromLink (d : BitVec 512) : Bool := d.getLsbD 496
def outKind (d : BitVec 512) : Nat := (fld d 494 2).toNat
def tagged (d : BitVec 512) : Bool := d.getLsbD 493
def backup (d : BitVec 512) : Bool := d.getLsbD 492
def rowBytes (d : BitVec 512) : Nat := (fld d 476 16).toNat + 1
def count (d : BitVec 512) : Nat := (fld d 444 32).toNat
def base (d : BitVec 512) : Nat := (fld d 388 56).toNat
def list (d : BitVec 512) : Nat := (fld d 332 56).toNat
def stride (d : BitVec 512) : Nat := (fld d 300 32).toNat
def dest (d : BitVec 512) : Nat := (fld d 244 56).toNat
def pitch (d : BitVec 512) : Nat := (fld d 212 32).toNat
def counter (d : BitVec 512) : Nat := (fld d 156 56).toNat
def shardLog2 (d : BitVec 512) : Nat := (fld d 150 6).toNat
def shardMax (d : BitVec 512) : Nat := (fld d 142 8).toNat
/-- Bytes between output rows (R198). -/
def outPitch (d : BitVec 512) : Nat :=
  if pitch d = 0 then rowBytes d + (if tagged d then 16 else 0) else pitch d
end GS

namespace Fl
def outKind (d : BitVec 512) : Nat := (fld d 498 2).toNat
def form (d : BitVec 512) : Nat := (fld d 495 3).toNat
def tagged (d : BitVec 512) : Bool := d.getLsbD 494
def escalate (d : BitVec 512) : Nat := (fld d 492 2).toNat
def nterms (d : BitVec 512) : Nat := (fld d 488 4).toNat
def k (d : BitVec 512) : Nat := (fld d 456 32).toNat
def budget (d : BitVec 512) : Nat := (fld d 424 32).toNat
def terms (d : BitVec 512) : Nat := (fld d 368 56).toNat
def dest (d : BitVec 512) : Nat := (fld d 312 56).toNat
def counter (d : BitVec 512) : Nat := (fld d 256 56).toNat
end Fl

/-- What one stage has done: its report, its outputs and its work counts, and how many elements of its input link it took where it
closed that link early (R195). -/
structure StageOut where
  partial_ : Bool := false
  reason : Nat := 0
  escal : Nat := 0
  rowsOut : Nat := 0
  rowsIn : Nat := 0
  outs : List PipeWrite := []
  work : List Nat := []
  took : Option Nat := none

/-- A stage that runs: the link that it feeds, and its end, given how many elements its readers took where they all closed that
link early (R195). -/
structure StageRun where
  link : Option LinkOut := none
  finish : Option Nat → Ev StageOut

/-- A stage that has run whatever its readers do. -/
def StageOut.run (o : StageOut) (link : Option LinkOut := none) : StageRun := { link, finish := fun _ => .ok o }

/-- The elements of a link that its readers made its writer produce. -/
def wantedOf (f : Nat → Ev (Option Elem)) (want : Option Nat) : Ev (List Elem) := drainLink f (want.getD linkFuel) 0

/-! ### Gather and scatter (R196 to R203) -/

/-- The pool has 56-bit addresses. -/
def poolAddr (stage a : Nat) : Ev Nat := if a < 2 ^ 56 then .ok a else .fail Status.accessViolation.code stage

/-- Entry j of an index or address array. -/
def Env.entry (e : Env) (stage : Nat) (d : BitVec 512) (j : Nat) : Ev Nat :=
  let w := GS.width d
  let w := if GS.mode d = 2 then 8 else w
  (poolAddr stage (GS.list d + j * w)).bind (fun a => (e.shared stage a w).bind (fun bs => .ok (leNat bs)))

/-- A row's identity and place (R197): the ID of its tag, its address, its replica's address and its shard. -/
def Env.rowAddr (e : Env) (stage : Nat) (d : BitVec 512) (scatter : Bool) (j x : Nat) :
    Ev (Nat × Nat × Option Nat × Option Pva) :=
  let id : Ev Nat := if GS.mode d = 0 then .ok j
    else if GS.fromLink d && !scatter then .ok x else e.entry stage d j
  id.bind (fun id =>
    match GS.mode d with
    | 0 => (poolAddr stage (GS.base d + j * GS.stride d)).bind (fun a => .ok (j, a, none, none))
    | 1 => (poolAddr stage (GS.base d + id * GS.stride d)).bind (fun a => .ok (id, a, none, none))
    | 2 => (poolAddr stage id).bind (fun a => .ok (a, a, none, none))
    | _ =>
      let s := id / 2 ^ GS.shardLog2 d
      let off := id % 2 ^ GS.shardLog2 d * GS.stride d
      if GS.shardMax d < s then .fail Status.accessViolation.code stage
      else (e.shared stage (GS.base d + 16 * s) 16).bind (fun bs =>
        let t := leNat bs
        let p := nfld t 72 56
        let r := nfld t 16 56
        if nfld t 0 15 != 0 then .fail Status.unsupportedVersion.code stage
        else (poolAddr stage (p + off)).bind (fun a => .ok (id, a,
          if nfld t 15 1 = 1 && GS.backup d then some (r + off) else none, some (BitVec.ofNat 56 p)))))

/-- The input element that a gather's row k is for: its ordinal and ID; none past the end. -/
def gatherIn (d : BitVec 512) (inp : Option LinkOut) (k : Nat) : Ev (Option (Nat × Nat)) :=
  if GS.count d != 0 && decide (GS.count d ≤ k) then .ok none
  else match inp with
    | some l => (l.at_ k).bind (fun x => .ok (x.map (fun e => (e.ord, e.id))))
    | none => .ok (if GS.count d = 0 then none else some (k, 0))

/-- Row k of a gather. -/
def Env.gatherRow (e : Env) (stage : Nat) (d : BitVec 512) (inp : Option LinkOut) (k : Nat) : Ev (Option Elem) :=
  Ev.counted (stage := stage) (out := k) (inn := k + b2n inp.isSome) ((gatherIn d inp k).bind (fun x => match x with
    | none => .ok none
    | some (j, x) => (e.rowAddr stage d false j x).bind (fun r =>
        (e.row stage j r.2.1 (GS.rowBytes d) r.2.2.1 r.2.2.2).bind (fun bs =>
          .ok (some { ord := j, id := r.1, row := bs })))))

/-- A pool or window output. -/
def outWrite (kind : Nat) (addr counter : Nat) (bs : List Byte) : PipeWrite :=
  { window := kind = 2, addr, counter := if kind = 1 then counter else 0, data := bs }

/-- The output rows of a stage, k-th at DEST + k * pitch. -/
def rowWrites (kind dest counter pitch : Nat) (tagged : Bool) (es : List Elem) : List PipeWrite :=
  (es.zipIdx).map (fun x => outWrite kind (dest + x.2 * pitch) counter
    ((if tagged then x.1.tag else []) ++ x.1.row))

/-- What a stage that ends at its COUNT has taken of its input link after n elements. -/
def countTook (d : BitVec 512) (n : Nat) : Option Nat := if GS.count d != 0 && n = GS.count d then some n else none

/-- A GATHER stage (R197, R198): to a link it produces what its readers take (R195). -/
def Env.gather (e : Env) (stage : Nat) (d : BitVec 512) (inp : Option LinkOut) : Ev StageRun :=
  let row := e.gatherRow stage d inp
  let report (es : List Elem) (want : Option Nat) : StageOut :=
    { rowsOut := es.length, rowsIn := es.length
      took := match want with | some _ => some es.length | none => countTook d es.length }
  if GS.outKind d = 0 then
    .ok { link := some { num := Stage.outLink d, rowBytes := GS.rowBytes d, at_ := row }
          finish := fun want => (wantedOf row want).bind (fun es => .ok (report es want)) }
  else (drainLink row linkFuel 0).bind (fun es =>
    .ok ({ (report es none) with
      outs := rowWrites (GS.outKind d) (GS.dest d) (GS.counter d) (GS.outPitch d) (GS.tagged d) es } : StageOut).run)

/-- A SCATTER stage (R199). -/
def Env.scatter (e : Env) (stage : Nat) (d : BitVec 512) (inp : Option LinkOut) : Ev StageRun :=
  match inp with
  | none => .fail Status.unsupportedVersion.code stage
  | some l =>
    let n := if GS.count d = 0 then linkFuel else GS.count d
    (drainLink l.at_ n 0).bind (fun es =>
      (Ev.all ((es.zipIdx).map (fun x => ((e.rowAddr stage d true x.1.ord x.1.id).bind (fun r =>
        .ok (r.2.1, x.1.row))).counted stage x.2 (x.2 + 1)))).bind (fun ws =>
        .ok ({ rowsOut := es.length, rowsIn := es.length, took := countTook d es.length
               outs := ws.map (fun w => outWrite 1 w.1 (GS.counter d) w.2) } : StageOut).run))

/-! ### Filter (R204 to R209) -/

/-- Bytes of a term's TYPE. -/
def termBytes (t : Nat) : Nat := ([1, 2, 4, 8, 4, 8, 4, 2][t]?).getD 8

/-- TYPE of a term; the tag ID is a U64 (Table GATH-8). -/
def termType (t : BitVec 256) : Nat := if fld t 102 16 = (0xFFFF : BitVec 16) then 3 else (fld t 118 3).toNat

/-- Whether a term is one that Table GATH-8 allows for a row size (R205, R206). -/
def termOk (t : BitVec 256) (rowBytes : Nat) : Bool :=
  let off := (fld t 102 16).toNat
  let n := termBytes (termType t)
  decide ((fld t 121 4).toNat ≤ 9) && fld t 0 102 = (0 : BitVec 102) &&
  (off = 0xFFFF || decide (off + n ≤ rowBytes)) &&
  ((fld t 121 4).toNat = 7 || (decide ((fld t 192 64).toNat < 2 ^ (8 * n)) && decide ((fld t 128 64).toNat < 2 ^ (8 * n))))

/-- A term's field of an element, as bits. -/
def termField (t : BitVec 256) (x : Elem) : Nat :=
  let off := (fld t 102 16).toNat
  if off = 0xFFFF then x.id else leNat (slice x.row off (termBytes (termType t)))

/-- Less and equal of two fields of a TYPE, both false with a NaN (R206). -/
def termCompare (ty a b : Nat) : Bool × Bool :=
  match ty with
  | 4 => (decide (signed 32 a < signed 32 b), a = b)
  | 5 => (decide (signed 64 a < signed 64 b), a = b)
  | 6 => (f32.lt a b, f32.eq a b)
  | 7 => (bf16.lt a b, bf16.eq a b)
  | _ => (decide (a < b), a = b)

/-- Membership of an identifier in a bitmap (R207). -/
def Env.inBitmap (e : Env) (stage hdr v : Nat) : Ev Bool :=
  (e.shared stage hdr 64).bind (fun bs =>
    let h : BitVec 512 := lineOf bs
    let base := (fld h 384 64).toNat
    let len := (fld h 320 64).toNat
    let bits := (fld h 264 56).toNat
    if fld h 508 4 != (1 : BitVec 4) || fld h 448 59 != (0 : BitVec 59) || fld h 0 264 != (0 : BitVec 264) then
      .fail Status.unsupportedVersion.code stage
    else if v < base || base + len ≤ v then .ok (h.getLsbD 507)
    else
      let k := v - base
      (poolAddr stage (bits + k / 8)).bind (fun a => (e.shared stage a 1).bind (fun b =>
        .ok ((b.headD 0).getLsbD (k % 8)))))

/-- Whether a term is true for an element, before NEGATE (R206). -/
def Env.termHolds (e : Env) (stage : Nat) (t : BitVec 256) (x : Elem) : Ev Bool :=
  let ty := termType t
  let v := termField t x
  let lo := (fld t 192 64).toNat
  let hi := (fld t 128 64).toNat
  let c := termCompare ty v lo
  let nan := (ty = 6 && (f32.isNan v || f32.isNan lo)) || (ty = 7 && (bf16.isNan v || bf16.isNan lo))
  let d := termCompare ty v hi
  match (fld t 121 4).toNat with
  | 0 => .ok c.2
  | 1 => .ok (nan || !c.2)
  | 2 => .ok c.1
  | 3 => .ok (c.1 || c.2)
  | 4 => .ok (!nan && !c.1 && !c.2)
  | 5 => .ok (!nan && !c.1)
  | 6 => .ok (!nan && !c.1 && (d.1 || d.2))
  | 7 => e.inBitmap stage (hi % 2 ^ 56) v
  | 8 => .ok (Nat.land v lo != 0)
  | _ => .ok (Nat.land v lo = lo)

/-- Whether a row matches: in each group that has a term, one is true (R206). -/
def Env.matches_ (e : Env) (stage : Nat) (ts : List (BitVec 256)) (x : Elem) : Ev Bool :=
  (Ev.all (ts.map (fun t => (e.termHolds stage t x).bind (fun b =>
    .ok ((fld t 126 2 : BitVec 2).toNat, xor b (t.getLsbD 125)))))).bind (fun rs =>
      .ok ((List.range 4).all (fun g => rs.all (fun r => r.1 != g) || rs.any (fun r => r.1 = g && r.2))))

/-- Where a filter's scan has come: matches (newest first), elements consumed with their outcome, doublings. -/
structure Scan where
  hits : List Elem := []
  marks : List (Nat × Bool) := []
  used : Nat := 0
  doublings : Nat := 0
  deriving DecidableEq, Repr

/-- The scan of R209: it stops at K matches, at the effective budget, or when the link closes; how it ended is 0, 2 or
1 of Table GATH-10, and whether the link had closed.  It looks past its budget only where it may double it.  Where its own readers
want no more than some matches, it stops there (R195). -/
def Env.scan (e : Env) (stage : Nat) (ts : List (BitVec 256)) (d : BitVec 512) (l : LinkOut) (want : Option Nat) :
    Nat → Scan → Ev (Nat × Bool × Scan)
  | 0, s => .ok (1, true, s)
  | n + 1, s =>
    let all := Fl.k d = 0
    let limit := Fl.budget d * 2 ^ s.doublings
    if want = some s.hits.length || (!all && s.hits.length = Fl.k d) then .ok (0, false, s)
    else if Fl.budget d != 0 && s.used = limit then
      (if all then .ok (0, false, s)
       else if Fl.escalate d ≤ s.doublings then .ok (2, false, s)
       else (l.at_ s.used).bind (fun x => match x with
         | none => .ok (1, true, s)
         | some _ => e.scan stage ts d l want n { s with doublings := s.doublings + 1 }))
    else (l.at_ s.used).bind (fun x => match x with
      | none => .ok (if all then 0 else 1, true, s)
      | some x => ((e.matches_ stage ts x).counted stage s.hits.length (s.used + 1)).bind (fun b =>
          e.scan stage ts d l want n { s with
            hits := if b then x :: s.hits else s.hits
            marks := (x.ord, b) :: s.marks, used := s.used + 1 }))

/-- A filter's output bytes (R208). -/
def filterWrites (d : BitVec 512) (hits : List Elem) (s : Scan) : List PipeWrite :=
  let k := Fl.outKind d
  let one (bs : List Byte) : List PipeWrite := if bs = [] then [] else [outWrite k (Fl.dest d) (Fl.counter d) bs]
  let vals (f : Elem → Nat) : List PipeWrite :=
    (hits.zipIdx).map (fun x => outWrite k (Fl.dest d + 8 * x.2) (Fl.counter d) (natLe 8 (f x.1)))
  match Fl.form d with
  | 0 =>
    let p := (hits.map (fun x => x.row.length)).headD 0 + (if Fl.tagged d then 16 else 0)
    rowWrites k (Fl.dest d) (Fl.counter d) p (Fl.tagged d) hits
  | 1 => vals Elem.id
  | 2 => vals Elem.ord
  | 3 =>
    let n := ceilDiv s.used 8
    one ((List.range n).map (fun i => BitVec.ofNat 8 ((List.range 8).foldl (fun a j =>
      a + 2 ^ j * b2n (s.marks.any (fun m => m.1 = 8 * i + j && m.2))) 0)))
  | _ => one (natLe 8 hits.length)

/-- The terms of a filter (R205). -/
def Env.terms (e : Env) (stage : Nat) (d : BitVec 512) : Ev (List (BitVec 256)) :=
  (e.shared stage (Fl.terms d) (32 * Fl.nterms d)).bind (fun bs => .ok ((chunks 32 (Fl.nterms d) bs).map (bitsOf 256)))

/-- A FILTER stage (R204 to R209): to a link it produces what its readers take (R195). -/
def Env.filter (e : Env) (stage : Nat) (d : BitVec 512) (inp : Option LinkOut) : Ev StageRun :=
  match inp with
  | none => .fail Status.unsupportedVersion.code stage
  | some l =>
    (e.terms stage d).bind (fun ts =>
      let scan (want : Option Nat) : Ev (Nat × Bool × Scan) := e.scan stage ts d l want (linkFuel + 4) {}
      let report (r : Nat × Bool × Scan) : StageOut :=
        let s := r.2.2
        { partial_ := r.1 != 0, reason := r.1, escal := s.doublings, rowsOut := s.hits.length, rowsIn := s.used
          took := if r.2.1 then none else some s.used
          outs := if Fl.outKind d = 0 then [] else filterWrites d s.hits.reverse s }
      if Fl.outKind d = 0 then
        .ok { link := some { num := Stage.outLink d, rowBytes := l.rowBytes
                             at_ := fun k => (scan (some (k + 1))).bind (fun r => .ok (r.2.2.hits.reverse[k]?)) }
              finish := fun want => (scan want).bind (fun r => .ok (report r)) }
      else (scan none).bind (fun r => .ok (report r).run))

/-! ### The matrix engine: SCORE (R267 to R276) -/

/-- A value of an OPFMT code: 0 bf16, 1 FP8 E4M3, 2 FP8 E5M2 (Table MATX-2). -/
def opDecode (f x : Nat) : FVal :=
  match f with
  | 0 => bf16.decode x
  | 1 =>
    let neg := nfld x 7 1 = 1
    let ex := nfld x 3 4
    let m := nfld x 0 3
    if ex = 15 && m = 7 then .nan
    else if ex = 0 then .fin neg m (-9) else .fin neg (8 + m) ((ex : Int) - 10)
  | _ => ({ ebits := 5, fbits := 2 } : Fmt).decode x

/-- Conversion from binary32 to an operand format (Table MATX-2). -/
def opConvert (f x : Nat) : Nat :=
  match f with
  | 0 => f32.conv bf16 x
  | 1 =>
    (match f32.decode x with
     | .nan => 0x7F
     | .inf neg => (if neg then 0x80 else 0) + 0x7E
     | .fin neg m e =>
       -- one more exponent than the format has, to see what passes 448
       let r := ({ ebits := 5, fbits := 3 } : Fmt).round neg m (e - 8)
       (if neg then 0x80 else 0) + min (nfld r 0 8) 0x7E)
  | _ => (match f32.decode x with
     | .nan => 0x7E
     | v => ({ ebits := 5, fbits := 2 } : Fmt).encode v)

/-- A dot product in binary32 (R268): BF16 term by term, FP8 four products at a time. -/
def dotFloat (f group : Nat) : Nat → Nat → List (Nat × Nat) → Nat
  | 0, acc, _ => acc
  | _ + 1, acc, [] => acc
  | n + 1, acc, ps =>
    let s := ((ps.take group).map (fun p => (opDecode f p.1).mul (opDecode f p.2)))
    let t := match s with | [] => FVal.fin false 0 0 | x :: r => r.foldl FVal.add x
    dotFloat f group n (f32.encode ((f32.decode acc).add t)) (ps.drop group)

/-- A dot product of INT8 elements (R268), as binary32 (R275). -/
def dotInt (ps : List (Nat × Nat)) : Nat :=
  let v := ps.foldl (fun (a : Int) p => a + signed 8 p.1 * signed 8 p.2) 0
  f32.round (v < 0) v.natAbs 0

namespace Sc
def outKind (d : BitVec 512) : Nat := (fld d 498 2).toNat
def keyFmt (d : BitVec 512) : Nat := (fld d 495 3).toNat
def opFmt (d : BitVec 512) : Nat := (fld d 493 2).toNat
def queryFmt (d : BitVec 512) : Nat := (fld d 491 2).toNat
def sum (d : BitVec 512) : Bool := d.getLsbD 490
def tagged (d : BitVec 512) : Bool := d.getLsbD 489
def rate (d : BitVec 512) : Nat := (fld d 486 3).toNat
def heads (d : BitVec 512) : Nat := (fld d 480 6).toNat + 1
def dim (d : BitVec 512) : Nat := (fld d 467 13).toNat
def qph (d : BitVec 512) : Nat := (fld d 461 6).toNat + 1
def scale (d : BitVec 512) : Nat := (fld d 429 32).toNat
def query (d : BitVec 512) : Nat := (fld d 373 56).toNat
def table (d : BitVec 512) : Nat := (fld d 317 56).toNat
def dest (d : BitVec 512) : Nat := (fld d 261 56).toNat
def counter (d : BitVec 512) : Nat := (fld d 205 56).toNat
def idBase (d : BitVec 512) : Nat := (fld d 141 64).toNat
/-- V of R273. -/
def values (d : BitVec 512) : Nat := heads d * dim d
/-- The row size that the keys need (R273). -/
def rowBytes (d : BitVec 512) : Nat :=
  if keyFmt d = 0 then 2 * values d
  else if keyFmt d = 1 then values d / 256 * frbBytes (rate d)
  else values d
end Sc

/-- Little-endian elements of k bytes. -/
def rawElems (k : Nat) (bs : List Byte) : List Nat := (chunks k (ceilDiv bs.length k) bs).map leNat

/-- A key row's elements in the operand format: raw, or expanded and converted (R270); none where a block is
malformed. -/
def keyElems (d : BitVec 512) (t : Line) (row : List Byte) : Option (List Nat) :=
  if Sc.keyFmt d = 1 then
    let bs := (chunks (frbBytes (Sc.rate d)) (Sc.values d / 256) row).map (frbExpand t)
    if bs.any Option.isNone then none else some ((bs.flatMap (fun b => b.getD [])).map (opConvert (Sc.opFmt d)))
  else if Sc.keyFmt d = 0 && Sc.opFmt d != 0 then
    -- raw BF16 keys under an FP8 operand format: the operand is a value the rules do not give (log 9)
    some (((rawElems 2 row).zipIdx).map (fun x => (Config.searchTable [x.1] (Sc.opFmt d) x.2).toNat % 256))
  else some (rawElems (if Sc.keyFmt d = 0 then 2 else 1) row)

/-- The query's elements in the operand format (R274). -/
def queryElems (d : BitVec 512) (bs : List Byte) : List Nat :=
  match Sc.queryFmt d with
  | 0 => (rawElems 2 bs).map (fun x => opConvert (Sc.opFmt d) (bf16.conv f32 x))
  | 1 => (rawElems 4 bs).map (opConvert (Sc.opFmt d))
  | _ => rawElems 1 bs

/-- The scores of a row for each query vector (R275). -/
def scoresOf (d : BitVec 512) (ks qs : List Nat) : List Nat :=
  let n := Sc.dim d
  (List.range (Sc.heads d * Sc.qph d)).map (fun j =>
    let k := (ks.drop (j / Sc.qph d * n)).take n
    let v := (qs.drop (j * n)).take n
    let ps := k.zip v
    let dot := if Sc.opFmt d = 3 then dotInt ps
      else dotFloat (Sc.opFmt d) (if Sc.opFmt d = 0 then 1 else 4) n 0 ps
    f32.mul dot (Sc.scale d))

/-- The row's score and BEST_Q (R275). -/
def scoreCombine (d : BitVec 512) (ss : List Nat) : Nat × Nat :=
  if Sc.sum d then
    (match ss with | [] => (0, 0xFFFF) | x :: r => (r.foldl f32.add x, 0xFFFF))
  else
    let best := ss.foldl (fun a s => if f32.order a < f32.order s then s else a) (ss.headD 0)
    if ss.any f32.isNan then
      (f32.qnan, ((ss.zipIdx).find? (fun x => f32.isNan x.1)).elim 0 (fun x => x.2))
    else (best, ((ss.zipIdx).find? (fun x => x.1 = best)).elim 0 (fun x => x.2))

/-- A score record's bytes (Table MATX-4). -/
def scoreRecord (id bestQ score : Nat) : List Byte := natLe 16 (packHi [(64, id), (16, bestQ), (16, 0), (32, score)])

/-- The score record of an element (R275). -/
def scoreElem (stage : Nat) (d : BitVec 512) (t : Line) (qs : List Nat) (y : Elem) : Ev Elem :=
  match keyElems d t y.row with
  | none => .fail Status.unsupportedVersion.code stage
  | some ks =>
    let r := scoreCombine d (scoresOf d ks qs)
    .ok { ord := y.ord, id := (y.id + Sc.idBase d) % 2 ^ 64, row := scoreRecord ((y.id + Sc.idBase d) % 2 ^ 64) r.2 r.1 }

/-- A SCORE stage (R272 to R275): to a link it produces what its readers take (R195). -/
def Env.score (e : Env) (stage : Nat) (d : BitVec 512) (inp : Option LinkOut) : Ev StageRun :=
  match inp with
  | none => .fail Status.unsupportedVersion.code stage
  | some l =>
    let nq := Sc.heads d * Sc.qph d * Sc.dim d
    let qb := if Sc.queryFmt d = 0 then 2 else if Sc.queryFmt d = 1 then 4 else 1
    let tb : Ev (List Byte) := if Sc.keyFmt d = 1 then e.shared stage (Sc.table d) 64 else .ok []
    ((e.shared stage (Sc.query d) (nq * qb)).both tb).bind (fun x =>
      let t : Line := lineOf x.2
      if Sc.keyFmt d = 1 && !(frbValid t && frbRate t = Sc.rate d) then .fail Status.unsupportedVersion.code stage
      else
        let qs := queryElems d x.1
        let row (k : Nat) : Ev (Option Elem) := (l.at_ k).bind (fun y => match y with
          | none => .ok none
          | some y => ((scoreElem stage d t qs y).counted stage k (k + 1)).bind (fun z => .ok (some z)))
        let report (rs : List Elem) (want : Option Nat) : StageOut :=
          { rowsOut := rs.length, rowsIn := rs.length, took := want.map (fun _ => rs.length)
            work := [rs.length * nq, rs.length, 0, 0] ++
              (if Sc.keyFmt d = 1 then [rs.length * (Sc.values d / 256), 1] else [])
            outs := if Sc.outKind d = 0 then []
              else rowWrites (Sc.outKind d) (Sc.dest d) (Sc.counter d) (if Sc.tagged d then 32 else 16) (Sc.tagged d) rs }
        if Sc.outKind d = 0 then
          .ok { link := some { num := Stage.outLink d, rowBytes := 16, at_ := row }
                finish := fun want => (wantedOf row want).bind (fun rs => .ok (report rs want)) }
        else (drainLink row linkFuel 0).bind (fun rs => .ok (report rs none).run))

/-! ### SELECT (R277 to R281) -/

namespace Se
def outKind (d : BitVec 512) : Nat := (fld d 498 2).toNat
def byId (d : BitVec 512) : Bool := d.getLsbD 497
def idFromRow (d : BitVec 512) : Bool := d.getLsbD 496
def tagged (d : BitVec 512) : Bool := d.getLsbD 495
def minValid (d : BitVec 512) : Bool := d.getLsbD 494
def k (d : BitVec 512) : Nat := (fld d 479 15).toNat
def scoreOff (d : BitVec 512) : Nat := (fld d 463 16).toNat
def idOff (d : BitVec 512) : Nat := (fld d 447 16).toNat
def min (d : BitVec 512) : Nat := (fld d 415 32).toNat
def dest (d : BitVec 512) : Nat := (fld d 359 56).toNat
def counter (d : BitVec 512) : Nat := (fld d 303 56).toNat
end Se

/-- A candidate of a selection. -/
structure Cand where
  score : Nat
  id : Nat
  elem : Elem
  deriving DecidableEq, Repr

/-- The rank order of R278: score descending, ID ascending, ordinal ascending. -/
def Cand.before (a b : Cand) : Bool :=
  f32.lt b.score a.score ||
  (!f32.lt a.score b.score && (decide (a.id < b.id) || (a.id = b.id && decide (a.elem.ord ≤ b.elem.ord))))

/-- A SELECT stage (R277 to R280). -/
def Env.select (stage : Nat) (d : BitVec 512) (inp : Option LinkOut) : Ev StageRun :=
  match inp with
  | none => .fail Status.unsupportedVersion.code stage
  | some l =>
    (drainLink l.at_ linkFuel 0).bind (fun es =>
      let cs := es.map (fun x => ({
        score := leNat (slice x.row (Se.scoreOff d) 4)
        id := if Se.idFromRow d then leNat (slice x.row (Se.idOff d) 8) else x.id
        elem := x } : Cand))
      let nan := (cs.filter (fun c => f32.isNan c.score)).length
      let keep := cs.filter (fun c => !f32.isNan c.score && !(Se.minValid d && f32.lt c.score (Se.min d)))
      let best := (keep.mergeSort Cand.before).take (Se.k d)
      let best := if Se.byId d then best.mergeSort (fun a b => decide (a.id ≤ b.id)) else best
      let out : List Elem := (best.zipIdx).map (fun c => { ord := c.2, id := c.1.id, row := c.1.elem.row })
      let report : StageOut :=
        { partial_ := decide (best.length < Se.k d), reason := if best.length < Se.k d then 1 else 0
          rowsOut := best.length, rowsIn := es.length, work := [0, 0, nan, 0]
          outs := if Se.outKind d = 0 then []
            else rowWrites (Se.outKind d) (Se.dest d) (Se.counter d) (l.rowBytes + (if Se.tagged d then 16 else 0))
              (Se.tagged d) out }
      .ok (report.run (if Se.outKind d = 0 then some (listLink (Stage.outLink d) l.rowBytes out) else none)))

end Sys2Proof.Machine
end

