-- ==== Sys2Proof/Machine/Coherence.lean ====
section
/-! DEFINITION. Machine/Coherence.lean: the coherence requests and snoop responses (Table COH-4): at the edge of their
source, in transit, with combining (R120 to R122), and at their home. -/

namespace Sys2Proof.Machine

/-! ### At the edge of a client -/

/-- A half-port's binding; a half-port not bound before is bound by the first request it carries (log 16). -/
def Qf.bindingOf (q : Qf) (h : HalfPort) (p : Packet) : Binding :=
  match (q.link h).bind with
  | some b => b
  | none => { tenant := p.tenant, world := p.world, ep := (q.link h).peerEp }

/-- A client's request with the values bound to its half-port (R70, R301, R359). -/
def Qf.boundReq (q : Qf) (h : HalfPort) (p : Packet) : Packet :=
  let b := q.bindingOf h p
  let world := b.world && (q.link h).profile != 3
  let tc := BitVec.ofNat 3 (min p.tc.toNat (q.policer b.tenant).maxTc.toNat)
  { p with
    tenant := b.tenant, world := world, srcEp := (q.link h).peerEp, tc := tc
    stream := (1 : BitVec 2) ++ (fld p.stream 0 16 : BitVec 16), vc := (vcOf p.opcode).getD 0 }

/-- Whether a protected tenant's request comes through an admitted half-port (R393). -/
def Qf.admittedHalf (q : Qf) (h : HalfPort) (t : Tenant) : Bool :=
  let e := q.sec.enrol.get t.toNat {}
  !e.protect || e.admitted.contains (q.link h).sess.peerPrint

/-- Answer FAIL to a client through its half-port. -/
def Qf.failClient (q : Qf) (h : HalfPort) (p : Packet) (st : Status) : Qf :=
  q.sendOn (unitOf (halfSector h)) h { (q.reply p Opc.fail st.code) with destEp := (q.link h).peerEp }

/-- A client's request is refused at the edge: a write or an atomic leaves its stream's first failure (R82). -/
def Qf.refuseClient (q : Qf) (h : HalfPort) (p : Packet) (st : Status) : Qf :=
  (if countsInStream p.opcode then q.recordFail (.half h) p.srcEp p.stream st.code else q).failClient h p st

/-- A client's request, whole with its payload, at its edge (R33 to R36, R80 to R83, R347, R367). -/
def Qf.clientRequest (q : Qf) (h : HalfPort) (p0 : Packet) (data : Option Packet) : Qf :=
  let i := Ingress.half h
  let p := q.boundReq h p0
  let q := q.updLink h (fun l => { l with bind := some (q.bindingOf h p0) })
  if !q.part.kinds.has p.srcEp.toNat then
    q.updLink h (fun l => { l with cnt := { l.cnt with discarded := l.cnt.discarded + 1 } })
  else if !q.admittedHalf h p.tenant then q.refuseClient h p .accessViolation
  else if isWrite p.opcode && (q.stream p.srcEp p.stream).writes = 0 && decide (4096 ≤ q.openStreams i) then
    q.failClient h p .retry
  else
    let x := q.edgeCheck i p data
    match x.1 with
    | .error st => x.2.refuseClient h p st
    | .ok p' => x.2.submit { ing := i, owner := .accel, orig := p, sent := p', data }

/-! ### Responses of combined requests (R120 to R122) -/

/-- The operands of a group combined in arrival order (R121), as an atomic's payload. -/
def combinedOperand (ps : List Packet) : List Byte :=
  match ps with
  | [] => []
  | p :: rest =>
    let n := widthBytes p.atomicWidth
    let v := rest.foldl (fun a x => atomicNew p.atomicOp n a (atomicArgs x).1 0) (atomicArgs p).1
    natLe 16 0 ++ natLe 16 v

/-- A response on its way: where its request stood for a group, a response to every member, each given to deliver; the
pending group of an atomic is forwarded, or fails where it has no way out (R120 to R122, R341). -/
def Qf.uncombine (q : Qf) (i : Ingress) (p : Packet) (deliver : Qf → Packet → Qf) : Qf :=
  match q.home.combines.find? (fun c => c.is p.destEp p.tag) with
  | none => deliver q p
  | some c =>
    let q := { q with home := { q.home with combines := dropFirst (fun c => c.is p.destEp p.tag) q.home.combines } }
    let n := widthBytes c.first.atomicWidth
    let step (a : Qf × Nat) (m : Packet) : Qf × Nat :=
      let r : Packet := { p with
        destEp := m.srcEp, tag := m.tag, stream := m.stream, tc := m.tc, qp := m.qp
        payload := if p.opcode = Opc.atomicResult then natLe 16 a.2 else p.payload }
      (deliver a.1 r, atomicNew c.first.atomicOp n a.2 (atomicArgs m).1 0)
    let q := (c.members.foldl step (q, leNat p.payload)).1
    match c.pending with
    | [] => q
    | m :: _ =>
      let g : Packet := { m with payload := combinedOperand c.pending, far := false }
      if (q.route g).isSome then
        let new : Combine := { c with first := g, members := c.pending, pending := [] }
        ({ q with home := { q.home with combines := q.home.combines ++ [new] } }).transit i g
      else c.pending.foldl (fun q m => deliver q (q.reply m Opc.fail Status.linkDown.code)) q

/-! ### At the home -/

/-- Log the violation of a privileged queue pair (R144).  Whether a pair of another QF960 is privileged is a free value:
its packets do not say (log 17). -/
def Qf.homeViolation (q : Qf) (p : Packet) (st : Status) : Qf :=
  match p.qp with
  | some h =>
    let priv := if h.originEp = q.ownEp then (q.qps.qps.get (h.originEp ++ h.qpn : QpKey).toNat {}).ctx.priv
      else Config.privilegedElsewhere h.originEp h.qpn q.now
    if st = .accessViolation && priv then
      q.violation p.addr p.world h.originEp h.qpn h.psn true p.tenant
    else q
  | none => q

/-- Answer a request's refusal: a Pennant's with PENNANT_DONE (R91). -/
def Qf.refuse (q : Qf) (p : Packet) (st : Status) : Qf :=
  if p.opcode = Opc.pennant then q.answer p Opc.pennantDone st.code else q.answerFail p st

/-- A request fails the home's checks: its outcome is final, and its message and PSN are counted. -/
def Qf.failChecked (q : Qf) (p : Packet) (bytes : Nat) (st : Status) : Qf :=
  (((q.countKey st).homeViolation p st).refuse p st |>.countMsg p bytes st.code).psnFinal p st.code

/-- A draft's write takes its copy-on-write page first (check 5). -/
def Qf.draftPage (q : Qf) (p : Packet) : Option Qf :=
  if writesLine p.opcode && p.opcode != Opc.wbDirty then q.cowPage p (lineNo p.addr) else some q

/-- Whether a move has blocked new writes to a request's extent (R60 step 2). -/
def Qf.moveBlocks (q : Qf) (p : Packet) : Bool :=
  match q.pool.moves.find? (slotNo p.addr).toNat with
  | some m => m.blocked && (p.opcode = Opc.pennant || (writesLine p.opcode && p.opcode != Opc.wbDirty))
  | none => false

/-- Hold a write that a move blocks, with its payload. -/
def Qf.holdForMove (q : Qf) (p : Packet) (d : Option Packet) : Qf :=
  let put (m : Move) : Move := { m with held := m.held ++ [(p, d)] }
  { q with pool := { q.pool with moves := q.pool.moves.upd (slotNo p.addr).toNat {} put } }

/-- Order the pieces of a request one after another: none where one of them finds its line's queue or its sector full
(R111). -/
def Qf.orderAll (q : Qf) : List LineReq → Option Qf
  | [] => some q
  | r :: rs => if q.queueFull r.line then none else (q.order r).orderAll rs

/-- A request on one line at its home: duplicates, checks and ordering (R42, R139).  One that is refused with RETRY leaves no
state (R111). -/
def Qf.homeLine (q0 : Qf) (op : LineOp) (p : Packet) (l : Line := 0) : Qf :=
  if q0.isCleared p then q0
  else if q0.moveBlocks p then q0.holdForMove p none
  else
    let x := q0.targetCheck p
    if !x.1 then x.2
    else
      let q := x.2
      match q.homeChecks p with
      | some st => q.failChecked p 0 st
      | none =>
        match q.draftPage p with
        | none => q.failChecked p 0 .quota
        | some q =>
          match (q.takeIn p).orderAll [{ op, line := q.viewLine p (lineNo p.addr), pkt := p, data := l }] with
          | none => q0.refuse p .retry
          | some q => q.settle

/-- The line writes of a write request with its payload: line, data and mask (R72). -/
def writePieces (p : Packet) (bytes : List Byte) : List (LineNo × Line × BitVec 64) :=
  let off := (fld p.addr 0 6 : BitVec 6).toNat
  let n := lineNo p.addr
  if p.opcode = Opc.wrFullNc then [(n, lineOf (slice bytes 0 64), fullMask)]
  else if p.opcode = Opc.wrNc then
    let m := match p.aux with | some a => a.byteMask | none => maskOf off (min bytes.length (64 - off))
    let body := if bytes.length = 64 then bytes else List.replicate off 0 ++ bytes
    [(n, lineOf (slice body 0 64), m)]
  else
    let body := List.replicate off (0 : Byte) ++ bytes
    (List.range (ceilDiv body.length 64)).map (fun k =>
      let first := if k = 0 then off else 0
      let last := min 64 (body.length - 64 * k)
      (n + BitVec.ofNat 40 k, lineOf (slice body (64 * k) 64), maskOf first (last - first)))

/-- Order a request of several lines as one operation, whose end answers it; none where R111 refuses it. -/
def Qf.orderBulk (q : Qf) (b : BulkOp) (rs : List LineReq) : Option Qf :=
  let id := q.home.nextBulk
  let q := q.takeIn b.pkt
  let q := { q with home := { q.home with
    nextBulk := id + 1
    bulks := q.home.bulks.set id { b with left := rs.length } } }
  (q.orderAll (rs.map (fun r => { r with bulk := some id }))).map (fun q =>
    (if rs = [] then q.endBulk id else q).settle)

/-- A copy of another home's move comes in: its slot is the destination of a move (R517; log 61). -/
def Qf.noteMove (q : Qf) (p : Packet) : Qf :=
  let s := lineSlot (lineNo p.addr)
  if !q.copyMove p || q.pool.incoming.contains s then q
  else { q with pool := { q.pool with incoming := q.pool.incoming ++ [s] } }

/-- A write at its home, whole with its payload (R71, R72, R84, R90, R139).  One that is refused with RETRY leaves no state
(R111). -/
def Qf.homeWrite (q0 : Qf) (p : Packet) (d : Packet) : Qf :=
  let p : Packet := { p with
    payload := d.payload, msg := p.msg.or d.msg, pennant := p.pennant.or d.pennant, qp := p.qp.or d.qp }
  if q0.isCleared p then q0
  else if q0.moveBlocks p then q0.holdForMove p (some d)
  else
    let x := q0.targetCheck p
    if !x.1 then x.2
    else
      match x.2.openMsg p with
      | none => { (q0.answerFail p .retry) with
                    sw := { q0.sw with reasmRetries := q0.sw.reasmRetries + 1 } }
      | some q =>
        match q.homeChecks p with
        | some st => q.failChecked p d.payload.length st
        | none =>
          match q.draftPage p with
          | none => q.failChecked p d.payload.length .quota
          | some q =>
            ((q.noteMove p).orderBulk { pkt := p } ((writePieces p d.payload).map (fun x =>
              { op := .write, line := q.viewLine p x.1, pkt := p, data := x.2.1, mask := x.2.2 }))).getD
                (q0.answerFail p .retry)

/-- A bulk read at its home (Table LINK-7; its length is log 18). -/
def Qf.homeReadBulk (q0 : Qf) (p : Packet) : Qf :=
  if q0.isCleared p then q0
  else
    let x := q0.targetCheck p
    if !x.1 then x.2
    else
      let q := x.2
      match q.homeChecks p with
      | some st => q.failChecked p 0 st
      | none =>
        let off := (fld p.addr 0 6 : BitVec 6).toNat
        (q.orderBulk { pkt := p, read := true } ((List.range (ceilDiv (off + reqLen p none) 64)).map (fun k =>
          { op := .rdNc, line := q.viewLine p (lineNo p.addr + BitVec.ofNat 40 k), pkt := p }))).getD
            (q0.answerFail p .retry)

/-- A write-back that no transaction waits for is placed: waits see it, its sender holds the line no more, and WB_DONE is
sent (R108, R109, R114). -/
def Qf.wbPlaced (q : Qf) (n : LineNo) (p : Packet) (l : Line) : Qf :=
  (((q.evalWaits n l).dropHolder n p.srcEp).meter (q.sectorOf n) p.tenant 1 64).answer p Opc.wbDone

/-- Place a write-back outside the transaction of its line, at once or at its TRAY_DONE (R109, R114). -/
def Qf.placeWriteBack (q : Qf) (n : LineNo) (p : Packet) (l : Line) : Qf :=
  if !q.canPlace n then q.answerFail p .linkDown
  else
    let x := q.placeStored n (q.sealFor n l) (some (p, l))
    if x.1 then x.2 else x.2.wbPlaced n p l

/-- Whether a write-back's sender still owes the answer, or the data, of a snoop to the recorded owner (R114). -/
def Qf.servesSnoop (q : Qf) (n : LineNo) (t : Txn) (ep : Ep) : Bool :=
  t.snoops.any (fun s => s.ep = ep && (s.wantWb || (!s.answered && q.wbOwner n ep)))

/-- A refused write-back's data is discarded and its sender drops the line: no snoop waits for the data (R116). -/
def Qf.wbRefused (q : Qf) (p : Packet) (st : Status) : Qf :=
  let n := q.viewLine p (lineNo p.addr)
  let q := q.failChecked p 0 st
  if st = .epochStale then q
  else
    let q := if q.wbOwner n p.srcEp then q.dropHolder n p.srcEp else q
    let q := q.updTxn n (fun t => { t with snoops := t.snoops.map (fun s =>
      if s.ep = p.srcEp then { s with wbSeen := true, wantWb := false } else s) })
    (q.checkSnoops n).settle

/-- WB_DIRTY at its home, with its data (R114): one from the recorded owner never waits.  It serves as the data of a snoop
that is out to the owner; on an idle line it is a transaction of its own, which blocks the line until it is placed
(R110). -/
def Qf.homeWriteBack (q : Qf) (p : Packet) (d : Packet) : Qf :=
  let l := lineOf (slice d.payload 0 64)
  match q.homeChecks p with
  | some st => q.wbRefused p st
  | none =>
    let n := q.viewLine p (lineNo p.addr)
    let r : LineReq := { op := .wbDirty, line := n, pkt := p, data := l, ordered := q.now }
    match (q.lineQ n).bind BlockedLine.txn with
    | none =>
      if (match q.lineQ n with | some b => b.stuck | none => false) then q.answerFail p .timeout
      else if q.wbOwner n p.srcEp then ((q.dropHotFor r).serve n r).settle else q.homeLine .wbDirty p l
    | some t =>
      if q.servesSnoop n t p.srcEp then
        let q := q.updTxn n (fun t => { t with
          dirty := some l, wb := some r
          snoops := t.snoops.map (fun s => if s.ep = p.srcEp then { s with wantWb := false, wbSeen := true } else s) })
        (q.checkSnoops n).settle
      else if q.wbOwner n p.srcEp then ((q.dropHotFor r).placeWriteBack n p l).settle
      else q.homeLine .wbDirty p l

/-- A registration of a wait at its home (R87, R543). -/
def Qf.homeWait (q : Qf) (p : Packet) : Qf :=
  let r := WaitRec.ofBits (bitsOf 256 p.payload)
  match q.check123 p with
  | some st => (q.countKey st).answerFail p st
  | none =>
    let n := lineNo p.addr
    let s := q.sectorOf n
    let ws := q.home.waits.filter (fun w => !(w.waiter = p.srcEp && w.tag = p.tag))
    if 1024 ≤ (ws.filter (fun w => w.sector = s)).length then
      ({ q with home := { q.home with waits := ws } }).answerFail p .retry
    else
      let dl := if r.timeoutUs = 0 then none else some (q.now + r.timeoutUs.toNat * 1000)
      let new : WaitSlot :=
        { sector := s, waiter := p.srcEp, tag := p.tag, record := r, pkt := p, deadline := dl }
      let q := { q with home := { q.home with waits := ws ++ [new] } }
      let q := q.orderInternal { op := .waitEval, line := q.viewLine p n, pkt := p }
      q.settle

/-- The lowest of listed PSNs, in their order modulo 2^32. -/
def lowestPsn (ps : List Psn) : Psn :=
  ps.foldl (fun a x => if (a - x).toNat < 2 ^ 31 then x else a) (ps.headD 0)

/-- A CANCEL that lists a PSN outside the 256 of CANCELLED moves CANCEL_BASE to its lowest listed PSN, and drops the bits that
fall out (R546). -/
def TargetRec.cancel (t : TargetRec) (psns : List Psn) : TargetRec :=
  if psns.all (fun x => (x - t.cancelBase).toNat < 256) then t
  else
    let low := lowestPsn psns
    let up := (low - t.cancelBase).toNat
    { t with
      cancelBase := low
      cancelled := if up < 256 then t.cancelled >>> up
        else if 2 ^ 32 - 256 < up then t.cancelled <<< (2 ^ 32 - up) else 0 }

/-- One listed PSN of a CANCEL (R546). -/
def Qf.cancelPsn (q : Qf) (p : Packet) (h : QpHdr) (psn : Psn) : Qf :=
  match q.target h with
  | none => q
  | some t =>
    let hp : QpHdr := { h with psn := psn }
    let a : Packet := { p with qp := some hp }
    if t.admitted.any (fun x => x.1 = psn) then q
    else match t.classify hp with
    | .duplicate => q.ackDuplicate t a psn
    | .lost => q.answerFail a .uncorrectable
    | _ =>
      let d := (psn - t.cancelBase).toNat
      let q := q.updTarget h (fun t => (({ t with
        cancelled := if d < 256 then t.cancelled ||| ((1 : BitVec 256) <<< d) else t.cancelled }).final psn))
      q.answer a Opc.fail Status.aborted.code

/-- The PSNs that a CANCEL of a queue pair lists become final at its target record, which it makes where there is none
(R138, R546). -/
def Qf.cancelAll (q : Qf) (p : Packet) (h : QpHdr) (psns : List Psn) : Qf :=
  let made : Option Qf := match q.target h with
    | some _ => some q
    | none =>
      if psns = [] then some q
      else if q.targetFull h.qpn then none
      else
        let low := lowestPsn psns
        let t : TargetRec := { originEp := h.originEp, qpn := h.qpn, ownEpoch := h.ownEpoch
                               expected := low, cancelBase := low }
        some { q with qps := { q.qps with targets := q.qps.targets ++ [t] } }
  match made with
  | none => q.answerFail p .retry
  | some q => psns.foldl (fun q x => q.cancelPsn p h x) (q.updTarget h (fun t => t.cancel psns))

/-- CANCEL at its home: the message's entry closes (R93) and the listed PSNs become final (R152, R546).  One of a lower
ownership epoch than its target record is refused, one of a higher raises it (R150). -/
def Qf.homeCancel (q : Qf) (p : Packet) : Qf :=
  let close (q : Qf) : Qf := match p.msg with
    | some m => q.clearMsg p.srcEp m.msgId false
    | none => q
  match p.qp with
  | none => close q
  | some h =>
    match q.target h with
    | some t =>
      if t.lost then (close q).cancelAll p h (cancelList p)
      else if h.ownEpoch < t.ownEpoch then q.answerOwner p h t.ownEpoch
      else (close (q.updTarget h (fun t => { t with ownEpoch := h.ownEpoch }))).cancelAll p h (cancelList p)
    | none => (close q).cancelAll p h (cancelList p)
where
  /-- The PSNs that a CANCEL's payload lists. -/
  cancelList (p : Packet) : List Psn := (chunks 4 256 p.payload).map (fun b => (bitsOf 32 b : Psn))

/-! ### A request on its way -/

/-- Whether the policer of a client's tenant lets a request through now (R368). -/
def Qf.clientOpen (q : Qf) (h : HalfPort) (p : Packet) : Bool :=
  neverHeld p.opcode || q.policeOpen (q.bindingOf h p).tenant

/-- A request without payload: at its client's edge, at its home, or passing through. -/
def Qf.request (q : Qf) (i : Ingress) (p : Packet) (home : Qf → Qf) : Qf :=
  if !q.inService then q
  else match i with
  | .half h =>
    if q.atEdge i then (if q.clientOpen h p then (q.take i p).clientRequest h p none
      else q.markHeld (q.bindingOf h p).tenant)
    else if p.destEp = q.ownEp then home (q.take i p)
    else
      let x := (q.take i p).combine i p
      if x.1 then x.2.transit i p else x.2
  | _ => if p.destEp = q.ownEp then home (q.take i p) else (q.take i p).transit i p

/-- Take a packet's mate where it has arrived and go on with the two, request first; else the packet waits (R544). -/
def Qf.withMate (q : Qf) (i : Ingress) (p : Packet) (f : Packet → Packet → Qf → Qf) : Qf :=
  match q.pair i p with
  | (none, q) => q
  | (some x, q) => if p.vc = 3 then f x.2 p q else f p x.2 q

/-- A packet of a pair of request and payload (R544): both are taken together. -/
def Qf.paired (q : Qf) (i : Ingress) (p : Packet) (home : Packet → Packet → Qf → Qf) : Qf :=
  if !q.inService then q
  else match i with
  | .half h =>
    if q.atEdge i then
      (if q.clientOpen h p then
        (q.take i p).withMate i p (fun r d q => q.clientRequest h r (some d)) else q.markHeld (q.bindingOf h p).tenant)
    else if p.destEp = q.ownEp then (q.take i p).withMate i p home
    else (q.take i p).transit i p
  | _ => if p.destEp = q.ownEp then (q.take i p).withMate i p home else (q.take i p).transit i p

/-! ### The requests -/

/-- RD_NC (R108). -/
def execRdNc (i : Ingress) (p : Packet) (s : State) : Out :=
  done (fun q => q.request i p (fun q => q.homeLine .rdNc p)) s

/-- RD_SHARED (R108). -/
def execRdShared (i : Ingress) (p : Packet) (s : State) : Out :=
  done (fun q => q.request i p (fun q => q.homeLine .rdShared p)) s

/-- RD_OWN (R108). -/
def execRdOwn (i : Ingress) (p : Packet) (s : State) : Out :=
  done (fun q => q.request i p (fun q => q.homeLine .rdOwn p)) s

/-- UPGRADE (R108). -/
def execUpgrade (i : Ingress) (p : Packet) (s : State) : Out :=
  done (fun q => q.request i p (fun q => q.homeLine .upgrade p)) s

/-- EVICT_CLEAN (R108, R115). -/
def execEvictClean (i : Ingress) (p : Packet) (s : State) : Out :=
  done (fun q => q.request i p (fun q => q.homeLine .evictClean p)) s

/-- ATOMIC (R94 to R97, R118, R119, R121). -/
def execAtomic (i : Ingress) (p : Packet) (s : State) : Out :=
  done (fun q => q.request i p (fun q => q.homeLine .atomic p)) s

/-- RD_BULK (R304). -/
def execRdBulk (i : Ingress) (p : Packet) (s : State) : Out :=
  done (fun q => q.request i p (fun q => q.homeReadBulk p)) s

/-- WR_NC (R108), taken with its DATA_WRITE. -/
def execWrNc (i : Ingress) (p : Packet) (s : State) : Out :=
  done (fun q => q.paired i p (fun r d q => q.homeWrite r d)) s

/-- WR_FULL_NC (R108), taken with its DATA_WRITE. -/
def execWrFullNc (i : Ingress) (p : Packet) (s : State) : Out :=
  done (fun q => q.paired i p (fun r d q => q.homeWrite r d)) s

/-- WR_BULK (R304), taken with its DATA_WRITE. -/
def execWrBulk (i : Ingress) (p : Packet) (s : State) : Out :=
  done (fun q => q.paired i p (fun r d q => q.homeWrite r d)) s

/-- DATA_WRITE (R544): the payload of a write. -/
def execDataWrite (i : Ingress) (p : Packet) (s : State) : Out :=
  done (fun q => q.paired i p (fun r d q => q.homeWrite r d)) s

/-- WB_DIRTY (R114), taken with its DATA_DIRTY. -/
def execWbDirty (i : Ingress) (p : Packet) (s : State) : Out :=
  done (fun q => q.paired i p (fun r d q => q.homeWriteBack r d)) s

/-- WAIT_REGISTER (R87, R543). -/
def execWaitRegister (i : Ingress) (p : Packet) (s : State) : Out :=
  done (fun q => q.request i p (fun q => q.homeWait p)) s

/-- CANCEL (R93, R546). -/
def execCancel (i : Ingress) (p : Packet) (s : State) : Out :=
  done (fun q => q.request i p (fun q => q.homeCancel p)) s

/-- STREAM_RESET at the edge (R82): the accelerator's stream starts afresh, with no failure recorded. -/
def Qf.streamReset (q : Qf) (h : HalfPort) (p0 : Packet) : Qf :=
  let p := q.boundReq h p0
  let q := q.policeCharge p.tenant p.length
  (q.updStream (.half h) p.srcEp p.stream (fun r => { r with fail := 0 })).releasePennants p.srcEp p.stream

/-- STREAM_RESET (R82). -/
def execStreamReset (i : Ingress) (p : Packet) (s : State) : Out :=
  done (fun q => if !q.inService then q else match i with
    | .half h => if q.atEdge i then (q.take i p).streamReset h p else (q.take i p).transit i p
    | _ => (q.take i p).transit i p) s

/-- PENNANT (R79 to R82): held at its source edge, applied at its flag's home in the line's order. -/
def execPennant (i : Ingress) (p : Packet) (s : State) : Out :=
  done (fun q => q.request i p (fun q => q.homeLine .flag p)) s

/-! ### Snoop responses, acknowledgements (R108, R110, R114, R115, R544) -/

/-- The line whose transaction sent a snoop with a tag to an endpoint. -/
def Qf.snoopedLine (q : Qf) (p : Packet) : Option (LineNo × Txn × Snoop) :=
  q.home.lines.findSome? (fun x => x.2.txn.bind (fun t =>
    (t.snoops.find? (fun s => s.ep = p.srcEp && s.tag = p.tag)).map (fun s =>
      ((BitVec.ofNat 40 x.1 : LineNo), t, s))))

/-- A snoop's DATA_DIRTY that waits for its response. -/
def isSnoopData (p : Packet) (x : Ingress × Packet) : Bool :=
  x.2.opcode = Opc.dataDirty && x.2.srcEp = p.srcEp && x.2.tag = p.tag && lineNo x.2.addr = lineNo p.addr

/-- A holder's answer to a snoop: its effect on the directory, and the data it waits for.  An answer that a write-back was
sent waits for that write-back where its sender is the recorded owner and it has not come (R114). -/
def Qf.snoopAnswer (q : Qf) (p : Packet) (dirf : LineNo → Qf → Qf) (wb : Bool) : Qf :=
  match q.snoopedLine p with
  | none => q
  | some (n, _, _) =>
    let owner := q.wbOwner n p.srcEp
    let data := q.home.unpaired.find? (isSnoopData p)
    let q := if data.isSome && p.far then { q with home := { q.home with
      unpaired := dropFirst (isSnoopData p) q.home.unpaired } } else q
    let q := dirf n q
    let q := q.updTxn n (fun t => { t with
      dirty := if p.far then (match data with
        | some x => some (lineOf (slice x.2.payload 0 64)) | none => t.dirty) else t.dirty
      snoops := t.snoops.map (fun s => if s.ep = p.srcEp && s.tag = p.tag then
        { s with answered := true, wantData := p.far && data.isNone, wantWb := wb && owner && !s.wbSeen } else s) })
    (q.checkSnoops n).settle

/-- A response for the home: taken here, or passing through. -/
def Qf.forHome (q : Qf) (i : Ingress) (p : Packet) (f : Qf → Qf) : Qf :=
  if !q.inService then q
  else if p.destEp = q.ownEp then f (q.take i p) else (q.take i p).transit i p

/-- SNP_RSP_I: the holder is I now (R108, R115). -/
def execSnpRspI (i : Ingress) (p : Packet) (s : State) : Out :=
  done (fun q => q.forHome i p (fun q => q.snoopAnswer p (fun n q => q.dropHolder n p.srcEp) false)) s

/-- The owner is a sharer now. -/
def Qf.ownerShares (q : Qf) (n : LineNo) (ep : Ep) : Qf :=
  q.setDir n (some { dstate := .shared, holders := [ep], lastUse := q.now })

/-- SNP_RSP_S: the holder is S now (R108). -/
def execSnpRspS (i : Ingress) (p : Packet) (s : State) : Out :=
  done (fun q => q.forHome i p (fun q => q.snoopAnswer p (fun n q => q.ownerShares n p.srcEp) false)) s

/-- SNP_RSP_WRITTEN_BACK: the data is that of a write-back already sent (R114). -/
def execSnpRspWrittenBack (i : Ingress) (p : Packet) (s : State) : Out :=
  done (fun q => q.forHome i p (fun q => q.snoopAnswer p (fun n q => q.dropHolder n p.srcEp) true)) s

/-- SNP_RSP_KEEP: the holder keeps its state (R544). -/
def execSnpRspKeep (i : Ingress) (p : Packet) (s : State) : Out :=
  done (fun q => q.forHome i p (fun q => q.snoopAnswer p (fun _ q => q) false)) s

/-- DATA_DIRTY at the home: a snoop's data, or a write-back's (R544). -/
def Qf.homeDirty (q : Qf) (i : Ingress) (p : Packet) : Qf :=
  match q.snoopedLine p with
  | some (n, _, sn) =>
    if sn.answered then
      (if sn.wantData then
        let q := q.updTxn n (fun t => { t with
          dirty := some (lineOf (slice p.payload 0 64))
          snoops := t.snoops.map (fun s => if s.ep = p.srcEp && s.tag = p.tag then
            { s with wantData := false } else s) })
        (q.checkSnoops n).settle
       else q)
    else { q with home := { q.home with unpaired := q.home.unpaired ++ [(i, p)] } }
  | none =>
    match q.pair i p with
    | (none, q) => q
    | (some x, q) => q.homeWriteBack x.2 p

/-- DATA_DIRTY (R544): at a client's edge it goes with its WB_DIRTY or passes on to the snooping home. -/
def execDataDirty (i : Ingress) (p : Packet) (s : State) : Out :=
  done (fun q =>
    if !q.inService then q
    else if q.atEdge i && (q.home.unpaired.any (isMate p) || q.part.kinds.get p.destEp.toNat 0 != 2) then
      q.paired i p (fun r d q => q.homeWriteBack r d)
    else if p.destEp = q.ownEp then (q.take i p).homeDirty i p
    else (q.take i p).transit i p) s

/-- Whether a line's transaction was granted to a packet's sender under its TAG. -/
def grantedTo (p : Packet) (x : Nat × BlockedLine) : Bool :=
  match x.2.txn with
  | some t => t.phase = .granted && t.req.pkt.srcEp = p.srcEp && t.req.pkt.tag = p.tag
  | none => false

/-- CMP_ACK at the home: the entry is recorded (Tables COH-7, COH-8) and the line is released (R110). -/
def Qf.cmpAck (q : Qf) (p : Packet) : Qf :=
  match List.find? (grantedTo p) q.home.lines with
  | some x =>
    let n : LineNo := BitVec.ofNat 40 x.1
    ((q.setDir n (x.2.txn.bind Txn.newDir)).release n).settle
  | none => q

/-- CMP_ACK (R110). -/
def execCmpAck (i : Ingress) (p : Packet) (s : State) : Out :=
  done (fun q => q.forHome i p (fun q => q.cmpAck p)) s

end Sys2Proof.Machine
end

