-- ==== Sys2Proof/Machine/Pool.lean ====
section
/-! DEFINITION. Machine/Pool.lean: the commands on extents, tiers and Cirrus (R36, R40, R43 to R54, R60, R65, R66, R540
to R542), on versioned regions (R55 to R59) and on map epochs (R61, R62, R470). -/

namespace Sys2Proof.Machine

/-! ### Manager commands in general (R6, R473) -/

/-- A manager command of the generation in force (R468) starts: UNSUPPORTED_VERSION and no effect for a wrong FORMAT,
reserved bits or an argument out of range (R6, R473). -/
def Qf.mgr (q : Qf) (m : MgrRef) (op : BitVec 8) (ok : Bool) (f : Qf → Qf) : Qf :=
  if !q.mgrLive || m.generation != q.host.generation || !q.mayStart m then q
  else
    let q := q.markStart m true
    if mgrOk m && q.fetchedOk m && ok then f q else q.complete m op .unsupportedVersion

/-! ### Extents (R43, R53, R540, R541) -/

/-- A page of a move has been read: write it at the new home, which takes it as a copy of the extent itself (log 173). -/
def Qf.moveGot (q : Qf) (s : Slot) (pg : Nat) (bytes : List Byte) : Qf :=
  match q.pool.moves.find? s.toNat with
  | none => q
  | some m =>
    let e := q.extent s
    let k := (q.keysOf e.tenant).current
    let p : Packet :=
      { opcode := Opc.wrBulk, tenant := e.tenant, keyTenant := e.tenant, world := true,
        keyGen := (k.map KeySlot.gen).getD 0, stream := moveStream,
        addr := ppaOf m.newHome m.newSlot (BitVec.ofNat 28 (pg * 4096)) }
    let d : Packet := { opcode := Opc.dataWrite, vc := 3, payload := bytes }
    q.issueRaw 0 (.moveWrite s pg) p (some d)

/-- Whether a move has copied everything and waits for its cutover (R60). -/
def Move.ready (m : Move) : Bool := m.blocked && m.recalled && m.todo = [] && m.dirty = []

/-- A page of a move has been written at the new home: progress, and the next page. -/
def Qf.moveWrote (q : Qf) (s : Slot) (pg : Nat) : Qf :=
  let step (m : Move) : Move := { m with
    copied := m.copied + 1, pos := if m.pass = 0 then pg + 1 else m.pos, todo := m.todo.filter (· != pg) }
  let q := { q with pool := { q.pool with moves := q.pool.moves.upd s.toNat {} step } }
  let m := q.pool.moves.get s.toNat {}
  let q := q.updProgress m.progress (fun p => { p with
    position := m.copied, percent := min 100 (m.copied * 100 / 65536) })
  q.moveNext s

/-- A move fails: its command and its progress object end with the status (log 22). -/
def Qf.moveFail (q : Qf) (s : Slot) (st : Status) : Qf :=
  match q.pool.moves.find? s.toNat with
  | none => q
  | some m =>
    let q := { q with pool := { q.pool with moves := q.pool.moves.del s.toNat } }
    let q := q.endProgress m.progress 2 st.code
    let q := match m.cmd with | some c => q.complete c 0x12 st m.progress | none => q
    m.held.foldl (fun q x => match x.2 with
      | some d => q.homeWrite x.1 d
      | none => q.homeLine (if x.1.opcode = Opc.pennant then .flag else if x.1.opcode = Opc.atomic then .atomic else if x.1.opcode = Opc.upgrade then
          .upgrade else .rdOwn) x.1) q

/-- A line of a replica has been written at the lender. -/
def Qf.replicaWrote (q : Qf) (s : Slot) : Qf :=
  let rs := updFirst (fun (r : Replication) => r.slot = s) (fun r => { r with pos := r.pos + 1 }) q.pool.replications
  let q := { q with pool := { q.pool with replications := rs } }
  q.replicaNext s

/-- EXTENT_ASSIGN (R540, R541). -/
def execExtentAssign (m : MgrRef) (slot : BitVec 32) (tray trayExtent tenant : BitVec 16)
    (region : BitVec 32) (flags : BitVec 8) (s : State) : Out :=
  done (fun q => q.mgr m 0x10 (inRange slot 262144 && inRange tray 16384 && inRange trayExtent 8192 &&
      inRange tenant 4096 && inRange region 1048576 && inRange flags 8)
    (fun q => q.extCmd m (fld slot 0 18) (.assign tray trayExtent tenant region flags))) s

/-- EXTENT_WITHDRAW (R540, R542). -/
def execExtentWithdraw (m : MgrRef) (slot : BitVec 32) (tw : BitVec 64) (s : State) : Out :=
  done (fun q => q.mgr m 0x11 (inRange slot 262144)
    (fun q => if q.boot.resetAt.isSome then q.complete m 0x11 .retry
      else q.extCmd m (fld slot 0 18) (.withdraw tw))) s

/-- WITHDRAW_EFFECT (R43): at Tw the extent is WITHDRAWING. -/
def execWithdrawEffect (slot : Slot) (s : State) : Out :=
  done (fun q => match q.wd slot with
    | some w => if !w.effective && !w.stopped && decide (w.tw ≤ q.now) && q.running then
        q.withdrawNow slot else q
    | none => q) s

/-- WITHDRAW_DRAIN_END (R43, R117): with no request in flight, cached lines are recalled and the slot is
scrubbed. -/
def execWithdrawDrainEnd (slot : Slot) (s : State) : Out :=
  done (fun q => match q.wd slot with
    | some w =>
      if w.effective && (q.extent slot).state = .withdrawing && q.slotInFlight slot = 0 && q.running then
        ((q.updWd slot (fun w => { w with recalling := true })).recallSlot slot true).settle
      else q
    | none => q) s

/-- Fail every request in flight at a slot (R43): it completes WITHDRAWN with no effect; a line already granted is recorded,
to be recalled. -/
def Qf.failSlot (q : Qf) (s : Slot) (st : Status) : Qf :=
  (q.home.lines.filter (fun x => inSlot s x.1 && !x.2.stuck)).foldl (fun q x =>
    let n : LineNo := BitVec.ofNat 40 x.1
    let q := x.2.waiters.foldl (fun q r => q.failReq r st) q
    let q := match x.2.txn with
      | some t => if t.phase = Phase.granted then q.setDir n t.newDir else (q.wbAnswer n t st).failReq t.req st
      | none => q
    { q with home := { q.home with lines := q.home.lines.del n.toNat } }) q

/-- WITHDRAW_DRAIN_TIMEOUT (R43, R44, R117): at Tw + 10 ms what remains completes WITHDRAWN, and the slot is
scrubbed once its cached lines are recalled. -/
def execWithdrawDrainTimeout (slot : Slot) (s : State) : Out :=
  done (fun q => match q.wd slot with
    | some w =>
      if w.effective && (q.extent slot).state = .withdrawing && decide (w.tw + 10000000 ≤ q.now) &&
          q.running then
        let q := q.updWd slot (fun w => { w with discarded := true, recalling := true })
        ((q.failSlot slot .withdrawn).recallSlot slot true).settle
      else q
    | none => q) s

/-- SCRUB_DONE (R43, R46): every line is written as a zero line and the slot is FREE. -/
def execScrubDone (slot : Slot) (s : State) : Out :=
  done (fun q => match q.wd slot with
    | some w =>
      if (q.extent slot).state = .scrubbing && !w.stopped && decide (4194304 ≤ w.scrubPos) && q.running then
        let q := q.freeSlot slot
        let q := { q with pool := { q.pool with withdrawals := q.pool.withdrawals.del slot.toNat } }
        let q := q.endProgress w.progress 1 0
        (match w.cmd with | some m => q.complete m 0x11 .ok w.progress | none => q).settle
      else q
    | none => q) s

/-- TRAY_FILL_TIMEOUT (R542): a TRAY_FILL unanswered for REQUEST_TIMEOUT stops the scrub. -/
def execTrayFillTimeout (slot : Slot) (s : State) : Out :=
  done (fun q => match (q.wd slot).bind Withdrawal.fill with
    | some f => if decide (f.2.2 + q.flt.requestTimeout.toNat ≤ q.now) && q.running then
        (q.scrubStop slot .timeout).settle else q
    | none => q) s

/-- EXTENT_MOVE (R60, R540). -/
def execExtentMove (m : MgrRef) (slot : BitVec 32) (newHome : BitVec 16) (newSlot : BitVec 32)
    (s : State) : Out :=
  done (fun q => q.mgr m 0x12 (inRange slot 262144 && inRange newHome 16384 && inRange newSlot 262144)
    (fun q => if q.boot.resetAt.isSome then q.complete m 0x12 .retry
      else q.extCmd m (fld slot 0 18) (.move newHome newSlot))) s

/-- MOVE_COPY_PASS (R60): at the end of a pass, another pass over the dirty pages; with fewer than 64 of
them writes are blocked, cached lines recalled and the rest copied. -/
def execMoveCopyPass (slot : Slot) (s : State) : Out :=
  done (fun q => match q.pool.moves.find? slot.toNat with
    | none => q
    | some m =>
      let ended := if m.pass = 0 then decide (65536 ≤ m.pos) else m.todo = []
      let put (q : Qf) (m : Move) : Qf :=
        { q with pool := { q.pool with moves := q.pool.moves.set slot.toNat m } }
      if !ended || !q.running then q
      else if !m.blocked then
        (if 64 ≤ m.dirty.length then
          (put q { m with pass := m.pass + 1, todo := m.dirty, dirty := [] }).moveNext slot
         else
          ((put q { m with pass := m.pass + 1, todo := m.dirty, dirty := [], blocked := true }).recallSlot
            slot false).settle.moveNext slot)
      else if q.recalled slot && q.slotInFlight slot = 0 then
        (put q { m with pass := m.pass + 1, todo := m.dirty, dirty := [], recalled := true }).moveNext slot
      else q) s

/-- The cutover of the moves that are copied, at an advance of the map epoch (R60 step 5). -/
def Qf.moveCutover (q : Qf) : Qf :=
  q.pool.moves.foldl (fun q x =>
    let s : Slot := BitVec.ofNat 18 x.1
    let m := x.2
    if !m.ready then q
    else
      let q := q.failFill s .epochStale
      let q := q.updExtent s (fun e => { e with state := .moved, newHome := m.newHome })
      let q := { q with pool := { q.pool with moves := q.pool.moves.del s.toNat } }
      let q := q.failWaits (fun w => slotNo w.pkt.addr = s) .epochStale
      let q := m.held.foldl (fun q x =>
        q.failChecked x.1 (match x.2 with | some d => d.payload.length | none => 0) .epochStale) q
      let q := q.endProgress m.progress 1 0
      match m.cmd with | some c => q.complete c 0x12 .ok m.progress | none => q) q

/-- PLACE_T0 (R49, R540). -/
def execPlaceT0 (m : MgrRef) (slot : BitVec 32) (s : State) : Out :=
  done (fun q => q.mgr m 0x13 (inRange slot 262144) (fun q => q.extCmd m (fld slot 0 18) .placeT0)) s

/-- T0_FILL_DONE (R49): the last line of a frame is filled. -/
def execT0FillDone (slot : Slot) (s : State) : Out :=
  done (fun q =>
    let f := (q.extent slot).t0Frame.toNat
    match q.pool.frames.find? f with
    | some fr => if decide (4194304 ≤ fr.fillPos) && fr.progress.isSome && q.running then
        let q := q.endProgress fr.progress 1 0
        { q with pool := { q.pool with frames := q.pool.frames.set f { fr with progress := none } } }
      else q
    | none => q) s

/-! ### Cirrus (R51, R52) -/

/-- CIRRUS_REGISTER (R51): registers a lender's extents, at most 65,536 in all. -/
def execCirrusRegister (m : MgrRef) (lender first count : BitVec 16) (s : State) : Out :=
  done (fun q => q.mgr m 0x14 (inRange lender 16384 && decide (first.toNat + count.toNat ≤ 65536))
    (fun q =>
      let l : Ep := fld lender 0 14
      let have_ (x : Nat) : Bool := q.pool.cirrus.any (fun c => c.lender = l && c.extent.toNat = x)
      let new := ((List.range count.toNat).map (fun k => first.toNat + k)).filter (fun x => !have_ x)
      if 65536 < q.pool.cirrus.length + new.length then q.complete m 0x14 .quota
      else
        let q := { q with pool := { q.pool with
          cirrus := q.pool.cirrus ++ new.map (fun x =>
            ({ lender := l, extent := BitVec.ofNat 16 x } : CirrusReg)) } }
        q.complete m 0x14 .ok)) s

/-- CIRRUS_REPLICATE (R51, R540). -/
def execCirrusReplicate (m : MgrRef) (slot : BitVec 32) (lender extent : BitVec 16) (s : State) : Out :=
  done (fun q => q.mgr m 0x15 (inRange slot 262144 && inRange lender 16384)
    (fun q => q.extCmd m (fld slot 0 18) (.replicate lender extent))) s

/-- CIRRUS_REPLICA_COMPLETE (R51): the replica is fully written and CIRRUS_VALID set. -/
def execCirrusReplicaComplete (slot : Slot) (s : State) : Out :=
  done (fun q => match q.pool.replications.find? (fun r => r.slot = slot) with
    | some r =>
      if decide (4194304 ≤ r.pos) && q.running then
        let t := (q.extent slot).tenant
        let q := q.updExtent slot (fun e => { e with
          cirrusValid := true, cirrusEp := r.lender, cirrusExtent := r.extent })
        let q := q.updQuota t (fun u => { u with u2 := u.u2 + 1 })
        ((q.meter 0 t 5 1).replicaEnd slot .ok).settle
      else q
    | none => q) s

/-- RECLAIM at the home (R52): replicas in the reclaimed memory are no longer valid, and no read goes there
any more. -/
def Qf.reclaim (q : Qf) (p : Packet) : Qf :=
  let xs := (chunks 2 4096 p.payload).map (fun b => (bitsOf 16 b : BitVec 16))
  let hit (c : CirrusReg) : Bool := c.lender = p.srcEp && xs.contains c.extent
  let slots := (q.pool.cirrus.filter hit).filterMap (fun c => c.slot)
  let q := slots.foldl (fun q s =>
    (q.replicaEnd s .withdrawn).dropReplica s) q
  let new : Reclaim := { lender := p.srcEp, exts := xs, tag := p.tag, tc := p.tc, since := q.now }
  ({ q with pool := { q.pool with
    cirrus := q.pool.cirrus.filter (fun c => !hit c)
    reclaims := q.pool.reclaims ++ [new] } }).settle

/-- RECLAIM (R52). -/
def execReclaim (i : Ingress) (p : Packet) (s : State) : Out :=
  done (fun q => if !q.inService then q
    else if q.atEdge i && p.destEp != q.ownEp then (q.take i p).transit i p
    else if p.destEp = q.ownEp then (q.take i p).reclaim p
    else (q.take i p).transit i p) s

/-- RECLAIM_ACK (R52): reads still out to the reclaimed memory are reissued, to tier 0 or else tier 1, and the reclaim is
acknowledged with PLACED (log 20). -/
def execReclaimAck (lender : Ep) (s : State) : Out :=
  done (fun q => match q.pool.reclaims.find? (fun r => r.lender = lender) with
    | none => q
    | some r =>
      if !q.inService then q
      else
        let there (t : TrayRead) : Bool := t.cirrus && t.ep = lender && r.exts.contains t.ext
        let old := q.home.trayReads.filter there
        let q := { q with home := { q.home with trayReads := q.home.trayReads.filter (fun t => !there t) } }
        let q := old.foldl (fun q t => match (q.lineQ t.forLine).bind BlockedLine.txn with
          | some x => if x.phase = .reading then q.readTier t.forLine x else q
          | none => q) q
        let q := { q with pool := { q.pool with
          reclaims := dropFirst (fun r => r.lender = lender) q.pool.reclaims } }
        let ack : Packet := {
          opcode := Opc.placed, vc := 1, tc := r.tc, partitionId := q.part.id
          destEp := lender, srcEp := q.ownEp, tag := r.tag, mapEpoch := q.part.epoch }
        (q.sendPlain (.unit 0) ack).settle) s

/-! ### Restore (Table FAULT-3) -/

/-- The restore image has been read: the entry is rewritten from its first 16 bytes (log 23), once no other command is changing
the slot (R474). -/
def Qf.restoreGot (q : Qf) (s : Slot) (st : Status) (bytes : List Byte) : Qf :=
  match q.pool.restoring.find? (fun x => x.1 = s) with
  | none => q
  | some x =>
    let q := { q with pool := { q.pool with restoring := dropFirst (fun x => x.1 = s) q.pool.restoring } }
    if st != .ok then (q.complete x.2 0x16 st).settle
    else
      let c : ExtCmd := .restore (bitsOf 128 (slice bytes 0 16))
      if q.slotBusy s then
        { q.markStart x.2 false with pool := { q.pool with waiting := (s, x.2, c) :: q.pool.waiting } }
      else (q.runExt x.2 s c).settle

/-- EXTENT_RESTORE (R409): rewrites a lost entry from an image in the pool. -/
def execExtentRestore (m : MgrRef) (slot : BitVec 32) (image : BitVec 64) (tenant : BitVec 16)
    (s : State) : Out :=
  done (fun q => q.mgr m 0x16 (inRange slot 262144 && inRange image (2 ^ 56) && inRange tenant 4096)
    (fun q =>
      let sl : Slot := fld slot 0 18
      let q := { q with pool := { q.pool with restoring := q.pool.restoring ++ [(sl, m)] } }
      let p : Packet := { opcode := Opc.rdNc, tenant := fld tenant 0 12, world := true
                          stream := (3 : BitVec 2) ++ (8 : BitVec 16), addr := fld image 0 60 }
      match q.issue 0 (.restore sl) p with
      | (none, q) => q
      | (some st, q) => q.restoreGot sl st [])) s

/-! ### Versions (R55 to R59) -/

/-- Four fields of a record, that of slot or draft 3 highest. -/
def four {w : Nat} (xs : List (BitVec w)) : List (Nat × Nat) := ((xs.take 4).reverse).map (fun x => (w, x.toNat))

/-- A version record's 1,024 bits (Table POOL-11). -/
def VersionRec.bits (v : VersionRec) : BitVec 1024 :=
  BitVec.ofNat 1024 (packHi (four v.versions ++ four v.draftBase ++ [(64, v.current.toNat)] ++ four v.readers ++
    [(4, v.draftOpen.toNat), (4, v.slotValid.toNat), (2, v.currentSlot.toNat)] ++ four v.mapSlot ++ four v.mapDraft ++
    [(6, 0)]))

/-- Whether a version slot is free (R59). -/
def VersionRec.slotFree (v : VersionRec) (k : Nat) : Bool :=
  !v.slotValid.getLsbD k || (k != v.currentSlot.toNat && (v.readers[k]?).getD 0 = 0)

/-- Set a bit of a small vector. -/
def setBit {w : Nat} (x : BitVec w) (k : Nat) (b : Bool) : BitVec w :=
  if b then x ||| ((1 : BitVec w) <<< k) else x &&& ~~~((1 : BitVec w) <<< k)

/-- Free the copy-on-write pages that no view of a region maps any more. -/
def Qf.freePages (q : Qf) (r : RegionId) : Qf :=
  let v := q.verRec r
  let used (w : Nat) : Bool := v.maps.any (fun m => m.any (fun x => x.2.toNat = w)) ||
    v.freeing.any (fun x => x.toNat = w)
  { q with ver := { q.ver with
    cowUsed := q.ver.cowUsed.filter (fun x => x.2.2 != r || used x.1) } }

/-- Reclaim a version slot (Table POOL-12). -/
def VersionRec.reclaimSlot (v : VersionRec) (k : Nat) : VersionRec :=
  { v with
    slotValid := setBit v.slotValid k false, versions := v.versions.set k 0, maps := v.maps.set k []
    mapSlot := v.mapSlot.set k 0 }

/-- Start folding where only the current version remains and no draft is open (R59). -/
def Qf.startFold (q : Qf) (r : RegionId) : Qf :=
  let v := q.verRec r
  let cur := v.currentSlot.toNat
  let alone := (List.range 4).all (fun k => k = cur || v.slotFree k)
  let n := ((v.maps[cur]?).getD []).length
  if v.draftOpen != 0 || !alone || v.folding || n = 0 then q
  else
    let q := q.updVer r (fun v =>
      let v := (List.range 4).foldl (fun v k => if k = cur then v else v.reclaimSlot k) v
      { v with folding := true, foldDone := 0, foldTotal := n })
    let q := q.freePages r
    match q.newProgress 3 1 n with
    | some (pr, q) => q.updVer r (fun v => { v with progress := some pr })
    | none => q

/-- A manager command on a versioned region whose record is here (R37, R56).  Table POOL-12 gives no status where the record
is not here, or where a draft that PUBLISH or ABANDON names is not open: the model answers ACCESS_VIOLATION (DESIGN
CHOICE, log 177). -/
def Qf.versionOp (q : Qf) (m : MgrRef) (tenant : BitVec 16) (region : BitVec 32) (ok : Bool)
    (f : RegionId → Qf → Qf) : Qf :=
  q.mgr m 0x17 (inRange tenant 4096 && inRange region 1048576 && ok) (fun q =>
    let r : RegionId := fld region 0 20
    if !q.ver.recs.has r.toNat || q.recordHome (fld tenant 0 12) r != q.ownEp then q.complete m 0x17 .accessViolation
    else if (q.verRec r).lost then q.complete m 0x17 .uncorrectable
    else f r q)

/-- RESULT of a version operation: the version, and the slot above it (log 24). -/
def verResult (v : BitVec 64) (slot : Nat) : BitVec 128 := BitVec.ofNat 128 (v.toNat + slot * 2 ^ 64)

/-- OPEN_VERSION (R56). -/
def execOpenVersion (m : MgrRef) (tenant : BitVec 16) (region : BitVec 32) (s : State) : Out :=
  done (fun q => q.versionOp m tenant region true (fun r q =>
    let v := q.verRec r
    let k := v.currentSlot.toNat
    let q := q.updVer r (fun v => { v with readers := v.readers.set k ((v.readers[k]?).getD 0 + 1) })
    q.complete m 0x17 .ok none (verResult v.current k))) s

/-- CLOSE_VERSION (R56, R59). -/
def execCloseVersion (m : MgrRef) (tenant : BitVec 16) (region : BitVec 32) (slot : BitVec 8)
    (s : State) : Out :=
  done (fun q => q.versionOp m tenant region (inRange slot 4) (fun r q =>
    let v := q.verRec r
    let k := slot.toNat
    let n := (v.readers[k]?).getD 0
    if n = 0 then q.complete m 0x17 .accessViolation
    else
      let v := { v with readers := v.readers.set k (n - 1) }
      let v := if k != v.currentSlot.toNat && n = 1 then v.reclaimSlot k else v
      let q := (q.updVer r (fun _ => v)).freePages r
      (q.startFold r).complete m 0x17 .ok)) s

/-- Open a draft of the current version (R56, R59): none where all four are open.  A running fold pauses.  The address of
the draft's page map is a free value (log 177). -/
def Qf.openDraft (q : Qf) (r : RegionId) : Option (Nat × Qf) :=
  let v := q.verRec r
  let (a, q) := q.takeFree
  ((List.range 4).find? (fun d => !v.draftOpen.getLsbD d)).map (fun d =>
    (d, q.updVer r (fun v => { v with
      draftOpen := setBit v.draftOpen d true, draftBase := v.draftBase.set d v.current
      mapDraft := v.mapDraft.set d (fld a 0 46)
      maps := v.maps.set (4 + d) ((v.maps[v.currentSlot.toNat]?).getD []) })))

/-- Publish a draft as the version after the current one (R56): none where no slot is free. -/
def Qf.publishDraft (q : Qf) (r : RegionId) (d : Nat) : Option (Nat × Qf) :=
  let v := q.verRec r
  let next := v.current + 1
  ((List.range 4).find? v.slotFree).map (fun k =>
    let q := q.updVer r (fun v =>
      let v := v.reclaimSlot k
      { v with
        versions := v.versions.set k next, current := next
        slotValid := setBit v.slotValid k true, currentSlot := BitVec.ofNat 2 k
        readers := v.readers.set k 0
        maps := (v.maps.set k ((v.maps[4 + d]?).getD [])).set (4 + d) []
        mapSlot := v.mapSlot.set k ((v.mapDraft[d]?).getD 0), mapDraft := v.mapDraft.set d 0
        draftOpen := setBit v.draftOpen d false, draftBase := v.draftBase.set d 0 })
    (k, (q.freePages r).startFold r))

/-- Abandon a draft (R56). -/
def Qf.abandonDraft (q : Qf) (r : RegionId) (d : Nat) : Qf :=
  let q := q.updVer r (fun v => { v with
    draftOpen := setBit v.draftOpen d false, draftBase := v.draftBase.set d 0
    maps := v.maps.set (4 + d) [], mapDraft := v.mapDraft.set d 0 })
  (q.freePages r).startFold r

/-- OPEN_DRAFT (R56, R59). -/
def execOpenDraft (m : MgrRef) (tenant : BitVec 16) (region : BitVec 32) (s : State) : Out :=
  done (fun q => q.versionOp m tenant region true (fun r q =>
    match q.openDraft r with
    | none => q.complete m 0x17 .retry
    | some (d, q) => q.complete m 0x17 .ok none (verResult (q.verRec r).current d))) s

/-- PUBLISH (R56, R57). -/
def execPublish (m : MgrRef) (tenant : BitVec 16) (region : BitVec 32) (draft : BitVec 8)
    (expected : BitVec 64) (s : State) : Out :=
  done (fun q => q.versionOp m tenant region (inRange draft 4) (fun r q =>
    let v := q.verRec r
    if !v.draftOpen.getLsbD draft.toNat then q.complete m 0x17 .accessViolation
    else if v.current != expected then
      q.complete m 0x17 .versionConflict none (verResult v.current v.currentSlot.toNat)
    else match q.publishDraft r draft.toNat with
    | none => q.complete m 0x17 .retry
    | some (k, q) => q.complete m 0x17 .ok none (verResult (expected + 1) k))) s

/-- ABANDON (R56). -/
def execAbandon (m : MgrRef) (tenant : BitVec 16) (region : BitVec 32) (draft : BitVec 8)
    (s : State) : Out :=
  done (fun q => q.versionOp m tenant region (inRange draft 4) (fun r q =>
    if !(q.verRec r).draftOpen.getLsbD draft.toNat then q.complete m 0x17 .accessViolation
    else (q.abandonDraft r draft.toNat).complete m 0x17 .ok)) s

/-- The 64 lines of a page. -/
def pageLines (pg : BitVec 34) : List LineNo :=
  (List.range 64).map (fun i => pg ++ (BitVec.ofNat 6 i : BitVec 6))

/-- Whether any line of a page is blocked. -/
def Qf.pageBusy (q : Qf) (pg : BitVec 34) : Bool := (pageLines pg).any q.blocked

/-- One turn of a fold (R59): a copied page's map entry becomes 0, pages whose readers are done are freed, and the
next page is copied while the fold's conditions hold. -/
def Qf.foldTurn (q : Qf) (r : RegionId) : Qf :=
  let v := q.verRec r
  let q := match v.foldPage with
    | some (pg, w) =>
      if q.pageBusy (BitVec.ofNat 34 pg) then q
      else
        let q := q.updVer r (fun v => { v with
          maps := v.maps.map (fun (m : Tbl (BitVec 32)) => if m.get pg 0 = w then m.del pg else m)
          freeing := v.freeing ++ [w], foldPage := none, foldDone := v.foldDone + 1 })
        q.updProgress v.progress (fun p => { p with
          position := v.foldDone + 1, percent := (v.foldDone + 1) * 100 / max 1 v.foldTotal })
    | none => q
  let q := q.updVer r (fun v => { v with
    freeing := v.freeing.filter (fun w => q.pageBusy (w.zeroExtend 34)) })
  let q := q.freePages r
  let v := q.verRec r
  let cur := v.currentSlot.toNat
  let alone := (List.range 4).all (fun k => k = cur || v.slotFree k)
  if !v.folding || v.foldPage.isSome || v.draftOpen != 0 || !alone then q
  else match (v.maps[cur]?).getD [] with
    | [] =>
      let q := q.endProgress v.progress 1 0
      q.updVer r (fun v => { v with folding := false, progress := none })
    | (pg, w) :: _ =>
      let q := q.updVer r (fun v => { v with foldPage := some (pg, w) })
      let dst : BitVec 34 := BitVec.ofNat 34 pg
      let src : BitVec 34 := w.zeroExtend 34
      ((List.range 64).foldl (fun q i =>
        let o : BitVec 6 := BitVec.ofNat 6 i
        q.orderInternal { op := .copyFrom (src ++ o), line := dst ++ o }) q).settle

/-- FOLD_PAGE (R59): copies one copy-on-write page back and frees it once its last reader is done. -/
def execFoldPage (_tenant : Tenant) (region : RegionId) (s : State) : Out :=
  done (fun q => if q.running && q.ver.recs.has region.toNat then q.foldTurn region else q) s

/-! ### Shortage notices (R54, R369) -/

/-- A shortage notice reaches this edge. -/
def Qf.throttleNotice (q : Qf) (home : Ep) (short : Bool) (ts : List Tenant) : Qf :=
  let without := q.sched.policers.map (fun x =>
    (x.1, { x.2 with throttles := x.2.throttles.filter (fun y => y.1 != home) }))
  let q := { q with sched := { q.sched with policers := without } }
  if short then
    ts.foldl (fun q t => q.updPolicer t (fun p => { p with
      bucket := { p.bucket with
        tokens := p.bucket.at q.now (q.policeRate t), stamp := q.now }
      throttles := p.throttles ++ [(home, q.now + 10000000)] })) q
  else q

/-- THROTTLE (R369): the home's notice replaces its earlier one at this edge. -/
def execThrottle (home : Ep) (short : Bool) (tenants : List Tenant) (s : State) : Out :=
  done (fun q => if q.inService then q.throttleNotice home short tenants else q) s

/-- THROTTLE_RENEW (R54, R369): every 1 ms while short the home renews its notice. -/
def execThrottleRenew (s : State) : Out :=
  done (fun q => if q.inService && q.pool.short then q.notifyShort else q) s

/-- THROTTLE_LAPSE (R369): a notice not renewed for 10 ms lapses. -/
def execThrottleLapse (home : Ep) (s : State) : Out :=
  done (fun q =>
    let ps := q.sched.policers.map (fun x => (x.1,
      if x.2.throttles.any (fun y => y.1 = home && decide (y.2 ≤ q.now)) then
        { x.2 with
          bucket := { x.2.bucket with tokens := x.2.bucket.at q.now (q.policeRate (BitVec.ofNat 12 x.1))
                                      stamp := q.now }
          throttles := x.2.throttles.filter (fun y => !(y.1 = home && decide (y.2 ≤ q.now))) }
      else x.2))
    if q.running then { q with sched := { q.sched with policers := ps } } else q) s

/-! ### Skew guard (R65, R66) -/

/-- Whether a page has not been written for the skew hold time. -/
def Qf.quietPage (q : Qf) (pg : BitVec 34) : Bool :=
  match q.pool.pageWrites.find? pg.toNat with
  | some t => decide (t + q.pool.skewHold.toNat ≤ q.now)
  | none => true

/-- The lowest free place of the hot-page area (log 8). -/
def Qf.hotSlot (q : Qf) : Nat :=
  ((List.range (q.pool.hotPages.length + 1)).find? (fun k => !q.pool.hotPages.any (fun h => h.slot = k))).getD 0

/-- Start copying a sampled page into the hot-page area, in place of the least recently used (R65, R66). -/
def Qf.hotReplicate (q : Qf) (pg : BitVec 34) : Qf :=
  let e := q.extent (fld pg 16 18)
  if (q.hotPage pg).isSome || !q.quietPage pg || e.state != .assigned ||
      (q.pool.short && !q.smallPartition) then q
  else
    let q := if q.pool.hotPages.length < 2097152 then q
      else match q.pool.hotPages with
        | [] => q
        | h :: hs => q.dropHot (hs.foldl (fun a x => if x.lastUse < a.lastUse then x else a) h).page
    let q := { q with pool := { q.pool with
      hotPages := q.pool.hotPages ++ ([{ page := pg, slot := q.hotSlot, lastUse := q.now }] : List HotPage) } }
    (pageLines pg).foldl (fun q n => q.orderInternal { op := .hotCopy, line := n }) q

/-- SKEW_HOT (R65, R340): a resource becomes hot, with the lines sampled on it, or is hot no longer. -/
def execSkewHot (r : SkewResource) (hot : Bool) (lines : List LineNo) (s : State) : Out :=
  done (fun q => if !q.inService then q
    else
      let rest := q.pool.hot.filter (· != r)
      let smp := q.pool.sampled.filter (fun x => x.1 != r)
      if !hot then { q with pool := { q.pool with hot := rest, sampled := smp } }
      else
        let ls := lines.take 16
        let q := { q with pool := { q.pool with hot := rest ++ [r], sampled := smp ++ [(r, ls)] } }
        match r with
        | .egress _ _ => q
        | _ => ((ls.map linePage).eraseDups.foldl (fun q pg => q.hotReplicate pg) q).settle) s

/-- REPLICA_IDLE_DROP (R66): a replica unused for the replica idle time is dropped. -/
def execReplicaIdleDrop (page : BitVec 34) (s : State) : Out :=
  done (fun q => match q.hotPage page with
    | some h => if decide (h.lastUse + q.pool.skewIdle.toNat ≤ q.now) && q.running then q.dropHot page else q
    | none => q) s

/-! ### Map epochs (R61, R62, R346, R470) -/

/-- The previous epoch retires at this home: its moved slots become FREE (Table POOL-6). -/
def Qf.retireEpoch (q : Qf) : Qf :=
  let q := { q with part := { q.part with prevRetired := true, early := false } }
  (q.pool.extents.filter (fun x => x.2.state = .moved)).foldl (fun q x =>
    q.freeSlot (BitVec.ofNat 18 x.1)) q

/-- Requests stamped with an epoch that this home has ordered and not completed (R62). -/
def Qf.epochInFlight (q : Qf) (e : Epoch) : Bool :=
  let is (r : LineReq) : Bool := isClientOp r && r.pkt.mapEpoch = e
  q.home.lines.any (fun x => x.2.waiters.any is || (match x.2.txn with | some t => is t.req | none => false))

/-- EPOCH_RETIRE (R62): 1 ms after this home's advance. -/
def execEpochRetire (s : State) : Out :=
  done (fun q => if !q.part.prevRetired && decide (q.part.advancedAt + 1000000 ≤ q.now) && q.running then
    q.retireEpoch.settle else q) s

/-- EPOCH_RETIRE_EARLY (R62): RETIRE_EARLY is in force and no request of the previous epoch is in flight. -/
def execEpochRetireEarly (s : State) : Out :=
  done (fun q => if !q.part.prevRetired && q.part.early && !q.epochInFlight (q.part.epoch - 1) &&
    q.running then q.retireEpoch.settle else q) s

/-- Whether a host port answers: REDUCED has been entered and PERST_N of the port is high (R508); Squall does not stop the host
island (R489). -/
def Qf.hostOn (q : Qf) (port : Bool) : Bool := q.zenithOn && getPort q.host.ready port false

/-- Whether a BAR0 write through a port takes effect: the port is active; another's is dropped and
counted (R467). -/
def Qf.bar0Write (q : Qf) (port : Bool) (f : Qf → Qf) : Qf :=
  if !q.hostOn port then q
  else if q.host.active = some port then f q
  else { q with host := { q.host with dropped := q.host.dropped + 1 } }

/-- A host's write that acts in the sectors, which Squall stops (R489). -/
def Qf.sectorWrite (q : Qf) (port : Bool) (f : Qf → Qf) : Qf := q.bar0Write port (fun q => if q.dbg.squalled then q else f q)

/-- ADVANCE (R346, R470): a MAP_EPOCH_CURRENT write with ADVANCE. -/
def execAdvance (port : Bool) (value : BitVec 64) (s : State) : Out :=
  done (fun q => q.sectorWrite port (fun q =>
    let e : Epoch := fld value 0 16
    if !value.getLsbD 63 || e != q.part.epoch + 1 || q.sw.previous.isSome || !q.part.booted then q
    else
      let q := { q with
        pool := { q.pool with incoming := [] }
        part := { q.part with epoch := e, advancedAt := q.now, prevRetired := false, early := false }
        sw := { q.sw with
          previous := some q.sw.current, prevSince := q.now, current := { q.sw.pending with label := e }
          pending := { q.sw.pending with label := e + 1 } } }
      q.moveCutover.settle)) s

/-- RETIRE_EARLY (R62, R470): a MAP_EPOCH_CURRENT write with RETIRE_EARLY. -/
def execRetireEarly (port : Bool) (value : BitVec 64) (s : State) : Out :=
  done (fun q => q.sectorWrite port (fun q =>
    if value.getLsbD 63 || !value.getLsbD 61 || fld value 0 16 != q.part.epoch || q.part.prevRetired then q
    else { q with part := { q.part with early := true } })) s

end Sys2Proof.Machine
end

