-- ==== Sys2Proof/Machine/CopyEngine.lean ====
section
/-! DEFINITION. Machine/CopyEngine.lean: the copy engines (R124 to R146, R151, R152, R546): contexts, peer slots, the
retransmission store, rings, the progress of work requests and their completion. -/

namespace Sys2Proof.Machine

/-! ### Contexts and rings -/

/-- The number of a queue pair. -/
def qpnOf (n : QpKey) : Qpn := fld n 0 16
/-- The origin endpoint of a queue pair (R125). -/
def originOf (n : QpKey) : Ep := fld n 16 14
/-- A queue pair of this QF960's own making. -/
def Qf.ownPair (q : Qf) (n : Qpn) : QpKey := q.ownEp ++ n

/-- A queue pair. -/
def Qf.qp (q : Qf) (n : QpKey) : Qp := q.qps.qps.get n.toNat {}
/-- Whether a context is held for a queue pair. -/
def Qf.hasQp (q : Qf) (n : QpKey) : Bool := q.qps.qps.has n.toNat
/-- Change a queue pair. -/
def Qf.updQp (q : Qf) (n : QpKey) (f : Qp → Qp) : Qf :=
  { q with qps := { q.qps with qps := q.qps.qps.upd n.toNat {} f } }

/-- The queue pairs held here that have a number, this QF960's own first. -/
def Qf.pairs (q : Qf) (n : Qpn) : List QpKey :=
  let ks := (q.qps.qps.map (fun x => (BitVec.ofNat 30 x.1 : QpKey))).filter (fun k => qpnOf k = n)
  ks.filter (fun k => k = q.ownPair n) ++ ks.filter (fun k => k != q.ownPair n)

/-- The queue pair that a bare number names: the first held here that a test picks, else this QF960's own (DESIGN CHOICE,
log 184). -/
def Qf.pairOf (q : Qf) (n : Qpn) (ok : Qp → Bool) : QpKey := ((q.pairs n).find? (fun k => ok (q.qp k))).getD (q.ownPair n)

/-- The sector of a queue pair (R19). -/
def qpSector (n : QpKey) : Sector := fld n 0 3
/-- The copy engine of a queue pair: sector and engine in it (R19). -/
def engineOf (n : QpKey) : BitVec 7 := fld n 0 7
/-- The source stream of a queue pair (Table ORDER-1). -/
def qpStream (n : QpKey) : Stream := (0 : BitVec 2) ++ qpnOf n
/-- The QP header of a packet of a queue pair (R125, R150), but for its PSN. -/
def Qf.qpHdr (q : Qf) (n : QpKey) : QpHdr := { originEp := originOf n, qpn := qpnOf n, ownEpoch := (q.qp n).ctx.ownEpoch }

/-- The queue pairs of a copy engine (R19, R124). -/
def Qf.engineQps (q : Qf) (n : QpKey) : List (Nat × Qp) :=
  let qs : List (Nat × Qp) := q.qps.qps
  qs.filter (fun x => x.1 % 128 = n.toNat % 128)

/-- Entries of the work ring. -/
def QpCtx.sqSize (c : QpCtx) : Nat := 2 ^ (c.sqLog2.toNat + 6)
/-- Entries of the completion ring. -/
def QpCtx.cqSize (c : QpCtx) : Nat := 2 ^ (c.cqLog2.toNat + 6)
/-- Address of a work ring entry. -/
def QpCtx.sqAddr (c : QpCtx) (i : BitVec 16) : BitVec 60 :=
  c.sqBase.zeroExtend 60 + BitVec.ofNat 60 (64 * (i.toNat % c.sqSize))
/-- Address of a completion ring entry. -/
def QpCtx.cqAddr (c : QpCtx) (i : BitVec 16) : BitVec 60 :=
  c.cqBase.zeroExtend 60 + BitVec.ofNat 60 (32 * (i.toNat % c.cqSize))
/-- Address of COMPLETION_COUNT. -/
def QpCtx.countAddr (c : QpCtx) : BitVec 60 := c.cqBase.zeroExtend 60 + BitVec.ofNat 60 (32 * c.cqSize)

/-- The completion ring is full (R131). -/
def Qp.cqFull (x : Qp) : Bool :=
  decide (min x.ctx.cqSize 65535 ≤ (x.ctx.cqProducer - x.cqConsumer).toNat)

/-- Use a context: it is cached, and a miss counted, with the least recently used idle one of its sector
evicted where 512 are (R125). -/
def Qf.touchQp (q : Qf) (n : QpKey) : Qf :=
  let seq := q.qps.useSeq + 1
  let miss := !(q.qp n).cached
  let q := { q with qps := { q.qps with useSeq := seq, ctxMisses := q.qps.ctxMisses + b2n miss } }
  let q := q.updQp n (fun x => { x with cached := true, lastUse := seq })
  let mates : List (Nat × Qp) := q.qps.qps.filter (fun x => x.2.cached && x.1 % 8 = n.toNat % 8)
  if mates.length ≤ 512 then q
  else match mates.filter (fun x => x.2.peers.all (fun p => p.unacked = 0)) with
    | [] => q
    | m :: ms =>
      let lru := ms.foldl (fun a x => if x.2.lastUse < a.2.lastUse then x else a) m
      q.updQp (BitVec.ofNat 30 lru.1) (fun x => { x with cached := false })

/-! ### Work requests in flight -/

/-- Change a started work request. -/
def Qp.updWr (x : Qp) (i : BitVec 16) (f : WorkReq → WorkReq) : Qp :=
  { x with work := updFirst (fun w => w.index = i) f x.work }
/-- Change a started work request of a queue pair. -/
def Qf.updWr (q : Qf) (n : QpKey) (i : BitVec 16) (f : WorkReq → WorkReq) : Qf :=
  q.updQp n (fun x => x.updWr i f)
/-- A started work request. -/
def Qp.wrOf (x : Qp) (i : BitVec 16) : Option WorkReq := x.work.find? (fun w => w.index = i)

/-- The opcode of a started work request (Table COPY-5, R187). -/
def WorkReq.op (w : WorkReq) : Nat := (Wr.opcode w.wr).toNat
/-- Nothing of a work request is outstanding. -/
def WorkReq.quiet (w : WorkReq) : Bool := w.unresolved = 0 && w.todo = [] && w.reading = []
/-- Work requests that write the pool: WRITE, COPY, ATOMIC, PENNANT_WRITE and RUN_PIPELINE. -/
def WorkReq.writes (w : WorkReq) : Bool :=
  w.op = 1 || w.op = 3 || w.op = 4 || w.op = 5 || w.op = 0x20

/-- A work request that a copy engine has in hand; a pipeline is the gather engine's (R187). -/
def WorkReq.inEngine (w : WorkReq) : Bool := w.final.isNone && w.op != 0x20 && !(w.reported && w.quiet)

/-- A packet of a queue pair's own making (R124, R133). -/
def Qf.enginePkt (q : Qf) (n : QpKey) (w : BitVec 512) (op : BitVec 8) (a : BitVec 60) (tag : Tag) : Packet :=
  let c := (q.qp n).ctx
  let pol := q.policer c.tenant
  { opcode := op, vc := (vcOf op).getD 0, partitionId := q.part.id, srcEp := q.ownEp, tenant := c.tenant
    tc := BitVec.ofNat 3 (min pol.engineTc.toNat pol.maxTc.toNat), world := c.world, stream := qpStream n
    tag, addr := a, acquire := Wr.acquire w, release := Wr.release w
    relaxed := Wr.relaxed w && (op = Opc.rdNc || op = Opc.rdBulk) }

/-- Take the next transaction tag of the edge. -/
def Qf.takeTag (q : Qf) : Tag × Qf :=
  (q.edge.nextTag, { q with edge := { q.edge with nextTag := q.edge.nextTag + 1 } })

/-- Whether a packet is of a queue pair of the same engine. -/
def sameEngine (n : QpKey) (p : Packet) : Bool :=
  fld p.stream 16 2 = (0 : BitVec 2) && fld p.stream 0 7 = engineOf n

/-- Requests of a queue pair's engine that it has issued and that are not resolved: in flight, or held at the edge. -/
def Qf.engineOpen (q : Qf) (n : QpKey) : List Packet :=
  ((q.edge.reqs.filter (fun r => r.src = q.ownEp)).map OpenReq.sent ++
    ((q.edge.heldByHazard ++ q.sched.held).filter (fun h => h.orig.srcEp = q.ownEp)).map HeldReq.sent).filter (sameEngine n)

/-- A request marked ACQUIRE of the engine has not returned: it issues no read or write (R78). -/
def Qf.acquiring (q : Qf) (n : QpKey) : Bool := (q.engineOpen n).any (fun p => p.acquire)

/-- Tags of the writes of an engine that are not placed: issued, and in line behind them (R77). -/
def Qf.engineWrites (q : Qf) (n : QpKey) : List Tag :=
  ((q.engineOpen n).filter (fun p => countsInStream p.opcode)).map Packet.tag ++
  (q.engineQps n).flatMap (fun x => ((x.2.outbox ++ x.2.ringOut).filter (fun s => countsInStream s.pkt.opcode)).map SentPkt.tag)

/-- Tags of the writes that a RELEASE of a work request waits for: what the engine has issued, its ring writes in line, and what
work requests up to its own have in line (R77). -/
def Qf.writesBefore (q : Qf) (n : QpKey) (seq : Nat) : List Tag :=
  ((q.engineOpen n).filter (fun p => countsInStream p.opcode)).map Packet.tag ++
  (q.engineQps n).flatMap (fun x =>
    ((x.2.outbox.filter (fun s => s.seq ≤ seq) ++ x.2.ringOut).filter (fun s => countsInStream s.pkt.opcode)).map SentPkt.tag)

/-- Whether a WRITE or COPY that the engine started before a work request has still bytes to place (R77). -/
def Qf.earlierWrite (q : Qf) (n : QpKey) (seq : Nat) : Bool :=
  (q.engineQps n).any (fun x => x.2.work.any (fun w => (w.op = 1 || w.op = 3) && decide (w.seq < seq) && !w.quiet))

/-- Put a packet of a work request in line to be sent, behind those of the work requests up to it. -/
def Qf.pushPkt (q : Qf) (n : QpKey) (s : SentPkt) : Qf :=
  let seq := (((q.qp n).wrOf s.wr).map WorkReq.seq).getD 0
  let s := { s with tag := s.pkt.tag, seq, after := if s.pkt.release then q.writesBefore n seq else [] }
  q.updQp n (fun x => { (x.updWr s.wr (fun w => { w with unresolved := w.unresolved + 1 })) with
    outbox := x.outbox.takeWhile (fun y => y.seq ≤ seq) ++ [s] ++ x.outbox.dropWhile (fun y => y.seq ≤ seq) })

/-- Every write that a RELEASE waits for is placed (R77). -/
def Qf.released (q : Qf) (n : QpKey) (s : SentPkt) : Bool :=
  !s.pkt.release ||
    (let open_ := q.engineWrites n; s.after.all (fun t => !open_.contains t)) && !q.earlierWrite n s.seq

/-- A sent packet is resolved: its place in its peer slot and the store is free, and its message counts it. -/
def Qf.qpResolve (q : Qf) (n : QpKey) (s : SentPkt) : Qf :=
  let isIt (y : SentPkt) : Bool := y.tag = s.tag
  let bytes := if isWrite s.pkt.opcode then s.len else 0
  let left := fun (m : BitVec 24 × Ep × Nat) =>
    if s.pkt.msg.any (fun h => h.msgId = m.1) then (m.1, m.2.1, m.2.2 - bytes) else m
  let msgs (w : WorkReq) : List (BitVec 24 × Ep × Nat) := (w.msgs.map left).filter (fun m => m.2.2 != 0)
  let closed : Option (BitVec 24) := s.pkt.msg.bind (fun h =>
    if ((q.qp n).wrOf s.wr).any (fun w => (msgs w).any (fun m => m.1 = h.msgId)) then none else some h.msgId)
  let q := q.updQp n (fun x => { (x.updWr s.wr (fun w => { w with
      unresolved := w.unresolved - 1, msgs := msgs w, retransmits := max w.retransmits s.tries })) with
    store := dropFirst isIt x.store
    peers := if s.bare || s.stale then x.peers else updFirst (fun z => z.peer = s.peer) (fun z => { z with
      unacked := z.unacked - 1, atomicOut := z.atomicOut && s.pkt.opcode != Opc.atomic }) x.peers
    cancels := (x.cancels.map (fun c => if c.peer = s.peer then
      { c with psns := c.psns.filter (· != s.psn) } else c)).filter (fun c => c.psns != []) })
  match closed with
  | some id => { q with edge := { q.edge with openMsgs := q.edge.openMsgs.filter (fun x => x.1 != id) } }
  | none => q

/-- Packets of a queue pair that have not left the edge are taken back: they are resolved (R143, R151). -/
def Qf.takeBack (q : Qf) (n : QpKey) (pick : SentPkt → Bool) : Qf :=
  let mine := (q.qp n).store.filter (fun s => pick s && (q.edge.heldByHazard ++ q.sched.held).any (fun h =>
    h.orig.srcEp = q.ownEp && h.sent.tag = s.tag))
  let q := q.dropHeld (fun h => h.orig.srcEp = q.ownEp && mine.any (fun s => s.tag = h.sent.tag))
  mine.foldl (fun q s => q.qpResolve n s) q

/-! ### Failure (R137, R143, R144) -/

/-- Whether an owner's lease has lapsed, so that it sends no packet (R148). -/
def Qf.leaseOver (q : Qf) (n : QpKey) : Bool := originOf n != q.ownEp && decide ((q.qp n).leaseEnd ≤ q.now)

/-- Send a CANCEL, and keep it until every PSN that it lists is answered (R93, R546). -/
def Qf.putCancel (q : Qf) (n : QpKey) (c : CancelRec) : Qf :=
  let (tag, q) := q.takeTag
  let p : Packet := { (q.enginePkt n 0 Opc.cancel 0 tag) with
    destEp := c.peer, mapEpoch := q.part.epoch, msg := c.msg, qp := if c.psns = [] then none else some (q.qpHdr n)
    payload := c.psns.flatMap (fun x => bytesOf 4 x) }
  let q := if q.leaseOver n then q else q.send (.unit (qpSector n)) p
  let new : CancelRec := { c with tag, ackAt := q.ackTime, resendAt := none, noRoute := false }
  if c.psns = [] then q else q.updQp n (fun x => { x with cancels := x.cancels ++ [new] })

/-- Send CANCEL for a message, and for PSNs, to a home (R93, R546). -/
def Qf.sendCancel (q : Qf) (n : QpKey) (peer : Ep) (wr : BitVec 16) (m : Option MsgHdr) (psns : List Psn) : Qf :=
  q.putCancel n { peer, wr, msg := m, psns }

/-- CANCEL every open message of a work request. -/
def Qf.cancelMsgs (q : Qf) (n : QpKey) (w : WorkReq) : Qf :=
  w.msgs.foldl (fun q m => q.sendCancel n m.2.1 w.index (some { msgId := m.1 }) []) q

/-- Answer an abort on the ring, and to the manager where it asked (R151). -/
def Qf.abortAnswer (q : Qf) (n : QpKey) (i : BitVec 16) (m : Option MgrRef) (st : Status) : Qf :=
  let e := copyCompletion st.code 0x0F (qpnOf n) i false 0 false 0 0
  let q := q.updQp n (fun x => { x with waitingCpl := x.waitingCpl ++ [e] })
  match m with | some m => q.complete m 0x33 st | none => q

/-! ### Pipelines that stop (R201, R211, R212) -/

/-- Whether a job is that of a work request. -/
def PipeJob.is (j : PipeJob) (n : QpKey) (i : BitVec 16) : Bool := j.pair = n && j.wrIndex = i
/-- The pipeline of a work request. -/
def Qf.job (q : Qf) (n : QpKey) (i : BitVec 16) : Option PipeJob := q.eng.jobs.find? (fun j => j.is n i)
/-- Change a pipeline. -/
def Qf.updJob (q : Qf) (n : QpKey) (i : BitVec 16) (f : PipeJob → PipeJob) : Qf :=
  { q with eng := { q.eng with jobs := updFirst (fun j => j.is n i) f q.eng.jobs } }

/-- The primaries' reads and queries of a pipeline that are outstanding: they are sampled when they return (R201, R238). -/
def PipeJob.lateReads (j : PipeJob) : List LateRead :=
  (j.reads.filter (fun r => r.shard.isSome && !r.backup)).map (fun r =>
    { pair := j.pair, wrIndex := j.wrIndex, sector := j.sector, read := r })

/-- A pipeline waits for none of its reads any more. -/
def Qf.endReads (q : Qf) (n : QpKey) (i : BitVec 16) : Qf :=
  let late := ((q.job n i).map PipeJob.lateReads).getD []
  { q with eng := { q.eng with late := q.eng.late ++ late } }.updJob n i (fun j => { j with reads := [], stalled := false })

/-- The SELECT stages of a pipeline that stops while its stages run complete with its status: they are counted (Table MATX-8). -/
def PipeJob.selects (j : PipeJob) : Nat :=
  if j.phase = .running then ((j.desc.drop 1).filter (fun d => Stage.kind d = 5)).length else 0

/-- Count the SELECT stages of pipelines that stop (Table MATX-8). -/
def Qf.countSelects (q : Qf) (js : List PipeJob) : Qf :=
  { q with eng := { q.eng with mSelects := q.eng.mSelects + (js.map PipeJob.selects).sum } }

/-- A pipeline leaves its sector. -/
def Qf.dropJob (q : Qf) (n : QpKey) (i : BitVec 16) : Qf :=
  let q := (q.countSelects (q.job n i).toList).endReads n i
  { q with eng := { q.eng with jobs := dropFirst (fun j => j.is n i) q.eng.jobs } }

/-- A pipeline stops with a report; its work request is not over before its record is written (R211, R212). -/
def Qf.stopPipe (q : Qf) (n : QpKey) (i : BitVec 16) (r : PipeReport) : Qf :=
  (((q.countSelects (q.job n i).toList).endReads n i).updJob n i (fun j => { j with phase := .stopped, report := r })).updWr n i (fun w =>
    { w with unresolved := w.unresolved + 1 })

/-- A pipeline's stage fails with a status: every stage stops (R211), unless the pipeline has stopped already. -/
def Qf.pipeStops (q : Qf) (n : QpKey) (i : BitVec 16) (r : PipeReport) : Qf :=
  match q.job n i, (q.qp n).wrOf i with
  | some j, some w =>
    if j.phase = .stopped || j.phase = .record then q
    else if (q.qp n).ctx.state != .ready || w.final.isSome || w.done then q.dropJob n i
    else q.stopPipe n i r
  | _, _ => q.dropJob n i

/-- The stage that a pipeline's write is for; a snapshot's goes by its stage and shard (R222). -/
def writeStage (k : Nat) : Nat := if k < 16 then k else (k - 16) / 256

/-- The counts of a stage that has ended (R210). -/
def PipeJob.countsOf (j : PipeJob) (stage : Nat) : Nat × Nat := j.counts.getD stage (0, 0)

/-- The report of a pipeline whose write for a stage fails (R210). -/
def PipeJob.writeFail (j : PipeJob) (k : Nat) (st : BitVec 8) : PipeReport :=
  let s := writeStage k
  { status := st, stage := s, rowsOut := (j.countsOf s).1, rowsIn := (j.countsOf s).2 }

/-- The pipelines of a queue pair stop, but for one that has failed itself and has its record to write (R211). -/
def Qf.dropPipes (q : Qf) (n : QpKey) : Qf :=
  let own (j : PipeJob) : Bool := (j.phase = .stopped || j.phase = .record) && j.report.status != 0 &&
    j.report.status != Status.partialResult.code
  let out (j : PipeJob) : Bool := j.pair = n && !own j
  let q := q.countSelects (q.eng.jobs.filter out)
  { q with eng := { q.eng with
    late := q.eng.late ++ (q.eng.jobs.filter out).flatMap PipeJob.lateReads
    jobs := q.eng.jobs.filter (fun j => !out j) } }

/-- Packets of a work request that wait in line. -/
def Qp.unsent (x : Qp) (i : BitVec 16) : Nat := (x.outbox.filter (fun s => s.wr = i)).length

/-- A queue pair enters ERROR with a status (R143): what is posted and not complete is flushed, earlier work requests than the
failing one among it (DESIGN CHOICE, log 185), nothing more is sent, and every open message cancelled. -/
def Qf.qpError (q : Qf) (n : QpKey) (st : BitVec 8) : Qf :=
  if (q.qp n).ctx.state != .ready then q
  else
    let q := ((q.qp n).work.foldl (fun q w => q.cancelMsgs n w) (q.dropPipes n)).takeBack n (fun _ => true)
    let x := q.qp n
    let flush (w : WorkReq) : WorkReq :=
      let w := { w with todo := [], reading := [], msgs := [], unresolved := w.unresolved - x.unsent w.index
                        aborting := none }
      if w.done || w.final.isSome then w
      else { w with final := some Status.flushed.code }
    let q := (x.work.filter (fun w => !w.done)).foldl (fun q w => match w.aborting with
      | some m => q.abortAnswer n w.index m .flushed
      | none => q) q
    let q := q.updQp n (fun x => { x with
      ctx := { x.ctx with state := .error, firstFail := st, sqConsumer := x.ctx.sqConsumer + (if x.fetched.isSome then 1 else 0) }
      work := x.work.map flush ++ x.fetched.toList.map (fun w =>
        { index := x.ctx.sqConsumer, wr := w, seq := q.qps.useSeq, final := some Status.flushed.code })
      fetched := none, outbox := [], wait := none })
    if x.ctx.msixEnable then q.msix x.ctx.msixVector.toNat else q

/-- A write of a work request will never be placed: no FLUSH behind it completes OK, but with that status (R133, R136; DESIGN
CHOICE, log 182). -/
def Qp.breakWrites (x : Qp) (i : BitVec 16) (st : BitVec 8) : Qp :=
  let fail (w : WorkReq) : WorkReq := if w.op = 7 && !w.done && w.final.isNone then { w with final := some st } else w
  { x with
    broken := if x.broken = 0 then st else x.broken
    work := x.work.takeWhile (fun w => w.index != i) ++ (x.work.dropWhile (fun w => w.index != i)).map fail }

/-- A work request fails with a status, from a packet at an address (R137, R143, R144). -/
def Qf.wrFail (q : Qf) (n : QpKey) (i : BitVec 16) (st : BitVec 8) (atEdge : Bool) (a : BitVec 60) (psn : Psn) : Qf :=
  let x := q.qp n
  let live := x.ctx.state = .ready || x.ctx.state = .error
  match x.wrOf i with
  | none => q
  | some w =>
    if !live || w.aborting.isSome || (w.done && (w.late || w.status != 0)) ||
        (!w.done && (w.final.isSome || x.ctx.state = .error)) then q
    else
      let soft := x.ctx.priv && st = Status.accessViolation.code
      let q := if soft && atEdge then
          q.violation a x.ctx.world x.ctx.originEp (qpnOf n) psn false x.ctx.tenant else q
      let q := if w.writes then q.updQp n (fun x => x.breakWrites i st) else q
      if w.done then
        let e := copyCompletion st (Wr.opcode w.wr) (qpnOf n) i true w.retransmits false w.placed w.result
        let q := (q.updWr n i (fun w => { w with late := true, status := st })).updQp n (fun x =>
          { x with waitingCpl := x.waitingCpl ++ [e] })
        if soft then q else q.qpError n st
      else if soft then
        let q := q.cancelMsgs n w
        q.updQp n (fun x => { (x.updWr i (fun w => { w with
            final := some st, todo := [], reading := [], msgs := [], unresolved := w.unresolved - x.unsent i })) with
          outbox := x.outbox.filter (fun s => s.wr != i)
          wait := x.wait.filter (fun e => e.wr != i) })
      else (q.updWr n i (fun w => { w with final := some st })).qpError n st

/-! ### Sending (R124, R126, R127, R136) -/

/-- Bytes in the retransmission store of a queue pair's engine. -/
def Qf.storeBytes (q : Qf) (n : QpKey) : Nat :=
  (q.engineQps n).foldl (fun a x => a + x.2.store.foldl (fun b s => b + s.len) 0) 0

/-- Whether an engine's store has no room for a packet of some bytes: it sends no new one (R136). -/
def Qf.storeFull (q : Qf) (n : QpKey) (len : Nat) : Bool :=
  decide (524288 ≤ q.storeBytes n) || decide (524288 < q.storeBytes n + len)

/-- Whether a packet opens one message more than a source may have open (R349). -/
def Qf.msgWaits (q : Qf) (p : Packet) : Bool :=
  match p.msg with
  | none => false
  | some m => !q.edge.openMsgs.any (fun x => x.1 = m.msgId) &&
      decide (131072 ≤ (q.edge.openMsgs.filter (fun x => msgSector x.1 = msgSector m.msgId)).length)

/-- Record that a packet opens its message at the source. -/
def Qf.noteMsg (q : Qf) (p : Packet) (home : Ep) : Qf :=
  match p.msg with
  | none => q
  | some m => if q.edge.openMsgs.any (fun x => x.1 = m.msgId) || !isWrite p.opcode then q
      else { q with edge := { q.edge with openMsgs := q.edge.openMsgs ++ [(m.msgId, home)] } }

/-- The copy engine sends a packet: its payload bytes are billed to the queue pair's tenant, at every sending (R433; DEDUCED,
log 197).  A pipeline's outputs are the gather engine's. -/
def Qf.copied (q : Qf) (n : QpKey) (o : Owner) (d : Option Packet) : Qf :=
  match o with
  | .pipeWrite _ _ _ => q
  | _ => q.meter (qpSector n) (q.qp n).ctx.tenant 2 ((d.map (fun p => p.payload.length)).getD 0)

/-- Keep a packet in the retransmission store (R136). -/
def Qf.keep (q : Qf) (n : QpKey) (s : SentPkt) : Qf := q.updQp n (fun x => { x with store := x.store ++ [s] })

/-- Send a packet that bears no PSN: a window access, already addressed, or a request by PVA. -/
def Qf.sendBare (q : Qf) (n : QpKey) (s : SentPkt) : Except Status Qf :=
  let u := Ingress.unit (qpSector n)
  if s.window then
    let q := q.copied n s.owner s.data
    let p := { s.pkt with destEp := (q.qp n).ctx.boundEp, mapEpoch := q.part.epoch }
    let new : OpenReq := { src := q.ownEp, tag := p.tag, ing := u, owner := s.owner, orig := p, sent := p
                           sentAt := q.now, data := s.data, retried := true, ackAt := q.ackTime }
    let q := ({ q with edge := { q.edge with reqs := q.edge.reqs ++ [new] } }).keep n s
    let q := q.send u p
    .ok (match s.data with | some d => q.send u (dataFor p d) | none => q)
  else
    match q.edgeCheck u s.pkt s.data with
    | (.error st, _) => .error st
    | (.ok p, q) =>
      let q := q.copied n s.owner s.data
      let q := match s.owner with | .qpWait _ _ => q | _ => q.keep n s
      .ok (q.submit { ing := u, owner := s.owner, orig := s.pkt, sent := p, data := s.data })

/-- The peer slot of a home gives a packet its next PSN (R126, R138). -/
def Qf.takePsn (q : Qf) (n : QpKey) (peer : Ep) (atomic : Bool) (wr : BitVec 16) : QpHdr × Qf :=
  let slot := ((q.qp n).peers.find? (fun z => z.peer = peer)).getD {}
  let first (w : WorkReq) : WorkReq := if w.firstPsn.any (fun f => f.1 = peer) then w
    else { w with firstPsn := w.firstPsn ++ [(peer, slot.nextPsn)] }
  ({ (q.qpHdr n) with psn := slot.nextPsn },
   q.updQp n (fun x => { (x.updWr wr first) with
    peers := updFirst (fun z => z.peer = peer) (fun z => { z with
      nextPsn := z.nextPsn + 1, unacked := z.unacked + 1, atomicOut := z.atomicOut || atomic }) x.peers }))

/-- Send a checked packet under the next PSN of its peer slot. -/
def Qf.sendPsn (q : Qf) (n : QpKey) (s : SentPkt) (p : Packet) : Qf :=
  let (h, q) := (q.copied n s.owner s.data).takePsn n p.destEp (p.opcode = Opc.atomic) s.wr
  let orig := { s.pkt with qp := some h }
  let q := (q.keep n { s with pkt := orig, peer := p.destEp, psn := h.psn }).noteMsg orig p.destEp
  q.submit { ing := .unit (qpSector n), owner := s.owner, orig, sent := { p with qp := some h }, data := s.data }

/-- Take the front packet of a queue pair's outbox. -/
def Qf.popOut (q : Qf) (n : QpKey) : Qf := q.updQp n (fun x => { x with outbox := x.outbox.drop 1 })

/-- The front packet of the outbox is refused: it is resolved, and its work request fails.  A write or an atomic leaves its
stream's first failure (R82). -/
def Qf.refuseOut (q : Qf) (n : QpKey) (s : SentPkt) (st : BitVec 8) : Qf :=
  let q := if countsInStream s.pkt.opcode then q.recordFail (.unit (qpSector n)) q.ownEp s.pkt.stream st else q
  let q := match s.owner, q.job n s.wr with
    | .pipeWrite _ i k, some j => q.pipeStops n i (j.writeFail k st)
    | _, _ => q
  ((q.popOut n).updWr n s.wr (fun w => { w with unresolved := w.unresolved - 1 })).wrFail n s.wr st true s.pkt.addr 0

/-- Whether an earlier work request of a queue pair has still a packet to put in line for a home.  PSNs go by the order of the
work requests, so that a replay gives every packet its own again (R149). -/
def Qf.homeOwed (q : Qf) (n : QpKey) (seq : Nat) (home : Ep) : Bool :=
  let c := (q.qp n).ctx
  let at_ (a : BitVec 64) : Bool := q.homeAt (qpSector n) c.tenant c.world (fld a 0 60) = home
  (q.qp n).work.any (fun w => decide (w.seq < seq) && w.final.isNone && w.aborting.isNone &&
    (((w.op = 1 || w.op = 3) && w.reading.any (fun z => at_ z.1.dst)) ||
     (w.op = 5 && w.todo != [] && at_ (PennantRec.ofBits (Wr.payload w.wr)).flagAddr)))

/-- Whether a peer slot, or a free place for one, lets a packet go to a home now (R126, R127). -/
def Qp.slotFree (x : Qp) (home : Ep) (atomic : Bool) : Bool :=
  match x.peers.find? (fun z => z.peer = home) with
  | some z => !z.closing && decide (z.unacked < 256) && !(atomic && x.peers.any (fun z => z.atomicOut))
  | none => decide (x.peers.length < 8) && !(atomic && x.peers.any (fun z => z.atomicOut))

/-- A peer slot for a home is open. -/
def Qf.openSlot (q : Qf) (n : QpKey) (home : Ep) : Qf :=
  if (q.qp n).peers.any (fun z => z.peer = home) then q
  else q.updQp n (fun x => { x with peers := x.peers ++ ([{ peer := home }] : List PeerSlot) })

/-- The front packet of a queue pair's line goes out or is refused; none where it has to wait.  A Pennant waits for the writes
and atomics of its stream, and behind a failed one it fails with that status (R81, R82). -/
def Qf.sendFront (q : Qf) (n : QpKey) : Option Qf :=
  let x := q.qp n
  match x.outbox with
  | [] => none
  | s :: _ =>
    if x.ctx.state != .ready || !q.released n s || q.leaseOver n || q.msgWaits s.pkt || q.acquiring n ||
        q.storeFull n s.len then none
    else if s.bare then
      some (match (q.popOut n).sendBare n s with
        | .ok q => q
        | .error st => q.refuseOut n s st.code)
    else
      match q.edgeCheck (.unit (qpSector n)) s.pkt s.data with
      | (.error st, q) => some (q.refuseOut n s st.code)
      | (.ok p, q) =>
        let r := q.stream q.ownEp p.stream
        let pennant := decide (p.opcode = Opc.pennant)
        if q.homeOwed n s.seq p.destEp || (pennant && r.placed < r.issued) then none
        else if pennant && r.fail != 0 then some (q.refuseOut n s r.fail)
        else if x.slotFree p.destEp (p.opcode = Opc.atomic) then some (((q.popOut n).openSlot n p.destEp).sendPsn n s p)
        else none

/-- What a packet costs its queue pair in the engine's round robin: the bytes that it moves (R124). -/
def SentPkt.cost (s : SentPkt) : Nat := match s.owner with | .qpData _ _ _ len => len | _ => s.len

/-- The queue pair whose turn it is goes on while its deficit lasts, or another takes its turn with a quantum of 4,096 bytes more
(R124); none where nothing can be sent. -/
def Qf.sendOf (q : Qf) (n : QpKey) (quantum : Nat) : Option Qf :=
  let x := q.qp n
  let cost := (x.outbox.head?.map SentPkt.cost).getD 0
  let d := x.deficit + quantum
  if d < cost then none
  else (q.sendFront n).map (fun q =>
    let q := q.updQp n (fun x => { x with deficit := if x.outbox = [] then 0 else min 4096 (d - cost) })
    { q with qps := { q.qps with turns := q.qps.turns.set (engineOf n).toNat n } })

/-- An engine sends what its queue pairs may send now, by deficit round robin (R124). -/
def Qf.serveEngine : Nat → QpKey → Qf → Qf
  | 0, _, q => q
  | k + 1, n, q =>
    let ks := ((q.engineQps n).filter (fun x => x.2.outbox != [])).map (fun x => (BitVec.ofNat 30 x.1 : QpKey))
    let sent : Option Qf := match q.qps.turns.find? (engineOf n).toNat with
      | none => ks.findSome? (fun m => q.sendOf m 4096)
      | some t => (q.sendOf t 0).or ((ks.filter (fun m => t < m) ++ ks.filter (fun m => m ≤ t)).findSome? (fun m => q.sendOf m 4096))
    match sent with
    | some q => Qf.serveEngine k n q
    | none => q

/-- A queue pair's engine sends what it may (R124). -/
def Qf.pumpOut (q : Qf) (n : QpKey) : Qf :=
  q.serveEngine ((q.engineQps n).foldl (fun a x => a + x.2.outbox.length) 1) n

/-- Whether an engine may not access a queue pair's rings now: after a RELEASE by ownership or past its lease (R142, R148), behind
an ACQUIRE (R78), or with its store full (R136). -/
def Qf.ringHeld (q : Qf) (n : QpKey) : Bool :=
  let st := (q.qp n).ctx.state
  !(st = .ready || st = .error) || q.leaseOver n || q.acquiring n || q.storeFull n 0

/-- Send the ring writes whose turn has come (R129, R134). -/
def Qf.pumpRing : Nat → QpKey → Qf → Qf
  | 0, _, q => q
  | k + 1, n, q =>
    match (q.qp n).ringOut with
    | [] => q
    | s :: rest =>
      if q.ringHeld n || !q.released n s then q
      else
        let q := q.updQp n (fun x => { x with ringOut := rest })
        match q.edgeCheck (.unit (qpSector n)) s.pkt s.data with
        | (.error st, q) => (q.updQp n (fun x => { x with ringDead := true })).qpError n st.code
        | (.ok p, q) =>
          let r : HeldReq := { ing := .unit (qpSector n), owner := .qpRing n, orig := s.pkt, sent := p, data := s.data }
          Qf.pumpRing k n ((q.copied n s.owner s.data).submit r)

/-! ### Completions (R133 to R135) -/

/-- Write bytes of a ring with RELEASE, after every earlier write of the engine. -/
def Qf.ringWrite (q : Qf) (n : QpKey) (a : BitVec 60) (bs : List Byte) : Qf :=
  let (tag, q) := q.takeTag
  let p := { (q.enginePkt n 0 Opc.wrNc a tag) with release := true }
  let d : Packet := { opcode := Opc.dataWrite, vc := 3, payload := bs }
  let after := ((q.engineOpen n).filter (fun p => countsInStream p.opcode)).map Packet.tag ++
    (q.engineQps n).flatMap (fun x => x.2.ringOut.map SentPkt.tag)
  let s : SentPkt := { tag, pkt := p, data := some d, owner := .qpRing n, after }
  q.updQp n (fun x => { x with ringOut := x.ringOut ++ [s] })

/-- A completion entry takes its place in the ring (R135). -/
def Qp.nextCpl (x : Qp) : Qp := { x with cqTotal := x.cqTotal + 1, ctx := { x.ctx with cqProducer := x.ctx.cqProducer + 1 } }

/-- Write one completion entry, with its phase (R135). -/
def Qf.writeCpl (q : Qf) (n : QpKey) (e : BitVec 256) : Qf :=
  let x := q.qp n
  let e := if ringPhase x.cqTotal x.ctx.cqSize then e ||| ((1 : BitVec 256) <<< 203) else e
  (q.ringWrite n (x.ctx.cqAddr x.ctx.cqProducer) (entryBytes e)).updQp n Qp.nextCpl

/-- Report a work request that is done: its entry where it has one, then its count; in a replay, what COMPLETION_COUNT covers
is written already, and its entry keeps its place (R133, R134, R149). -/
def Qf.reportWr (q : Qf) (n : QpKey) (w : WorkReq) : Qf :=
  let x := q.qp n
  let old := decide (x.completionCount + 1 ≤ x.replayBelow)
  let e := copyCompletion w.status (Wr.opcode w.wr) (qpnOf n) w.index false w.retransmits false w.placed w.result
  let q := if !(Wr.signalled w.wr || w.status != 0) then q
    else if old then q.updQp n Qp.nextCpl else q.writeCpl n e
  let q := q.updQp n (fun x => { (x.updWr w.index (fun w => { w with reported := true })) with
    completionCount := x.completionCount + 1 })
  if old then q else q.ringWrite n x.ctx.countAddr (bytesOf 8 (x.completionCount + 1))

/-- Report completed work requests in ring order, each entry before its count; reports that count no work request go
as room allows (R131, R133, R134).  A work request without an entry is counted though the ring is full: it needs no room
(DESIGN CHOICE, log 186). -/
def Qf.drainQp : Nat → QpKey → Qf → Qf
  | 0, _, q => q
  | k + 1, n, q =>
    let x := q.qp n
    if x.ringDead || x.counting || !(x.ctx.state = .ready || x.ctx.state = .error) then q
    else
      let ready : Option WorkReq := (x.work.find? (fun w => !w.reported)).filter (fun w => w.done)
      match ready with
      | some w => if (Wr.signalled w.wr || w.status != 0) && x.cqFull then q else Qf.drainQp k n (q.reportWr n w)
      | none => match x.waitingCpl with
        | [] => q
        | e :: es => if x.cqFull then q
            else Qf.drainQp k n ((q.updQp n (fun x => { x with waitingCpl := es })).writeCpl n e)

/-! ### Progress of work requests (Table COPY-5) -/

/-- Whether a packet of a work request has still to leave the engine. -/
def Qf.notLeft (q : Qf) (n : QpKey) (i : BitVec 16) : Bool :=
  let mine (o : Owner) : Bool := match o with | .qpData m j _ _ => m = n && j = i | _ => false
  (q.qp n).outbox.any (fun s => s.wr = i) || q.edge.heldByHazard.any (fun h => mine h.owner) ||
  q.sched.held.any (fun h => mine h.owner)

/-- Whether a work request has reached its completion point, given the earlier ones. -/
def Qf.atPoint (q : Qf) (n : QpKey) (earlier : List WorkReq) (w : WorkReq) : Bool :=
  match w.op with
  | 1 | 3 => w.todo = [] && w.reading = [] && !q.notLeft n w.index
  | 2 => w.quiet
  | 7 => earlier.all (fun e => !e.writes || e.quiet)
  | 8 => earlier.all (fun e => e.done)
  | _ => false

/-- A work request after its completion point has been looked at. -/
def Qf.evalWr (q : Qf) (n : QpKey) (earlier : List WorkReq) (w : WorkReq) : WorkReq :=
  if w.done || w.aborting.isSome then w
  else match w.final with
    | some st => if w.unresolved = 0 then { w with done := true, status := st } else w
    | none =>
      if q.atPoint n earlier w then
        { w with done := true, begun := true, result := if w.op = 8 then fld w.wr 0 64 |>.zeroExtend 128 else w.result }
      else w

/-- Look at every work request in ring order. -/
def Qf.evalWrs (q : Qf) (n : QpKey) : List WorkReq → List WorkReq → List WorkReq
  | earlier, [] => earlier
  | earlier, w :: ws => Qf.evalWrs q n (earlier ++ [q.evalWr n earlier w]) ws

/-- Put in line the PENNANT_WRITEs whose earlier writes are resolved (R81). -/
def Qf.startPennants (q : Qf) (n : QpKey) : Qf :=
  let x := q.qp n
  x.work.foldl (fun q w =>
    let earlier := x.work.takeWhile (fun e => e.index != w.index)
    if w.op = 5 && w.todo != [] && w.final.isNone && earlier.all (fun e => !e.writes || e.quiet) then
      let (tag, q) := (q.updWr n w.index (fun w => { w with todo := [] })).takeTag
      let r := { PennantRec.ofBits (Wr.payload w.wr) with stream := qpStream n, scope := false }
      let p := { (q.enginePkt n w.wr Opc.pennant (fld r.flagAddr 0 60) tag) with pennant := some r }
      q.pushPkt n { pkt := p, wr := w.index, owner := .qpPennant n w.index }
    else q) q

/-- Read the next ring entry, where one is posted and room for its completion (R129, R131).  Behind a WAIT that has not
completed nothing more is read (R88, R133). -/
def Qf.fetchWr (q : Qf) (n : QpKey) : Qf :=
  let x := q.qp n
  let c := x.ctx
  if q.ringHeld n || x.ringDead || x.fetching || x.fetched.isSome || x.counting ||
      c.sqConsumer = c.sqProducer || x.cqFull || x.work.any (fun v => v.op = 6 && !v.done) then q
  else
    let (tag, q) := (q.touchQp n).takeTag
    let p := q.enginePkt n 0 Opc.rdNc (c.sqAddr c.sqConsumer) tag
    match q.edgeCheck (.unit (qpSector n)) p none with
    | (.error st, q) => (q.updQp n (fun x => { x with ringDead := true })).qpError n st.code
    | (.ok p', q) =>
      let q := q.updQp n (fun x => { x with fetching := true })
      q.submit { ing := .unit (qpSector n), owner := .qpRing n, orig := p, sent := p' }

/-- Count the RUN_PIPELINEs of a pipeline queue that complete, with any status (R213). -/
def Qf.countPipes (q : Qf) (x : Qp) (ws : List WorkReq) : Qf :=
  let ended := (List.zip x.work ws).filter (fun z => x.pipe && !z.1.done && z.2.done && z.2.op = 0x20)
  { q with eng := { q.eng with
    gCompleted := q.eng.gCompleted + ended.length
    gPartial := q.eng.gPartial + (ended.filter (fun z => z.2.status = Status.partialResult.code)).length } }

/-- Everything of a queue pair that can go on, goes on.  What is done and resolved is forgotten in ring order. -/
def Qf.settleOnce (q : Qf) (n : QpKey) : Qf :=
  let x := q.qp n
  if !q.hasQp n then q
  else
    let ws := q.evalWrs n [] x.work
    let q := q.countPipes x ws
    let rung := (List.zip x.work ws).filter (fun z => !z.1.done && z.2.done && z.2.op = 8 && z.2.status = 0)
    let q := q.updQp n (fun x => { x with work := ws })
    let q := if rung != [] && x.ctx.msixEnable then q.msix x.ctx.msixVector.toNat else q
    let q := (q.startPennants n).pumpOut n
    let q := q.drainQp (ws.length + x.waitingCpl.length + 2) n
    let q := q.pumpRing ((q.qp n).ringOut.length + 1) n
    let q := q.updQp n (fun x => { x with work := x.work.dropWhile (fun w => w.reported && w.quiet) })
    q.fetchWr n

/-- The other queue pairs of an engine go on: a RELEASE or ACQUIRE, or a full store, may have held them (R77, R78, R136). -/
def Qf.settleMates (q : Qf) (n : QpKey) : Qf :=
  ((q.engineQps n).filter (fun x => x.1 != n.toNat && x.2.ctx.state != .reset)).foldl (fun q x =>
    q.settleOnce (BitVec.ofNat 30 x.1)) q

/-- A queue pair settles: what one turn completes lets the next go on, and the other queue pairs of its engine. -/
def Qf.settleQp (q : Qf) (n : QpKey) : Qf := (((q.settleOnce n).settleOnce n).settleOnce n).settleMates n

/-! ### Pieces (R32, R89, R124) -/

/-- Cut a transfer at the page boundaries of both sides. -/
def cutPieces (srcPages dstPages : Bool) : Nat → Nat → Nat → Nat → List Piece
  | 0, _, _, _ => []
  | k + 1, s, d, len =>
    if len = 0 then []
    else
      let m := min len 4096
      let m := if srcPages then min m (4096 - s % 4096) else m
      let m := if dstPages then min m (4096 - d % 4096) else m
      { src := BitVec.ofNat 64 s, dst := BitVec.ofNat 64 d, len := m } ::
        cutPieces srcPages dstPages k (s + m) (d + m) (len - m)

/-- Give the pieces of a transfer to the pool their messages, one for each home (R89). -/
def Qf.nameMsgs (q : Qf) (n : QpKey) (ps : List Piece) : List Piece × List (BitVec 24 × Ep × Nat) × Qf :=
  let c := (q.qp n).ctx
  let x := q.nameHomes (ps.map (fun p => (q.homeAt (qpSector n) c.tenant c.world (fld p.dst 0 60), p.len)))
  ((ps.zip x.1).map (fun z => { z.1 with msg := z.2 }), x.2)

/-- Read a piece's bytes from the pool or the window; again, without a PSN. -/
def Qf.readPiece (q : Qf) (n : QpKey) (w : WorkReq) (p : Piece) (window again : Bool) : Qf :=
  let (tag, q) := q.takeTag
  let (id, q) := q.takeMsg
  let c := (q.qp n).ctx
  let a : BitVec 60 := if window then c.winBase.zeroExtend 60 + fld p.src 0 60 else fld p.src 0 60
  let m : MsgHdr := { msgId := id, totalLen := BitVec.ofNat 32 p.len }
  let pk := { (q.enginePkt n w.wr Opc.rdBulk a tag) with msg := some m }
  q.pushPkt n { pkt := pk, wr := w.index, owner := .qpData n w.index p.src.toNat p.len, bare := window || again, window }

/-- Write a piece's bytes to the pool or the window. -/
def Qf.writePiece (q : Qf) (n : QpKey) (w : WorkReq) (p : Piece) (window : Bool) (bs : List Byte) : Qf :=
  let (tag, q) := q.takeTag
  let c := (q.qp n).ctx
  let a : BitVec 60 := if window then c.winBase.zeroExtend 60 + fld p.dst 0 60 else fld p.dst 0 60
  let ctr : BitVec 60 := fld (Wr.counter w.wr) 0 60
  let aux : AuxHdr := { byteMask := fullMask, counterAddr := ctr }
  let pk := { (q.enginePkt n w.wr Opc.wrBulk a tag) with
    msg := if window then none else some p.msg
    aux := if window || ctr = 0 then none else some aux }
  let d : Packet := { opcode := Opc.dataWrite, vc := 3, payload := bs }
  q.pushPkt n { pkt := pk, data := some d, wr := w.index, len := p.len
                owner := .qpData n w.index p.src.toNat p.len, bare := window, window }

/-- Whether an address range leaves the 56-bit pool space. -/
def offPool (a : BitVec 64) (len : Nat) : Bool := decide (2 ^ 56 < a.toNat + len)

/-- Whether a range lies outside the accelerator window (R132). -/
def QpCtx.offWindow (c : QpCtx) (a : BitVec 64) (len : Nat) : Bool :=
  decide (c.winPages.toNat * 4096 < a.toNat + len)

/-- The copy engine of a queue pair takes a key into its 32 key slots, the oldest going first (R145, R381). -/
def Qf.engineKey (q : Qf) (n : QpKey) (t : Tenant) (g : KeyGen) : Qf :=
  let e := n.toNat % 8 * 16 + n.toNat / 8 % 16
  let others := q.sec.engineSlots.filter (fun x => x != (t, g, e))
  let full := 32 ≤ (others.filter (fun x => x.2.2 = e)).length
  let kept := if full then dropFirst (fun x => x.2.2 = e) others else others
  { q with sec := { q.sec with engineSlots := kept ++ [(t, g, e)] } }

/-- The keys of a piece that is copied within this QF960, which its engine decrypts and encrypts: of the source extent its key
tenant and key generation, of the destination extent its key tenant's CURRENT generation (R145). -/
def Qf.pieceKeys (q : Qf) (n : QpKey) (p : Piece) : Qf :=
  let c := (q.qp n).ctx
  let entry (a : BitVec 64) : Except Status (RtEntry × BitVec 60) :=
    (q.translate (qpSector n) c.tenant c.world {} (fld a 0 60)).1
  match entry p.src, entry p.dst with
  | .ok s, .ok d =>
    if s.1.home != q.ownEp || d.1.home != q.ownEp then q
    else
      let q := q.engineKey n s.1.keyTenant s.1.keyGen
      match (q.keysOf d.1.keyTenant).current with
      | some k => q.engineKey n d.1.keyTenant k.gen
      | none => q
  | _, _ => q

/-- Start the transfer of a WRITE, READ or COPY. -/
def Qf.startTransfer (q : Qf) (n : QpKey) (w : WorkReq) : Qf :=
  let c := (q.qp n).ctx
  let len := Wr.len w.wr
  let src := Wr.source w.wr
  let dst := Wr.dest w.wr
  let ctr := Wr.counter w.wr
  let bad := if w.op = 1 then c.offWindow src len || offPool dst len || offPool ctr 8
    else if w.op = 2 then offPool src len || c.offWindow dst len
    else offPool src len || offPool dst len || offPool ctr 8
  if bad then
    q.wrFail n w.index Status.accessViolation.code true (fld (if w.op = 2 then dst else src) 0 60) 0
  else
    let ps := cutPieces (w.op != 1) (w.op != 2) (len / 2048 + 4) src.toNat dst.toNat len
    let q := if w.op = 3 then ps.foldl (fun q p => q.pieceKeys n p) q else q
    let r : List Piece × List (BitVec 24 × Ep × Nat) × Qf := if w.op = 2 then (ps, [], q) else q.nameMsgs n ps
    let q := r.2.2.updWr n w.index (fun w => { w with reading := r.1.map (fun p => (p, [])), msgs := r.2.1 })
    r.1.foldl (fun q p => q.readPiece n w p (w.op = 1) false) q

/-- The pieces at the front of a transfer whose bytes have come go on to the destination, in their order (R149). -/
def Qf.pushPieces : Nat → QpKey → BitVec 16 → Qf → Qf
  | 0, _, _, q => q
  | k + 1, n, i, q =>
    match (q.qp n).wrOf i with
    | none => q
    | some w =>
      match w.reading with
      | [] => q
      | z :: zs =>
        if z.2 = [] then q
        else Qf.pushPieces k n i ((q.updWr n i (fun w => { w with reading := zs })).writePiece n w z.1 (w.op = 2) z.2)

/-- Bytes of a transfer have come. -/
def Qf.gotPiece (q : Qf) (n : QpKey) (i : BitVec 16) (src : Nat) (bs : List Byte) : Qf :=
  let put (z : Piece × List Byte) : Piece × List Byte := (z.1, slice bs 0 z.1.len)
  let q := q.updWr n i (fun w => { w with reading := updFirst (fun z => z.1.src.toNat = src) put w.reading })
  q.pushPieces ((((q.qp n).wrOf i).map (fun w => w.reading.length)).getD 0) n i

/-! ### Starting a work request -/

/-- Whether the work request read from the ring may start (R131, R133). -/
def Qf.startable (q : Qf) (n : QpKey) (w : BitVec 512) (op : Nat) : Bool :=
  let x := q.qp n
  q.inService && q.hasQp n && x.ctx.state = .ready && x.fetched = some w && (Wr.opcode w).toNat = op && !x.cqFull &&
  !x.work.any (fun v => v.op = 6 && !v.done) && (!Wr.fence w || x.work.all (fun v => v.done)) &&
  !q.leaseOver n

/-- Start the work request read from the ring: it takes its place in ring order.  One for copy engines that are powered down
waits until they wake (R27); a pipeline runs elsewhere (R187). -/
def Qf.startWr (q : Qf) (n : QpKey) (w : BitVec 512) (op : Nat) (f : WorkReq → Qf → Qf) : Qf :=
  let d := 5 * (qpSector n).toNat + 4
  if !q.startable n w op then q
  else if op != 0x20 && !q.domainOn d then q.wantUnit d
  else
    let q := q.touchQp n
    let x := q.qp n
    let new : WorkReq := { index := x.ctx.sqConsumer, wr := w, seq := q.qps.useSeq
                           final := if op = 7 && x.broken != 0 then some x.broken else none }
    let q := q.updQp n (fun x => { x with
      fetched := none, work := x.work ++ [new], ctx := { x.ctx with sqConsumer := x.ctx.sqConsumer + 1 } })
    (f new q).settleQp n

/-- Whether a work request's form is good for its queue (R6, R133, R187). -/
def wrFormOk (pipe : Bool) (w : BitVec 512) : Bool :=
  let op := (Wr.opcode w).toNat
  let known := if pipe then op = 5 || op = 6 || op = 7 || op = 8 || op = 0x20 else 1 ≤ op && op ≤ 8
  Wr.format w = 1 && Wr.rsvd w = 0 && known && Wr.atomicWidth w != 3

/-- A ring entry has been read: it waits to start, or completes at once where it is aborted, flushed or of a bad
form. -/
def Qf.gotRing (q : Qf) (n : QpKey) (w : BitVec 512) : Qf :=
  let x := q.qp n
  let i := x.ctx.sqConsumer
  let q := q.updQp n (fun x => { x with fetching := false })
  let take (st : Option Status) (q : Qf) : Qf :=
    let new : WorkReq := { index := i, wr := w, seq := q.qps.useSeq, final := st.map Status.code }
    q.updQp n (fun x => { x with work := x.work ++ [new], ctx := { x.ctx with sqConsumer := i + 1 } })
  if !(x.ctx.state = .ready || x.ctx.state = .error) then q
  else match x.preAbort.find? (fun a => a.1 = i) with
  | some a =>
    let q := q.updQp n (fun x => { x with preAbort := dropFirst (fun a => a.1 = i) x.preAbort })
    ((take (some .aborted) q).abortAnswer n i a.2 .ok).settleQp n
  | none =>
    if x.ctx.state = .error then (take (some .flushed) q).settleQp n
    else if wrFormOk x.pipe w then q.updQp n (fun x => { x with fetched := some w })
    else ((take none q).wrFail n i Status.unsupportedVersion.code false 0 0).settleQp n

/-! ### Answers -/

/-- The stored packet of a queue pair with a tag. -/
def Qf.stored (q : Qf) (n : QpKey) (tag : Tag) : Option SentPkt := (q.qp n).store.find? (fun s => s.tag = tag)

/-- A stored packet has met EPOCH_STALE for the first time: its PSN is resolved, and it waits to be sent again under another
(R61, R75). -/
def Qf.staleSent (q : Qf) (n : QpKey) (s : SentPkt) : Qf :=
  q.updQp n (fun x => { x with
    store := updFirst (fun y => y.tag = s.tag) (fun y => { y with stale := true }) x.store
    peers := updFirst (fun z => z.peer = s.peer) (fun z => { z with
      unacked := z.unacked - 1, atomicOut := z.atomicOut && s.pkt.opcode != Opc.atomic }) x.peers })

/-- Give a work request its result at its completion point (ATOMIC, PENNANT_WRITE, WAIT). -/
def Qf.wrResult (q : Qf) (n : QpKey) (i : BitVec 16) (r : BitVec 128) : Qf :=
  q.updWr n i (fun w =>
    if w.done || w.final.isSome then { w with begun := true, result := r }
    else if w.aborting.isSome then { w with begun := true, result := r }
    else { w with begun := true, done := true, result := r })

/-- A queue pair is in RESET: nothing of it is sent or waited for any more. -/
def Qf.clearQp (q : Qf) (n : QpKey) : Qf :=
  let mine (o : Owner) : Bool := match o with
    | .qpData m _ _ _ | .qpRing m | .qpAtomic m _ | .qpPennant m _ | .qpWait m _ | .qpClose m _ => m = n
    | .pipeLine m _ _ _ | .pipeWrite m _ _ | .shardAsk m _ _ | .sideAsk m _ _ => m = n
    | _ => false
  let q := { q with eng := { q.eng with
    jobs := q.eng.jobs.filter (fun j => j.pair != n), late := q.eng.late.filter (fun r => r.pair != n) } }
  let q := q.dropHeld (fun h => mine h.owner)
  let q := (q.edge.reqs.filter (fun r => mine r.owner)).foldl (fun q r => q.resolved r 0) q
  (q.updQp n (fun x => { ({ ctx := { x.ctx with state := .reset }, pipe := x.pipe } : Qp) with
    cqConsumer := x.cqConsumer, cached := x.cached, lastUse := x.lastUse, leaseEnd := x.leaseEnd
    authority := x.authority })).settleMates n

/-- A queue pair stops by ownership: it goes to RESET, and its unfinished work is reported to the fabric manager with an event
kind of Table MGMT-17 and a status (R150, R423). -/
def Qf.qpStop (q : Qf) (n : QpKey) (kind : Nat) (st : Status) : Qf :=
  let x := q.qp n
  let open_ := (x.work.filter (fun w => !w.reported)).map (fun w => w.index)
  let posted := (List.range (x.ctx.sqProducer - x.ctx.sqConsumer).toNat).map (fun k =>
    x.ctx.sqConsumer + BitVec.ofNat 16 k)
  ((open_ ++ posted).foldl (fun q i => q.event kind st.code (qpnOf n) i x.ctx.originEp 0) q).clearQp n

/-- Where a replay of a queue pair begins: at the oldest of its work requests that is not complete and resolved (R148, R149;
DEDUCED, log 183). -/
def Qp.ckConsumer (x : Qp) : BitVec 16 := match x.work with | w :: _ => w.index | [] => x.ctx.sqConsumer

/-- The peer slots of a checkpoint: each with the first PSN that a work request from there on took at its home, so that a replay
gives every packet its own PSN (R148, R149; DEDUCED, log 183). -/
def Qp.ckPeers (x : Qp) : List PeerSlot :=
  x.peers.map (fun z => { z with
    nextPsn := (x.work.findSome? (fun w => (w.firstPsn.find? (fun f => f.1 = z.peer)).map Prod.snd)).getD z.nextPsn })

/-- RENEW's payload of a queue pair, kind 1 to 4 (R305). -/
def Qf.ownBytes (q : Qf) (n : QpKey) (kind : Nat) (grantee : Ep) : List Byte :=
  let x := q.qp n
  let c := x.ctx
  let lo := BitVec.ofNat 256 (kind + (qpnOf n).toNat * 2 ^ 8 + (originOf n).toNat * 2 ^ 24 + c.ownEpoch.toNat * 2 ^ 64 +
    grantee.toNat * 2 ^ 96 + x.ckConsumer.toNat * 2 ^ 160 + c.cqProducer.toNat * 2 ^ 176)
  let slot (p : PeerSlot) : BitVec 64 := p.peer ++ p.nextPsn ++ BitVec.ofNat 9 p.unacked ++ bit p.atomicOut ++ (0 : BitVec 8)
  bytesOf 32 lo ++ slice (x.ckPeers.flatMap (fun p => bytesOf 8 (slot p))) 0 64

/-- Send a packet of a queue pair that bears no PSN and no data, already addressed, and keep its request open. -/
def Qf.sendOpen (q : Qf) (n : QpKey) (owner : Owner) (p : Packet) : Qf :=
  let new : OpenReq := { src := q.ownEp, tag := p.tag, ing := .unit (qpSector n), owner, orig := p, sent := p
                         sentAt := q.now, retried := true, ackAt := q.ackTime }
  ({ q with edge := { q.edge with reqs := q.edge.reqs ++ [new] } }).send (.unit (qpSector n)) p

/-- Send an ownership message (R148, R149). -/
def Qf.sendOwn (q : Qf) (n : QpKey) (kind : Nat) (dest grantee : Ep) : Qf :=
  let (tag, q) := q.takeTag
  q.sendOpen n (.ownership n) { (q.enginePkt n 0 Opc.ownMsg 0 tag) with
    destEp := dest, mapEpoch := q.part.epoch, qp := some (q.qpHdr n), payload := q.ownBytes n kind grantee }

/-- The owner's checkpoint: sent to the origin with a renewal, or kept with a new lease in the origin's own record (R148). -/
def Qf.checkpoint (q : Qf) (n : QpKey) : Qf :=
  let x := q.qp n
  if originOf n = q.ownEp then
    { q with qps := { q.qps with own := q.qps.own.upd n.toNat {} (fun r => { r with
      leaseEnd := BitVec.ofNat 64 (q.now + 100000)
      ckConsumer := x.ckConsumer, ckProducer := x.ctx.cqProducer, ckPeers := x.ckPeers }) } }
  else
    (q.updQp n (fun x => { x with renewSent := some q.now })).sendOwn n 1 (x.authority.getD (originOf n)) 0

/-- A response to a packet of a queue pair, its request already resolved at the edge.  The status is 0 where it
succeeded.  A duplicate of a read, in a replay, is answered without its data (R140): it is read again by a packet that bears no
PSN, so that no later PSN shifts (R149; DESIGN CHOICE, log 187). -/
def Qf.qpData (q : Qf) (n : QpKey) (i : BitVec 16) (src len : Nat) (p : Packet) (st : BitVec 8) : Qf :=
  match q.stored n p.tag with
  | none => q
  | some s =>
    let q := q.qpResolve n s
    let q := if st != 0 then q.wrFail n i st false s.pkt.addr s.psn
      else if s.pkt.opcode != Opc.rdBulk then q.updWr n i (fun w => { w with placed := w.placed + len })
      else match (q.qp n).wrOf i with
        | none => q
        | some w =>
          if p.opcode != Opc.placed then q.gotPiece n i src p.payload
          else if w.aborting.isSome || w.final.isSome then q
          else q.readPiece n w { src := BitVec.ofNat 64 src, len := len } s.window true
    q.settleQp n

/-- COMPLETION_COUNT has been read for a replay (R149 step 4). -/
def Qf.gotCount (q : Qf) (n : QpKey) (c : BitVec 64) : Qf :=
  let d : BitVec 16 := fld c 0 16 - (q.qp n).ctx.sqConsumer
  let start := if d.toNat < 32768 then c - d.zeroExtend 64 else c + (0 - d).zeroExtend 64
  q.updQp n (fun x => { x with replayBelow := c, completionCount := start })

/-- Read a word or an entry of a queue pair's rings before a replay goes on (R149). -/
def Qf.readAgain (q : Qf) (n : QpKey) (a : BitVec 60) : Qf :=
  let (tag, q) := q.takeTag
  let p := q.enginePkt n 0 Opc.rdNc a tag
  match q.edgeCheck (.unit (qpSector n)) p none with
  | (.error st, q) => (q.updQp n (fun x => { x with ringDead := true })).qpError n st.code
  | (.ok p', q) =>
    let q := q.updQp n (fun x => { x with counting := true })
    q.submit { ing := .unit (qpSector n), owner := .qpRing n, orig := p, sent := p' }

/-- The pass of the ring that a replay goes on with, from the entry before its first (R135): a ring of 65,536 entries passes once
in CQ_PRODUCER's 16 bits (DEDUCED, log 188). -/
def Qp.resumePass (x : Qp) (e : BitVec 256) : Qp :=
  let second := xor (!e.getLsbD 203) (decide (x.ctx.cqProducer = 0))
  { x with counting := false, cqTotal := x.ctx.cqProducer.toNat + 65536 * b2n second }

/-- A response to a ring access (R129), or to the reads that come before a replay (R149). -/
def Qf.qpRing (q : Qf) (n : QpKey) (r : OpenReq) (p : Packet) (st : BitVec 8) : Qf :=
  let off := (fld r.orig.addr 0 6 : BitVec 6).toNat
  let x := q.qp n
  if st != 0 then ((q.updQp n (fun x => { x with ringDead := true, fetching := false })).qpError n st).settleQp n
  else if r.sent.opcode != Opc.rdNc then q.settleQp n
  else if x.counting && r.orig.addr = x.ctx.countAddr then
    let q := q.gotCount n (bitsOf 64 (slice p.payload off 8))
    if x.ctx.cqSize = 65536 then q.readAgain n (x.ctx.cqAddr (x.ctx.cqProducer - 1))
    else (q.updQp n (fun x => { x with counting := false })).settleQp n
  else if x.counting then (q.updQp n (fun x => x.resumePass (bitsOf 256 (slice p.payload off 32)))).settleQp n
  else q.gotRing n (bitsOf 512 (slice p.payload off 64))

/-- A response to an ATOMIC or a PENNANT_WRITE. -/
def Qf.qpOne (q : Qf) (n : QpKey) (i : BitVec 16) (p : Packet) (st : BitVec 8) : Qf :=
  match q.stored n p.tag with
  | none => q
  | some s =>
    let q := q.qpResolve n s
    let q := if st != 0 then q.wrFail n i st false s.pkt.addr s.psn
      else q.wrResult n i (bitsOf 128 (slice p.payload 0 16))
    let q := if s.pkt.opcode = Opc.atomic then q.checkpoint n else q
    q.settleQp n

/-- A peer slot's QP_CLOSE has been answered: the slot is free for another home (R126, R138). -/
def Qf.qpClosed (q : Qf) (n : QpKey) (peer : Ep) : Qf :=
  (q.updQp n (fun x => { x with
    peers := x.peers.filter (fun z => !(z.peer = peer && z.closing))
    work := x.work.map (fun w => { w with firstPsn := w.firstPsn.filter (fun f => f.1 != peer) })
    store := x.store.filter (fun s => !(s.pkt.opcode = Opc.qpClose && s.peer = peer)) })).settleQp n

/-- Send QP_CLOSE for a peer slot. -/
def Qf.sendClose (q : Qf) (n : QpKey) (peer : Ep) : Qf :=
  let (tag, q) := q.takeTag
  let p := { (q.enginePkt n 0 Opc.qpClose 0 tag) with destEp := peer, mapEpoch := q.part.epoch, qp := some (q.qpHdr n) }
  let s : SentPkt := { tag, pkt := p, peer, owner := .qpClose n peer, bare := true }
  let q := (q.keep n s).updQp n (fun x => { x with
    peers := updFirst (fun z => z.peer = peer) (fun z => { z with closing := true }) x.peers })
  q.sendOpen n (.qpClose n peer) p

/-! ### Waits (R86 to R88, R543) -/

/-- WAIT_REGISTER's packet, with the time that remains. -/
def Qf.waitPkt (q : Qf) (n : QpKey) (w : BitVec 512) (r : WaitRec) (tag : Tag) : Packet :=
  { (q.enginePkt n w Opc.waitRegister (fld r.addr 0 60) tag) with payload := bytesOf 32 r.bits }

/-- The time that a wait has left, in microseconds, at least 1; 0 where it has no limit. -/
def EngineWait.left (e : EngineWait) (now : Nat) : BitVec 32 :=
  if e.record.timeoutUs = 0 then 0
  else BitVec.ofNat 32 (max 1 (e.record.timeoutUs.toNat - (now - e.started) / 1000))

/-- Whether a wait's time is over. -/
def EngineWait.over (e : EngineWait) (now : Nat) : Bool :=
  e.record.timeoutUs != 0 && decide (e.started + e.record.timeoutUs.toNat * 1000 ≤ now)

/-- Start a WAIT. -/
def Qf.startWait (q : Qf) (n : QpKey) (w : WorkReq) : Qf :=
  let r := WaitRec.ofBits (Wr.payload w.wr)
  if offPool r.addr 4 then q.wrFail n w.index Status.accessViolation.code true (fld r.addr 0 60) 0
  else
    let (tag, q) := q.takeTag
    let new : EngineWait := { wr := w.index, tag, record := r, started := q.now, lastSend := q.now }
    let q := q.updQp n (fun x => { x with wait := some new })
    q.pushPkt n { pkt := q.waitPkt n w.wr r tag, wr := w.index, owner := .qpWait n w.index, bare := true }

/-- A wait ends: with the word's value, or failed, where the edge refuses it at an address with its violation logged (R144). -/
def Qf.endWait (q : Qf) (n : QpKey) (i : BitVec 16) (st : BitVec 8) (v : BitVec 64) (edge : Option (BitVec 60) := none) : Qf :=
  let mine (r : OpenReq) : Bool := match r.owner with | .qpWait m j => m = n && j = i | _ => false
  let q := (q.edge.reqs.filter mine).foldl (fun q r => q.resolved r 0) q
  let q := (q.updQp n (fun x => { x with wait := none })).updWr n i (fun w => { w with unresolved := 0 })
  (if st = 0 then q.wrResult n i (v.zeroExtend 128) else q.wrFail n i st edge.isSome (edge.getD 0) 0).settleQp n

/-- A response for a wait: WAIT_DONE, a poll's data, or a failure; RETRY makes the engine poll (R87). -/
def Qf.qpWait (q : Qf) (n : QpKey) (i : BitVec 16) (r : OpenReq) (p : Packet) (st : BitVec 8) : Qf :=
  match (q.qp n).wait with
  | none => q
  | some e =>
    if e.wr != i then q
    else if r.sent.opcode = Opc.waitRegister then
      if st = Status.retry.code then
        q.updQp n (fun x => { x with wait := some { e with polling := true, lastSend := q.now } })
      else q.endWait n i st (bitsOf 64 (slice p.payload 0 8))
    else if st != 0 then (if st = Status.retry.code then q else q.endWait n i st 0)
    else
      let off := (fld e.record.addr 0 6 : BitVec 6).toNat
      let v := leNat (slice p.payload off (if e.record.width then 4 else 8))
      if waitHolds e.record v then q.endWait n i 0 (BitVec.ofNat 64 v)
      else if e.over q.now then q.endWait n i Status.timeout.code 0
      else q

end Sys2Proof.Machine
end

