-- ==== Sys2Proof/Machine/QueuePairs.lean ====
section
/-! DEFINITION. Machine/QueuePairs.lean: the commands of queue pairs (R125 to R138, R142, R187): doorbells, work
requests, peer slots, waits, and the manager commands on contexts. -/

namespace Sys2Proof.Machine

/-! ### Doorbells (R130) -/

/-- A doorbell's values are taken by a live queue pair. -/
def Qf.ring (q : Qf) (n : QpKey) (w : BitVec 64) : Qf :=
  let d := doorbellWord w
  let st := (q.qp n).ctx.state
  if q.hasQp n && (st = .ready || st = .error) then
    (q.updQp n (fun x => { x with
      ctx := { x.ctx with sqProducer := d.2.1 }, cqConsumer := d.2.2.1 })).settleQp n
  else q

/-- A doorbell is ignored and counted (R130, R393). -/
def Qf.refuseBell (q : Qf) : Qf :=
  { q with qps := { q.qps with doorbellRefused := q.qps.doorbellRefused + 1 } }

/-- QP_DOORBELL (R130, R393): a host's write of a doorbell word, for a queue pair of this origin. -/
def execQpDoorbell (port : Bool) (word : BitVec 64) (s : State) : Out :=
  done (fun q => q.sectorWrite port (fun q =>
    let n := q.ownPair (doorbellWord word).1
    if !q.inService then q
    else if q.protectedTenant (q.qp n).ctx.tenant then q.refuseBell else q.ring n word)) s

/-- DOORBELL (R130): from the accelerator the queue pair is bound to, or ignored and counted. -/
def execDoorbell (i : Ingress) (p : Packet) (s : State) : Out :=
  done (fun q =>
    if !q.inService then q
    else
      let w : BitVec 64 := bitsOf 64 (slice p.payload 0 8)
      let src := match i with | .half h => (q.link h).peerEp | _ => p.srcEp
      let n := q.pairOf (doorbellWord w).1 (fun x => x.ctx.boundEp = src && x.ctx.state != .reset)
      let q := q.take i p
      if (q.qp n).ctx.boundEp = src then q.ring n w else q.refuseBell) s

/-! ### Work requests (Table COPY-5) -/

/-- What a work request of a copy engine does once started, by its opcode (R79 to R82, R86 to R88, R94 to R96, R133,
R145). -/
def wrEffect (n : QpKey) (wr : BitVec 512) (op : Nat) (w : WorkReq) (q : Qf) : Qf :=
  match op with
  | 1 | 2 | 3 => q.startTransfer n w
  | 4 =>
    let a := Wr.dest wr
    if offPool a 4 then q.wrFail n w.index Status.accessViolation.code true (fld a 0 60) 0
    else
      let (tag, q) := q.takeTag
      let p := { (q.enginePkt n wr Opc.atomic (fld a 0 60) tag) with
        atomicOp := Wr.atomicOp wr, atomicWidth := Wr.atomicWidth wr, payload := bytesOf 32 (Wr.payload wr) }
      q.pushPkt n { pkt := p, wr := w.index, owner := .qpAtomic n w.index }
  | 5 => q.updWr n w.index (fun w => { w with todo := [{}] })
  | 6 => q.startWait n w
  | _ => q

/-- The copy engines of a sector are awake: what its queue pairs have read and not started starts (R27). -/
def Qf.runFetched (q : Qf) (s : Sector) : Qf :=
  let qs : List (Nat × Qp) := q.qps.qps
  qs.foldl (fun q x =>
    let n : QpKey := BitVec.ofNat 30 x.1
    match x.2.fetched with
    | some w => if qpSector n = s && (Wr.opcode w).toNat != 0x20 then q.startWr n w (Wr.opcode w).toNat (wrEffect n w (Wr.opcode w).toNat) else q
    | none => q) q

/-- WRITE (R133): window at SOURCE to pool at DEST. -/
def execWrite (n : QpKey) (wr : BitVec 512) (s : State) : Out :=
  done (fun q => q.startWr n wr 1 (wrEffect n wr 1)) s

/-- READ (R133): pool at SOURCE to window at DEST. -/
def execRead (n : QpKey) (wr : BitVec 512) (s : State) : Out :=
  done (fun q => q.startWr n wr 2 (wrEffect n wr 2)) s

/-- COPY (R145): pool to pool, each line decrypted at its source home and encrypted at its destination. -/
def execCopy (n : QpKey) (wr : BitVec 512) (s : State) : Out :=
  done (fun q => q.startWr n wr 3 (wrEffect n wr 3)) s

/-- QP_ATOMIC (R94 to R96, R133). -/
def execQpAtomic (n : QpKey) (wr : BitVec 512) (s : State) : Out :=
  done (fun q => q.startWr n wr 4 (wrEffect n wr 4)) s

/-- PENNANT_WRITE (R79 to R82, R133): sent once the queue pair's earlier writes are resolved. -/
def execPennantWrite (n : QpKey) (wr : BitVec 512) (s : State) : Out :=
  done (fun q => q.startWr n wr 5 (wrEffect n wr 5)) s

/-- WAIT (R86 to R88, R133). -/
def execWait (n : QpKey) (wr : BitVec 512) (s : State) : Out :=
  done (fun q => q.startWr n wr 6 (wrEffect n wr 6)) s

/-- FLUSH (R133): complete when every earlier write of the queue pair is placed. -/
def execFlush (n : QpKey) (wr : BitVec 512) (s : State) : Out :=
  done (fun q => q.startWr n wr 7 (wrEffect n wr 7)) s

/-- SIGNAL (R133, R478): complete after every earlier work request, with MSI-X if enabled. -/
def execSignal (n : QpKey) (wr : BitVec 512) (s : State) : Out :=
  done (fun q => q.startWr n wr 8 (wrEffect n wr 8)) s

/-! ### Waits of the engine (R87, R543) -/

/-- WAIT_REGISTER_RESEND (R543): every 1 ms without an answer, with the same TAG and the time remaining. -/
def execWaitRegisterResend (n : QpKey) (s : State) : Out :=
  done (fun q => match (q.qp n).wait with
    | none => q
    | some e =>
      if e.polling || q.now < e.lastSend + 1000000 || !q.inService || q.leaseOver n ||
          !q.edge.reqs.any (fun r => r.src = q.ownEp && r.tag = e.tag) then q
      else match (q.qp n).wrOf e.wr with
        | none => q
        | some w =>
          let r := { e.record with timeoutUs := e.left q.now }
          let p := q.waitPkt n w.wr r e.tag
          let q := q.updQp n (fun x => { x with wait := some { e with lastSend := q.now } })
          match q.edgeCheck (.unit (qpSector n)) p none with
          | (.ok p', q) =>
            let q := { q with edge := { q.edge with
              reqs := updFirst (fun r => r.src = q.ownEp && r.tag = e.tag)
                (fun r => { r with orig := p, sent := p', sentAt := q.now, ackAt := q.ackTime }) q.edge.reqs } }
            q.send (.unit (qpSector n)) p'
          | (.error st, q) => q.endWait n e.wr st.code 0 (some p.addr)) s

/-- WAIT_POLL (R87): every 2 us an engine that holds an unregistered wait reads the word. -/
def execWaitPoll (n : QpKey) (s : State) : Out :=
  done (fun q => match (q.qp n).wait with
    | none => q
    | some e =>
      if !e.polling || q.now < e.lastSend + 2000 || !q.inService || q.leaseOver n then q
      else if e.over q.now then q.endWait n e.wr Status.timeout.code 0
      else
        let (tag, q) := q.takeTag
        let p := q.enginePkt n 0 Opc.rdNc (fld e.record.addr 0 60) tag
        let q := q.updQp n (fun x => { x with wait := some { e with lastSend := q.now } })
        match q.edgeCheck (.unit (qpSector n)) p none with
        | (.ok p', q) => q.submit { ing := .unit (qpSector n), owner := .qpWait n e.wr, orig := p, sent := p' }
        | (.error st, q) => q.endWait n e.wr st.code 0 (some p.addr)) s

/-! ### Peer slots (R126, R138) -/

/-- PEER_SLOT_REOPEN (R126): a slot with no packet unacknowledged, one at a time, is closed for a home that waits for one. -/
def execPeerSlotReopen (n : QpKey) (peer : Ep) (s : State) : Out :=
  done (fun q =>
    let x := q.qp n
    match x.outbox.find? (fun y => !y.bare) with
    | none => q
    | some y =>
      let needs := match (q.edgeCheck (.unit (qpSector n)) y.pkt y.data).1 with
        | .ok p => !x.peers.any (fun z => z.peer = p.destEp)
        | .error _ => false
      let idle := x.peers.any (fun z => z.peer = peer && z.unacked = 0) && x.peers.all (fun z => !z.closing)
      if q.inService && x.ctx.state = .ready && !q.leaseOver n && needs && idle && 8 ≤ x.peers.length then
        (q.checkpoint n).sendClose n peer
      else q) s

/-- QP_CLOSE (R138): the home frees its target record, if it holds one, and answers PLACED. -/
def execQpClose (i : Ingress) (p : Packet) (s : State) : Out :=
  done (fun q => q.request i p (fun q =>
    match p.qp with
    | none => q.answerFail p .unsupportedVersion
    | some h =>
      if (q.target h).any (fun t => h.ownEpoch < t.ownEpoch) then q.answerFail p .epochStale
      else
        let ts := dropFirst (fun t => t.is h) q.qps.targets
        ({ q with qps := { q.qps with targets := ts } }).answer p Opc.placed)) s

/-! ### Contexts (R125, R128, R142) -/

/-- The fields that QP_CREATE writes into a context (Table COPY-1). -/
def QpCtx.ofBits (x : BitVec 512) : QpCtx where
  state := .ready
  priv := x.getLsbD 508
  world := x.getLsbD 507
  tenant := fld x 495 12
  boundEp := fld x 481 14
  ownEpoch := 1
  sqLog2 := fld x 431 4
  cqLog2 := fld x 427 4
  sqBase := fld x 323 56
  cqBase := fld x 267 56
  winBase := fld x 211 56
  winPages := fld x 183 28
  msixVector := fld x 172 11
  msixEnable := x.getLsbD 171

/-- Whether a client endpoint is attached through an admitted half-port (R393). -/
def Qf.admittedClient (q : Qf) (ep : Ep) (t : Tenant) : Bool :=
  match q.clientHalf ep with
  | some h => q.admittedHalf h t
  | none => false

/-- Whether the ownership record of a queue pair of this origin says that another QF960 holds it, or may claim it (R147). -/
def Qf.heldElsewhere (q : Qf) (n : QpKey) : Bool :=
  match q.qps.own.find? n.toNat with
  | some r => r.released || r.ownerEp != q.ownEp
  | none => false

/-- The checks of QP_CREATE and PIPE_CREATE (R6, R125, R128, R376, R393). -/
def Qf.createCheck (q : Qf) (n : QpKey) (ctx : BitVec 512) : Option Status :=
  let c := QpCtx.ofBits ctx
  let privs := (q.qps.qps.filter (fun x => x.2.ctx.priv && x.1 != n.toNat)).length
  if fld ctx 0 163 != (0 : BitVec 163) || 10 < c.sqLog2.toNat || 10 < c.cqLog2.toNat ||
      fld c.sqBase 0 6 != (0 : BitVec 6) || fld c.cqBase 0 6 != (0 : BitVec 6) then some .unsupportedVersion
  else if q.hasQp n && (q.qp n).ctx.state != .reset then some .accessViolation
  else if q.heldElsewhere n then some .accessViolation
  else if c.world then some .accessViolation
  else if q.protectedTenant c.tenant && !q.admittedClient c.boundEp c.tenant then some .accessViolation
  else if c.priv && 256 ≤ privs then some .quota
  else none

/-- Create a context and its ownership record, which goes on with the epoch it holds where there is one (R125, R147). -/
def Qf.createNow (q : Qf) (m : MgrRef) (n : QpKey) (ctx : BitVec 512) (pipe : Bool) : Qf :=
  let op : BitVec 8 := if pipe then 0x34 else 0x30
  match q.createCheck n ctx with
  | some st => q.complete m op st
  | none =>
    let e := ((q.qps.own.find? n.toNat).map OwnRec.ownEpoch).getD 1
    let c := { QpCtx.ofBits ctx with originEp := q.ownEp, ownEpoch := e }
    let x : Qp := { ctx := c, pipe }
    let r : OwnRec := { ownerEp := q.ownEp, ownEpoch := e, qpn := qpnOf n, leaseEnd := BitVec.ofNat 64 (q.now + 100000) }
    let q := { q with qps := { q.qps with
      qps := q.qps.qps.set n.toNat x, own := q.qps.own.set n.toNat r } }
    q.complete m op .ok

/-- Free a context that is in RESET (Table COPY-9), and with it the ownership record of a queue pair of this origin.  The status
of one that is not in RESET, or that another QF960 holds, is the model's choice (DESIGN CHOICE, log 96). -/
def Qf.destroyNow (q : Qf) (m : MgrRef) (n : QpKey) : Qf :=
  if q.hasQp n && (q.qp n).ctx.state = .reset && !(originOf n = q.ownEp && q.heldElsewhere n) then
    ({ q with qps := { q.qps with qps := q.qps.qps.del n.toNat, own := q.qps.own.del n.toNat } }).complete m 0x32 .ok
  else q.complete m 0x32 .accessViolation

/-- Begin the reset of a queue pair in ERROR.  The status of one that is not in ERROR is the model's choice (DESIGN CHOICE,
log 96). -/
def Qf.resetNow (q : Qf) (m : MgrRef) (n : QpKey) : Qf :=
  if q.hasQp n && (q.qp n).ctx.state = .error then q.updQp n (fun x => { x with resetting := some m })
  else q.complete m 0x31 .accessViolation

/-- Run one manager command on a queue pair. -/
def Qf.runQpCmd (q : Qf) (w : QpWaiting) : Qf :=
  match w.kind with
  | 0 => q.createNow w.cmd w.pair w.context false
  | 1 => q.createNow w.cmd w.pair w.context true
  | 2 => q.resetNow w.cmd w.pair
  | _ => q.destroyNow w.cmd w.pair

/-- Run the commands that waited for a queue pair, until one changes it for longer. -/
def Qf.wakeQp : Nat → QpKey → Qf → Qf
  | 0, _, q => q
  | k + 1, n, q =>
    if (q.qp n).resetting.isSome then q
    else match q.qps.waiting.find? (fun w => w.pair = n) with
      | none => q
      | some w =>
        let ws := dropFirst (fun w => w.pair = n) q.qps.waiting
        Qf.wakeQp k n (({ q.markStart w.cmd true with qps := { q.qps with waiting := ws } }).runQpCmd w)

/-- Go on with a QP_RESET: once every sent packet is resolved each peer slot is closed, then the stream is reset and
the context is in RESET (R82, Table COPY-9). -/
def Qf.resetTurn (q : Qf) (n : QpKey) : Qf :=
  let x := q.qp n
  match x.resetting with
  | none => q
  | some m =>
    if x.store.any (fun s => s.pkt.opcode != Opc.qpClose) then q
    else if x.peers != [] then
      if q.leaseOver n then q else (x.peers.filter (fun z => !z.closing)).foldl (fun q z => q.sendClose n z.peer) q
    else
      let st := qpStream n
      let q := (q.updStream (.unit (qpSector n)) q.ownEp st (fun r => { r with fail := 0 })).releasePennants q.ownEp st
      let q := q.updQp n (fun x =>
        { ({ ctx := { x.ctx with
              state := .reset, firstFail := 0, sqProducer := 0, sqConsumer := 0, cqProducer := 0 }
             pipe := x.pipe } : Qp) with cached := x.cached, lastUse := x.lastUse })
      let q := { q with eng := { q.eng with jobs := q.eng.jobs.filter (fun j => j.pair != n) } }
      let q := q.complete m 0x31 .ok
      q.wakeQp (q.qps.waiting.length + 1) n

/-- A manager command on a queue pair: it waits, not yet started, while another changes it (R474). -/
def Qf.qpCmd (q : Qf) (w : QpWaiting) : Qf :=
  if (q.qp w.pair).resetting.isSome || q.qps.waiting.any (fun v => v.pair = w.pair) then
    { q.markStart w.cmd false with qps := { q.qps with waiting := q.qps.waiting ++ [w] } }
  else (q.runQpCmd w).resetTurn w.pair

/-- The queue pair that QP_RESET or QP_DESTROY names: in a state, or this QF960's own. -/
def Qf.pairIn (q : Qf) (n : Qpn) (st : QpState) : QpKey :=
  if q.hasQp (q.ownPair n) then q.ownPair n else q.pairOf n (fun x => x.ctx.state = st)

/-- TENANT_RECORD (R36, R142, R469): the write drops the tenant's cached entries; reserved bits stay zero.  A tenant
disabled puts its queue pairs in ERROR. -/
def execTenantRecord (port : Bool) (t : Tenant) (value : BitVec 64) (s : State) : Out :=
  done (fun q => q.sectorWrite port (fun q =>
    let q := { q with edge := { q.edge with
      records := q.edge.records.set t.toNat (value &&& 0xFFFFFFFFFFFFFFC0)
      cache := q.edge.cache.filter (fun c => c.tenant != t) } }
    if recEnable value then q
    else (q.qps.qps.filter (fun x => x.2.ctx.tenant = t && x.2.ctx.state = .ready)).foldl (fun q x =>
      (q.qpError (BitVec.ofNat 30 x.1) Status.accessViolation.code).settleQp (BitVec.ofNat 30 x.1)) q)) s

/-- QP_CREATE (R125, R128, R376, R393). -/
def execQpCreate (m : MgrRef) (qpn : BitVec 16) (context : BitVec 512) (s : State) : Out :=
  done (fun q => q.mgr m 0x30 true (fun q => q.qpCmd { pair := q.ownPair qpn, cmd := m, kind := 0, context })) s

/-- PIPE_CREATE (R187). -/
def execPipeCreate (m : MgrRef) (qpn : BitVec 16) (context : BitVec 512) (s : State) : Out :=
  done (fun q => q.mgr m 0x34 true (fun q => q.qpCmd { pair := q.ownPair qpn, cmd := m, kind := 1, context })) s

/-- QP_RESET (R142). -/
def execQpReset (m : MgrRef) (qpn : BitVec 16) (s : State) : Out :=
  done (fun q => q.mgr m 0x31 true (fun q => q.qpCmd { pair := q.pairIn qpn .error, cmd := m, kind := 2 })) s

/-- QP_DESTROY (R142). -/
def execQpDestroy (m : MgrRef) (qpn : BitVec 16) (s : State) : Out :=
  done (fun q => q.mgr m 0x32 true (fun q => q.qpCmd { pair := q.pairIn qpn .reset, cmd := m, kind := 3 })) s

end Sys2Proof.Machine
end

