-- ==== Sys2Proof/Machine/Ownership.lean ====
section
/-! DEFINITION. Machine/Ownership.lean: ownership of queue pairs between QF960s (R147 to R150, R421 to R423): leases,
release, claim, replay, and the backup's mirror. -/

namespace Sys2Proof.Machine

/-! ### Ownership messages (R305) -/

/-- What an ownership message says. -/
structure OwnMsg where
  kind : Nat
  qpn : Qpn
  origin : Ep
  epoch : BitVec 32
  grantee : Ep
  consumer : BitVec 16
  producer : BitVec 16
  peers : List PeerSlot
  deriving DecidableEq, Repr

/-- A peer slot from its 64 bits (Table COPY-2); a slot of zeros is unused. -/
def PeerSlot.ofBits (x : BitVec 64) : PeerSlot where
  peer := fld x 50 14
  nextPsn := fld x 18 32
  unacked := (fld x 9 9).toNat
  atomicOut := x.getLsbD 8

/-- An ownership message from its payload. -/
def OwnMsg.ofBytes (bs : List Byte) : OwnMsg :=
  let x : BitVec 256 := bitsOf 256 (slice bs 0 32)
  { kind := (fld x 0 8).toNat, qpn := fld x 8 16, origin := fld x 24 14, epoch := fld x 64 32
    grantee := fld x 96 14, consumer := fld x 160 16, producer := fld x 176 16
    peers := ((chunks 8 8 (slice bs 32 64)).map (fun b => (bitsOf 64 b : BitVec 64))).filterMap (fun w =>
      if w = 0 then none else some (PeerSlot.ofBits w)) }

/-- The queue pair that an ownership message is about. -/
def OwnMsg.pair (m : OwnMsg) : QpKey := m.origin ++ m.qpn

/-- An ownership record kept here. -/
def Qf.ownRec? (q : Qf) (n : QpKey) : Option OwnRec := q.qps.own.find? n.toNat
/-- Change an ownership record. -/
def Qf.updOwn (q : Qf) (n : QpKey) (f : OwnRec → OwnRec) : Qf :=
  { q with qps := { q.qps with own := q.qps.own.upd n.toNat {} f } }

/-- An ownership record's 128 bits (Table COPY-11). -/
def OwnRec.bits (r : OwnRec) : BitVec 128 :=
  r.ownerEp ++ r.ownEpoch ++ (0 : BitVec 1) ++ bit r.released ++ r.qpn ++ r.leaseEnd

/-- An OWN_MIRROR payload (R421): the mirror sequence, the record, and its checkpoint (log 25). -/
def OwnRec.mirrorBytes (r : OwnRec) (seq : BitVec 32) : List Byte :=
  let slot (p : PeerSlot) : BitVec 64 := p.peer ++ p.nextPsn ++ BitVec.ofNat 9 p.unacked ++ bit p.atomicOut ++ (0 : BitVec 8)
  bytesOf 4 seq ++ bytesOf 16 r.bits ++ bytesOf 2 r.ckConsumer ++ bytesOf 2 r.ckProducer ++
    slice (r.ckPeers.flatMap (fun p => bytesOf 8 (slot p))) 0 64

/-- An ownership record and its sequence from an OWN_MIRROR payload. -/
def mirrorOf (bs : List Byte) : BitVec 32 × OwnRec :=
  let x : BitVec 128 := bitsOf 128 (slice bs 4 16)
  (bitsOf 32 (slice bs 0 4),
   { ownerEp := fld x 114 14, ownEpoch := fld x 82 32, released := x.getLsbD 80, qpn := fld x 64 16
     leaseEnd := fld x 0 64, ckConsumer := bitsOf 16 (slice bs 20 2), ckProducer := bitsOf 16 (slice bs 22 2)
     ckPeers := ((chunks 8 8 (slice bs 24 64)).map (fun b => (bitsOf 64 b : BitVec 64))).filterMap (fun w =>
       if w = 0 then none else some (PeerSlot.ofBits w)) })

/-- Mirror a queue pair's record to the backup (R421): a backup that cannot be reached is recorded as a fault. -/
def Qf.mirror (q : Qf) (n : QpKey) : Qf :=
  match q.ownRec? n with
  | none => q
  | some r =>
    let seq := q.qps.mirrorSeq + 1
    let q := { q with qps := { q.qps with mirrorSeq := seq } }
    let b : Ep := fld q.qps.backupEp 0 14
    let p := q.mgt Opc.ownMirror b (r.mirrorBytes seq)
    match q.route p with
    | some _ => q.sendPlain .mgmt p
    | none => q.fault 5 { unit := 11, status := Status.linkDown.code, peer := b, detail := qpnOf n }

/-- An ownership change is made: its answer goes at once, or, at the origin, after its backup's acknowledgement (R421). -/
def Qf.ownChanged (q : Qf) (n : QpKey) (answer : Option Packet) : Qf :=
  if q.qps.backupEp = 0xFFFF || originOf n != q.ownEp then
    match answer with
    | some a => q.sendPlain (.unit (qpSector n)) a
    | none => q
  else
    let q := q.updOwn n (fun r => { r with pendingAnswer := answer.map (fun a => (q.qps.mirrorSeq + 1, a)) })
    q.mirror n

/-- OWN_ANSWER to a message (Table LINK-7). -/
def Qf.ownAnswer (q : Qf) (p : Packet) (n : QpKey) (e : BitVec 32) (lease : BitVec 64) (st : Status) : Packet :=
  { (q.reply p Opc.ownAnswer st.code (bytesOf 4 e ++ bytesOf 8 lease)) with
    qp := some { originEp := originOf n, qpn := qpnOf n, ownEpoch := e } }

/-- Refuse an ownership message with EPOCH_STALE (R150). -/
def Qf.ownRefuse (q : Qf) (p : Packet) (m : OwnMsg) : Qf :=
  let e := ((q.ownRec? m.pair).map OwnRec.ownEpoch).getD 0
  q.sendPlain (.unit (qpSector m.pair)) (q.ownAnswer p m.pair e 0 .epochStale)

/-- A new lease's end. -/
def Qf.newLease (q : Qf) : BitVec 64 := BitVec.ofNat 64 (q.now + 100000)

/-- Whether this QF960 keeps the ownership record that a message is about: its own, or one it took over. -/
def Qf.keepsOwn (q : Qf) (m : OwnMsg) : Bool := (q.ownRec? m.pair).isSome && (m.origin = q.ownEp ||
  q.flt.fencedEps.contains m.origin)

/-! ### At the record's keeper -/

/-- RENEW at the record's keeper (R148). -/
def Qf.takeRenew (q : Qf) (p : Packet) (m : OwnMsg) : Qf :=
  match q.ownRec? m.pair with
  | none => q.ownRefuse p m
  | some r =>
    if r.released || r.ownerEp != p.srcEp || r.ownEpoch != m.epoch || !q.keepsOwn m then q.ownRefuse p m
    else
      let q := q.updOwn m.pair (fun r => { r with
        leaseEnd := q.newLease, ckConsumer := m.consumer, ckProducer := m.producer, ckPeers := m.peers })
      q.ownChanged m.pair (some (q.ownAnswer p m.pair r.ownEpoch q.newLease .ok))

/-- RELEASE at the record's keeper (R149 step 1). -/
def Qf.takeRelease (q : Qf) (p : Packet) (m : OwnMsg) : Qf :=
  match q.ownRec? m.pair with
  | none => q.ownRefuse p m
  | some r =>
    if r.released || r.ownerEp != p.srcEp || r.ownEpoch != m.epoch || !q.keepsOwn m then q.ownRefuse p m
    else
      let e := r.ownEpoch + 1
      let q := q.updOwn m.pair (fun r => { r with
        released := true, ownerEp := m.grantee, ownEpoch := e, leaseEnd := q.newLease
        ckConsumer := m.consumer, ckProducer := m.producer, ckPeers := m.peers })
      q.ownChanged m.pair (some (q.ownAnswer p m.pair e q.newLease .ok))

/-- CLAIM at the record's keeper (R149 step 3): a context in RELEASED here goes to RESET once it is confirmed (Table COPY-9). -/
def Qf.takeClaim (q : Qf) (p : Packet) (m : OwnMsg) : Qf :=
  match q.ownRec? m.pair with
  | none => q.ownRefuse p m
  | some r =>
    if !r.released || r.ownerEp != p.srcEp || r.ownEpoch != m.epoch || r.leaseEnd.toNat ≤ q.now || !q.keepsOwn m then
      q.ownRefuse p m
    else
      let q := q.updOwn m.pair (fun r => { r with released := false, leaseEnd := q.newLease })
      let q := if (q.qp m.pair).ctx.state = .released then
          q.clearQp m.pair
        else q
      q.ownChanged m.pair (some (q.ownAnswer p m.pair r.ownEpoch q.newLease .ok))

/-! ### At an owner or grantee -/

/-- Replay from a checkpoint at an epoch: work from SQ_CONSUMER is executed again with the same packets under the same PSNs,
once COMPLETION_COUNT has been read (R149 step 4).  CQ_CONSUMER, which no checkpoint carries, stays as the context held it
(DESIGN CHOICE, log 189). -/
def Qf.replay (q : Qf) (n : QpKey) (e : BitVec 32) (consumer producer : BitVec 16) (peers : List PeerSlot) : Qf :=
  let q := q.updQp n (fun x => { x with
    ctx := { x.ctx with state := .ready, ownEpoch := e, sqConsumer := consumer, cqProducer := producer }
    peers := peers.map (fun p => { p with unacked := 0, atomicOut := false, closing := false })
    cqTotal := producer.toNat, work := [], store := [], outbox := [], fetched := none, fetching := false
    ringDead := false, ringOut := [], waitingCpl := [], broken := 0 })
  (q.readAgain n (q.qp n).ctx.countAddr).settleQp n

/-- The fields of a context that TRANSFER does not carry, where the grantee holds none: free values (log 26), but for
PRIVILEGED, which only a creation gives (R128). -/
def Qf.freeCtx (q : Qf) : QpCtx × Qf :=
  let (a, q) := q.takeFree
  let (b, q) := q.takeFree
  let (c, q) := q.takeFree
  let (d, q) := q.takeFree
  let (e, q) := q.takeFree
  ({ world := a.getLsbD 1, tenant := fld a 2 12, boundEp := fld a 14 14
     sqLog2 := fld b 56 4, cqLog2 := fld b 60 4, sqBase := fld b 0 56, cqBase := fld c 0 56, winBase := fld d 0 56
     winPages := fld a 28 28, msixVector := fld c 53 11, msixEnable := a.getLsbD 56, sqProducer := fld e 0 16 }, q)

/-- TRANSFER at the grantee: it holds the state and claims (R149 steps 2 and 3). -/
def Qf.takeTransfer (q : Qf) (m : OwnMsg) : Qf :=
  let n := m.pair
  if q.hasQp n && (q.qp n).ctx.state != .reset then q
  else
    let x : QpCtx × Qf := if q.hasQp n then ((q.qp n).ctx, q) else q.freeCtx
    let c := { x.1 with
      state := .reset, originEp := m.origin, ownEpoch := m.epoch, sqConsumer := m.consumer, cqProducer := m.producer }
    let q := x.2.updQp n (fun y => { y with ctx := c, peers := m.peers })
    q.sendOwn n 4 m.origin 0

/-- A RELEASE that this QF960's own engine makes: it stops starting packets and tells the record's keeper
(R149 step 1). -/
def Qf.startRelease (q : Qf) (m : OwnMsg) : Qf :=
  let x := q.qp m.pair
  if !q.hasQp m.pair || x.ctx.state != .ready then q
  else
    let q := q.updQp m.pair (fun x => { x with
      ctx := { x.ctx with state := .released }, transferTo := some m.grantee })
    q.sendOwn m.pair 2 (x.authority.getD m.origin) m.grantee

/-- An ownership message on its way. -/
def Qf.ownMsg (q : Qf) (i : Ingress) (p : Packet) (f : Qf → Qf) : Qf :=
  if !q.inService then q
  else if p.destEp = q.ownEp then f (q.take i p) else (q.take i p).transit i p

/-- RENEW (R148). -/
def execRenew (i : Ingress) (p : Packet) (s : State) : Out :=
  done (fun q => q.ownMsg i p (fun q => q.takeRenew p (OwnMsg.ofBytes p.payload))) s

/-- RELEASE (R149): of this QF960's own engine, or at the record's keeper. -/
def execRelease (i : Ingress) (p : Packet) (s : State) : Out :=
  done (fun q =>
    let m := OwnMsg.ofBytes p.payload
    if q.inService && p.srcEp = q.ownEp && (q.qp m.pair).ctx.state = .ready then (q.take i p).startRelease m
    else q.ownMsg i p (fun q => q.takeRelease p m)) s

/-- TRANSFER (R149). -/
def execTransfer (i : Ingress) (p : Packet) (s : State) : Out :=
  done (fun q => q.ownMsg i p (fun q => q.takeTransfer (OwnMsg.ofBytes p.payload))) s

/-- CLAIM (R149, R150). -/
def execClaim (i : Ingress) (p : Packet) (s : State) : Out :=
  done (fun q => q.ownMsg i p (fun q => q.takeClaim p (OwnMsg.ofBytes p.payload))) s

/-- OWN_ANSWER at the sender of an ownership message, or at a live owner from a backup that took over
(R148, R150, R422). -/
def Qf.takeAnswer (q : Qf) (p : Packet) : Qf :=
  let isIt (r : OpenReq) : Bool := r.src = p.destEp && r.tag = p.tag &&
    (match r.owner with | .ownership _ => true | _ => false)
  let n? : Option QpKey := match q.edge.reqs.find? isIt with
    | some r => (match r.owner with | .ownership n => some n | _ => none)
    | none => p.qp.map (fun h => h.originEp ++ h.qpn)
  let q := { q with edge := { q.edge with reqs := dropFirst isIt q.edge.reqs } }
  match n? with
  | none => q
  | some n =>
    let x := q.qp n
    let e : BitVec 32 := bitsOf 32 (slice p.payload 0 4)
    let lease := leNat (slice p.payload 4 8)
    if !q.hasQp n then q
    else if p.status != 0 then (if x.ctx.state = .ready || x.ctx.state = .released then q.qpStop n 1 .epochStale else q)
    else
      let auth := if p.srcEp = originOf n then none else some p.srcEp
      let q := q.updQp n (fun x => { x with leaseEnd := lease, authority := auth })
      match x.ctx.state with
      | .released =>
        (match x.transferTo with
         | some b => (q.updQp n (fun x => { x with
             transferTo := none, ctx := { x.ctx with ownEpoch := e } })).sendOwn n 3 b b
         | none => q)
      | .reset =>
        let q := q.updQp n (fun x => { x with renewSent := some q.now })
        q.replay n e x.ctx.sqConsumer x.ctx.cqProducer x.peers
      | _ => q.settleQp n

/-- OWN_ANSWER (R150). -/
def execOwnAnswer (i : Ingress) (p : Packet) (s : State) : Out :=
  done (fun q => q.ownMsg i p (fun q => q.takeAnswer p)) s

/-- LEASE_RENEWAL (R148): every 25 us. -/
def execLeaseRenewal (n : QpKey) (s : State) : Out :=
  done (fun q =>
    let x := q.qp n
    let due := match x.renewSent with | some t => decide (t + 25000 ≤ q.now) | none => true
    let mirrored := originOf n = q.ownEp && q.qps.backupEp != 0xFFFF
    if q.inService && q.hasQp n && x.ctx.state = .ready && due then
      (if mirrored then (q.checkpoint n).ownChanged n none else q.checkpoint n)
    else q) s

/-- The keeper takes a queue pair back at the next epoch and replays its checkpoint (R149 step 5, R422). -/
def Qf.reclaimQp (q : Qf) (n : QpKey) : Qf :=
  match q.ownRec? n with
  | none => q
  | some r =>
    let e := r.ownEpoch + 1
    let q := q.updOwn n (fun r => { r with ownEpoch := e, ownerEp := q.ownEp, released := false, leaseEnd := q.newLease })
    let q := q.ownChanged n none
    let q := q.clearQp n
    q.replay n e r.ckConsumer r.ckProducer r.ckPeers

/-- LEASE_END (R149 step 5). -/
def execLeaseEnd (n : QpKey) (s : State) : Out :=
  done (fun q => match q.ownRec? n with
    | some r => if q.inService && decide (r.leaseEnd.toNat ≤ q.now) && (r.released || r.ownerEp != q.ownEp) then
        q.reclaimQp n else q
    | none => q) s

/-- OWNER_LEASE_STOP (R148, R423): past its lease an owner sends nothing; a released context is freed; with its
origin fenced and no backup, the queue pair is in RESET and its work is reported. -/
def execOwnerLeaseStop (n : QpKey) (s : State) : Out :=
  done (fun q =>
    let x := q.qp n
    if !q.hasQp n || originOf n = q.ownEp || q.now < x.leaseEnd || !q.running then q
    else if x.ctx.state = .released then q.clearQp n
    else if x.ctx.state = .ready && q.flt.fencedEps.contains (originOf n) && x.authority.isNone then
      q.qpStop n 2 .linkDown
    else q) s

/-! ### The backup (R421, R422) -/

/-- OWN_MIRROR at the backup: the record is kept and acknowledged. -/
def Qf.takeMirror (q : Qf) (p : Packet) : Qf :=
  let (seq, r) := mirrorOf p.payload
  let isIt (m : MirrorRec) : Bool := m.origin = p.srcEp && m.record.qpn = r.qpn
  let new : MirrorRec := { origin := p.srcEp, mirrorSeq := seq, record := r }
  let q := { q with qps := { q.qps with mirrors := q.qps.mirrors.filter (fun m => !isIt m) ++ [new] } }
  q.sendPlain .mgmt (q.mgt Opc.ownMirrorAck p.srcEp (bytesOf 2 r.qpn ++ bytesOf 4 seq))

/-- OWN_MIRROR (R421). -/
def execOwnMirror (i : Ingress) (p : Packet) (s : State) : Out :=
  done (fun q => q.ownMsg i p (fun q => q.takeMirror p)) s

/-- OWN_MIRROR_ACK (R421): the answer that waited for it is sent. -/
def execOwnMirrorAck (i : Ingress) (p : Packet) (s : State) : Out :=
  done (fun q => q.ownMsg i p (fun q =>
    let n : QpKey := q.ownPair (bitsOf 16 (slice p.payload 0 2))
    let seq : BitVec 32 := bitsOf 32 (slice p.payload 2 4)
    match (q.ownRec? n).bind OwnRec.pendingAnswer with
    | some (want, a) => if want = seq then
        (q.updOwn n (fun r => { r with pendingAnswer := none })).sendPlain (.unit (qpSector n)) a else q
    | none => q)) s

/-- A backup takes over the queue pairs of a fenced origin (R422). -/
def Qf.takeOver (q : Qf) (x : Ep) : Qf :=
  (q.qps.mirrors.filter (fun m => m.origin = x)).foldl (fun q m =>
    let n : QpKey := x ++ m.record.qpn
    if q.qps.own.has n.toNat then q
    else
      let q := q.updOwn n (fun _ => m.record)
      if !m.record.released && m.record.ownerEp != x then
        let q := q.updOwn n (fun r => { r with leaseEnd := q.newLease })
        let a : Packet := {
          opcode := Opc.ownAnswer, vc := 1, tc := 7, partitionId := q.part.id, destEp := m.record.ownerEp
          srcEp := q.ownEp, mapEpoch := q.part.epoch
          qp := some { originEp := x, qpn := m.record.qpn, ownEpoch := m.record.ownEpoch }
          payload := bytesOf 4 m.record.ownEpoch ++ bytesOf 8 q.newLease }
        q.sendPlain (.unit (qpSector n)) a
      else
        let q := if q.hasQp n then q else
          let f := q.freeCtx
          f.2.updQp n (fun y => { y with ctx := { f.1 with originEp := x } })
        q.reclaimQp n) q

end Sys2Proof.Machine
end

