-- ==== Sys2Proof/Machine/Cumulus.lean ====
section
/-! DEFINITION. Machine/Cumulus.lean: Cumulus Reduction: groups, launches, the exponent pre-pass, arithmetic, staging,
commit, delivery and abort (R154 to R186). -/

namespace Sys2Proof.Machine

/-! ### Groups and descriptors -/

/-- A group's record. -/
def Qf.group (q : Qf) (g : Nat) : Group := q.cum.groups.get g {}
/-- Change a group. -/
def Qf.updGroup (q : Qf) (g : Nat) (f : Group → Group) : Qf :=
  match q.cum.groups.find? g with
  | none => q
  | some x => { q with cum := { q.cum with groups := q.cum.groups.set g (f x) } }
/-- Change a group's instance. -/
def Qf.updInst (q : Qf) (g : Nat) (f : ColInst → ColInst) : Qf := q.updGroup g (fun x => { x with inst := f x.inst })
/-- Change a member of the instance. -/
def Qf.updMember (q : Qf) (g : Nat) (h : HalfPort) (f : ColMember → ColMember) : Qf :=
  q.updInst g (fun i => { i with members := updFirst (fun m => m.half = h) f i.members })

/-- Half-ports of a mask. -/
def halvesOf (m : BitVec 64) : List HalfPort := allHalves.filter (fun h => m.getLsbD h.toNat)
/-- The children that are QF960s. -/
def Group.qfChildren (g : Group) : List HalfPort := halvesOf (g.children &&& ~~~g.memberMask)

/-- Fields of a launch descriptor (Table CUM-2). -/
def LDesc.op (d : BitVec 512) : BitVec 4 := fld d 460 4
/-- IN_FMT. -/
def LDesc.inFmt (d : BitVec 512) : BitVec 4 := fld d 456 4
/-- OUT_FMT. -/
def LDesc.outFmt (d : BitVec 512) : BitVec 4 := fld d 452 4
/-- MODE. -/
def LDesc.mode (d : BitVec 512) : Bool := d.getLsbD 451
/-- SRC_KIND. -/
def LDesc.pool (d : BitVec 512) : Bool := d.getLsbD 450
/-- DEST_KIND. -/
def LDesc.toPool (d : BitVec 512) : Bool := d.getLsbD 449
/-- ELEMENTS. -/
def LDesc.elements (d : BitVec 512) : Nat := (fld d 416 32).toNat
/-- SRC_PVA. -/
def LDesc.src (d : BitVec 512) : Nat := (fld d 360 56).toNat
/-- DEST_PVA. -/
def LDesc.dest (d : BitVec 512) : Nat := (fld d 304 56).toNat
/-- COUNTER_PVA. -/
def LDesc.counter (d : BitVec 512) : Nat := (fld d 248 56).toNat
/-- FRB_TABLE_PVA. -/
def LDesc.table (d : BitVec 512) : Nat := (fld d 42 56).toNat
/-- FRB_RATE. -/
def LDesc.rate (d : BitVec 512) : Nat := (fld d 38 4).toNat
/-- The flag of a descriptor. -/
def LDesc.flag (d : BitVec 512) : PennantRec :=
  { flagAddr := (fld d 162 56 : BitVec 56).zeroExtend 64, flagValue := fld d 98 64, flagOp := fld d 219 4
    flagWidth := d.getLsbD 218 }
/-- The signature of a descriptor (R162). -/
def LDesc.sig (d : BitVec 512) : ColSig :=
  { op := LDesc.op d, inFmt := LDesc.inFmt d, outFmt := LDesc.outFmt d, mode := LDesc.mode d
    elements := LDesc.elements d }

/-- Whether an operation and its formats are in Table CUM-3. -/
def sigListed (x : ColSig) : Bool :=
  let i := x.inFmt.toNat
  let o := x.outFmt.toNat
  let float := decide (i = 0 ∨ i = 1 ∨ i = 4) && decide (o ≤ 1)
  match x.op.toNat with
  | 0 | 1 | 2 => float || ((i = 2 || i = 3) && o = i)
  | 3 | 4 | 5 => (i = 2 || i = 3) && o = i
  | _ => false

/-- Whether a descriptor is one that R161 does not refuse. -/
def launchOk (modes : BitVec 2) (d : BitVec 512) : Bool :=
  let x := LDesc.sig d
  fld d 508 4 = (1 : BitVec 4) && sigListed x && modes.getLsbD (if x.mode then 0 else 1) &&
  !d.getLsbD 448 && fld d 224 24 = (0 : BitVec 24) && fld d 0 38 = (0 : BitVec 38) && decide (1 ≤ x.elements) &&
  !(x.inFmt = 4 && (x.elements % 256 != 0 || decide (6 ≤ LDesc.rate d))) &&
  !(d.getLsbD 223 && decide (4 ≤ (LDesc.flag d).flagOp.toNat))

/-- A canonical float sum, which runs the pre-pass (R177, R182). -/
def ColSig.canonical (x : ColSig) : Bool := x.mode && x.op = 0 && (x.inFmt = 0 || x.inFmt = 1 || x.inFmt = 4)
/-- Whether the input is floating point. -/
def ColSig.float (x : ColSig) : Bool := x.inFmt = 0 || x.inFmt = 1 || x.inFmt = 4
/-- Blocks of an instance (R165). -/
def ColSig.blocks (x : ColSig) : Nat := ceilDiv x.elements 256
/-- Elements of a block (R165). -/
def ColSig.elems (x : ColSig) (b : Nat) : Nat := min 256 (x.elements - 256 * b)
/-- Bytes of an input element; 4 for an expanded FRB value. -/
def ColSig.inBytes (x : ColSig) : Nat := if x.inFmt = 0 then 2 else if x.inFmt = 3 then 8 else 4
/-- Bytes of an output element. -/
def ColSig.outBytes (x : ColSig) : Nat := if x.outFmt = 0 then 2 else if x.outFmt = 3 then 8 else 4
/-- The float format of the input, expanded where it is FRB. -/
def ColSig.inFloat (x : ColSig) : Fmt := if x.inFmt = 0 then bf16 else f32
/-- The float format of the output. -/
def ColSig.outFloat (x : ColSig) : Fmt := if x.outFmt = 0 then bf16 else f32
/-- The signature in a COL header. -/
def hdrSig (c : ColHdr) : ColSig :=
  { op := c.op, inFmt := c.inFmt, outFmt := c.outFmt, mode := c.mode, elements := c.elements.toNat }

/-! ### Element arithmetic (R163, R164, R169) -/

/-- Two elements combined in a block's slot. -/
def ColSig.combine (x : ColSig) (a b : BitVec 64) : BitVec 64 :=
  let f := x.inFloat
  let n := if x.inFmt = 3 then 64 else 32
  let less := if x.float then decide (f.order b.toNat < f.order a.toNat)
    else decide (signed n b.toNat < signed n a.toNat)
  let nan := x.float && (f.isNan a.toNat || f.isNan b.toNat)
  match x.op.toNat with
  | 0 =>
    if x.canonical then a + b
    else if x.float then BitVec.ofNat 64 (f32.add a.toNat b.toNat)
    else BitVec.ofNat 64 ((a.toNat + b.toNat) % 2 ^ n)
  | 1 => if nan then BitVec.ofNat 64 f.qnan else if less then b else a
  | 2 => if nan then BitVec.ofNat 64 f.qnan else if less || a = b then a else b
  | 3 => a &&& b
  | 4 => a ||| b
  | _ => a ^^^ b

/-- A contribution's element as its block's slot takes it (R163, R168): e is the block exponent. -/
def ColSig.enter (x : ColSig) (e : Int) (v : Nat) : BitVec 64 :=
  if x.canonical then BitVec.ofInt 64 (toF64 x.inFloat v e)
  else if x.float && x.op = 0 then BitVec.ofNat 64 (x.inFloat.conv f32 v)
  else BitVec.ofNat 64 v

/-- The FORM and element bytes of a partial (R177): packed where the subtree holds at most 64. -/
def ColSig.form (x : ColSig) (subtree : Nat) : BitVec 2 × Nat :=
  if x.canonical then (if subtree ≤ 64 then (3, 6) else (2, 8))
  else if x.float && x.op = 0 then (1, 4)
  else if x.inFmt = 4 then (1, 4)
  else (0, x.inBytes)

/-- Bytes of an element in a FORM (Table LINK-8). -/
def ColSig.formBytes (x : ColSig) (form : BitVec 2) : Nat :=
  if form = 0 then x.inBytes else if form = 1 then 4 else if form = 2 then 8 else 6

/-- An element received in a FORM: the packed form is sign-extended (Table CUM-4). -/
def formValue (form : BitVec 2) (v : Nat) : BitVec 64 :=
  if form = 3 then BitVec.ofInt 64 (signed 48 v) else BitVec.ofNat 64 v

/-- n elements of k bytes each. -/
def elementsOf (k : Nat) : Nat → List Byte → List Nat
  | 0, _ => []
  | n + 1, bs => leNat (bs.take k) :: elementsOf k n (bs.drop k)

/-- The root's result of an element, and whether it overflowed (R164, R170, R173). -/
def ColSig.result (x : ColSig) (ebyte : Nat) (v : BitVec 64) : Nat × Bool :=
  if x.canonical then fromF64 x.outFloat v.toInt (blockExp ebyte)
  else if x.float && x.op = 0 then (f32.conv x.outFloat v.toNat, false)
  else if x.float then (x.inFloat.conv x.outFloat v.toNat, false)
  else (v.toNat, false)

/-! ### Messages -/

/-- A COL header of the current instance. -/
def Qf.colHdr (q : Qf) (g : Nat) (control : Bool) (first : Nat) (run : Nat) : ColHdr :=
  let x := q.group g
  let s := x.inst.sig.getD {}
  { groupId := BitVec.ofNat 12 g, instanceSeq := x.nextSeq, firstBlock := BitVec.ofNat 32 first
    run := BitVec.ofNat 16 run, control, op := s.op, inFmt := s.inFmt, outFmt := s.outFmt, mode := s.mode
    elements := BitVec.ofNat 32 s.elements }

/-- A COL message of this QF960. -/
def Qf.colPkt (q : Qf) (g : Nat) (o : BitVec 8) (c : ColHdr) (bs : List Byte) : Packet :=
  { opcode := o, vc := 4, tc := fld q.sched.colTc 0 3, partitionId := q.part.id, srcEp := q.ownEp
    tenant := (q.group g).tenant, mapEpoch := q.part.epoch, col := some c, payload := bs }

/-- The sector that reduces a block (R20). -/
def colSector (g b : Nat) : Sector := BitVec.ofNat 3 (g + b)

/-- The Cumulus unit that orders a group's commit and aborts (R179); its results, in block order, and the COL_DONE behind
them leave from it. -/
def colUnit (g : Nat) : Ingress := unitOf (colSector g 0)

/-- The greatest finite E byte of the final bytes, and how many blocks are non-finite (R173, R181). -/
def ColInst.eStats (i : ColInst) : Nat × Nat :=
  let es := i.eFinal.vals.map BitVec.toNat
  (es.foldl (fun a e => if e = 0xFF then a else max a e) 0, (es.filter (· = 0xFF)).length)

/-- A completion record (Table CUM-7). -/
def colRecord (g : Nat) (seq : BitVec 32) (st reason : BitVec 8) (elements : Nat) (i : ColInst) : List Byte :=
  let e := if (i.sig.getD {}).canonical then i.eStats else (0, 0)
  natLe 32 (packHi [(8, st.toNat), (8, reason.toNat), (12, g), (32, seq.toNat), (32, elements),
    (15, i.contributions), (8, e.1), (32, e.2), (32, i.overflow), (13, 0), (64, i.commitTime)])

/-- COL_DONE to a member (R181). -/
def Qf.colDone (q : Qf) (g : Nat) (h : HalfPort) (ep : Ep) (tag : Tag) (seq : BitVec 32) (st reason : BitVec 8)
    (elements : Nat) (i : ColInst) : Qf :=
  let c := { (q.colHdr g false 0 0) with instanceSeq := seq, reason := reason }
  let p := { (q.colPkt g Opc.colDone c (colRecord g seq st reason elements i)) with
    destEp := ep, tag := tag, status := st }
  q.sendOn (colUnit g) h p

/-- A launch that is refused (R161): its completion record says so, and no state is left. -/
def Qf.refuseLaunch (q : Qf) (h : HalfPort) (p : Packet) (c : ColHdr) (st : Status) (reason : BitVec 8) : Qf :=
  q.colDone c.groupId.toNat h p.srcEp p.tag c.instanceSeq st.code reason (LDesc.elements (bitsOf 512 p.payload)) {}

/-! ### Abort (R183) -/

/-- Answer an abort request: toward its member, or by completing its command. -/
def Qf.answerAbort (q : Qf) (g : Nat) (seq : BitVec 32) (r : ColReq) (st : Status) : Qf :=
  match r.cmd, r.half with
  | some m, _ => q.complete m 0x42 st
  | none, some h =>
    let c := { (q.colHdr g true 0 0) with instanceSeq := seq, reason := 1 }
    q.sendOn (unitOf (halfSector h)) h
      { (q.colPkt g Opc.colAbortAnswer c []) with destEp := r.ep, tag := r.tag, status := st.code }
  | none, none => q

/-- Every request of the instance is answered. -/
def Qf.answerAborts (q : Qf) (g : Nat) (st : Status) : Qf :=
  let x := q.group g
  (x.inst.requests.foldl (fun q r => q.answerAbort g x.nextSeq r st) q).updInst g (fun i => { i with requests := [] })

/-- The instance is aborted here (Tables CUM-5 and CUM-8, R183): slots cleared, COL_ABORT to the children, members among
them, and COL_DONE to every member, launched or not. -/
def Qf.colAbortNow (q : Qf) (g : Nat) (reason st : BitVec 8) : Qf :=
  let x := q.group g
  let i := x.inst
  if !(x.istate = .prepass || x.istate = .summing) then q
  else
    let q := q.updGroup g (fun x => { x with
      istate := .aborting
      inst := { x.inst with blocks := [], staged := [], eFrom := [], part := [], reason, status := st
                            acks := halvesOf (x.children &&& x.memberMask) } })
    let c := { (q.colHdr g true 0 0) with reason := reason }
    let q := q.sendCol (unitOf (colSector g 0)) x.qfChildren { (q.colPkt g Opc.colAbort c []) with status := st }
    let q := (halvesOf x.memberMask).foldl (fun q h =>
      let m := (i.members.find? (fun m => m.half = h)).getD { half := h, ep := (q.link h).peerEp }
      let q := q.sendOn (colUnit g) h
        { (q.colPkt g Opc.colAbort c []) with status := st, destEp := m.ep, tag := m.tag }
      if m.doneSent then q
      else q.colDone g h m.ep m.tag x.nextSeq st reason (i.sig.getD {}).elements { i with contributions := 0, commitTime := 0 }) q
    (q.updInst g (fun i => { i with members := i.members.map (fun m => { m with doneSent := true }) })).answerAborts g .ok

/-- An abort request of the current instance is ordered here: decided at the root, else passed to the parent (R179,
R183). -/
def Qf.colAbortAsk (q : Qf) (g : Nat) (reason st : BitVec 8) (from_ : Option ColReq) : Qf :=
  let x := q.group g
  let note (q : Qf) : Qf := match from_ with
    | some r => q.updInst g (fun i => { i with requests := i.requests ++ [r] })
    | none => q
  if x.istate = .committed then
    (match from_ with | some r => q.answerAbort g x.nextSeq r .alreadyComplete | none => q)
  else if x.istate = .aborting then
    (match from_ with | some r => q.answerAbort g x.nextSeq r .ok | none => q)
  else if x.root then (note q).colAbortNow g reason st
  else if from_.isNone && x.inst.abortSent then q
  else
    let c := { (q.colHdr g true 0 0) with reason := reason }
    let p := { (q.colPkt g Opc.colAbortReq c []) with
      status := st, srcEp := (from_.map ColReq.ep).getD q.ownEp, tag := (from_.map ColReq.tag).getD 0 }
    ((note q).updInst g (fun i => { i with abortSent := true })).sendCol (unitOf (colSector g 0)) [x.parent] p

/-- A failure found in the instance (R183). -/
def Qf.colFail (q : Qf) (g : Nat) (reason st : BitVec 8) : Qf :=
  let x := q.group g
  if x.istate = .prepass || x.istate = .summing then q.colAbortAsk g reason st none else q

/-! ### Starting an instance -/

/-- The first packet of an instance (Table CUM-8): the signature is recorded; a root that cannot stage it aborts
(R178). -/
def Qf.colBegin (q : Qf) (g : Nat) (sig : ColSig) : Qf :=
  let x := q.group g
  if x.istate != .idle then q
  else
    let q := q.updGroup g (fun x => { x with
      istate := if sig.canonical then .prepass else .summing
      inst := { x.inst with sig := some sig, lastPacket := q.now, timeout := q.cum.timeout.toNat } })
    let fits := if x.frames = [] then decide (sig.elements ≤ 2048 * x.window)
      else decide (sig.elements * sig.outBytes ≤ x.frames.length * 268435456)
    if x.root && !fits then q.colAbortAsk g 7 Status.quota.code none else q

/-- An abort request is the first thing that reaches an idle root: the instance begins, to be aborted (R183). -/
def Qf.colOpen (q : Qf) (g : Nat) : Qf := if (q.group g).root then q.colBegin g {} else q

/-- A packet of the instance with a signature: the first begins it, another one that differs is a MISMATCH (R162). -/
def Qf.colSign (q : Qf) (g : Nat) (sig : ColSig) : Bool × Qf :=
  match (q.group g).inst.sig with
  | none => let q := q.colBegin g sig; (decide ((q.group g).istate ≠ .aborting), q)
  | some s => if s = sig then (true, q) else (false, q.colFail g 2 Status.unsupportedVersion.code)

/-! ### Delivery (R180) -/

/-- A member's memory identity for its pool source and destination: the group's tenant, in the world of a Cumulus unit
(Table SEC-1). -/
def Qf.colIssuer (q : Qf) (g : Nat) (h : HalfPort) : Issuer :=
  { sector := halfSector h, tenant := (q.group g).tenant, stream := streamOf 2 g, world := false }

/-- COL_DONE of a member once its results and flag are delivered. -/
def Qf.memberFinish (q : Qf) (g : Nat) (h : HalfPort) : Qf :=
  let x := q.group g
  let sig := x.inst.sig.getD {}
  match x.inst.members.find? (fun m => m.half = h) with
  | none => q
  | some m =>
    let flag := LDesc.toPool m.desc && m.desc.getLsbD 223
    if m.doneSent || x.istate != .committed || x.inst.resNext < sig.blocks || m.writesOut != 0 then q
    else if flag && m.fail = 0 && !m.flagSent then
      let q := q.updMember g h (fun m => { m with flagSent := true })
      let r := q.engFlag (q.colIssuer g h) (.colWrite (BitVec.ofNat 12 g) (h.toNat + 64)) (LDesc.flag m.desc)
      match r.1 with
      | none => r.2
      | some st =>
        let q := r.2.updMember g h (fun m => { m with fail := st.code, flagDone := true, doneSent := true })
        q.colDone g h m.ep m.tag x.nextSeq st.code 0 sig.elements x.inst
    else if m.flagSent && !m.flagDone then q
    else
      (q.updMember g h (fun m => { m with doneSent := true })).colDone g h m.ep m.tag x.nextSeq m.fail 0
        sig.elements x.inst

/-- The first number at or above b that a list does not hold, and the list's rest. -/
def nextB0 : Nat → Nat → List Nat → Nat × List Nat
  | 0, b, l => (b, l)
  | k + 1, b, l => if l.contains b then nextB0 k (b + 1) (l.filter (· != b)) else (b, l)

/-- One block's result goes to the children and the members, and counts as passed on (R180, R182). -/
def Qf.colDeliver (q : Qf) (g b : Nat) (bs : List Byte) : Qf :=
  let x := q.group g
  let sig := x.inst.sig.getD {}
  let p := q.colPkt g Opc.colResult (q.colHdr g false b 1) bs
  let q := if x.qfChildren = [] then q else q.sendCol (colUnit g) x.qfChildren p
  let q := x.inst.members.foldl (fun q m =>
    if m.doneSent || m.fail != 0 then q
    else if LDesc.toPool m.desc then
      let r := q.engWriteAll (q.colIssuer g m.half) (.colWrite (BitVec.ofNat 12 g) m.half.toNat)
        (LDesc.counter m.desc) (LDesc.dest m.desc + 256 * b * sig.outBytes) bs
      r.2.2.updMember g m.half (fun m => { m with
        writesOut := m.writesOut + r.2.1
        fail := match r.1 with | some st => st.code | none => m.fail })
    else q.sendOn (colUnit g) m.half { p with destEp := m.ep, tag := m.tag }) q
  let r := nextB0 (x.inst.resAhead.length + 1) x.inst.resNext (b :: x.inst.resAhead)
  q.updInst g (fun i => { i with resNext := r.1, resAhead := r.2 })

/-- The root commits (R179): COL_COMMIT with the time, the contributions and the overflow count, then the result from
staging in block order. -/
def Qf.colCommit (q : Qf) (g : Nat) : Qf :=
  let q := q.updGroup g (fun x => { x with
    istate := .committed, inst := { x.inst with commitTime := q.now, contributions := x.subtree } })
  let x := q.group g
  let c := { (q.colHdr g true 0 0) with commitTime := BitVec.ofNat 64 x.inst.commitTime }
  let bs := natLe 4 x.inst.contributions ++ natLe 4 x.inst.overflow
  let q := if x.qfChildren = [] then q
    else q.sendCol (unitOf (colSector g 0)) x.qfChildren (q.colPkt g Opc.colCommit c bs)
  let q := x.inst.staged.foldl (fun q y => q.colDeliver g y.1 y.2) q
  let q := q.updInst g (fun i => { i with staged := [] })
  (x.inst.members.foldl (fun q m => q.memberFinish g m.half) q).answerAborts g .alreadyComplete

/-! ### Summing (R158, R163 to R178) -/

/-- A block holds every contribution: it is forwarded as a partial, or at the root converted and staged; the last one
staged commits the instance (R173, R177 to R179). -/
def Qf.colBlockDone (q : Qf) (g b : Nat) (blk : ColBlock) : Qf :=
  let x := q.group g
  let sig := x.inst.sig.getD {}
  let e := ((x.inst.eFinal.get b 0)).toNat
  let bad := sig.canonical && e = 0xFF
  let r := nextB0 (x.inst.ahead.length + 1) x.inst.b0 (b :: x.inst.ahead)
  let q := q.updInst g (fun i => { i with blocks := i.blocks.del b, b0 := r.1, ahead := r.2 })
  if x.root then
    let vs := if bad then List.replicate (sig.elems b) (sig.outFloat.qnan, false)
      else blk.acc.map (sig.result e)
    let bs := vs.flatMap (fun v => natLe sig.outBytes v.1)
    let infs := (vs.filter Prod.snd).length
    let q := q.updInst g (fun i => { i with staged := i.staged.set b bs, overflow := i.overflow + infs })
    let q := if bad then { q with cum := { q.cum with nonfinite := q.cum.nonfinite + 1 } } else q
    if r.1 = sig.blocks then q.colCommit g else q
  else
    let f := sig.form x.subtree
    let bs := if bad then [] else blk.acc.flatMap (fun v => natLe f.2 v.toNat)
    let c := { (q.colHdr g false b 1) with form := f.1 }
    q.sendCol (unitOf (colSector g b)) [x.parent] (q.colPkt g Opc.colPartial c bs)

/-- A contribution or a child's partial is folded into its block's slot (R163, R169). -/
def Qf.colFold (q : Qf) (g : Nat) (h : HalfPort) (b : Nat) (vs : List (BitVec 64)) : Qf :=
  let x := q.group g
  let sig := x.inst.sig.getD {}
  let blk := x.inst.blocks.get b {}
  if x.istate != .summing || blk.got.contains h || b < x.inst.b0 || x.inst.ahead.contains b then q
  else
    let acc := if blk.got = [] then vs else List.zipWith sig.combine blk.acc vs
    let blk : ColBlock := { acc, got := blk.got ++ [h] }
    let q := (q.meter (colSector g b) x.tenant 6 vs.length).updInst g (fun i => { i with blocks := i.blocks.set b blk })
    if (halvesOf x.children).all (fun c => blk.got.contains c) then q.colBlockDone g b blk else q

/-- The values of an FRB block, counted (R175, R254). -/
def Qf.colExpand (q : Qf) (t : Line) (bs : List Byte) : Option (List Nat) × Qf :=
  match frbExpand t bs with
  | some vs => (some vs, { q with eng := { q.eng with frbExpanded := q.eng.frbExpanded + 1 } })
  | none => (none, { q with eng := { q.eng with frbMalformed := q.eng.frbMalformed + 1 } })

/-- Bytes of block b of a member's contribution. -/
def srcBytes (sig : ColSig) (d : BitVec 512) (b : Nat) : Nat :=
  if sig.inFmt = 4 then frbBytes (LDesc.rate d) else sig.elems b * sig.inBytes

/-- The values of one block of a member's contribution, none where it is malformed. -/
def Qf.colValues (q : Qf) (m : ColMember) (sig : ColSig) (b : Nat) (bs : List Byte) : Option (List Nat) × Qf :=
  if sig.inFmt = 4 then (match m.table with | some t => q.colExpand t bs | none => (none, q))
  else (some (elementsOf sig.inBytes (sig.elems b) bs), q)

/-- One block of a member's contribution enters the sum (R168, R173, R174). -/
def Qf.colContribute (q : Qf) (g : Nat) (m : ColMember) (b : Nat) (bs : List Byte) : Qf :=
  let x := q.group g
  let sig := x.inst.sig.getD {}
  let r := q.colValues m sig b bs
  match r.1 with
  | none => r.2.colFail g 3 Status.unsupportedVersion.code
  | some vs =>
    let e := (x.inst.eFinal.get b 0).toNat
    if sig.canonical && vs.any (fun v => decide (e < expCode sig.inFloat v)) then
      r.2.colFail g 4 Status.unsupportedVersion.code
    else r.2.colFold g m.half b (if sig.canonical && e = 0xFF then [] else vs.map (sig.enter (blockExp e)))

/-! ### The pre-pass (R166) -/

/-- The maxima that every child has sent go up; at the root they are final and go down; a QF960 that holds every byte
starts the sum. -/
def Qf.colExps (q : Qf) (g : Nat) : Qf :=
  let x := q.group g
  let sig := x.inst.sig.getD {}
  if x.istate != .prepass then q
  else
    let from_ (b : Nat) : List (Option Byte) := (halvesOf x.children).map (fun h => (x.inst.eFrom.get h.toNat []).find? b)
    let have_ (b : Nat) : Bool := (from_ b).all Option.isSome
    let ready := ((List.range (sig.blocks - x.inst.eSent)).takeWhile (fun k => have_ (x.inst.eSent + k))).length
    let bytes := (List.range ready).map (fun k =>
      BitVec.ofNat 8 ((from_ (x.inst.eSent + k)).foldl (fun a v => max a ((v.getD 0).toNat)) 0))
    let send (q : Qf) (o : BitVec 8) (hs : List HalfPort) : Qf :=
      ((chunks 4096 (ceilDiv ready 4096) bytes).zipIdx).foldl (fun q c =>
        q.sendCol (unitOf (colSector g 0)) hs
          (q.colPkt g o (q.colHdr g true (x.inst.eSent + 4096 * c.2) c.1.length) c.1)) q
    let q := if ready = 0 then q else q.updInst g (fun i => { i with eSent := i.eSent + ready })
    let q := if ready = 0 then q
      else if x.root then
        let q := q.updInst g (fun i => { i with
          eFinal := (bytes.zipIdx).foldl (fun t v => t.set (x.inst.eSent + v.2) v.1) i.eFinal })
        if x.qfChildren = [] then q else send q Opc.colEbcast x.qfChildren
      else send q Opc.colExp [x.parent]
    if (q.group g).inst.eFinal.length = sig.blocks then
      q.updGroup g (fun x => { x with istate := .summing, inst := { x.inst with eFrom := [] } })
    else q

/-- Store E bytes of a half-port. -/
def Qf.colPutExps (q : Qf) (g : Nat) (h : HalfPort) (first : Nat) (bs : List Byte) : Qf :=
  (q.updInst g (fun i => { i with
    eFrom := i.eFrom.upd h.toNat [] (fun t => (bs.zipIdx).foldl (fun t v => t.set (first + v.2) v.1) t) })).colExps g

/-! ### Reading a pool source (R166, R175) -/

/-- The Cumulus domains that a run of blocks of a group needs (R20, R530). -/
def colDomains (g first run : Nat) : List Nat :=
  ((List.range (min run 8)).map (fun k => 5 * (colSector g (first + k)).toNat + 1)).eraseDups
/-- Whether the Cumulus units of a run of blocks are ON. -/
def Qf.colOn (q : Qf) (g first run : Nat) : Bool := (colDomains g first run).all (fun d => q.domainOn d)

/-- Take the whole blocks that a member's buffer holds. -/
def Qf.colTake : Nat → Nat → HalfPort → Qf → Qf
  | 0, _, _, q => q
  | k + 1, g, h, q =>
    let x := q.group g
    let sig := x.inst.sig.getD {}
    match x.inst.members.find? (fun m => m.half = h) with
    | none => q
    | some m =>
      let n := srcBytes sig m.desc m.blk
      let stage := if m.pass = 0 then x.istate = .prepass
        else x.istate = .summing && decide (m.blk < x.inst.b0 + 8 * x.window)
      if !stage || sig.blocks ≤ m.blk || m.buf.length < n || !q.colOn g m.blk 1 then q
      else
        let q := q.updMember g h (fun m => { m with blk := m.blk + 1, buf := m.buf.drop n })
        if m.pass = 0 then
          let r := q.colValues m sig m.blk (m.buf.take n)
          match r.1 with
          | none => r.2.colFail g 3 Status.unsupportedVersion.code
          | some vs =>
            let e := vs.foldl (fun a v => max a (expCode sig.inFloat v)) 0
            Qf.colTake k g h (r.2.colPutExps g h m.blk [BitVec.ofNat 8 e])
        else Qf.colTake k g h (q.colContribute g m m.blk (m.buf.take n))

/-- Read on for one member: the code table first, then the source page by page, once per pass. -/
def Qf.colRead (q : Qf) (g : Nat) (h : HalfPort) : Qf :=
  let x := q.group g
  let sig := x.inst.sig.getD {}
  match x.inst.members.find? (fun m => m.half = h) with
  | none => q
  | some m =>
    let o : Owner := .colLine (BitVec.ofNat 12 g) h.toNat
    let total := if sig.inFmt = 4 then sig.blocks * frbBytes (LDesc.rate m.desc) else sig.elements * sig.inBytes
    let go (q : Qf) (a n : Nat) : Qf :=
      let r := q.engRead (q.colIssuer g h) o a n
      match r.1 with
      | some st => r.2.colFail g 5 st.code
      | none => r.2.updMember g h (fun m => { m with reading := true })
    let live := x.istate = .prepass || x.istate = .summing
    if !live || m.reading then q
    else if sig.inFmt = 4 && m.table.isNone then go q (LDesc.table m.desc) 64
    else if !LDesc.pool m.desc then q
    else
      let m' := if m.pass = 0 && x.istate = .summing then { m with pass := 1, rdPos := 0, blk := 0, buf := [] } else m
      let q := q.updMember g h (fun _ => m')
      let wants := m'.rdPos < total && m'.buf.length < srcBytes sig m'.desc m'.blk &&
        (m'.pass = 0 || decide (m'.blk < x.inst.b0 + 8 * x.window))
      if wants then
        let a := LDesc.src m.desc + m'.rdPos
        go q a (min (total - m'.rdPos) (4096 - a % 4096))
      else q

/-- The end of an instance (Table CUM-8): NEXT_SEQ + 1, and the group is freed where a disarm waits. -/
def Qf.colEnd (q : Qf) (g : Nat) : Qf :=
  let x := q.group g
  let sig := x.inst.sig.getD {}
  let good := x.istate = .committed && decide (sig.blocks ≤ x.inst.resNext) && x.inst.members.all ColMember.doneSent
  let bad := x.istate = .aborting && x.qfChildren.all (fun h => x.inst.acks.contains h || !(q.link h).live)
  if good || bad then
    let q := { q with cum := { q.cum with
      completed := q.cum.completed + b2n good, aborted := q.cum.aborted + b2n bad } }
    q.updGroup g (fun x => { x with
      istate := .idle, nextSeq := x.nextSeq + 1, inst := {}
      asked := x.asked ++ x.inst.requests.map (fun r => (x.nextSeq, r)) })
  else q

/-- Free an idle group that a disarm waits for: slots, frames and the packets that waited (R157). -/
def Qf.colFree (q : Qf) (g : Nat) : Qf :=
  let x := q.group g
  match x.istate, x.disarm with
  | .idle, some m =>
    let q := x.waiting.foldl (fun q w => q.take (.half w.1) w.2) q
    let q := q.updQuota x.tenant (fun u => { u with u0 := u.u0 - x.frames.length })
    let q := q.meter 0 x.tenant 3 (-(x.frames.length : Int))
    let q := { q with cum := { q.cum with groups := q.cum.groups.del g } }
    let q := x.waitingCmds.foldl (fun q c => q.complete c.2 0x42 .alreadyComplete) q
    let q := x.asked.foldl (fun q c => q.answerAbort g c.1 c.2 .alreadyComplete) q
    q.complete m 0x41 .ok
  | _, _ => q

/-! ### Taking packets -/

/-- A launch for the current instance (R161). -/
def Qf.colLaunchNow (q : Qf) (g : Nat) (h : HalfPort) (p : Packet) (c : ColHdr) : Qf :=
  let x := q.group g
  let d : BitVec 512 := bitsOf 512 p.payload
  if x.inst.members.any (fun m => m.half = h) then q.refuseLaunch h p c .accessViolation 0
  else if LDesc.mode d && !q.cum.canonical then q.refuseLaunch h p c .retry 0
  else if !launchOk x.modes d then
    ((q.refuseLaunch h p c .unsupportedVersion 3).colBegin g (LDesc.sig d)).colAbortAsk g 3 Status.unsupportedVersion.code none
  else if x.istate = .aborting then
    q.colDone g h p.srcEp p.tag x.nextSeq x.inst.status x.inst.reason (LDesc.elements d) {}
  else
    let m : ColMember := { half := h, ep := p.srcEp, tag := p.tag, desc := d }
    ((q.updInst g (fun i => { i with members := i.members ++ [m] })).colSign g (LDesc.sig d)).2

/-- A packet of the live instance has arrived, whether it is taken or waits (R183). -/
def Qf.colStamp (q : Qf) (c : ColHdr) : Qf :=
  let g := c.groupId.toNat
  let x := q.group g
  if c.instanceSeq = x.nextSeq && (x.istate = .prepass || x.istate = .summing) then
    q.updInst g (fun i => { i with lastPacket := q.now })
  else q

/-- COL_EXP from a child (R162, R166): its signature is compared even where the sum has begun. -/
def Qf.colExpNow (q : Qf) (g : Nat) (h : HalfPort) (p : Packet) (c : ColHdr) : Qf :=
  let x := q.group g
  if !x.children.getLsbD h.toNat || x.istate = .committed || x.istate = .aborting then q
  else
    let r := q.colSign g (hdrSig c)
    if r.1 && (r.2.group g).istate = .prepass then r.2.colPutExps g h c.firstBlock.toNat p.payload else r.2

/-- COL_EBCAST from the parent (R166): none where the instance has not begun here. -/
def Qf.colEbcastNow (q : Qf) (g : Nat) (p : Packet) (c : ColHdr) : Option Qf :=
  let x := q.group g
  let first := c.firstBlock.toNat
  if x.istate = .idle then none
  else if x.istate != .prepass then some q
  else
    let q := q.updInst g (fun i => { i with
      eFinal := (p.payload.zipIdx).foldl (fun t v => t.set (first + v.2) v.1) i.eFinal })
    let q := if x.qfChildren = [] then q else
      q.sendCol (unitOf (colSector g 0)) x.qfChildren (q.colPkt g Opc.colEbcast (q.colHdr g true first c.run.toNat) p.payload)
    some (q.colExps g)

/-- Bytes of a block in a COL_DATA or COL_PARTIAL packet: a non-finite block's partial carries no values (R173). -/
def Qf.colSize (q : Qf) (g : Nat) (c : ColHdr) (data : Bool) (m : ColMember) (sig : ColSig) (b : Nat) : Nat :=
  if data then srcBytes sig m.desc b
  else if sig.canonical && (q.group g).inst.eFinal.get b 0 = 0xFF then 0 else sig.elems b * sig.formBytes c.form

/-- The blocks of a COL_DATA or COL_PARTIAL packet from the k-th on, n of them left, taken in turn while the window and
the block's unit accept them (R158): how many blocks are then done with.  Once the sum is over the rest is discarded. -/
def Qf.colBlocks (g : Nat) (h : HalfPort) (p : Packet) (c : ColHdr) (data : Bool) (m : ColMember) (sig : ColSig) :
    Nat → Nat → Nat → Qf → Nat × Qf
  | 0, k, _, q => (k, q)
  | n + 1, k, off, q =>
    let x := q.group g
    let b := c.firstBlock.toNat + k
    let z := q.colSize g c data m sig b
    if sig.blocks ≤ b || x.istate != .summing then (c.run.toNat, q)
    else if x.inst.b0 + 8 * x.window ≤ b || !q.colOn g b 1 then (k, q)
    else
      let bs := slice p.payload off z
      Qf.colBlocks g h p c data m sig n (k + 1) (off + z)
        (if data then q.colContribute g m b bs
         else q.colFold g h b (if z = 0 then [] else
           (elementsOf (sig.formBytes c.form) (sig.elems b) bs).map (formValue c.form)))

/-- A packet's blocks are taken from where its half-port stands; whether all are done with. -/
def Qf.colSome (q : Qf) (g : Nat) (h : HalfPort) (p : Packet) (c : ColHdr) (data : Bool) (m : ColMember) (sig : ColSig) :
    Bool × Qf :=
  let k := (q.group g).inst.part.get h.toNat 0
  let off := ((List.range k).map (fun j => q.colSize g c data m sig (c.firstBlock.toNat + j))).sum
  let r := Qf.colBlocks g h p c data m sig (c.run.toNat - k) k off q
  let all := decide (c.run.toNat ≤ r.1)
  (all, r.2.updInst g (fun i => { i with part := if all then i.part.del h.toNat else i.part.set h.toNat r.1 }))

/-- COL_DATA from a member or COL_PARTIAL from a child (R158, R168, R169, R177): whether it is done with, and the block
after what of it is taken now. -/
def Qf.colDataStep (q : Qf) (g : Nat) (h : HalfPort) (p : Packet) (c : ColHdr) : Bool × Qf :=
  let x := q.group g
  let data : Bool := p.opcode = Opc.colData
  if !x.children.getLsbD h.toNat || (data != x.memberMask.getLsbD h.toNat) || x.istate = .committed || x.istate = .aborting then
    (true, q)
  else
    let mem := x.inst.members.find? (fun m => m.half = h)
    let r := if data then (true, q) else q.colSign g (hdrSig c)
    let q := r.2
    let x := q.group g
    let sig := x.inst.sig.getD {}
    if !r.1 then (true, q)
    else if data && (mem.isNone || (sig.inFmt = 4 && (mem.getD {}).table.isNone)) then (false, q)
    else if data && (hdrSig c) != sig then (true, q.colFail g 2 Status.unsupportedVersion.code)
    else if x.istate != .summing then (false, q)
    else q.colSome g h p c data (mem.getD {}) sig

/-- A COL_DATA or COL_PARTIAL packet that is done with at once: none where some of it waits. -/
def Qf.colDataNow (q : Qf) (g : Nat) (h : HalfPort) (p : Packet) (c : ColHdr) : Option Qf :=
  let r := q.colDataStep g h p c
  if r.1 then some r.2 else none

/-- The first data packet that waits at each half-port is taken as far as it may be (R158). -/
def Qf.colAdvance (q : Qf) (g : Nat) : Qf :=
  let data (w : HalfPort × Packet) : Bool := w.2.opcode = Opc.colData || w.2.opcode = Opc.colPartial
  let firsts := ((q.group g).waiting.filter data).foldl
    (fun (a : List (HalfPort × Packet)) w => if a.any (fun y => y.1 = w.1) then a else a ++ [w]) []
  firsts.foldl (fun q w => match w.2.col with
    | some c => if c.instanceSeq = (q.group g).nextSeq then
        (let r := q.colDataStep g w.1 w.2 c; if r.1 then q else r.2) else q
    | none => q) q

/-- COL_COMMIT from the parent (R179). -/
def Qf.colCommitNow (q : Qf) (g : Nat) (p : Packet) (c : ColHdr) : Qf :=
  let x := q.group g
  if x.istate = .summing then
    let q := q.updGroup g (fun x => { x with
      istate := .committed
      inst := { x.inst with blocks := [], commitTime := c.commitTime.toNat
                            contributions := leNat (slice p.payload 0 4), overflow := leNat (slice p.payload 4 4) } })
    if x.qfChildren = [] then q else
      let c' := { (q.colHdr g true 0 0) with commitTime := c.commitTime }
      q.sendCol (unitOf (colSector g 0)) x.qfChildren (q.colPkt g Opc.colCommit c' p.payload)
  else q

/-- COL_RESULT from the parent (R178, R180): none before the commit. -/
def Qf.colResultNow (q : Qf) (g : Nat) (p : Packet) (c : ColHdr) : Option Qf :=
  let x := q.group g
  if x.istate = .prepass || x.istate = .summing then none
  else if x.istate != .committed then some q
  else
    let sig := x.inst.sig.getD {}
    let q := ((List.range c.run.toNat).foldl (fun (a : Nat × Qf) k =>
      let b := c.firstBlock.toNat + k
      let n := sig.elems b * sig.outBytes
      let i := (a.2.group g).inst
      (a.1 + n, if sig.blocks ≤ b || b < i.resNext || i.resAhead.contains b then a.2
        else a.2.colDeliver g b (slice p.payload a.1 n))) (0, q)).2
    some (x.inst.members.foldl (fun q m => q.memberFinish g m.half) q)

/-- COL_ABORT_REQ from a child, or COL_ABORT from a member (Table CUM-8). -/
def Qf.colAbortReqNow (q : Qf) (g : Nat) (h : HalfPort) (p : Packet) (c : ColHdr) (member : Bool) : Qf :=
  let q := if (q.group g).root then q.colBegin g (hdrSig c) else q
  let reason := if member then 1 else c.reason
  let st := if member then Status.aborted.code else p.status
  let r : Option ColReq := if reason = 1 then some { half := some h, ep := p.srcEp, tag := p.tag } else none
  q.colAbortAsk g reason st r

/-- COL_ABORT from the parent: acknowledged, and the instance aborts (Table CUM-8). -/
def Qf.colAbortFrom (q : Qf) (g : Nat) (h : HalfPort) (p : Packet) (c : ColHdr) : Qf :=
  let x := q.group g
  let ack := { (q.colPkt g Opc.colAbortAnswer { (q.colHdr g true 0 0) with reason := c.reason } []) with
    destEp := (q.link h).peerEp }
  let q := q.sendCol (unitOf (colSector g 0)) [h] ack
  if x.istate = .prepass || x.istate = .summing then q.colAbortNow g c.reason p.status
  else if x.istate = .idle then (q.colBegin g (hdrSig c)).colAbortNow g c.reason p.status
  else q

/-- COL_ABORT_ANSWER: from the parent the root's answer to a request, from a child its acknowledgement (Table CUM-8). -/
def Qf.colAnswerNow (q : Qf) (g : Nat) (h : HalfPort) (p : Packet) (up : Bool) : Qf :=
  let x := q.group g
  if up then
    let isIt (r : ColReq) : Bool := r.ep = p.destEp && r.tag = p.tag
    match x.inst.requests.find? isIt with
    | some r =>
      let st : Status := if p.status = 0 then .ok else .alreadyComplete
      (q.answerAbort g x.nextSeq r st).updInst g (fun i => { i with requests := dropFirst isIt i.requests })
    | none => q
  else if x.children.getLsbD h.toNat then
    q.updInst g (fun i => { i with acks := if i.acks.contains h then i.acks else i.acks ++ [h] })
  else q

/-- A packet of the current instance: none where it waits. -/
def Qf.colNow (q : Qf) (g : Nat) (h : HalfPort) (p : Packet) (c : ColHdr) : Option Qf :=
  let x := q.group g
  let child := x.children.getLsbD h.toNat
  let member := x.memberMask.getLsbD h.toNat
  let up := !x.root && h = x.parent
  if p.opcode = Opc.colLaunch then some (q.colLaunchNow g h p c)
  else if p.opcode = Opc.colExp then some (q.colExpNow g h p c)
  else if p.opcode = Opc.colEbcast then (if up then q.colEbcastNow g p c else some q)
  else if p.opcode = Opc.colData || p.opcode = Opc.colPartial then q.colDataNow g h p c
  else if p.opcode = Opc.colCommit then some (if up then q.colCommitNow g p c else q)
  else if p.opcode = Opc.colResult then (if up then q.colResultNow g p c else some q)
  else if p.opcode = Opc.colAbortReq || (p.opcode = Opc.colAbort && member) then
    some (if child then q.colAbortReqNow g h p c member else q)
  else if p.opcode = Opc.colAbort then some (if up then q.colAbortFrom g h p c else q)
  else if p.opcode = Opc.colAbortAnswer then some (q.colAnswerNow g h p up)
  else some q

/-- A COL packet, by its instance (R159): none where it waits. -/
def Qf.colTry (q : Qf) (h : HalfPort) (p : Packet) : Option Qf :=
  match p.col with
  | none => some q
  | some c =>
    let g := c.groupId.toNat
    let x := q.group g
    let d := (c.instanceSeq - x.nextSeq).toNat
    let member := x.memberMask.getLsbD h.toNat
    let launch := p.opcode = Opc.colLaunch
    let tenant := ((q.link h).bind.map Binding.tenant).getD p.tenant
    let stale (q : Qf) : Qf := { q with cum := { q.cum with stale := q.cum.stale + 1 } }
    if !q.cum.groups.has g then some (if launch then q.refuseLaunch h p c .accessViolation 0 else q)
    else if launch && (!member || tenant != x.tenant) then some (q.refuseLaunch h p c .accessViolation 0)
    else if 2 ^ 31 ≤ d then
      if launch then some (q.refuseLaunch h p c .alreadyComplete 0)
      else if p.opcode = Opc.colAbortReq || (p.opcode = Opc.colAbort && member) then
        some ((stale q).answerAbort g c.instanceSeq { half := some h, ep := p.srcEp, tag := p.tag } .alreadyComplete)
      else if p.opcode = Opc.colAbortAnswer && !x.root && h = x.parent then
        let isIt (r : BitVec 32 × ColReq) : Bool := r.1 = c.instanceSeq && r.2.ep = p.destEp && r.2.tag = p.tag
        match x.asked.find? isIt with
        | some r => some ((q.updGroup g (fun x => { x with asked := dropFirst isIt x.asked })).answerAbort g r.1 r.2
            (if p.status = 0 then .ok else .alreadyComplete))
        | none => some (stale q)
      else some (stale q)
    else if d != 0 then none
    else q.colNow g h p c

/-- Everything that follows in a group by itself: reading, blocks read, member completions, the instance's end, and the
packets that waited, in order; at most k rounds. -/
def Qf.colPump : Nat → Nat → Qf → Qf
  | 0, _, q => q
  | k + 1, g, q =>
    let x := q.group g
    let q := x.inst.members.foldl (fun q m => (Qf.colTake 4096 g m.half q).colRead g m.half) q
    let q := (q.group g).inst.members.foldl (fun q m => q.memberFinish g m.half) q
    let q := q.colEnd g
    let q := q.colFree g
    let q := q.colAdvance g
    let ready := (q.group g).waiting.find? (fun w => (q.colTry w.1 w.2).isSome)
    let cmd := (q.group g).waitingCmds.find? (fun w => w.1 = (q.group g).nextSeq)
    match ready, cmd with
    | some w, _ =>
      let q := q.updGroup g (fun x => { x with waiting := dropFirst (· = w) x.waiting })
      let q := q.take (.half w.1) w.2
      Qf.colPump k g ((q.colTry w.1 w.2).getD q)
    | none, some w =>
      let q := q.updGroup g (fun x => { x with waitingCmds := dropFirst (· = w) x.waitingCmds })
      Qf.colPump k g ((q.colOpen g).colAbortAsk g 1 Status.aborted.code (some { cmd := some w.2, ep := q.ownEp }))
    | none, none => if x = q.group g then q else Qf.colPump k g q

/-- How many rounds a group may take. -/
def Qf.colBound (q : Qf) (g : Nat) : Nat :=
  ((q.group g).waiting.map (fun w => ((w.2.col.getD {}).run).toNat + 2)).sum + (q.group g).waitingCmds.length + 16

/-- Wake the Cumulus units that what waits in a group is for (R27). -/
def Qf.colWant (q : Qf) (g : Nat) : Qf :=
  let x := q.group g
  let pkts := x.waiting.flatMap (fun w =>
    if w.2.opcode = Opc.colData || w.2.opcode = Opc.colPartial then
      let c := w.2.col.getD {}
      let k := x.inst.part.get w.1.toNat 0
      colDomains g (c.firstBlock.toNat + k) (c.run.toNat - k)
    else [])
  let bufs := x.inst.members.flatMap (fun m => if m.buf = [] then [] else colDomains g m.blk 1)
  (pkts ++ bufs).eraseDups.foldl (fun q d => q.wantUnit d) q

/-- What follows in a group by itself. -/
def Qf.colTurn (q : Qf) (g : Nat) : Qf := (Qf.colPump (q.colBound g) g q).colWant g

/-! ### Manager commands (R154 to R157, R183, R474) -/

/-- A group from its record (Table CUM-1). -/
def Group.ofRecord (r : BitVec 256) : Group :=
  { tenant := fld r 232 12, root := r.getLsbD 228, parent := fld r 222 6, modes := fld r 220 2
    children := fld r 156 64, memberMask := fld r 92 64, subtree := (fld r 77 15).toNat
    window := (fld r 66 11).toNat }

/-- Whether a record may be armed (R156, R473). -/
def recordOk (r : BitVec 256) : Bool :=
  let x := Group.ofRecord r
  x.memberMask &&& ~~~x.children = 0 && (x.root || !x.children.getLsbD x.parent.toNat) &&
  decide (1 ≤ x.window) && decide (x.window ≤ 1024) && (x.root || fld r 8 12 = (0 : BitVec 12)) && x.modes != 0 &&
  fld r 20 14 = (0 : BitVec 14) && fld r 0 8 = (0 : BitVec 8) && decide (1 ≤ x.subtree) && decide (x.subtree ≤ 16384)

/-- Whether a live tree link of a record runs below QFP 1.1 (R310). -/
def Qf.oldTreeLink (q : Qf) (x : Group) : Bool :=
  ((if x.root then [] else [x.parent]) ++ halvesOf x.children).any (fun h =>
    (q.link h).live && decide ((q.link h).version.toNat < 0x11))

/-- Accumulator slots reserved in each unit. -/
def Qf.colReserved (q : Qf) : Nat := q.cum.groups.foldl (fun a y => a + y.2.window) 0

/-- Arm a group (R156, R157). -/
def Qf.armNow (q : Qf) (m : MgrRef) (record : BitVec 256) : Qf :=
  let g := (fld record 244 12).toNat
  let x := Group.ofRecord record
  let n := (fld record 8 12).toNat
  let u := q.quota x.tenant
  let fs := if n = 0 then [] else q.freeFrames n
  if q.cum.groups.has g then q.complete m 0x40 .accessViolation
  else if 4096 < q.colReserved + x.window then q.complete m 0x40 .retry
  else if n != 0 && decide (u.q0.toNat < u.u0 + n) then q.complete m 0x40 .quota
  else if fs.length < n then q.complete m 0x40 .retry
  else
    let q := { q with cum := { q.cum with groups := q.cum.groups.set g { x with frames := fs } } }
    let q := if n = 0 then q else (q.updQuota x.tenant (fun u => { u with u0 := u.u0 + n })).meter 0 x.tenant 3 n
    q.complete m 0x40 .ok

/-- Disarm a group: a running instance is aborted first (R157). -/
def Qf.disarmNow (q : Qf) (m : MgrRef) (g : Nat) : Qf :=
  if !q.cum.groups.has g then q.complete m 0x41 .accessViolation
  else ((q.updGroup g (fun x => { x with disarm := some m })).colFail g 6 Status.aborted.code).colTurn g

/-- Abort an instance for the fabric manager (R183). -/
def Qf.abortNow (q : Qf) (m : MgrRef) (g : Nat) (inst : BitVec 32) : Qf :=
  let x := q.group g
  let d := (inst - x.nextSeq).toNat
  if !q.cum.groups.has g then q.complete m 0x42 .accessViolation
  else if 2 ^ 31 ≤ d then q.complete m 0x42 .alreadyComplete
  else if d != 0 then q.updGroup g (fun x => { x with waitingCmds := x.waitingCmds ++ [(inst, m)] })
  else ((q.colOpen g).colAbortAsk g 1 Status.aborted.code (some { cmd := some m, ep := q.ownEp })).colTurn g

/-- Run a command on a group that no other command is changing. -/
def Qf.runGroupCmd (q : Qf) (m : MgrRef) (g : Nat) (c : GroupCmd) : Qf :=
  match c with
  | .arm record => q.armNow m record
  | .disarm => q.disarmNow m g
  | .abort inst => q.abortNow m g inst

/-- Run the commands that waited for a group's disarm, in order, until one changes the group in its turn (R474). -/
def Qf.groupWake : Nat → Nat → Qf → Qf
  | 0, _, q => q
  | k + 1, g, q =>
    if (q.group g).disarm.isSome then q
    else match q.cum.later.find? (fun w => w.1 = g) with
      | none => q
      | some w =>
        Qf.groupWake k g (({ q.markStart w.2.1 true with cum := { q.cum with
          later := dropFirst (fun w => w.1 = g) q.cum.later } }).runGroupCmd w.2.1 g w.2.2)

/-- Run a group on, and the commands that waited for it. -/
def Qf.colRun (q : Qf) (g : Nat) : Qf :=
  let q := q.colTurn g
  q.groupWake q.cum.later.length g

/-- A group command: it waits, not yet started, while a disarm of its group is under way (R474). -/
def Qf.groupCmd (q : Qf) (m : MgrRef) (g : Nat) (c : GroupCmd) : Qf :=
  if (q.group g).disarm.isSome || q.cum.later.any (fun w => w.1 = g) then
    { q.markStart m false with cum := { q.cum with later := q.cum.later ++ [(g, m, c)] } }
  else q.runGroupCmd m g c

/-- A COL packet arrives on a half-port: taken, or left where it is until its instance and window come (R158, R159). -/
def Qf.colArrive (q : Qf) (h : HalfPort) (p : Packet) : Qf :=
  if !q.inService then q
  else
    let g := ((p.col.getD {}).groupId).toNat
    let q := q.colStamp (p.col.getD {})
    let behind := (q.group g).waiting.any (fun w => w.1 = h && !colControl w.2.opcode) && !colControl p.opcode
    match (if behind then none else q.colTry h p) with
    | some _ =>
      let q := q.take (.half h) p
      ((q.colTry h p).getD q).colRun g
    | none => (q.updGroup g (fun x =>
        if x.waiting.contains (h, p) then x else { x with waiting := x.waiting ++ [(h, p)] })).colRun g

/-- COL_LAUNCH (R160, R161). -/
def execColLaunch (h : HalfPort) (p : Packet) (s : State) : Out :=
  done (fun q => q.colArrive h { p with opcode := Opc.colLaunch }) s
/-- COL_EXP (R166). -/
def execColExp (h : HalfPort) (p : Packet) (s : State) : Out :=
  done (fun q => q.colArrive h { p with opcode := Opc.colExp }) s
/-- COL_EBCAST (R166). -/
def execColEbcast (h : HalfPort) (p : Packet) (s : State) : Out :=
  done (fun q => q.colArrive h { p with opcode := Opc.colEbcast }) s
/-- COL_DATA (R165, R168, R174, R175). -/
def execColData (h : HalfPort) (p : Packet) (s : State) : Out :=
  done (fun q => q.colArrive h { p with opcode := Opc.colData }) s
/-- COL_PARTIAL (R163, R164, R169, R177). -/
def execColPartial (h : HalfPort) (p : Packet) (s : State) : Out :=
  done (fun q => q.colArrive h { p with opcode := Opc.colPartial }) s
/-- COL_COMMIT (R179, R182). -/
def execColCommit (h : HalfPort) (p : Packet) (s : State) : Out :=
  done (fun q => q.colArrive h { p with opcode := Opc.colCommit }) s
/-- COL_RESULT (R180). -/
def execColResult (h : HalfPort) (p : Packet) (s : State) : Out :=
  done (fun q => q.colArrive h { p with opcode := Opc.colResult }) s
/-- COL_ABORT_REQ (R183). -/
def execColAbortReq (h : HalfPort) (p : Packet) (s : State) : Out :=
  done (fun q => q.colArrive h { p with opcode := Opc.colAbortReq }) s
/-- COL_ABORT (R182, R183): from the parent, or a member's own request. -/
def execColAbort (h : HalfPort) (p : Packet) (s : State) : Out :=
  done (fun q => q.colArrive h { p with opcode := Opc.colAbort }) s
/-- COL_ABORT_ANSWER (R183). -/
def execColAbortAnswer (h : HalfPort) (p : Packet) (s : State) : Out :=
  done (fun q => q.colArrive h { p with opcode := Opc.colAbortAnswer }) s

/-- What bounds an instance's wait: COLLECTIVE_TIMEOUT as it stood at the start, and where that is 0 RECOVERY_COL_TIMEOUT
while FAULT_MODE is RECOVERY; 0 is no bound (R184, R186, R414). -/
def Qf.colLimit (q : Qf) (i : ColInst) : Nat :=
  if i.timeout = 0 && q.flt.mode = 1 then q.flt.colTimeout.toNat else i.timeout

/-- COLLECTIVE_TIMEOUT (R183, R184, R414). -/
def execCollectiveTimeout (group : GroupId) (s : State) : Out :=
  done (fun q =>
    let g := group.toNat
    let x := q.group g
    let live := x.istate = .prepass || x.istate = .summing
    if q.inService && live && q.colLimit x.inst != 0 && decide (x.inst.lastPacket + q.colLimit x.inst ≤ q.now) then
      ((q.fault 5 { sector := colSector g 0, unit := 4, status := Status.timeout.code, tenant := x.tenant }).colFail
        g 5 Status.timeout.code).colRun g
    else q) s

/-! ### Events from elsewhere -/

/-- Bytes a pool member has read, or the failure: first the code table, then its source (R161, R183, R250). -/
def Qf.colGot (q : Qf) (g : Nat) (key : Nat) (st : BitVec 8) (bs : List Byte) : Qf :=
  let h : HalfPort := BitVec.ofNat 6 key
  let x := q.group g
  match x.inst.members.find? (fun m => m.half = h) with
  | none => q
  | some m =>
    let q := q.updMember g h (fun m => { m with reading := false })
    let sig := x.inst.sig.getD {}
    let q :=
      if st != 0 then q.colFail g 5 st
      else if sig.inFmt = 4 && m.table.isNone then
        let t : Line := lineOf bs
        let q := { q with eng := { q.eng with frbLoads := q.eng.frbLoads + 1 } }
        if frbValid t && frbRate t = LDesc.rate m.desc then q.updMember g h (fun m => { m with table := some t })
        else q.colFail g 3 Status.unsupportedVersion.code
      else q.updMember g h (fun m => { m with buf := m.buf ++ bs, rdPos := m.rdPos + bs.length })
    q.colRun g

/-- A member's result write is placed or has failed, or its flag is answered (R180). -/
def Qf.colWrote (q : Qf) (g : Nat) (key : Nat) (st : BitVec 8) : Qf :=
  let h : HalfPort := BitVec.ofNat 6 key
  let flag := decide (64 ≤ key)
  (q.updMember g h (fun m => { m with
    writesOut := if flag then m.writesOut else m.writesOut - 1
    flagDone := m.flagDone || flag
    fail := if m.fail = 0 then st else m.fail })).colRun g

/-- A half-port's link is down (R182, R183): a child's loss is a failure of the instance or an acknowledgement, the
parent's loss aborts the subtree. -/
def Qf.colTreeDown (q : Qf) (h : HalfPort) : Qf :=
  q.cum.groups.foldl (fun q y =>
    let g := y.1
    let x := q.group g
    let q := q.updGroup g (fun x => { x with
      waiting := x.waiting.filter (fun w => w.1 != h), inst := { x.inst with part := x.inst.part.del h.toNat } })
    let live := x.istate = .prepass || x.istate = .summing
    let q :=
      if !x.root && h = x.parent then
        (if live then q.colAbortNow g 5 Status.linkDown.code
         else if x.istate = .committed then
           q.updInst g (fun i => { i with
             resNext := (i.sig.getD {}).blocks, resAhead := []
             members := i.members.map (fun m => if i.resNext < (i.sig.getD {}).blocks && m.fail = 0
               then { m with fail := Status.linkDown.code } else m) })
         else q)
      else if x.children.getLsbD h.toNat then
        let q := if live then q.colFail g 5 Status.linkDown.code else q
        q.updMember g h (fun m => { m with doneSent := true })
      else q
    q.colRun g) q

/-- A tenant's removal deadline aborts its collectives (R183, R397). -/
def Qf.colTenantGone (q : Qf) (t : Tenant) : Qf :=
  q.cum.groups.foldl (fun q y =>
    if y.2.tenant = t then (q.colFail y.1 5 Status.keyRetired.code).colRun y.1 else q) q

/-- An accumulator slot of a sector is lost (R183, R405): instances with blocks there fail UNCORRECTABLE. -/
def Qf.colSlotLost (q : Qf) (s : Sector) : Qf :=
  q.cum.groups.foldl (fun q y =>
    if y.2.inst.blocks.any (fun b => colSector y.1 b.1 = s) then
      (q.colFail y.1 5 Status.uncorrectable.code).colRun y.1 else q) q

/-! ### Manager commands (R154 to R157, R183) -/

/-- GROUP_ARM (R156, R157, R310). -/
def execGroupArm (m : MgrRef) (record : BitVec 256) (s : State) : Out :=
  done (fun q => q.mgr m 0x40 (recordOk record && !((Group.ofRecord record).modes.getLsbD 0 && q.oldTreeLink (Group.ofRecord record)))
    (fun q => q.groupCmd m (fld record 244 12).toNat (.arm record))) s

/-- GROUP_DISARM (R157). -/
def execGroupDisarm (m : MgrRef) (group : BitVec 16) (s : State) : Out :=
  done (fun q => q.mgr m 0x41 (inRange group 4096) (fun q => q.groupCmd m group.toNat .disarm)) s

/-- The fabric manager's COL_ABORT (R183). -/
def execColAbortCommand (m : MgrRef) (group : BitVec 16) (inst : BitVec 32) (s : State) : Out :=
  done (fun q => q.mgr m 0x42 (inRange group 4096) (fun q => q.groupCmd m group.toNat (.abort inst))) s

end Sys2Proof.Machine
end

