-- ==== Sys2Proof/Machine/Tray.lean ====
section
/-! DEFINITION. Machine/Tray.lean: what a tray's or a lender's answer does at the home: data for the line that
needed it, TRAY_DONE for the write or the fill it confirms, and the failures of R545, R542 and Table FAULT-3. -/

namespace Sys2Proof.Machine

/-- Discard a page's tier-0 and hot-page copies and refill it from tier 1; a second failure in the page releases the
frame (Table FAULT-3, R545). -/
def Qf.refillPage (q : Qf) (n : LineNo) : Qf :=
  let q := q.dropHot (linePage n)
  let s := lineSlot n
  let f := (q.extent s).t0Frame.toNat
  match q.pool.frames.find? f with
  | none => q
  | some fr =>
    let pg := (fld n 6 16 : BitVec 16).toNat
    if fr.badPages.contains pg then q.releaseFrame s .uncorrectable
    else
      let q := { q with pool := { q.pool with
        frames := q.pool.frames.set f { fr with badPages := fr.badPages ++ [pg] }
        t0Lines := q.pool.t0Lines.filter (fun x => x.1 / 64 != n.toNat / 64) } }
      (pageLines (linePage n)).foldl (fun q l => q.orderInternal { op := .fill, line := l }) q

/-! ### Reads -/

/-- The stored line that a read asked for has come. -/
def Qf.trayGot (q : Qf) (r : TrayRead) (s : StoredLine) : Qf :=
  let q := { q with home := { q.home with
    trayReads := dropFirst (fun x => x.ep = r.ep && x.tag = r.tag) q.home.trayReads } }
  match (q.lineQ r.forLine).bind BlockedLine.txn with
  | some t => if !r.cancelled && t.phase = .reading then (q.gotStored r.forLine t (.ok s)).settle else q
  | none => q

/-- A read failed: one from a lender is served from another tier and its replica dropped, one from a tray fails the
request that needed it (R545, Table FAULT-3). -/
def Qf.trayReadFail (q : Qf) (r : TrayRead) (st : Status) : Qf :=
  let q := { q with home := { q.home with
    trayReads := dropFirst (fun x => x.ep = r.ep && x.tag = r.tag) q.home.trayReads } }
  let q := if r.cirrus then (q.dropReplica (lineSlot r.line)).lineFault 0 r.line st else q.lineFault 1 r.line st
  match (q.lineQ r.forLine).bind BlockedLine.txn with
  | some t =>
    if r.cancelled || t.phase != .reading then q
    else if r.cirrus then (q.readFor r.forLine t).settle
    else (q.gotStored r.forLine t (.error st)).settle
  | none => q

/-! ### Writes -/

/-- Whether a write is the line that a replication is writing at its lender. -/
def Qf.isReplica (q : Qf) (w : TrayWrite) : Bool :=
  q.pool.replications.any (fun r => r.slot = lineSlot w.line && r.lender = w.ep &&
    r.pos = (lineInExt w.line).toNat)

/-- Whether a transaction's operation uses the recalled data after it has been placed. -/
def usesDirty (o : LineOp) : Bool :=
  match o with | .rdNc | .rdShared | .rdOwn | .upgrade | .atomic => true | _ => false

/-- A placement of a transaction is confirmed: the recalled data first, else the request's own (R109, R320). -/
def Qf.txnPlaced (q : Qf) (n : LineNo) : Qf :=
  let q := q.updTxn n (fun t => { t with trayLeft := t.trayLeft - 1 })
  match (q.lineQ n).bind BlockedLine.txn with
  | some t =>
    if t.phase != .placing || t.trayLeft != 0 then q
    else if mergesDirty t then q.placedNow n t
    else match t.dirty with
    | some l =>
      let t' : Txn := { t with wb := none, dirty := if usesDirty t.req.op then t.dirty else none }
      (((q.evalWaits n l).wbAnswer n t).updTxn n (fun _ => t')).afterSnoops n t'
    | none => q.placedNow n t
  | none => q

/-- A write is confirmed (R320). -/
def Qf.trayWritten (q : Qf) (w : TrayWrite) : Qf :=
  let rep := q.isReplica w
  let q := { q with home := { q.home with
    trayWrites := dropFirst (fun x => x.ep = w.ep && x.tag = w.tag) q.home.trayWrites } }
  if rep then (q.replicaWrote (lineSlot w.line)).settle
  else if !w.waits then q.settle
  else match w.wb with
  | some (p, l) => (q.wbPlaced w.line p l).settle
  | none => (q.txnPlaced w.line).settle

/-- A write failed at its tray or lender (R545). -/
def Qf.trayWriteFail (q : Qf) (w : TrayWrite) (st : Status) : Qf :=
  let rep := q.isReplica w
  let n := w.line
  let q := { q with home := { q.home with
    trayWrites := dropFirst (fun x => x.ep = w.ep && x.tag = w.tag) q.home.trayWrites } }
  if rep then (q.replicaEnd (lineSlot n) st).settle
  else
    let q := if !w.waits then q.lineFault 1 n st
      else match w.wb with
      | some (p, _) => q.answerFail p st
      | none =>
        match (q.lineQ n).bind BlockedLine.txn with
        | some t =>
          (match t.req.op with
           | .evict _ | .extRecall _ => (q.lineFault 1 n st).txnPlaced n
           | _ => q.failTxn n t st)
        | none => q
    (q.refillPage n).settle

/-! ### Answers -/

/-- The slot whose scrub awaits a fill's answer. -/
def Qf.fillSlot (q : Qf) (ep : Ep) (tag : Tag) : Option (Slot × Nat) :=
  let ws : List (Nat × Withdrawal) := q.pool.withdrawals
  (List.find? (fun (x : Nat × Withdrawal) =>
    (match x.2.fill with | some f => f.1 = tag | none => false) &&
    (q.extent (BitVec.ofNat 18 x.1)).trayEp = ep) ws).map (fun x =>
      (BitVec.ofNat 18 x.1, (match x.2.fill with | some f => f.2.1 | none => 0)))

/-- Whether a write is that of an endpoint and tag. -/
def TrayWrite.is (w : TrayWrite) (ep : Ep) (tag : Tag) : Bool := w.ep = ep && w.tag = tag
/-- Whether a read is that of an endpoint and tag. -/
def TrayRead.is (r : TrayRead) (ep : Ep) (tag : Tag) : Bool := r.ep = ep && r.tag = tag

/-- A tray confirms a write or a fill; while the chip drains, the write only leaves the drain (R320, R426, R542). -/
def Qf.trayDone (q : Qf) (ep : Ep) (tag : Tag) : Qf :=
  if q.pwr.failState != 0 then
    { q with home := { q.home with trayWrites := dropFirst (fun w => w.is ep tag) q.home.trayWrites } }
  else match q.fillSlot ep tag with
  | some x => (q.scrubDone x.1 x.2).settle
  | none =>
    match q.home.trayWrites.find? (fun w => w.is ep tag) with
    | some w => q.trayWritten w
    | none => q

/-- A tray or lender refuses a request: a tray's line or write fails UNCORRECTABLE whatever the tray says (R545). -/
def Qf.trayFail (q : Qf) (ep : Ep) (tag : Tag) (st : Status) : Qf :=
  match q.fillSlot ep tag with
  | some x => (q.scrubStop x.1 st).settle
  | none =>
    match q.home.trayReads.find? (fun r => r.is ep tag) with
    | some r => q.trayReadFail r (if r.cirrus then st else .uncorrectable)
    | none =>
      match q.home.trayWrites.find? (fun w => w.is ep tag) with
      | some w => q.trayWriteFail w (if q.isReplica w then st else .uncorrectable)
      | none => q

/-- The freeze of a power failure: every accepted protected write that its tray has not been sent goes on, its snoops
taken as answered SNP_RSP_I and a read from a Cirrus lender made at the tray instead (R113, R426, R428). -/
def Qf.drainAccepted (q : Qf) : Qf :=
  q.acceptedLines.foldl (fun q n =>
    let q := (q.updTxn n (fun t => { t with snoops := t.snoops.map (fun s =>
      { s with answered := true, wantData := false, wantWb := false }) })).checkSnoops n
    (q.home.trayReads.filter (fun r => r.cirrus && r.forLine = n)).foldl (fun q r => q.trayReadFail r .linkDown) q) q

/-- A tray can no longer be reached: everything it has not answered fails, and its scrubs stop (R542). -/
def Qf.trayLost (q : Qf) (ep : Ep) : Qf :=
  let reads := q.home.trayReads.filter (fun r => r.ep = ep)
  let writes := q.home.trayWrites.filter (fun w => w.ep = ep)
  let fills : List (Nat × Withdrawal) := q.pool.withdrawals.filter (fun (x : Nat × Withdrawal) =>
    x.2.fill.isSome && (q.extent (BitVec.ofNat 18 x.1)).trayEp = ep)
  let q := reads.foldl (fun q r => q.trayReadFail r .linkDown) q
  let q := writes.foldl (fun q w => q.trayWriteFail w .linkDown) q
  (fills.foldl (fun q x => q.scrubStop (BitVec.ofNat 18 x.1) .linkDown) q).settle

/-- TRAY_DONE (R320): a tray's confirmation of a write. -/
def execTrayDone (i : Ingress) (p : Packet) (s : State) : Out :=
  done (fun q =>
    if p.destEp = q.ownEp then
      (if q.inService || (q.running && q.pwr.failState = 1) then (q.take i p).trayDone p.srcEp p.tag else q)
    else q.forHome i p id) s

end Sys2Proof.Machine
end

