-- ==== Sys2Proof/Machine/Ports.lean ====
section
/-! DEFINITION. Machine/Ports.lean: ports and their modes (R289), and what a link going down or a half-port fenced does
(R113, R311, R330, R341, R418, R420). -/

namespace Sys2Proof.Machine

/-! ### Ports -/

/-- Whether a half-port carries a link in its port's mode. -/
def Qf.halfUsed (q : Qf) (h : HalfPort) : Bool :=
  match q.portMode h with
  | 0 | 2 => h = evenHalf h
  | 1 => true
  | _ => false
/-- The code of a link state (Table LINK-11 in table order). -/
def LinkState.code : LinkState → Nat
  | .detect => 0 | .equalize => 1 | .frameLock => 2 | .capability => 3 | .session => 4 | .creditInit => 5
  | .active => 6 | .rateUp => 7

/-- A link changes its state; subscribers of LINK events learn it (Table MGMT-5). -/
def Qf.setState (q : Qf) (h : HalfPort) (st : LinkState) : Qf :=
  (q.updLink h (fun l => { l with state := st, since := q.now })).sessionEvent 4
    [h.zeroExtend 8, BitVec.ofNat 8 st.code]

/-- A written mode takes effect while every link of the port is down (R289). -/
def Qf.applyMode (q : Qf) (h : HalfPort) : Qf :=
  let e := evenHalf h
  if (q.link e).state = .detect && (q.link (e + 1)).state = .detect then
    q.updLink e (fun l => { l with mode := l.modeWritten })
  else q

/-- A write of PORT_MODE at the port of a half-port. -/
def Qf.setPortMode (q : Qf) (h : HalfPort) (m : Nat) : Qf :=
  (q.updLink (evenHalf h) (fun l => { l with modeWritten := m })).applyMode h

/-! ### A link goes down -/

/-- The answer a snoop gets on behalf of a client whose link is down (R113). -/
def Qf.snoopForLost (q : Qf) (s : Packet) : Qf :=
  q.sendPlain (unitOf (q.sectorOf (lineNo s.addr)))
    { (q.reply s Opc.snpRspI) with srcEp := s.destEp }

/-- The acknowledgement of a grant on behalf of a client whose link is down (R113). -/
def Qf.ackForLost (q : Qf) (g : Packet) : Qf :=
  q.sendPlain (unitOf (q.sectorOf (lineNo g.addr)))
    { (q.reply g Opc.cmpAck) with srcEp := g.destEp }

/-- A packet queued for a half-port that is down is looked up again; one with no way out is failed, answered or
counted (R113, R341). -/
def Qf.requeue1 (q : Qf) (e : QPkt) : Qf :=
  let q := q.freeCells e
  let p := e.pkt
  if p.vc = 4 then q.noRoute
  else match q.route p with
  | some o => q.enqueue e.inp [o] p
  | none =>
    if p.vc = 0 then q.sendFail e.inp p .linkDown
    else if p.vc = 2 then q.snoopForLost p
    else if isGrant p.opcode then q.ackForLost p
    else q.noRoute

/-- Requeue everything queued for a half-port, in queue order (R341). -/
def Qf.requeueHalf (q : Qf) (h : HalfPort) : Qf :=
  let mine := q.sw.queue.filter (fun e => e.out = .half h)
  let q := { q with sw := { q.sw with queue := q.sw.queue.filter (fun e => e.out != .half h) } }
  mine.foldl (fun q e => q.requeue1 e) q

/-- One link is taken down for a reason (R311): its replay contents and incomplete packets are lost, what waited for it is
rerouted or failed, and what its client still owed is answered on its behalf.  Without its time parent the QF960 is in HOLDOVER (R480). -/
def Qf.lowerOne (q : Qf) (h : HalfPort) (reason : Nat) : Qf :=
  let l := q.link h
  if l.state = .detect then q
  else
    let up := l.live
    let q := q.updLink h (fun l => { l with
      rate := 0, version := 0, rateFails := 0, rateUpSent := false, snoops := [], acksDue := []
      rx := { staged := l.rx.staged, ctl := l.rx.ctl }, tx := {}, sess := {}
      cxl := { l.cxl with openReqs := [], trayOps := [], owned := [] }
      cnt := { l.cnt with
        lastDown := reason, downEvents := l.cnt.downEvents + b2n up
        flaps := if up then (l.cnt.flaps.filter (fun t => decide (q.now < t + 1000000000))) ++ [q.now]
          else l.cnt.flaps } })
    let q := q.setState h .detect
    let q := if (reason = 7 || reason = 8) && !up then q
      else q.fault 3 { sector := halfSector h, unit := 0, half := h, status := Status.linkDown.code
                       peer := l.peerEp, detail := BitVec.ofNat 16 reason }
    let q := q.applyMode h
    let q := if up && q.obs.parent = h.zeroExtend 8 then { q with obs := { q.obs with timeState := 3, good := 0 } } else q
    if !up then q
    else
      let q := q.requeueHalf h
      let q := l.snoops.foldl (fun q s => q.snoopForLost s) q
      let q := l.acksDue.foldl (fun q g => q.ackForLost g) q
      let q := if (l.profile = 2 || l.profile = 4) && !q.trayUp l.peerEp then q.trayLost l.peerEp else q
      q.colTreeDown h

/-- The half-ports that go down with one: the egress of the packet that was being cut through from it, and so on (R335). -/
def Qf.cutChain : Nat → HalfPort → Qf → List HalfPort
  | 0, _, _ => []
  | n + 1, h, q => h :: (match (q.link h).rx.cut with
    | some o => if (q.link o).tx.cutFrom = some h then Qf.cutChain n o q else []
    | none => [])

/-- DOWN goes to the peer of a live link (R311, R312). -/
def Qf.sendDown (q : Qf) (h : HalfPort) : Qf :=
  if (q.link h).live then q.updLink h (fun l => { (l.sendControl q.now 7) with ctlOut := l.ctlOut ++ [.down] }) else q

/-- A link is taken down for a reason (R311).  Where a packet was being cut through from it, the egress stops the packet,
sends DOWN and goes down for the same reason (R335). -/
def Qf.lowerLink (q : Qf) (h : HalfPort) (reason : Nat) : Qf :=
  (q.cutChain 64 h).foldl (fun q x => (if x = h then q else q.sendDown x).lowerOne x reason) q

/-- The fence messages in line for a half-port go out first, as far as its credits reach: a QF960 that fences itself has told its
neighbours (R416, R418). -/
def Qf.fenceTold (q : Qf) (h : HalfPort) : Qf :=
  let isIt (e : QPkt) : Bool := e.out = .half h && e.pkt.opcode = Opc.fenceCommit
  (q.sw.queue.filter isIt).foldl (fun q e =>
    if (q.link h).state = .active && (q.link h).canSend e.pkt then
      (q.dequeue isIt).updLink h (fun l => (l.startPkt e.pkt).sendNow q.now false e.pkt.slots)
    else q) q

/-- Set or clear PORT_FENCE: a fenced half-port sends DOWN and takes its link down (R418, R420). -/
def Qf.fencePort (q : Qf) (h : HalfPort) (b : Bool) : Qf :=
  let q := q.updLink h (fun l => { l with fence := b })
  if b then ((q.fenceTold h).sendDown h).lowerLink h 9 else q

/-- Fence or free one half-port by itself, recorded as a FENCE fault where it changes (Table FAULT-1). -/
def Qf.markFence (q : Qf) (h : HalfPort) (b : Bool) : Qf :=
  let l := q.link h
  let q := if l.fence = b then q
    else q.fault 11 { sector := halfSector h, half := h, peer := l.peerEp, detail := BitVec.ofNat 16 (b2n b) }
  q.fencePort h b

end Sys2Proof.Machine
end

