-- ==== Sys2Proof/Machine/Fence.lean ====
section
/-! DEFINITION. Machine/Fence.lean: suspicions, fence proposals, votes and commits (R414 to R420), FATAL faults (R404,
R418), and a link going down with what it makes suspect. -/

namespace Sys2Proof.Machine

/-! ### Messages -/

/-- A half-port whose peer is an endpoint. -/
def Qf.facing (q : Qf) (x : Ep) (h : HalfPort) : Bool := (q.link h).profile != 0 && (q.link h).peerEp = x
/-- Whether an endpoint is a QF960 that this one has a link to. -/
def Qf.isNeighbour (q : Qf) (x : Ep) : Bool := allHalves.any (fun h => q.facing x h && (q.link h).peerQf)
/-- Payload of a fence message (Table FAULT-5). -/
def fenceBody (x : Ep) (up : Nat) : List Byte := bytesOf 4 (BitVec.ofNat 32 (x.toNat + up * 2 ^ 16))
/-- The endpoint a fence message names. -/
def fenceSuspect (bs : List Byte) : Ep := BitVec.ofNat 14 (leNat (bs.take 2))
/-- The bits of a fence message from bit 16 upward. -/
def fenceUp (bs : List Byte) : Nat := leNat (bs.drop 2)

/-- How long a fence message counts as seen: the 2 ms and 160 µs within which a proposal ends everywhere (R419). -/
def seenFor : Nat := 2160000

/-- Whether a fence message has been seen (R416). -/
def Qf.seenFence (q : Qf) (o : BitVec 8) (x proposer : Ep) : Bool :=
  q.flt.seen.any (fun m => m.1 = o && m.2.1 = x && m.2.2.1 = proposer && decide (q.now ≤ m.2.2.2 + seenFor))

/-- Note a fence message as seen. -/
def Qf.noteFence (q : Qf) (o : BitVec 8) (x proposer : Ep) : Qf :=
  { q with flt := { q.flt with
    seen := (q.flt.seen.filter (fun m => decide (q.now ≤ m.2.2.2 + seenFor) &&
      !(m.1 = o && m.2.1 = x && m.2.2.1 = proposer))) ++ [(o, x, proposer, q.now)] } }

/-- Flood a fence message of this QF960 (R416). -/
def Qf.floodFence (q : Qf) (o : BitVec 8) (x : Ep) (up : Nat) : Qf :=
  (q.noteFence o x q.ownEp).flood o q.ownEp (fenceBody x up) none

/-- Answer a proposal with a vote (R417). -/
def Qf.vote (q : Qf) (x proposer : Ep) (yes : Bool) : Qf :=
  q.sendPlain .mgmt (q.mgt Opc.fenceVote proposer (fenceBody x (b2n yes)))

/-! ### Commits -/

/-- A fence of an endpoint is committed (R418): recorded, the endpoint's open messages cleared (R93), every half-port toward
it fenced, or every half-port where it is this QF960; a backup takes over what it mirrors (R422). -/
def Qf.applyCommit (q : Qf) (x : Ep) (byManager : Bool) (keep : HalfPort → Bool) : Qf :=
  let q := { q with flt := { q.flt with
    fences := q.flt.fences + 1
    fencedEps := if q.flt.fencedEps.contains x then q.flt.fencedEps else q.flt.fencedEps ++ [x]
    proposals := q.flt.proposals.filter (fun p => p.suspect != x) } }
  let q := (q.clearSource x).fault 11 { peer := x, detail := BitVec.ofNat 16 (b2n byManager) }
  let q := (allHalves.filter (fun h => (x = q.ownEp || q.facing x h) && !keep h)).foldl (fun q h => q.fencePort h true) q
  if x = q.ownEp then q else q.takeOver x

/-- Commit a fence: flood it, then carry it out (R417, R418). -/
def Qf.commitFence (q : Qf) (x : Ep) (byManager : Bool) : Qf :=
  (q.floodFence Opc.fenceCommit x (b2n byManager)).applyCommit x byManager (fun _ => false)

/-- A FATAL fault (R404, R418): recorded; the QF960 floods FENCE_COMMIT naming itself and fences its half-ports but the
ones kept. -/
def Qf.fatalBut (q : Qf) (cls : Nat) (i : FaultInfo) (keep : HalfPort → Bool) : Qf :=
  ((q.faultSev cls 3 i).floodFence Opc.fenceCommit q.ownEp 0).applyCommit q.ownEp false keep

/-- A FATAL fault. -/
def Qf.fatal (q : Qf) (cls : Nat) (i : FaultInfo) : Qf := q.fatalBut cls i (fun _ => false)

/-! ### Proposals -/

/-- Yes votes that commit a fence: more than half of the QF960s with a link to the suspect (R417). -/
def Qf.majority (q : Qf) (x : Ep) : Nat := q.part.fences.get x.toNat 0 / 2 + 1

/-- Whether a proposal is that of a suspect and proposer. -/
def Proposal.is (p : Proposal) (x by_ : Ep) : Bool := p.suspect = x && p.proposer = by_

/-- Change a proposal. -/
def Qf.updProposal (q : Qf) (x by_ : Ep) (f : Proposal → Proposal) : Qf :=
  { q with flt := { q.flt with proposals := updFirst (fun p => p.is x by_) f q.flt.proposals } }

/-- Commit this QF960's own proposal once it holds a majority. -/
def Qf.tally (q : Qf) (x : Ep) : Qf :=
  match q.flt.proposals.find? (fun p => p.is x q.ownEp) with
  | some p => if q.majority x ≤ p.votes.length then q.commitFence x false else q
  | none => q

/-- Vote yes in the first proposal for a suspect that awaits this QF960's vote. -/
def Qf.voteYes (q : Qf) (x : Ep) : Qf :=
  match q.flt.proposals.find? (fun p => p.suspect = x && !p.voted && p.proposer != q.ownEp) with
  | some p => (q.updProposal x p.proposer (fun p => { p with voted := true })).vote x p.proposer true
  | none => q

/-- A neighbouring QF960 comes under suspicion on an evidence: 1 its links are down, 2 it is silent, 3 a queue toward it
is stuck (R415).  In RECOVERY and TEST it is proposed, unless a lower endpoint has proposed it, or voted on (R417). -/
def Qf.suspect (q : Qf) (x : Ep) (evidence : Nat) : Qf :=
  if x = q.ownEp || !q.isNeighbour x || q.flt.fencedEps.contains x || q.flt.suspected.contains x then q
  else
    let q := { q with flt := { q.flt with suspected := q.flt.suspected ++ [x] } }
    if q.flt.mode = 0 then
      if evidence = 2 then q.fault 5 { unit := 9, status := Status.timeout.code, peer := x } else q
    else if q.flt.proposals.any (fun p => p.suspect = x && decide (p.proposer.toNat < q.ownEp.toNat)) then q.voteYes x
    else
      let mine : Proposal := { suspect := x, proposer := q.ownEp, opened := q.now, votes := [q.ownEp], voted := true
                               mine := true, evidence := BitVec.ofNat 4 evidence }
      let q := { q with flt := { q.flt with proposals := q.flt.proposals ++ [mine] } }
      (q.floodFence Opc.fencePropose x evidence).tally x

/-- Whether every link to an endpoint is down. -/
def Qf.allDown (q : Qf) (x : Ep) : Bool := allHalves.all (fun h => !(q.facing x h && (q.link h).live))
/-- Whether a queue toward an endpoint is stuck (R355). -/
def Qf.stuckToward (q : Qf) (x : Ep) : Bool := q.sw.stuck.any (fun s => q.facing x s.1)
/-- When an endpoint was last heard: its last heartbeat, or when its oldest live link came up. -/
def Qf.lastHeard (q : Qf) (x : Ep) : Nat :=
  let up := (allHalves.filter (fun h => q.facing x h && (q.link h).live)).map (fun h => (q.link h).since)
  max (q.flt.heard.get x.toNat 0) (up.foldl min (up.headD 0))
/-- Whether an endpoint has sent no heartbeat for five intervals (R415). -/
def Qf.isSilent (q : Qf) (x : Ep) : Bool :=
  !q.allDown x && decide (q.lastHeard x + 5 * q.flt.heartbeat.toNat ≤ q.now)
/-- Whether any evidence against an endpoint holds now. -/
def Qf.suspects (q : Qf) (x : Ep) : Bool := q.allDown x || q.stuckToward x || q.isSilent x

/-! ### A link goes down -/

/-- After a live link went down: in RECOVERY and TEST one that flaps is fenced at this end, and a QF960 with no link left is
suspected (R415). -/
def Qf.afterDown (q : Qf) (h : HalfPort) (l : Link) : Qf :=
  if !l.live then q
  else
    let q := if q.flt.mode != 0 && decide (q.flt.flapLimit.toNat < (q.link h).cnt.flaps.length) then q.markFence h true
      else q
    if l.peerQf && q.allDown l.peerEp then q.suspect l.peerEp 1 else q

/-- A link goes down, with the links of R335. -/
def Qf.linkDown (q : Qf) (h : HalfPort) (reason : Nat) : Qf :=
  let was := (q.cutChain 64 h).map (fun x => (x, q.link x))
  was.foldl (fun q x => q.afterDown x.1 x.2) (q.lowerLink h reason)

/-- A write of PORT_FENCE (R418, R420); an endpoint no half-port is fenced against is a suspect no more. -/
def Qf.setFence (q : Qf) (h : HalfPort) (b : Bool) : Qf :=
  let l := q.link h
  let q := q.markFence h b
  if b then (if l.live && l.peerQf && q.allDown l.peerEp then q.suspect l.peerEp 1 else q)
  else { q with flt := { q.flt with
    fencedEps := q.flt.fencedEps.filter (fun x => !(x = l.peerEp || x = q.ownEp))
    suspected := q.flt.suspected.filter (· != l.peerEp) } }

end Sys2Proof.Machine
end

