-- ==== Sys2Proof/Machine/Scheduler.lean ====
section
/-! DEFINITION. Machine/Scheduler.lean: the scheduler of an egress half-port (R331, R360 to R365, R370 to R372): time
gates, and the choice of the next packet. -/

namespace Sys2Proof.Machine

/-! ### Time gates (R370 to R372) -/

/-- The durations and open classes of one cycle of a gate list from its start. -/
def gateSegments : Nat → List (BitVec 64) → List (Nat × BitVec 8)
  | _, [] => []
  | left, [e] => if left = 0 then [] else [(left, fld e 56 8)]
  | left, e :: es =>
    let n := min left (fld e 0 32 : BitVec 32).toNat
    if left = 0 then [] else (n, fld e 56 8) :: gateSegments (left - n) es

/-- How long a class stays open from an instant within some segments. -/
def openFor (c : Nat) : Nat → List (Nat × BitVec 8) → Nat
  | _, [] => 0
  | t, (n, o) :: r => if n ≤ t then openFor c (t - n) r
      else if o.getLsbD c then (n - t) + openFor c 0 r else 0

/-- Time for which a class stays open, at most two cycles' worth: 0 where its gate is closed now. -/
def Egress.openTime (e : Egress) (now : Nat) (c : BitVec 3) : Nat :=
  let cy := e.gateCycle.toNat
  let seg := gateSegments cy e.gates
  openFor c.toNat ((now - e.gateStart) % max cy 1) (seg ++ seg ++ seg)

/-- The flit time of a half-port in hundredths of a ns (R336). -/
def Qf.flitTime (q : Qf) (h : HalfPort) : Nat :=
  (if q.isHalf h then 128 else 64) * (if (q.link h).rate = 2 then 1 else 2)

/-- Whether a class's gate is open for a packet (R372). -/
def Qf.gateOpen (q : Qf) (h : HalfPort) (p : Packet) : Bool :=
  let e := q.egress h
  e.gates.all (fun g => (fld g 56 8 : BitVec 8).getLsbD p.tc.toNat) || decide ((ceilDiv p.slotCount 15 + 1) * q.flitTime h ≤ 100 * e.openTime q.now p.tc)

/-! ### Choosing the next packet (R331, R360 to R364) -/

/-- Packets of the control tier (R360). -/
def inControl (p : Packet) : Bool := p.vc = 5 || colControl p.opcode

/-- Key of an egress half-port, channel and class. -/
def rrKey (h : HalfPort) (vc tc : BitVec 3) (ctl : Bool) : Nat :=
  ((h.toNat * 8 + vc.toNat) * 8 + tc.toNat) * 2 + b2n ctl

/-- The first element at or after a number in cyclic order. -/
def cyclic {α : Type} (num : α → Nat) (fromN : Nat) (l : List α) : Option α :=
  let best (l : List α) : Option α := l.foldl (fun a x => match a with
    | some y => if num x < num y then some x else a
    | none => some x) none
  match best (l.filter (fun x => decide (fromN ≤ num x))) with
  | some x => some x
  | none => best l

/-- The heads of the virtual output queues of an output, channel and class. -/
def Qf.heads (q : Qf) (h : HalfPort) (vc tc : BitVec 3) (ctl : Bool) : List QPkt :=
  (q.sw.queue.filter (fun e => e.out = .half h && e.pkt.vc = vc && e.pkt.tc = tc && inControl e.pkt = ctl)).foldl
    (fun a e => if a.any (fun x => x.inp = e.inp) then a else a ++ [e]) []

/-- Whether a link takes a packet: credits, and traffic only where both ends are booted (R312). -/
def Qf.linkTakes (q : Qf) (h : HalfPort) (p : Packet) : Bool :=
  let l := q.link h
  l.canSend p && (p.vc = 5 || (q.part.booted && l.peerBooted))

/-- The head that a class may send on a channel: the next input in turn whose packet the link takes (R331). -/
def Qf.headOf (q : Qf) (h : HalfPort) (vc tc : BitVec 3) (ctl : Bool) : Option QPkt :=
  cyclic (fun e => ingressCode e.inp) (q.sw.inNext.get (rrKey h vc tc ctl) 0)
    ((q.heads h vc tc ctl).filter (fun e => q.linkTakes h e.pkt))

/-- The packet of a class that would go next: channels in turn (R362). -/
def Qf.classHead (q : Qf) (h : HalfPort) (tc : BitVec 3) : Option QPkt :=
  let vcs := (List.range 6).filterMap (fun v => q.headOf h (BitVec.ofNat 3 v) tc false)
  cyclic (fun e => e.pkt.vc.toNat) (q.sw.vcNext.get (h.toNat * 16 + tc.toNat) 0) vcs

/-- The packet of the control tier that would go next. -/
def Qf.controlHead (q : Qf) (h : HalfPort) : Option QPkt :=
  let xs := (List.range 8).flatMap (fun c => [4, 5].filterMap (fun v =>
    q.headOf h (BitVec.ofNat 3 v) (BitVec.ofNat 3 c) true))
  cyclic (fun e => e.pkt.vc.toNat) (q.sw.vcNext.get (h.toNat * 16 + 8) 0) xs

/-- The control-tier shaper's rate in Mb/s (R365). -/
def Qf.controlRate (q : Qf) (h : HalfPort) : Nat :=
  let full := if (q.link h).rate = 2 then 3200000 else 1600000
  (if q.isHalf h then full / 2 else full) * (q.egress h).controlShare.toNat / 100

/-- A class is eligible (R361): the packet it would send.  Where its gate does not let that packet start, the whole class waits
(R372). -/
def Qf.eligible (q : Qf) (h : HalfPort) (c : Nat) : Option QPkt :=
  let e := q.egress h
  if (e.shapers.get c {}).open_ q.now && e.port.open_ q.now then
    (q.classHead h (BitVec.ofNat 3 c)).filter (fun x => q.gateOpen h x.pkt) else none

/-- Whether a class has nothing queued for a half-port. -/
def Qf.classEmpty (q : Qf) (h : HalfPort) (c : Nat) : Bool :=
  !q.sw.queue.any (fun e => e.out = .half h && e.pkt.tc.toNat = c && !inControl e.pkt)

/-- Deficit round robin (R362): the class that sends, and the state it leaves. -/
def Qf.drr (q : Qf) (h : HalfPort) : Nat → Egress → Option (Nat × QPkt) × Egress
  | 0, e => (none, e)
  | k + 1, e =>
    let wrr := (List.range 8).filter (fun c => !e.strict.getLsbD c)
    let c := e.pointer
    let x := if e.strict.getLsbD c then none else q.eligible h c
    let e := if x.isSome && e.fresh then
        { e with deficit := e.deficit.upd c 0 (· + (e.quantum.get c 4096).toNat), fresh := false } else e
    let d := e.deficit.get c 0
    match x with
    | some y =>
      if y.pkt.length ≤ d then (some (c, y), { e with deficit := e.deficit.set c (d - y.pkt.length) })
      else
        Qf.drr q h k { e with pointer := (cyclic id (c + 1) wrr).getD 0, fresh := true }
    | none =>
      let e := if q.classEmpty h c then { e with deficit := e.deficit.set c 0 } else e
      Qf.drr q h k { e with pointer := (cyclic id (c + 1) wrr).getD 0, fresh := true }

/-- The scheduler's choice: the packet, its class (8 for the control tier), and the scheduler after it. -/
def Qf.choose (q : Qf) (h : HalfPort) : Option (Nat × QPkt) × Egress :=
  let e := q.egress h
  let ctl := if decide (0 ≤ e.control.at q.now (q.controlRate h)) then q.controlHead h else none
  match ctl with
  | some x => (some (8, x), e)
  | none =>
    match ((List.range 8).reverse.filter (fun c => e.strict.getLsbD c)).findSome? (fun c =>
        (q.eligible h c).map (fun x => (c, x))) with
    | some x => (some x, e)
    | none =>
      if (List.range 8).any (fun c => !e.strict.getLsbD c && (q.eligible h c).isSome) then q.drr h 640 e
      else (none, e)

/-- A chosen packet's input and channel have had their turn (R331, R362), and its channel is not stuck. -/
def Qf.tookTurn (q : Qf) (h : HalfPort) (c : Nat) (x : QPkt) : Qf :=
  let p := x.pkt
  { q with sw := { q.sw with
    inNext := q.sw.inNext.set (rrKey h p.vc p.tc (c = 8)) (ingressCode x.inp + 1)
    vcNext := q.sw.vcNext.set (h.toNat * 16 + c) (p.vc.toNat + 1)
    stuck := q.sw.stuck.filter (fun z => !(z.1 = h && z.2 = p.vc)) } }

/-- Charge the shapers for a packet that starts (R364). -/
def Qf.chargeEgress (q : Qf) (h : HalfPort) (c : Nat) (len : Nat) : Qf :=
  q.updEgress h (fun e =>
    if c = 8 then { e with control := e.control.charge q.now (q.controlRate h) len }
    else
      let b := e.shapers.get c {}
      { e with shapers := e.shapers.set c (b.charge q.now b.rate.toNat len)
               port := e.port.charge q.now e.port.rate.toNat len })

end Sys2Proof.Machine
end

