-- ==== Sys2Proof/Machine/Links.lean ====
section
/-! DEFINITION. Machine/Links.lean: fabric links (R285 to R316, R319, R394 to R396): training, sessions, credits, flits and
their retry. -/

namespace Sys2Proof.Machine

/-! ### Control messages (R312) -/

/-- Send a control message outside the sequence. -/
def Qf.sendCtl (q : Qf) (h : HalfPort) (m : CtlMsg) : Qf := q.updLink h (fun l => { l with ctlOut := l.ctlOut ++ [m] })

/-- The versions this QF960 offers, as CAP's bitmap, under the limits in force (R308, R312). -/
def LinkParams.offered (p : LinkParams) : BitVec 3 :=
  let has (v : BitVec 8) : Bool := p.versionMin ≤ v && v ≤ p.versionMax
  bit (has 0x20) ++ bit (has 0x11) ++ bit (has 0x10)

/-- This QF960's CAP (R312, R313). -/
def Qf.ownCap (q : Qf) (h : HalfPort) : CapMsg :=
  { versions := (q.link h).par.offered, ep := q.ownEp, partitionId := q.part.id, booted := q.part.booted
    fullRate := true, isQf960 := true }

/-- The slots a QF960 advertises on a port (Table LINK-4), half of each on a half-port. -/
def creditsOf (half : Bool) : List Nat :=
  if half then [512, 512, 256, 4096, 2048, 256, 8] else [1024, 1024, 512, 8192, 4096, 512, 8]

/-! ### Training (Table LINK-11) -/

/-- A training event of a link in a state. -/
def Qf.train (q : Qf) (h : HalfPort) (st : LinkState) (f : Qf → Qf) : Qf :=
  if q.running && q.halfUsed h && q.domainOn (40 + h.toNat / 2) && !(q.link h).fence && (q.link h).state = st then f q else q

/-- LINK_DETECT (R311): a signal on the lanes; the 0x3010 values apply from here (R326). -/
def execLinkDetect (h : HalfPort) (s : State) : Out :=
  done (fun q =>
    let q := if q.running then q.applyMode h else q
    if q.pwr.failState != 0 then q
    else q.train h .detect (fun q =>
      (q.updLink h (fun l => { l with par := q.linkPar })).setState h .equalize)) s

/-- EQUALIZE_DONE (R311); training that has not succeeded goes on until its time limit. -/
def execEqualizeDone (h : HalfPort) (good : Bool) (s : State) : Out :=
  done (fun q => if good then q.train h .equalize (fun q => q.setState h .frameLock) else q) s

/-- FRAME_LOCK (R290): every lane is locked, at the reduced rate (R313). -/
def execFrameLock (h : HalfPort) (good : Bool) (s : State) : Out :=
  done (fun q => if good then q.train h .frameLock (fun q =>
    ((q.updLink h (fun l => { l with rate := 1, lastControl := q.now })).sendCtl h (.cap (q.ownCap h))).setState h
      .capability) else q) s

/-- The highest common version (R308). -/
def commonVersion (a b : BitVec 3) : Option (BitVec 8) :=
  let c := a &&& b
  if c.getLsbD 2 then some 0x20 else if c.getLsbD 1 then some 0x11 else if c.getLsbD 0 then some 0x10 else none

/-- Whether a tray's declarations keep their ranges (R319). -/
def capTrayOk (c : CapMsg) : Bool :=
  [1, 2, 4, 8, 16, 32, 64].contains c.channels.toNat && 1 ≤ c.capacity.toNat && c.capacity.toNat ≤ 8192

/-- This module's HELLO of a session (R394 step 1). -/
def Session.hello (x : Session) : HelloMsg :=
  { nonce := Config.fresh x.num, ecPub := Config.freshPub 0 x.num, kemPub := Config.freshPub 1 x.num
    rsaChain := Config.certs 0, mldsaChain := Config.certs 1 }

/-- Anchor pairs a link trusts (R396). -/
def Qf.linkAnchors (q : Qf) : List (List Byte × List Byte) :=
  Config.ednivon :: q.sec.anchors.map (fun a => (a.rsa, a.mldsa))

/-- CAP (R312, R319): a CXL port learns here whether its peer is a host or a tray and is then ACTIVE (R321, R325). -/
def execCap (h : HalfPort) (c : CapMsg) (s : State) : Out :=
  done (fun q => q.train h .capability (fun q =>
    let l := q.link h
    if q.portMode h = 2 then
      let q := q.updLink h (fun l => { l with
        version := 0x31, rate := 2, profile := if c.qfpm then 4 else 3, peerEp := c.ep, peerBooted := true
        peerQf := false, peerFull := false, trayProt := false, trayChannels := 1
        trayCapacity := min c.capacity.toNat 8192
        cxl := { l.cxl with hdmCapacity := c.capacity.toNat } })
      q.setState h .active
    else match commonVersion l.par.offered c.versions with
    | none => q.linkDown h 8
    | some v =>
      if (q.part.booted && c.booted && c.partitionId != q.part.id) || (c.qfpm && !capTrayOk c) then q.linkDown h 8
      else
        let x := q.takeFree
        let num := q.freeCount
        let q := x.2.updLink h (fun l => { l with
          version := v, profile := if c.qfpm then 2 else 1, peerEp := c.ep, peerBooted := c.booted
          peerQf := c.isQf960 && !c.qfpm, peerFull := c.fullRate
          trayProt := c.qfpm && c.protect, trayChannels := if c.qfpm then c.channels.toNat else 0
          trayCapacity := if c.qfpm then c.capacity.toNat else 0, lastControl := q.now
          sess := { num, helloSent := true, anchors := q.linkAnchors, initiator := decide (q.ownEp < c.ep) } })
        (q.sendCtl h (.hello (q.link h).sess.hello)).setState h .session)) s

/-! ### Sessions (R394 to R396) -/

/-- The bytes of a HELLO. -/
def helloBytes (m : HelloMsg) : List Byte := m.nonce ++ m.ecPub ++ m.kemPub ++ m.rsaChain ++ m.mldsaChain

/-- This module's KEM ciphertext and secret toward a peer's key. -/
def Session.ourKem (x : Session) : List Byte × List Byte :=
  Config.kemEncap x.num ((x.helloSeen.map HelloMsg.kemPub).getD [])

/-- TH of R394. -/
def Session.transcript (x : Session) : List Byte :=
  let own := helloBytes x.hello
  let peer := (x.helloSeen.map helloBytes).getD []
  let k := x.ourKem.1
  if x.initiator then sha512 (own ++ peer ++ k ++ x.kem) else sha512 (peer ++ own ++ x.kem ++ k)

/-- This module's signatures over TH, with its RSA and ML-DSA identity keys (R394 step 4). -/
def Session.finish (x : Session) : CtlMsg := .finish (Config.sign 0 x.th) (Config.sign 1 x.th)

/-- A direction's keys from a traffic secret (R395). -/
def SessDir.under (d : SessDir) (ts : List Byte) : SessDir :=
  { d with secret := ts, key := bitsOf 256 (hkdfExpand ts (ascii "QFP KEY") 32) }

/-- A direction's first keys (R395). -/
def firstDir (prk : List Byte) (d : String) : SessDir :=
  let x : SessDir := { salt := bitsOf 32 (hkdfExpand prk (ascii "QFP SALT " ++ ascii d) 4) }
  x.under (hkdfExpand prk (ascii "QFP TS " ++ ascii d) 64)

/-- The next key of a direction; the old one is kept while flits of its phase may come (R316, R395). -/
def SessDir.next (d : SessDir) (keep : Bool) : SessDir :=
  { (d.under (hkdfExpand d.secret (ascii "QFP NEXT") 64)) with
    phase := !d.phase, oldKey := if keep then some (d.key, d.salt) else none }

/-- Both directions' first keys, to send and to receive (R395). -/
def Session.keys (x : Session) : SessDir × SessDir :=
  let peer := (x.helloSeen.map HelloMsg.ecPub).getD []
  let ours := x.ourKem.2
  let theirs := Config.kemDecap x.num x.kem
  let ss := if x.initiator then ours ++ theirs else theirs ++ ours
  let prk := hkdfExtract x.th (Config.ecdh x.num peer ++ ss)
  if x.initiator then (firstDir prk "L2H", firstDir prk "H2L") else (firstDir prk "H2L", firstDir prk "L2H")

/-- Whether a peer's chains and signatures verify (R394 step 5, R396). -/
def Session.verified (x : Session) (rsaSig mldsaSig : List Byte) : Bool :=
  match x.helloSeen with
  | none => false
  | some m =>
    (match Config.chainEnd m.rsaChain, Config.chainEnd m.mldsaChain with
     | some a, some b => x.anchors.contains (a, b)
     | _, _ => false) &&
    Config.rsaVerify (Config.chainLeaf m.rsaChain) x.th rsaSig &&
    Config.mldsaVerify (Config.chainLeaf m.mldsaChain) x.th mldsaSig

/-- SESSION_HELLO (R394 step 1): equal endpoint ids fail the session. -/
def execSessionHello (h : HalfPort) (c : HelloMsg) (s : State) : Out :=
  done (fun q => q.train h .session (fun q =>
    if (q.link h).peerEp = q.ownEp then q.linkDown h 5
    else if (q.link h).sess.helloSeen.isSome then q
    else
      let q := q.updLink h (fun l => { l with sess := { l.sess with helloSeen := some c } })
      q.sendCtl h (.kem (q.link h).sess.ourKem.1))) s

/-- SESSION_KEM (R394 steps 2 and 3). -/
def execSessionKem (h : HalfPort) (ct : List Byte) (s : State) : Out :=
  done (fun q => q.train h .session (fun q =>
    let x := (q.link h).sess
    if x.helloSeen.isNone || x.kem != [] then q
    else
      let x := { x with kem := ct }
      let x := { x with th := x.transcript }
      (q.updLink h (fun l => { l with sess := x })).sendCtl h x.finish)) s

/-- SESSION_FINISH (R394 steps 4 and 5, R395, R396). -/
def execSessionFinish (h : HalfPort) (rsaSig mldsaSig : List Byte) (s : State) : Out :=
  done (fun q => q.train h .session (fun q =>
    let x := (q.link h).sess
    if x.th = [] then q
    else if !x.verified rsaSig mldsaSig then q.linkDown h 5
    else
      let k := x.keys
      let leaf := Config.chainLeaf ((x.helloSeen.map HelloMsg.mldsaChain).getD [])
      let q := q.updLink h (fun l => { l with lastControl := q.now, sess := { x with
        active := true, tx := k.1, rx := k.2, peerPrint := (sha512 leaf).take 32 } })
      (q.sendCtl h (.creditInit (creditsOf (q.isHalf h)))).setState h .creditInit)) s

/-- Credits a peer must advertise at least (R298). -/
def creditsNeeded : List Nat := [265, 265, 16, 265, 265, 64, 8]

/-- Whether a peer's advertisement suffices (R298). -/
def creditsOk (cs : List (BitVec 14)) : Bool :=
  decide (cs.length = 7) && (List.zip cs creditsNeeded).all (fun x => decide (x.2 ≤ x.1.toNat))

/-- CREDIT_INIT (R297, R298): a QFP-M link whose tray offers no session comes here from SESSION where none is
required (R314). -/
def execCreditInit (h : HalfPort) (credits : List (BitVec 14)) (s : State) : Out :=
  done (fun q =>
    let l := q.link h
    let skip := l.state = .session && l.profile = 2 && !l.par.sessionRequired && l.sess.helloSeen.isNone
    q.train h (if skip then .session else .creditInit) (fun q =>
      if !creditsOk credits then q.linkDown h 3
      else
        let q := q.updLink h (fun l => { l with
          tx := { advertised := credits, creditsIn := true }
          rx := { staged := l.rx.staged, ctl := l.rx.ctl } })
        (if skip then q.sendCtl h (.creditInit (creditsOf (q.isHalf h))) else q).setState h .active)) s

/-- RATE_UP (R313): an attempt at the full rate ends; after three failures the link stays at the reduced rate. -/
def execRateUp (h : HalfPort) (good : Bool) (s : State) : Out :=
  done (fun q =>
    let l := q.link h
    if !(q.running && l.live && l.rate = 1 && l.peerFull && (q.boot.phase = .reduced || q.boot.phase = .full) && decide (l.rateFails < 3)) then q
    else
    let q := if l.state = .active then q.updLink h (fun l => l.sendControl q.now 6) else q
    if good then
      (q.updLink h (fun l => { l with rate := 2, rateFails := 0, rateUpSent := false })).setState h .active
    else
      let n := l.rateFails + 1
      let q := q.updLink h (fun l => { l with rateFails := n, rateUpSent := decide (n < 3) })
      if n < 3 then q.setState h .rateUp
      else (q.setState h .active).fault 3 { sector := halfSector h, half := h, peer := l.peerEp }) s

/-- DOWN (R311). -/
def execDown (h : HalfPort) (s : State) : Out :=
  done (fun q => if q.running then q.linkDown h 6 else q) s

/-- The time limit of a state in ns (Table LINK-11). -/
def LinkState.limit : LinkState → Option Nat
  | .detect | .active => none
  | .equalize => some 250000000
  | .frameLock | .capability | .creditInit => some 1000000
  | .session => some 50000000
  | .rateUp => some 40000000

/-- LINK_STATE_TIMEOUT (R311). -/
def execLinkStateTimeout (h : HalfPort) (s : State) : Out :=
  done (fun q => match (q.link h).state.limit with
    | some t => if q.running && decide ((q.link h).since + t ≤ q.now) then q.linkDown h 7 else q
    | none => q) s

/-- FRAME_LOCK_LOSS (R311): more than 1 µs without lock on a lane. -/
def execFrameLockLoss (h : HalfPort) (s : State) : Out :=
  done (fun q =>
    let st := (q.link h).state
    if q.running && st != .detect && st != .equalize then q.linkDown h 1 else q) s

/-- The control message whose match the link waits for. -/
def Qf.awaited (q : Qf) (h : HalfPort) : CtlMsg :=
  let l := q.link h
  match l.state with
  | .capability => .cap (q.ownCap h)
  | .session =>
    if l.sess.helloSeen.isNone then .hello l.sess.hello
    else if l.sess.kem = [] then .kem l.sess.ourKem.1 else l.sess.finish
  | _ => .creditInit (creditsOf (q.isHalf h))

/-- CONTROL_MESSAGE_REPEAT (R312): every 1 µs until the peer's matching message arrives. -/
def execControlMessageRepeat (h : HalfPort) (s : State) : Out :=
  done (fun q =>
    let l := q.link h
    if q.running && (l.state = .capability || l.state = .session || l.state = .creditInit) &&
        decide (l.lastControl + 1000 ≤ q.now) then
      (q.updLink h (fun l => { l with lastControl := q.now })).sendCtl h (q.awaited h)
    else q) s

/-! ### Rekeying (R309, R316) -/

/-- REKEY: the receive direction moves to its next key; a rekey that fails takes the link down. -/
def execRekey (h : HalfPort) (s : State) : Out :=
  done (fun q =>
    let l := q.link h
    if !(q.running && l.live && l.sess.active && l.version = 0x20) then q
    else if l.sess.rx.oldKey.isSome then q.linkDown h 5
    else q.updLink h (fun l => { l with sess := { l.sess with rx := l.sess.rx.next true } })) s

/-- REKEY_INTERVAL: the frame counter passes a multiple, which starts a rekey, or retrains a link below 2.0. -/
def execRekeyInterval (h : HalfPort) (s : State) : Out :=
  done (fun q =>
    let l := q.link h
    if !(q.running && l.live && l.sess.active) then q
    else
      let n := max 1 l.par.rekeyInterval.toNat
      let f := BitVec.ofNat 64 ((l.sess.tx.frames.toNat / n + 1) * n)
      if l.version = 0x20 then
        (q.updLink h (fun l => l.sendControl q.now 5)).updLink h (fun l => { l with sess := { l.sess with
          tx := { (l.sess.tx.next false) with frames := f } } })
      else q.linkDown h 5) s

/-! ### Receiving flits (R293, R296 to R303) -/

/-- Fields of a flit header (Table LINK-2). -/
def flitType (f : Flit) : BitVec 2 := fld f.hdr 62 2
/-- SEQ. -/
def flitSeq (f : Flit) : BitVec 10 := fld f.hdr 52 10
/-- ACK_SEQ. -/
def flitAck (f : Flit) : BitVec 10 := fld f.hdr 42 10
/-- NAK. -/
def flitNak (f : Flit) : Bool := f.hdr.getLsbD 41
/-- KEY_PHASE. -/
def flitPhase (f : Flit) : Bool := f.hdr.getLsbD 40

/-- The header's bytes and the 15 slots' bytes. -/
def flitBody (f : Flit) : List Byte := slotBytes f.slots

/-- The key and salt for a flit's phase. -/
def SessDir.keyFor (d : SessDir) (phase : Bool) : Option (BitVec 256 × BitVec 32) :=
  if phase = d.phase then some (d.key, d.salt) else d.oldKey

/-- Check a flit and, under a session, decrypt its slots (R291, R315). -/
def Link.openFlit (l : Link) (f : Flit) : Option (List (BitVec 128)) :=
  if !l.sess.active then
    if crc64 (bytesOf 8 f.hdr ++ flitBody f) = f.check then some f.slots else none
  else match l.sess.rx.keyFor (flitPhase f) with
  | none => none
  | some k =>
    let iv := bytesOf 4 k.2 ++ bytesOf 8 l.sess.rx.frames
    if bitsOf 64 ((gcmTag k.1 iv (bytesOf 8 f.hdr) (flitBody f)).take 8) = f.check then
      some (payloadSlots 15 (gcmCrypt k.1 iv (flitBody f)))
    else none

/-- Whether an opcode may bear an optional header (R302 to R304). -/
def headersOk (p : Packet) : Bool :=
  let o := p.opcode
  let wr := o = Opc.wrNc || o = Opc.wrFullNc || o = Opc.wrBulk || o = Opc.dataWrite
  let rsp := p.vc = 1 || p.vc = 3
  let message := o = Opc.rdBulk || o = Opc.searchShard || o = Opc.sideAppend || o = Opc.searchAnswer ||
    o = Opc.cancel || o = Opc.rdNc
  (p.msg.isNone || wr || rsp || message) && (p.qp.isNone || p.vc = 0 || rsp) && (p.aux.isNone || wr) &&
  (p.pennant.isNone || wr || o = Opc.pennant)

/-- Whether every reserved field of a packet is zero. -/
def rsvdOk (p : Packet) : Bool :=
  p.rsvd = 0 && (match p.col with | some c => c.rsvd = 0 | none => true) &&
  (match p.msg with | some m => m.rsvd = 0 | none => true) &&
  (match p.qp with | some h => h.rsvd = 0 | none => true) &&
  (match p.aux with | some a => a.rsvd = 0 | none => true)

/-- Whether a packet is acted on (R303): a defined opcode on its channel, reserved fields zero, and only the optional
headers its opcode allows. -/
def packetOk (p : Packet) : Bool := vcOf p.opcode = some p.vc && rsvdOk p && headersOk p

/-- Opcodes of the QFP-M profile (R317). -/
def trayOpcode (o : BitVec 8) : Bool :=
  o = Opc.trayRd || o = Opc.trayWr || o = Opc.trayFill || o = Opc.trayDone || o = Opc.dataClean ||
  o = Opc.dataWrite || o = Opc.fail || vcOf o = some 5

/-- A packet is refused (R301, R303, R309): the fault record of class PROTOCOL. -/
def Qf.refusedPkt (q : Qf) (h : HalfPort) (st : Status) : Qf :=
  q.fault 4 { sector := halfSector h, half := h, peer := (q.link h).peerEp, status := st.code }

/-- Discard a packet and count it (R301, R303, R309). -/
def Qf.discard (q : Qf) (h : HalfPort) (st : Status) : Qf :=
  (q.updLink h (fun l => { l with cnt := { l.cnt with discarded := l.cnt.discarded + 1 } })).refusedPkt h st

/-- Free the credits of a packet that does not stay in staging. -/
def Qf.freeCredits (q : Qf) (h : HalfPort) (p : Packet) : Qf :=
  q.updLink h (fun l => { l with rx := l.rx.release p })

/-- A client's snoop response or acknowledgement settles what it owed (R113). -/
def Link.owes (l : Link) (p : Packet) : Link :=
  let isRsp := p.opcode = Opc.snpRspI || p.opcode = Opc.snpRspS || p.opcode = Opc.snpRspWb || p.opcode = Opc.snpRspKeep
  if isRsp then { l with snoops := dropFirst (fun s => s.tag = p.tag && s.srcEp = p.destEp) l.snoops }
  else if p.opcode = Opc.cmpAck then
    { l with acksDue := dropFirst (fun g => g.tag = p.tag && g.srcEp = p.destEp) l.acksDue }
  else l

/-- What a packet does at a CXL host (R322, R323): a grant is acknowledged at once, owned lines are remembered, and
data that could not be read becomes an event record and an error report. -/
def Qf.toHost (q : Qf) (h : HalfPort) (p : Packet) : Qf :=
  let line := p.addr &&& ~~~(63 : BitVec 60)
  let own := p.opcode = Opc.grantE || p.opcode = Opc.grantM
  let bad := p.opcode = Opc.fail && p.status = Status.uncorrectable.code
  let ends := (p.vc = 1 && !isGrant p.opcode) || p.vc = 3
  let q := q.updLink h (fun l => { l with
    snoops := if p.vc = 2 then l.snoops ++ [p] else l.snoops
    cxl := { l.cxl with
      owned := if own then l.cxl.owned.filter (· != line) ++ [line] else l.cxl.owned
      openReqs := if ends then dropFirst (fun r => r.1 = p.tag) l.cxl.openReqs else l.cxl.openReqs
      events := if bad then l.cxl.events ++ [p.addr.zeroExtend 64] else l.cxl.events
      aer := l.cxl.aer || bad } })
  if isGrant p.opcode then q.ackForLost p else q

/-- A packet goes out on a link, its slots in sequence (R294, R296, R300). -/
def Qf.transmit (q : Qf) (h : HalfPort) (p : Packet) : Qf :=
  if (q.link h).profile = 3 then q.toHost h p
  else if ((q.link h).tx.spend p).isNone then q
  else q.updLink h (fun l => (l.startPkt p).sendNow q.now false p.slots)

/-- Whether a packet's class is cut through at an egress half-port with nothing queued before it (R334). -/
def Qf.mayCut (q : Qf) (h o : HalfPort) (p : Packet) : Bool :=
  let l := q.link o
  let speed (x : HalfPort) : Nat := (if q.isHalf x then 1 else 2) * (q.link x).rate
  ((q.sw.cutThrough.get o.toNat 0).getLsbD p.tc.toNat) &&
  !q.sw.queue.any (fun e => e.out = .half o && e.pkt.vc = p.vc && e.pkt.tc = p.tc) &&
  decide (speed o ≤ speed h) && l.state = .active && l.profile != 3 && l.canSend p && versionHas l.version p

/-- The packet that comes in at a half-port as one queued for an egress. -/
def cutEntry (h o : HalfPort) (p : Packet) : QPkt := { inp := .half h, out := .half o, pkt := p, cells := p.cells }

/-- A packet that may be cut through is chosen like a queued one (R363): where the scheduler would send it at this instant, its
class and the scheduler after that choice. -/
def Qf.cutsThrough (q : Qf) (h o : HalfPort) (p : Packet) : Option (Nat × Egress) :=
  if !q.mayCut h o p then none
  else match ({ q with sw := { q.sw with queue := q.sw.queue ++ [cutEntry h o p] } } : Qf).choose o with
    | (some (c, x), e) => if x = cutEntry h o p then some (c, e) else none
    | (none, _) => none

/-- A packet that is cut through is charged to the deficit counter and the shapers, and takes its turn (R363). -/
def Qf.chargeCut (q : Qf) (h o : HalfPort) (p : Packet) (x : Nat × Egress) : Qf :=
  ((q.updEgress o (fun _ => x.2)).tookTurn o x.1 (cutEntry h o p)).chargeEgress o x.1 p.length

/-- Whether staging has room for a packet's slots. -/
def Qf.stagingRoom (q : Qf) (h : HalfPort) (k n : Nat) : Bool :=
  decide (((q.link h).rx.held[k]?).getD 0 + n ≤ ((creditsOf (q.isHalf h))[k]?).getD 0)

/-- The half-port to which a packet whose header has been parsed is cut through (R334): it is for another endpoint, may be
acted on, and its class is cut through there. -/
def Qf.cutTarget (q : Qf) (h : HalfPort) (p : Packet) : Option (HalfPort × Nat × Egress) :=
  let l := q.link h
  let may := decide (p.vc.toNat < 4) && !q.atEdge (.half h) && p.destEp != q.ownEp && q.part.booted && l.peerBooted &&
    p.partitionId = q.part.id && packetOk p && l.profile != 2 && q.stagingRoom h p.vc.toNat p.slotCount
  match (if may then q.route p else none) with
  | some (.half o) => (q.cutsThrough h o p).map (fun x => (o, x))
  | _ => none

/-- Pass on the slots of a packet being cut through: whole flits while it still comes in, all that is left at its end. -/
def Qf.passSlots (q : Qf) (h o : HalfPort) (ss : List (BitVec 128)) (last : Bool) : Qf :=
  let sent := (q.link h).rx.cutSent
  let n := if last then ss.length - sent else (ss.length - sent) / 15 * 15
  if (q.link o).tx.cutFrom != some h then q
  else (q.updLink o (fun l => l.sendNow q.now false ((ss.drop sent).take n))).updLink h (fun l =>
    { l with rx := { l.rx with cutSent := sent + n } })

/-- More slots of an incomplete packet of n slots are there: it is cut through from the instant its header has been
parsed (R334). -/
def Qf.cutMore (q : Qf) (h : HalfPort) (ss : List (BitVec 128)) (n headers : Nat) : Qf :=
  match (q.link h).rx.cut with
  | some o => q.passSlots h o ss false
  | none =>
    if ss.length < headers then q
    else match parsePacket (ss.take headers ++ List.replicate (n - headers) 0) with
    | none => q
    | some p =>
      match q.cutTarget h p with
      | none => q
      | some (o, x) =>
        let q := (q.chargeCut h o p x).updLink o (fun l => { (l.startPkt p) with tx := { (l.startPkt p).tx with cutFrom := some h } })
        let q := q.updLink h (fun l => { l with rx := { l.rx with cut := some o, cutSent := 0 } })
        q.passSlots h o ss false

/-- The last slot of a packet that was cut through has come: it is passed on, and its credits are freed.  Where its egress went
down meanwhile, the rest is discarded. -/
def Qf.cutEnd (q : Qf) (h o : HalfPort) (p : Packet) : Qf :=
  let q := q.passSlots h o p.slots true
  let q := q.updLink o (fun l => if l.tx.cutFrom = some h then { l with tx := { l.tx with cutFrom := none } } else l)
  let q := (q.updLink h (fun l => { (l.owes p) with rx := { l.rx with cut := none, cutSent := 0 } })).freeCredits h p
  (q.sample false h (.half h) (some (.half o)) true p).sample true o (.half h) (some (.half o)) true p

/-- A complete packet has arrived on a link. -/
def Qf.arrive (q : Qf) (h : HalfPort) (p : Packet) : Qf :=
  let l := q.link h
  let k := p.vc.toNat
  let n := p.slotCount
  let cap := creditsOf (q.isHalf h)
  let room (i m : Nat) : Bool := decide ((l.rx.held[i]?).getD 0 + m ≤ (cap[i]?).getD 0)
  let pool := !room k n && colControl p.opcode && room 6 1
  if 6 ≤ k then q.discard h .unsupportedVersion
  else if !room k n && !pool then
    (q.fault 4 { sector := halfSector h, half := h, peer := l.peerEp }).linkDown h 3
  else
    let hold (i m : Nat) (r : LinkRx) : LinkRx := { r with held := r.held.set i ((r.held[i]?).getD 0 + m) }
    let q := q.updLink h (fun l => { l with
      rx := if pool then { (hold 6 1 l.rx) with ctl := l.rx.ctl ++ [p] } else hold k n l.rx })
    let q := (q.sample false h (.half h) none false p).updLink h (fun l => l.owes p)
    if q.part.booted && l.peerBooted && p.partitionId != q.part.id then
      (q.freeCredits h p).discard h .accessViolation
    else if p.vc != 5 && (!q.part.booted || !l.peerBooted) then (q.freeCredits h p).discard h .accessViolation
    else if !packetOk p || (l.profile = 2 && !trayOpcode p.opcode) then
      let q := q.freeCredits h p
      if p.vc != 0 then q.discard h .unsupportedVersion
      else
        let q := q.refusedPkt h .unsupportedVersion
        if q.atEdge (.half h) then q.failClient h p .unsupportedVersion
        else q.sendFail (unitOf (halfSector h)) p .unsupportedVersion
    else
      let out := if p.vc = 4 || p.vc = 5 || q.atEdge (.half h) || p.destEp = q.ownEp then none else q.route p
      match out with
      | some (.half o) =>
        (match q.cutsThrough h o p with
         | some x => (((q.freeCredits h p).chargeCut h o p x).sample true o (.half h) (some (.half o)) true p).transmit o p
         | none => q.updLink h (fun l => { l with rx := { l.rx with staged := l.rx.staged ++ [p] } }))
      | _ => q.updLink h (fun l => { l with rx := { l.rx with staged := l.rx.staged ++ [p] } })

/-- Take the packets that some slots complete, at most one a turn (R300). -/
def Qf.takeSlots : Nat → HalfPort → List (BitVec 128) → Qf → Qf
  | 0, _, _, q => q
  | k + 1, h, ss, q =>
    let keep (q : Qf) : Qf := q.updLink h (fun l => { l with rx := { l.rx with partSlots := ss } })
    match ss with
    | [] => keep q
    | [a] => if fld a 0 8 = (0 : BitVec 8) then q.updLink h (fun l => { l with rx := { l.rx with partSlots := [] } })
        else keep q
    | a :: b :: _ =>
      if fld a 0 8 = (0 : BitVec 8) then q.updLink h (fun l => { l with rx := { l.rx with partSlots := [] } })
      else
        let hd : BitVec 256 := b ++ a
        if 4096 < (fld hd 75 13 : BitVec 13).toNat then q.linkDown h 4
        else
          let n := headerSlots hd
          if ss.length < n then (keep q).cutMore h ss n (n - ceilDiv (fld hd 75 13 : BitVec 13).toNat 16)
          else match parsePacket (ss.take n) with
            | some p => Qf.takeSlots k h (ss.drop n) (match (q.link h).rx.cut with
              | some o => q.cutEnd h o p
              | none => q.arrive h p)
            | none => q

/-- Replay every unacknowledged flit; the eighth replay of one takes the link down (R294). -/
def Qf.replayAll (q : Qf) (h : HalfPort) (nak : Option (BitVec 10)) : Qf :=
  let q := q.updLink h (fun l => { l with
    cnt := { l.cnt with replays := l.cnt.replays + 1 }
    tx := { l.tx with
      nakSeen := nak, lastAck := q.now
      replay := l.tx.replay.map (fun (r : ReplayFlit) => { r with replays := r.replays + 1 }) } })
  if (q.link h).tx.replay.any (fun r => decide (8 ≤ r.replays)) then q.linkDown h 2
  else q.updLink h (fun l => l.tx.replay.foldl (fun l r => l.emit (if r.control then 2 else 1) r.seq r.slots) l)

/-- An ACK_SEQ frees the flits it covers (R294). -/
def LinkTx.acked (t : LinkTx) (now : Nat) (a : BitVec 10) : LinkTx :=
  let n := (a - t.ackSeen).toNat
  if n = 0 || t.replay.length < n then t
  else { t with ackSeen := a, lastAck := now, nakSeen := none, replay := t.replay.drop n }

/-- A credit report (R297). -/
def LinkTx.report (t : LinkTx) (sel : BitVec 3) (freed : BitVec 14) : LinkTx :=
  { t with freedSeen := t.freedSeen.set sel.toNat freed }

/-- The header of a good flit is used: acknowledgement, credit reports and NAK (R294, R297). -/
def Qf.useHeader (q : Qf) (h : HalfPort) (f : Flit) : Qf :=
  let q := q.updLink h (fun l => { l with
    tx := ((l.tx.acked q.now (flitAck f)).report (fld f.hdr 37 3) (fld f.hdr 23 14)).report
      (fld f.hdr 20 3) (fld f.hdr 6 14) })
  if flitNak f && (q.link h).tx.nakSeen != some (flitAck f) && (q.link h).tx.replay != [] then
    q.replayAll h (some (flitAck f))
  else q

/-- A flit of the new phase is accepted: the old key goes (R316, R395). -/
def Qf.phaseSeen (q : Qf) (h : HalfPort) (f : Flit) : Qf :=
  q.updLink h (fun l => if l.sess.active && flitPhase f = l.sess.rx.phase then
    { l with sess := { l.sess with rx := { l.sess.rx with oldKey := none } } } else l)

/-- A frame has been received (R315). -/
def Qf.countFrame (q : Qf) (h : HalfPort) : Qf :=
  q.updLink h (fun l => { l with sess := { l.sess with rx := { l.sess.rx with frames := l.sess.rx.frames + 1 } } })

/-- FLIT_RECEIVE (R293): a flit is accepted, discarded or NAKed; its reports and packets are taken. -/
def execFlitReceive (h : HalfPort) (f : Flit) (s : State) : Out :=
  done (fun q =>
    let l := q.link h
    if !(q.running && l.live && l.profile != 3 && l.profile != 4) then q
    else match l.openFlit f with
    | none =>
      (q.updLink h (fun l => { l with
        rx := { l.rx with nak := true }
        cnt := { l.cnt with
          checkFailures := l.cnt.checkFailures + 1
          tagFailures := l.cnt.tagFailures + b2n l.sess.active } })).countFrame h
    | some slots =>
      let q := (q.countFrame h).useHeader h f
      if !(q.link h).live || flitType f = 0 || flitType f = 3 then q
      else
        let d := (flitSeq f - l.rx.expect).toNat
        if d = 0 then
          let q := (q.updLink h (fun l => { l with
            rx := { l.rx with expect := l.rx.expect + 1, nak := false } })).phaseSeen h f
          if flitType f = 1 then q.takeSlots 280 h (l.rx.partSlots ++ slots) else q
        else if d ≤ 127 then q.updLink h (fun l => { l with rx := { l.rx with nak := true } })
        else if 896 ≤ d then q
        else q.linkDown h 10) s

/-- REPLAY_TIMEOUT (R294): ACK_SEQ has not advanced for REPLAY_TIMEOUT. -/
def execReplayTimeout (h : HalfPort) (s : State) : Out :=
  done (fun q =>
    let l := q.link h
    if q.running && l.live && l.tx.replay != [] && decide (l.tx.lastAck + l.par.replayTimeout.toNat ≤ q.now) then
      q.replayAll h none
    else q) s

end Sys2Proof.Machine
end

