-- ==== Sys2Proof/Machine/Encode.lean ====
section
/-! DEFINITION. Machine/Encode.lean: FRB_ENCODE (R258, R261 to R263): the table read or built, the blocks written in
order, the report last. -/

namespace Sys2Proof.Machine

/-! ### The encode descriptor (Table FRB-8) -/

namespace Fe
def build (d : BitVec 512) : Bool := d.getLsbD 507
def f32Src (d : BitVec 512) : Bool := d.getLsbD 506
def rate (d : BitVec 512) : Nat := (fld d 503 3).toNat
def precision (d : BitVec 512) : Nat := (fld d 499 4).toNat
def tenant (d : BitVec 512) : Tenant := fld d 487 12
def world (d : BitVec 512) : Bool := d.getLsbD 486
def sector (d : BitVec 512) : Sector := fld d 483 3
def src (d : BitVec 512) : Nat := (fld d 427 56).toNat
def dest (d : BitVec 512) : Nat := (fld d 371 56).toNat
def table (d : BitVec 512) : Nat := (fld d 315 56).toNat
def report (d : BitVec 512) : Nat := (fld d 259 56).toNat
def blocks (d : BitVec 512) : Nat := (fld d 227 32).toNat
def counter (d : BitVec 512) : Nat := (fld d 171 56).toNat
/-- Bytes of one block's source values. -/
def step (d : BitVec 512) : Nat := if f32Src d then 1024 else 512
/-- Source bytes. -/
def srcLen (d : BitVec 512) : Nat := blocks d * step d
/-- Destination bytes. -/
def destLen (d : BitVec 512) : Nat := blocks d * frbBytes (rate d)
/-- Whether a descriptor is good (R6, R261). -/
def ok (d : BitVec 512) : Bool :=
  fld d 508 4 = (1 : BitVec 4) && fld d 0 171 = (0 : BitVec 171) && blocks d != 0 && decide (rate d ≤ 5) &&
  (!build d || (decide (2 ≤ precision d) && decide (precision d ≤ 12))) &&
  (decide (src d + srcLen d ≤ dest d) || decide (dest d + destLen d ≤ src d)) &&
  dest d % 64 = 0 && table d % 64 = 0 && report d % 64 = 0
end Fe

/-- Change an encode. -/
def Qf.updEnc (q : Qf) (id : Nat) (f : EncJob → EncJob) : Qf :=
  match q.eng.encodes.find? id with
  | some j => { q with eng := { q.eng with encodes := q.eng.encodes.set id (f j) } }
  | none => q

/-- Whom an encode acts for (R262). -/
def encIssuer (d : BitVec 512) : Issuer :=
  { sector := Fe.sector d, tenant := Fe.tenant d, world := Fe.world d, stream := streamOf 3 (Fe.sector d).toNat }

/-- Blocks placed. -/
def EncJob.done (j : EncJob) : Nat := j.placed / frbBytes (Fe.rate j.desc)

/-- An encode completes with a status and the blocks placed. -/
def Qf.encEnd (q : Qf) (id : Nat) (j : EncJob) (st : BitVec 8) : Qf :=
  let q := { q with eng := { q.eng with
    encodes := q.eng.encodes.del id, frbEncodes := q.eng.frbEncodes + 1 } }
  let q := q.endProgress j.progress (if st = 0 then 1 else 2) st
  q.complete j.cmd 0x50 (statusOf st) j.progress (BitVec.ofNat 128 j.done)

/-- Write bytes for an encode; a refusal is its status. -/
def Qf.encWrite (q : Qf) (id : Nat) (d : BitVec 512) (counter a : Nat) (bs : List Byte) : Qf :=
  if 2 ^ 56 < a + bs.length then
    q.updEnc id (fun j => { j with status := if j.status = 0 then Status.accessViolation.code else j.status })
  else
    let x := q.engWriteAll (encIssuer d) (.frbWrite id) counter a bs
    x.2.2.updEnc id (fun j => { j with
      writesOut := j.writesOut + x.2.1
      status := match x.1 with | some st => if j.status = 0 then st.code else j.status | none => j.status })

/-- Read on: the table, or the next piece of the source. -/
def Qf.encRead (q : Qf) (id : Nat) (j : EncJob) (a len pos : Nat) : Qf :=
  if 2 ^ 56 < a + len then q.updEnc id (fun j => { j with status := Status.accessViolation.code })
  else
    let x := q.engRead (encIssuer j.desc) (.frbLine id pos) a len
    match x.1 with
    | some st => x.2.updEnc id (fun j => { j with status := st.code })
    | none => x.2.updEnc id (fun j => { j with reading := true })

/-- The values of a block's source bytes. -/
def encValues (d : BitVec 512) (bs : List Byte) : List FVal :=
  if Fe.f32Src d then (chunks 4 256 bs).map (fun b => f32.decode (leNat b))
  else (chunks 2 256 bs).map (fun b => bf16.decode (leNat b))

/-- Take up the blocks whose source has been read: counted in the first pass, encoded and written in the second. -/
def Qf.encBlocks : Nat → Nat → Qf → Qf
  | 0, _, q => q
  | n + 1, id, q =>
    match q.eng.encodes.find? id with
    | none => q
    | some j =>
      let d := j.desc
      let k := Fe.step d
      if j.status != 0 || j.buf.length < k then q
      else
        let xs := encValues d (j.buf.take k)
        let q := q.updProgress j.progress (fun p => { p with
          position := p.position + 1, percent := (p.position + 1) * 100 / p.total })
        if j.phase = 1 then
          Qf.encBlocks n id (q.updEnc id (fun j => { j with
            buf := j.buf.drop k, blk := j.blk + 1, counts := frbCount (Fe.precision d) xs j.counts }))
        else
          let o := frbEncode j.table (if Fe.build d then Fe.precision d else frbPrecision j.table) xs
          let q := { q with eng := { q.eng with frbCoarsened := q.eng.frbCoarsened + b2n (0 < o.step) } }
          let q := q.updEnc id (fun j => { j with
            buf := j.buf.drop k, blk := j.blk + 1, report := j.report.block j.blk j.table xs o })
          Qf.encBlocks n id (q.encWrite id d (Fe.counter d) (Fe.dest d + j.blk * frbBytes (Fe.rate d)) o.bytes)

/-- An encode goes on (R262). -/
def Qf.pumpEnc : Nat → Nat → Qf → Qf
  | 0, _, q => q
  | n + 1, id, q =>
    match q.eng.encodes.find? id with
    | none => q
    | some j =>
      let d := j.desc
      if j.reading then q
      else if j.status != 0 then (if j.writesOut = 0 then q.encEnd id j j.status else q)
      else if j.phase = 0 then Qf.pumpEnc n id (q.encRead id j (Fe.table d) 64 0)
      else if j.phase = 1 || j.phase = 3 then
        if j.blk < Fe.blocks d then
          -- the rest of the source up to the end of its page
          let a := Fe.src d + j.rdPos
          let m := min (Fe.srcLen d - j.rdPos) (4096 - a % 4096)
          Qf.pumpEnc n id (q.encRead id j a m j.rdPos)
        else if j.phase = 1 then
          let t := frbBuild (Fe.rate d) (Fe.precision d) j.counts
          let q := q.updEnc id (fun j => { j with phase := 3, table := t, blk := 0, rdPos := 0, buf := [] })
          Qf.pumpEnc n id (q.encWrite id d 0 (Fe.table d) (bytesOf 64 t))
        else Qf.pumpEnc n id (q.updEnc id (fun j => { j with phase := 4 }))
      else if j.phase = 4 then
        if j.writesOut != 0 then q
        else
          let q := q.updEnc id (fun j => { j with phase := 5 })
          Qf.pumpEnc n id (q.encWrite id d 0 (Fe.report d) (bytesOf 64 j.report.bits))
      else if j.writesOut = 0 then q.encEnd id j 0 else q

/-- Bytes read for an encode have come: its table, which must be valid and of the rate (R261), or a piece of its
source. -/
def Qf.encGot (q : Qf) (id pos : Nat) (st : BitVec 8) (data : List Byte) : Qf :=
  match q.eng.encodes.find? id with
  | none => q
  | some j =>
    let d := j.desc
    let q := q.updEnc id (fun j => { j with reading := false })
    if st != 0 then (q.updEnc id (fun j => { j with status := st })).pumpEnc 16 id
    else if j.phase = 0 then
      let t : Line := lineOf data
      if !(frbValid t && frbRate t = Fe.rate d) then
        -- the command does nothing: it never started, and its progress object is free again
        let q := match j.progress with
          | some k => { q with mgmt := { q.mgmt with progress := q.mgmt.progress.del k } }
          | none => q
        q.encEnd id { j with progress := none } Status.unsupportedVersion.code
      else (q.updEnc id (fun j => { j with phase := 3, table := t })).pumpEnc 16 id
    else
      let n := if pos = j.rdPos then data.length else 0
      let q := q.updEnc id (fun j => { j with rdPos := j.rdPos + n, buf := j.buf ++ (if n = 0 then [] else data) })
      (q.encBlocks 16 id).pumpEnc 16 id

/-- An encode after a write at an address is answered; bytes of blocks count as placed. -/
def EncJob.wrote (j : EncJob) (a len : Nat) (st : BitVec 8) : EncJob :=
  let inDest := decide (Fe.dest j.desc ≤ a) && decide (a < Fe.dest j.desc + Fe.destLen j.desc) && j.phase != 5
  { j with
    writesOut := j.writesOut - 1
    placed := j.placed + (if st = 0 && inDest then len else 0)
    status := if j.status = 0 then st else j.status }

/-- A write of an encode is answered; the blocks that it completes are counted (R266). -/
def Qf.encWrote (q : Qf) (id a len : Nat) (st : BitVec 8) : Qf :=
  match q.eng.encodes.find? id with
  | none => q
  | some j =>
    let k := (j.wrote a len st).done - j.done
    let q := { q with eng := { q.eng with frbEncoded := q.eng.frbEncoded + k } }
    (q.updEnc id (fun j => j.wrote a len st)).pumpEnc 16 id

/-- An encode starts, or waits for its sector's encoder to wake (R27). -/
def Qf.goEnc (q : Qf) (id : Nat) : Qf :=
  match q.eng.encodes.find? id with
  | none => q
  | some j =>
    let d := 5 * (Fe.sector j.desc).toNat + 3
    if q.domainOn d then q.pumpEnc 16 id else q.wantUnit d

/-- The encodes of a sector fail with a status, once what they have written is answered. -/
def Qf.failEncodes (q : Qf) (s : Sector) (st : BitVec 8) : Qf :=
  let es : List (Nat × EncJob) := q.eng.encodes
  es.foldl (fun q x =>
    if Fe.sector x.2.desc = s then
      (q.updEnc x.1 (fun j => { j with status := if j.status = 0 then st else j.status, reading := false })).pumpEnc 16 x.1
    else q) q

/-- FRB_ENCODE (R261, R262). -/
def execFrbEncode (m : MgrRef) (descriptor : BitVec 512) (s : State) : Out :=
  done (fun q => q.mgr m 0x50 true (fun q =>
    let d := descriptor
    let n := Fe.blocks d * (if Fe.build d then 2 else 1)
    let id := q.eng.nextJob
    let new : EncJob := { cmd := m, desc := d, phase := if Fe.build d then 1 else 0, counts := List.replicate 47 1 }
    if !Fe.ok d then q.encEnd id new Status.unsupportedVersion.code
    else match q.newProgress 6 3 n with
    | none => q.encEnd id new Status.retry.code
    | some (pr, q) =>
      let q := { q with eng := { q.eng with
        nextJob := id + 1, encodes := q.eng.encodes.set id { new with progress := some pr } } }
      q.goEnc id)) s

end Sys2Proof.Machine
end

