-- ==== Sys2Proof/Machine/Search.lean ====
section
/-! DEFINITION. Machine/Search.lean: what a search computes (R214 to R239): index headers, distance tables, snapshots,
the graph walk, results and shards, and what a merge writes (R233). -/

namespace Sys2Proof.Machine

/-! ### Index headers and descriptors -/

namespace Ix
def codeBits (h : BitVec 512) : Bool := h.getLsbD 507
def subLog2 (h : BitVec 512) : Nat := (fld h 504 3).toNat
def degLog2 (h : BitVec 512) : Nat := (fld h 502 2).toNat
def dim (h : BitVec 512) : Nat := (fld h 486 16).toNat
def nodes (h : BitVec 512) : Nat := (fld h 454 32).toNat
def entry (h : BitVec 512) : Nat := (fld h 422 32).toNat
def side (h : BitVec 512) : Nat := (fld h 366 56).toNat
def version (h : BitVec 512) : BitVec 64 := fld h 302 64
def merged (h : BitVec 512) : Nat := (fld h 238 64).toNat
def codebook (h : BitVec 512) : Nat := 64 * (fld h 198 40).toNat
def codes (h : BitVec 512) : Nat := 64 * (fld h 158 40).toNat
def adj (h : BitVec 512) : Nat := 64 * (fld h 118 40).toNat
def ids (h : BitVec 512) : Nat := 64 * (fld h 78 40).toNat
def capacity (h : BitVec 512) : Nat := (fld h 46 32).toNat
/-- Subspaces M. -/
def subs (h : BitVec 512) : Nat := 2 ^ subLog2 h
/-- Centroids Kc (Table SRCH-2). -/
def kc (h : BitVec 512) : Nat := if codeBits h then 16 else 256
/-- Code bytes C. -/
def codeBytes (h : BitVec 512) : Nat := if codeBits h then subs h / 2 else subs h
/-- Elements of a subspace. -/
def subDim (h : BitVec 512) : Nat := dim h / subs h
/-- Neighbours of a node. -/
def degree (h : BitVec 512) : Nat := 2 ^ (degLog2 h + 4)
/-- Whether a header keeps Tables SRCH-1 and SRCH-2. -/
def ok (h : BitVec 512) : Bool :=
  fld h 508 4 = (1 : BitVec 4) && degLog2 h != 3 && fld h 0 46 = (0 : BitVec 46) &&
  (if codeBits h then decide (4 ≤ subLog2 h) else decide (3 ≤ subLog2 h) && decide (subLog2 h ≤ 6)) &&
  dim h % subs h = 0 && dim h != 0 && decide (dim h ≤ 4096)
end Ix

/-- Place of an empty neighbour. -/
def emptyNode : Nat := 0xFFFFFFFF

/-- Centroid indices of a code's subspaces (Table SRCH-2). -/
def codeParts (h : BitVec 512) (bs : List Byte) : List Nat :=
  if Ix.codeBits h then bs.flatMap (fun b => [b.toNat % 16, b.toNat / 16]) else bs.map BitVec.toNat

/-! ### Distance tables (R216, R217) -/

/-- The query in binary32, divided for COSINE by its length (R216). -/
def queryVector (metric : Nat) (xs : List Nat) : List Nat :=
  if metric = 2 then
    let n := f32.sqrt (xs.foldl (fun a x => f32.add a (f32.mul x x)) 0)
    if xs.all (fun x => nfld x 0 31 = 0) then xs else xs.map (fun x => f32.div x n)
  else xs

/-- One table value (R216). -/
def tableValue (metric : Nat) (qs cs : List Nat) : Nat :=
  if metric = 0 then (qs.zip cs).foldl (fun a p => let d := f32.sub p.1 p.2; f32.add a (f32.mul d d)) 0
  else
    let s := (qs.zip cs).foldl (fun a p => f32.add a (f32.mul p.1 p.2)) 0
    f32.encode (f32.decode s).neg

/-- The nearest integer of a finite binary32, ties to even; none where it is not finite. -/
def roundInt (x : Nat) : Option Nat :=
  match f32.decode x with
  | .fin _ m e => some (if 0 ≤ e then m * 2 ^ e.toNat else roundHalfEven m (-e).toNat)
  | _ => none

/-- The quantised table (R217), subspace by subspace.  Where the values are not numbers that the rule orders and
rounds, the entry is a free value (log 9). -/
def quantise (t : List (List Nat)) : List (List Nat) :=
  let lows := t.map (fun r => r.foldl (fun a x => if f32.lt x a then x else a) (r.headD 0))
  let spans := (t.zip lows).map (fun r =>
    f32.sub (r.1.foldl (fun a x => if f32.lt a x then x else a) (r.1.headD 0)) r.2)
  let span := spans.foldl (fun a x => if f32.lt a x then x else a) (spans.headD 0)
  let scale := if nfld span 0 31 = 0 then 0 else f32.div 0x477FFF00 span
  let nan := t.any (fun r => r.any f32.isNan)
  ((t.zip lows).zipIdx).map (fun r => (r.1.1.zipIdx).map (fun x =>
    let free := (Config.searchTable t.flatten r.2 x.2).toNat
    if nan then free else (roundInt (f32.mul (f32.sub x.1 r.1.2) scale)).getD free))

/-- The distance of a code (R217). -/
def codeDist (tq : List (List Nat)) (parts : List Nat) : Nat :=
  (tq.zip parts).foldl (fun a x => a + x.1.getD x.2 0) 0

/-- The centroids of a codebook, by subspace, in binary32. -/
def codebookOf (h : BitVec 512) (bs : List Byte) : List (List (List Nat)) :=
  let vs := (rawElems 2 bs).map (fun x => bf16.conv f32 x)
  let s := Ix.subDim h
  (chunks (Ix.kc h * s) (Ix.subs h) vs).map (fun m => chunks s (Ix.kc h) m)

/-- The quantised table of a query against a codebook. -/
def queryTable (h : BitVec 512) (metric : Nat) (xs : List Nat) (book : List (List (List Nat))) : List (List Nat) :=
  let v := queryVector metric xs
  let s := Ix.subDim h
  quantise ((book.zipIdx).map (fun m => m.1.map (tableValue metric ((v.drop (m.2 * s)).take s))))

/-- Bytes of a quantised table (R306), and the table of some bytes. -/
def tableBytes (tq : List (List Nat)) : List Byte := tq.flatMap (fun r => r.flatMap (fun x => natLe 2 x))
/-- The table of some bytes. -/
def tableOf (h : BitVec 512) (bs : List Byte) : List (List Nat) := chunks (Ix.kc h) (Ix.subs h) (rawElems 2 bs)

/-! ### Items -/

/-- An item: its order key (R218), its node or side list and its shard. -/
structure Item where
  dist : Nat := 0
  id : Nat := 0
  seq : Nat := 0
  node : Nat := 0xFFFFFFFF
  shard : Nat := 0
  deriving DecidableEq, Repr

/-- Order by (DIST, ID, SEQ) (R218). -/
def Item.le (a b : Item) : Bool :=
  decide (a.dist < b.dist) || (a.dist = b.dist && (decide (a.id < b.id) || (a.id = b.id && decide (a.seq ≤ b.seq))))

/-- Add an item to a list kept in order, at most n. -/
def addItem (n : Nat) (l : List Item) (x : Item) : List Item :=
  (l.takeWhile (fun y => y.le x) ++ x :: l.dropWhile (fun y => y.le x)).take n

/-- A result entry's bytes (Table SRCH-8). -/
def Item.bytes (x : Item) : List Byte :=
  natLe 32 (packHi [(64, x.id), (64, x.seq), (32, x.dist), (8, x.shard), (1, b2n (x.seq != 0)), (23, 0),
    (32, x.node), (32, 0)])

/-- An item of a result entry. -/
def Item.ofBytes (bs : List Byte) : Item :=
  let x := leNat bs
  { id := nfld x 192 64, seq := nfld x 128 64, dist := nfld x 96 32, shard := nfld x 88 8, node := nfld x 32 32 }

/-! ### The side list (R219, R220, R223) -/

namespace Sd
def capLog2 (h : BitVec 512) : Nat := (fld h 503 5).toNat
def tail (h : BitVec 512) : Nat := (fld h 439 64).toNat
def committed (h : BitVec 512) : Nat := (fld h 375 64).toNat
def reclaimed (h : BitVec 512) : Nat := (fld h 311 64).toNat
def tombs (h : BitVec 512) : Nat := (fld h 294 17).toNat
/-- A header's bits (Table SRCH-3). -/
def bits (cap tail committed reclaimed tombs : Nat) : BitVec 512 :=
  BitVec.ofNat 512 (packHi [(4, 1), (5, cap), (64, tail), (64, committed), (64, reclaimed), (17, tombs), (294, 0)])
/-- Whether a header is one of Table SRCH-3. -/
def ok (h : BitVec 512) : Bool :=
  fld h 508 4 = (1 : BitVec 4) && decide (10 ≤ capLog2 h) && decide (capLog2 h ≤ 24) && fld h 0 294 = (0 : BitVec 294)
/-- Offset of entry s from the header (R219). -/
def place (cap s : Nat) : Nat := 64 + 128 * ((s - 1) % 2 ^ cap)
end Sd

/-- A side-list entry (Table SRCH-4). -/
structure SideEnt where
  seq : Nat := 0
  kind : Nat := 0
  id : Nat := 0
  code : List Byte := []
  deriving DecidableEq, Repr

/-- An entry from its 128 bytes. -/
def SideEnt.ofBytes (bs : List Byte) : SideEnt :=
  let x := leNat bs
  { seq := nfld x 960 64, kind := nfld x 958 2, id := nfld x 895 63, code := slice bs 0 64 }

/-- The entries (m, n] of a side list, read with their header's capacity. -/
def Env.window (e : Env) (stage side m n : Nat) : Ev (List SideEnt) :=
  if n ≤ m then .ok []
  else (e.shared stage side 64).bind (fun hb =>
    let h : BitVec 512 := lineOf hb
    if !Sd.ok h then .fail Status.unsupportedVersion.code stage
    else Ev.all ((List.range (n - m)).map (fun i =>
      let s := m + 1 + i
      (e.shared stage (side + Sd.place (Sd.capLog2 h) s) 128).bind (fun bs =>
        .ok { SideEnt.ofBytes bs with seq := s }))))

/-- Whether an identifier has a tombstone after a sequence number in a window (R223). -/
def buried (w : List SideEnt) (id after : Nat) : Bool :=
  w.any (fun x => x.kind = 2 && x.id = id && decide (after < x.seq))

/-! ### The graph walk (R226 to R231) -/

/-- What a query asks of an index copy. -/
structure Ask where
  pva : Nat := 0
  hdr : BitVec 512 := 0
  tq : List (List Nat) := []
  flat : Bool := false
  k : Nat := 1
  beam : Nat := 1
  budget : Nat := 0
  escalate : Nat := 0
  filter : Nat := 0
  snapshot : Nat := 0
  shard : Nat := 0
  deriving DecidableEq, Repr

/-- Node v as an item, and whether it is DELETED. -/
def Env.node (e : Env) (stage : Nat) (a : Ask) (v : Nat) : Ev (Item × Bool) :=
  let c := Ix.codeBytes a.hdr
  ((e.shared stage (a.pva + Ix.codes a.hdr + v * c) c).both (e.shared stage (a.pva + Ix.ids a.hdr + 8 * v) 8)).bind
    (fun x =>
      let i := leNat x.2
      .ok ({ dist := codeDist a.tq (codeParts a.hdr x.1), id := nfld i 0 63, node := v, shard := a.shard },
        nfld i 63 1 = 1))

/-- The neighbour list of a node. -/
def Env.neighbours (e : Env) (stage : Nat) (a : Ask) (v : Nat) : Ev (List Nat) :=
  let g := Ix.degree a.hdr
  (e.shared stage (a.pva + Ix.adj a.hdr + v * 4 * g) (4 * g)).bind (fun bs => .ok (rawElems 4 bs))

/-- Whether an item passes the query's filter (R227). -/
def Env.passes (e : Env) (stage : Nat) (a : Ask) (id : Nat) : Ev Bool :=
  if a.filter = 0 then .ok true else e.inBitmap stage a.filter id

/-- A walk's state. -/
structure Walk where
  visited : List Nat := []
  beam : List (Item × Bool) := []
  results : List Item := []
  expanded : Nat := 0
  deriving DecidableEq, Repr

/-- Add a node to a beam of at most n, kept in key order. -/
def addBeam (n : Nat) (l : List (Item × Bool)) (x : Item) : List (Item × Bool) :=
  (l.takeWhile (fun y => y.1.le x) ++ (x, false) :: l.dropWhile (fun y => y.1.le x)).take n

/-- A node is visited: it joins the beam, and the results where it is visible and passes (R226). -/
def Env.visit (e : Env) (stage : Nat) (a : Ask) (w : List SideEnt) (beam v : Nat) (s : Walk) : Ev Walk :=
  (e.node stage a v).bind (fun x =>
    let seen := !x.2 && !buried w x.1.id (Ix.merged a.hdr)
    (if seen then e.passes stage a x.1.id else .ok false).bind (fun p =>
      .ok { s with
        visited := v :: s.visited
        beam := addBeam beam s.beam x.1
        results := if p then addItem a.k s.results x.1 else s.results }))

/-- Visit a node's unvisited neighbours; true where the visited set is full. -/
def Env.visitAll (e : Env) (stage : Nat) (a : Ask) (w : List SideEnt) (beam : Nat) : List Nat → Walk → Ev (Bool × Walk)
  | [], s => .ok (false, s)
  | v :: vs, s =>
    if v = emptyNode || s.visited.contains v then e.visitAll stage a w beam vs s
    else if s.visited.length = 1048576 then .ok (true, s)
    else (e.visit stage a w beam v s).bind (fun s => e.visitAll stage a w beam vs s)

/-- The walk of R226; true where the budget ended it. -/
def Env.walk (e : Env) (stage : Nat) (a : Ask) (w : List SideEnt) (beam budget : Nat) : Nat → Walk → Ev (Bool × Walk)
  | 0, s => .ok (true, s)
  | n + 1, s =>
    match s.beam.find? (fun x => !x.2) with
    | none => .ok (false, s)
    | some x =>
      if budget != 0 && s.expanded = budget then .ok (true, s)
      else
        let s := { s with expanded := s.expanded + 1
                          beam := updFirst (fun y => y.1 = x.1 && !y.2) (fun y => (y.1, true)) s.beam }
        (e.neighbours stage a x.1.node).bind (fun vs =>
          (e.visitAll stage a w beam vs s).bind (fun r => if r.1 then .ok r else e.walk stage a w beam budget n r.2))

/-- The visible inserts of the window that pass the filter, as items, and how many inserts are scored: the visible ones, but every
one in FLAT mode (R223, R226, R230). -/
def Env.inserts (e : Env) (stage : Nat) (a : Ask) (w : List SideEnt) : Ev (List Item × Nat) :=
  let seen := w.filter (fun x => x.kind = 1 && !buried w x.id x.seq)
  (Ev.all (seen.map (fun x => (e.passes stage a x.id).bind (fun p =>
    .ok (if p then [({ dist := codeDist a.tq (codeParts a.hdr (x.code.take (Ix.codeBytes a.hdr))), id := x.id, seq := x.seq
                       shard := a.shard } : Item)] else []))))).bind (fun ls =>
      .ok (ls.flatten, if a.flat then (w.filter (fun x => x.kind = 1)).length else seen.length))

/-- A query's answer. -/
structure Answer where
  items : List Item := []
  reason : Nat := 0
  escal : Nat := 0
  scanned : Nat := 0
  deriving DecidableEq, Repr

/-- One run of a query with some doublings (R226, R230). -/
def Env.runOnce (e : Env) (stage : Nat) (a : Ask) (w : List SideEnt) (r : Nat) : Ev Answer :=
  let walk : Ev (Bool × List Item × Nat) :=
    if a.flat then
      (Ev.all ((List.range (Ix.nodes a.hdr)).map (fun v => e.visit stage a w 1 v {}))).bind (fun ss =>
        .ok (false, ss.foldl (fun l s => s.results.foldl (addItem a.k) l) [], ss.length))
    else if Ix.nodes a.hdr = 0 then .ok (false, [], 0)
    else (e.visit stage a w (a.beam * 2 ^ r) (Ix.entry a.hdr) {}).bind (fun s =>
      (e.walk stage a w (a.beam * 2 ^ r) (a.budget * 2 ^ r) 1048577 s).bind (fun x =>
        .ok (x.1, x.2.results, x.2.visited.length)))
  walk.bind (fun x => (e.inserts stage a w).bind (fun y =>
    let items := y.1.foldl (addItem a.k) x.2.1
    .ok { items, escal := r, scanned := x.2.2 + y.2
          reason := if a.k ≤ items.length then 0 else if x.1 then 2 else 1 }))

/-- A query with its escalations (R229). -/
def Env.runFrom (e : Env) (stage : Nat) (a : Ask) (w : List SideEnt) : Nat → Nat → Ev Answer
  | 0, r => e.runOnce stage a w r
  | n + 1, r => (e.runOnce stage a w r).bind (fun x =>
      if x.reason = 0 then .ok x else e.runFrom stage a w n (r + 1))

/-- A query of one index copy whose header is read (R222, R226, R230): the snapshot must lie in the version's range. -/
def Env.query (e : Env) (stage : Nat) (a : Ask) : Ev Answer :=
  let side := Ix.side a.hdr
  let go (w : List SideEnt) : Ev Answer := e.runFrom stage a w (if a.flat then 0 else a.escalate) 0
  if side = 0 then
    (if a.snapshot != 0 && a.snapshot < Ix.merged a.hdr then .fail Status.versionConflict.code stage else go [])
  else (e.shared stage side 64).bind (fun sb =>
    let n := a.snapshot
    if n < Ix.merged a.hdr || Sd.committed (lineOf sb) < n then .fail Status.versionConflict.code stage
    else (e.window stage side (Ix.merged a.hdr) n).bind go)

/-! ### SEARCH stages (R224, R232 to R238) -/

namespace Sr
def append (d : BitVec 512) : Bool := fld d 498 2 = (1 : BitVec 2)
def mode (d : BitVec 512) : Nat := (fld d 496 2).toNat
def metric (d : BitVec 512) : Nat := (fld d 494 2).toNat
def outKind (d : BitVec 512) : Nat := (fld d 492 2).toNat
def escalate (d : BitVec 512) : Nat := (fld d 490 2).toNat
def sharded (d : BitVec 512) : Bool := d.getLsbD 489
def backup (d : BitVec 512) : Bool := d.getLsbD 488
def queryF32 (d : BitVec 512) : Bool := d.getLsbD 487
def tagged (d : BitVec 512) : Bool := d.getLsbD 486
def k (d : BitVec 512) : Nat := (fld d 475 11).toNat
def beam (d : BitVec 512) : Nat := (fld d 463 12).toNat
def budget (d : BitVec 512) : Nat := (fld d 431 32).toNat
def index (d : BitVec 512) : Nat := (fld d 375 56).toNat
def query (d : BitVec 512) : Nat := (fld d 319 56).toNat
def dest (d : BitVec 512) : Nat := (fld d 263 56).toNat
def filter (d : BitVec 512) : Nat := (fld d 207 56).toNat
def shardMax (d : BitVec 512) : Nat := (fld d 199 8).toNat
def snapshot (d : BitVec 512) : Nat := (fld d 135 64).toNat
def appends (d : BitVec 512) : Nat := (fld d 103 32).toNat
def counter (d : BitVec 512) : Nat := (fld d 47 56).toNat
end Sr

/-- A header, checked (R215). -/
def Env.header (e : Env) (stage a : Nat) : Ev (BitVec 512) :=
  (e.shared stage a 64).bind (fun bs =>
    let h : BitVec 512 := lineOf bs
    if Ix.ok h then .ok h else .fail Status.unsupportedVersion.code stage)

/-- The snapshot that a query uses: the one named, or COMMITTED_SEQ as it stands (R222); none is taken with no side list. -/
def Env.snapshot (e : Env) (stage : Nat) (h : BitVec 512) (named : Nat) : Ev (Option Nat) :=
  if named != 0 then .ok (some named)
  else if Ix.side h = 0 then .ok none
  else (e.shared stage (Ix.side h) 64).bind (fun bs => .ok (some (Sd.committed (lineOf bs))))

/-- Line number under which a stage keeps that the snapshot of a shard has been written back. -/
def snapLine : Nat := 2 ^ 57 + 1

/-- A snapshot taken is written back into the field that asked for it (R222). -/
def Env.putBack (e : Env) (stage s : Nat) (x : PipeWrite) : Ev Unit :=
  let k := needKey false stage s snapLine
  match e.find k with
  | some g => if g.status = 0 then .ok () else .fail g.status stage
  | none => e.wait { key := k, line := snapLine, stage, ordinal := s, put := some x }

/-- The table of a stage's query against a header's codebook. -/
def Env.stageTable (e : Env) (stage : Nat) (d h : BitVec 512) (a : Nat) : Ev (List (List Nat)) :=
  let n := Ix.dim h
  ((e.shared stage (Sr.query d) (n * (if Sr.queryF32 d then 4 else 2))).both
    (e.shared stage (a + Ix.codebook h) (2 * Ix.kc h * n))).bind (fun x =>
      let xs := if Sr.queryF32 d then rawElems 4 x.1 else (rawElems 2 x.1).map (fun v => bf16.conv f32 v)
      .ok (queryTable h (Sr.metric d) xs (codebookOf h x.2)))

/-- Results of a stage as its outputs (R232). -/
def searchOut (d : BitVec 512) (a : Answer) (macs scanned : Nat) : StageRun :=
  let es : List Elem := (a.items.zipIdx).map (fun x => { ord := x.2, id := x.1.id, row := x.1.bytes })
  let report : StageOut :=
    { partial_ := decide (a.items.length < Sr.k d), reason := a.reason, escal := a.escal, rowsOut := es.length
      rowsIn := a.scanned, work := [macs, 0, 0, scanned]
      outs := if Sr.outKind d = 0 then []
        else rowWrites (Sr.outKind d) (Sr.dest d) (Sr.counter d) (if Sr.tagged d then 48 else 32) (Sr.tagged d) es }
  report.run (if Sr.outKind d = 0 then some (listLink (Stage.outLink d) 32 es) else none)

/-- The multiply-accumulates of a query's distance table: one term for each centroid and element (R216, R271). -/
def Ix.tableMacs (h : BitVec 512) : Nat := Ix.kc h * Ix.dim h

/-- The multiply-accumulates of a codebook's symmetric table (R233, R271). -/
def Ix.symMacs (h : BitVec 512) : Nat := Ix.kc h * Ix.kc h * Ix.subDim h * Ix.subs h

/-- A query of one index (R222, R226 to R232); the snapshot taken goes back into the descriptor, whose bytes 16 to 24
hold it. -/
def Env.searchOne (e : Env) (stage : Nat) (d : BitVec 512) (descAt : Nat) : Ev StageRun :=
  let a := Sr.index d
  (e.header stage a).bind (fun h =>
    (e.snapshot stage h (Sr.snapshot d)).bind (fun n =>
      let back : Ev Unit := match n with
        | some n => if Sr.snapshot d != 0 then .ok ()
            else e.putBack stage 0 { addr := descAt + 16, data := slice (natLe 64 (d.toNat + n * 2 ^ 135)) 16 9 }
        | none => .ok ()
      back.bind (fun _ => (e.stageTable stage d h a).bind (fun tq =>
        let ask : Ask := { pva := a, hdr := h, tq, flat := Sr.mode d = 1, k := Sr.k d, beam := Sr.beam d
                           budget := Sr.budget d, escalate := Sr.escalate d, filter := Sr.filter d, snapshot := n.getD 0 }
        (e.query stage ask).bind (fun r => .ok (searchOut d r (Ix.tableMacs h) r.scanned))))))

/-- A shard entry (Table SRCH-9). -/
structure ShardEnt where
  primary : Nat
  replica : Nat
  replicaValid : Bool
  filter : Nat
  version : BitVec 64
  snapshot : Nat
  deriving DecidableEq, Repr

/-- A shard entry from its bits. -/
def ShardEnt.ofBits (x : BitVec 512) : ShardEnt where
  primary := (fld x 456 56).toNat
  replica := (fld x 400 56).toNat
  replicaValid := x.getLsbD 399
  filter := (fld x 343 56).toNat
  version := fld x 256 64
  snapshot := (fld x 192 64).toNat

/-- A shard query record (Table LINK-9), with the format of shard 0's header in its upper reserved bits (log 30). -/
def shardRecord (d h0 : BitVec 512) (qpn : Qpn) (s : Nat) (x : ShardEnt) (hdr snap tb : Nat) : List Byte :=
  natLe 64 (packHi [(4, 1), (2, Sr.mode d), (2, Sr.escalate d), (8, s), (11, Sr.k d), (12, Sr.beam d),
    (32, Sr.budget d), (64, snap), (56, hdr), (56, if x.filter = 0 then Sr.filter d else x.filter), (64, x.version.toNat),
    (16, qpn.toNat), (17, tb), (1, b2n (Ix.codeBits h0)), (3, Ix.subLog2 h0), (16, Ix.dim h0), (148, 0)])

/-- Line number under which a stage keeps the answer of a shard, and of its append. -/
def askLine : Nat := 2 ^ 57

/-- A shard's answer, or the query that must be sent for it. -/
def Env.askShard (e : Env) (stage s : Nat) (backup alt : Bool) (hdr : Nat) (msg : List Byte) : Ev (List Byte) :=
  let k := needKey backup stage s askLine
  match e.find k with
  | some g => if g.status = 0 then .ok g.data else .fail g.status stage
  | none => e.wait { key := k, line := askLine, stage, ordinal := s, backup, alt, shard := some (BitVec.ofNat 56 hdr)
                     ask := some (hdr, msg) }

/-- The first good answer of a shard's primary and its backup (R202, R238). -/
def Env.shardAnswer (e : Env) (stage s : Nat) (may : Bool) (x : ShardEnt) (msg : Nat → List Byte) : Ev (List Byte) :=
  let p := e.askShard stage s false (may && x.replicaValid) x.primary (msg x.primary)
  if !e.backs.contains (stage, s) then p
  else match p, e.askShard stage s true false x.replica (msg x.replica) with
    | .ok a, _ => .ok a
    | _, .ok b => .ok b
    | .fail st k .., .fail .. => .fail ((e.firstFail stage s).getD st) k
    | .fail .., .need rs => .need rs
    | .need rs, .fail .. => .need rs
    | .need rs, .need ss => .need (rs ++ ss)

/-- An answer's header and entries (R306). -/
def answerOf (bs : List Byte) : Answer :=
  let h := leNat (slice bs 0 32)
  let n := nfld h 227 11
  { items := (chunks 32 n (bs.drop 32)).map Item.ofBytes, reason := nfld h 240 8, escal := nfld h 238 2
    scanned := nfld h 128 64 }

/-- The bytes of an answer (R306). -/
def answerBytes (st : BitVec 8) (a : Answer) : List Byte :=
  natLe 32 (packHi [(8, st.toNat), (8, a.reason), (2, a.escal), (11, a.items.length), (35, 0), (64, a.scanned), (128, 0)]) ++
  a.items.flatMap Item.bytes

/-- A sharded query (R235 to R238). -/
def Env.searchShards (e : Env) (stage : Nat) (d : BitVec 512) (qpn : Qpn) : Ev StageRun :=
  let n := Sr.shardMax d + 1
  let t := Sr.index d
  (Ev.all ((List.range n).map (fun s => (e.shared stage (t + 64 * s) 64).bind (fun bs =>
    if fld (lineOf bs) 320 23 != (0 : BitVec 23) || fld (lineOf bs) 0 192 != (0 : BitVec 192) then
      (.fail Status.unsupportedVersion.code stage : Ev ShardEnt)
    else .ok (ShardEnt.ofBits (lineOf bs)))))).bind (fun xs =>
    let snap (x : ShardEnt) : Ev (Option Nat) :=
      if x.snapshot != 0 then .ok (some x.snapshot)
      else (e.header stage x.primary).bind (fun h => e.snapshot stage h 0)
    let back (y : (ShardEnt × Option Nat) × Nat) : Ev Nat := match y.1.2 with
      | none => .ok 0
      | some n => if y.1.1.snapshot != 0 then .ok n
          else (e.putBack stage y.2 { addr := t + 64 * y.2 + 24, data := natLe 8 n }).bind (fun _ => .ok n)
    ((Ev.all (xs.map snap)).bind (fun ns => Ev.all (((xs.zip ns).zipIdx).map back))).bind (fun ns =>
      let a0 := ((xs.head?).map ShardEnt.primary).getD 0
      (e.header stage a0).bind (fun h0 =>
        (e.stageTable stage d h0 a0).bind (fun tq =>
          let tb := tableBytes tq
          let ask (y : (ShardEnt × Nat) × Nat) : Ev (List Byte) :=
            e.shardAnswer stage y.2 (Sr.backup d) y.1.1 (fun hdr => shardRecord d h0 qpn y.2 y.1.1 hdr y.1.2 tb.length ++ tb)
          (Ev.all (((xs.zip ns).zipIdx).map ask)).bind (fun bs =>
            let as := bs.map answerOf
            let items := as.foldl (fun l a => a.items.foldl (addItem (Sr.k d)) l) []
            let r : Answer := {
              items
              reason := if Sr.k d ≤ items.length then 0 else if as.any (fun a => a.reason = 2) then 2 else 1
              escal := as.foldl (fun m a => max m a.escal) 0
              scanned := as.foldl (fun m a => m + a.scanned) 0 }
            .ok (searchOut d r (Ix.tableMacs h0) 0))))))

/-- Whether an append record is one of Table SRCH-4 (R6, R220). -/
def appendOk (bs : List Byte) : Bool :=
  let x := leNat bs
  nfld x 960 64 = 0 && decide (nfld x 958 2 ≤ 2) && nfld x 512 383 = 0 && (nfld x 958 2 != 2 || nfld x 0 512 = 0)

/-- An APPEND (R221): its records go to the side list's home in one message; the answer counts those committed. -/
def Env.append (e : Env) (stage : Nat) (d : BitVec 512) : Ev StageRun :=
  (e.shared stage (Sr.query d) (128 * Sr.appends d)).bind (fun bs =>
    if !(chunks 128 (Sr.appends d) bs).all appendOk then .fail Status.unsupportedVersion.code stage
    else (e.askShard stage 0 false false (Sr.index d) bs).bind (fun a =>
      .ok ({ rowsOut := leNat (slice a 0 8), rowsIn := Sr.appends d } : StageOut).run))

/-- A SEARCH stage. -/
def Env.search (e : Env) (stage : Nat) (d : BitVec 512) (descAt : Nat) (qpn : Qpn) : Ev StageRun :=
  if Sr.append d then e.append stage d
  else if Sr.sharded d then e.searchShards stage d qpn
  else e.searchOne stage d descAt

/-- What a shard's QF960 answers to a shard query's record and table (R236). -/
def Env.shardRun (e : Env) (bs : List Byte) : Ev Answer :=
  let r := leNat (slice bs 0 64)
  let hdr := nfld r 321 56
  if nfld r 508 4 != 1 || nfld r 0 148 != 0 || 1 < nfld r 506 2 then .fail Status.unsupportedVersion.code 0
  else (e.header 0 hdr).bind (fun h =>
    let ver := nfld r 201 64
    if b2n (Ix.codeBits h) != nfld r 167 1 || Ix.subLog2 h != nfld r 164 3 || Ix.dim h != nfld r 148 16 then
      .fail Status.unsupportedVersion.code 0
    else if ver != 0 && ver != (Ix.version h).toNat then .fail Status.versionConflict.code 0
    else e.query 0 { pva := hdr, hdr := h, tq := tableOf h (slice bs 64 (nfld r 168 17)), flat := nfld r 506 2 = 1
                     k := nfld r 485 11, beam := nfld r 473 12, budget := nfld r 441 32, escalate := nfld r 504 2
                     filter := nfld r 265 56, snapshot := nfld r 377 64, shard := nfld r 496 8 })

/-! ### Merge (R233) -/

/-- The index as a merge changes it: nodes with code, identifier, DELETED and neighbours, where they differ from what is
stored. -/
structure Grown where
  nodes : Nat := 0
  codes : Tbl (List Byte) := []
  ids : Tbl (Nat × Bool) := []
  adj : Tbl (List Nat) := []
  deriving DecidableEq, Repr

/-- A node of the growing index: code parts, identifier, DELETED. -/
def Env.grownNode (e : Env) (a : Ask) (g : Grown) (v : Nat) : Ev (List Nat × Nat × Bool) :=
  let code : Ev (List Byte) := match g.codes.find? v with
    | some c => .ok c
    | none => e.shared 0 (a.pva + Ix.codes a.hdr + v * Ix.codeBytes a.hdr) (Ix.codeBytes a.hdr)
  let id : Ev (Nat × Bool) := match g.ids.find? v with
    | some i => .ok i
    | none => (e.shared 0 (a.pva + Ix.ids a.hdr + 8 * v) 8).bind (fun bs => .ok (nfld (leNat bs) 0 63, nfld (leNat bs) 63 1 = 1))
  (code.both id).bind (fun x => .ok (codeParts a.hdr x.1, x.2.1, x.2.2))

/-- A node's neighbours in the growing index. -/
def Env.grownAdj (e : Env) (a : Ask) (g : Grown) (v : Nat) : Ev (List Nat) :=
  match g.adj.find? v with
  | some l => .ok l
  | none => e.neighbours 0 a v

/-- The symmetric tables: centroid to centroid, by subspace (R233 step 2). -/
abbrev SymTable := List (List (List Nat))

/-- Distance of two codes under a symmetric table. -/
def symDist (t : SymTable) (x y : List Nat) : Nat :=
  (t.zip (x.zip y)).foldl (fun a m => a + (m.1.getD m.2.1 []).getD m.2.2 0) 0

/-- The symmetric table of a codebook: R216 for each centroid in place of the query, quantised together (R217). -/
def symTable (metric : Nat) (book : List (List (List Nat))) : SymTable :=
  let m := if metric = 0 then 0 else 1
  let flat := quantise (book.map (fun cs => cs.flatMap (fun c => cs.map (tableValue m c))))
  (flat.zip book).map (fun x => chunks x.2.length x.2.length x.1)

/-- A merge's walk toward a new code. -/
def Env.growVisit (e : Env) (a : Ask) (t : SymTable) (g : Grown) (code : List Nat) (v : Nat) (s : Walk) : Ev Walk :=
  (e.grownNode a g v).bind (fun x =>
    let it : Item := { dist := symDist t code x.1, id := x.2.1, node := v }
    .ok { s with
      visited := v :: s.visited, beam := addBeam a.beam s.beam it
      results := if x.2.2 then s.results else addItem a.k s.results it })

/-- Visit unvisited neighbours. -/
def Env.growVisits (e : Env) (a : Ask) (t : SymTable) (g : Grown) (code : List Nat) : List Nat → Walk → Ev (Bool × Walk)
  | [], s => .ok (false, s)
  | v :: vs, s =>
    if v = emptyNode || s.visited.contains v then e.growVisits a t g code vs s
    else if s.visited.length = 1048576 then .ok (true, s)
    else (e.growVisit a t g code v s).bind (fun s => e.growVisits a t g code vs s)

/-- The walk of R226 over the growing index, unfiltered. -/
def Env.growWalk (e : Env) (a : Ask) (t : SymTable) (g : Grown) (code : List Nat) : Nat → Walk → Ev Walk
  | 0, s => .ok s
  | n + 1, s =>
    match s.beam.find? (fun x => !x.2) with
    | none => .ok s
    | some x =>
      let s := { s with beam := updFirst (fun y => y.1 = x.1 && !y.2) (fun y => (y.1, true)) s.beam }
      (e.grownAdj a g x.1.node).bind (fun vs =>
        (e.growVisits a t g code vs s).bind (fun r => if r.1 then .ok r.2 else e.growWalk a t g code n r.2))

/-- A neighbour takes the new node into an empty place, or in place of its worst (R233 step 3). -/
def Env.growLink (e : Env) (a : Ask) (t : SymTable) (u new : Nat) (g : Grown) : Ev Grown :=
  ((e.grownAdj a g u).both ((e.grownNode a g u).both (e.grownNode a g new))).bind (fun x =>
    let l := x.1
    let cu := x.2.1.1
    let mine : Item := { dist := symDist t cu x.2.2.1, id := x.2.2.2.1, node := new }
    if l.contains emptyNode then
      .ok { g with adj := g.adj.set u (updFirst (· = emptyNode) (fun _ => new) l) }
    else (Ev.all (l.map (fun v => (e.grownNode a g v).bind (fun y =>
      .ok ({ dist := symDist t cu y.1, id := y.2.1, node := v } : Item))))).bind (fun is =>
        let worst := is.foldl (fun w i => if w.le i then i else w) (is.headD {})
        .ok (if mine.le worst && mine != worst then
          { g with adj := g.adj.set u (updFirst (· = worst.node) (fun _ => new) l) } else g)))

/-- Link the new node's neighbours back to it. -/
def Env.growLinks (e : Env) (a : Ask) (t : SymTable) (new : Nat) : List Nat → Grown → Ev Grown
  | [], g => .ok g
  | u :: us, g => (e.growLink a t u new g).bind (fun g => e.growLinks a t new us g)

/-- One entry of the window is folded in (R233 step 3). -/
def Env.growEntry (e : Env) (a : Ask) (t : SymTable) (w : List SideEnt) (x : SideEnt) (g : Grown) : Ev Grown :=
  if x.kind = 2 then
    (Ev.all ((List.range g.nodes).map (fun v => e.grownNode a g v))).bind (fun ns =>
      .ok { g with ids := (ns.zipIdx).foldl (fun ids n =>
        if n.1.2.1 = x.id then ids.set n.2 (x.id, true) else ids) g.ids })
  else if x.kind != 1 || buried w x.id x.seq then .ok g
  else
    let code := x.code.take (Ix.codeBytes a.hdr)
    let parts := codeParts a.hdr code
    let near : Ev (List Item) := if g.nodes = 0 then .ok []
      else (e.growVisit a t g parts (Ix.entry a.hdr) {}).bind (fun s =>
        (e.growWalk a t g parts 1048577 s).bind (fun s => .ok s.results))
    near.bind (fun ns =>
      let l := ns.map Item.node
      let g' := { g with
        nodes := g.nodes + 1, codes := g.codes.set g.nodes code, ids := g.ids.set g.nodes (x.id, false)
        adj := g.adj.set g.nodes (l ++ List.replicate (Ix.degree a.hdr - l.length) emptyNode) }
      e.growLinks a t g.nodes l g')

/-- Every entry of the window, in order; a failure tells how many have been processed, and how many there are. -/
def Env.growAll (e : Env) (a : Ask) (t : SymTable) (w : List SideEnt) : List SideEnt → Grown → Ev Grown
  | [], g => .ok g
  | x :: xs, g => ((e.growEntry a t w x g).counted 0 (w.length - (xs.length + 1)) w.length).bind (fun g =>
      e.growAll a t w xs g)

/-- What a merge writes: offsets from the header and bytes, the header last (R233 step 4). -/
def grownWrites (h : BitVec 512) (target : Nat) (version : BitVec 64) (g : Grown) : List (Nat × List Byte) :=
  let c := Ix.codeBytes h
  let d := Ix.degree h
  let x := h.toNat - nfld h.toNat 454 32 * 2 ^ 454 + g.nodes * 2 ^ 454
  let x := x - nfld x 302 64 * 2 ^ 302 + version.toNat * 2 ^ 302
  let x := x - nfld x 238 64 * 2 ^ 238 + target * 2 ^ 238
  g.codes.map (fun y => (Ix.codes h + y.1 * c, y.2)) ++
  g.ids.map (fun y => (Ix.ids h + 8 * y.1, natLe 8 (y.2.1 + b2n y.2.2 * 2 ^ 63))) ++
  g.adj.map (fun y => (Ix.adj h + y.1 * 4 * d, y.2.flatMap (fun v => natLe 4 v))) ++
  [(0, natLe 64 x)]

/-- What a merge of the entries up to a target finds: the writes, how many entries it processes, and the multiply-accumulates of
its table (R271). -/
def Env.merge (e : Env) (pva target metric : Nat) (version : BitVec 64) : Ev (List (Nat × List Byte) × Nat × Nat) :=
  (e.header 0 pva).bind (fun h =>
    (e.shared 0 (Ix.side h) 64).bind (fun sb =>
      if Ix.side h = 0 || decide (target < Ix.merged h) || decide (Sd.committed (lineOf sb) < target) then
        .fail Status.versionConflict.code 0
      else (e.window 0 (Ix.side h) (Ix.merged h) target).bind (fun w =>
        let n := (w.filter (fun x => x.kind = 1)).length
        if Ix.capacity h < Ix.nodes h + n then .fail Status.quota.code 0
        else (e.shared 0 (pva + Ix.codebook h) (2 * Ix.kc h * Ix.dim h)).bind (fun cb =>
          let t := symTable metric (codebookOf h cb)
          let a : Ask := { pva, hdr := h, k := Ix.degree h, beam := 4 * Ix.degree h }
          (e.growAll a t w w { nodes := Ix.nodes h }).bind (fun g => .ok (grownWrites h target version g, w.length, Ix.symMacs h))))))

end Sys2Proof.Machine
end

