-- ==== Sys2Proof/Machine/Gather.lean ====
section
/-! DEFINITION. Machine/Gather.lean: the pipelines of a sector (R187 to R212, R240): what makes a descriptor good, when a
pipeline starts, its reads, queries of shards, backups, outputs, result record and completion. -/

namespace Sys2Proof.Machine

/-! ### Descriptors (R191 to R196, R224, R272, R273, R277) -/

/-- LINK_DEPTH of a link in cells. -/
def linkDepth (h : BitVec 512) (l : Nat) : Nat := nfld h.toNat (409 + 12 * l) 12

/-- Link cells of a pipeline. -/
def pipeCells (h : BitVec 512) : Nat := (List.range 8).foldl (fun a l => a + linkDepth h l) 0

/-- Selection entries of a pipeline's stages (R279). -/
def pipeEntries (ds : List (BitVec 512)) : Nat :=
  (ds.filter (fun d => Stage.kind d = 5)).foldl (fun a d => a + Se.k d) 0

/-- Row size on a stage's output link. -/
def stageRow (d : BitVec 512) (inRow : Nat) : Nat :=
  match Stage.kind d with
  | 1 => GS.rowBytes d
  | 4 => 16
  | 6 => 32
  | _ => inRow

/-- The rules of GATHER and SCATTER (Table GATH-5). -/
def gatherOk (d : BitVec 512) (scatter : Bool) : Bool :=
  fld d 0 142 = (0 : BitVec 142) && (GS.pitch d = 0 || decide (GS.rowBytes d ≤ GS.pitch d)) &&
  (if scatter then GS.outKind d = 1 && Stage.inValid d
   else GS.outKind d != 3 && (GS.outKind d != 0 || Stage.outValid d) &&
     (GS.mode d = 0 || !GS.fromLink d || Stage.inValid d))

/-- The rules of FILTER (Table GATH-7). -/
def filterOk (d : BitVec 512) : Bool :=
  Stage.inValid d && fld d 0 256 = (0 : BitVec 256) && Fl.outKind d != 3 && decide (Fl.form d ≤ 4) &&
  decide (1 ≤ Fl.nterms d) && decide (Fl.nterms d ≤ 8) && Fl.terms d % 32 = 0 &&
  (Fl.outKind d != 0 || (Fl.form d = 0 && Stage.outValid d))

/-- The rules of SCORE (R272, R273). -/
def scoreOk (d : BitVec 512) (row : Nat) : Bool :=
  let int8 (b : Bool) : Bool := b = (Sc.keyFmt d = 4)
  Stage.inValid d && fld d 0 141 = (0 : BitVec 141) && Sc.outKind d != 3 && decide (Sc.keyFmt d ≤ 4) &&
  Sc.queryFmt d != 3 && (Sc.keyFmt d != 1 || (decide (Sc.rate d ≤ 5) && Sc.values d % 256 = 0)) &&
  Sc.dim d % 16 = 0 && decide (16 ≤ Sc.dim d) && decide (Sc.dim d ≤ 4096) && row = Sc.rowBytes d &&
  (Sc.keyFmt d != 2 || Sc.opFmt d = 1) && (Sc.keyFmt d != 3 || Sc.opFmt d = 2) &&
  int8 (Sc.opFmt d = 3) && int8 (Sc.queryFmt d = 2) &&
  (Sc.outKind d != 0 || (!Sc.tagged d && Stage.outValid d))

/-- The rules of SELECT (R277, R279). -/
def selectOk (d : BitVec 512) (row : Nat) : Bool :=
  Stage.inValid d && fld d 0 303 = (0 : BitVec 303) && Se.outKind d != 3 && decide (1 ≤ Se.k d) &&
  decide (Se.k d ≤ 16384) && decide (Se.scoreOff d + 4 ≤ row) &&
  (!Se.idFromRow d || decide (Se.idOff d + 8 ≤ row)) && !(Se.minValid d && f32.isNan (Se.min d)) &&
  decide (row ≤ 64) && (Se.outKind d != 0 || Stage.outValid d)

/-- The rules of SEARCH (R224). -/
def searchOk (d : BitVec 512) : Bool :=
  !Stage.inValid d && decide ((fld d 498 2 : BitVec 2).toNat ≤ 1) && fld d 0 47 = (0 : BitVec 47) &&
  decide (Sr.mode d ≤ 1) && decide (Sr.metric d ≤ 2) && Sr.outKind d != 3 &&
  (if Sr.append d then !Stage.outValid d && decide (1 ≤ Sr.appends d) && decide (Sr.appends d ≤ 65536)
   else decide (1 ≤ Sr.k d) &&
     decide (Sr.k d ≤ 1024) && decide (Sr.k d ≤ Sr.beam d) && (Sr.outKind d != 0 || Stage.outValid d))

/-- The rules of a stage's kind, with the row size of its input link. -/
def stageOk (d : BitVec 512) (row : Nat) : Bool :=
  match Stage.kind d with
  | 1 => gatherOk d false
  | 2 => gatherOk d true
  | 3 => filterOk d
  | 4 => scoreOk d row
  | 5 => selectOk d row
  | 6 => searchOk d
  | _ => false

/-- The stages in order, with the row sizes of the links written so far: every link read has been written, and none is
written twice (R193). -/
def stagesOk (h : BitVec 512) : List (BitVec 512) → Tbl Nat → Bool
  | [], rows => (List.range 8).all (fun l => linkDepth h l = 0 || rows.has l)
  | d :: ds, rows =>
    let row := if Stage.inValid d then rows.find? (Stage.inLink d) else some 0
    match row with
    | none => false
    | some row =>
      stageOk d row &&
      (if Stage.outValid d then
        let l := Stage.outLink d
        let r := stageRow d row
        linkDepth h l != 0 && !rows.has l && decide (16 + 16 * ceilDiv r 16 ≤ 256 * linkDepth h l) &&
        stagesOk h ds (rows.set l r)
       else stagesOk h ds rows)

/-- The input row size of each stage, given the row sizes of the links written so far. -/
def inRows : List (BitVec 512) → Tbl Nat → List Nat
  | [], _ => []
  | d :: ds, rows =>
    let row := if Stage.inValid d then rows.get (Stage.inLink d) 0 else 0
    row :: inRows ds (if Stage.outValid d then rows.set (Stage.outLink d) (stageRow d row) else rows)

/-- Whether a RUN_PIPELINE is good (R6, R188, R193): its descriptor has a header and one to eight stages. -/
def pipeFormOk (w : BitVec 512) : Bool :=
  Wr.atomicOp w = 0 && Wr.atomicWidth w = 0 && Wr.counter w = 0 && Wr.payload w = 0 && Wr.rsvd w = 0 &&
  (Wr.source w).toNat % 64 = 0 && Wr.len w % 64 = 0 && decide (128 ≤ Wr.len w) && decide (Wr.len w ≤ 576)

/-- Whether a RUN_PIPELINE and its descriptor are good (R6, R188, R191 to R193). -/
def pipeOk (w : BitVec 512) (desc : List (BitVec 512)) : Bool :=
  let h := desc.headD 0
  let ds := desc.drop 1
  pipeFormOk w && fld h 508 4 = (1 : BitVec 4) && fld h 0 409 = (0 : BitVec 409) &&
  ds.length = nfld h.toNat 505 3 + 1 && Wr.len w = 64 * desc.length && decide (pipeCells h ≤ 8192) &&
  (List.range 8).all (fun l => decide ((ds.filter (fun d => Stage.inValid d && Stage.inLink d = l)).length ≤ 2)) &&
  stagesOk h ds []

/-- The stage under which a pipeline keeps what it reads of its descriptor. -/
def descStage : Nat := 8

/-- The descriptor of a RUN_PIPELINE, from its lines at SOURCE (R191), once it and the terms of its filters keep the rules (R193,
R205, R206); what it breaks is a failure of no stage. -/
def Env.descriptor (e : Env) (w : BitVec 512) : Ev (List (BitVec 512)) :=
  let src := (Wr.source w).toNat
  (poolAddr descStage (src + Wr.len w - 1)).bind (fun _ =>
    (e.shared descStage src (Wr.len w)).bind (fun bs =>
      let desc : List (BitVec 512) := (chunks 64 (Wr.len w / 64) bs).map lineOf
      let ds := desc.drop 1
      let bad : Ev (List (BitVec 512)) := .fail Status.unsupportedVersion.code descStage
      if !pipeOk w desc then bad
      else
        let filters := ((ds.zip (inRows ds [])).zipIdx).filter (fun x => Stage.kind x.1.1 = 3)
        (Ev.all (filters.map (fun x => (e.terms x.2 x.1.1).bind (fun ts => .ok (ts.all (fun t => termOk t x.1.2)))))).bind (fun oks =>
          if oks.all (fun b => b) then .ok desc else bad)))

/-! ### The stages of a pipeline over what it has read -/

/-- One stage. -/
def Env.stage (e : Env) (src : Nat) (qpn : Qpn) (k : Nat) (d : BitVec 512) (inp : Option LinkOut) : Ev StageRun :=
  match Stage.kind d with
  | 1 => e.gather k d inp
  | 2 => e.scatter k d inp
  | 3 => e.filter k d inp
  | 4 => e.score k d inp
  | 5 => Env.select k d inp
  | _ => e.search k d (src + 64 * (k + 1)) qpn

/-- A link whose elements so far are all there will be: what an evaluation that is cut short has been given. -/
def LinkOut.soFar (l : LinkOut) : LinkOut :=
  { l with at_ := fun k => match l.at_ k with
    | .ok x => .ok x
    | _ => .ok none }

/-- All stages in order, each with its descriptor.  An output link that its stage does not feed carries nothing. -/
def Env.runs (e : Env) (src : Nat) (qpn : Qpn) : List (BitVec 512) → Nat → List LinkOut → Ev (List (BitVec 512 × StageRun))
  | [], _, _ => .ok []
  | d :: ds, k, links =>
    let inp := if Stage.inValid d then links.find? (fun l => l.num = Stage.inLink d) else none
    let inp := if e.cut && ds.isEmpty then inp.map LinkOut.soFar else inp
    (e.stage src qpn k d inp).bind (fun o =>
      let mine := if Stage.outValid d then [o.link.getD (listLink (Stage.outLink d) 0 [])] else []
      (Env.runs e src qpn ds (k + 1) (links ++ mine)).bind (fun os => .ok ((d, o) :: os)))

/-- How many elements a link's readers made its writer produce: all, where one read it to its end, else the most that one took
(R195). -/
def wantOf (l : Nat) (took : List (Nat × Option Nat)) : Option Nat :=
  let ts := (took.filter (fun x => x.1 = l)).map Prod.snd
  if ts.any Option.isNone then none else some (ts.foldl (fun a t => max a (t.getD 0)) 0)

/-- The stages end, the last one first: each knows then what its readers have taken. -/
def finishRuns : List (BitVec 512 × StageRun) → List (Nat × Option Nat) → List StageOut → Ev (List StageOut)
  | [], _, os => .ok os
  | (d, r) :: rest, took, os =>
    (r.finish (if Stage.outValid d then wantOf (Stage.outLink d) took else none)).bind (fun o =>
      finishRuns rest (if Stage.inValid d then took ++ [(Stage.inLink d, o.took)] else took) (o :: os))

/-- All stages. -/
def Env.stages (e : Env) (src : Nat) (qpn : Qpn) (ds : List (BitVec 512)) : Ev (List StageOut) :=
  (e.runs src qpn ds 0 []).bind (fun rs => finishRuns rs.reverse [] [])

/-- The report of stages that all ended (R210). -/
def reportOf (os : List StageOut) : PipeReport :=
  let k := (os.findIdx? (fun o => o.partial_)).getD (os.length - 1)
  let o := os.getD k {}
  { status := if o.partial_ then Status.partialResult.code else 0, reason := BitVec.ofNat 8 o.reason, stage := k
    escal := o.escal, rowsOut := o.rowsOut, rowsIn := o.rowsIn }

/-- A result record's bytes (Table GATH-11). -/
def recordBytes (j : PipeJob) (placed : Nat) : List Byte :=
  let r := j.report
  natLe 32 (packHi [(8, r.status.toNat), (8, r.reason.toNat), (3, r.stage), (2, r.escal), (11, 0), (32, r.rowsOut),
    (32, r.rowsIn), (32, j.launched), (32, j.won), (32, 0), (64, placed)])

/-! ### Histograms and backups (R201, R202, R238) -/

/-- Bin of a latency (R201): bin i covers 2^(i/4) to 2^((i+1)/4) ns. -/
def latencyBin (ns : Nat) : Nat := if ns = 0 then 0 else min 95 (Nat.log2 (ns ^ 4))

/-- The bin that holds the 99th percentile. -/
def shardP99 (bins : List Nat) : Nat := ((bins.mergeSort (fun a b => decide (a ≤ b))).getD (ceilDiv (99 * bins.length) 100 - 1) 0)

/-- Whether a time outstanding reaches factor / 8 of a bin's upper edge. -/
def pastEdge (ns factor bin : Nat) : Bool := decide (factor ^ 4 * 2 ^ (bin + 1) ≤ (8 * ns) ^ 4)

/-- The histogram of a shard. -/
def Qf.hist (q : Qf) (s : Sector) (search : Bool) (a : Pva) : List Nat :=
  ((q.eng.hists.find? (fun h => h.sector = s && h.search = search && h.addr = a)).map Histogram.bins).getD []

/-- Sample a primary answer's latency: the last 4,096 of a gather's shard, the last 1,024 of a search's; a sector keeps
256 search histograms. -/
def Qf.sampleShard (q : Qf) (s : Sector) (search : Bool) (a : Pva) (ns : Nat) : Qf :=
  let isIt (h : Histogram) : Bool := h.sector = s && h.search = search && h.addr = a
  let cap := if search then 1024 else 4096
  let old := q.hist s search a
  let bins := old ++ [latencyBin ns]
  let bins := bins.drop (bins.length - cap)
  let rest := q.eng.hists.filter (fun h => !isIt h)
  let mates := rest.filter (fun h => h.sector = s && h.search)
  let rest := if search && 256 ≤ mates.length then dropFirst (fun h => h.sector = s && h.search) rest else rest
  { q with eng := { q.eng with hists := rest ++ [{ sector := s, search, addr := a, bins }] } }

/-! ### Jobs -/

/-- Whom a pipeline's requests act for: its queue's tenant and world, stream class 0 and its number, marked as its work request is (R188). -/
def Qf.pipeIssuer (q : Qf) (j : PipeJob) : Issuer :=
  let c := (q.qp j.pair).ctx
  { sector := j.sector, tenant := c.tenant, world := c.world, stream := qpStream j.pair, relaxed := Wr.relaxed j.wr
    acquire := Wr.acquire j.wr, release := Wr.release j.wr }

/-- Read one line for an engine (R198). -/
def Qf.readLine (q : Qf) (w : Issuer) (o : Owner) (line : Nat) : Option Status × Qf :=
  q.issue w.sector o
    { opcode := Opc.rdNc, tenant := w.tenant, world := w.world, stream := w.stream, relaxed := w.relaxed
      acquire := w.acquire, release := w.release, addr := BitVec.ofNat 60 (64 * line) }

/-- Packets of a message of up to 4,096 bytes each. -/
def msgCuts (bs : List Byte) : List (Nat × List Byte) :=
  (List.range (max 1 (ceilDiv bs.length 4096))).map (fun k => (4096 * k, slice bs (4096 * k) (min 4096 (bs.length - 4096 * k))))

/-- Send a message of an engine opcode to the home of an address: the first refusal. -/
def Qf.sendAsk (q : Qf) (w : Issuer) (o : Owner) (op : BitVec 8) (a : Nat) (bs : List Byte) : Option Status × Qf :=
  let (id, q) := q.takeMsg
  (msgCuts bs).foldl (fun (x : Option Status × Qf) c =>
    match x.1 with
    | some st => (some st, x.2)
    | none => x.2.issue w.sector o
        { opcode := op, tenant := w.tenant, world := w.world, stream := w.stream, acquire := w.acquire, release := w.release, addr := BitVec.ofNat 60 a, payload := c.2
          msg := some { msgId := id, offset := BitVec.ofNat 32 c.1, totalLen := BitVec.ofNat 32 bs.length } }) (none, q)

/-- Line reads outstanding in a sector's gather engine. -/
def Qf.lineReads (q : Qf) (s : Sector) : Nat :=
  (q.eng.jobs.filter (fun j => j.sector = s)).foldl (fun a j =>
    a + (j.reads.filter (fun r => r.key % 2 ^ 58 < 2 ^ 57)).length) 0

/-- Whether a pipeline may issue a read or query now: not behind a request of its engine marked ACQUIRE (R78); where it is marked
RELEASE, once every write is placed that its engine issued before it (R77); and while the gather engine has fewer than 8,192 line
reads out (R198). -/
def Qf.pipeMay (q : Qf) (j : PipeJob) : Bool :=
  let seq := (((q.qp j.pair).wrOf j.wrIndex).map WorkReq.seq).getD 0
  !q.acquiring j.pair && decide (q.lineReads j.sector < 8192) &&
  (!Wr.release j.wr || ((let open_ := q.engineWrites j.pair; j.after.all (fun t => !open_.contains t)) && !q.earlierWrite j.pair seq))

/-- A read, query or write that a pipeline needs is refused: that is its answer. -/
def Qf.gotAt (q : Qf) (n : QpKey) (i : BitVec 16) (key : Nat) (st : BitVec 8) : Qf :=
  q.updJob n i (fun j => { j with got := j.got ++ [{ key, status := st }] })

/-- Issue one read or query that a pipeline needs, unless it is outstanding or has to wait. -/
def Qf.pipeAsk (q : Qf) (n : QpKey) (i : BitVec 16) (x : Need) : Qf :=
  match q.job n i with
  | none => q
  | some j =>
    if j.reads.any (fun r => r.key = x.key) then q
    else if !q.pipeMay j then q.updJob n i (fun j => { j with stalled := true })
    else
      let w := q.pipeIssuer j
      let d := (j.desc.drop 1).getD x.stage 0
      let isAppend := x.ask.isSome && Sr.append d
      let y := match x.ask with
        | some m => q.sendAsk w (if isAppend then .sideAsk n i x.key else .shardAsk n i x.key)
            (if isAppend then Opc.sideAppend else Opc.searchShard) m.1 m.2
        | none => q.readLine w (.pipeLine n i x.stage x.key) x.line
      match y.1 with
      | none =>
        let r : EngRead := { key := x.key, stage := x.stage, ordinal := x.ordinal, backup := x.backup, alt := x.alt
                             shard := if isAppend then none else x.shard, search := x.ask.isSome, sentAt := q.now }
        y.2.updJob n i (fun j => { j with reads := j.reads ++ [r], begun := j.begun || isAppend })
      | some st =>
        let q := if st = .accessViolation && (q.qp n).ctx.priv then
            y.2.violation (BitVec.ofNat 60 (64 * x.line)) w.world (originOf n) (qpnOf n) 0 false w.tenant else y.2
        q.gotAt n i x.key st.code

/-! ### Writing -/

/-- The packets of one output: to the window, past whose end it is ACCESS_VIOLATION (R132), or to the pool. -/
def Qf.pushOut (q : Qf) (n : QpKey) (i : BitVec 16) (wr : BitVec 512) (stage : Nat) (counts : Bool) (o : PipeWrite) :
    Except Status Qf :=
  let c := (q.qp n).ctx
  let len := o.data.length
  if (if o.window then c.offWindow (BitVec.ofNat 64 o.addr) len else decide (2 ^ 56 < o.addr + len)) then
    .error .accessViolation
  else
    let cuts : List (Nat × Nat × Nat) := if o.window then (msgCuts o.data).map (fun x => (x.1, o.addr + x.1, x.2.length))
      else pagesOf o.addr len
    let s := qpSector n
    let (heads, ids, q) := if o.window then ([], [], q)
      else q.nameHomes (cuts.map (fun x => (q.homeAt s c.tenant c.world (BitVec.ofNat 60 x.2.1), x.2.2)))
    let q := q.updWr n i (fun w => { w with msgs := w.msgs ++ ids })
    .ok ((cuts.zip (if o.window then cuts.map (fun _ => none) else heads.map some)).foldl (fun q z =>
      let x := z.1
      let (tag, q) := q.takeTag
      let a : BitVec 60 := (if o.window then c.winBase.zeroExtend 60 else 0) + BitVec.ofNat 60 x.2.1
      let aux : AuxHdr := { byteMask := fullMask, counterAddr := BitVec.ofNat 60 o.counter }
      let p := { (q.enginePkt n wr Opc.wrBulk a tag) with aux := if o.window || o.counter = 0 then none else some aux, msg := z.2 }
      let d : Packet := { opcode := Opc.dataWrite, vc := 3, payload := slice o.data x.1 x.2.2 }
      q.pushPkt n { pkt := p, data := some d, wr := i, len := if counts then x.2.2 else 0
                    owner := .pipeWrite n i stage, bare := o.window, window := o.window }) q)

/-- Push outputs in order; the first that may not be written, by stage. -/
def Qf.pushOuts (n : QpKey) (i : BitVec 16) (wr : BitVec 512) (counts : Bool) :
    List (Nat × PipeWrite) → Qf → Option (Nat × Status) × Qf
  | [], q => (none, q)
  | x :: xs, q => match q.pushOut n i wr x.1 counts x.2 with
    | .ok q => Qf.pushOuts n i wr counts xs q
    | .error st => (some (x.1, st), q)

/-! ### Ending -/

/-- Count the QUERY and SELECT stages of a pipeline whose stages have all ended (Tables SRCH-12, MATX-8). -/
def Qf.countStages (q : Qf) (ds : List (BitVec 512)) (os : List StageOut) : Qf :=
  let queries := (ds.zip os).filter (fun x => Stage.kind x.1 = 6 && !Sr.append x.1)
  let selects := (ds.zip os).filter (fun x => Stage.kind x.1 = 5)
  let part (xs : List (BitVec 512 × StageOut)) : Nat := (xs.filter (fun x => x.2.partial_)).length
  { q with eng := { q.eng with
    sCompleted := q.eng.sCompleted + queries.length, sPartial := q.eng.sPartial + part queries
    mSelects := q.eng.mSelects + selects.length, mPartial := q.eng.mPartial + part selects } }

/-- Count and bill the work of a pipeline that ends (Table MATX-8; R437). -/
def Qf.countPipe (q : Qf) (j : PipeJob) : Qf :=
  let t := (q.qp j.pair).ctx.tenant
  let w (k : Nat) : Nat := j.work.getD k 0
  let q := { q with eng := { q.eng with
    mMacs := q.eng.mMacs + w 0, mRows := q.eng.mRows + w 1, mNan := q.eng.mNan + w 2
    frbExpanded := q.eng.frbExpanded + w 4, frbLoads := q.eng.frbLoads + w 5 } }
  (q.meter j.sector t 7 (w 0)).meter j.sector t 8 (w 3)

/-- Whether a report is of a pipeline that ended OK or PARTIAL. -/
def PipeReport.good (r : PipeReport) : Bool := r.status = 0 || r.status = Status.partialResult.code

/-- A pipeline is over: its work request completes with its status and RESULT (R189); with the status of its record's write,
where that failed and nothing had failed before. -/
def Qf.pipeEnd (q : Qf) (n : QpKey) (i : BitVec 16) : Qf :=
  match q.job n i with
  | none => q
  | some j =>
    let r := j.report
    let result : BitVec 128 := BitVec.ofNat 128 (packHi [(32, r.rowsOut), (8, r.reason.toNat), (88, 0)])
    let q := (q.countPipe j).dropJob n i
    let q := q.updWr n i (fun w => { w with todo := [], result, begun := true })
    (if !r.good then q.updWr n i (fun w => { w with unresolved := w.unresolved - 1 })
     else if j.recFail != 0 then q.wrFail n i j.recFail false (fld (Wr.dest j.wr) 0 60) 0
     else q.updWr n i (fun w => { w with final := if w.final.isSome then w.final else some r.status })).settleQp n

/-- Write the result record, or end at once where there is none to write (R189, R210). -/
def Qf.pipeRecord (q : Qf) (n : QpKey) (i : BitVec 16) : Qf :=
  match q.job n i with
  | none => q
  | some j =>
    let placed := (((q.qp n).wrOf i).map WorkReq.placed).getD 0
    let dest := (Wr.dest j.wr).toNat
    let failed (q : Qf) (st : Status) : Qf := q.updJob n i (fun j => { j with recFail := st.code })
    if dest = 0 then q.pipeEnd n i
    else if 2 ^ 56 < dest + 32 then (failed q .accessViolation).pipeEnd n i
    else
      let x := q.engWriteAll { q.pipeIssuer j with acquire := false } (.pipeWrite n i 8) 0 dest (recordBytes j placed)
      let q := x.2.2.updJob n i (fun j => { j with phase := .record, recs := x.2.1 })
      let q := match x.1 with
        | some st => failed q st
        | none => q
      if x.2.1 = 0 then q.pipeEnd n i else q

/-- Whether a stage that failed met a malformed FRB block: its code table was good (R254). -/
def badBlock (j : PipeJob) (st : BitVec 8) (stage : Nat) : Bool :=
  let d := (j.desc.drop 1).getD stage 0
  if Stage.kind d = 4 && Sc.keyFmt d = 1 && st = Status.unsupportedVersion.code then
    match ({ got := j.got } : Env).shared stage (Sc.table d) 64 with
    | .ok bs => frbValid (lineOf bs) && frbRate (lineOf bs) = Sc.rate d
    | _ => false
  else false

/-- A pipeline fails at a stage with a report (R211): every stage stops, and its work request fails; its record is written when
what it sent is resolved.  An append that fails has output the entries that its answer counts (R221). -/
def Qf.pipeFail (q : Qf) (n : QpKey) (i : BitVec 16) (r : PipeReport) : Qf :=
  match q.job n i with
  | none => q
  | some j =>
    if j.phase = .stopped || j.phase = .record then q
    else
      let told := j.got.find? (fun g => g.status != 0 && g.key % 2 ^ 58 = askLine && (keyOf g.key).2.1 = r.stage)
      let r := match told with
        | some g => if g.data.length = 8 then
            { r with rowsOut := leNat g.data, rowsIn := Sr.appends ((j.desc.drop 1).getD r.stage 0) } else r
        | none => r
      let q := { q with eng := { q.eng with frbMalformed := q.eng.frbMalformed + b2n (badBlock j r.status r.stage) } }
      let q := q.pipeStops n i r
      if (q.job n i).isNone then q else (q.wrFail n i r.status false 0 0).settleQp n

/-- A pipeline is refused: none of it runs, and no record is written (R193; DESIGN CHOICE, log 190). -/
def Qf.pipeRefuse (q : Qf) (n : QpKey) (i : BitVec 16) (st : BitVec 8) : Qf :=
  (((q.dropJob n i).updWr n i (fun w => { w with todo := [] })).wrFail n i st false 0 0).settleQp n

/-- What the last stage of a pipeline has consumed so far: the elements whose reads have come (R210; DEDUCED, log 191). -/
def soFarOf (j : PipeJob) : Nat :=
  let last := j.desc.length - 2
  match ({ got := j.got, backs := j.backs, cut := true } : Env).stages (Wr.source j.wr).toNat (qpnOf j.pair) (j.desc.drop 1) with
  | .ok os => (os.getLast?.map StageOut.rowsIn).getD 0
  | .fail _ k _ inn => if k = last then inn else 0
  | .need _ => 0

/-- Cancel the queries of shards that a pipeline has outstanding (R240). -/
def Qf.cancelAsks (q : Qf) (n : QpKey) (i : BitVec 16) : Qf :=
  let mine := q.edge.reqs.filter (fun r => match r.owner with | .shardAsk m k _ => m = n && k = i | _ => false)
  let ids := (mine.filterMap (fun r => r.orig.msg.map (fun h => (r.sent.destEp, h.msgId)))).eraseDups
  let w := { sector := qpSector n, tenant := (q.qp n).ctx.tenant, world := (q.qp n).ctx.world, stream := qpStream n : Issuer }
  let q := ids.foldl (fun q x => q.dropMsg w x.1 x.2) (mine.foldl (fun q r => q.resolved r Status.aborted.code) q)
  { q with eng := { q.eng with late := q.eng.late.filter (fun x => !(x.pair = n && x.wrIndex = i && x.read.search)) } }

/-- Stop a pipeline that an abort takes before its result has begun to be delivered (R212): its report names the last stage, which
has output nothing. -/
def Qf.pipeAbort (q : Qf) (n : QpKey) (i : BitVec 16) : Qf :=
  let j := (q.job n i).getD {}
  let seen := if j.phase = .running then soFarOf j else j.report.rowsIn
  let q := ((q.countSelects (q.job n i).toList).endReads n i).updJob n i (fun j => { j with
    phase := .stopped, report := { status := Status.aborted.code, stage := j.desc.length - 2, rowsIn := seen } })
  let q := (q.cancelAsks n i).takeBack n (fun s => s.wr = i)
  let unsent := (q.qp n).unsent i
  q.updQp n (fun x => { (x.updWr i (fun w => { w with
      final := some Status.aborted.code, todo := [], unresolved := w.unresolved + 1 - unsent })) with
    outbox := x.outbox.filter (fun s => s.wr != i) })

/-- Whether a pipeline has sent the first byte of an output, or an append's message (R212, R240). -/
def Qf.pipeBegun (q : Qf) (n : QpKey) (j : PipeJob) : Bool :=
  let x := q.qp n
  let held := (q.edge.heldByHazard ++ q.sched.held).filter (fun h => h.orig.srcEp = q.ownEp)
  j.begun || (x.wrOf j.wrIndex).any (fun w => w.placed != 0) ||
  x.store.any (fun s => s.wr = j.wrIndex && s.len != 0 && !held.any (fun h => h.sent.tag = s.tag))

/-! ### Progress -/

/-- What a pipeline needs is asked for: reads and queries, and the write-backs of snapshots (R222). -/
def Qf.pipeNeed (q : Qf) (n : QpKey) (i : BitVec 16) (wr : BitVec 512) (x : Need) : Qf :=
  match x.put with
  | none => q.pipeAsk n i x
  | some w =>
    if (q.job n i).any (fun j => j.reads.any (fun r => r.key = x.key)) then q
    else match q.pushOut n i wr (16 + 256 * x.stage + x.ordinal) false w with
      | .error st => q.gotAt n i x.key st.code
      | .ok q => q.updJob n i (fun j => { j with reads := j.reads ++ ([{ key := x.key, stage := x.stage, ordinal := x.ordinal }] : List EngRead) })

/-- A pipeline asks for what it needs: whether some of it is answered at once. -/
def Qf.pipeNeeds (q : Qf) (n : QpKey) (i : BitVec 16) (j : PipeJob) (rs : List Need) : Bool × Qf :=
  let q := q.updJob n i (fun j => { j with stalled := false })
  let q := (rs.foldl (fun q x => q.pipeNeed n i j.wr x) q).settleQp n
  ((q.job n i).any (fun y => y.got.length != j.got.length), q)

/-- Pipeline places taken in a sector: its pipelines and the shard queries it runs for others (R190, R236). -/
def Qf.places (q : Qf) (s : Sector) : Nat :=
  (q.eng.jobs.filter (fun j => j.sector = s && j.started)).length +
  (q.eng.shards.filter (fun j => j.sector = s && j.started)).length

/-- Whether a waiting pipeline may start: a place, its link cells and its selection entries are free, and no earlier
pipeline of its queue waits (R190, R194, R279). -/
def Qf.pipeRoom (q : Qf) (j : PipeJob) : Bool :=
  let live := q.eng.jobs.filter (fun x => x.sector = j.sector && x.started)
  let first := q.eng.jobs.find? (fun x => x.pair = j.pair && (x.phase = .waiting || x.phase = .fetching))
  let cells := live.foldl (fun a x => a + pipeCells (x.desc.headD 0)) 0
  let ents := live.foldl (fun a x => a + pipeEntries (x.desc.drop 1)) 0
  first = some j && decide (q.places j.sector < 64) && decide (cells + pipeCells (j.desc.headD 0) ≤ 16384) &&
  decide (ents + pipeEntries (j.desc.drop 1) ≤ 16384)

/-- The domains whose units a pipeline's stages use: the gather engine, and the filter and matrix engines (R530). -/
def pipeDomains (j : PipeJob) : List Nat :=
  let kinds := (j.desc.drop 1).map (fun d => decide (Stage.kind d ≤ 2))
  (if kinds.any (fun b => b) then [5 * j.sector.toNat + 2] else []) ++
  (if kinds.any (fun b => !b) then [5 * j.sector.toNat + 3] else [])

/-- Start a pipeline, with the parameters of R213 as they stand. -/
def Qf.startPipe (q : Qf) (j : PipeJob) : Qf :=
  let g := q.eng
  let par := [g.gBackupFactor.toNat, g.gMinSamples.toNat, g.gBudget.toNat, g.sBackupFactor.toNat, g.sMinSamples.toNat]
  q.updJob j.pair j.wrIndex (fun x => { x with phase := .running, started := true, par })

/-- A pipeline goes on as far as what it has read allows. -/
def Qf.pumpPipe : Nat → QpKey → BitVec 16 → Qf → Qf
  | 0, _, _, q => q
  | k + 1, n, i, q =>
    match q.job n i, (q.qp n).wrOf i with
    | some j, some w =>
      match j.phase with
      | .fetching =>
        if w.final.isSome || w.done then q.dropJob n i
        else
          (match ({ got := j.got } : Env).descriptor j.wr with
           | .fail st s .. => if s = descStage then q.pipeRefuse n i st else q.pipeFail n i { status := st, stage := s }
           | .need rs =>
             let x := q.pipeNeeds n i j rs
             if x.1 then Qf.pumpPipe k n i x.2 else x.2
           | .ok desc => q.updJob n i (fun j => { j with phase := .waiting, desc }))
      | .running =>
        if w.final.isSome || w.done then q.dropJob n i
        else
          (match ({ got := j.got, backs := j.backs } : Env).stages (Wr.source j.wr).toNat (qpnOf n) (j.desc.drop 1) with
           | .fail st s out inn => q.pipeFail n i { status := st, stage := s, rowsOut := out, rowsIn := inn }
           | .need rs =>
             let x := q.pipeNeeds n i j rs
             if x.1 then Qf.pumpPipe k n i x.2 else x.2
           | .ok os =>
             let outs := (os.zipIdx).flatMap (fun o => o.1.outs.map (fun x => (o.2, x)))
             let work := (List.range 6).map (fun m => os.foldl (fun a o => a + o.work.getD m 0) 0)
             let q := ((q.countStages (j.desc.drop 1) os).endReads n i).updJob n i (fun j => { j with
               phase := .outputs, outs, report := reportOf os, work, counts := os.map (fun o => (o.rowsOut, o.rowsIn)) })
             let x := Qf.pushOuts n i j.wr true outs q
             (match x.1 with
              | some (s, st) => x.2.pipeFail n i ((((x.2.job n i).getD {}).writeFail s st.code))
              | none => x.2.settleQp n))
      | _ => q
    | _, _ => q.dropJob n i

/-- A pipeline goes on. -/
def Qf.goPipe (q : Qf) (n : QpKey) (i : BitVec 16) : Qf := q.pumpPipe 64 n i

/-- Start the waiting pipelines of a sector that may start, oldest first. -/
def Qf.startPipes (q : Qf) (s : Sector) : Qf :=
  (q.eng.jobs.filter (fun j => j.sector = s && j.phase = .waiting)).foldl (fun q j =>
    let off := (pipeDomains j).filter (fun d => !q.domainOn d)
    if off != [] then off.foldl (fun q d => q.wantUnit d) q
    else if !q.pipeRoom j then q
    else (q.startPipe j).goPipe j.pair j.wrIndex) q

/-- A pipeline goes on; one whose descriptor has been checked may start. -/
def Qf.pumpJob (q : Qf) (n : QpKey) (i : BitVec 16) : Qf :=
  let was := (q.job n i).any (fun j => j.phase = .fetching)
  let q := q.goPipe n i
  if was then q.startPipes (qpSector n) else q

/-- The pipelines of a sector that could not issue a read go on (R78, R198). -/
def Qf.wakePipes (q : Qf) (s : Sector) : Qf :=
  (q.eng.jobs.filter (fun j => j.sector = s && j.stalled && q.pipeMay j)).foldl (fun q j => q.pumpJob j.pair j.wrIndex) q

/-- A primary that its pipeline did not wait for any more returns: its latency is sampled with its last line (R201, R238). -/
def Qf.lateGot (q : Qf) (n : QpKey) (i : BitVec 16) (key : Nat) (came : Bool) : Qf :=
  let mine (x : LateRead) : Bool := x.pair = n && x.wrIndex = i
  match q.eng.late.find? (fun x => mine x && x.read.key = key) with
  | none => q
  | some x =>
    let rest := dropFirst (fun x => mine x && x.read.key = key) q.eng.late
    let q := { q with eng := { q.eng with late := rest } }
    match x.read.shard with
    | some a =>
      if came && !rest.any (fun y => mine y && y.read.stage = x.read.stage && y.read.ordinal = x.read.ordinal) then
        q.sampleShard x.sector x.read.search a (q.now - x.read.sentAt)
      else q
    | none => q

/-- A read or a query of a pipeline is answered.  A primary's answer is sampled; of two answers to one row or shard the
first good one is taken (R201, R202, R238). -/
def Qf.pipeGot (q : Qf) (n : QpKey) (i : BitVec 16) (key : Nat) (st : BitVec 8) (data : List Byte) : Qf :=
  let came := st != Status.timeout.code && st != Status.linkDown.code
  match (q.job n i).bind (fun j => (j.reads.find? (fun r => r.key = key)).map (fun r => (j, r))) with
  | none => q.lateGot n i key came
  | some (j, r) =>
    let rest := dropFirst (fun r => r.key = key) j.reads
    let mate (b : Bool) (x : Nat) : Bool := keyOf x = (b, r.stage, r.ordinal)
    let last := rest.all (fun y => !mate r.backup y.key)
    let q := match r.shard with
      | some a => if came && !r.backup && last then q.sampleShard j.sector r.search a (q.now - r.sentAt) else q
      | none => q
    let wholeOf (b : Bool) (got : List Got) (reads : List EngRead) : Bool :=
      got.any (fun g => mate b g.key) && got.all (fun g => !mate b g.key || g.status = 0) &&
      reads.all (fun y => !mate b y.key)
    if r.shard.isSome && wholeOf (!r.backup) j.got rest then q.updJob n i (fun j => { j with reads := rest })
    else
      let got := j.got ++ [{ key, status := st, data }]
      let won := r.backup && wholeOf true got rest
      let q := q.updJob n i (fun j => { j with reads := rest, got, won := j.won + b2n won })
      let q := if !won then q
        else if r.search then { q with eng := { q.eng with sWon := q.eng.sWon + 1 } }
        else { q with eng := { q.eng with gWon := q.eng.gWon + 1 } }
      q.pumpJob n i

/-- A write of a pipeline's record is answered (R189). -/
def Qf.recordWrote (q : Qf) (n : QpKey) (i : BitVec 16) (st : BitVec 8) : Qf :=
  let q := q.updJob n i (fun j => { j with recs := j.recs - 1, recFail := if j.recFail = 0 then st else j.recFail })
  if (q.job n i).any (fun j => j.recs = 0) then q.pipeEnd n i else q

/-- A snapshot's write-back is answered; it may lie in two pages, and is placed when both are (R222). -/
def Qf.snapWrote (q : Qf) (n : QpKey) (i : BitVec 16) (k : Nat) (st : BitVec 8) : Qf :=
  let key := needKey false ((k - 16) / 256) ((k - 16) % 256) snapLine
  let more := ((q.qp n).outbox ++ (q.qp n).store).any (fun s => s.owner = .pipeWrite n i k)
  if st = 0 && more then q else q.pipeGot n i key st []

/-- A write of a pipeline is answered: its record (stage 8), a snapshot, or an output. -/
def Qf.pipeWrote (q : Qf) (n : QpKey) (i : BitVec 16) (stage : Nat) (tag : Tag) (st : BitVec 8) : Qf :=
  if stage = 8 then q.recordWrote n i st
  else match q.stored n tag with
  | none => q
  | some s =>
    let q := q.qpResolve n s
    if 16 ≤ stage then (q.snapWrote n i stage st).settleQp n
    else
      let q := if st = 0 then q.updWr n i (fun w => { w with placed := w.placed + s.len })
        else q.pipeFail n i (((q.job n i).getD {}).writeFail stage st)
      q.settleQp n

/-! ### Commands -/

/-- Rows of a gather stage: its COUNT, or those it has reached (R201). -/
def stageRows (j : PipeJob) (stage : Nat) : Nat :=
  let d := (j.desc.drop 1).getD stage 0
  if GS.count d != 0 then GS.count d
  else
    let ords := (j.got.map Got.key ++ j.reads.map EngRead.key).filterMap (fun k =>
      let x := keyOf k
      if x.2.1 = stage && !x.1 && x.2.2 != sharedOrd then some x.2.2 else none)
    ords.eraseDups.length

/-- RUN_PIPELINE (R188, R193): its descriptor is read from SOURCE and checked, and the pipeline then waits for its place. -/
def execRunPipeline (origin : Ep) (qpn : Qpn) (wr : BitVec 512) (s : State) : Out :=
  let n : QpKey := origin ++ qpn
  done (fun q => q.startWr n wr 0x20 (fun w q =>
    if !pipeFormOk wr then q.wrFail n w.index Status.unsupportedVersion.code false 0 0
    else
      let new : PipeJob := { pair := n, wrIndex := w.index, wr, sector := qpSector n
                             after := if Wr.release wr then q.writesBefore n w.seq else [] }
      let q := q.updWr n w.index (fun w => { w with todo := [{}] })
      ({ q with eng := { q.eng with jobs := q.eng.jobs ++ [new] } }).pumpJob n w.index)) s

/-- PIPELINE_COMPLETE (R189): what the pipeline wrote is placed, and its result record is written; marked RELEASE, once every
earlier write of its engine is placed (R77), and not behind an ACQUIRE (R78). -/
def execPipelineComplete (n : QpKey) (wrIndex : BitVec 16) (s : State) : Out :=
  done (fun q => match q.job n wrIndex, (q.qp n).wrOf wrIndex with
    | some j, some w =>
      if !q.inService || q.acquiring n || (Wr.release j.wr && q.writesBefore n w.seq != []) then q
      else if (j.phase = .outputs && w.unresolved = 0 && w.final.isNone) ||
          (j.phase = .stopped && w.unresolved = 1) then q.pipeRecord n wrIndex
      else q
    | _, _ => q) s

/-- GATHER_BACKUP (R201): a row's read from the replica, beside the one from the primary. -/
def execGatherBackup (n : QpKey) (wrIndex : BitVec 16) (stage : BitVec 3) (ordinal : BitVec 32) (s : State) : Out :=
  done (fun q => match q.job n wrIndex with
    | none => q
    | some j =>
      let k := stage.toNat
      let o := ordinal.toNat
      match j.reads.find? (fun r => keyOf r.key = (false, k, o) && r.alt && r.key % 2 ^ 58 != askLine) with
      | none => q
      | some r =>
        let bins := q.hist j.sector false (r.shard.getD 0)
        let factor := j.par.getD 0 0
        let so := (j.backs.filter (fun b => b.1 = k)).length
        if !q.inService || j.phase != .running || factor = 0 || j.backs.contains (k, o) || bins.length < max 1 (j.par.getD 1 0) ||
            !pastEdge (q.now - r.sentAt) factor (shardP99 bins) || j.par.getD 2 0 * stageRows j k < 100 * (so + 1) then q
        else
          let q := { q with eng := { q.eng with gLaunched := q.eng.gLaunched + 1 } }
          (q.updJob n wrIndex (fun j => { j with backs := j.backs ++ [(k, o)], launched := j.launched + 1 })).pumpJob
            n wrIndex) s

/-- SEARCH_BACKUP (R238): a shard's query sent to its replica too. -/
def execSearchBackup (n : QpKey) (wrIndex : BitVec 16) (shard : BitVec 8) (s : State) : Out :=
  done (fun q => match q.job n wrIndex with
    | none => q
    | some j =>
      let o := shard.toNat
      match j.reads.find? (fun r => !(keyOf r.key).1 && (keyOf r.key).2.2 = o && r.alt && r.key % 2 ^ 58 = askLine &&
          !j.backs.contains (r.stage, o)) with
      | none => q
      | some r =>
        let bins := q.hist j.sector true (r.shard.getD 0)
        let factor := j.par.getD 3 0
        if !q.inService || j.phase != .running || factor = 0 || bins.length < max 1 (j.par.getD 4 0) ||
            !pastEdge (q.now - r.sentAt) factor (shardP99 bins) then q
        else
          let q := { q with eng := { q.eng with sLaunched := q.eng.sLaunched + 1 } }
          (q.updJob n wrIndex (fun j => { j with backs := j.backs ++ [(r.stage, o)], launched := j.launched + 1 })).pumpJob
            n wrIndex) s

end Sys2Proof.Machine
end

