-- ==== Sys2Proof/Machine/Shards.lean ====
section
/-! DEFINITION. Machine/Shards.lean: shard queries and their answers (R235 to R239, R306), side lists at their home (R219
to R221, R234) and merges (R233). -/

namespace Sys2Proof.Machine

/-! ### Messages of the engine opcodes (R89, R306) -/

/-- A packet of a message has come: the first packet and the whole bytes once all are there.  One of a message that was cleared is
discarded (R93). -/
def Qf.msgIn (q : Qf) (p : Packet) : Option (Packet × List Byte) × Qf :=
  match p.msg with
  | none => (some (p, p.payload), q)
  | some m =>
    if q.isCleared p then (none, q) else
    let isIt (b : MsgBuf) : Bool := b.src = p.srcEp && b.msgId = m.msgId && b.opcode = p.opcode
    let old := (q.eng.msgs.find? isIt).getD { src := p.srcEp, msgId := m.msgId, opcode := p.opcode, total := m.totalLen.toNat }
    let off := m.offset.toNat
    let b : MsgBuf := { old with
      first := if off = 0 then p else old.first
      parts := old.parts.filter (fun x => x.1 != off) ++ [(off, p.payload)] }
    let rest := q.eng.msgs.filter (fun b => !isIt b)
    let have_ := b.parts.foldl (fun a x => a + x.2.length) 0
    if have_ < b.total then (none, { q with eng := { q.eng with msgs := rest ++ [b] } })
    else
      let ps := b.parts.mergeSort (fun x y => decide (x.1 ≤ y.1))
      (some (b.first, ps.flatMap (fun x => x.2)), { q with eng := { q.eng with msgs := rest } })

/-- Answer a request with a message. -/
def Qf.answerMsg (q : Qf) (s : Sector) (p : Packet) (op st : BitVec 8) (bs : List Byte) : Qf :=
  let (id, q) := q.takeMsg
  (msgCuts bs).foldl (fun q c => q.respond s { (q.reply p op st c.2) with
    msg := some { msgId := id, offset := BitVec.ofNat 32 c.1, totalLen := BitVec.ofNat 32 bs.length } }) q

/-- A packet for this QF960 is taken; any other goes on. -/
def Qf.arriveMsg (q : Qf) (i : Ingress) (p : Packet) (f : Qf → Qf) : Qf :=
  if !q.inService then q
  else if p.destEp = q.ownEp then f (q.take i p)
  else (q.take i p).transit i p

/-! ### Addresses of a tenant's regions -/

/-- Extent numbers of a tenant whose region-table entry is listed: VALID is bit 7 of an entry's last byte. -/
def Qf.tableVens (q : Qf) (t : Tenant) : List Nat :=
  let r := q.tenantRec t
  let b := recBase r
  q.sys.filterMap (fun c =>
    if b ≤ c.1 && (c.1 - b) % 16 = 15 && (c.1 - b) / 16 < recEntries r then some ((c.1 - b) / 16) else none)

/-- A region-table entry as it stands in the system area. -/
def Qf.tableEntry (q : Qf) (t : Tenant) (ven : Nat) : RtEntry :=
  RtEntry.ofBits (bitsOf 128 (Mem.getAll q.sys (recBase (q.tenantRec t) + 16 * ven) 16))

/-- The pool virtual address at which a tenant sees a place of this home. -/
def Qf.pvaOf (q : Qf) (t : Tenant) (a : BitVec 60) : Option Nat :=
  if !recEnable (q.tenantRec t) then none
  else ((q.tableVens t).find? (fun v =>
    let e := q.tableEntry t v
    e.valid && e.home = q.ownEp && e.slot = slotNo a)).map (fun v => v * 2 ^ 28 + (fld a 0 28 : BitVec 28).toNat)

/-- The first address of a tenant's region. -/
def Qf.regionPva (q : Qf) (t : Tenant) (r : RegionId) : Option Nat :=
  if !recEnable (q.tenantRec t) then none
  else ((q.tableVens t).find? (fun v =>
    let e := q.tableEntry t v
    e.valid && e.region = r)).map (fun v => v * 2 ^ 28)

/-- A request of the sector controller for a tenant through a given view, already a PPA. -/
def Qf.tablePkt (q : Qf) (s : Sector) (t : Tenant) (world : Bool) (op : BitVec 8) (a : Nat) (view : BitVec 3) :
    Except Status Packet × Qf :=
  if 2 ^ 56 ≤ a then (.error .accessViolation, q)
  else
    let x := q.translate s t world (rightsFor op) (BitVec.ofNat 60 a)
    match x.1 with
    | .error st => (.error st, x.2)
    | .ok (e, ppa) => (.ok { opcode := op, tenant := t, world, addr := ppa, keyTenant := e.keyTenant
                             keyGen := e.keyGen, view, stream := streamOf 3 (256 + s.toNat) }, x.2)

/-- One with the rights of the secure world. -/
def Qf.viewPkt (q : Qf) (s : Sector) (t : Tenant) (op : BitVec 8) (a : Nat) (view : BitVec 3) : Except Status Packet × Qf :=
  q.tablePkt s t true op a view

/-! ### Shard queries (R236) -/

/-- Change a shard query's job. -/
def Qf.updShard (q : Qf) (id : Nat) (f : ShardJob → ShardJob) : Qf :=
  { q with eng := { q.eng with shards := updFirst (fun j => j.id = id) f q.eng.shards } }

/-- A shard query ends with a status and an answer; its codes are billed. -/
def Qf.shardEnd (q : Qf) (j : ShardJob) (st : BitVec 8) (a : Answer) : Qf :=
  let q := { q with eng := { q.eng with shards := dropFirst (fun x => x.id = j.id) q.eng.shards } }
  let q := q.meter j.sector j.pkt.tenant 8 a.scanned
  q.answerMsg j.sector j.pkt Opc.searchAnswer st (answerBytes st a)

/-- A shard query goes on: its reads are issued, or it answers. -/
def Qf.pumpShard : Nat → Nat → Qf → Qf
  | 0, _, q => q
  | k + 1, id, q =>
    match q.eng.shards.find? (fun j => j.id = id && j.started) with
    | none => q
    | some j =>
      match ({ got := j.got } : Env).shardRun j.data with
      | .ok a =>
        let st : BitVec 8 := if a.reason = 0 then 0 else Status.partialResult.code
        q.shardEnd j st a
      | .fail st .. => q.shardEnd j st {}
      | .need rs =>
        let w : Issuer := { sector := j.sector, tenant := j.pkt.tenant, world := j.pkt.world, stream := j.pkt.stream }
        let q := rs.foldl (fun q x =>
          if j.reads.any (fun r => r.key = x.key) then q
          else
            let y := q.readLine w (.shardLine id x.key) x.line
            match y.1 with
            | none => y.2.updShard id (fun j => { j with reads := j.reads ++ [{ key := x.key, sentAt := q.now }] })
            | some st => y.2.updShard id (fun j => { j with got := j.got ++ [{ key := x.key, status := st.code }] })) q
        let n := ((q.eng.shards.find? (fun j => j.id = id)).map (fun y => y.got.length)).getD 0
        if n = j.got.length then q else Qf.pumpShard k id q

/-- Start the shard queries of a sector for which there is a place (R236). -/
def Qf.startShards (q : Qf) (s : Sector) : Qf :=
  (q.eng.shards.filter (fun j => j.sector = s && !j.started)).foldl (fun q j =>
    if 64 ≤ q.places s then q
    else if !q.domainOn (5 * s.toNat + 3) then q.wantUnit (5 * s.toNat + 3)
    else (q.updShard j.id (fun j => { j with started := true })).pumpShard 32 j.id) q

/-- A line read for a shard query has come. -/
def Qf.shardGot (q : Qf) (id key : Nat) (st : BitVec 8) (data : List Byte) : Qf :=
  (q.updShard id (fun j =>
    if j.reads.any (fun r => r.key = key) then
      { j with reads := dropFirst (fun r => r.key = key) j.reads, got := j.got ++ [{ key, status := st, data }] }
    else j)).pumpShard 32 id

/-- SEARCH_SHARD (R236): it runs in sector (ISSUER_QPN + SHARD) mod 8. -/
def execSearchShard (i : Ingress) (p : Packet) (s : State) : Out :=
  done (fun q => q.arriveMsg i p (fun q =>
    match q.msgIn p with
    | (none, q) => q
    | (some (p, bs), q) =>
      match q.check123 p with
      | some st => q.answerFail p st
      | none =>
        let r := leNat (slice bs 0 64)
        let sec : Sector := BitVec.ofNat 3 (nfld r 185 16 + nfld r 496 8)
        let new : ShardJob := { id := q.eng.nextJob, pkt := p, data := bs, sector := sec }
        let q := { q with eng := { q.eng with nextJob := q.eng.nextJob + 1, shards := q.eng.shards ++ [new] } }
        q.startShards sec)) s

/-- PIPELINE_START (R190, R194, R236, R279): what waits in a sector starts where it has room. -/
def execPipelineStart (sector : Sector) (s : State) : Out :=
  done (fun q => if !q.inService then q else (q.startPipes sector).startShards sector) s

/-- Every packet of a query's message is resolved. -/
def Qf.askResolved (q : Qf) (r : OpenReq) (st : BitVec 8) : Qf :=
  let mates := q.edge.reqs.filter (fun x => x.owner = r.owner && x.tag != r.tag &&
    x.orig.msg.map MsgHdr.msgId = r.orig.msg.map MsgHdr.msgId)
  mates.foldl (fun q x => q.resolved x st) (q.resolved r st)

/-- SEARCH_ANSWER (R237). -/
def execSearchAnswer (i : Ingress) (p : Packet) (s : State) : Out :=
  done (fun q => q.arriveMsg i p (fun q =>
    match q.msgIn p with
    | (none, q) => q
    | (some (p, bs), q) =>
      match q.openFor p with
      | none => q
      | some r =>
        match r.owner with
        | .shardAsk n w key =>
          let st : BitVec 8 := BitVec.ofNat 8 (nfld (leNat (slice bs 0 32)) 248 8)
          let st := if st = Status.partialResult.code then 0 else st
          (q.askResolved r st).pipeGot n w key st bs
        | _ => q)) s

/-! ### Side lists (R219 to R221, R234) -/

/-- Change a side list's job. -/
def Qf.updSide (q : Qf) (id : Nat) (f : SideJob → SideJob) : Qf :=
  { q with eng := { q.eng with sides := updFirst (fun j => j.id = id) f q.eng.sides } }

/-- What the records of an append become (R221): the entries with their sequence numbers, and whether the rest is refused
with QUOTA. -/
def sidePlan (h : BitVec 512) (recs : List (List Byte)) : List (Nat × List Byte) × Bool :=
  let cap := 2 ^ Sd.capLog2 h
  let r := recs.foldl (fun (a : Nat × Nat × List (Nat × List Byte) × Bool) x =>
    let tomb := (SideEnt.ofBytes x).kind = 2
    if a.2.2.2 || a.1 - Sd.reclaimed h = cap || (tomb && 65536 ≤ a.2.1) then (a.1, a.2.1, a.2.2.1, true)
    else
      let s := a.1 + 1
      (s, a.2.1 + b2n tomb, a.2.2.1 ++ [(s, slice x 0 120 ++ natLe 8 s)], false)) (Sd.tail h, Sd.tombs h, [], false)
  (r.2.2.1, r.2.2.2)

/-- Whom a side list's job acts for. -/
def Qf.sideIssuer (q : Qf) (j : SideJob) : Issuer :=
  { sector := q.sectorOf (lineNo j.pkt.addr), tenant := j.pkt.tenant, world := j.pkt.world, stream := j.pkt.stream }

/-- A request for a place of a side list: an append's header and what lies in the extent of the header are known by the append's
own address; what lies beyond goes by the tenant's region table here (DESIGN CHOICE, log 193). -/
def Qf.sidePkt (q : Qf) (j : SideJob) (op : BitVec 8) (a : Nat) : Except Status Packet × Qf :=
  let off := a - j.pva
  let s := q.sectorOf (lineNo j.pkt.addr)
  if (fld j.pkt.addr 0 28 : BitVec 28).toNat + off < 2 ^ 28 then
    (.ok { opcode := op, tenant := j.pkt.tenant, world := j.pkt.world, addr := j.pkt.addr + BitVec.ofNat 60 off
           keyTenant := j.pkt.keyTenant, keyGen := j.pkt.keyGen, stream := streamOf 3 (256 + s.toNat) }, q)
  else match q.pvaOf j.pkt.tenant j.pkt.addr with
    | none => (.error .accessViolation, q)
    | some v => q.tablePkt s j.pkt.tenant j.pkt.world op (v + off) 0

/-- Write bytes of a side list at this home, page by page: the first refusal, how many writes went out, and the block. -/
def Qf.sidePut (q : Qf) (j : SideJob) (o : Owner) (a : Nat) (bs : List Byte) : Option Status × Nat × Qf :=
  (pagesOf a bs.length).foldl (fun (x : Option Status × Nat × Qf) c =>
    match x.1 with
    | some _ => x
    | none =>
      match x.2.2.sidePkt j Opc.wrBulk c.2.1 with
      | (.error st, q) => (some st, x.2.1, q)
      | (.ok p, q) =>
        let (m, q) := q.takeMsg
        let d : Packet := { opcode := Opc.dataWrite, vc := 3, payload := slice bs c.1 c.2.2 }
        (none, x.2.1 + 1, q.issueRaw (q.sectorOf (lineNo j.pkt.addr)) o
          { p with msg := some { msgId := m, totalLen := BitVec.ofNat 32 c.2.2 } } (some d))) (none, 0, q)

/-- Write one entry or the header of a side list. -/
def Qf.sideWrite (q : Qf) (id seq a : Nat) (bs : List Byte) : Qf :=
  match q.eng.sides.find? (fun j => j.id = id) with
  | none => q
  | some j =>
    let x := if j.reclaim.isNone then q.sidePut j (.sideWrite id seq) a bs
      else q.engWriteAll (q.sideIssuer j) (.sideWrite id seq) 0 a bs
    x.2.2.updSide id (fun j =>
      let j := { j with writesOut := j.writesOut + x.2.1 }
      match x.1 with
      | some st => { j with failed := j.failed ++ [seq], status := if j.status = 0 then st.code else j.status }
      | none => j)

/-- A side list's job ends: an append is answered with the entries committed, a reclaim completes. -/
def Qf.sideEnd (q : Qf) (id : Nat) (st : BitVec 8) (committed : Nat) : Qf :=
  match q.eng.sides.find? (fun j => j.id = id) with
  | none => q
  | some j =>
    let q := { q with eng := { q.eng with
      sides := dropFirst (fun j => j.id = id) q.eng.sides, sAppends := q.eng.sAppends + committed } }
    match j.reclaim with
    | some (m, _, _) => q.complete m 0x52 (statusOf st)
    | none => q.answer j.pkt (if st = 0 then Opc.placed else Opc.fail) st (natLe 8 committed)

/-- What a reclaim reads: the list, the MERGED_SEQ of every valid slot of its indexes, and the window above r; the new
header. -/
def Env.reclaimHdr (e : Env) (pva r : Nat) (idx : List (Nat × Nat × Nat)) : Ev (BitVec 512) :=
  (Ev.all (idx.map (fun x =>
    let k := needKey false 1 (4 * x.1 + x.2.1) (x.2.2 / 64)
    match e.find k with
    | some g => if g.status = 0 then (.ok (lineOf g.data) : Ev (BitVec 512)) else .fail g.status 0
    | none => .need [{ key := k, line := x.2.2 / 64, stage := 1, ordinal := 4 * x.1 + x.2.1 }]))).bind (fun hs =>
      if hs.any (fun h => decide (Ix.merged h < r)) then .fail Status.retry.code 0
      else (e.shared 0 pva 64).bind (fun bs =>
        let h : BitVec 512 := lineOf bs
        if !Sd.ok h then .fail Status.unsupportedVersion.code 0
        else (e.window 0 pva r (Sd.tail h)).bind (fun w =>
          .ok (Sd.bits (Sd.capLog2 h) (Sd.tail h) (Sd.committed h) r (w.filter (fun x => x.kind = 2)).length))))

/-- The index headers that a reclaim looks at: index, slot and address; none where a region is not here. -/
def Qf.reclaimIdx (q : Qf) (t : Tenant) (rs : List (BitVec 32)) : Option (List (Nat × Nat × Nat)) :=
  let one (x : BitVec 32 × Nat) : Option (List (Nat × Nat × Nat)) :=
    let r : RegionId := fld x.1 0 20
    if !q.ver.recs.has r.toNat then none
    else (q.regionPva t r).map (fun a =>
      ((List.range 4).filter (fun k => (q.verRec r).slotValid.getLsbD k)).map (fun k => (x.2, k, a)))
  let ls := (rs.zipIdx).map one
  if ls.any Option.isNone then none else some (ls.flatMap (fun l => l.getD []))

/-- Issue a line read for a side list's job; an index header's through the slot view that its key names. -/
def Qf.sideAsk (q : Qf) (id : Nat) (j : SideJob) (x : Need) : Qf :=
  if j.reads.any (fun r => r.key = x.key) then q
  else
    let refuse (q : Qf) (st : Status) : Qf :=
      q.updSide id (fun j => { j with got := j.got ++ [{ key := x.key, status := st.code }] })
    let sent (q : Qf) : Qf := q.updSide id (fun j => { j with reads := j.reads ++ [{ key := x.key, sentAt := q.now }] })
    if x.stage = 1 then
      let s := q.sectorOf (lineNo j.pkt.addr)
      match q.viewPkt s j.pkt.tenant Opc.rdNc (64 * x.line) (BitVec.ofNat 3 (x.ordinal % 4)) with
      | (.error st, q) => refuse q st
      | (.ok p, q) => sent (q.issueRaw s (.sideLine id x.key) p)
    else if j.reclaim.isNone then
      (match q.sidePkt j Opc.rdNc (64 * x.line) with
      | (.error st, q) => refuse q st
      | (.ok p, q) => sent (q.issueRaw (q.sectorOf (lineNo j.pkt.addr)) (.sideLine id x.key) p))
    else
      let y := q.readLine (q.sideIssuer j) (.sideLine id x.key) x.line
      match y.1 with
      | none => sent y.2
      | some st => refuse y.2 st

/-- The header of a side list with an append's records assigned: TAIL_SEQ and TOMBSTONES_OPEN count them; COMMITTED_SEQ where they
are placed, all but those that failed being what they are (R221). -/
def appendHdr (h : BitVec 512) (recs : List (Nat × List Byte)) (failed : List Nat) (placed : Bool) : BitVec 512 :=
  let tail := Sd.tail h + recs.length
  let tombs := (recs.filter (fun x => !failed.contains x.1 && (SideEnt.ofBytes x.2).kind = 2)).length
  Sd.bits (Sd.capLog2 h) tail (if placed then tail else Sd.committed h) (Sd.reclaimed h) (Sd.tombs h + tombs)

/-- A side list's job goes on: only the oldest of a list runs. -/
def Qf.sideTurn : Nat → Nat → Qf → Qf
  | 0, _, q => q
  | n + 1, id, q =>
    match q.eng.sides.find? (fun j => j.id = id) with
    | none => q
    | some j =>
      if (q.eng.sides.find? (fun y => y.place = j.place)).any (fun y => y.id != id) then q
      else
        let e : Env := { got := j.got }
        let next (q : Qf) : Qf :=
          match q.eng.sides.find? (fun y => y.place = j.place) with
          | some y => Qf.sideTurn n y.id q
          | none => q
        let reads (rs : List Need) : Qf :=
          let q := rs.foldl (fun q x => q.sideAsk id j x) q
          if ((q.eng.sides.find? (fun y => y.id = id)).map (fun y => y.got.length)).getD 0 = j.got.length then q
          else Qf.sideTurn n id q
        let phase (k : Nat) : Qf := q.updSide id (fun j => { j with phase := k })
        if j.writesOut != 0 then q
        else match j.reclaim with
        | some (_, r, idx) =>
          if j.phase = 4 then next (q.sideEnd id j.status 0)
          else
            (match q.reclaimIdx j.pkt.tenant idx with
             | none => next (q.sideEnd id Status.accessViolation.code 0)
             | some is =>
               (match e.reclaimHdr j.pva r is with
                | .need rs => reads rs
                | .fail st .. => next (q.sideEnd id st 0)
                | .ok h => Qf.sideTurn n id ((phase 4).sideWrite id 0 j.pva (bytesOf 64 h))))
        | none =>
          (match e.shared 0 j.pva 64 with
           | .need rs => reads rs
           | .fail st .. => next (q.sideEnd id st 0)
           | .ok hb =>
             let h : BitVec 512 := lineOf hb
             let cap := Sd.capLog2 h
             let plan := sidePlan h (chunks 128 (j.data.length / 128) j.data)
             let good := plan.1.filter (fun x => !j.failed.contains x.1)
             if !Sd.ok h then next (q.sideEnd id Status.unsupportedVersion.code 0)
             else if plan.1 = [] then next (q.sideEnd id (if plan.2 then Status.quota.code else 0) 0)
             else match j.phase with
             | 0 => Qf.sideTurn n id ((phase 1).sideWrite id 0 j.pva (bytesOf 64 (appendHdr h plan.1 [] false)))
             | 1 =>
               if j.failed.contains 0 then next (q.sideEnd id j.status 0)
               else Qf.sideTurn n id (plan.1.foldl (fun q x => q.sideWrite id x.1 (j.pva + Sd.place cap x.1) x.2) (phase 2))
             | 2 =>
               -- a failed entry is rewritten as VOID, and commits
               Qf.sideTurn n id (j.failed.eraseDups.foldl (fun q s =>
                 q.sideWrite id s (j.pva + Sd.place cap s) (natLe 120 0 ++ natLe 8 s)) (phase 3))
             | 3 =>
               let q := (phase 4).updSide id (fun j => { j with
                 committed := (good.filter (fun x => (SideEnt.ofBytes x.2).kind != 0)).length
                 status := if j.status != 0 then j.status else if plan.2 then Status.quota.code else 0 })
               Qf.sideTurn n id (q.sideWrite id 0 j.pva (bytesOf 64 (appendHdr h plan.1 j.failed true)))
             | _ => next (q.sideEnd id j.status (if j.failed.contains 0 then 0 else j.committed)))

/-- A line of a side list's job has come. -/
def Qf.sideGot (q : Qf) (id key : Nat) (st : BitVec 8) (data : List Byte) : Qf :=
  (q.updSide id (fun j =>
    if j.reads.any (fun r => r.key = key) then
      { j with reads := dropFirst (fun r => r.key = key) j.reads, got := j.got ++ [{ key, status := st, data }] }
    else j)).sideTurn 16 id

/-- A write of a side list's job is answered; sequence number 0 is the header. -/
def Qf.sideWrote (q : Qf) (id seq : Nat) (st : BitVec 8) : Qf :=
  (q.updSide id (fun j =>
    let j := { j with writesOut := j.writesOut - 1 }
    if st = 0 then j
    else { j with failed := j.failed ++ [seq], status := if j.status = 0 then st else j.status })).sideTurn 16 id

/-- Take up a job of a side list. -/
def Qf.sideStart (q : Qf) (j : SideJob) : Qf :=
  let id := q.eng.nextJob
  ({ q with eng := { q.eng with nextJob := id + 1, sides := q.eng.sides ++ [{ j with id }] } }).sideTurn 16 id

/-- SIDE_APPEND (R221). -/
def execSideAppend (i : Ingress) (p : Packet) (s : State) : Out :=
  done (fun q => q.arriveMsg i p (fun q =>
    match q.msgIn p with
    | (none, q) => q
    | (some (p, bs), q) =>
      match q.check123 p with
      | some st => q.answerFail p st
      | none =>
        if p.addr.toNat % 64 != 0 then q.answerFail p .unsupportedVersion
        else q.sideStart { pkt := p, data := bs, pva := p.addr.toNat % 2 ^ 46, place := p.addr.toNat })) s

/-- SIDE_RECLAIM (R234). -/
def execSideReclaim (m : MgrRef) (tenant : BitVec 16) (side : BitVec 64) (r : BitVec 64) (indexes : List (BitVec 32))
    (s : State) : Out :=
  done (fun q => q.mgr m 0x52 (inRange tenant 4096 && decide (side.toNat < 2 ^ 56) && side.toNat % 64 = 0 &&
      decide (indexes.length ≤ 8) && indexes.all (fun x => inRange x 1048576)) (fun q =>
    let t : Tenant := fld tenant 0 12
    let place := match (q.translate 0 t true {} (fld side 0 60)).1 with
      | .ok (_, a) => a.toNat
      | .error _ => 2 ^ 60 + side.toNat
    q.sideStart { pkt := { tenant := t, world := true, stream := streamOf 3 256 }, pva := side.toNat, place
                  reclaim := some (m, r.toNat, indexes) })) s

/-! ### Merge (R233) -/

/-- Change a merge. -/
def Qf.updMerge (q : Qf) (id : Nat) (f : MergeJob → MergeJob) : Qf :=
  match q.eng.merges.find? id with
  | some j => { q with eng := { q.eng with merges := q.eng.merges.set id (f j) } }
  | none => q

/-- A merge ends without a publish: its draft is abandoned. -/
def Qf.mergeFail (q : Qf) (id : Nat) (j : MergeJob) (st : BitVec 8) : Qf :=
  let q := { q with eng := { q.eng with merges := q.eng.merges.del id } }
  let q := (q.abandonDraft j.region j.draft).endProgress j.progress 2 st
  q.complete j.cmd 0x51 (statusOf st) j.progress

/-- A merge whose writes are placed publishes its draft (R233 step 4). -/
def Qf.mergePublish (q : Qf) (id : Nat) (j : MergeJob) : Qf :=
  if (q.verRec j.region).current != j.expected then q.mergeFail id j Status.versionConflict.code
  else match q.publishDraft j.region j.draft with
  | none => q.mergeFail id j Status.retry.code
  | some (k, q) =>
    let q := { q with eng := { q.eng with merges := q.eng.merges.del id } }
    let q := q.endProgress j.progress 1 0
    q.complete j.cmd 0x51 .ok j.progress (verResult (j.expected + 1) k)

/-- Read a line for a merge, through its draft's view: the base's bytes, as nothing is written before all is read. -/
def Qf.mergeAsk (q : Qf) (id : Nat) (j : MergeJob) (x : Need) : Qf :=
  if j.reads.any (fun r => r.key = x.key) then q
  else
    let s : Sector := BitVec.ofNat 3 j.region.toNat
    match q.viewPkt s j.tenant Opc.rdNc (64 * x.line) (BitVec.ofNat 3 (4 + j.draft)) with
    | (.error st, q) => q.updMerge id (fun j => { j with got := j.got ++ [{ key := x.key, status := st.code }] })
    | (.ok p, q) =>
      (q.issueRaw s (.mergeLine id x.key) p).updMerge id (fun j => { j with
        reads := j.reads ++ [{ key := x.key, sentAt := q.now }] })

/-- Write bytes for a merge through its draft's view. -/
def Qf.mergeWrite (q : Qf) (id : Nat) (j : MergeJob) (a : Nat) (bs : List Byte) : Qf :=
  let s : Sector := BitVec.ofNat 3 j.region.toNat
  (pagesOf a bs.length).foldl (fun q c =>
    match q.viewPkt s j.tenant Opc.wrBulk c.2.1 (BitVec.ofNat 3 (4 + j.draft)) with
    | (.error st, q) => q.updMerge id (fun j => { j with status := if j.status = 0 then st.code else j.status })
    | (.ok p0, q) =>
      let (m, q) := q.takeMsg
      let p : Packet := { p0 with msg := some { msgId := m, totalLen := BitVec.ofNat 32 c.2.2 } }
      let d : Packet := { opcode := Opc.dataWrite, vc := 3, payload := slice bs c.1 c.2.2 }
      (q.issueRaw s (.mergeWrite id) p (some d)).updMerge id (fun j => { j with writesOut := j.writesOut + 1 })) q

/-- How far a merge has come: the entries processed, and all there are; none before they are read (R233). -/
def mergeSeen (j : MergeJob) : Option (Nat × Nat) :=
  match ({ got := j.got, cut := true } : Env).merge j.base j.target j.metric (j.expected + 1) with
  | .fail _ _ out inn => if inn = 0 then none else some (out, inn)
  | _ => none

/-- A merge's progress is a position in entries processed and a percentage of 99 (R233). -/
def Qf.mergeProgress (q : Qf) (j : MergeJob) : Qf :=
  match mergeSeen j with
  | some (k, n) => q.updProgress j.progress (fun p => { p with position := k, total := n, percent := 99 * k / n })
  | none => q

/-- A merge goes on. -/
def Qf.pumpMerge : Nat → Nat → Qf → Qf
  | 0, _, q => q
  | n + 1, id, q =>
    match q.eng.merges.find? id with
    | none => q
    | some j =>
      if j.writing then
        (if j.writesOut != 0 then q
         else if j.status != 0 then q.mergeFail id j j.status else q.mergePublish id j)
      else match ({ got := j.got } : Env).merge j.base j.target j.metric (j.expected + 1) with
      | .fail st .. => q.mergeFail id j st
      | .need rs =>
        let q := (rs.foldl (fun q x => q.mergeAsk id j x) q).mergeProgress j
        if ((q.eng.merges.find? id).map (fun y => y.got.length)).getD 0 = j.got.length then q else Qf.pumpMerge n id q
      | .ok (ws, k, macs) =>
        let q := { q with eng := { q.eng with mMacs := q.eng.mMacs + macs } }
        let q := q.updProgress j.progress (fun p => { p with position := k, total := k, percent := 99 })
        let q := q.updMerge id (fun j => { j with writing := true, reads := [] })
        Qf.pumpMerge n id (ws.foldl (fun q w => q.mergeWrite id j (j.base + w.1) w.2) q)

/-- A line of a merge has come. -/
def Qf.mergeGot (q : Qf) (id key : Nat) (st : BitVec 8) (data : List Byte) : Qf :=
  (q.updMerge id (fun j =>
    if j.reads.any (fun r => r.key = key) then
      { j with reads := dropFirst (fun r => r.key = key) j.reads, got := j.got ++ [{ key, status := st, data }] }
    else j)).pumpMerge 32 id

/-- A write of a merge is answered. -/
def Qf.mergeWrote (q : Qf) (id : Nat) (st : BitVec 8) : Qf :=
  (q.updMerge id (fun j => { j with
    writesOut := j.writesOut - 1, status := if j.status = 0 then st else j.status })).pumpMerge 32 id

/-- INDEX_MERGE (R233). -/
def execIndexMerge (m : MgrRef) (tenant : BitVec 16) (region : BitVec 32) (t : BitVec 64) (metric : BitVec 8)
    (s : State) : Out :=
  done (fun q => q.mgr m 0x51 (inRange tenant 4096 && inRange region 1048576 && inRange metric 3) (fun q =>
    let r : RegionId := fld region 0 20
    let ten : Tenant := fld tenant 0 12
    if !q.ver.recs.has r.toNat then q.complete m 0x51 .accessViolation
    else if (q.verRec r).lost then q.complete m 0x51 .uncorrectable
    else match q.regionPva ten r with
    | none => q.complete m 0x51 .accessViolation
    | some a =>
      match q.newProgress 5 2 0 with
      | none => q.complete m 0x51 .retry
      | some (pr, q') =>
        match q'.openDraft r with
        | none => q.complete m 0x51 .retry
        | some (d, q) =>
          let id := q.eng.nextJob
          let new : MergeJob := { cmd := m, progress := some pr, tenant := ten, region := r, target := t.toNat
                                  metric := metric.toNat, draft := d, base := a, expected := (q.verRec r).current }
          let q := { q with eng := { q.eng with nextJob := id + 1, merges := q.eng.merges.set id new } }
          q.pumpMerge 32 id)) s

end Sys2Proof.Machine
end

