-- ==== Sys2Proof/Machine/Responses.lean ====
section
/-! DEFINITION. Machine/Responses.lean: responses at the edge and at the engines (R61, R71, R81, R82, R347, R407), resends
(R111, R141, R211), aborts of work requests (R151, R152, R546) and the timers of waits, snoops and messages. -/

namespace Sys2Proof.Machine

/-! ### Sending again -/

/-- The queue pair whose copy engine sends a request. -/
def Owner.copyPair : Owner → Option QpKey
  | .qpData n _ _ _ | .qpRing n | .qpAtomic n _ => some n
  | _ => none

/-- Send an open request again as it was sent. -/
def Qf.sendAgain (q : Qf) (r : OpenReq) : Qf :=
  let u := unitOf (edgeSector r.ing)
  let isIt (x : OpenReq) : Bool := x.src = r.src && x.tag = r.tag
  let q := { q with edge := { q.edge with
    reqs := updFirst isIt (fun x => { x with sentAt := q.now, resendAt := none, ackAt := q.ackTime }) q.edge.reqs } }
  let q := match r.owner.copyPair with
    | some n => q.copied n r.owner r.data
    | none => q
  let q := q.send u r.sent
  match r.data with
  | some d => q.send u (dataFor r.sent d)
  | none => q

/-- The open requests that carry one message with a request, itself among them: a message is sent again whole. -/
def Qf.askMates (q : Qf) (r : OpenReq) : List OpenReq :=
  match r.owner with
  | .shardAsk _ _ _ | .sideAsk _ _ _ => q.edge.reqs.filter (fun x => x.owner = r.owner &&
      x.orig.msg.map MsgHdr.msgId = r.orig.msg.map MsgHdr.msgId)
  | _ => [r]

/-- The back-off after a refusal with RETRY: 256 ns, doubling to 32 us (R111). -/
def nextBackoff (b : Nat) : Nat := if b = 0 then 256 else min (2 * b) 32000

/-- An engine's request is refused with RETRY: it is sent again after its back-off, and the attempt is not counted
(R111, R141). -/
def Qf.backOff (q : Qf) (r : OpenReq) : Qf :=
  let b := nextBackoff r.backoff
  let isIt (x : OpenReq) : Bool := x.src = r.src && x.tag = r.tag
  { q with edge := { q.edge with
    reqs := updFirst isIt (fun x => { x with backoff := b, resendAt := some (q.now + b) }) q.edge.reqs } }

/-! ### What an answer is for -/

/-- The queue pair of an engine's request, where its packets are kept in a retransmission store. -/
def Owner.queue : Owner → Option QpKey
  | .qpData n _ _ _ | .qpAtomic n _ | .qpPennant n _ | .qpClose n _ | .qpWait n _ => some n
  | .pipeWrite n _ k => if k = 8 then none else some n
  | _ => none

/-- A write of a tenant's counter page failed: its address is cleared, and it is counted (R487). -/
def Qf.pageFailed (q : Qf) (t : Tenant) : Qf :=
  { q with obs := { q.obs with pages := q.obs.pages.set t.toNat 0, pageFails := q.obs.pageFails + 1 } }

/-- Give an engine the answer of its request: status 0 where it succeeded. -/
def Qf.dispatchAnswer (q : Qf) (r : OpenReq) (p : Packet) (st : BitVec 8) : Qf :=
  let p := { p with tag := r.tag }
  match r.owner with
  | .accel | .ownership _ | .bar2 _ => q
  | .counterPage t => if st = 0 then q else q.pageFailed t
  | .qpData n i off len => q.qpData n i off len p st
  | .qpRing n => q.qpRing n r p st
  | .qpAtomic n i => q.qpOne n i p st
  | .qpPennant n i => q.qpOne n i p st
  | .qpWait n i => q.qpWait n i r p st
  | .qpClose n peer => q.qpClosed n peer
  | .pipeLine n i _ key => q.pipeGot n i key st p.payload
  | .pipeWrite n i stage => q.pipeWrote n i stage r.tag st
  | .shardAsk n i key => q.pipeGot n i key st []
  | .sideAsk n i key => q.pipeGot n i key st p.payload
  | .frbLine j key => q.encGot j key st p.payload
  | .frbWrite j => q.encWrote j r.orig.addr.toNat (match r.data with | some d => d.payload.length | none => 0) st
  | .colLine g key => q.colGot g.toNat key st p.payload
  | .colWrite g key => q.colWrote g.toNat key st
  | .sideLine j key => q.sideGot j key st p.payload
  | .sideWrite j key => q.sideWrote j key st
  | .mergeLine j key => q.mergeGot j key st p.payload
  | .mergeWrite j => q.mergeWrote j st
  | .shardLine j key => q.shardGot j key st p.payload
  | .moveLine s pg _ => if st = 0 then q.moveGot s pg p.payload else q.moveFail s (statusOf st)
  | .moveWrite s pg => if st = 0 then q.moveWrote s pg else q.moveFail s (statusOf st)
  | .restore s => q.restoreGot s (statusOf st) p.payload

/-- An engine's request has its final outcome, but for what it lets go on. -/
def Qf.answerOwn (q : Qf) (r : OpenReq) (p : Packet) (st : BitVec 8) : Qf :=
  let q := (q.askMates r).foldl (fun q x => q.resolved x st) q
  let gone := match r.owner.queue with
    | some n => match q.stored n r.tag with
      | some s => if s.cancelled && st = Status.aborted.code then some (n, s) else none
      | none => none
    | none => none
  match gone with
  -- a PSN that its CANCEL made final (R546)
  | some (n, s) => ((q.qpResolve n s).settleQp n).resetTurn n
  | none =>
    let q := q.dispatchAnswer r p st
    match r.owner.queue with
    | some n => q.resetTurn n
    | none => q

/-- An engine's request has its final outcome; the pipelines of its sector may go on (R78, R198). -/
def Qf.finalAnswer (q : Qf) (r : OpenReq) (p : Packet) (st : BitVec 8) : Qf :=
  let q := q.answerOwn r p st
  match r.ing with
  | .unit s => q.wakePipes s
  | _ => q

/-- An engine's request has met EPOCH_STALE.  Where its queue pair is another QF960's by now, which the answer's OWN_EPOCH tells,
the pair stops (R150); else the request is translated afresh and sent once more, in the order of its stream's stale requests
(R61, R75), a packet of a queue pair under a new PSN. -/
def Qf.staleAnswer (q : Qf) (r : OpenReq) (p : Packet) : Qf :=
  let st := Status.epochStale.code
  match r.owner.queue with
  | none => if r.retried then q.finalAnswer r p st else (q.askMates r).foldl (fun q x => q.markStale x) q
  | some n =>
    let x := q.qp n
    if p.qp.any (fun h => x.ctx.ownEpoch < h.ownEpoch) then
      (if x.ctx.state = .ready || x.ctx.state = .released then q.qpStop n 1 .epochStale else q.finalAnswer r p st)
    else if r.retried then q.finalAnswer r p st
    else match q.stored n r.tag with
      | some s => if s.bare then q.markStale r else (q.staleSent n s).markStale r
      | none => q.markStale r

/-- The open request that a response to this QF960 answers: by its TAG, or by the PSN it names (R546).  A CANCEL refused as a
whole names none. -/
def Qf.answered (q : Qf) (p : Packet) (st : BitVec 8) : Option OpenReq :=
  match q.openFor p with
  | some r => some r
  | none =>
    if st = Status.retry.code || st = Status.linkDown.code then none
    else p.qp.bind (fun h => ((q.qp (h.originEp ++ h.qpn)).store.find? (fun s => s.peer = p.srcEp && s.psn = h.psn &&
      !s.bare && !s.stale)).bind (fun s => q.edge.reqs.find? (fun r => r.src = q.ownEp && r.tag = s.tag)))

/-- Change the CANCELs of every queue pair that have a TAG. -/
def Qf.updCancels (q : Qf) (tag : Tag) (f : CancelRec → CancelRec) : Qf :=
  { q with qps := { q.qps with qps := q.qps.qps.map (fun x => (x.1, { x.2 with
    cancels := x.2.cancels.map (fun c => if c.tag = tag then f c else c) })) } }

/-- An answer that no open request takes: a CANCEL refused with RETRY backs off, for twice as long each time (R111); one that found
no route is noted (R546); one refused by ownership stops its queue pair (R150); else it is for a PSN of a packet that never left,
which its CANCEL lists no more. -/
def Qf.cancelAnswer (q : Qf) (p : Packet) (st : BitVec 8) : Qf :=
  let n : QpKey := match p.qp with | some h => h.originEp ++ h.qpn | none => 0
  let psn := (p.qp.map QpHdr.psn).getD 0
  let x := q.qp n
  if st = Status.retry.code then
    q.updCancels p.tag (fun c => { c with
      backoff := nextBackoff c.backoff, resendAt := some (q.now + nextBackoff c.backoff) })
  else if st = Status.linkDown.code then q.updCancels p.tag (fun c => { c with noRoute := true })
  else if p.qp.isNone || !q.hasQp n then q
  else if st = Status.epochStale.code && p.qp.any (fun h => x.ctx.ownEpoch < h.ownEpoch) then
    (if x.ctx.state = .ready || x.ctx.state = .released then q.qpStop n 1 .epochStale else q)
  else q.updQp n (fun x => { x with cancels := (x.cancels.map (fun c => if c.peer = p.srcEp then
      { c with psns := c.psns.filter (· != psn) } else c)).filter (fun c => c.psns != []) })

/-- A response to one of this QF960's own requests. -/
def Qf.ownResponse (q : Qf) (p : Packet) : Qf :=
  let st : BitVec 8 := if p.opcode = Opc.fail then p.status else 0
  match q.answered p st with
  | none => q.cancelAnswer p st
  | some r =>
    let waits := match r.owner with | .qpWait _ _ => true | _ => false
    let queued := r.owner.queue.bind (fun n => (q.stored n r.tag).map (fun s => (n, s)))
    if st = Status.retry.code && !waits then (q.askMates r).foldl (fun q x => q.backOff x) q
    else if st = Status.epochStale.code then q.staleAnswer r p
    else match queued with
    | some (n, s) =>
      if st = Status.linkDown.code && p.srcEp != s.peer && !waits then
        -- a switch found no route: an attempt that failed (R141, R341)
        q.updQp n (fun x => { x with store := updFirst (fun y => y.tag = s.tag) (fun y => { y with noRoute := true }) x.store })
      else q.finalAnswer r p st
    | none =>
      if st = Status.linkDown.code && p.srcEp != r.sent.destEp then
        { q with edge := { q.edge with reqs := updFirst (fun x => x.is r) (fun x => { x with noRoute := true }) q.edge.reqs } }
      else q.finalAnswer r p st

/-! ### At a client's edge -/

/-- Whether a response resolves the request it answers (R347). -/
def resolves (r : OpenReq) (p : Packet) : Bool :=
  if p.opcode = Opc.grantM then r.sent.opcode = Opc.atomic || r.sent.opcode = Opc.upgrade
  else if p.opcode = Opc.dataClean then isRead r.sent.opcode
  else if p.opcode = Opc.pennantDone then r.sent.opcode = Opc.pennant
  else p.opcode = Opc.placed || p.opcode = Opc.atomicResult || p.opcode = Opc.fail || p.opcode = Opc.wbDone ||
    p.opcode = Opc.waitDone
where
  /-- Requests answered by a line's data. -/
  isRead (o : BitVec 8) : Bool := o = Opc.rdNc || o = Opc.rdShared || o = Opc.rdOwn || o = Opc.rdBulk || o = Opc.upgrade

/-- The status that a response carries, 0 where it reports success. -/
def answerStatus (p : Packet) : BitVec 8 := if p.opcode = Opc.fail || p.opcode = Opc.pennantDone then p.status else 0

/-- A response for a client of this edge: its request is resolved before the response goes on; a late one is discarded, and
a stale request is sent once more (R61, R75, R81, R82, R347, R407). -/
def Qf.clientResponse (q : Qf) (i : Ingress) (p : Packet) : Qf :=
  let st := answerStatus p
  match q.openFor p with
  | none => if q.edge.expired.contains (p.destEp, p.tag) then q else q.transit i p
  | some r =>
    if resolves r p then
      (if st = Status.epochStale.code && !r.retried then q.markStale r else (q.resolved r st).transit i p)
    else if p.opcode = Opc.grantM then
      ({ q with edge := { q.edge with
        reqs := updFirst (fun x => x.is r) (fun x => { x with granted := true }) q.edge.reqs } }).transit i p
    else q.transit i p

/-- A stale request that its entry refuses now, or that is not to be sent any more, fails with that status: a client's goes back
to it. -/
def Qf.staleFail (q : Qf) (r : OpenReq) (e : Status) : Qf :=
  let o := if r.sent.opcode = Opc.pennant then Opc.pennantDone else Opc.fail
  match r.ing with
  | .half h => (q.resolved r e.code).sendOn (unitOf (halfSector h)) h { (q.reply r.orig o e.code) with destEp := r.src }
  | _ => q.finalAnswer r { opcode := o, status := e.code, tag := r.tag } e.code

/-- Send a stale packet of a queue pair again, under the next PSN of the home that it goes to now; none where no peer slot takes
it yet (R126, R127), or the owner's lease is over (R148). -/
def Qf.resendPsn (q : Qf) (n : QpKey) (s : SentPkt) (r : OpenReq) : Option Qf :=
  let x := q.qp n
  if x.ctx.state != .ready || s.cancelled || (x.wrOf s.wr).any (fun w => w.aborting.isSome) then
    some (q.staleFail r .aborted)
  else
    match q.edgeCheck r.ing { r.orig with qp := none } r.data with
    | (.error e, q) => some (q.staleFail r e)
    | (.ok p, q) =>
      if q.leaseOver n || !x.slotFree p.destEp (p.opcode = Opc.atomic) then none
      else
        let (h, q) := ((q.openSlot n p.destEp).copied n r.owner r.data).takePsn n p.destEp (p.opcode = Opc.atomic) s.wr
        let now_ (y : SentPkt) : SentPkt := { y with
          stale := false, peer := p.destEp, psn := h.psn, pkt := { y.pkt with qp := some h } }
        let q := q.updQp n (fun x => { x with store := updFirst (fun y => y.tag = s.tag) now_ x.store })
        some (q.resendAs r { p with qp := some h })

/-- Send a stale request again, or fail it; none where it has to wait. -/
def Qf.staleGo (q : Qf) (r : OpenReq) : Option Qf :=
  match r.owner.queue.bind (fun n => ((q.stored n r.tag).filter (fun s => s.stale)).map (fun s => (n, s))) with
  | some (n, s) => q.resendPsn n s r
  | none => match q.retryStale r with
    | .ok q => some q
    | .error e => some (q.staleFail r e)

/-- Send the stale requests whose turn has come, in their streams' order (R75). -/
def Qf.resendStale : Nat → List OpenReq → Qf → Qf
  | 0, _, q => q
  | k + 1, skip, q =>
    match q.staleTurn skip with
    | none => q
    | some r =>
      match q.staleGo r with
      | some q => Qf.resendStale k skip q
      | none => Qf.resendStale k (skip ++ [r]) q

/-- Send again every stale request whose turn has come. -/
def Qf.restale (q : Qf) : Qf := q.resendStale q.edge.reqs.length []

/-- A tray's answer other than TRAY_DONE while the chip drains (R426). -/
def Qf.drainAnswer (q : Qf) (p : Packet) : Qf :=
  match q.home.trayReads.find? (fun r => r.is p.srcEp p.tag) with
  | some r => if p.opcode = Opc.dataClean then q.trayGot r (storedOf p.payload) else q.trayFail p.srcEp p.tag (statusOf p.status)
  | none => if p.opcode = Opc.fail then q.trayFail p.srcEp p.tag (statusOf p.status) else q

/-- A response for this QF960 itself: from a tray or lender for a line's transaction, or for one of its own requests. -/
def Qf.answerHere (q : Qf) (p : Packet) : Qf :=
  match q.home.trayReads.find? (fun r => r.is p.srcEp p.tag) with
  | some r => if p.opcode = Opc.dataClean then q.trayGot r (storedOf p.payload) else q.trayFail p.srcEp p.tag (statusOf p.status)
  | none =>
    if p.opcode = Opc.fail && (q.home.trayWrites.any (fun w => w.is p.srcEp p.tag) ||
        (q.fillSlot p.srcEp p.tag).isSome) then q.trayFail p.srcEp p.tag (statusOf p.status)
    else q.ownResponse p

/-- A response where it goes: to this QF960, to a client of this edge, or on through the switch. -/
def Qf.deliver (i : Ingress) (q : Qf) (p : Packet) : Qf :=
  if p.destEp = q.ownEp then q.answerHere p
  else if (q.clientHalf p.destEp).isSome then q.clientResponse i p
  else q.transit i p

/-- A response arrives.  Where this switch combined its request, every member of the group has one (R120 to R122). -/
def Qf.response (q : Qf) (i : Ingress) (p : Packet) : Qf :=
  if q.running && q.pwr.failState = 1 && p.destEp = q.ownEp then (q.take i p).drainAnswer p
  else if !q.inService then q
  else ((q.take i p).uncombine i p (Qf.deliver i)).restale

/-! ### The responses -/

/-- PLACED (R71, R81): a write is placed. -/
def execPlaced (i : Ingress) (p : Packet) (s : State) : Out := done (fun q => q.response i p) s

/-- DATA_CLEAN (R544): a line's data, which resolves its read. -/
def execDataClean (i : Ingress) (p : Packet) (s : State) : Out := done (fun q => (q.response i p).settle) s

/-- GRANT_M (R119): a far atomic is resolved by its grant. -/
def execGrantM (i : Ingress) (p : Packet) (s : State) : Out := done (fun q => q.response i p) s

/-- ATOMIC_RESULT (R121). -/
def execAtomicResult (i : Ingress) (p : Packet) (s : State) : Out := done (fun q => q.response i p) s

/-- FAIL (R61, R82, R111): a refusal or a failure. -/
def execFail (i : Ingress) (p : Packet) (s : State) : Out := done (fun q => (q.response i p).settle) s

/-- WB_DONE (R347). -/
def execWbDone (i : Ingress) (p : Packet) (s : State) : Out := done (fun q => q.response i p) s

/-- WAIT_DONE (R88, R543): the wait has come true, with the word's value. -/
def execWaitDone (i : Ingress) (p : Packet) (s : State) : Out := done (fun q => q.response i p) s

/-- PENNANT_DONE (R91): whether a Pennant was applied. -/
def execPennantDone (i : Ingress) (p : Packet) (s : State) : Out :=
  done (fun q =>
    if !q.inService then q
    else if p.destEp = q.ownEp then
      let q := q.take i p
      (match q.openFor p with
       | some r => (if p.status = Status.epochStale.code then q.staleAnswer r p else q.finalAnswer r p p.status).restale
       | none => q)
    else q.response i p) s

/-! ### Resends -/

/-- What becomes of a packet of a queue pair that was refused with RETRY, when its back-off is over: it goes again; where the
pair is in ERROR it does not (R143), and where its work request is being aborted its CANCEL answers for it (R151). -/
def Qf.backOn (q : Qf) (n : QpKey) (s : SentPkt) (r : OpenReq) : Qf :=
  let x := q.qp n
  let close := match s.owner with | .qpClose _ _ => true | _ => false
  if q.leaseOver n then q
  else if x.ctx.state = .ready && !s.cancelled || close then q.sendAgain r
  else if x.ctx.state = .ready && !s.bare then
    { q with edge := { q.edge with reqs := updFirst (fun y => y.is r) (fun y => { y with resendAt := none }) q.edge.reqs } }
  else q.finalAnswer r { opcode := Opc.fail, status := Status.aborted.code, tag := r.tag } Status.aborted.code

/-- The queue pair and CANCEL that a TAG names. -/
def Qf.cancelOf (q : Qf) (tag : Tag) : Option (QpKey × CancelRec) :=
  q.qps.qps.findSome? (fun x => (x.2.cancels.find? (fun c => c.tag = tag)).map (fun c => ((BitVec.ofNat 30 x.1 : QpKey), c)))

/-- Take a CANCEL out of its queue pair's. -/
def Qf.dropCancel (q : Qf) (n : QpKey) (tag : Tag) : Qf :=
  q.updQp n (fun x => { x with cancels := x.cancels.filter (fun c => c.tag != tag) })

/-- RETRY_BACKOFF (R111): the back-off of a refused request is over. -/
def execRetryBackoff (tag : Tag) (s : State) : Out :=
  done (fun q =>
    if !q.inService then q
    else match q.edge.reqs.find? (fun r => r.src = q.ownEp && r.tag = tag) with
    | some r =>
      if r.resendAt.all (fun t => decide (q.now < t)) then q
      else (match r.owner.queue.bind (fun n => (q.stored n tag).map (fun s => (n, s))) with
        | some (n, s) => q.backOn n s r
        | none => (q.askMates r).foldl (fun q x => q.sendAgain x) q)
    | none =>
      match q.cancelOf tag with
      | some (n, c) => if c.resendAt.all (fun t => decide (q.now < t)) then q else (q.dropCancel n tag).putCancel n c
      | none => q) s

/-- A packet of a retransmission store with a tag. -/
def Qf.inStore (q : Qf) (tag : Tag) : Option (QpKey × SentPkt) :=
  q.qps.qps.findSome? (fun x => (x.2.store.find? (fun s => s.tag = tag)).map (fun s => ((BitVec.ofNat 30 x.1 : QpKey), s)))

/-- A work request that is being aborted gets no outcome: its abort is answered with a status (R546). -/
def Qf.abortLost (q : Qf) (n : QpKey) (i : BitVec 16) (st : Status) : Qf :=
  match ((q.qp n).wrOf i).bind WorkReq.aborting with
  | some m => (q.updWr n i (fun w => { w with aborting := none })).abortAnswer n i m st
  | none => q

/-- A packet whose answer will not come, and which is not sent again, is resolved: that of a pair that has stopped sending, or of a
work request that is aborted (R143, R151).  Whether it is placed nothing tells. -/
def Qf.resolveLost (q : Qf) (n : QpKey) (s : SentPkt) (r : OpenReq) : Qf :=
  let q := q.resolved r Status.timeout.code
  (match s.owner with
  | .pipeWrite _ i stage => q.pipeWrote n i stage s.tag Status.timeout.code
  | _ => (q.qpResolve n s).settleQp n).resetTurn n

/-- The last retransmission of a packet has timed out (R141): its work request fails and the queue pair enters ERROR. -/
def Qf.giveUp (q : Qf) (n : QpKey) (s : SentPkt) (r : OpenReq) : Qf :=
  let st := if s.noRoute then Status.linkDown else Status.timeout
  let q := q.resolved r st.code
  (match s.owner with
  | .qpClose _ peer => (q.qpError n st.code).qpClosed n peer
  | .pipeWrite _ i stage => q.pipeWrote n i stage s.tag st.code
  | _ => ((q.qpResolve n s).wrFail n s.wr st.code false s.pkt.addr s.psn).settleQp n).resetTurn n

/-- A CANCEL without all its answers after ACK_TIMEOUT (R546): sent again with every PSN still unanswered of the queue
pair's CANCELs to that home, 256 to a packet, at most seven times.  Then its work request fails and the queue pair enters
ERROR. -/
def Qf.cancelTimeout (q : Qf) (n : QpKey) (c : CancelRec) : Qf :=
  if q.leaseOver n then q
  else if 7 ≤ c.tries then
    let st := if c.noRoute then Status.linkDown else Status.timeout
    (((q.dropCancel n c.tag).abortLost n c.wr st).wrFail n c.wr st.code false 0 0).settleQp n
  else
    let mates := (q.qp n).cancels.filter (fun y => y.peer = c.peer)
    let psns := (mates.flatMap (fun y => y.psns)).eraseDups
    let q := q.updQp n (fun x => { x with cancels := x.cancels.filter (fun y => y.peer != c.peer) })
    let q := (mates.filter (fun y => y.tag != c.tag && y.msg.isSome)).foldl (fun q y => q.putCancel n { y with psns := [] }) q
    (List.range (ceilDiv psns.length 256)).foldl (fun q k =>
      q.putCancel n { c with
        tries := c.tries + 1, psns := (psns.drop (256 * k)).take 256, msg := if k = 0 then c.msg else none }) q

/-- An engine's request with no PSN and no answer (R141, R211, R407): sent again at most seven times, then
TIMEOUT, or LINK_DOWN where the last attempt found no route. -/
def Qf.openTimeout (q : Qf) (r : OpenReq) : Qf :=
  let st := if r.noRoute then Status.linkDown.code else Status.timeout.code
  if 7 ≤ r.tries then q.finalAnswer r { opcode := Opc.fail, status := st, tag := r.tag } st
  else
    let isIt (x : OpenReq) : Bool := x.src = r.src && x.tag = r.tag
    let q := { q with edge := { q.edge with
      reqs := updFirst isIt (fun x => { x with tries := x.tries + 1, noRoute := false }) q.edge.reqs } }
    (q.askMates r).foldl (fun q x => q.sendAgain x) q

/-- Resend a packet of a retransmission store whose answer is overdue. -/
def Qf.resendSent (q : Qf) (n : QpKey) (r : OpenReq) : Qf :=
  let q := { q with qps := { q.qps with retransmissions := q.qps.retransmissions + 1 } }
  let q := q.updQp n (fun x => { x with
    store := updFirst (fun y => y.tag = r.tag) (fun y => { y with tries := y.tries + 1, noRoute := false }) x.store })
  q.sendAgain r

/-- ACK_TIMEOUT of a packet of a retransmission store (R138, R141, R143, R148, R151). -/
def Qf.sentTimeout (q : Qf) (n : QpKey) (s : SentPkt) (r : OpenReq) : Qf :=
  let x := q.qp n
  let close := match s.owner with | .qpClose _ _ => true | _ => false
  let aborting := s.cancelled || (x.wrOf s.wr).any (fun w => w.aborting.isSome)
  if q.now < r.ackAt || s.stale || q.leaseOver n then q
  else if !close && x.ctx.state != .ready then q.resolveLost n s r
  else if !close && aborting then
    (if x.cancels.any (fun c => c.peer = s.peer && c.psns.contains s.psn) && !s.bare then q else q.resolveLost n s r)
  else if 7 ≤ s.tries then q.giveUp n s r
  else q.resendSent n r

/-- ACK_TIMEOUT of an open request that no retransmission store holds. -/
def Qf.bareTimeout (q : Qf) (r : OpenReq) : Qf :=
  match r.owner with
  | .qpWait _ _ | .ownership _ | .accel => q
  | .qpRing n => if q.now < r.ackAt || q.leaseOver n then q else q.openTimeout r
  | _ => if q.now < r.ackAt then q else q.openTimeout r

/-- ACK_TIMEOUT (R141): an unacknowledged packet is sent again, at most seven times.  A packet that the edge still holds has not
been sent. -/
def execAckTimeout (tag : Tag) (s : State) : Out :=
  done (fun q =>
    let r? := q.edge.reqs.find? (fun r => r.src = q.ownEp && r.tag = tag)
    if !q.inService then q
    else match r? with
    | some r =>
      if r.resendAt.isSome || r.stale then q
      else (match q.inStore tag with
        | some (n, s) => q.sentTimeout n s r
        | none => q.bareTimeout r).restale
    | none =>
      match q.cancelOf tag with
      | some (n, c) => if q.now < c.ackAt then q else q.cancelTimeout n c
      | none => q) s

/-- REQUEST_TIMEOUT (R407): a client's request with no response. -/
def execRequestTimeout (src : Ep) (tag : Tag) (s : State) : Out :=
  done (fun q =>
    if !q.inService || src = q.ownEp then q
    else match q.edge.reqs.find? (fun r => r.src = src && r.tag = tag) with
    | none => q
    | some r =>
      if q.now < r.sentAt + q.flt.requestTimeout.toNat then q
      else
        let q := (q.resolved r Status.timeout.code).restale
        let q := q.fault 5 { sector := ingressSector r.ing, unit := 0, status := Status.timeout.code, tenant := r.sent.tenant
                             peer := r.sent.destEp, addr := q.redact r.sent.world r.sent.tenant r.sent.addr
                             detail := r.sent.opcode.zeroExtend 16 }
        let q := { q with edge := { q.edge with expired := q.edge.expired ++ [(src, tag)] } }
        let a := q.reply r.orig (if r.sent.opcode = Opc.pennant then Opc.pennantDone else Opc.fail) Status.timeout.code
        match r.ing with
        | .half h => q.sendOn (unitOf (halfSector h)) h a
        | u => q.sendPlain u a) s

/-! ### Aborts (R151, R152, R546) -/

/-- Bytes of a transfer, all of which are placed once its result is delivered (Table COPY-13). -/
def WorkReq.delivered (w : WorkReq) : Bool :=
  if w.op = 1 || w.op = 2 || w.op = 3 then decide (Wr.len w.wr ≤ w.placed) else w.begun

/-- A started work request is aborted: nothing more is sent for it, and what is open at its homes is cancelled. -/
def Qf.cancelWr (q : Qf) (n : QpKey) (w : WorkReq) (m : Option MgrRef) : Qf :=
  let mine (s : SentPkt) : Bool := s.wr = w.index && !s.bare && !s.stale
  let sent := (q.qp n).store.filter mine
  let q := q.takeBack n (fun s => s.wr = w.index)
  let peers := (sent.map SentPkt.peer).eraseDups
  let isWait := w.op = 6
  let waits (r : OpenReq) : Bool := match r.owner with | .qpWait k i => k = n && i = w.index | _ => false
  let q := (q.edge.reqs.filter waits).foldl (fun q r => q.resolved r 0) q
  let q := q.updQp n (fun x => { (x.updWr w.index (fun w => { w with
      aborting := some m, todo := [], reading := [], msgs := []
      unresolved := if isWait then 0 else w.unresolved - x.unsent w.index })) with
    outbox := x.outbox.filter (fun s => s.wr != w.index)
    store := x.store.map (fun s => if mine s then { s with cancelled := true } else s)
    wait := if isWait then none else x.wait })
  let q := peers.foldl (fun q e =>
    let psns := (sent.filter (fun s => s.peer = e)).map SentPkt.psn
    let id := (w.msgs.find? (fun z => z.2.1 = e)).map (fun z => ({ msgId := z.1 } : MsgHdr))
    q.sendCancel n e w.index id psns) q
  -- a message whose home has no packet unresolved
  let q := (w.msgs.filter (fun z => !peers.contains z.2.1 || (w.msgs.find? (fun y => y.2.1 = z.2.1)) != some z)).foldl (fun q z =>
    q.sendCancel n z.2.1 w.index (some { msgId := z.1 }) []) q
  q.restale

/-- QP_ABORT (R151, R212): from the fabric manager, or from the bound accelerator. -/
def execQpAbort (m : Option MgrRef) (src : Ep) (qpn : BitVec 16) (wrIndex : BitVec 16) (s : State) : Out :=
  done (fun q =>
    let live (x : Qp) : Bool := x.ctx.state = .ready || x.ctx.state = .error
    let n := q.pairOf qpn (fun x => live x && (m.isSome || x.ctx.boundEp = src))
    let x := q.qp n
    let i := wrIndex
    let go (q : Qf) : Qf :=
      let posted := decide ((i - x.ctx.sqConsumer).toNat < (x.ctx.sqProducer - x.ctx.sqConsumer).toNat)
      let late (q : Qf) : Qf := (q.abortAnswer n i m .alreadyComplete).settleQp n
      match x.work.find? (fun w => w.index = i && !w.reported) with
      | some w =>
        if w.done || w.final.isSome || w.aborting.isSome then late q
        else if w.op = 0x20 then
          (match q.job n i with
           | some j =>
             if q.pipeBegun n j || j.phase = .stopped || j.phase = .record then late q
             else ((q.pipeAbort n i).abortAnswer n i m .ok).settleQp n
           | none => late q)
        else if w.quiet && w.delivered then late q
        else (q.cancelWr n w m).settleQp n
      | none =>
        if !posted || x.preAbort.any (fun a => a.1 = i) then late q
        else if i = x.ctx.sqConsumer && x.fetched.isSome then
          let new : WorkReq := { index := i, wr := x.fetched.getD 0, seq := q.qps.useSeq, final := some Status.aborted.code }
          let q := q.updQp n (fun x => { x with
            fetched := none, work := x.work ++ [new], ctx := { x.ctx with sqConsumer := i + 1 } })
          (q.abortAnswer n i m .ok).settleQp n
        else q.updQp n (fun x => { x with preAbort := x.preAbort ++ [(i, m)] })
    let here := q.hasQp n && live x
    match m with
    | some m => q.mgr m 0x33 true (fun q => if here then go q else q.complete m 0x33 .accessViolation)
    | none => if q.inService && here && x.ctx.boundEp = src then go q else q) s

/-- ABORT_RESOLVE (R151): every packet sent for an aborted work request has its final outcome. -/
def execAbortResolve (n : QpKey) (s : State) : Out :=
  done (fun q =>
    if !q.inService then q
    else
      let due := (q.qp n).work.filter (fun w => w.aborting.isSome && w.unresolved = 0 && !w.done)
      let q := due.foldl (fun q w =>
        let m := w.aborting.getD none
        if w.delivered then
          (q.updWr n w.index (fun w => { w with aborting := none, done := true })).abortAnswer n w.index m .alreadyComplete
        else
          let q := if w.writes then q.updQp n (fun x => x.breakWrites w.index Status.aborted.code) else q
          (q.updWr n w.index (fun w => { w with
            aborting := none, done := true, status := Status.aborted.code })).abortAnswer n w.index m .ok) q
      if due = [] then q else q.settleQp n) s

/-! ### Timers of the home -/

/-- WAIT_TIMEOUT (R87): a registered wait's time is over. -/
def execWaitTimeout (waiter : Ep) (tag : Tag) (s : State) : Out :=
  done (fun q =>
    if !q.inService then q
    else match q.home.waits.find? (fun w => w.waiter = waiter && w.tag = tag) with
    | none => q
    | some w =>
      if w.deadline.all (fun d => decide (q.now < d)) then q
      else q.failWaits (fun x => x.waiter = waiter && x.tag = tag) .timeout) s

/-- An endpoint has not answered a snoop of a line: the fault record, and in RECOVERY and TEST its half-port is fenced where
this QF960 is its edge (R113, R415). -/
def Qf.silentHolder (q : Qf) (n : LineNo) (p : Packet) (ep : Ep) : Qf :=
  let q := q.fault 5 { sector := q.sectorOf n, unit := 2, status := Status.timeout.code, tenant := p.tenant, peer := ep
                       addr := q.redact p.world p.tenant (ppaOf q.ownEp (lineSlot n) (fld (lineAddr n) 0 28)) }
  if q.flt.mode = 0 then q
  else (allHalves.filter (fun h => (q.link h).isClient && (q.link h).peerEp = ep)).foldl (fun q h => q.markFence h true) q

/-- SNOOP_TIMEOUT (R113): the transaction and the line's waiters fail with TIMEOUT, and the line stays blocked.  An
endpoint that does not answer is fenced. -/
def execSnoopTimeout (line : LineNo) (s : State) : Out :=
  done (fun q =>
    if !q.inService then q
    else match (q.lineQ line).bind (fun b => b.txn.map (fun t => (b, t))) with
    | none => q
    | some (b, t) =>
      let waiting := t.snoops.filter (fun x => !x.answered || x.wantData || x.wantWb)
      let late := waiting.filter (fun x => decide (x.since + q.home.snoopTimeout.toNat ≤ q.now))
      if t.phase != .snooping || late = [] || b.stuck then q
      else
        let q := q.updLine line (fun b => { b with txn := none, waiters := [], extRecall := none, stuck := true })
        let q := late.foldl (fun q x => q.silentHolder line t.req.pkt x.ep) q
        let q := q.failReq t.req .timeout
        let q := b.waiters.foldl (fun q r => q.failReq r .timeout) q
        let q := match b.extRecall with | some r => q.failReq r .timeout | none => q
        q.settle) s

/-- CLEARED_PAIR_EXPIRY (R93): packets of a cleared message are taken again. -/
def execClearedPairExpiry (src : Ep) (msgId : BitVec 24) (s : State) : Out :=
  done (fun q => { q with home := { q.home with
    cleared := q.home.cleared.filter (fun c => !(c.src = src && c.msgId = msgId && decide (c.expiry ≤ q.now))) } }) s

end Sys2Proof.Machine
end

