-- ==== Sys2Proof/Machine/Cxl.lean ====
section
/-! DEFINITION. Machine/Cxl.lean: ports in CXL mode (R321 to R325): a host's requests and snoop answers, and the memory
completions of a CXL tray. -/

namespace Sys2Proof.Machine

/-! ### A host's requests (R322) -/

/-- The PVA of a host address: that of the decoder whose range holds it; with no decoder programmed, the address itself
(log 36). -/
def CxlPort.pvaOf (c : CxlPort) (hpa : BitVec 64) : Option (BitVec 60) :=
  if c.decoders = [] then some (fld hpa 0 60)
  else (c.decoders.find? (fun d => decide (d.base.toNat ≤ hpa.toNat) && decide (hpa.toNat < d.base.toNat + d.size.toNat))).map (fun d =>
    BitVec.ofNat 60 (d.pva.toNat + (hpa.toNat - d.base.toNat)))

/-- A host's request reaches its edge: it is remembered under its tag, and then is a request like an accelerator's. -/
def Qf.hostRequest (q : Qf) (c : CxlReq) (op : BitVec 60 → BitVec 8) (aux : Option AuxHdr) (data : Option (BitVec 8)) : Qf :=
  let h := c.halfport
  let l := q.link h
  if !q.inService || !l.live || l.profile != 3 then q
  else match l.cxl.pvaOf c.hpa with
    | none => q
    | some a =>
      let line := a &&& ~~~(63 : BitVec 60)
      let o := op line
      let p : Packet := { opcode := o, tag := c.tag, addr := line, srcEp := l.peerEp, aux }
      if !q.clientOpen h p then q.markHeld (q.bindingOf h p).tenant
      else
        let q := q.updLink h (fun l => { l with cxl := { l.cxl with
          openReqs := l.cxl.openReqs ++ [(c.tag, c)]
          owned := if o = Opc.wbDirty then l.cxl.owned.filter (· != line) else l.cxl.owned } })
        q.clientRequest h p (data.map (fun d => { p with opcode := d, vc := 3, payload := slice c.data 0 64 }))

/-- MEM_RD (R322): RD_OWN, RD_SHARED or RD_NC by the state the host asks for. -/
def execMemRd (c : CxlReq) (s : State) : Out :=
  done (fun q => q.hostRequest c (fun _ => if c.want = 2 then Opc.rdOwn else if c.want = 1 then Opc.rdShared else Opc.rdNc) none none) s

/-- MEM_WR (R322): a full line from its owner is a WB_DIRTY, any other a WR_FULL_NC. -/
def execMemWr (c : CxlReq) (s : State) : Out :=
  done (fun q =>
    let l := q.link c.halfport
    let own := match l.cxl.pvaOf c.hpa with | some a => l.cxl.owned.contains (a &&& ~~~(63 : BitVec 60)) | none => false
    q.hostRequest { c with want := if own then 3 else 0 } (fun _ => if own then Opc.wbDirty else Opc.wrFullNc) none
      (some (if own then Opc.dataDirty else Opc.dataWrite))) s

/-- MEM_WR_PTL (R322): a WR_NC under the host's byte mask. -/
def execMemWrPtl (c : CxlReq) (s : State) : Out :=
  done (fun q => q.hostRequest c (fun _ => Opc.wrNc) (some { byteMask := c.mask }) (some Opc.dataWrite)) s

/-- Whether the host has sent the line of a snoop as a write-back that is not yet done (R114). -/
def CxlPort.crossing (c : CxlPort) (a : BitVec 60) : Bool :=
  c.openReqs.any (fun r => r.2.want = 3 && (c.pvaOf r.2.hpa).any (fun x => x &&& ~~~(63 : BitVec 60) = a &&& ~~~(63 : BitVec 60)))

/-- BI_RSP (R322): the host's answer to a BISnp becomes the snoop's response: 0 I, 1 S, 2 and 3 kept; with the line's data
where the host sends it. -/
def execBiRsp (h : HalfPort) (tag : Tag) (state : BitVec 2) (data : List Byte) (s : State) : Out :=
  done (fun q =>
    let l := q.link h
    match l.snoops.find? (fun p => p.tag = tag) with
    | none => q
    | some sn =>
      if !q.inService || !l.live || l.profile != 3 then q
      else
        let line := sn.addr &&& ~~~(63 : BitVec 60)
        let o := if l.cxl.crossing line then Opc.snpRspWb
          else if state = 0 then Opc.snpRspI else if state = 1 then Opc.snpRspS else Opc.snpRspKeep
        let follows := data != [] && o != Opc.snpRspWb
        let q := q.updLink h (fun l => { l with
          snoops := dropFirst (fun p => p.tag = tag) l.snoops
          cxl := { l.cxl with owned := if o = Opc.snpRspKeep then l.cxl.owned else l.cxl.owned.filter (· != line) } })
        let r : Packet := { (q.reply sn o) with srcEp := sn.destEp, far := follows }
        let f (q : Qf) : Qf :=
          if o = Opc.snpRspI then q.snoopAnswer r (fun n q => q.dropHolder n r.srcEp) false
          else if o = Opc.snpRspS then q.snoopAnswer r (fun n q => q.ownerShares n r.srcEp) false
          else if o = Opc.snpRspKeep then q.snoopAnswer r (fun _ q => q) false
          else q.snoopAnswer r (fun n q => q.dropHolder n r.srcEp) true
        let q := q.forHome (.half h) r f
        if !follows then q
        else
          let d : Packet := { r with opcode := Opc.dataDirty, vc := 3, far := false, payload := slice data 0 64 }
          if d.destEp = q.ownEp then q.homeDirty (.half h) d else q.transit (.half h) d) s

/-! ### A CXL tray's completions (R325) -/

/-- The sideband of a line within a sideband line. -/
def sideOf (n : LineNo) (bs : List Byte) : BitVec 64 := bitsOf 64 (slice bs (8 * (n.toNat % 8)) 8)

/-- An operation whose parts have all completed: a read gives the stored line, a write or fill is done, and an error fails
either (R545). -/
def Qf.cxlTrayEnd (q : Qf) (ep : Ep) (o : CxlTrayOp) : Qf :=
  if o.bad then q.trayFail ep o.tag .uncorrectable
  else if o.read then
    match q.home.trayReads.find? (fun r => r.is ep o.tag) with
    | some r => q.trayGot r { data := lineOf (slice (o.line.getD []) 0 64), side := sideOf r.line (o.side.getD []) }
    | none => q
  else q.trayDone ep o.tag

/-- CXL_TRAY_MEM_COMPLETION (R325): one part of a tray operation has completed. -/
def execCxlTrayMemCompletion (c : CxlTrayCpl) (s : State) : Out :=
  done (fun q =>
    let h := c.halfport
    let l := q.link h
    match l.cxl.trayOps.find? (fun o => o.tag = c.tag) with
    | none => q
    | some o =>
      if !q.inService || !l.live || l.profile != 4 || o.read != decide (c.kind.toNat ≤ 1) then q
      else
        let o := { o with
          left := o.left - 1, bad := o.bad || c.error
          line := if c.kind = 0 then some c.data else o.line, side := if c.kind = 1 then some c.data else o.side }
        if o.left = 0 then
          (q.updLink h (fun l => { l with cxl := { l.cxl with
            trayOps := dropFirst (fun o => o.tag = c.tag) l.cxl.trayOps } })).cxlTrayEnd l.peerEp o
        else q.updLink h (fun l => { l with cxl := { l.cxl with
          trayOps := updFirst (fun o => o.tag = c.tag) (fun _ => o) l.cxl.trayOps } })) s

end Sys2Proof.Machine
end

