-- ==== Sys2Proof/Machine/Host.lean ====
section
/-! DEFINITION. Machine/Host.lean: the host interface (R466 to R478): takeover, BAR0 and BAR2, manager and event queues,
MSI-X, and progress objects (R463). -/

namespace Sys2Proof.Machine

/-! ### Takeover (R467, R468) -/

/-- The event that reports a command, by opcode and tag, as dropped at a takeover (R468). -/
def Qf.dropEvent (q : Qf) (f : BitVec 8 × BitVec 16) : Qf :=
  q.event 4 Status.flushed.code 0 0 0 (packHi [(8, f.1.toNat), (16, f.2.toNat), (11, 0x7FF), (29, 0)])

/-- The manager code of a command on a queue pair. -/
def qpCode : Nat → BitVec 8
  | 0 => 0x30
  | 1 => 0x34
  | 2 => 0x31
  | _ => 0x32

/-- The manager code of a command on a group. -/
def groupCode : GroupCmd → BitVec 8
  | .arm _ => 0x40
  | .disarm => 0x41
  | .abort _ => 0x42

/-- The commands that have not started: those fetched, and those that wait for their object though no queue holds them. -/
def Qf.unstarted (q : Qf) : List (BitVec 8 × BitVec 16) :=
  let lone (m : MgrRef) : Bool := !q.host.fetched.any (isRef m)
  (q.host.fetched.filter (fun f => !f.started)).map (fun f => (fld f.words 0 8, fld f.words 16 16)) ++
  (q.pool.waiting.filter (fun x => lone x.2.1)).map (fun x => (extCode x.2.2, x.2.1.tag)) ++
  (q.qps.waiting.filter (fun w => lone w.cmd)).map (fun w => (qpCode w.kind, w.cmd.tag)) ++
  (q.cum.later.filter (fun w => lone w.2.1)).map (fun w => (groupCode w.2.2, w.2.1.tag))

/-- A completion that its queue could not take before a takeover becomes an ORPHAN_COMPLETION (R468). -/
def Qf.orphanEvent (q : Qf) (e : BitVec 256) : Qf :=
  q.event 3 (fld e 248 8) 0 0 0 (packHi [(8, (fld e 240 8 : BitVec 8).toNat), (16, (fld e 208 16 : BitVec 16).toNat),
    (11, (fld e 196 11 : BitVec 11).toNat), (29, 0)])

/-- HOST_TAKEOVER (R468): a write of the generation in force makes the writing port active. -/
def execHostTakeover (port : Bool) (value : BitVec 64) (s : State) : Out :=
  done (fun q =>
    if !q.hostOn port || fld value 0 32 != q.host.generation then q
    else
      let late := q.host.mqs.flatMap (fun x => x.2.waiting.map Prod.fst)
      let dropped := q.unstarted
      let off (m : Mq) : Mq := { m with state := .off, waiting := [], fullSince := none, config := m.config &&& ~~~((1 : BitVec 64) <<< 63) }
      let q := { q with
        pool := { q.pool with waiting := [] }, qps := { q.qps with waiting := [] }, cum := { q.cum with later := [] }
        host := { q.host with
        active := some port, generation := q.host.generation + 1
        mqs := q.host.mqs.map (fun x => (x.1, off x.2))
        fetched := q.host.fetched.filter (fun f => f.started) } }
      let q := late.foldl (fun q e => q.orphanEvent e) q
      dropped.foldl (fun q f => q.dropEvent f) q) s

/-! ### Manager queues (R472 to R475) -/

/-- A configuration write: ENABLE always, the other fields only while ENABLE is 0; reserved bits stay 0 and a ring size
beyond 8 is not taken (Table MGMT-13, R6). -/
def cfgWrite (old v keep : BitVec 64) : BitVec 64 :=
  let top : BitVec 64 := 1 <<< 63
  if cfgEnable old then (if cfgEnable v then old else old &&& ~~~top) else v &&& keep

/-- Whether the ring sizes of a configuration are in range. -/
def cfgSizesOk (v : BitVec 64) : Bool := decide ((fld v 59 4 : BitVec 4).toNat ≤ 8) && decide ((fld v 55 4 : BitVec 4).toNat ≤ 8)

/-- MQ_CONFIG: enabling a queue starts it with its rings empty; clearing ENABLE stops it, also from ERROR. -/
def execMqConfig (port : Bool) (queue : BitVec 3) (value : BitVec 64) (s : State) : Out :=
  done (fun q => q.bar0Write port (fun q =>
    let m := q.mq port queue
    let c := cfgWrite m.config value 0xFFFFF80000000000
    if !cfgSizesOk c then q
    else if cfgEnable c && !cfgEnable m.config then
      q.updMq port queue (fun m => { m with
        config := c, state := .running, errorStatus := 0
        cmdProducer := 0, cmdConsumer := 0, cplProducer := 0, cplConsumer := 0 })
    else if cfgEnable c then q
    else q.updMq port queue (fun m => { m with config := c, state := .off, fullSince := none }))) s

/-- MQ_DOORBELL: commands posted and completions consumed. -/
def execMqDoorbell (port : Bool) (queue : BitVec 3) (value : BitVec 64) (s : State) : Out :=
  done (fun q => q.bar0Write port (fun q =>
    let q := q.updMq port queue (fun m => { m with cmdProducer := fld value 48 16, cplConsumer := fld value 32 16 })
    Qf.drainCpl port queue ((q.mq port queue).waiting.length + 1) q)) s

/-- The opcodes of Table MGMT-15. -/
def mgrOpcodes : List (BitVec 8) :=
  [0x01, 0x10, 0x11, 0x12, 0x13, 0x14, 0x15, 0x16, 0x17, 0x20, 0x21, 0x28, 0x30, 0x31, 0x32, 0x33, 0x34,
   0x40, 0x41, 0x42, 0x50, 0x51, 0x52, 0x60, 0x61, 0x62, 0x63]

/-- What names a fetched command. -/
def refOf (f : Fetched) : MgrRef :=
  { port := f.port, queue := f.queue, cmdIndex := f.index, tag := fld f.words 16 16, format := fld f.words 8 4
    notify := f.words.getLsbD 13, generation := f.generation }

/-- COMMAND_FETCH (R472): the active port's next command; a read that fails at the host puts the queue in ERROR.  A command
of no known opcode completes UNSUPPORTED_VERSION. -/
def execCommandFetch (queue : BitVec 3) (command : Option (BitVec 1024)) (s : State) : Out :=
  done (fun q => match q.host.active with
    | none => q
    | some p =>
      let x := q.mq p queue
      if !q.mgrLive || x.state != .running || x.cmdProducer = x.cmdConsumer then q
      else match command with
      | none => q.updMq p queue (fun m => { m with state := .error, errorStatus := Status.linkDown.code })
      | some w =>
        let f : Fetched := { port := p, queue, index := x.cmdConsumer, words := w, generation := q.host.generation }
        let q := q.updMq p queue (fun m => { m with cmdConsumer := m.cmdConsumer + 1 })
        let q := { q with host := { q.host with fetched := q.host.fetched ++ [f] } }
        let op : BitVec 8 := fld w 0 8
        if mgrOpcodes.contains op then q else q.complete (refOf f) op .unsupportedVersion) s

/-- NOP: completes at once. -/
def execNop (m : MgrRef) (s : State) : Out :=
  done (fun q => q.mgr m 0x01 true (fun q => q.complete m 0x01 .ok)) s

/-- COMPLETION_RING_FULL: a completion ring full for 1 s puts its queue in ERROR. -/
def execCompletionRingFull (port : Bool) (queue : BitVec 3) (s : State) : Out :=
  done (fun q =>
    let m := q.mq port queue
    if q.mgrLive && m.state = .running && m.fullSince.any (fun t => decide (t + 1000000000 ≤ q.now)) then
      q.updMq port queue (fun m => { m with state := .error, errorStatus := Status.timeout.code })
    else q) s

/-! ### Events and MSI-X (R476 to R478) -/

/-- EQ_DOORBELL: events consumed. -/
def execEqDoorbell (port : Bool) (value : BitVec 64) (s : State) : Out :=
  done (fun q => q.bar0Write port (fun q =>
    let q := { q with host := { q.host with eqConsumer := setPort q.host.eqConsumer port (fld value 48 16) } }
    Qf.drainEvents (q.host.waitingEvents.length + 1) q)) s

/-- EQ_CONFIG: as MQ_CONFIG. -/
def Qf.setEqConfig (q : Qf) (port : Bool) (v : BitVec 64) : Qf :=
  let old := getPort q.host.eqConfig port 0
  let c := cfgWrite old v 0xF87FF80000000000
  if !cfgSizesOk c then q
  else
    let q := { q with host := { q.host with eqConfig := setPort q.host.eqConfig port c } }
    if cfgEnable c && !cfgEnable old then
      let q := { q with host := { q.host with
        eqProducer := setPort q.host.eqProducer port 0, eqConsumer := setPort q.host.eqConsumer port 0 } }
      Qf.drainEvents (q.host.waitingEvents.length + 1) q
    else q

/-- A write of half an MSI-X table entry; unmasking a pending vector sends its message (R478). -/
def Qf.setMsix (q : Qf) (port : Bool) (n : Nat) (v : BitVec 64) : Qf :=
  let k := msixKey port (n / 2)
  let e := q.host.msix.get k (0, 0, true)
  let e := if n % 2 = 0 then (v &&& ~~~3, e.2) else (e.1, fld v 0 32, v.getLsbD 32)
  let q := { q with host := { q.host with msix := q.host.msix.set k e } }
  if !e.2.2 && q.host.msixPend.contains k then
    { q with host := { q.host with
      msixPend := q.host.msixPend.filter (· != k), messages := q.host.messages ++ [(port, n / 2)] } }
  else q

/-! ### BAR0 (R467, R469, Table MGMT-11) -/

/-- A write of a BAR0 register that has no command of its own; every other offset drops it. -/
def Qf.bar0Reg (q : Qf) (port : Bool) (offset : BitVec 26) (v : BitVec 64) : Qf :=
  let o := offset.toNat
  let addr := v &&& ~~~63
  if o % 8 != 0 then q
  else if 0x2000 ≤ o && o < 0x2200 && (o % 64 = 0 || o % 64 = 8) then
    let k : BitVec 3 := BitVec.ofNat 3 ((o - 0x2000) / 64)
    if cfgEnable (q.mq port k).config then q
    else q.updMq port k (fun m => if o % 64 = 0 then { m with cmdBase := addr } else { m with cplBase := addr })
  else if o = 0x3000 then
    if cfgEnable (getPort q.host.eqConfig port 0) then q
    else { q with host := { q.host with eqBase := setPort q.host.eqBase port addr } }
  else if o = 0x3008 then q.setEqConfig port v
  else if 0x2000000 ≤ o && o < 0x2008000 then q.setMsix port ((o - 0x2000000) / 8) v
  else q

/-- MQ_STATUS. -/
def Mq.status (m : Mq) : BitVec 64 :=
  let st := match m.state with | .off => 0 | .running => 1 | .error => 2
  BitVec.ofNat 64 (packHi [(16, m.cmdConsumer.toNat), (16, m.cplProducer.toNat), (2, st), (8, m.errorStatus.toNat), (22, 0)])

/-- The 64-bit word that a read of BAR0 returns to a port (Tables MGMT-11 to MGMT-13); every other offset reads zero. -/
def Qf.bar0Read (q : Qf) (port : Bool) (offset : BitVec 26) : BitVec 64 :=
  let o := offset.toNat
  if o = 0 then BitVec.ofNat 64 (packHi [(16, 0x0960), (16, Config.siliconRevision.toNat), (32, 1)])
  else if o = 0x08 then BitVec.ofNat 64 (packHi [(1, b2n (q.host.active = some port)), (1, b2n port), (30, 0), (32, q.host.generation.toNat)])
  else if o = 0x18 then q.obs.zenith
  else if o = 0x20 then BitVec.ofNat 64 (packHi [(1, 0), (1, b2n q.sw.previous.isSome), (46, 0), (16, q.part.epoch.toNat)])
  else if o = 0x28 then BitVec.ofNat 64 q.host.dropped
  else if 0x2000 ≤ o && o < 0x2200 then
    let m := q.mq port (BitVec.ofNat 3 ((o - 0x2000) / 64))
    (if o % 64 = 0 then m.cmdBase else if o % 64 = 8 then m.cplBase else if o % 64 = 0x10 then m.config
     else if o % 64 = 0x20 then m.status else 0)
  else if o = 0x3000 then getPort q.host.eqBase port 0
  else if o = 0x3008 then getPort q.host.eqConfig port 0
  else if o = 0x3018 then BitVec.ofNat 64 (packHi [(16, (getPort q.host.eqProducer port 0).toNat), (32, q.host.eventsLost.toNat), (16, 0)])
  else if 0x8000 ≤ o && o < 0x10000 then
    BitVec.ofNat 64 (nfld (q.mgmt.progress.get ((o - 0x8000) / 32) {}).bits.toNat (8 * (o % 32)) 64)
  else if 0x10000 ≤ o && o < 0x18000 then q.edge.records.get ((o - 0x10000) / 8) 0
  else if 0x2000000 ≤ o && o < 0x2008000 then
    let e := q.host.msix.get (msixKey port ((o - 0x2000000) / 16)) (0, 0, true)
    (if o % 16 = 0 then e.1 else BitVec.ofNat 64 (packHi [(31, 0), (1, b2n e.2.2), (32, e.2.1.toNat)]))
  else if 0x2010000 ≤ o && o < 0x2010100 then
    BitVec.ofNat 64 ((List.range 64).foldl (fun a i =>
      a + b2n (q.host.msixPend.contains (msixKey port (8 * (o - 0x2010000) + i))) * 2 ^ i) 0)
  else 0

/-! ### BAR2 (R377, R471, Table MGMT-14) -/

/-- Whether every byte of a range lies in parts that BAR2 reads; a write reaches only the region tables. -/
def bar2Reaches (a n : Nat) (write : Bool) : Bool :=
  decide (0x80000000 ≤ a) && decide (a + n ≤ (if write then 0x280000000 else 0x2C0000000))

/-- A byte of the system area as BAR2 reads it. -/
def Qf.sysRead (q : Qf) (a : Nat) : Byte :=
  if a < 0x280000000 then Mem.get q.sys a
  else if a < 0x281000000 then
    let o := a - 0x280000000
    if o / 16 < 262144 then BitVec.ofNat 8 (nfld (q.extent (BitVec.ofNat 18 (o / 16))).bits.toNat (8 * (o % 16)) 8) else 0
  else
    let recs : List (Nat × VersionRec) := q.ver.recs
    match recs.find? (fun x => let b := Config.versionRecAt (BitVec.ofNat 20 x.1); decide (b ≤ a) && decide (a < b + 128)) with
    | some x => BitVec.ofNat 8 (nfld x.2.bits.toNat (8 * (a - Config.versionRecAt (BitVec.ofNat 20 x.1))) 8)
    | none => Config.sysByte a

/-- The access is refused whole and counted. -/
def Qf.bar2Refuse (q : Qf) : Qf := { q with sec := { q.sec with bar2Refused := q.sec.bar2Refused + 1 } }

/-- BAR2_ACCESS (R36, R377, R467, R471): a read returns bytes, or all ones where it is refused; a write of region-table
bytes invalidates every cached copy of them. -/
def execBar2Access (port : Bool) (offset : BitVec 36) (op : Bar2Op) (s : State) : Out :=
  done (fun q =>
    let a := offset.toNat
    match op with
    | .read n =>
      let answer (q : Qf) (bs : List Byte) : Qf := { q with host := { q.host with readData := bs } }
      if q.dbg.squalled then answer q (List.replicate n 0xFF)
      else if !q.hostOn port then q
      else if bar2Reaches a n false then answer q ((List.range n).map (fun i => q.sysRead (a + i)))
      else answer q.bar2Refuse (List.replicate n 0xFF)
    | .write bs => q.sectorWrite port (fun q =>
      if bar2Reaches a bs.length true then
        let hit (c : RtCache) : Bool :=
          let b := recBase (q.tenantRec c.tenant) + 16 * c.ven.toNat
          decide (b < a + bs.length) && decide (a < b + 16)
        { q with sys := Mem.putAll q.sys a bs, edge := { q.edge with
          cache := q.edge.cache.filter (fun c => !hit c)
          worn := q.edge.worn.filter (fun b => !(decide (b < a + bs.length) && decide (a < b + 16))) } }
      else q.bar2Refuse)) s

/-! ### Progress objects (R463) -/

/-- PROGRESS_FREE: 60 s after its final state was read, or 600 s after the end of its operation where it never was. -/
def execProgressFree (n : BitVec 10) (s : State) : Out :=
  done (fun q => match q.mgmt.progress.find? n.toNat with
    | none => q
    | some p =>
      let due := match p.readFinal, p.ended with
        | some t, _ => decide (t + 60000000000 ≤ q.now)
        | none, some t => decide (t + 600000000000 ≤ q.now)
        | none, none => false
      if due && p.state != 0 then { q with mgmt := { q.mgmt with progress := q.mgmt.progress.del n.toNat } } else q) s

end Sys2Proof.Machine
end

