-- ==== Sys2Proof/Machine/Image.lean ====
section
/-! DEFINITION. Machine/Image.lean: firmware images (R501, R502): their bytes, what makes one valid, and the boot record
(R505). -/

namespace Sys2Proof.Machine

/-- The header's bits (Table BOOT-2). -/
def imageHeader (i : FwImage) : BitVec 512 :=
  BitVec.ofNat 512 (packHi [(32, i.magic.toNat), (4, i.format.toNat), (32, i.version.toNat), (16, i.securityVersion.toNat),
    (32, i.length.toNat), (32, i.configOffset.toNat), (32, i.configLength.toNat), (32, i.settingsOffset.toNat),
    (16, i.settingsEntries.toNat), (8, i.dictRevision.toNat), (276, i.rsvd.toNat)])

/-- The image's bytes, signatures excluded. -/
def imageBytes (i : FwImage) : List Byte := bytesOf 64 (imageHeader i) ++ i.body

/-- The signed configuration. -/
def imageConfig (i : FwImage) : List Byte := slice (imageBytes i) i.configOffset.toNat i.configLength.toNat

/-- Whether both signatures verify under a pair of keys (R501). -/
def imageSigned (keys : List Byte × List Byte) (i : FwImage) : Bool :=
  let d := sha512 (imageBytes i)
  Config.rsaVerify keys.1 d i.rsaSig && Config.mldsaVerify keys.2 d i.mldsaSig

/-- Whether an image's MAGIC, FORMAT, lengths and offsets are good for a slot of 104 MiB (R501, R502). -/
def imageFits (i : FwImage) : Bool :=
  i.magic = 0x45444E51 && i.format = 1 && decide (64 ≤ i.length.toNat) && decide (i.length.toNat + 5139 ≤ 109051904) &&
  i.length.toNat = 64 + i.body.length && decide (i.configOffset.toNat + i.configLength.toNat ≤ i.length.toNat) &&
  decide (i.settingsOffset.toNat ≤ i.length.toNat) && decide (i.settings.length ≤ i.settingsEntries.toNat)

/-- Whether a slot's image is valid (R502). -/
def slotValid (min : BitVec 16) (s : Option FwSlot) : Bool :=
  match s with
  | some x => imageFits x.image && x.sigGood && decide (min.toNat ≤ x.image.securityVersion.toNat)
  | none => false

/-- A slot. -/
def Boot.slot (b : Boot) (isB : Bool) : Option FwSlot := if isB then b.slotB else b.slotA

/-- The running image. -/
def Boot.image (b : Boot) : FwImage := ((b.slot b.activeB).map FwSlot.image).getD {}

/-- The copy of the boot record in force: valid, with the higher sequence number. -/
def Boot.recNo (b : Boot) : Nat :=
  let r0 : BootRec := b.copies.getD 0 default
  let r1 : BootRec := b.copies.getD 1 default
  if !r0.crcGood then 1 else if !r1.crcGood then 0 else if r0.seq < r1.seq then 1 else 0

/-- The boot record in force. -/
def Boot.record (b : Boot) : BootRec := b.copies.getD b.recNo default

/-- Write the boot record: to the other copy, with the sequence number plus one (R505). -/
def Boot.writeRec (b : Boot) (slotB trial : Bool) (boots : Nat) : Boot :=
  { b with copies := b.copies.set (1 - b.recNo) { seq := b.record.seq + 1, slotB, trial, boots, crcGood := true } }

end Sys2Proof.Machine
end

