-- ==== Sys2Proof/Machine/Ensign.lean ====
section
/-! DEFINITION. Machine/Ensign.lean: Ensign, the sealed meter (R431 to R441): meter taps, intervals, signed usage records,
the seal, and the final record at power loss. -/

namespace Sys2Proof.Machine

/-! ### Meter taps (R433, R434) -/

/-- Records that a tap channel holds (Table ARCH-4). -/
def tapDepth : Nat := 16

/-- The accumulators of a sector that are not zero: tenant, quantity and amount. -/
def Ensign.full (e : Ensign) (s : Sector) : List (Nat × Int) :=
  let acc : List (Nat × Int) := e.accum
  acc.filter (fun x => x.1 % 8 = s.toNat && x.2 != 0)

/-- A meter tap record (Table ENS-2). -/
def tapRecord (key : Nat) (v : Int) (now : Nat) : BitVec 256 :=
  BitVec.ofNat 256 (packHi [(12, key / 128), (4, key / 8 % 16), (3, key % 8), (45, 0), (64, (BitVec.ofInt 64 v).toNat), (64, now), (64, 0)])

/-- Send one accumulator to its tap channel; a full channel delays the record, and the count stays in the accumulator (R434). -/
def Qf.tapSend (q : Qf) (s : Sector) (x : Nat × Int) : Qf :=
  if tapDepth ≤ (q.ens.taps.filter (fun t => t.1 = s)).length then
    { q with ens := { q.ens with owed := if q.ens.owed.contains x.1 then q.ens.owed else q.ens.owed ++ [x.1] } }
  else { q with ens := { q.ens with
    taps := q.ens.taps ++ [(s, tapRecord x.1 x.2 q.now)], accum := q.ens.accum.del x.1
    owed := q.ens.owed.filter (fun k => k != x.1) } }

/-- The channel of a sector has room again: the oldest delayed record goes, with what the accumulator holds now (R434). -/
def Qf.tapOwed (q : Qf) (s : Sector) : Qf :=
  match q.ens.owed.find? (fun k => k % 8 = s.toNat) with
  | none => q
  | some k =>
    let v : Int := q.ens.accum.get k 0
    if v = 0 then { q with ens := { q.ens with owed := q.ens.owed.filter (fun x => x != k) } } else q.tapSend s (k, v)

/-- A sector sends a tap record for each accumulator that is not zero. -/
def Qf.tapFlush (q : Qf) (s : Sector) : Qf := (q.ens.full s).foldl (fun q x => q.tapSend s x) q

/-- Multiples of 100 us that have passed. -/
def tapPeriod (now : Nat) : Nat := now / 100000

/-- METER_TAP_FLUSH (R434): once for each multiple of 100 us. -/
def execMeterTapFlush (sector : Sector) (s : State) : Out :=
  done (fun q =>
    if !q.zenithOn || q.dbg.squalled || q.pwr.failState != 0 || q.ens.flushed.get sector.toNat 0 = tapPeriod q.now then q
    else ({ q with ens := { q.ens with flushed := q.ens.flushed.set sector.toNat (tapPeriod q.now) } }).tapFlush sector) s

/-! ### The current interval (R435, R436) -/

/-- Integrate occupancy up to a time (R435). -/
def Usage.upTo (u : Usage) (t : Nat) : Usage :=
  { u with unitNs := List.zipWith (fun n h => n + h.toNat * (t - u.stamp)) u.unitNs u.held, stamp := t }

/-- The place of a quantity among the amounts: codes 0 to 2 and 6 to 9. -/
def amountPlace (quantity : Nat) : Nat := if quantity ≤ 2 then quantity else quantity - 3

/-- A record's value is added: an amount, or a change of what is held (Table ENS-1). -/
def Usage.add (u : Usage) (quantity : Nat) (v : BitVec 64) (t : Nat) : Usage :=
  if 3 ≤ quantity && quantity ≤ 5 then
    let u := u.upTo t
    { u with held := u.held.set (quantity - 3) ((u.held[quantity - 3]?).getD 0 + v.toInt) }
  else { u with amounts := u.amounts.set (amountPlace quantity) ((u.amounts[amountPlace quantity]?).getD 0 + v.toNat) }

/-- The time of a tap record. -/
def tapTime (r : BitVec 256) : Nat := (fld r 64 64).toNat

/-- Take one tap record into the interval. -/
def Ensign.takeTap (e : Ensign) (r : BitVec 256) : Ensign :=
  let t := (fld r 244 12).toNat
  let quantity := (fld r 240 4).toNat
  if 10 ≤ quantity then e
  else { e with usage := e.usage.upd t { stamp := e.start } (fun u => u.add quantity (fld r 128 64) (tapTime r)) }

/-- Take every tap record that falls before a time. -/
def Ensign.takeTaps (e : Ensign) (t : Nat) : Ensign :=
  let now := e.taps.filter (fun x => decide (tapTime x.2 < t))
  now.foldl (fun e x => e.takeTap x.2) { e with taps := e.taps.filter (fun x => decide (t ≤ tapTime x.2)) }

/-- When the interval ends: the next multiple of INTERVAL_LENGTH. -/
def Ensign.intervalEnd (e : Ensign) : Nat := (e.start / max e.interval.toNat 1 + 1) * max e.interval.toNat 1

/-- Whether Ensign takes records: its island is powered, no final record waits, and it does not restart. -/
def Qf.ensignUp (q : Qf) : Bool :=
  q.boot.phase != .off && q.ens.finalArea.isNone && decide (q.ens.restartUntil ≤ q.now)

/-- METER_TAP (R434, R436): the sector's oldest record, where it falls in the current interval. -/
def execMeterTap (sector : Sector) (s : State) : Out :=
  done (fun q =>
    match q.ens.taps.find? (fun x => x.1 = sector) with
    | some x =>
      if q.ensignUp && decide (tapTime x.2 < q.ens.intervalEnd) then
        ({ q with ens := ({ q.ens with taps := dropFirst (fun y => y.1 = sector) q.ens.taps }).takeTap x.2 }).tapOwed sector
      else q
    | none => q) s

/-! ### Usage records (R437, R438) -/

/-- Occupancy in unit-milliseconds, truncated (R435). -/
def Usage.ms (u : Usage) : List Nat := u.unitNs.map (· / 1000000)

/-- Whether a tenant has an entry: a quantity or occupancy that is not zero. -/
def Usage.any (u : Usage) : Bool := u.amounts.any (· != 0) || u.ms.any (· != 0) || u.held.any (· != 0)

/-- A tenant's entry (Table ENS-4). -/
def usageEntry (t : Nat) (u : Usage) : List Byte :=
  let a (k : Nat) : Nat × Nat := (64, (u.amounts[k]?).getD 0)
  let m (k : Nat) : Nat × Nat := (64, (u.ms[k]?).getD 0)
  bytesOf 128 (BitVec.ofNat 1024 (packHi [(12, t), (52, 0), a 0, a 1, a 2, m 0, m 1, m 2, a 3, a 4, a 5, a 6, (320, 0)]))

/-- What stays for the next interval: what is held, and the remainder of a millisecond. -/
def Usage.next (u : Usage) : Usage := { u with amounts := List.replicate 7 0, unitNs := u.unitNs.map (· % 1000000) }

/-- The header (Table ENS-3). -/
def Qf.usageHeader (q : Qf) (flags : BitVec 8) (entries fin : Nat) (energy : BitVec 64) (peak : BitVec 16) : List Byte :=
  let booted := q.part.booted
  let e := q.ens
  bytesOf 128 (BitVec.ofNat 1024 (packHi [(4, 1), (8, flags.toNat + (if booted then 32 else 0)), (13, entries),
    (6, if booted then q.part.id.toNat else 0), (14, if booted then q.part.ep.toNat else 0), (19, 0), (64, e.recordSeq.toNat + 1),
    (64, Config.meterSerial.toNat), (32, e.sealCtr.toNat), (32, e.fwVersion.toNat), (64, e.start), (64, fin), (64, energy.toNat),
    (16, peak.toNat), (32, 0), (512, leNat (slice e.prevDigest 0 64)), (16, 0)]))

/-- Bytes that the log holds. -/
def logBytes (l : List (BitVec 64 × List Byte)) : Nat := (l.map (fun x => x.2.length)).sum

/-- The oldest records are erased until a record of n bytes fits in 32 MiB (R438). -/
def logRoom (n : Nat) : List (BitVec 64 × List Byte) → List (BitVec 64 × List Byte)
  | [] => []
  | x :: xs => if logBytes (x :: xs) + n ≤ 33554432 then x :: xs else logRoom n xs

/-- Write a record to the log, and tell the subscribers of class ENSIGN (Table MGMT-5). -/
def Qf.logRecord (q : Qf) (x : BitVec 64 × List Byte) : Qf :=
  let q := { q with ens := { q.ens with log := logRoom x.2.length q.ens.log ++ [x] } }
  q.sessionEvent 5 (bytesOf 8 x.1)

/-- Ensign's two signatures over some bytes, in the forms of R390. -/
def ensignSign (m : List Byte) : List Byte :=
  let d := sha512 m
  slice (Config.sign 2 d) 0 512 ++ slice (Config.sign 3 d) 0 4627

/-- Close the interval at a time (R436, R437): the usage record, and the block with the next interval begun. -/
def Qf.closeInterval (q : Qf) (fin : Nat) (flags : BitVec 8) : (BitVec 64 × List Byte) × Qf :=
  let e := q.ens.takeTaps fin
  let e := { e with usage := e.usage.map (fun x => (x.1, x.2.upTo fin)) }
  let es := e.usage.filter (fun x => x.2.any)
  let en := q.takeFree
  let pk := en.2.takeFree
  let q := { pk.2 with ens := e }
  let peak := fld pk.1 0 16
  let body := es.flatMap (fun x => usageEntry x.1 x.2)
  let wrapped := 33554432 < logBytes e.log + 128 + body.length + 5139
  let flags := e.flags ||| flags ||| (if wrapped then 16 else 0)
  let m := q.usageHeader flags es.length fin en.1 peak ++ body
  let r := m ++ ensignSign m
  let seq := e.recordSeq + 1
  let e := { e with
    recordSeq := seq, prevDigest := sha512 r, start := fin, flags := 0, lastEnergy := en.1, lastPeak := peak
    usage := (e.usage.map (fun x => (x.1, x.2.next))).filter (fun x => x.2.held.any (· != 0) || x.2.unitNs.any (· != 0)) }
  ((seq, r), { q with ens := e })

/-- Close the interval and log its record. -/
def Qf.endInterval (q : Qf) (fin : Nat) (flags : BitVec 8) : Qf :=
  let x := q.closeInterval fin flags
  x.2.logRecord x.1

/-- INTERVAL_END (R436, R437): at a multiple of INTERVAL_LENGTH. -/
def execIntervalEnd (s : State) : Out :=
  done (fun q =>
    if q.ensignUp && decide (q.ens.intervalEnd ≤ q.now) then q.endInterval q.ens.intervalEnd 0 else q) s

/-- The interval that begins at the present time, whatever Zenith read before. -/
def Qf.beginInterval (q : Qf) : Qf :=
  { q with ens := { q.ens with
    start := q.now, usage := q.ens.usage.map (fun x => (x.1, { x.2 with stamp := q.now }))
    flushed := q.ens.flushed.map (fun x => (x.1, tapPeriod q.now)) } }

/-- The management island corrects the islands' counters: each stands within 2 ns of the master's, at a free value (R16;
log 9). -/
def Qf.timeMessages (q : Qf) : Qf :=
  { q with
    obs := { q.obs with islands := (List.range 48).map (fun k => ((Config.freeValue (q.freeCount + k)).toNat % 5 : Int) - 2) }
    freeCount := q.freeCount + 48 }

/-- The counter of an island (R16). -/
def Qf.islandTime (q : Qf) (k : Nat) : Int := q.now + (q.obs.islands[k]?).getD 0

/-- The counter steps, and the islands' with it (R16): by more than 1 ms ends the interval with TIME_STEP (R436). -/
def Qf.stepClock (q0 : Qf) (z : BitVec 64) : Qf :=
  let q := q0.timeMessages
  let far := 1000000 < z.toNat - q.now || 1000000 < q.now - z.toNat
  if far && q.ensignUp then
    let q := q.endInterval q.now 8
    ({ q with obs := { q.obs with zenith := z } }).beginInterval
  else { q with obs := { q.obs with zenith := z } }

/-! ### The seal (R439) -/

/-- A seal-affecting event: the counter rises by one and the interval closes with SEAL_EVENT. -/
def Qf.sealEvent (q : Qf) : Qf :=
  ({ q with ens := { q.ens with sealCtr := q.ens.sealCtr + 1 } }).endInterval q.now 4

/-- A write of INTERVAL_LENGTH: 1 s to 3,600 s in whole seconds; whether it was taken. -/
def Qf.setInterval (q : Qf) (v : BitVec 64) : Bool × Qf :=
  let n := v.toNat
  if n < 1000000000 || 3600000000000 < n || n % 1000000000 != 0 then (false, q)
  else
    let q := q.sealEvent
    (true, { q with ens := { q.ens with interval := v } })

/-- The metrology authority's keys. -/
def Ensign.authorityKeys (e : Ensign) : List Byte × List Byte :=
  match e.authority with
  | some a => (a.rsa, a.mldsa)
  | none => Config.metrology

/-- An Ensign image goes to the staging area and is verified there: at most 4 MiB, both signatures good (R431, R439). -/
def Qf.ensignStage (q : Qf) (i : FwImage) : Qf :=
  let ok := decide ((imageBytes i).length + 5139 ≤ 4194304) && imageSigned q.ens.authorityKeys i
  { q with ens := { q.ens with staged := if ok then some i else none, stageState := if ok then 1 else 2 } }

/-- Switch to the verified image: one atomic update, then a restart of 50 ms (log 31); whether it was taken. -/
def Qf.ensignActivate (q : Qf) (v : Nat) : Bool × Qf :=
  match q.ens.staged with
  | some i =>
    if v != 1 || q.ens.stageState != 1 then (false, q)
    else
      let q := q.sealEvent
      (true, { q with ens := { q.ens with
        fwVersion := i.version, fwImage := imageBytes i, staged := none, stageState := 0, restartUntil := q.now + 50000000 } })
  | none => (false, q)

/-- A DER certificate at the head of some bytes, and what follows it. -/
def derSplit (bs : List Byte) : Option (List Byte × List Byte) :=
  match bs with
  | 0x30 :: 0x82 :: h :: l :: _ =>
    let n := 4 + 256 * h.toNat + l.toNat
    if n ≤ bs.length then some (bs.take n, bs.drop n) else none
  | _ => none

/-- A pair of certificates, RSA-4096 and ML-DSA-87, at the head of some bytes, and what follows. -/
def pairSplit (bs : List Byte) : Option (AnchorPair × List Byte) :=
  match derSplit bs with
  | some a => (derSplit a.2).map (fun b => ({ rsa := a.1, mldsa := b.1 }, b.2))
  | none => none

/-- Replace the authority's keys: a pair signed by both of the current keys (R439); whether it was taken. -/
def Qf.setAuthority (q : Qf) (bs : List Byte) : Bool × Qf :=
  match pairSplit bs with
  | some x =>
    let d := sha512 (bs.take (bs.length - x.2.length))
    let k := q.ens.authorityKeys
    if x.2.length = 5139 && Config.rsaVerify k.1 d (slice x.2 0 512) && Config.mldsaVerify k.2 d (slice x.2 512 4627) then
      let q := q.sealEvent
      (true, { q with ens := { q.ens with authority := some x.1 } })
    else (false, q)
  | none => (false, q)

/-! ### Reads (R441) -/

/-- The record at a cursor, or the oldest held; and the cursor after it. -/
def Ensign.atCursor (e : Ensign) (c : Nat) : List Byte × Nat :=
  match (e.log.find? (fun x => x.1.toNat = c)).or e.log.head? with
  | some x => (x.2, x.1.toNat + 1)
  | none => ([], c)

/-- LOG_FILL in percent. -/
def Ensign.fill (e : Ensign) : Nat := logBytes e.log * 100 / 33554432

/-! ### Power loss and power-up (R436, R440) -/

/-- The freeze flush of one sector; Ensign drains the channel as it fills, so every record reaches it within 5 us. -/
def Qf.freezeSector (q : Qf) (s : Sector) : Qf :=
  (q.ens.full s).foldl (fun q x => { q with ens := { q.ens with
    taps := q.ens.taps ++ [(s, tapRecord x.1 x.2 q.now)], accum := q.ens.accum.del x.1, owed := [] } }) q

/-- The sectors' freeze flushes (R434, R440). -/
def Qf.freezeFlush (q : Qf) : Qf := (List.range 8).foldl (fun q s => q.freezeSector (BitVec.ofNat 3 s)) q

/-- ENSIGN_FINAL_RECORD (R440): at T0 + 5 us the interval closes with POWER_FAIL, and its record goes to the final area. -/
def execEnsignFinalRecord (s : State) : Out :=
  done (fun q =>
    if q.pwr.failState = 0 || q.ens.finalArea.isSome || q.now < q.pwr.t0 + 5000 then q
    else
      let x := q.closeInterval (q.pwr.t0 + 5000) 2
      { x.2 with ens := { x.2.ens with finalArea := some x.1 } }) s

/-- Ensign's power-up: the final record goes to the log, and the first interval begins with START. -/
def Qf.ensignPowerUp (q : Qf) : Qf :=
  let q := match q.ens.finalArea with
    | some x => ({ q with ens := { q.ens with finalArea := none } }).logRecord x
    | none => q
  { q with ens := { q.ens with
    start := q.now, flags := 1, usage := [], accum := [], owed := [], taps := [], flushed := [], restartUntil := 0
    staged := none, stageState := 0 } }

end Sys2Proof.Machine
end

