-- ==== Sys2Proof/Machine/Restart.lean ====
section
/-! DEFINITION. Machine/Restart.lean: power-up, reset and the boot firmware (R503 to R506, R525, R526): what outlives a
reset and a power loss, secure boot, and the choice of a slot. -/

namespace Sys2Proof.Machine

/-! ### What outlives power loss: the flash of R499 and Ensign's array (R431) -/

/-- Bring-up's part of the flash: the boot record, both slots, MIN_SECURITY_VERSION and the settings. -/
def Boot.flash (b : Boot) : Boot :=
  { bootGood := b.bootGood, copies := b.copies, slotA := b.slotA, slotB := b.slotB, minSecurity := b.minSecurity, settings := b.settings }

/-- The block after power was off: everything at its reset value but the flash and Ensign's array. -/
def Qf.powerOff (q : Qf) : Qf :=
  { boot := q.boot.flash
    pwr := { lastDrainTime := q.pwr.lastDrainTime, lastDrainBytes := q.pwr.lastDrainBytes, resetLow := q.pwr.resetLow
             perst := q.pwr.perst }
    ens := { q.ens with usage := [], accum := [], owed := [], taps := [], flushed := [], restartUntil := 0, staged := none, stageState := 0 }
    mgmt := { owner := q.mgmt.owner }
    freeCount := q.freeCount }

/-! ### What outlives a reset: besides, the always-on domains and the counters (R486, R525) -/

/-- A link's counters. -/
def Link.counters (l : Link) : Link := { cnt := { l.cnt with flaps := [], lastDown := l.cnt.lastDown } }

/-- A sampler's counters. -/
def Sampler.counters (x : Sampler) : Sampler := { taken := x.taken, dropped := x.dropped }

/-- Every counter, in a block that is otherwise as another says (R486: nothing resets a counter but power-up), and the
management island's rings (log 32). -/
def Qf.keepCounters (o n : Qf) : Qf :=
  { n with
    links := o.links.map (fun x => (x.1, x.2.counters))
    home := { n.home with evictions := o.home.evictions, reasmCleared := o.home.reasmCleared }
    qps := { n.qps with ctxMisses := o.qps.ctxMisses, duplicates := o.qps.duplicates
                        retransmissions := o.qps.retransmissions, doorbellRefused := o.qps.doorbellRefused }
    cum := { n.cum with completed := o.cum.completed, aborted := o.cum.aborted, nonfinite := o.cum.nonfinite, stale := o.cum.stale }
    eng := { n.eng with
      gCompleted := o.eng.gCompleted, gPartial := o.eng.gPartial, gLaunched := o.eng.gLaunched, gWon := o.eng.gWon
      sCompleted := o.eng.sCompleted, sPartial := o.eng.sPartial, sLaunched := o.eng.sLaunched, sWon := o.eng.sWon
      sAppends := o.eng.sAppends, frbEncodes := o.eng.frbEncodes, frbEncoded := o.eng.frbEncoded
      frbCoarsened := o.eng.frbCoarsened, frbExpanded := o.eng.frbExpanded, frbMalformed := o.eng.frbMalformed
      frbLoads := o.eng.frbLoads, mMacs := o.eng.mMacs, mRows := o.eng.mRows, mNan := o.eng.mNan
      mSelects := o.eng.mSelects, mPartial := o.eng.mPartial }
    sw := { n.sw with
      noRoute := o.sw.noRoute, epochMisses := o.sw.epochMisses, cellErrors := o.sw.cellErrors, purged := o.sw.purged
      reasmRetries := o.sw.reasmRetries, samplers := o.sw.samplers.map (fun x => (x.1, x.2.counters)) }
    sched := { n.sched with
      egress := o.sched.egress.map (fun x => (x.1, { takeovers := x.2.takeovers }))
      policers := o.sched.policers.map (fun x => (x.1, { heldTime := x.2.heldTime })) }
    sec := { n.sec with
      macFailures := o.sec.macFailures, keyRefusals := o.sec.keyRefusals, deadlinesMissed := o.sec.deadlinesMissed
      removalPurged := o.sec.removalPurged, bar2Refused := o.sec.bar2Refused }
    flt := { n.flt with
      seq := o.flt.seq, lost := o.flt.lost, ring := o.flt.ring, fences := o.flt.fences, lostSnoops := o.flt.lostSnoops, corrected := o.flt.corrected }
    mgmt := { n.mgmt with violations := o.mgmt.violations, violationsLost := o.mgmt.violationsLost }
    host := { n.host with dropped := o.host.dropped, eventsLost := o.host.eventsLost }
    obs := { n.obs with steps := o.obs.steps, leads := o.obs.leads, pageFails := o.obs.pageFails }
    pwr := { n.pwr with throttleTime := o.pwr.throttleTime }
    dbg := { n.dbg with counts := o.dbg.counts } }

/-- Ensign as a reset finds it: the sectors' accumulators are flushed to it, and nothing is held any more (log 32). -/
def Qf.ensignReset (q : Qf) : Qf :=
  if q.ens.finalArea.isSome then q.ensignPowerUp
  else
  let q := q.freezeFlush
  let e := q.ens.takeTaps (q.now + 1)
  let u : Tbl Usage := e.usage
  { q with ens := { e with flushed := [], usage := u.map (fun x => (x.1, { x.2.upTo q.now with held := [0, 0, 0] })) } }

/-- The block while it is held in reset (R525): links down, every switchable domain off; the always-on domains keep Zenith,
DRK and the enrolments (R392), and Ensign runs on. -/
def Qf.wholeReset (q : Qf) : Qf :=
  let q := q.ensignReset
  let n : Qf :=
    { boot := { q.boot.flash with phase := .holding }
      obs := { zenith := q.obs.zenith }
      pwr := { inputUp := q.pwr.inputUp, resetLow := q.pwr.resetLow, perst := q.pwr.perst
               lastDrainTime := q.pwr.lastDrainTime, lastDrainBytes := q.pwr.lastDrainBytes }
      sec := { drk := q.sec.drk, identity := q.sec.identity, enrol := q.sec.enrol
               debugState := if q.sec.debugState = 0 then 0 else 2 }
      ens := q.ens
      mgmt := { owner := q.mgmt.owner }
      freeCount := q.freeCount }
  q.keepCounters n

/-! ### Secure boot (R503 to R506) -/

/-- The boot firmware chooses a slot (R505): the record it leaves and the slot, none where neither is valid. -/
def Boot.chooseSlot (b : Boot) : Option Bool × Boot :=
  let r := b.record
  let x : Bool × Boot :=
    if r.trial then
      (if 3 ≤ r.boots then (!r.slotB, b.writeRec (!r.slotB) false 0)
       else (r.slotB, b.writeRec r.slotB true (r.boots + 1)))
    else (r.slotB, b)
  if slotValid b.minSecurity (x.2.slot x.1) then (some x.1, x.2)
  else if slotValid b.minSecurity (x.2.slot (!x.1)) then (some (!x.1), x.2.writeRec (!x.1) false 0)
  else (none, x.2)

/-- Steps 2 and 3 of R503: the boot firmware is verified, and it verifies a slot's image.  A failure leaves every
switchable domain off, with a SECURITY fault (R504). -/
def Qf.secureBoot (q : Qf) : Qf :=
  if !q.boot.bootGood then
    ({ q with boot := { q.boot with phase := .secFail }, sec := { q.sec with identity := false, drk := [] } }).fault 12
      { unit := 12 }
  else
    let x := q.boot.chooseSlot
    match x.1 with
    | none => { q with boot := { x.2 with phase := .imageInvalid, activeB := x.2.record.slotB } }
    | some s => { q with boot := { x.2 with phase := .holding, activeB := s, trial := x.2.record.trial } }

/-- R503 from its first step: the security root forms DRK (R378), Ensign's island comes up, and secure boot runs. -/
def Qf.coldStart (q : Qf) : Qf :=
  let n := q.powerOff
  let n := { n with pwr := { n.pwr with inputUp := true }, boot := { n.boot with phase := .holding } }
  let n := n.ensignPowerUp
  let n := { n with sec := { n.sec with drk := deviceRootKey, identity := true } }
  if n.pwr.resetLow then n else n.secureBoot

/-- POWER_UP (R503, R526): the 48 V input rises above 42 V.  A block whose always-on domains are off starts; one that is
HALTED stays so until a reset (R429), and so does a running one. -/
def execPowerUp (s : State) : Out :=
  done (fun q =>
    if q.boot.phase = .off then q.coldStart
    else { q with pwr := { q.pwr with inputUp := true } }) s

/-- INPUT_LOSS (R526): below 30 V every domain is off. -/
def execInputLoss (s : State) : Out := done (fun q => q.powerOff) s

/-- RESET_N (R525): low is a reset, high lets R503 run from step 2.  While DRAINING it takes effect once HALTED; a HALTED
block starts again only with its input above 42 V. -/
def execResetN (low : Bool) (s : State) : Out :=
  done (fun q =>
    if low then
      let q := { q with pwr := { q.pwr with resetLow := true } }
      if q.boot.phase = .off || q.boot.phase = .secFail then q
      else if q.pwr.failState = 1 then { q with pwr := { q.pwr with resetHeld := true } }
      else if q.pwr.failState = 2 && !q.pwr.inputUp then q
      else q.wholeReset
    else if !q.pwr.resetLow then q
    else
      let q := { q with pwr := { q.pwr with resetLow := false } }
      if q.boot.phase = .holding && q.pwr.failState = 0 then q.secureBoot else q) s

/-- A reset that was asserted while DRAINING takes effect in HALTED (R525). -/
def Qf.heldReset (q : Qf) : Qf :=
  if !q.pwr.resetHeld || !q.pwr.inputUp then q
  else
    let q := q.wholeReset
    if q.pwr.resetLow then q else q.secureBoot

/-- SELF_RESET (R518): 100 ms after the commit the links go down and the block resets itself. -/
def execSelfReset (s : State) : Out :=
  done (fun q => match q.boot.resetAt with
    | some t => if t ≤ q.now then q.wholeReset.secureBoot else q
    | none => q) s

/-- STATUS_N driven low (R524): the state of R504, a thermal shutdown or HALTED. -/
def Qf.statusLow (q : Qf) : Bool := q.boot.phase = .secFail || q.pwr.thermal = 2 || q.pwr.failState = 2

end Sys2Proof.Machine
end

