-- ==== Sys2Proof/Machine/Switch.lean ====
section
/-! DEFINITION. Machine/Switch.lean: the switch core and its egress schedulers (R329 to R333, R339 to R346, R354 to R356,
R359 to R373): admission, departure, route banks, purges, samplers, shapers, policers and time gates. -/

namespace Sys2Proof.Machine

/-! ### Admission (R332, R333) -/

/-- The outputs of a stalled packet. -/
def Qf.outsOf (q : Qf) (u : UnitPkt) : List Ingress :=
  match u.outs with
  | some hs => (hs.filter (fun h => (q.link h).live && !(q.link h).fence)).map Ingress.half
  | none => (q.route u.pkt).toList

/-- Admit the first packet that stalls at an input on a channel. -/
def Qf.admitStalled (q : Qf) (i : Ingress) (vc : BitVec 3) : Qf :=
  let isIt (u : UnitPkt) : Bool := u.inp = i && u.pkt.vc = vc
  match q.sw.stalled.find? isIt with
  | none => q
  | some u =>
    let outs := q.outsOf u
    let drop (q : Qf) : Qf := { q with sw := { q.sw with stalled := dropFirst isIt q.sw.stalled } }
    if outs = [] then
      (if u.outs.isNone then (drop q).noWay i u.pkt else (drop q).noRoute)
    else if q.accepts i u.pkt outs then (drop q).enqueue i outs u.pkt else q

/-- The first packet staged on a channel that only passes through: not one for this QF960's units, nor a client's
request or its response, nor one that a group, a combined group or the management island takes. -/
def Qf.stagedTransit (q : Qf) (h : HalfPort) (vc : BitVec 3) : Option Packet :=
  match (q.link h).rx.staged.find? (fun p => p.vc = vc) with
  | some p =>
    let answers := (vc = 1 || vc = 3) && ((q.clientHalf p.destEp).isSome || q.home.combines.any (fun c => c.is p.destEp p.tag))
    if p.destEp = q.ownEp || vc = 4 || vc = 5 || (q.atEdge (.half h) && vc = 0) || answers then none else some p
  | none => none

/-- PACKET_ADMIT (R332): the head of a channel's staging, or of a stalled unit, is admitted where the conditions
hold. -/
def execPacketAdmit (i : Ingress) (vc : BitVec 3) (s : State) : Out :=
  done (fun q =>
    if !q.inService && !(q.running && q.pwr.failState = 1) then q
    else if q.sw.stalled.any (fun u => u.inp = i && u.pkt.vc = vc) then q.admitStalled i vc
    else match i with
    | .half h =>
      (match q.stagedTransit h vc with
       | none => q
       | some p =>
         (match q.route p with
          | some o =>
            if !q.accepts i p [o] then q
            else
              let r := (q.take i p).readCells
              if r.1 then r.2.badCells i p
              else
                let c := if vc = 0 then r.2.combine i p else (true, r.2)
                if c.1 then c.2.transit i p else c.2
          | none => (q.take i p).transit i p))
    | _ => q) s

/-! ### Time gates (R370 to R373) -/

/-- GATE_ENTRY_CHANGE (R371): the entry in force follows from the list, its start and Zenith, so nothing is stored. -/
def execGateEntryChange (_h : HalfPort) (s : State) : Out := done (fun q => q) s

/-- GATE_TAKEOVER (R373): the armed list becomes active. -/
def execGateTakeover (h : HalfPort) (s : State) : Out :=
  done (fun q => match (q.egress h).armed with
    | some a =>
      if q.running && decide (a.2.2 ≤ q.now) then
        q.updEgress h (fun e => { e with
          gates := a.1, gateCycle := BitVec.ofNat 64 a.2.1, gateStart := a.2.2, armed := none, pendState := 0
          pendList := [], pendEntries := 0, pendCycle := 0, takeovers := e.takeovers + 1 })
      else q
    | none => q) s

/-- Arm the pending list, or refuse it (R373); whether it was armed. -/
def Qf.armGate (q : Qf) (h : HalfPort) : Bool × Qf :=
  let e := q.egress h
  let n := e.pendEntries.toNat
  let l := e.pendList.take n
  let bad := decide (e.takeover.toNat < q.now + 1000) || l.any (fun x => fld x 0 32 = (0 : BitVec 32)) ||
    decide (256 < n) || decide (e.pendList.length < n) || (n != 0 && e.pendCycle = 0)
  if bad then (false, q.updEgress h (fun e => { e with pendState := if e.armed.isSome then e.pendState else 2 }))
  else (true, q.updEgress h (fun e => { e with
    pendState := 1, armed := some (l, e.pendCycle.toNat, e.takeover.toNat) }))

/-! ### Choosing and sending the next packet (R331, R360 to R364) -/

/-- Fail or discard what is queued for a half-port and its link's version lacks (R309). -/
def Qf.dropUnversioned (q : Qf) (h : HalfPort) : Qf :=
  let v := (q.link h).version
  (q.sw.queue.filter (fun e => e.out = .half h && !versionHas v e.pkt)).foldl (fun q e =>
    let q := q.dequeue (· = e)
    if e.pkt.vc = 0 then (q.refusedPkt h .unsupportedVersion).sendFail e.inp e.pkt .unsupportedVersion else q.discard h .unsupportedVersion) q

/-- Note since when the first packet of each channel has waited for credits (R355). -/
def Qf.noteWaits (q : Qf) (h : HalfPort) : Qf :=
  (List.range 6).foldl (fun q v =>
    let isIt (e : QPkt) : Bool := e.out = .half h && e.pkt.vc.toNat = v
    match q.sw.queue.find? isIt with
    | none => q
    | some e =>
      let blocked := (q.link h).profile != 3 && ((q.link h).tx.spend e.pkt).isNone
      let mark (e : QPkt) : QPkt := { e with
        waitSince := if !blocked then none
          else if e.waitSince.isSome then e.waitSince else some q.now }
      { q with sw := { q.sw with queue := updFirst isIt mark q.sw.queue } }) q

/-- A chosen packet leaves, unless its cells cannot be read (R357). -/
def Qf.depart (q : Qf) (h : HalfPort) (c : Nat) (x : QPkt) : Qf :=
  let p := x.pkt
  let q := (q.dequeue (fun e => e.out = x.out && e.inp = x.inp && e.pkt = p)).tookTurn h c x
  let r := q.readCells
  if r.1 then r.2.badCells x.inp p
  else ((r.2.chargeEgress h c p.length).sample true h x.inp (some (.half h)) false p).transmit h p

/-- PACKET_DEPART (R362): the scheduler sends the next eligible packet. -/
def execPacketDepart (h : HalfPort) (s : State) : Out :=
  done (fun q =>
    if !(q.running && (q.link h).state = .active) then q
    else
      let q := q.dropUnversioned h
      let x := q.choose h
      match x.1 with
      | some y => ((q.updEgress h (fun _ => x.2)).depart h y.1 y.2).noteWaits h
      | none => q.noteWaits h) s

/-- STUCK_QUEUE (R355): a head packet has waited for credits past STUCK_WATCH_TIME; a QF960 that it waits for comes under
suspicion (R415). -/
def execStuckQueue (h : HalfPort) (vc : BitVec 3) (s : State) : Out :=
  done (fun q =>
    if !q.running then q
    else
      let q := q.noteWaits h
      match q.sw.queue.find? (fun e => e.out = .half h && e.pkt.vc = vc) with
      | none => q
      | some e =>
        match e.waitSince with
        | some t =>
          if decide (t + q.sw.stuckTime.toNat ≤ q.now) && !q.sw.stuck.contains (h, vc) then
            let l := q.link h
            let q := ({ q with sw := { q.sw with stuck := q.sw.stuck ++ [(h, vc)] } }).fault 6
              { sector := halfSector h, half := h, peer := l.peerEp, detail := vc.zeroExtend 16 }
            if l.peerQf then q.suspect l.peerEp 3 else q
          else q
        | none => q) s

/-- Discard everything queued for a half-port on a channel (R356). -/
def Qf.purgeQueue (q : Qf) (h : HalfPort) (vc : BitVec 3) : Qf :=
  let mine := q.sw.queue.filter (fun e => e.out = .half h && e.pkt.vc = vc)
  let q := mine.foldl (fun q e => q.dequeue (fun x => x.out = e.out && x.pkt.vc = vc)) q
  { q with sw := { q.sw with
    purged := q.sw.purged.upd h.toNat 0 (· + mine.length)
    stuck := q.sw.stuck.filter (fun z => !(z.1 = h && z.2 = vc)) } }

/-! ### Policers and samplers -/

/-- Launch a tenant's held engine packets while its policer lets them through. -/
def Qf.releasePoliced : Nat → Tenant → Qf → Qf
  | 0, _, q => q
  | k + 1, t, q =>
    match q.sched.held.find? (fun h => h.sent.tenant = t) with
    | none => q
    | some h =>
      if !q.policeOpen t then q
      else
        let q := { q with sched := { q.sched with held := dropFirst (fun x => x.sent.tenant = t) q.sched.held } }
        Qf.releasePoliced k t (q.launch h)

/-- POLICER_RELEASE (R368): the tokens have reached zero, and held packets go. -/
def execPolicerRelease (t : Tenant) (s : State) : Out :=
  done (fun q =>
    if !(q.inService && q.policeOpen t) then q
    else
      let q := q.releasePoliced q.sched.held.length t
      if q.sched.held.any (fun h => h.sent.tenant = t) then q
      else q.updPolicer t (fun p => match p.heldSince with
        | some x => { p with heldSince := none, heldTime := p.heldTime + (q.now - x) }
        | none => p)) s

/-- A write of N restarts a sampler's count (R350). -/
def Qf.setSampler (q : Qf) (k : Nat) (n : BitVec 16) : Qf :=
  { q with sw := { q.sw with samplers := q.sw.samplers.upd k {} (fun x => { x with n, count := 0 }) } }

/-! ### Route banks (R337, R338, R344 to R346) -/

/-- Whether a route entry has its reserved bits zero (R6). -/
def routeOk (e : BitVec 64) : Bool := fld e 0 45 = (0 : BitVec 45)

/-- Whether a group entry has its reserved bits and unused members zero (R338). -/
def groupOk (g : BitVec 128) : Bool :=
  fld g 96 28 = (0 : BitVec 28) &&
  (List.range 16).all (fun i => decide (i ≤ (fld g 124 4 : BitVec 4).toNat) || fld g (6 * i) 6 = (0 : BitVec 6))

/-- Write entries into a table from an index; zero entries are not listed. -/
def writeTable {w : Nat} (t : Tbl (BitVec w)) : Nat → List (BitVec w) → Tbl (BitVec w)
  | _, [] => t
  | i, e :: es => writeTable (if e = 0 then t.del i else t.set i e) (i + 1) es

/-- ROUTE_WRITE (R344): entries of the pending bank. -/
def execRouteWrite (m : MgrRef) (first count : BitVec 16) (entries : List (BitVec 64)) (s : State) : Out :=
  done (fun q => q.mgr m 0x20 (decide (first.toNat + count.toNat ≤ 16384) && entries.length = count.toNat &&
      entries.all routeOk)
    (fun q =>
      let b := q.sw.pending
      ({ q with sw := { q.sw with pending := { b with routes := writeTable b.routes first.toNat entries } } }).complete
        m 0x20 .ok)) s

/-- GROUP_WRITE (R344): groups of the pending bank. -/
def execGroupWrite (m : MgrRef) (first count : BitVec 16) (entries : List (BitVec 128)) (s : State) : Out :=
  done (fun q => q.mgr m 0x21 (decide (first.toNat + count.toNat ≤ 1024) && entries.length = count.toNat &&
      entries.all groupOk)
    (fun q =>
      let b := q.sw.pending
      ({ q with sw := { q.sw with pending := { b with groups := writeTable b.groups first.toNat entries } } }).complete
        m 0x21 .ok)) s

/-- ROUTE_BANK_EMPTY (R346): 1 ms after its own advance a switch empties its previous bank. -/
def execRouteBankEmpty (s : State) : Out :=
  done (fun q => if q.running && q.sw.previous.isSome && decide (q.sw.prevSince + 1000000 ≤ q.now) then
    { q with sw := { q.sw with previous := none } } else q) s

end Sys2Proof.Machine
end

