-- ==== Sys2Proof/Machine/Faults.lean ====
section
/-! DEFINITION. Machine/Faults.lean: Faults, Containment and Power Loss (R404 to R430): the fence messages, LINE_CLEAR,
watchdogs, unit faults and the power-fail sequence. -/

namespace Sys2Proof.Machine

/-! ### Heartbeats (R415) -/

/-- Where a packet that has arrived waits. -/
def Qf.stagedAt (q : Qf) (p : Packet) : Option HalfPort :=
  allHalves.find? (fun h => (q.link h).rx.staged.contains p)

/-- Take the first staged packet of an opcode. -/
def Qf.takeOp (q : Qf) (h : HalfPort) (o : BitVec 8) : Qf :=
  match (q.link h).rx.staged.find? (fun p => p.opcode = o) with
  | some p => q.take (.half h) p
  | none => q

/-- FAULT_HEARTBEAT (R415): the neighbour is heard, and is a suspect no more where no evidence is left. -/
def execFaultHeartbeat (h : HalfPort) (s : State) : Out :=
  done (fun q =>
    let l := q.link h
    if !(q.inService && l.live && l.peerQf) then q
    else
      let q := q.takeOp h Opc.heartbeat
      let q := { q with flt := { q.flt with heard := q.flt.heard.set l.peerEp.toNat q.now } }
      if q.suspects l.peerEp then q
      else { q with flt := { q.flt with suspected := q.flt.suspected.filter (· != l.peerEp) } }) s

/-- HEARTBEAT_SEND (R415): one on every link to a QF960, each HEARTBEAT_INTERVAL. -/
def execHeartbeatSend (s : State) : Out :=
  done (fun q =>
    if !q.inService || decide (q.now < q.flt.lastBeat + q.flt.heartbeat.toNat) then q
    else
      let q := { q with flt := { q.flt with lastBeat := q.now } }
      q.qfNeighbours.foldl (fun q h => q.sendOn .mgmt h (q.mgt Opc.heartbeat (q.link h).peerEp [])) q) s

/-- SILENT_NEIGHBOUR (R415): no heartbeat for five intervals. -/
def execSilentNeighbour (ep : Ep) (s : State) : Out :=
  done (fun q => if q.inService && q.isNeighbour ep && q.isSilent ep then q.suspect ep 2 else q) s

/-! ### The fence protocol (R416 to R419) -/

/-- A flooded fence message arrives: one not yet seen is forwarded, and has its effect. -/
def Qf.onFence (q : Qf) (h : HalfPort) (p : Packet) (f : Ep → Qf → Qf) : Qf :=
  if !(q.inService && (q.link h).peerQf) then q
  else
    let q := q.take (.half h) p
    let x := fenceSuspect p.payload
    if q.seenFence p.opcode x p.srcEp then q
    else f x ((q.noteFence p.opcode x p.srcEp).flood p.opcode p.srcEp p.payload (some h))

/-- FENCE_PROPOSE (R417): a neighbour of the suspect opens its vote; a proposal from a higher endpoint gives way. -/
def execFencePropose (h : HalfPort) (p : Packet) (s : State) : Out :=
  done (fun q => q.onFence h p (fun x q =>
    let by_ := p.srcEp
    let mine := q.flt.proposals.any (fun y => y.is x q.ownEp)
    if x = q.ownEp || !q.isNeighbour x || by_ = q.ownEp || (mine && decide (q.ownEp.toNat < by_.toNat)) then q
    else
      let q := if mine then
          let q := q.floodFence Opc.fenceAbandon x 0
          { q with flt := { q.flt with proposals := q.flt.proposals.filter (fun y => !y.is x q.ownEp) } }
        else q
      let new : Proposal := { suspect := x, proposer := by_, opened := q.now, evidence := BitVec.ofNat 4 (fenceUp p.payload) }
      let q := { q with flt := { q.flt with
        proposals := (q.flt.proposals.filter (fun y => !y.is x by_)) ++ [new] } }
      if q.flt.mode != 0 && q.suspects x then
        (q.updProposal x by_ (fun y => { y with voted := true })).vote x by_ true
      else q)) s

/-- FENCE_VOTE (R417): the proposer counts yes votes of distinct neighbours and commits on a majority. -/
def execFenceVote (p : Packet) (s : State) : Out :=
  done (fun q =>
    if !q.inService then q
    else if p.destEp != q.ownEp then
      (match q.stagedAt p with | some h => q.transit (.half h) p | none => q)
    else
      let q := match q.stagedAt p with | some h => q.take (.half h) p | none => q
      let x := fenceSuspect p.payload
      match q.flt.proposals.find? (fun y => y.is x q.ownEp) with
      | some y =>
        if fenceUp p.payload % 2 = 1 && !y.votes.contains p.srcEp && p.srcEp != x && decide (q.now ≤ y.opened + 1000000) then
          (q.updProposal x q.ownEp (fun y => { y with votes := y.votes ++ [p.srcEp] })).tally x
        else q
      | none => q) s

/-- FENCE_VOTE_WINDOW (R417): a proposal's window ends: a vote not yet cast is no, and a proposer without a majority
abandons. -/
def execFenceVoteWindow (suspect proposer : Ep) (s : State) : Out :=
  done (fun q =>
    match q.flt.proposals.find? (fun y => y.is suspect proposer) with
    | some y =>
      if !q.inService || decide (q.now < y.opened + 1000000) then q
      else
        let q := { q with flt := { q.flt with proposals := q.flt.proposals.filter (fun y => !y.is suspect proposer) } }
        if proposer = q.ownEp then q.floodFence Opc.fenceAbandon suspect 0
        else if !y.voted then q.vote suspect proposer false
        else q
    | none => q) s

/-- FENCE_COMMIT (R418). -/
def execFenceCommit (h : HalfPort) (p : Packet) (s : State) : Out :=
  done (fun q => q.onFence h p (fun x q => q.applyCommit x (decide (fenceUp p.payload % 2 = 1)) (fun _ => false))) s

/-- FENCE_ABANDON (R417): the proposal is over. -/
def execFenceAbandon (h : HalfPort) (p : Packet) (s : State) : Out :=
  done (fun q => q.onFence h p (fun x q =>
    { q with flt := { q.flt with proposals := q.flt.proposals.filter (fun y => !y.is x p.srcEp) } })) s

/-! ### What the fault manager writes -/

/-- LINE_CLEAR (R411): the endpoint leaves the directory entry of a line that a snoop timeout left blocked, its snoop counts
as answered SNP_RSP_I, and the line is unblocked. -/
def Qf.lineClear (q : Qf) (a : Ppa) (ep : Ep) : Qf :=
  let n := lineNo a
  match q.lineQ n with
  | some b =>
    if b.stuck then (((q.dropHolder n ep).updLine n (fun b => { b with stuck := false })).release n).settle
    else q
  | none => q

/-- Lines held by a snoop timeout. -/
def Qf.linesStuck (q : Qf) : Nat := (q.home.lines.filter (fun x => x.2.stuck)).length

/-- A new backup is named (R421): it is sent every ownership record. -/
def Qf.setBackup (q : Qf) (v : BitVec 16) : Qf :=
  let q := { q with qps := { q.qps with backupEp := v } }
  if v = 0xFFFF then q
  else
    let own : List (Nat × OwnRec) := q.qps.own
    own.foldl (fun q x => q.mirror (BitVec.ofNat 30 x.1)) q

/-! ### Watchdogs and unit faults (R405, R408) -/

/-- A sector controller core restarts (R408): its running pipelines fail. -/
def Qf.restartSector (q : Qf) (c : Sector) (st : BitVec 8) : Qf :=
  (q.eng.jobs.filter (fun j => j.sector = c && j.started)).foldl (fun q j => q.pipeFail j.pair j.wrIndex { status := st }) q

/-- A management core restarts (R408, R442): the sessions that it served end, and the other core serves every new one. -/
def Qf.restartMgmt (q : Qf) (c : Bool) : Qf :=
  let q := q.endSessions (fun x => x.core = c)
  { q with mgmt := { q.mgmt with nextCore := !c } }

/-- WATCHDOG (R408): a sector controller's pipelines fail with TIMEOUT; a management core's sessions end. -/
def execWatchdog (core : WdCore) (s : State) : Out :=
  done (fun q =>
    if !q.running then q
    else match core with
    | .sector c => (q.fault 7 { sector := c, unit := 8, status := Status.timeout.code }).restartSector c Status.timeout.code
    | .mgmt c => (q.fault 7 { unit := 9, detail := BitVec.ofNat 16 (b2n c) }).restartMgmt c) s

/-- The stored packets with a cell in a buffer slice: they are not forwarded, as if their cells could not be read (R357). -/
def Qf.failSlice (q : Qf) (s : Sector) : Qf :=
  let hit (e : QPkt) : Bool := decide (0 < (e.place[s.toNat]?).getD 0)
  let out := q.sw.queue.filter hit
  let q := out.foldl (fun q e => q.freeCells e) { q with sw := { q.sw with queue := q.sw.queue.filter (fun e => !hit e) } }
  out.foldl (fun q e => q.badCells e.inp e.pkt) q

/-- The requests that a sector's home logic is working on fail (R405). -/
def Qf.failHome (q : Qf) (s : Sector) : Qf :=
  let at_ := (q.home.lines.map Prod.fst).filter (fun i => q.sectorOf (BitVec.ofNat 40 i) = s)
  (at_.foldl (fun q i =>
    let n : LineNo := BitVec.ofNat 40 i
    match (q.lineQ n).bind BlockedLine.txn with
    | some t => q.failTxn n t .uncorrectable
    | none => q) q).settle

/-- The operations that run in a unit fail (R143, R183, R211, R405, R412).  Between two commands nothing stands in a switch
slice or a memory controller (log 151). -/
def Qf.failUnit (q : Qf) (s : Sector) (unit index : BitVec 4) : Qf :=
  let bad := Status.uncorrectable.code
  if unit = 1 then q.failSlice s
  else if unit = 2 then q.failHome s
  else if unit = 8 then q.restartSector s bad
  else if unit = 9 then q.restartMgmt (index.getLsbD 0)
  else if unit.toNat < 4 || 7 < unit.toNat then q
  else if unit = 4 then q.colSlotLost s
  else if unit = 7 then
    let ks := (q.qps.qps.map Prod.fst).filter (fun n => n % 8 = s.toNat && n / 8 % 16 = index.toNat)
    ks.foldl (fun q n =>
      let x := q.qp (BitVec.ofNat 30 n)
      if x.ctx.state = .ready && x.work.any (fun w => w.inEngine) then q.qpError (BitVec.ofNat 30 n) bad
      else q) q
  else
    let d := 5 * s.toNat + unit.toNat - 3
    let js := q.eng.jobs.filter (fun j => j.sector = s && j.started && (pipeDomains j).contains d)
    let q := js.foldl (fun q j => q.pipeFail j.pair j.wrIndex { status := bad }) q
    if unit = 5 then q
    else
      let q := (q.eng.shards.filter (fun j => j.sector = s && j.started)).foldl (fun q j => q.shardEnd j bad {}) q
      q.failEncodes s bad

/-- A fault of a unit (R405): its operations fail.  An engine's domain is powered down and up once, or stays off where the
fault recurs within a second; a recurrence in a unit that is never powered down is FATAL; a management core restarts
(R442). -/
def Qf.unitFault (q : Qf) (i : FaultInfo) (index : BitVec 4) : Qf :=
  let k := (i.sector.toNat * 16 + i.unit.toNat) * 16 + index.toNat
  let again := q.flt.unitTimes.any (fun (t : Nat × Nat) => t.1 = k && decide (q.now ≤ t.2 + 1000000000))
  let q := { q with flt := { q.flt with unitTimes := (q.flt.unitTimes.filter (fun (t : Nat × Nat) => t.1 != k)) ++ [(k, q.now)] } }
  if 4 ≤ i.unit.toNat && i.unit.toNat ≤ 7 then
    let d := 5 * i.sector.toNat + i.unit.toNat - 3
    let q := (q.fault 8 i).failUnit i.sector i.unit index
    if again then
      { q with pwr := { q.pwr with
        domain := q.pwr.domain.set d 0, waking := q.pwr.waking.del d
        offByFault := if q.pwr.offByFault.contains d then q.pwr.offByFault else q.pwr.offByFault ++ [d] } }
    else if q.domainOn d then
      { q with pwr := { q.pwr with domain := q.pwr.domain.set d 1, waking := q.pwr.waking.set d q.now } }
    else q
  else if (i.unit.toNat ≤ 3 || i.unit = 8) && again then q.fatal 8 i
  else (q.fault 8 i).failUnit i.sector i.unit index

/-- UNIT_FAULT (R405, Table FAULT-2). -/
def execUnitFault (sector : Sector) (unitCode : UnitCode) (index : BitVec 4) (s : State) : Out :=
  done (fun q =>
    if !q.running || 13 ≤ unitCode.toNat then q
    else q.unitFault
      { sector, unit := unitCode, status := Status.uncorrectable.code, detail := index.zeroExtend 16 } index) s

/-! ### Power loss (R426, R429) -/

/-- Whether a half-port stays up through the drain: a QFP-M link to a protected tray. -/
def Qf.drainLink (q : Qf) (h : HalfPort) : Bool :=
  let l := q.link h
  l.live && l.profile = 2 && l.trayProt

/-- Freeze one link: DOWN is sent, and nothing that waited for it is looked at again. -/
def Qf.freezeLink (q : Qf) (h : HalfPort) : Qf :=
  let l := q.link h
  if l.state = .detect || q.drainLink h then q
  else
    let q := ((q.sendDown h).setState h .detect).updLink h (fun l => { l with
      rate := 0, version := 0, snoops := [], acksDue := [], rx := {}, tx := {}, sess := {}
      cxl := { l.cxl with openReqs := [], trayOps := [], owned := [] }
      cnt := { l.cnt with lastDown := 9, downEvents := l.cnt.downEvents + b2n l.live } })
    q.fault 3 { sector := halfSector h, half := h, status := Status.linkDown.code, peer := l.peerEp, detail := 9 }

/-- The power-fail sequence from its first step (R426): the freeze, the domains that power down, and the drain of every
accepted protected write that awaits TRAY_DONE. -/
def Qf.powerFail (q : Qf) : Qf :=
  let keep := allHalves.filter q.drainLink
  let q := { q with pwr := { q.pwr with
    failState := 1, t0 := q.now, drainBytes := q.protectedPending
    isolateLow := false, testSince := none } }
  let q : Qf := (allHalves.foldl (fun q h => q.freezeLink h) q).drainAccepted
  let q := q.freezeFlush.sessionEvent 3 [1]
  let engines := (List.range 8).flatMap (fun s => [5 * s + 1, 5 * s + 2, 5 * s + 3, 5 * s + 4])
  let ports := ((List.range 32).filter (fun p => keep.all (fun h => h.toNat / 2 != p))).map (· + 40)
  { q with
    sw := { q.sw with queue := q.sw.queue.filter (fun e => keep.any (fun h => e.out = .half h)), lanes := [] }
    host := { q.host with ready := [false, false] }
    pwr := { q.pwr with domain := (engines ++ ports).foldl (fun t d => t.set d 0) q.pwr.domain, waking := [] } }

/-- UNDERVOLTAGE (R426, Table FAULT-1): a FATAL POWER fault and the power-fail sequence; the links of the drain stay up. -/
def execUndervoltage (s : State) : Out :=
  done (fun q =>
    if q.boot.phase = .off || q.pwr.failState != 0 then q
    else
      let keep := q.drainLink
      let q := { q with pwr := { q.pwr with inputUp := false }, dbg := { q.dbg with squalled := false } }
      (q.fatalBut 9 { unit := 11 } keep).powerFail) s

/-- DRAIN_DONE (R426): every TRAY_DONE has returned; the state is HALTED, and a reset that was held takes effect (R525). -/
def execDrainDone (s : State) : Out :=
  done (fun q =>
    if q.pwr.failState != 1 || q.protectedPending != 0 then q
    else
      let q := { q with pwr := { q.pwr with
        failState := 2, lastDrainTime := BitVec.ofNat 64 (q.now - q.pwr.t0), lastDrainBytes := BitVec.ofNat 64 q.pwr.drainBytes } }
      (q.sessionEvent 3 [2]).heldReset) s

end Sys2Proof.Machine
end

