-- ==== Sys2Proof/Machine/Time.lean ====
section
/-! DEFINITION. Machine/Time.lean: what one nanosecond with no command waiting does: the master counter counts at
its corrected rate (R479, R480, R483; log 2). -/

namespace Sys2Proof.Machine

/-- Whether the master counter runs: from reset release on, also while squalled (R479, R489). -/
def Qf.clockRuns (q : Qf) : Bool :=
  q.boot.phase = .starting || q.boot.phase = .reduced || q.boot.phase = .full

/-- The counter's advance over one nominal nanosecond at slewPpm parts per million, with the fraction
that remains in millionths of a nanosecond (R483). -/
def slewed (ppm frac : Int) : Nat × Int :=
  let f := frac + ppm
  if 1000000 ≤ f then (2, f - 1000000) else if f ≤ -1000000 then (0, f + 1000000) else (1, f)

/-- One nanosecond passes. -/
def Qf.tick (q : Qf) : Qf :=
  if q.clockRuns then
    let r := slewed q.obs.slewPpm q.obs.slewFrac
    { q with obs := { q.obs with
      zenith := q.obs.zenith + BitVec.ofNat 64 r.1, slewFrac := r.2 } }
  else q

end Sys2Proof.Machine
end

