-- ==== Sys2Proof/Machine/Observe.lean ====
section
/-! DEFINITION. Machine/Observe.lean: Observation, Time and Debug (R479 to R498): time exchanges, pulse per second, the
tenant counter page, Squall, the test access port and Horizon. -/

namespace Sys2Proof.Machine

/-! ### Time exchanges (R480 to R483) -/

/-- A time stamp of 80 bits: ns, and 1/65,536 ns below (Table OBS-1). -/
def stamp80 (ns : Nat) : BitVec 80 := BitVec.ofNat 80 (ns * 65536)

/-- The slots of a TIME message (Table OBS-1). -/
def timeSlots (c : TimeMsg) : List (BitVec 128) :=
  let x := packHi [(80, 0), (80, c.t3.toNat), (80, c.t2.toNat), (80, c.t1.toNat), (16, 0), (32, c.seq.toNat), (8, c.kind.toNat), (8, 4)]
  [BitVec.ofNat 128 x, BitVec.ofNat 128 (x / 2 ^ 128), BitVec.ofNat 128 (x / 2 ^ 256)]

/-- Whether time messages travel on a half-port: from CREDIT_INIT on. -/
def Link.timed (l : Link) : Bool := l.state = .creditInit || l.live

/-- The half-port of the time parent; none at the time root. -/
def Qf.timeParent (q : Qf) : Option HalfPort :=
  if q.obs.parent.toNat < 64 then some (fld q.obs.parent 0 6) else none

/-- theta doubled, in 1/65,536,000 ns, from the four stamps and the asymmetry in ps (R482). -/
def theta2 (t1 t2 t3 t4 : BitVec 80) (asym : Int) : Int :=
  1000 * ((t2.toNat - t1.toNat : Int) - (t4.toNat - t3.toNat : Int)) - 65536 * asym
/-- The path delay doubled, in 1/65,536 ns (R482). -/
def delay2 (t1 t2 t3 t4 : BitVec 80) : Int := (t4.toNat - t1.toNat : Int) - (t3.toNat - t2.toNat : Int)

/-- A ns in the unit of theta2. -/
def nsTheta : Int := 131072000

/-- Step the counter by theta: whole ns, the rest into the fraction. -/
def Qf.stepTime (q : Qf) (th : Int) : Qf :=
  let m := th * 1000000 / nsTheta + q.obs.slewFrac
  ({ q with obs := { q.obs with slewFrac := m % 1000000, slewPpm := 0 } }).stepClock (q.obs.zenith + BitVec.ofInt 64 (m / 1000000))

/-- The rate offset that removes theta over an interval, at most 200 ppm (R483). -/
def slewFor (th : Int) (interval : Nat) : Int :=
  max (-200) (min 200 ((th * 1000000).tdiv (nsTheta * max interval 1)))

/-- Correct the counter by theta (R483); before the partition's time is taken it steps at once. -/
def Qf.correct (q : Qf) (th : Int) : Qf :=
  let ms := 1000000 * nsTheta
  if !q.part.timeTaken then q.stepTime th
  else if ms < th then
    let q := q.stepTime th
    { q with obs := { q.obs with steps := q.obs.steps + 1 } }
  else if th < -ms then { q with obs := { q.obs with slewPpm := -200, leads := q.obs.leads + 1 } }
  else { q with obs := { q.obs with slewPpm := slewFor th q.obs.syncInterval.toNat } }

/-- Whether theta lies within a number of ns. -/
def within (th : Int) (ns : Nat) : Bool := decide (-(ns * nsTheta) < th) && decide (th < ns * nsTheta)

/-- TIME_STATE after an accepted exchange (R483): LOCKED after eight below 5 ns, LOCKING again from 20 ns. -/
def Qf.lockTime (q : Qf) (th : Int) : Qf :=
  let good := if within th 5 then q.obs.good + 1 else 0
  let st := if !within th 20 then 1 else if 8 ≤ good then 2 else if q.obs.timeState = 2 then 2 else 1
  { q with obs := { q.obs with good := good, timeState := st } }

/-- The partition's time has been taken: a PARTITION_BOOT that waited for it completes (R512). -/
def Qf.takeTime (q : Qf) : Qf :=
  if !q.part.booted || q.part.timeTaken then q
  else
    let cmd := q.part.bootCmd
    let q := { q with part := { q.part with timeTaken := true, bootCmd := none } }
    match cmd with
    | some m => q.complete m 0x28 .ok
    | none => q

/-- An exchange is complete (R482, R483): one whose delay exceeds the least of the last 16 accepted by more than 4 ns is
discarded, but for those made at CREDIT_INIT. -/
def Qf.exchange (q : Qf) (h : HalfPort) (t1 t2 t3 t4 : BitVec 80) : Qf :=
  let th := theta2 t1 t2 t3 t4 (q.obs.asym.get h.toNat 0).toInt
  let d := delay2 t1 t2 t3 t4
  let least := q.obs.delays.foldl min (q.obs.delays.headD d)
  let ok := (q.link h).state = .creditInit || q.obs.delays = [] || decide (d ≤ least + 8 * 65536)
  let q := { q with obs := { q.obs with offsetPs := BitVec.ofInt 64 (th / 131072) } }
  if !ok then q
  else
    let q := { q with obs := { q.obs with
      delays := (q.obs.delays ++ [d]).drop (q.obs.delays.length - 15), delayPs := BitVec.ofInt 32 (d * 1000 / 131072) } }
    ((q.correct th).lockTime th).takeTime

/-- A TIME message goes out: at CREDIT_INIT outside the sequence, later as a sequenced CONTROL flit (R312, R481). -/
def Qf.sendTime (q : Qf) (h : HalfPort) (c : TimeMsg) : Qf :=
  q.updLink h (fun l => if l.live then l.sendNow q.now true (timeSlots c) else { l with ctlOut := l.ctlOut ++ [.time c] })

/-- TIME (R481, R482): a parent answers a REQ; a child takes the RESP to its latest REQ. -/
def execTime (h : HalfPort) (c : TimeMsg) (s : State) : Out :=
  done (fun q =>
    let l := q.link h
    if !q.running || !l.timed || !l.peerQf then q
    else if c.kind = 1 then
      let r : TimeMsg := { kind := 2, seq := c.seq, t1 := c.t1, t2 := c.received, t3 := stamp80 q.now }
      q.sendTime h r
    else if c.kind = 2 && q.timeParent = some h && c.seq = q.obs.exchSeq then
      match q.obs.reqT1 with
      | some t1 => if t1 = c.t1 then
          ({ q with obs := { q.obs with reqT1 := none } }).exchange h t1 c.t2 c.t3 c.received else q
      | none => q
    else q) s

/-- TIME_SYNC (R480, R482): a REQ every TIME_SYNC_INTERVAL and once at CREDIT_INIT; without a live parent link the
QF960 is in HOLDOVER. -/
def execTimeSync (s : State) : Out :=
  done (fun q => match q.timeParent with
    | none => q
    | some h =>
      let l := q.link h
      if !q.running then q
      else if !l.timed then
        { q with obs := { q.obs with timeState := 3, good := 0 } }
      else if (l.state = .creditInit && decide (l.since ≤ q.obs.lastSync) && q.obs.lastSync != 0) ||
          (l.state != .creditInit && decide (q.now < q.obs.lastSync + q.obs.syncInterval.toNat)) then q
      else
        let c : TimeMsg := { kind := 1, seq := q.obs.exchSeq + 1, t1 := stamp80 q.now }
        let q := { q with obs := { q.obs with exchSeq := c.seq, reqT1 := some c.t1, lastSync := q.now } }
        q.sendTime h c) s

/-- A write of TIME_PARENT: a half-port, or 0xFF for the time root (R480). -/
def Qf.setTimeParent (q : Qf) (v : BitVec 8) : Qf :=
  let st := if v = 0xFF then (if q.part.booted then 4 else 0) else 1
  let q := { q with obs := { q.obs with
    parent := v, timeState := st, good := 0, delays := [], reqT1 := none, slewPpm := if v = 0xFF then 0 else q.obs.slewPpm } }
  if v = 0xFF then q.takeTime else q

/-- ZENITH_SET (R485): the root's seconds, refused in a booted partition; whether it was taken. -/
def Qf.setZenith (q : Qf) (v : BitVec 64) : Bool × Qf :=
  if q.timeParent.isSome || q.part.booted then (false, q)
  else (true, ({ q with obs := { q.obs with slewFrac := 0 } }).stepClock v)

/-! ### Pulse per second (R485) -/

/-- A second in ns. -/
def second : Nat := 1000000000

/-- PPS_IN: theta is the nearest whole second less the stamp. -/
def execPpsIn (stamp : BitVec 64) (s : State) : Out :=
  done (fun q =>
    if !q.running || q.timeParent.isSome || !q.obs.ppsIn then q
    else
      let near := (stamp.toNat + second / 2) / second * second
      let q := { q with obs := { q.obs with
        ppsLast := some q.now, ppsState := 1, timeState := if q.part.booted then 4 else q.obs.timeState } }
      q.correct ((near - stamp.toNat : Int) * nsTheta)) s

/-- PPS_IN_LOST: no edge for 1.1 s. -/
def execPpsInLost (s : State) : Out :=
  done (fun q =>
    if q.running && q.obs.ppsIn && q.obs.ppsState = 1 && q.obs.ppsLast.any (fun t => decide (t + 1100000000 ≤ q.now)) then
      { q with obs := { q.obs with ppsState := 2, timeState := 3 } }
    else q) s

/-- PPS_OUT: the output rises at each whole second of this counter and falls 1 ms later. -/
def execPpsOut (s : State) : Out :=
  done (fun q =>
    if !q.clockRuns then q
    else match q.obs.ppsHigh with
    | some t => if t + 1000000 ≤ q.now then { q with obs := { q.obs with ppsHigh := none } } else q
    | none =>
      if q.obs.ppsOut && decide (q.now % second < 1000000) then
        { q with obs := { q.obs with ppsHigh := some (q.now / second * second) } }
      else q) s

/-! ### The counter page (R487) -/

/-- COUNTER_PAGE (R401, R487): the tenant's coarsened counts, written whole at each millisecond. -/
def execCounterPage (t : Tenant) (s : State) : Out :=
  done (fun q =>
    let a := q.obs.pages.get t.toNat 0
    let ms := q.now / 1000000
    if !q.inService || a = 0 || q.obs.pageAt.get t.toNat 0 = ms then q
    else
      let line : BitVec 512 := BitVec.ofNat 512 (packHi [(64, ms * 1000000), (64, q.coarse t 0), (64, q.coarse t 1),
        (64, q.coarse t 2), (256, 0)])
      let q := { q with obs := { q.obs with pageAt := q.obs.pageAt.set t.toNat ms } }
      let (id, q) := q.takeMsg
      let x := q.engWrite { sector := 0, tenant := t, stream := streamOf 3 0 } (.counterPage t) 0 a.toNat (lineBytes line)
        { msgId := id, totalLen := 64 }
      match x.1 with
      | some _ => x.2.pageFailed t
      | none => x.2) s

/-! ### Squall (R488 to R490) -/

/-- SQUALL_PACKET (R490): recognised before staging; taken where SQUALL_ACCEPT is set. -/
def execSquallPacket (h : HalfPort) (p : Packet) (s : State) : Out :=
  done (fun q =>
    if !q.running || !(q.link h).live then q
    else
      let q := q.take (.half h) p
      if q.dbg.accept then q.squall 4 else q) s

/-! ### The test access port (R492, R493, R504) -/

/-- Whether the port answers. -/
def Qf.tapOn (q : Qf) : Bool := q.boot.phase != .off

/-- Load an instruction. -/
def Qf.tapIr (q : Qf) (ir : BitVec 8) : Qf := { q with dbg := { q.dbg with tapIr := ir } }

/-- BYPASS: the 1-bit register is selected and captures 0. -/
def Qf.tapBypass (q : Qf) (ir : BitVec 8) : Qf :=
  let q := q.tapIr ir
  { q with dbg := { q.dbg with bypass := false, tapOut := [] } }

/-- A private instruction acts while TAP_ENABLE is set and the identity is up, and otherwise as BYPASS. -/
def Qf.tapPrivate (q : Qf) (ir : BitVec 8) (f : Qf → Qf) : Qf :=
  if !q.tapOn then q
  else if q.dbg.tapEnable && q.boot.phase != .secFail then f (q.tapIr ir) else q.tapBypass ir

/-- SQUALL: an update with 1 triggers Squall. -/
def execSquall (update : Bool) (s : State) : Out :=
  done (fun q => q.tapPrivate 0x10 (fun q => if update && q.running then q.squall 2 else q)) s

/-- EXTEST: the boundary drives the value, outside a booted partition. -/
def execExtest (value : BitVec 64) (s : State) : Out :=
  done (fun q =>
    if !q.tapOn then q
    else if q.part.booted || q.boot.phase = .secFail then q.tapBypass 0x00
    else
      let q := q.tapIr 0x00
      { q with dbg := { q.dbg with boundary := value, tapOut := bytesOf 8 q.dbg.boundary } }) s

/-- SAMPLE/PRELOAD: the boundary is shifted out and the value preloaded. -/
def execSamplePreload (value : BitVec 64) (s : State) : Out :=
  done (fun q =>
    if !q.tapOn then q
    else if q.boot.phase = .secFail then q.tapBypass 0x01
    else
      let q := q.tapIr 0x01
      { q with dbg := { q.dbg with boundary := value, tapOut := bytesOf 8 q.dbg.boundary } }) s

/-- The device identification: version, part 0x0960, manufacturer and a one (R492). -/
def idcodeWord : BitVec 32 :=
  BitVec.ofNat 32 (packHi [(4, nfld Config.jep106.toNat 11 4), (16, 0x0960), (11, nfld Config.jep106.toNat 0 11), (1, 1)])

/-- IDCODE. -/
def execIdcode (s : State) : Out :=
  done (fun q =>
    if !q.tapOn then q
    else
      let q := q.tapIr 0x02
      { q with dbg := { q.dbg with tapOut := bytesOf 4 idcodeWord } }) s

/-- SCAN_SELECT. -/
def execScanSelect (chain : BitVec 8) (s : State) : Out :=
  done (fun q => q.tapPrivate 0x11 (fun q => { q with dbg := { q.dbg with tapChain := chain } })) s

/-- The bytes of a scan chain, redacted by the authorisation in force (R399; log 10). -/
def Qf.scanBytes (q : Qf) (chain : Nat) : List Byte :=
  let n := Config.scanLength chain
  (List.range (ceilDiv n 8)).map (fun i => BitVec.ofNat 8 ((List.range 8).foldl (fun a j =>
    a + b2n (decide (8 * i + j < n) && Config.scanBit (2 * chain + b2n q.debugOn) (8 * i + j)) * 2 ^ j) 0))

/-- SCAN_READ: the selected chain, while squalled. -/
def execScanRead (s : State) : Out :=
  done (fun q => q.tapPrivate 0x12 (fun q =>
    let out := if q.dbg.squalled && q.dbg.tapChain.toNat < 48 then q.scanBytes q.dbg.tapChain.toNat else []
    { q with dbg := { q.dbg with tapOut := out } })) s

/-- BYPASS. -/
def execBypass (s : State) : Out :=
  done (fun q => if q.tapOn then q.tapBypass 0xFF else q) s

/-! ### Horizon entries (R497, Table OBS-6) -/

/-- An entry: type and island, then its fields from bit 241 downward. -/
def hzEntry (typ island : Nat) (fs : List (Nat × Nat)) : BitVec 256 :=
  let w := (fs.map Prod.fst).foldl (· + ·) 0
  BitVec.ofNat 256 (packHi ([(8, typ), (6, island)] ++ fs ++ [(242 - w, 0)]))

/-- The island of a half-port's port. -/
def portIsland (h : HalfPort) : Nat := 8 + h.toNat / 2

/-- CREDIT entries of a link. -/
def Qf.hzCredit (q : Qf) (h : HalfPort) : List (BitVec 256) :=
  let l := q.link h
  if l.state != .active then []
  else (List.range 7).map (fun k =>
    let at_ (x : List (BitVec 14)) : Nat := ((x[k]?).getD 0).toNat
    let waits := (q.sw.queue.filter (fun e => e.out = .half h && e.pkt.vc.toNat = k)).filterMap (fun e => e.waitSince)
    let wait := match waits with | [] => 0 | t :: ts => q.now - ts.foldl min t
    hzEntry 1 (portIsland h) [(6, h.toNat), (3, k), (14, at_ l.tx.advertised), (14, at_ l.tx.spent), (14, at_ l.tx.freedSeen),
      (14, at_ l.rx.freed), (14, (l.rx.held[k]?).getD 0), (40, wait)])

/-- EGRESS_HEAD entries: one for each output, channel and class with a queue; a protected tenant's addresses are zero. -/
def Qf.hzHeads (q : Qf) : List (Nat × BitVec 256) :=
  let key (e : QPkt) : Nat × Nat × Nat := (ingressCode e.out, e.pkt.vc.toNat, e.pkt.tc.toNat)
  (q.sw.queue.map key).eraseDups.filterMap (fun k =>
    let mine := q.sw.queue.filter (fun e => key e = k)
    match mine with
    | [] => none
    | e :: _ =>
      let p := e.pkt
      let cells := mine.foldl (fun a x => a + x.cells) 0
      let wait := match e.waitSince with | some t => q.now - t | none => 0
      let red := q.protectedTenant p.tenant
      let show_ (n : Nat) : Nat := if red then 0 else n
      let gates := match e.out with
        | .half h =>
          let g := q.egress h
          (b2n (!q.gateOpen h p), b2n (!(((g.shapers.get p.tc.toNat {}).open_ q.now) && g.port.open_ q.now)))
        | _ => (0, 0)
      let isl := (ingressSector e.out).toNat
      some (isl, hzEntry 2 isl [(7, k.1), (3, k.2.1), (3, k.2.2), (20, cells), (40, wait), (8, p.opcode.toNat),
        (14, show_ p.srcEp.toNat), (14, show_ p.destEp.toNat), (12, show_ p.tenant.toNat), (1, gates.1), (1, gates.2)]))

/-- LINE_BLOCKED entries. -/
def Qf.hzLines (q : Qf) : List (Nat × BitVec 256) :=
  q.home.lines.filterMap (fun x =>
    let n : LineNo := BitVec.ofNat 40 x.1
    let isl := (q.sectorOf n).toNat
    let p := match x.2.txn with | some t => t.req.pkt | none => {}
    let open_ := match x.2.txn with | some t => t.snoops.filter (fun (y : Snoop) => !y.answered) | none => []
    let since := match x.2.txn with | some t => t.since | none => q.now
    some (isl, hzEntry 3 isl [(60, (q.redact p.world p.tenant (ppaOf q.ownEp (lineSlot n) (fld (lineAddr n) 0 28))).toNat),
      (8, p.opcode.toNat), (14, if q.protectedTenant p.tenant then 0 else p.srcEp.toNat), (11, open_.length),
      (14, ((open_.map Snoop.ep).headD 0).toNat), (7, x.2.waiters.length), (40, q.now - since)]))

/-- The code of an instance state (Table CUM-1). -/
def IState.code : IState → Nat
  | .free => 0 | .idle => 1 | .prepass => 2 | .summing => 3 | .committed => 4 | .aborting => 5

/-- COLLECTIVE entries. -/
def Qf.hzCols (q : Qf) : List (Nat × BitVec 256) :=
  q.cum.groups.filterMap (fun x =>
    let g := x.2
    let isl := (colSector x.1 g.inst.b0).toNat
    if g.istate.code < 2 then none
    else
      let got := (g.inst.blocks.get g.inst.b0 {}).got
      let missing := g.children.toNat - (got.eraseDups.foldl (fun a h => a + b2n (g.children.getLsbD h.toNat) * 2 ^ h.toNat) 0)
      let eMiss := g.istate = .prepass && (g.inst.eFinal.find? g.inst.b0).isNone
      some (isl, hzEntry 4 isl [(12, x.1), (32, g.nextSeq.toNat), (3, g.istate.code), (32, g.inst.b0), (64, missing), (1, b2n eMiss)]))

/-- The code of a queue pair's state (Table COPY-1). -/
def QpState.code : QpState → Nat
  | .reset => 0 | .ready => 1 | .error => 2 | .released => 3

/-- QP_WAIT entries: each queue pair with a started, incomplete work request. -/
def Qf.hzQps (q : Qf) : List (Nat × BitVec 256) :=
  let qs : List (Nat × Qp) := q.qps.qps
  qs.filterMap (fun x =>
    match x.2.work.find? (fun w => !w.done) with
    | none => none
    | some w =>
      let isl := x.1 % 8
      let c := x.2.ctx
      let wait := match x.2.wait with | some e => (if e.wr = w.index then (e.record.addr.toNat, e.started) else (0, q.now)) | none => (0, q.now)
      let since := q.edge.reqs.foldl (fun a r => if r.src = q.ownEp && x.2.store.any (fun s => s.wr = w.index && s.tag = r.tag)
        then min a r.sentAt else a) wait.2
      let a := q.redact c.world c.tenant (BitVec.ofNat 60 wait.1)
      some (isl, hzEntry 5 isl [(14, c.originEp.toNat), (16, x.1 % 65536), (3, c.state.code), (16, w.index.toNat),
        (8, (Wr.opcode w.wr).toNat), (9, x.2.store.length), (60, a.toNat), (40, q.now - since)]))

/-- WAIT_REGISTERED entries. -/
def Qf.hzWaits (q : Qf) : List (Nat × BitVec 256) :=
  q.home.waits.map (fun w =>
    let p := w.pkt
    (w.sector.toNat, hzEntry 6 w.sector.toNat [(60, (q.redact p.world p.tenant p.addr).toNat), (4, w.record.cond.toNat),
      (1, b2n w.record.width), (64, w.record.compare.toNat), (64, w.value), (14, w.waiter.toNat)]))

/-- PENNANT_HELD entries. -/
def Qf.hzPennants (q : Qf) : List (Nat × BitVec 256) :=
  q.edge.streams.flatMap (fun r => r.held.map (fun h =>
    let isl := (ingressSector r.ing).toNat
    let p := h.req.sent
    (isl, hzEntry 7 isl [(14, r.src.toNat), (18, r.stream.toNat), (32, r.issued), (32, r.placed),
      (60, (q.redact p.world p.tenant p.addr).toNat), (8, r.fail.toNat)])))

/-- REASSEMBLY entries. -/
def Qf.hzReasm (q : Qf) : List (Nat × BitVec 256) :=
  q.home.reasm.map (fun r => (0, hzEntry 9 0 [(14, r.srcEp.toNat), (24, r.msgId.toNat), (32, r.totalLen.toNat),
    (32, r.counted.toNat), (8, r.firstFail.toNat), (1, b2n r.pennant.isSome)]))

/-- CHANNEL_INFLIGHT entries: the lanes of the sector links and the meter taps with entries in flight (R495); the other channels
are empty between two commands (log 1).  The numbers of the channels are the model's (log 200). -/
def Qf.hzChannels (q : Qf) : List (Nat × BitVec 256) :=
  let lanes : List (Nat × List QPkt) := q.sw.lanes
  lanes.filterMap (fun x =>
    let a := x.1 / 64
    let b := x.1 / 8 % 8
    let n := (x.2.map (fun e => laneEntries e.pkt)).sum
    if n = 0 then none
    else some (b, hzEntry 8 b [(4, 3), (8, 7 * a + (if b < a then b else b - 1)), (3, x.1 % 8), (8, n)])) ++
  (List.range 8).filterMap (fun s =>
    let n := (q.ens.taps.filter (fun t => t.1.toNat = s)).length
    if n = 0 then none else some (s, hzEntry 8 s [(4, 10), (8, s), (3, 0), (8, n)]))

/-- Every entry, island by island, in ascending type within each. -/
def Qf.hzAll (q : Qf) : List (BitVec 256) :=
  let credit := allHalves.flatMap (fun h => (q.hzCredit h).map (fun e => (portIsland h, e)))
  let all := credit ++ q.hzHeads ++ q.hzLines ++ q.hzCols ++ q.hzQps ++ q.hzWaits ++ q.hzPennants ++ q.hzChannels ++ q.hzReasm
  (List.range 48).flatMap (fun i => (all.filter (fun x => x.1 = i)).map Prod.snd)

/-! ### Horizon (R494 to R496) -/

/-- Entries that the capture memory holds behind its header. -/
def hzRoom : Nat := 524286

/-- Latch the snapshot now (R495). -/
def Qf.hzLatch (q : Qf) (late : Bool) : Qf :=
  let all := q.hzAll
  let over_ := all.length - hzRoom
  let prot := q.sec.enrol.any (fun x => x.2.protect)
  let flags := packHi [(1, b2n (prot || !q.debugOn)), (1, b2n q.dbg.hzSpread), (1, b2n (0 < over_)), (1, b2n late), (1, b2n q.dbg.squalled)]
  { q with dbg := { q.dbg with
    hzState := 2, hzEntries := all.take hzRoom, hzDropped := over_, hzFlags := BitVec.ofNat 8 flags
    hzTime := if q.dbg.squalled then q.dbg.squallTime.toNat else q.now } }

/-- Arm a capture of an originator for TH; a squalled QF960 captures at once, and so, LATE, does one that learns of it
after TH. -/
def Qf.hzArm (q : Qf) (origin : Ep) (seq : BitVec 32) (th : Nat) (prop : Bool) : Qf :=
  let q := { q with dbg := { q.dbg with
    hzState := 1, hzTh := BitVec.ofNat 64 th, hzSeq := seq, hzOrigin := origin, hzSpread := prop } }
  if q.dbg.squalled then q.hzLatch false else if th < q.now then q.hzLatch true else q

/-- HORIZON's payload (Table OBS-3). -/
def horizonBody (origin : Ep) (seq : BitVec 32) (th : Nat) : List Byte :=
  bytesOf 16 (BitVec.ofNat 128 (origin.toNat + seq.toNat * 2 ^ 32 + th * 2 ^ 64))

/-- What a HORIZON packet says: its origin, its sequence number and TH (Table OBS-3). -/
def horizonOf (p : Packet) : Ep × BitVec 32 × Nat :=
  let x := leNat (p.payload.take 16)
  (BitVec.ofNat 14 x, BitVec.ofNat 32 (x / 2 ^ 32), x / 2 ^ 64)

/-- A write of HORIZON_CAPTURE (R494); whether it was taken. -/
def Qf.horizonCapture (q : Qf) (prop : Bool) (v : BitVec 64) : Bool × Qf :=
  let th := if v = 0 then q.now + 10000 else v.toNat
  let ahead := if prop then 200000 else 10000
  if q.dbg.hzState != 0 || th < q.now + ahead then (false, q)
  else
    let seq := q.dbg.hzNext
    let q := { q with dbg := { q.dbg with hzNext := seq + 1, hzSeen := q.dbg.hzSeen ++ [(q.ownEp, seq)] } }
    let q := if prop && q.running then q.flood Opc.horizon q.ownEp (horizonBody q.ownEp seq th) none else q
    (true, q.hzArm q.ownEp seq th prop)

/-- HORIZON (R494): a message not yet seen is forwarded; an IDLE QF960 arms for the same TH. -/
def execHorizon (h : HalfPort) (p : Packet) (s : State) : Out :=
  done (fun q =>
    if !(q.inService && (q.link h).peerQf) then q
    else
      let q := q.take (.half h) p
      let m := horizonOf p
      if q.dbg.hzSeen.contains (m.1, m.2.1) then q
      else
        let q := { q with dbg := { q.dbg with hzSeen := q.dbg.hzSeen ++ [(m.1, m.2.1)] } }
        let q := q.flood Opc.horizon p.srcEp p.payload (some h)
        if q.dbg.hzState = 0 then q.hzArm m.1 m.2.1 m.2.2 true else q) s

/-- HORIZON_LATCH (R495): at TH, or at once where Squall has come first. -/
def execHorizonLatch (s : State) : Out :=
  done (fun q =>
    if q.dbg.hzState = 1 && q.clockRuns && (q.dbg.squalled || decide (q.dbg.hzTh.toNat ≤ q.now)) then q.hzLatch false else q) s

/-- HORIZON_READY (R496): the snapshot is assembled. -/
def execHorizonReady (s : State) : Out :=
  done (fun q => if q.dbg.hzState = 2 && q.clockRuns then { q with dbg := { q.dbg with hzState := 3 } } else q) s

/-- The snapshot: its header (Table OBS-5) and entries. -/
def Qf.hzData (q : Qf) : List Byte :=
  let d := q.dbg
  let h : BitVec 512 := BitVec.ofNat 512 (packHi [(4, 1), (8, d.hzFlags.toNat), (14, q.part.ep.toNat), (6, q.part.id.toNat),
    (32, d.hzSeq.toNat), (64, d.hzTh.toNat), (64, d.hzTime), (14, d.hzOrigin.toNat), (32, d.hzEntries.length), (32, d.hzDropped), (242, 0)])
  bytesOf 64 h ++ d.hzEntries.flatMap (fun e => bytesOf 32 e)

end Sys2Proof.Machine
end

