-- ==== Sys2Proof/Machine/Update.lean ====
section
/-! DEFINITION. Machine/Update.lean: firmware update (R516 to R520): staging, activation, confirmation and rollback, and
what refuses them (Table BOOT-5). -/

namespace Sys2Proof.Machine

/-- How a dictionary request is answered: STATUS and DETAIL (Table MGMT-4). -/
structure Verdict where
  status : Status := .ok
  detail : BitVec 8 := 0
  deriving DecidableEq, Repr, Inhabited

/-- An answer, and the block after it. -/
abbrev Ans := Verdict × Qf

/-- OK. -/
def Qf.okAns (q : Qf) : Ans := ({}, q)
/-- A value outside its range, or refused by a rule of its chapter. -/
def Qf.badAns (q : Qf) : Ans := ({ status := .accessViolation, detail := 3 }, q)
/-- A long operation is busy, or something it needs is. -/
def Qf.retryAns (q : Qf) : Ans := ({ status := .retry }, q)
/-- The answer to a write that a rule takes or refuses. -/
def takenAns (x : Bool × Qf) : Ans := if x.1 then x.2.okAns else x.2.badAns

/-- An update is refused for a reason of Table BOOT-5. -/
def Qf.refuseUpdate (q : Qf) (code : Nat) : Ans := ({ q with boot := { q.boot with refusal := code } }).badAns

/-- An extent of this QF960 is on its way out, in a move, or the destination of one (condition 1; log 61). -/
def Qf.moving (q : Qf) : Bool :=
  let xs : List (Nat × Extent) := q.pool.extents
  q.pool.moves != [] || q.pool.incoming != [] || xs.any (fun x => x.2.state = .withdrawing || x.2.state = .scrubbing)

/-- The condition that refuses any update now, lowest code first; 0 where none does (R517).  In IMAGE_INVALID no image has
run, so no hold-up test has (log 33). -/
def Qf.updateBar (q : Qf) : Nat :=
  if q.moving then 1
  else if q.boot.phase != .imageInvalid && decide (q.pwr.holdupHealth.toNat < 80) then 2
  else if q.boot.ownerLock then 3
  else if q.boot.trial then 6
  else 0

/-- The slot that does not run. -/
def Boot.otherSlot (b : Boot) : Option FwSlot := b.slot (!b.activeB)

/-- Put an image in the slot that does not run. -/
def Boot.putOther (b : Boot) (x : Option FwSlot) : Boot := if b.activeB then { b with slotA := x } else { b with slotB := x }

/-- A staging write opens (R516, R517): the inactive slot is erased; the number of its progress object. -/
def Qf.stageOpen (q : Qf) (total : Nat) : Option Nat × Ans :=
  if q.updateBar != 0 then (none, q.refuseUpdate q.updateBar)
  else match q.newProgress 7 4 total with
    | none => (none, q.retryAns)
    | some (k, q) => (some k, ({ q with boot := { q.boot.putOther none with stageState := 0 } }).okAns)

/-- The image is whole in its slot, and R502 is checked (R516). -/
def Qf.stageEnd (q : Qf) (k : Option Nat) (i : FwImage) : Ans :=
  let x : FwSlot := { image := i, sigGood := imageSigned Config.fwKeys i }
  let good := slotValid q.boot.minSecurity (some x)
  let why := if good then q.boot.refusal else if i.securityVersion.toNat < q.boot.minSecurity.toNat then 5 else 4
  let q := { q with boot := { q.boot.putOther (some x) with stageState := if good then 1 else 2, refusal := why } }
  (q.endProgress k (if good then 1 else 2) (if good then Status.ok.code else Status.accessViolation.code)).okAns

/-- Stage a whole image. -/
def Qf.stageImage (q : Qf) (i : FwImage) : Ans :=
  let x := q.stageOpen ((imageBytes i).length + 5139)
  match x.1 with
  | some k => x.2.2.stageEnd (some k) i
  | none => x.2

/-- The block resets itself 100 ms after a commit (R518); in IMAGE_INVALID the next reset is awaited (R506). -/
def Qf.resetLater (q : Qf) : Qf :=
  if q.boot.phase = .imageInvalid then q else { q with boot := { q.boot with resetAt := some (q.now + 100000000) } }

/-- FW_ACTIVATE (R518): the boot record commits the staged slot, on trial. -/
def Qf.activate (q : Qf) : Ans :=
  if q.updateBar != 0 then q.refuseUpdate q.updateBar
  else if q.boot.stageState != 1 then q.refuseUpdate 4
  else if !slotValid q.boot.minSecurity q.boot.otherSlot then q.refuseUpdate 5
  else (({ q with boot := q.boot.writeRec (!q.boot.activeB) true 0 }).resetLater).okAns

/-- FW_CONFIRM (R519): the running image is no longer on trial, and MIN_SECURITY_VERSION rises to its own. -/
def Qf.confirm (q : Qf) : Ans :=
  if q.boot.phase != .full then q.badAns
  else
    let v := q.boot.image.securityVersion
    let b := q.boot.writeRec q.boot.activeB false 0
    ({ q with boot := { b with
      trial := false, minSecurity := if v.toNat < q.boot.minSecurity.toNat then q.boot.minSecurity else v } }).okAns

/-- FW_ROLLBACK (R520): the other slot becomes active, and the block resets itself. -/
def Qf.rollBack (q : Qf) : Ans :=
  if q.updateBar != 0 then q.refuseUpdate q.updateBar
  else match q.boot.otherSlot with
    | none => q.refuseUpdate 4
    | some x =>
      if x.image.securityVersion.toNat < q.boot.minSecurity.toNat then q.refuseUpdate 5
      else if !slotValid q.boot.minSecurity (some x) then q.refuseUpdate 4
      else (({ q with boot := q.boot.writeRec (!q.boot.activeB) false 0 }).resetLater).okAns

/-- An image from the bytes of a staging write: header, body, two signatures; the settings-format table as entries of four
bytes: index, sub-index, format (log 34). -/
def imageOf (bs : List Byte) : FwImage :=
  let h : BitVec 512 := bitsOf 512 (slice bs 0 64)
  let n := bs.length - 5139
  let off := (fld h 300 32 : BitVec 32).toNat
  let cnt := (fld h 284 16 : BitVec 16).toNat
  { magic := fld h 480 32, format := fld h 476 4, version := fld h 444 32, securityVersion := fld h 428 16
    length := fld h 396 32, configOffset := fld h 364 32, configLength := fld h 332 32, settingsOffset := fld h 300 32
    settingsEntries := fld h 284 16, dictRevision := fld h 276 8, rsvd := fld h 0 276
    body := slice bs 64 (n - 64)
    settings := (chunks 4 cnt ((bs.take n).drop off)).map (fun e => (bitsOf 16 (slice e 0 2), bitsOf 8 (slice e 2 1), bitsOf 8 (slice e 3 1)))
    rsaSig := slice bs n 512, mldsaSig := slice bs (n + 512) 4627 }

end Sys2Proof.Machine
end

