-- ==== Sys2Proof/Machine/Power.lean ====
section
/-! DEFINITION. Machine/Power.lean: the module (R522 to R538): power domains, the hold-up test, temperatures, PERST_N and
regulators. -/

namespace Sys2Proof.Machine

/-! ### Power domains (R24 to R27, R530, R531) -/

/-- Domains of R530. -/
def domainCount : Nat := 80
/-- An engine domain: Cumulus, gather, filter and matrix, or copy engines. -/
def engineDomain (d : Nat) : Bool := decide (d < 40) && d % 5 != 0
/-- The domains that depend on a switch slice's. -/
def dependents (d : Nat) : List Nat := (List.range domainCount).filter (fun e => e != d && sliceOf e = d)

/-- Whether a unit has nothing in its input queue nor in hand (R27). -/
def Qf.unitIdle (q : Qf) (d : Nat) : Bool :=
  let s : Sector := BitVec.ofNat 3 (d / 5)
  let jobs := q.eng.jobs.all (fun j => j.sector != s || !(pipeDomains j).contains d)
  let gs : List (Nat × Group) := q.cum.groups
  let qs : List (Nat × Qp) := q.qps.qps
  let es : List (Nat × EncJob) := q.eng.encodes
  match d % 5 with
  | 1 => gs.all (fun x =>
      let here (b : Nat) : Bool := decide ((b + x.1) % 8 = s.toNat)
      x.2.waiting.all (fun w => match w.2.col with
        | some c => !(List.range (min 8 (max 1 c.run.toNat))).any (fun i => here (c.firstBlock.toNat + i))
        | none => true) && x.2.inst.members.all (fun m => m.buf = [] || !here m.blk))
  | 2 => jobs
  | 3 => jobs && q.eng.shards.all (fun j => j.sector != s) && es.all (fun x => Fe.sector x.2.desc != s)
  | _ => qs.all (fun x => x.1 % 8 != s.toNat || (x.2.fetched.all (fun w => Wr.opcode w = 0x20) && x.2.work.all (fun w => !w.inEngine)))

/-- The descriptors that wait for a unit run (R27). -/
def Qf.runUnit (q : Qf) (d : Nat) : Qf :=
  let s : Sector := BitVec.ofNat 3 (d / 5)
  match d % 5 with
  | 1 => (q.cum.groups.map Prod.fst).foldl (fun q g => q.colRun g) q
  | 2 => q.startPipes s
  | 3 =>
    let q := (q.startPipes s).startShards s
    (q.eng.encodes.map Prod.fst).foldl (fun q id => q.goEnc id) q
  | _ => q.runFetched s

/-- Put a domain in a state. -/
def Qf.putDomain (q : Qf) (d st : Nat) : Qf :=
  { q with pwr := { q.pwr with
    domain := q.pwr.domain.set d st
    waking := if st = 1 then q.pwr.waking.set d q.now else q.pwr.waking.del d } }

/-- A write of DOMAIN_ENABLE (R531): refused where it breaks R24, R25 or R26.  An engine domain powers down once its queue
is empty, and up as a wake; the others change at once.  A power-down that is called off lets the unit run what came meanwhile,
and a slice that comes on wakes the units below it that have work (R27). -/
def Qf.setDomain (q : Qf) (d : Nat) (b : Bool) : Ans :=
  let sl := sliceOf d
  let st0 := q.pwr.domain.get d 0
  let breaks := if b then sl != d && q.pwr.domain.get sl 0 != 2
    else sl = d && (dependents d).any (fun e => q.pwr.domain.get e 0 != 0)
  let fixed := q.part.booted && (72 ≤ d || sl = d)
  let h : HalfPort := BitVec.ofNat 6 (2 * (d - 40))
  let linked := 40 ≤ d && d < 72 && ((q.link h).state != .detect || (q.link (h + 1)).state != .detect)
  let settled := st0 = 2 && b || st0 = 0 && !b
  if domainCount ≤ d || breaks || (fixed && !settled) || (linked && !settled) then q.badAns
  else
    let st := q.pwr.domain.get d 0
    let q := { q with pwr := { q.pwr with
      enable := q.pwr.enable.set d b
      offByFault := if b then q.pwr.offByFault.filter (fun e => e != d) else q.pwr.offByFault } }
    (if !engineDomain d then
       let q := q.putDomain d (if b then 2 else 0)
       if b then (dependents d).foldl (fun q e => if engineDomain e && !q.unitIdle e then q.wantUnit e else q) q else q
     else if b then (if st = 0 then q.putDomain d 1 else if st = 3 then (q.putDomain d 2).runUnit d else q)
     else if st = 2 then q.putDomain d 3
     else q).okAns

/-- DOMAIN_POWER_DOWN (R27): an engine domain that was switched off powers down if its unit's queue is empty at the commit;
else the power-down is cancelled. -/
def execDomainPowerDown (domain : BitVec 7) (s : State) : Out :=
  done (fun q =>
    let d := domain.toNat
    let st := q.pwr.domain.get d 0
    if !engineDomain d || q.pwr.enable.get d true || (st != 2 && st != 3) then q
    else if q.unitIdle d then q.putDomain d 0
    else (q.putDomain d 2).runUnit d) s

/-- DOMAIN_WAKE (R27): at least 20 us after its wake began a unit is ON and runs what waits. -/
def execDomainWake (domain : BitVec 7) (s : State) : Out :=
  done (fun q =>
    let d := domain.toNat
    if q.pwr.domain.get d 0 = 1 && engineDomain d && q.domainOn (sliceOf d) && decide (q.pwr.waking.get d 0 + 20000 ≤ q.now) && q.running && q.pwr.failState = 0
    then (q.putDomain d 2).runUnit d else q) s

/-- REGULATOR_FAILURE (R404, Table FAULT-1): a FATAL POWER fault; the block fences itself. -/
def execRegulatorFailure (domain : BitVec 7) (s : State) : Out :=
  done (fun q =>
    if !q.zenithOn || q.pwr.failState != 0 || domainCount ≤ domain.toNat then q
    else q.fatal 9 { unit := 11, detail := domain.zeroExtend 16 }) s

/-! ### The 48 V input and the hold-up test (R402, R528, R529) -/

/-- Power in mW, voltage in mV and current in mA of the input in the present millisecond. -/
def Qf.senses (q : Qf) : Nat × Nat × Nat := Config.sense (q.now / 1000000)

/-- INPUT_VOLTAGE: the mean of the last 100 ms. -/
def Qf.meanVoltage (q : Qf) : Nat :=
  let ms := q.now / 1000000
  ((List.range (min 100 (ms + 1))).map (fun k => (Config.sense (ms - k)).2.1)).sum / min 100 (ms + 1)

/-- A test starts at or above 45 V in NORMAL; one that cannot start is tried again in 10 s. -/
def Qf.startHoldup (q : Qf) : Qf :=
  if 45000 ≤ q.senses.2.1 && q.pwr.failState = 0 then
    { q with pwr := { q.pwr with isolateLow := true, testSince := some q.now, testDue := q.now + q.pwr.holdupInterval.toNat } }
  else { q with pwr := { q.pwr with testDue := q.now + 10000000000 } }

/-- HOLDUP_TEST (R529): the first 10 s after reset release, then every HOLDUP_TEST_INTERVAL. -/
def execHoldupTest (s : State) : Out :=
  done (fun q =>
    if q.zenithOn && q.pwr.testSince.isNone && decide (q.pwr.testDue ≤ q.now) && q.pwr.failState = 0 then q.startHoldup else q) s

/-- A write of 1 to HOLDUP_TEST_NOW: a test, unless one runs. -/
def Qf.holdupNow (q : Qf) : Ans := if q.pwr.testSince.isSome then q.retryAns else q.startHoldup.okAns

/-- The capacitance in uF of a charge in uC over a droop in mV; free where nothing drooped (log 35). -/
def Qf.holdupCap (q : Qf) (charge droop : Nat) : Nat × Qf :=
  if droop = 0 then (q.takeFree.1.toNat, q.takeFree.2) else (1000 * charge / droop, q)

/-- HOLDUP_HEALTH (R528): 288 x C as a percentage of 5.4 J. -/
def holdupHealthOf (charge droop cap : Nat) : Nat :=
  min 100 (if droop = 0 then 16 * cap / 3000 else 16 * charge / (3 * droop))

/-- HOLDUP_TEST_END (R528): after 200 us or a droop of 2 V; the charge is in uC and the droop in mV. -/
def execHoldupTestEnd (charge droop : Nat) (s : State) : Out :=
  done (fun q => match q.pwr.testSince with
    | none => q
    | some t =>
      if q.now < t + 200000 && droop < 2000 then q
      else
        let x := q.holdupCap charge droop
        { x.2 with pwr := { x.2.pwr with
          isolateLow := false, testSince := none, holdupLast := q.obs.zenith, holdupUf := BitVec.ofNat 32 x.1
          holdupHealth := BitVec.ofNat 8 (holdupHealthOf charge droop x.1) } }) s

/-! ### Temperatures (R534 to R536) -/

/-- The hottest of some sensors. -/
def hottest (xs : List (BitVec 16)) : Nat := xs.foldl (fun a x => max a x.toNat) 0

/-- THERMAL_STATE after a sample (Table ELEC-7). -/
def thermalNext (old thr die stack : Nat) : Nat :=
  if 1150 ≤ die || 1050 ≤ stack then 2
  else if thr ≤ die || 950 ≤ stack then 1
  else if die + 50 ≤ thr && stack ≤ 900 then 0
  else old

/-- The stacks that are throttled after a sample: from 95 C until 90 C. -/
def hotStacks (old : List Nat) (xs : List (BitVec 16)) : List Nat :=
  (List.range xs.length).filter (fun k => 950 ≤ (xs.getD k 0).toNat || (old.contains k && 900 < (xs.getD k 0).toNat))

/-- The stacks whose refresh rate is doubled: from 85 C. -/
def warmStacks (xs : List (BitVec 16)) : List Nat := (List.range xs.length).filter (fun k => 850 ≤ (xs.getD k 0).toNat)

/-- THERMAL_SAMPLE (R534, R536): every 1 ms; a change of state writes a THERMAL record, and a shutdown limit fences the
block and runs the power-fail sequence. -/
def execThermalSample (die : BitVec 16) (stackTemps : List (BitVec 16)) (s : State) : Out :=
  done (fun q =>
    if !q.zenithOn || q.now < q.pwr.lastThermal + 1000000 then q
    else
      let old := q.pwr.thermal
      let st := if old = 2 then 2 else thermalNext old q.pwr.tjThrottle.toNat die.toNat (hottest stackTemps)
      let st := if st = 2 && q.pwr.failState != 0 then old else st
      let q := { q with pwr := { q.pwr with
        tjMax := die, stackMax := BitVec.ofNat 16 (hottest stackTemps), lastThermal := q.now, thermal := st
        throttleTime := q.pwr.throttleTime + (if old = 1 then q.now - q.pwr.lastThermal else 0)
        stackHot := hotStacks q.pwr.stackHot stackTemps, refreshDouble := warmStacks stackTemps } }
      if st = old then q
      else if st = 2 then (q.fatalBut 10 { unit := 11 } q.drainLink).powerFail
      else q.fault 10 { unit := 11 }) s

/-! ### Host ports (R508) -/

/-- PERST_N (R508): while it is asserted the port's function does not answer; released, it answers from REDUCED on. -/
def execPerstN (port asserted : Bool) (s : State) : Out :=
  done (fun q =>
    let up := !asserted && (q.boot.phase = .reduced || q.boot.phase = .full) && q.pwr.failState = 0
    { q with
      pwr := { q.pwr with perst := setPort q.pwr.perst port asserted }
      host := { q.host with ready := setPort q.host.ready port up } }) s

end Sys2Proof.Machine
end

