-- ==== Sys2Proof/Machine/Security.lean ====
section
/-! DEFINITION. Machine/Security.lean: key generations and their commands (R386 to R388, R547), the removal of a tenant
(R397), attestation and enrolment (R389 to R392), and the debugger authorisation (R400). -/

namespace Sys2Proof.Machine

/-! ### Generations -/

/-- The seed of a tenant's enrolment; zeros where it has none (R380). -/
def Qf.seedOf (q : Qf) (t : Tenant) : List Byte :=
  match q.sec.enrol.find? t.toNat with
  | some e => e.seed
  | none => List.replicate 32 0

/-- A slot with the key of a generation (Table SEC-2). -/
def Qf.keySlot (q : Qf) (t : Tenant) (g : KeyGen) : KeySlot :=
  { gen := g, key := memoryKey q.sec.drk q.part.id t g (q.seedOf t) }

/-- Whether every slot of a tenant is EMPTY. -/
def TenantKeys.empty (k : TenantKeys) : Bool := k.live = [] && k.retiring = []

/-- Lines whose transaction works on a request stamped with a generation (R387). -/
def Qf.genLines (q : Qf) (t : Tenant) (g : KeyGen) : List (LineNo × Txn) :=
  q.home.lines.filterMap (fun x => match x.2.txn with
    | some y => if y.req.pkt.keyTenant = t && y.req.pkt.keyGen = g then some ((BitVec.ofNat 40 x.1 : LineNo), y) else none
    | none => none)

/-- The in-flight count of a generation (R387). -/
def Qf.inFlight (q : Qf) (t : Tenant) (g : KeyGen) : Nat := (q.genLines t g).length

/-- A sweep stops: its progress object ends FAILED with KEY_RETIRED (R388). -/
def Qf.stopSweep (q : Qf) (t : Tenant) : Qf :=
  let k := q.keysOf t
  if k.sweepRunning then
    (q.endProgress k.progress 2 Status.keyRetired.code).updKeys t (fun k =>
      { k with sweepRunning := false, sweepAt := none, progress := none })
  else q

/-- Slots of a tenant's extents at this home, in order. -/
def Qf.slotsOf (q : Qf) (t : Tenant) : List Slot :=
  (q.pool.extents.filter (fun x => x.2.tenant = t && x.2.state != .free)).map (fun x => BitVec.ofNat 18 x.1)

/-- Whether a generation encrypts lines of its tenant's extents: it is CURRENT, or PREVIOUS and not swept (R117, R388). -/
def TenantKeys.encrypts (k : TenantKeys) (g : KeyGen) : Bool :=
  k.current.any (fun s => s.gen = g) || (k.previous.any (fun s => s.gen = g) && !k.swept)

/-- Recall every cached line of a tenant's extents, to discard what is dirty (R117). -/
def Qf.recallTenant (q : Qf) (t : Tenant) : Qf := (q.slotsOf t).foldl (fun q s => q.recallSlot s true) q

/-- A generation enters RETIRING, the engines zeroise their slots for it, and the cached lines that it encrypts are recalled
(R117, R146, R386, R388). -/
def Qf.retireNow (q : Qf) (t : Tenant) (g : KeyGen) : Qf :=
  let k := q.keysOf t
  match k.live.find? (fun s => s.gen = g) with
  | none => q
  | some s =>
    let recalls := k.encrypts g
    let q := q.stopSweep t
    let keep (x : Option KeySlot) : Option KeySlot := x.filter (fun s => s.gen != g)
    let q := q.updKeys t (fun k => { k with
      current := keep k.current, previous := keep k.previous
      retiring := k.retiring ++ [{ s with retiring := true, retiredAt := q.now, recalls := recalls }] })
    let q := { q with sec := { q.sec with engineSlots := q.sec.engineSlots.filter (fun x => !(x.1 = t && x.2.1 = g)) } }
    let q := if recalls then q.recallTenant t else q
    if (q.keysOf t).live.isEmpty then q.failWaits (fun w => (q.extent (slotNo w.pkt.addr)).tenant = t) .keyRetired else q

/-- A RETIRING slot is zeroised. -/
def Qf.zeroise (q : Qf) (t : Tenant) (g : KeyGen) : Qf :=
  q.updKeys t (fun k => { k with retiring := k.retiring.filter (fun s => s.gen != g) })

/-- KEY_RETIRE_DEADLINE (R146, R386). -/
def execKeyRetireDeadline (t : Tenant) (g : KeyGen) (s : State) : Out :=
  done (fun q =>
    if q.running && (q.keysOf t).live.any (fun s => s.gen = g && s.deadline.any (fun d => decide (d ≤ q.now))) then
      (q.retireNow t g).settle
    else q) s

/-- KEY_SLOT_ZEROISE (R117, R386): nothing in flight is left under a RETIRING generation, and no line that it encrypts is
cached. -/
def execKeySlotZeroise (t : Tenant) (g : KeyGen) (s : State) : Out :=
  done (fun q =>
    let recalling := (q.keysOf t).retiring.any (fun s => s.gen = g && s.recalls) && !(q.slotsOf t).all q.recalled
    if q.running && q.inFlight t g = 0 && !recalling then q.zeroise t g else q) s

/-- KEY_RETIRE_TIMEOUT (R386): Td + 2 ms: the slot is zeroised, and what is still in flight under it fails. -/
def execKeyRetireTimeout (t : Tenant) (g : KeyGen) (s : State) : Out :=
  done (fun q =>
    let due := (q.keysOf t).retiring.any (fun s => s.gen = g && decide (s.deadline.getD s.retiredAt + 2000000 ≤ q.now))
    if q.running && due then
      ((q.genLines t g).foldl (fun q x => q.failTxn x.1 x.2 .keyRetired) (q.zeroise t g)).settle
    else q) s

/-! ### Key commands (Table SEC-9) -/

/-- KEY_LOAD. -/
def execKeyLoad (m : MgrRef) (tenant : BitVec 16) (gen : BitVec 8) (s : State) : Out :=
  done (fun q => q.mgr m 0x60 (inRange tenant 4096 && gen != 0) (fun q =>
    let t : Tenant := fld tenant 0 12
    let k := q.keysOf t
    if k.current.any (fun s => s.gen = gen) then q.complete m 0x60 .ok
    else if k.retiring != [] then q.complete m 0x60 .retry
    else if k.empty then
      (q.updKeys t (fun k => { k with current := some (q.keySlot t gen) })).complete m 0x60 .ok
    else q.complete m 0x60 .accessViolation)) s

/-- The generation after one: 255 wraps to 1 (R386). -/
def nextGen (g : KeyGen) : KeyGen := if g = 255 then 1 else g + 1

/-- KEY_ROTATE: CURRENT becomes PREVIOUS, the next generation is CURRENT, and the sweep starts as a long operation. -/
def execKeyRotate (m : MgrRef) (tenant : BitVec 16) (s : State) : Out :=
  done (fun q => q.mgr m 0x61 (inRange tenant 4096) (fun q =>
    let t : Tenant := fld tenant 0 12
    let k := q.keysOf t
    match k.current with
    | none => q.complete m 0x61 .keyRetired
    | some c =>
      if k.previous.isSome || k.retiring != [] then q.complete m 0x61 .retry
      else
        let slots := q.slotsOf t
        let total := slots.length * 4194304
        match q.newProgress 4 1 total with
        | none => q.complete m 0x61 .retry
        | some (pr, q) =>
          let q := q.updKeys t (fun k => { k with
            previous := some c, current := some (q.keySlot t (nextGen c.gen))
            swept := false, sweepPos := 0, sweepTotal := total, sweepSlots := slots, sweepRunning := true
            sweepSince := q.now, sweepAt := none, progress := some pr })
          (q.settle).complete m 0x61 .ok (some pr))) s

/-- SWEEP_DONE (R388): every line has been read; KEY_RETIRE of the previous generation is accepted. -/
def execSweepDone (t : Tenant) (s : State) : Out :=
  done (fun q =>
    let k := q.keysOf t
    if q.running && k.sweepRunning && k.sweepTotal ≤ k.sweepPos && k.sweepAt.isNone then
      (q.endProgress k.progress 1 0).updKeys t (fun k => { k with swept := true, sweepRunning := false, progress := none })
    else q) s

/-- A deadline as it takes effect: one less than 10 µs away is counted and is now (R387). -/
def Qf.deadlineOf (q : Qf) (td : BitVec 64) : Nat × Qf :=
  if td.toNat < q.now + 10000 then (q.now, { q with sec := { q.sec with deadlinesMissed := q.sec.deadlinesMissed + 1 } })
  else (td.toNat, q)

/-- KEY_RETIRE: the generation retires at Td; of two deadlines the earlier stands. -/
def execKeyRetire (m : MgrRef) (tenant : BitVec 16) (gen : BitVec 8) (td : BitVec 64) (s : State) : Out :=
  done (fun q => q.mgr m 0x62 (inRange tenant 4096 && gen != 0) (fun q =>
    let t : Tenant := fld tenant 0 12
    let k := q.keysOf t
    match k.live.find? (fun s => s.gen = gen) with
    | none => q.complete m 0x62 .keyRetired
    | some x =>
      if k.previous.any (fun s => s.gen = gen) && !k.swept then q.complete m 0x62 .retry
      else
        let d := q.deadlineOf td
        let at_ := match x.deadline with | some o => min o d.1 | none => d.1
        let put (s : KeySlot) : KeySlot := if s.gen = gen then { s with deadline := some at_ } else s
        let q := d.2.updKeys t (fun k => { k with current := k.current.map put, previous := k.previous.map put })
        let q := if at_ ≤ q.now then (q.retireNow t gen).settle else q
        q.complete m 0x62 .ok)) s

/-! ### Removing a tenant (R397) -/

/-- Whether an operation reads a line for its requester. -/
def isRead (o : LineOp) : Bool := match o with | .rdNc | .rdShared | .rdOwn => true | _ => false

/-- Whether a half-port's link carries the QFP-M profile, or a CXL tray. -/
def Qf.toTrayLink (q : Qf) (h : HalfPort) : Bool := (q.link h).profile = 2 || (q.link h).profile = 4

/-- Whether a packet is one that the removal of a tenant purges: not a FAIL and not MGT. -/
def purgeable (t : Tenant) (p : Packet) : Bool :=
  (p.tenant = t || p.keyTenant = t) && p.opcode != Opc.fail && p.vc != 5

/-- Whether a queued packet of a removed tenant is purged: not one on QFP-M. -/
def Qf.purges (q : Qf) (t : Tenant) (e : QPkt) : Bool :=
  purgeable t e.pkt && !(match e.out with
    | .half h => q.toTrayLink h
    | _ => false)

/-- Whether a packet that waits to be admitted is purged. -/
def Qf.purgesStalled (q : Qf) (t : Tenant) (u : UnitPkt) : Bool :=
  purgeable t u.pkt && !(match u.outs with
    | some hs => hs.any q.toTrayLink
    | none => false)

/-- Purge the receive staging of one half-port of a tenant's packets; their slots are freed (R330). -/
def Qf.purgeStaging (q : Qf) (t : Tenant) (h : HalfPort) : Qf :=
  if q.toTrayLink h then q
  else
    let out := (q.link h).rx.staged.filter (purgeable t)
    let q := { q with sec := { q.sec with removalPurged := q.sec.removalPurged + out.length } }
    out.foldl (fun q p => q.take (.half h) p) q

/-- Purge the buffer of a tenant's packets: those queued, those that cross a sector link or wait for admission, and those in
receive staging (R397, Table CORE-1). -/
def Qf.purgeTenant (q : Qf) (t : Tenant) : Qf :=
  let out := q.sw.queue.filter (fun e => q.purges t e)
  let crossing := ((q.sw.lanes.flatMap Prod.snd).filter (fun e => q.purges t e)).length
  let waiting := (q.sw.stalled.filter (fun u => q.purgesStalled t u)).length
  let q := out.foldl (fun q e => q.freeCells e) q
  let q := { q with
    sw := { q.sw with
      queue := q.sw.queue.filter (fun e => !out.contains e)
      stalled := q.sw.stalled.filter (fun u => !q.purgesStalled t u)
      lanes := (q.sw.lanes.map (fun x => (x.1, x.2.filter (fun e => !q.purges t e)))).filter (fun x => x.2 != []) }
    sec := { q.sec with removalPurged := q.sec.removalPurged + out.length + crossing + waiting } }
  allHalves.foldl (fun q h => q.purgeStaging t h) q

/-- The reads of a tenant that wait for a line (R397). -/
def LineReq.readOf (t : Tenant) (r : LineReq) : Bool := isRead r.op && r.pkt.tenant = t

/-- Td of a removal (R397): the tenant is disabled, the packets it has in the buffer are purged, its slots retire, its queue
pairs and collectives fail, and its reads are discarded. -/
def Qf.removeNow (q : Qf) (t : Tenant) : Qf :=
  let q := q.updKeys t (fun k => { k with removalDone := true })
  let q := { q with sec := { q.sec with enrol := q.sec.enrol.del t.toNat } }
  let q := { q with edge := { q.edge with records := q.edge.records.upd t.toNat 0 (fun (w : BitVec 64) => w &&& ~~~((1 : BitVec 64) <<< 63)) } }
  let q := q.purgeTenant t
  let q := (q.keysOf t).live.foldl (fun (q : Qf) s => q.retireNow t s.gen) q
  let qs : List (Nat × Qp) := q.qps.qps
  let q := qs.foldl (fun (q : Qf) x =>
    if x.2.ctx.tenant = t && x.2.ctx.state = .ready then q.qpError (BitVec.ofNat 30 x.1) Status.keyRetired.code else q) q
  let q := q.colTenantGone t
  let ls : List (Nat × BlockedLine) := q.home.lines
  let reads := ls.filterMap (fun x => match x.2.txn with
    | some y => if y.req.readOf t then some ((BitVec.ofNat 40 x.1 : LineNo), y) else none
    | none => none)
  let waiting := ls.flatMap (fun x => x.2.waiters.filter (LineReq.readOf t))
  let q := { q with home := { q.home with
    lines := ls.map (fun x => (x.1, { x.2 with waiters := x.2.waiters.filter (fun r => !r.readOf t) })) } }
  let q := waiting.foldl (fun (q : Qf) r => q.failReq r .keyRetired) q
  (reads.foldl (fun (q : Qf) x => q.failTxn x.1 x.2 .keyRetired) q).settle

/-- TENANT_REMOVE (R397). -/
def execTenantRemove (m : MgrRef) (tenant : BitVec 16) (td : BitVec 64) (s : State) : Out :=
  done (fun q => q.mgr m 0x63 (inRange tenant 4096) (fun q =>
    let t : Tenant := fld tenant 0 12
    let d := q.deadlineOf td
    let k := q.keysOf t
    let at_ := match k.removal with | some o => min o d.1 | none => d.1
    let q := d.2.updKeys t (fun k => { k with removal := some at_ })
    let q := if at_ ≤ q.now && !k.removalDone then q.removeNow t else q
    q.complete m 0x63 .ok)) s

/-- REMOVAL_DEADLINE (R397): Td. -/
def execRemovalDeadline (t : Tenant) (s : State) : Out :=
  done (fun q =>
    let k := q.keysOf t
    if q.running && !k.removalDone && k.removal.any (fun d => decide (d ≤ q.now)) then q.removeNow t else q) s

/-- REMOVAL_WITHDRAW (R397): Td + 2 ms: every extent of the tenant is withdrawn, with or without a progress object. -/
def execRemovalWithdraw (t : Tenant) (s : State) : Out :=
  done (fun q =>
    let k := q.keysOf t
    match k.removal with
    | none => q
    | some d =>
      if !q.running || !k.removalDone || decide (q.now < d + 2000000) then q
      else
        let q := q.updKeys t (fun k => { k with removal := none, removalDone := false })
        (q.slotsOf t).foldl (fun q s =>
          if (q.extent s).state != .assigned then q
          else match q.newProgress 1 1 4194304 with
          | some (pr, q) => q.withdrawBegin s (d + 2000000) none (some pr) true
          | none => q.withdrawBegin s (d + 2000000) none none true) q |>.settle) s

/-! ### Attestation and enrolment (R389 to R392) -/

/-- The number of the ephemeral keys of the latest challenge. -/
def Qf.attestKey (q : Qf) : Nat := 2 ^ 64 + q.sec.challenges

/-- The ephemeral public keys of the latest challenge. -/
def Qf.attestPubs (q : Qf) : List Byte :=
  slice (Config.freshPub 0 q.attestKey) 0 97 ++ slice (Config.freshPub 1 q.attestKey) 0 1568

/-- DEBUG_STATE (R400). -/
def Qf.debugState (q : Qf) : Nat := if q.debugOn then 1 else if q.sec.debugState = 0 then 0 else 2

/-- The body of an attestation report (Table SEC-5). -/
def Qf.attestBody (q : Qf) (nonce : List Byte) : BitVec 4096 :=
  let h (m : List Byte) : Nat × Nat := (512, (Config.sha512 m).toNat)
  let i := q.boot.image
  BitVec.ofNat 4096 (packHi [(4, 1), (4, q.debugState), (2, b2n q.boot.activeB),
    (14, if q.part.booted then q.part.ep.toNat else 0), (6, if q.part.booted then q.part.id.toNat else 0),
    (1, b2n q.part.booted), (33, 0), (64, Config.deviceSerial.toNat), (64, q.now), (256, leNat nonce),
    h Config.bootFirmware, h (imageBytes i), h (imageConfig i), h q.ens.fwImage, h q.attestPubs,
    (32, i.version.toNat), (1056, 0)])

/-- A challenge (R389): fresh ephemeral keys, and a report signed by the identity. -/
def Qf.attest (q : Qf) (nonce : List Byte) : Qf :=
  let q := { q with sec := { q.sec with
    challenges := q.sec.challenges + 1, nonce := some nonce, ephemeralUntil := q.now + q.sec.enrolWindow.toNat } }
  let m := bytesOf 512 (q.attestBody nonce) ++ q.attestPubs
  let d := sha512 m
  { q with sec := { q.sec with report := m ++ slice (Config.sign 0 d) 0 512 ++ slice (Config.sign 1 d) 0 4627 } }

/-- EPHEMERAL_KEY_EXPIRY (R389). -/
def execEphemeralKeyExpiry (s : State) : Out :=
  done (fun q => if q.running && decide (q.sec.ephemeralUntil ≤ q.now) then { q with sec := { q.sec with nonce := none } } else q) s

/-- The head of an inner record (Table SEC-6). -/
def innerOk (bs : List Byte) : Bool :=
  let h : BitVec 512 := bitsOf 512 (slice bs 0 64)
  let n := (fld h 488 7 : BitVec 7).toNat
  fld h 508 4 = (1 : BitVec 4) && fld h 256 232 = (0 : BitVec 232) && decide (n ≤ 64) && bs.length = 64 + 32 * n

/-- An enrolment record (R391, R392): its outcome is ENROL_RESULT. -/
def Qf.enrolTenant (q : Qf) (r : List Byte) : Qf :=
  let result (st : BitVec 8) (q : Qf) : Qf := { q with sec := { q.sec with enrolResult := st } }
  match q.sec.nonce with
  | none => result Status.accessViolation.code q
  | some nonce =>
    let body := q.sec.report.take 512
    let prk := hkdfExtract nonce (slice (Config.ecdh q.attestKey (slice r 0 97)) 0 48 ++
      slice (Config.kemDecap q.attestKey (slice r 97 1568)) 0 32)
    let key : BitVec 256 := bitsOf 256 (hkdfExpand prk (ascii "ENROL KEY") 32)
    let iv := hkdfExpand prk (ascii "ENROL IV") 12
    let ct := (r.drop 1665).take (r.length - 1681)
    let tag := r.drop (r.length - 16)
    if r.length < 1681 || gcmTag key iv (sha512 body) ct != tag || q.sec.ephemeralUntil ≤ q.now then
      result Status.accessViolation.code q
    else
      let bs := gcmCrypt key iv ct
      let h : BitVec 512 := bitsOf 512 (slice bs 0 64)
      let t : Tenant := fld h 496 12
      let seed := slice bs 0 32
      let other := match q.sec.enrol.find? t.toNat with | some e => e.seed != seed | none => false
      let q := { q with sec := { q.sec with nonce := none } }
      if !innerOk bs then result Status.unsupportedVersion.code q
      else if other && !(q.keysOf t).empty then result Status.versionConflict.code q
      else
        let n := (fld h 488 7 : BitVec 7).toNat
        let new : Enrolment := { seed, protect := h.getLsbD 495, admitted := chunks 32 n (bs.drop 64) }
        result 0 { q with sec := { q.sec with enrol := q.sec.enrol.set t.toNat new } }

/-! ### Debugger authorisation (R400) -/

/-- A write of DEBUG_AUTHORISE. -/
def Qf.setDebug (q : Qf) (v : BitVec 64) : Qf :=
  let q := { q with sec := { q.sec with debugUntil := v } }
  if q.debugOn then { q with sec := { q.sec with debugState := 1 } } else q

/-- DEBUG_EXPIRY (R400): the authorisation has ended; the session commands of the debugger role end with it. -/
def execDebugExpiry (s : State) : Out :=
  done (fun q =>
    if q.running && q.sec.debugUntil != 0 && decide (q.sec.debugUntil.toNat ≤ q.now) then
      { q with sec := { q.sec with debugUntil := 0 } }
    else q) s

end Sys2Proof.Machine
end

