-- ==== Sys2Proof/Machine/Dict.lean ====
section
/-! DEFINITION. Machine/Dict.lean: what each dictionary entry reads, by the table that lists it.  A key is
256 x index + sub-index; sel is the item the entry acts on (R374, R403, R430, R498, R538). -/

namespace Sys2Proof.Machine

/-! ### Encodings (R454) -/

/-- BOOL. -/
def encBool (b : Bool) : List Byte := [BitVec.ofNat 8 (b2n b)]
/-- U8 and ENUM. -/
def enc8 (n : Nat) : List Byte := [BitVec.ofNat 8 n]
/-- U16. -/
def enc16 (n : Nat) : List Byte := natLe 2 n
/-- U32. -/
def enc32 (n : Nat) : List Byte := natLe 4 n
/-- U64 and TIME, modulo 2^64 (R486). -/
def enc64 (n : Nat) : List Byte := natLe 8 n
/-- I64. -/
def encInt (n : Int) : List Byte := bytesOf 8 (BitVec.ofInt 64 n)

/-- Certificate pairs end to end. -/
def encPairs (ps : List AnchorPair) : List Byte := ps.flatMap (fun p => p.rsa ++ p.mldsa)

/-- ROLE_ANCHORS: per role its code, the number of pairs and the pairs (R446). -/
def encRoles (rs : List (Nat × AnchorPair)) : List Byte :=
  [1, 2, 3, 4].flatMap (fun k =>
    let ps := (rs.filter (fun r => r.1 = k)).map Prod.snd
    if ps = [] then [] else BitVec.ofNat 8 k :: BitVec.ofNat 8 ps.length :: encPairs ps)

/-! ### Counts the entries report -/

/-- Slots in use of this home. -/
def Qf.slotsUsed (q : Qf) : Nat :=
  let xs : List (Nat × Extent) := q.pool.extents
  (xs.filter (fun x => x.2.state != .free)).length

/-- Extension blocks in use of every sector. -/
def Qf.extUsed (q : Qf) : Nat :=
  let xs : List (Nat × DirEnt) := q.home.dir
  (xs.map (fun x => x.2.blocks.length)).sum

/-- Entries in COARSE. -/
def Qf.coarseLines (q : Qf) : Nat :=
  let xs : List (Nat × DirEnt) := q.home.dir
  (xs.filter (fun x => x.2.dstate = .coarse)).length

/-- Contexts not in RESET, all or the privileged ones. -/
def Qf.contexts (q : Qf) (priv : Bool) : Nat :=
  let xs : List (Nat × Qp) := q.qps.qps
  (xs.filter (fun x => x.2.ctx.state != .reset && (!priv || x.2.ctx.priv))).length

/-- Link cells and selection entries that running pipelines hold. -/
def Qf.pipeHeld (q : Qf) : Nat × Nat :=
  let live := q.eng.jobs.filter (fun x => x.started)
  ((live.map (fun x => pipeCells (x.desc.headD 0))).sum, (live.map (fun x => pipeEntries (x.desc.drop 1))).sum)

/-- Cells queued for a half-port. -/
def Qf.halfCells (q : Qf) (h : HalfPort) : Nat := ((q.sw.queue.filter (fun e => e.out = .half h)).map (fun e => e.cells)).sum

/-- The longest present wait for credits at a half-port (R355). -/
def Qf.starved (q : Qf) (h : HalfPort) : Nat :=
  ((q.sw.queue.filter (fun e => e.out = .half h)).filterMap (fun e => e.waitSince)).foldl (fun a t => max a (q.now - t)) 0

/-- Tokens of a bucket now, in whole bytes. -/
def Bucket.bytes (b : Bucket) (now : Nat) : Int := b.at now b.rate.toNat / 800000

/-- INPUT_POWER: the mean of the last whole 100 ms, rounded up to 10 W (R402). -/
def Qf.meanPower (q : Qf) : Nat :=
  let k := q.now / 100000000
  if k = 0 then 0 else ceilDiv (((List.range 100).map (fun i => (Config.sense (100 * (k - 1) + i)).1)).sum / 100) 10000 * 10

/-- IMAGE_VERSION of a slot, 0 where its image is not valid. -/
def Qf.slotVersion (q : Qf) (isB : Bool) : Nat :=
  match q.boot.slot isB with
  | some x => if slotValid q.boot.minSecurity (some x) then x.image.version.toNat else 0
  | none => 0

/-- BOOT_STATE (Table BOOT-3). -/
def BootPhase.code : BootPhase → Nat
  | .reduced => 1 | .full => 2 | .imageInvalid => 3 | _ => 0

/-- A key slot's generation, 0 where there is none. -/
def genOf (k : Option KeySlot) : Nat := match k with | some x => x.gen.toNat | none => 0

/-- SWEEP_PROGRESS in percent (R388). -/
def TenantKeys.percent (k : TenantKeys) : Nat :=
  if k.swept then 100 else if k.sweepTotal = 0 then 0 else k.sweepPos * 100 / k.sweepTotal

/-! ### Reads, table by table -/

/-- Tables POOL-14, COH-11 and COPY-15. -/
def Qf.readPool (q : Qf) (sel key : Nat) : List Byte :=
  let u := q.quota (BitVec.ofNat 12 sel)
  match key with
  | 0x400001 => enc32 3712
  | 0x400002 => enc32 q.framesFree
  | 0x400003 => enc32 q.slotsUsed
  | 0x400004 => enc32 q.pool.cirrus.length
  | 0x400005 => encBool q.pool.short
  | 0x401001 => enc32 u.q0.toNat
  | 0x401002 => enc32 u.q1.toNat
  | 0x401003 => enc32 u.q2.toNat
  | 0x401004 => enc32 u.u0
  | 0x401005 => enc32 u.u1
  | 0x401006 => enc32 u.u2
  | 0x402001 => enc8 q.pool.skewThreshold.toNat
  | 0x402002 => enc64 q.pool.skewHold.toNat
  | 0x402003 => enc64 q.pool.skewIdle.toNat
  | 0x403001 => enc8 q.pool.highMark.toNat
  | 0x403002 => enc8 q.pool.lowMark.toNat
  | 0x403003 => enc8 q.pool.creditFraction.toNat
  | 0x404001 => enc64 q.home.snoopTimeout.toNat
  | 0x404002 => encBool q.home.farEnable
  | 0x404003 => encBool q.home.combineEnable
  | 0x404004 => enc32 q.home.dir.length
  | 0x404005 => enc32 q.coarseLines
  | 0x404006 => enc64 q.home.evictions
  | 0x404007 => enc32 (4194296 - q.extUsed)
  | 0x510001 => enc64 q.qps.ackTimeout.toNat
  | 0x510002 => enc8 7
  | 0x510003 => enc64 100000
  | 0x510004 => enc64 25000
  | 0x510005 => enc32 (q.contexts false)
  | 0x510006 => enc64 q.qps.ctxMisses
  | 0x510007 => enc16 (q.contexts true)
  | 0x510008 => enc32 (1048576 - q.qps.targets.length)
  | 0x510009 => enc64 q.qps.duplicates
  | 0x51000A => enc64 q.qps.retransmissions
  | 0x51000B => enc64 q.qps.doorbellRefused
  | _ => []

/-- Tables CUM-13, GATH-13, SRCH-12, FRB-12 and MATX-8. -/
def Qf.readEngines (q : Qf) (key : Nat) : List Byte :=
  let e := q.eng
  match key with
  | 0x520001 => encBool q.cum.canonical
  | 0x520002 => enc64 q.cum.timeout.toNat
  | 0x520003 => enc16 q.cum.groups.length
  | 0x520004 => enc32 (32768 - 8 * q.colReserved)
  | 0x520005 => enc64 q.cum.completed
  | 0x520006 => enc64 q.cum.aborted
  | 0x520007 => enc64 q.cum.nonfinite
  | 0x520008 => enc64 q.cum.stale
  | 0x530001 => enc8 e.gBackupFactor.toNat
  | 0x530002 => enc16 e.gMinSamples.toNat
  | 0x530003 => enc8 e.gBudget.toNat
  | 0x530004 => enc32 (131072 - q.pipeHeld.1)
  | 0x530005 => enc16 (e.jobs.filter (fun x => x.started)).length
  | 0x530006 => enc64 e.gCompleted
  | 0x530007 => enc64 e.gPartial
  | 0x530008 => enc64 e.gLaunched
  | 0x530009 => enc64 e.gWon
  | 0x540001 => enc8 e.sBackupFactor.toNat
  | 0x540002 => enc16 e.sMinSamples.toNat
  | 0x540003 => enc8 e.sPrefetch.toNat
  | 0x540004 => enc64 e.sCompleted
  | 0x540005 => enc64 e.sPartial
  | 0x540006 => enc64 e.sLaunched
  | 0x540007 => enc64 e.sWon
  | 0x540008 => enc64 e.sAppends
  | 0x540009 => enc8 e.merges.length
  | 0x550001 => enc64 e.frbEncodes
  | 0x550002 => enc64 e.frbEncoded
  | 0x550003 => enc64 e.frbCoarsened
  | 0x550004 => enc64 e.frbExpanded
  | 0x550005 => enc64 e.frbMalformed
  | 0x550006 => enc64 e.frbLoads
  | 0x560001 => enc64 e.mMacs
  | 0x560002 => enc64 e.mRows
  | 0x560003 => enc64 e.mNan
  | 0x560004 => enc32 (131072 - q.pipeHeld.2)
  | 0x560005 => enc64 e.mSelects
  | 0x560006 => enc64 e.mPartial
  | _ => []

/-- Table LINK-13, the port fence of Table FAULT-8 and PEER_FINGERPRINT, for the half-port sel. -/
def Qf.readLink (q : Qf) (sel key : Nat) : List Byte :=
  let h : HalfPort := BitVec.ofNat 6 sel
  let l := q.link h
  match key with
  | 0x300001 => enc8 (q.link (evenHalf h)).modeWritten
  | 0x300002 => enc8 (q.link (evenHalf h)).eclass
  | 0x300003 => enc8 l.state.code
  | 0x300004 => enc8 l.rate
  | 0x300005 => enc8 l.version.toNat
  | 0x300006 => enc16 l.peerEp.toNat
  | 0x300007 => enc8 l.profile
  | 0x300008 => encBool l.trayProt
  | 0x300009 => enc64 l.cnt.fecCorrected
  | 0x30000A => enc64 l.cnt.checkFailures
  | 0x30000B => enc64 l.cnt.replays
  | 0x30000C => enc64 l.cnt.tagFailures
  | 0x30000D => enc64 l.cnt.downEvents
  | 0x30000E => enc8 l.cnt.lastDown
  | 0x30000F => enc64 l.cnt.discarded
  | 0x300010 => encBool l.fence
  | 0x301001 => enc64 q.linkPar.replayTimeout.toNat
  | 0x301002 => enc64 q.linkPar.rekeyInterval.toNat
  | 0x301003 => encBool q.linkPar.sessionRequired
  | 0x301004 => enc8 q.linkPar.versionMax.toNat
  | 0x301005 => enc8 q.linkPar.versionMin.toNat
  | 0x604004 => slice l.sess.peerPrint 0 32
  | 0x830101 => bytesOf 8 (q.obs.asym.get sel 0)
  | _ => []

/-- A sampler. -/
def Qf.sampler (q : Qf) (k : Nat) : Sampler := q.sw.samplers.get k {}

/-- Table CORE-7. -/
def Qf.readCore (q : Qf) (sel key : Nat) : List Byte :=
  let h : HalfPort := BitVec.ofNat 6 sel
  let x := q.sampler sel
  match key with
  | 0x310001 => enc32 624640
  | 0x310002 => enc32 q.sw.free
  | 0x310003 => enc32 q.sw.reqFloor.toNat
  | 0x310004 => enc64 q.sw.stuckTime.toNat
  | 0x310005 => enc32 (524288 - q.edge.hazards.length)
  | 0x310006 => enc32 (2097152 - q.home.reasm.length)
  | 0x310007 => enc64 q.sw.reasmRetries
  | 0x310008 => enc64 q.sw.noRoute
  | 0x310009 => enc64 q.sw.epochMisses
  | 0x31000A => enc64 q.sw.cellErrors
  | 0x311001 => enc8 (q.sw.cutThrough.get sel 0).toNat
  | 0x311002 => enc32 (q.halfCells h)
  | 0x311003 => enc64 (q.starved h)
  | 0x311005 => enc64 (q.sw.purged.get sel 0)
  | 0x810001 => enc16 x.n.toNat
  | 0x810002 => encBool x.egress
  | 0x810003 => enc8 x.half.toNat
  | 0x810004 => enc8 x.vcMask.toNat
  | 0x810005 => enc8 x.tcMask.toNat
  | 0x810006 => enc64 x.taken
  | 0x810007 => enc64 x.dropped
  | 0x810101 => match q.sw.samples.head? with | some r => bytesOf 192 r | none => []
  | _ => if 0x310100 ≤ key && key < 0x310108 then enc8 ((q.sw.alpha.getD (key - 0x310100) 4).toNat) else []

/-- Table SCHED-5: sel is 8 x half-port + class for 0x3200, the half-port for 0x3201 and 0x3210, the tenant for 0x3220. -/
def Qf.readSched (q : Qf) (sel key : Nat) : List Byte :=
  let e := q.egress (BitVec.ofNat 6 (if key / 256 = 0x3200 then sel / 8 else sel))
  let c := sel % 8
  let b := e.shapers.get c {}
  let p := q.policer (BitVec.ofNat 12 sel)
  match key with
  | 0x320001 => encBool (e.strict.getLsbD c)
  | 0x320002 => enc32 (e.quantum.get c 4096).toNat
  | 0x320003 => enc32 b.rate.toNat
  | 0x320004 => enc32 b.burst.toNat
  | 0x320005 => enc8 b.overhead.toNat
  | 0x320006 => encBool b.resetZero
  | 0x320007 => encInt (b.bytes q.now)
  | 0x320101 => enc32 e.port.rate.toNat
  | 0x320102 => enc32 e.port.burst.toNat
  | 0x320103 => enc8 e.port.overhead.toNat
  | 0x320104 => encBool e.port.resetZero
  | 0x320105 => enc8 e.controlShare.toNat
  | 0x321001 => enc16 e.gates.length
  | 0x321002 => enc64 e.gateCycle.toNat
  | 0x321003 => e.pendList.flatMap (fun g => bytesOf 8 g)
  | 0x321004 => enc16 e.pendEntries.toNat
  | 0x321005 => enc64 e.pendCycle.toNat
  | 0x321006 => enc64 e.takeover.toNat
  | 0x321008 => enc8 e.pendState
  | 0x321009 => enc64 e.takeovers
  | 0x322001 => enc32 p.bucket.rate.toNat
  | 0x322002 => enc32 p.bucket.burst.toNat
  | 0x322003 => enc8 p.bucket.overhead.toNat
  | 0x322004 => encBool p.bucket.resetZero
  | 0x322005 => enc8 p.maxTc.toNat
  | 0x322006 => enc8 p.engineTc.toNat
  | 0x322007 => encBool (p.throttled q.now)
  | 0x322008 => enc64 (p.heldTime + (match p.heldSince with | some t => q.now - t | none => 0))
  | 0x323001 => enc8 q.sched.colTc.toNat
  | _ => []

/-- Table SEC-8, for the tenant sel. -/
def Qf.readSecurity (q : Qf) (sel key : Nat) : List Byte :=
  let k := q.sec.keys.get sel {}
  let c := q.dbg.counts.get sel {}
  match key with
  | 0x600001 => enc64 Config.deviceSerial.toNat
  | 0x600002 => Config.certs 0
  | 0x600003 => Config.certs 1
  | 0x601002 => q.sec.report
  | 0x601004 => enc8 q.sec.enrolResult.toNat
  | 0x601005 => enc64 q.sec.enrolWindow.toNat
  | 0x602001 => enc8 (genOf k.current)
  | 0x602002 => enc8 (genOf k.previous)
  | 0x602003 => enc8 k.percent
  | 0x602004 => encBool (q.sec.enrol.has sel)
  | 0x602005 => encBool (q.protectedTenant (BitVec.ofNat 12 sel))
  | 0x603001 => enc64 q.sec.macFailures
  | 0x603002 => enc64 q.sec.keyRefusals
  | 0x603003 => enc64 q.sec.deadlinesMissed
  | 0x603004 => enc64 q.sec.removalPurged
  | 0x603005 => enc64 q.sec.bar2Refused
  | 0x604001 => encPairs q.sec.anchors
  | 0x604002 => enc64 q.sec.debugUntil.toNat
  | 0x604003 => enc8 q.debugState
  | 0x605001 => enc64 (q.coarse (BitVec.ofNat 12 sel) 0)
  | 0x605002 => enc64 (q.coarse (BitVec.ofNat 12 sel) 1)
  | 0x605003 => enc64 (q.coarse (BitVec.ofNat 12 sel) 2)
  | 0x605101 => enc64 (c.now.getD 0 0)
  | 0x605102 => enc64 (c.now.getD 1 0)
  | 0x605103 => enc64 (c.now.getD 2 0)
  | _ => []

/-- Table FAULT-8. -/
def Qf.readFaults (q : Qf) (key : Nat) : List Byte :=
  let f := q.flt
  match key with
  | 0x210001 => enc8 q.pwr.failState
  | 0x210002 => enc8 q.pwr.holdupHealth.toNat
  | 0x210003 => enc32 q.pwr.pendingLimit.toNat
  | 0x210004 => enc32 q.protectedPending
  | 0x210005 => enc64 q.pwr.lastDrainTime.toNat
  | 0x210006 => enc64 q.pwr.lastDrainBytes.toNat
  | 0x820001 => enc8 f.mode
  | 0x820002 => match f.ring.head? with | some r => bytesOf 32 r | none => []
  | 0x820003 => enc64 f.lost
  | 0x820004 => enc64 f.requestTimeout.toNat
  | 0x820005 => enc64 f.heartbeat.toNat
  | 0x820006 => enc8 f.flapLimit.toNat
  | 0x820007 => enc64 1000000
  | 0x820009 => enc64 f.fences
  | 0x82000A => enc16 q.qps.backupEp.toNat
  | 0x82000C => enc32 q.linesStuck
  | 0x82000D => enc32 q.home.lostSets.length
  | 0x82000E => enc64 f.lostSnoops
  | 0x820010 => enc64 q.home.reasmCleared
  | 0x820011 => enc64 f.colTimeout.toNat
  | _ => []

/-- Table ENS-6 but for the session's cursor and its record. -/
def Qf.readEnsign (q : Qf) (key : Nat) : List Byte :=
  let e := q.ens
  match key with
  | 0x700001 => enc64 Config.meterSerial.toNat
  | 0x700002 => enc32 e.fwVersion.toNat
  | 0x700003 => sha512 e.fwImage
  | 0x700004 => enc32 e.sealCtr.toNat
  | 0x700005 => Config.certs 2 ++ Config.certs 3
  | 0x700006 => enc64 e.lastEnergy.toNat
  | 0x700007 => enc16 e.lastPeak.toNat
  | 0x701001 => enc64 e.interval.toNat
  | 0x701002 => enc64 e.recordSeq.toNat
  | 0x701003 => enc64 (match e.log.head? with | some x => x.1.toNat | none => 0)
  | 0x701005 => enc8 e.fill
  | 0x702003 => enc8 e.stageState
  | _ => []

/-- Table MGMT-7 but for what belongs to the session, and Table BOOT-7. -/
def Qf.readMgmt (q : Qf) (sel key : Nat) : List Byte :=
  match key with
  | 0x100001 => ascii "EDN-QF960-M48"
  | 0x100002 => enc8 2
  | 0x100004 => enc8 (q.mgmt.sessions.filter (fun x => 2 ≤ x.phase)).length
  | 0x101001 => enc8 q.mgmt.addrMode
  | 0x101002 => q.mgmt.ipv4
  | 0x101003 => q.mgmt.ipv6
  | 0x101004 => enc16 q.mgmt.udpPort.toNat
  | 0x101005 => encBool q.mgmt.activePort
  | 0x102002 => encRoles q.mgmt.roles
  | 0x801001 => bytesOf 32 (q.mgmt.progress.get sel {}).bits
  | 0x802001 => match q.mgmt.violations.head? with | some r => bytesOf 32 r | none => []
  | 0x802002 => enc64 q.mgmt.violationsLost
  | 0x900001 => enc8 q.boot.phase.code
  | 0x900002 => encBool q.boot.activeB
  | 0x900003 => encBool q.boot.trial
  | 0x900004 => enc32 (q.slotVersion false)
  | 0x900005 => enc32 (q.slotVersion true)
  | 0x900006 => enc16 q.boot.minSecurity.toNat
  | 0x900007 => enc64 q.boot.releaseTime.toNat
  | 0x901002 => enc8 q.boot.stageState
  | 0x901006 => enc8 q.boot.refusal
  | 0x901007 => encBool q.boot.ownerLock
  | 0x902001 => q.boot.resetLog
  | _ => []

/-- Tables OBS-8 and ELEC-9. -/
def Qf.readObserve (q : Qf) (sel key : Nat) : List Byte :=
  let o := q.obs
  let d := q.dbg
  let p := q.pwr
  match key with
  | 0x830001 => enc64 q.now
  | 0x830002 => enc8 o.timeState
  | 0x830003 => enc8 o.parent.toNat
  | 0x830004 => enc64 o.syncInterval.toNat
  | 0x830005 => bytesOf 8 o.offsetPs
  | 0x830006 => enc32 o.delayPs.toNat
  | 0x830008 => encBool o.ppsIn
  | 0x830009 => encBool o.ppsOut
  | 0x83000A => enc8 o.ppsState
  | 0x83000B => enc64 o.steps
  | 0x83000C => enc64 o.leads
  | 0x831002 => encBool d.squalled
  | 0x831003 => encBool d.propagate
  | 0x831004 => encBool d.accept
  | 0x831005 => enc16 d.onFault.toNat
  | 0x831006 => enc64 d.squallTime.toNat
  | 0x831007 => enc8 d.source
  | 0x831101 => enc32 (Config.scanLength sel)
  | 0x831102 => q.scanBytes sel
  | 0x831103 => encBool d.tapEnable
  | 0x832002 => encBool d.hzPropagate
  | 0x832003 => enc8 d.hzState
  | 0x832004 => if d.hzState = 3 then q.hzData else []
  | 0x833001 => enc64 (o.pages.get sel 0).toNat
  | 0x833002 => enc64 o.pageFails
  | 0x200001 => enc32 q.meanPower
  | 0x200002 => enc32 q.senses.1
  | 0x200003 => enc32 q.meanVoltage
  | 0x200004 => enc32 q.senses.2.2
  | 0x200101 => encBool (p.enable.get sel true)
  | 0x200102 => enc8 (p.domain.get sel 0)
  | 0x200103 => enc32 (Config.domainPower sel (q.now / 1000000))
  | 0x200201 => enc16 p.tjMax.toNat
  | 0x200202 => enc16 p.tjThrottle.toNat
  | 0x200203 => enc16 p.stackMax.toNat
  | 0x200204 => enc8 p.thermal
  | 0x200205 => enc64 p.throttleTime
  | 0x201001 => enc64 p.holdupInterval.toNat
  | 0x201003 => enc32 p.holdupUf.toNat
  | 0x201004 => enc64 p.holdupLast.toNat
  | _ => []

/-- The value of an entry that no session holds for itself, for the item sel. -/
def Qf.readEntry (q : Qf) (sel key : Nat) : List Byte :=
  let i := key / 256
  if 0x4000 ≤ i && i < 0x5200 then q.readPool sel key
  else if 0x5200 ≤ i && i < 0x6000 then q.readEngines key
  else if i = 0x3000 || i = 0x3010 || key = 0x604004 || i = 0x8301 then q.readLink sel key
  else if (0x3100 ≤ i && i < 0x3200) || i = 0x8100 || i = 0x8101 then q.readCore sel key
  else if 0x3200 ≤ i && i < 0x4000 then q.readSched sel key
  else if 0x6000 ≤ i && i < 0x7000 then q.readSecurity sel key
  else if i = 0x2100 || i = 0x8200 then q.readFaults key
  else if 0x7000 ≤ i && i < 0x8000 then q.readEnsign key
  else if i < 0x2000 || (0x8010 ≤ i && i < 0x8100) || 0x9000 ≤ i then q.readMgmt sel key
  else q.readObserve sel key

end Sys2Proof.Machine
end

