-- ==== Sys2Proof/Machine/DictWrite.lean ====
section
/-! DEFINITION. Machine/DictWrite.lean: what a write of each dictionary entry does, with its range (R68, R327, R374, R430,
R441, R462, R498, R521, R538), and the settings store (R515). -/

namespace Sys2Proof.Machine

/-- A write within its range takes effect; another is refused and the entry keeps its value. -/
def Qf.ranged (q : Qf) (ok : Bool) (new : Qf) : Ans := if ok then new.okAns else q.badAns

/-- A write of 1 to an entry that acts; 0 does nothing. -/
def Qf.acting (q : Qf) (v : Nat) (f : Qf → Ans) : Ans := if v = 1 then f q else if v = 0 then q.okAns else q.badAns

/-- A byte string of a fixed length. -/
def Qf.exactly (q : Qf) (n : Nat) (bs : List Byte) (f : Qf → Ans) : Ans :=
  if bs.length = n then f q else ({ status := .accessViolation, detail := 4 }, q)

/-! ### The management network (R444, R462) -/

/-- Sessions of an address family end. -/
def Qf.endFamily (q : Qf) (v6 : Bool) : Qf :=
  q.endSessions (fun x => x.v6 = v6)

/-- The IPv4 configuration: sessions end where the address is another. -/
def Qf.setIpv4 (q : Qf) (bs : List Byte) : Qf :=
  let q := if bs.take 4 = q.mgmt.ipv4.take 4 then q else q.endFamily false
  { q with mgmt := { q.mgmt with ipv4 := bs } }

/-- The IPv6 configuration. -/
def Qf.setIpv6 (q : Qf) (bs : List Byte) : Qf :=
  let q := if bs.take 16 = q.mgmt.ipv6.take 16 then q else q.endFamily true
  { q with mgmt := { q.mgmt with ipv6 := bs } }

/-- Whether a mode takes an address family from DHCP. -/
def leases (mode : Nat) (v6 : Bool) : Bool := if v6 then 2 ≤ mode else mode = 1 || mode = 3

/-- MGMT_ADDR_MODE: an address that the new mode configures in another way is removed (log 37). -/
def Qf.setAddrMode (q : Qf) (m : Nat) : Qf :=
  let old := q.mgmt.addrMode
  let q := { q with mgmt := { q.mgmt with addrMode := m } }
  let q := if leases old false = leases m false then q
    else ({ q with mgmt := { q.mgmt with lease4 := none } }).setIpv4 (List.replicate 9 0)
  if leases old true = leases m true then q
  else ({ q with mgmt := { q.mgmt with lease6 := none } }).setIpv6 (List.replicate 33 0)

/-! ### Anchors (R396, R446, R448, R449) -/

/-- At most n certificate pairs that fill some bytes. -/
def pairsOf : Nat → List Byte → Option (List AnchorPair)
  | _, [] => some []
  | 0, _ => none
  | n + 1, bs =>
    match pairSplit bs with
    | some x => (pairsOf n x.2).map (fun ps => x.1 :: ps)
    | none => none

/-- Exactly n pairs at the head of some bytes, and what follows. -/
def takePairs : Nat → List Byte → Option (List AnchorPair × List Byte)
  | 0, bs => some ([], bs)
  | n + 1, bs =>
    match pairSplit bs with
    | some x => (takePairs n x.2).map (fun y => (x.1 :: y.1, y.2))
    | none => none

/-- The roles of a ROLE_ANCHORS value: codes in rising order, each with 1 to 8 pairs. -/
def rolesOf : Nat → Nat → List Byte → Option (List (Nat × AnchorPair))
  | _, _, [] => some []
  | 0, _, _ => none
  | k + 1, last, r :: c :: bs =>
    if r.toNat ≤ last || 4 < r.toNat || c = 0 || 8 < c.toNat then none
    else match takePairs c.toNat bs with
      | some x => (rolesOf k r.toNat x.2).map (fun ys => x.1.map (fun p => (r.toNat, p)) ++ ys)
      | none => none
  | _ + 1, _, [_] => none

/-- Every anchor with its role: the owner's and those of ROLE_ANCHORS. -/
def Mgmt.allRoles (m : Mgmt) : List (Nat × AnchorPair) := m.owner.map (fun p => (1, p)) ++ m.roles

/-- A session whose anchor pair is listed under its role no more ends (R449). -/
def Qf.endUnanchored (q : Qf) : Qf :=
  q.endSessions (fun x => x.phase = 3 && x.role != 0 && !q.mgmt.allRoles.contains (x.role, x.pair))

/-- ROLE_ANCHORS. -/
def Qf.setRoles (q : Qf) (bs : List Byte) : Ans :=
  match rolesOf 4 0 bs with
  | some rs => ({ q with mgmt := { q.mgmt with roles := rs } }).endUnanchored.okAns
  | none => q.badAns

/-- OWNER_CLAIM: the first pair wins (R448). -/
def Qf.claimOwner (q : Qf) (bs : List Byte) : Ans :=
  if q.mgmt.owner != [] then ({ status := .versionConflict }, q)
  else match pairSplit bs with
    | some x => if x.2 = [] then ({ q with mgmt := { q.mgmt with owner := [x.1] } }).okAns else q.badAns
    | none => q.badAns

/-- The release record: the device serial, signed by both of Ednivon's service keys; it clears every anchor and ends every
session (R448; the layout is log 38). -/
def Qf.releaseOwner (q : Qf) (bs : List Byte) : Ans :=
  let d := sha512 (bs.take 8)
  if bs.length = 5147 && bs.take 8 = bytesOf 8 Config.deviceSerial && Config.rsaVerify Config.service.1 d (slice bs 8 512) &&
      Config.mldsaVerify Config.service.2 d (slice bs 520 4627) then
    let q := q.endSessions (fun _ => true)
    ({ q with mgmt := { q.mgmt with owner := [], roles := [] } }).okAns
  else q.badAns

/-- LINK_TRUST_ANCHORS: up to 16 pairs (R396). -/
def Qf.setAnchors (q : Qf) (bs : List Byte) : Ans :=
  match pairsOf 16 bs with
  | some ps => ({ q with sec := { q.sec with anchors := ps } }).okAns
  | none => q.badAns

/-! ### Writes, table by table: v is the value as a number, bs its bytes -/

/-- Tables POOL-14, COH-11 and COPY-15. -/
def Qf.writePool (q : Qf) (sel key v : Nat) : Ans :=
  let t : Tenant := BitVec.ofNat 12 sel
  let p := q.pool
  match key with
  | 0x401001 => (q.updQuota t (fun u => { u with q0 := BitVec.ofNat 32 v })).okAns
  | 0x401002 => (q.updQuota t (fun u => { u with q1 := BitVec.ofNat 32 v })).okAns
  | 0x401003 => (q.updQuota t (fun u => { u with q2 := BitVec.ofNat 32 v })).okAns
  | 0x402001 => q.ranged (v ≤ 64) { q with pool := { p with skewThreshold := BitVec.ofNat 8 v } }
  | 0x402002 => ({ q with pool := { p with skewHold := BitVec.ofNat 64 v } }).okAns
  | 0x402003 => ({ q with pool := { p with skewIdle := BitVec.ofNat 64 v } }).okAns
  | 0x403001 => q.ranged (v ≤ 100 && v < p.lowMark.toNat) ({ q with pool := { p with highMark := BitVec.ofNat 8 v } }).checkShort
  | 0x403002 => q.ranged (v ≤ 100 && p.highMark.toNat < v) ({ q with pool := { p with lowMark := BitVec.ofNat 8 v } }).checkShort
  | 0x403003 => q.ranged (v ≤ 100) { q with pool := { p with creditFraction := BitVec.ofNat 8 v } }
  | 0x404001 => ({ q with home := { q.home with snoopTimeout := BitVec.ofNat 64 v } }).okAns
  | 0x404002 => ({ q with home := { q.home with farEnable := v = 1 } }).okAns
  | 0x404003 => ({ q with home := { q.home with combineEnable := v = 1 } }).okAns
  | 0x510001 => ({ q with qps := { q.qps with ackTimeout := BitVec.ofNat 64 v } }).okAns
  | _ => q.badAns

/-- Tables CUM-13, GATH-13 and SRCH-12. -/
def Qf.writeEngines (q : Qf) (key v : Nat) : Ans :=
  let e := q.eng
  match key with
  | 0x520002 => ({ q with cum := { q.cum with timeout := BitVec.ofNat 64 v } }).okAns
  | 0x530001 => ({ q with eng := { e with gBackupFactor := BitVec.ofNat 8 v } }).okAns
  | 0x530002 => ({ q with eng := { e with gMinSamples := BitVec.ofNat 16 v } }).okAns
  | 0x530003 => q.ranged (v ≤ 100) { q with eng := { e with gBudget := BitVec.ofNat 8 v } }
  | 0x540001 => ({ q with eng := { e with sBackupFactor := BitVec.ofNat 8 v } }).okAns
  | 0x540002 => ({ q with eng := { e with sMinSamples := BitVec.ofNat 16 v } }).okAns
  | 0x540003 => q.ranged (v ≤ 16) { q with eng := { e with sPrefetch := BitVec.ofNat 8 v } }
  | _ => q.badAns

/-- Versions of the fabric protocol (R308). -/
def qfpVersion (v : Nat) : Bool := v = 0x10 || v = 0x11 || v = 0x20

/-- Table LINK-13, PORT_FENCE and LINK_DELAY_ASYMMETRY, for the half-port sel. -/
def Qf.writeLink (q : Qf) (sel key v : Nat) : Ans :=
  let h : HalfPort := BitVec.ofNat 6 sel
  let l := q.linkPar
  match key with
  | 0x300001 => if 3 < v || (v = 2 && sel % 8 ≥ 2) then q.badAns else (q.setPortMode h v).okAns
  | 0x300002 => q.ranged (v ≤ 2) (q.updLink (evenHalf h) (fun x => { x with eclass := v }))
  | 0x300010 => (q.setFence h (v = 1)).okAns
  | 0x301001 => ({ q with linkPar := { l with replayTimeout := BitVec.ofNat 64 v } }).okAns
  | 0x301002 => ({ q with linkPar := { l with rekeyInterval := BitVec.ofNat 64 v } }).okAns
  | 0x301003 => ({ q with linkPar := { l with sessionRequired := v = 1 } }).okAns
  | 0x301004 => q.ranged (qfpVersion v && l.versionMin.toNat ≤ v) { q with linkPar := { l with versionMax := BitVec.ofNat 8 v } }
  | 0x301005 => q.ranged (qfpVersion v && v ≤ l.versionMax.toNat) { q with linkPar := { l with versionMin := BitVec.ofNat 8 v } }
  | 0x830101 =>
    let x := (BitVec.ofNat 64 v).toInt
    q.ranged (-100000 ≤ x && x ≤ 100000) { q with obs := { q.obs with asym := q.obs.asym.set sel (BitVec.ofNat 64 v) } }
  | _ => q.badAns

/-- Change a sampler. -/
def Qf.updSampler (q : Qf) (k : Nat) (f : Sampler → Sampler) : Qf :=
  { q with sw := { q.sw with samplers := q.sw.samplers.upd k {} f } }

/-- Table CORE-7. -/
def Qf.writeCore (q : Qf) (sel key v : Nat) : Ans :=
  let h : HalfPort := BitVec.ofNat 6 sel
  match key with
  | 0x310003 => ({ q with sw := { q.sw with reqFloor := BitVec.ofNat 32 v } }).okAns
  | 0x310004 => ({ q with sw := { q.sw with stuckTime := BitVec.ofNat 64 v } }).okAns
  | 0x311001 => ({ q with sw := { q.sw with cutThrough := q.sw.cutThrough.set sel (BitVec.ofNat 8 v) } }).okAns
  | 0x311004 => if 5 < v then q.badAns else (q.purgeQueue h (BitVec.ofNat 3 v)).okAns
  | 0x810001 => (q.setSampler sel (BitVec.ofNat 16 v)).okAns
  | 0x810002 => q.ranged (v ≤ 1) (q.updSampler sel (fun x => { x with egress := v = 1 }))
  | 0x810003 => q.ranged (v ≤ 63) (q.updSampler sel (fun x => { x with half := BitVec.ofNat 6 v }))
  | 0x810004 => q.ranged (v ≤ 0x3F) (q.updSampler sel (fun x => { x with vcMask := BitVec.ofNat 8 v }))
  | 0x810005 => (q.updSampler sel (fun x => { x with tcMask := BitVec.ofNat 8 v })).okAns
  | _ =>
    if 0x310100 ≤ key && key < 0x310108 then
      q.ranged (v ≤ 9) { q with sw := { q.sw with alpha := q.sw.alpha.set (key - 0x310100) (BitVec.ofNat 8 v) } }
    else q.badAns

/-- A shaper's BURST. -/
def burstOk (v : Nat) : Bool := 4304 ≤ v && v ≤ 16777216

/-- RATE, BURST, OVERHEAD or RESET_MODE of a bucket (R366): the first three reconfigure it. -/
def Bucket.write (b : Bucket) (now part v : Nat) : Bucket :=
  match part with
  | 0 => b.reconf now (BitVec.ofNat 32 v) b.burst b.overhead
  | 1 => b.reconf now b.rate (BitVec.ofNat 32 v) b.overhead
  | 2 => b.reconf now b.rate b.burst (BitVec.ofNat 8 v)
  | _ => { b with resetZero := v = 1 }

/-- The range of each part of a bucket. -/
def bucketOk (part v : Nat) : Bool :=
  match part with
  | 0 => true
  | 1 => burstOk v
  | 2 => v ≤ 63
  | _ => v ≤ 1

/-- A part of a traffic class's shaper (Table SCHED-5). -/
def Qf.setClass (q : Qf) (h : HalfPort) (c part v : Nat) : Ans :=
  q.ranged (bucketOk part v) (q.updEgress h (fun e => { e with shapers := e.shapers.upd c {} (fun b => b.write q.now part v) }))
/-- A part of a half-port's shaper. -/
def Qf.setPort (q : Qf) (h : HalfPort) (part v : Nat) : Ans :=
  q.ranged (bucketOk part v) (q.updEgress h (fun e => { e with port := e.port.write q.now part v }))
/-- A part of a tenant's policer. -/
def Qf.setPolicer (q : Qf) (t : Tenant) (part v : Nat) : Ans :=
  q.ranged (bucketOk part v) (q.updPolicer t (fun p => { p with bucket := p.bucket.write q.now part v }))

/-- Table SCHED-5. -/
def Qf.writeSched (q : Qf) (sel key v : Nat) (bs : List Byte) : Ans :=
  let h : HalfPort := BitVec.ofNat 6 (if key / 256 = 0x3200 then sel / 8 else sel)
  let c := sel % 8
  let t : Tenant := BitVec.ofNat 12 sel
  match key with
  | 0x320001 => q.ranged (v ≤ 1) (q.updEgress h (fun e =>
      { e with strict := (e.strict &&& ~~~((1 : BitVec 8) <<< c)) ||| (BitVec.ofNat 8 v <<< c) }))
  | 0x320002 => q.ranged (64 ≤ v && v ≤ 65536) (q.updEgress h (fun e => { e with quantum := e.quantum.set c (BitVec.ofNat 32 v) }))
  | 0x320003 => q.setClass h c 0 v
  | 0x320004 => q.setClass h c 1 v
  | 0x320005 => q.setClass h c 2 v
  | 0x320006 => q.setClass h c 3 v
  | 0x320101 => q.setPort h 0 v
  | 0x320102 => q.setPort h 1 v
  | 0x320103 => q.setPort h 2 v
  | 0x320104 => q.setPort h 3 v
  | 0x320105 => q.ranged (1 ≤ v && v ≤ 100) (q.updEgress h (fun e => { e with controlShare := BitVec.ofNat 8 v }))
  | 0x321003 => if bs.length % 8 != 0 || 2048 < bs.length then ({ status := .accessViolation, detail := 4 }, q)
      else (q.updEgress h (fun e => { e with pendList := (chunks 8 256 bs).map (fun x => bitsOf 64 x &&& ~~~((0xFFFFFF : BitVec 64) <<< 32)) })).okAns
  | 0x321004 => q.ranged (v ≤ 256) (q.updEgress h (fun e => { e with pendEntries := BitVec.ofNat 16 v }))
  | 0x321005 => (q.updEgress h (fun e => { e with pendCycle := BitVec.ofNat 64 v })).okAns
  | 0x321006 => (q.updEgress h (fun e => { e with takeover := BitVec.ofNat 64 v })).okAns
  | 0x321007 => q.acting v (fun q => takenAns (q.armGate h))
  | 0x322001 => q.setPolicer t 0 v
  | 0x322002 => q.setPolicer t 1 v
  | 0x322003 => q.setPolicer t 2 v
  | 0x322004 => q.setPolicer t 3 v
  | 0x322005 => q.ranged (v ≤ 7) (q.updPolicer t (fun p => { p with maxTc := BitVec.ofNat 8 v }))
  | 0x322006 => q.ranged (v ≤ 7) (q.updPolicer t (fun p => { p with engineTc := BitVec.ofNat 8 v }))
  | 0x323001 => q.ranged (v ≤ 7) { q with sched := { q.sched with colTc := BitVec.ofNat 8 v } }
  | _ => q.badAns

/-- Table SEC-8. -/
def Qf.writeSecurity (q : Qf) (key v : Nat) (bs : List Byte) : Ans :=
  match key with
  | 0x601001 => q.exactly 32 bs (fun q => (q.attest bs).okAns)
  | 0x601003 => (q.enrolTenant bs).okAns
  | 0x601005 => ({ q with sec := { q.sec with enrolWindow := BitVec.ofNat 64 v } }).okAns
  | 0x604001 => q.setAnchors bs
  | 0x604002 => (q.setDebug (BitVec.ofNat 64 v)).okAns
  | _ => q.badAns

/-- Table FAULT-8 but for PORT_FENCE. -/
def Qf.writeFaults (q : Qf) (key v : Nat) (bs : List Byte) : Ans :=
  let f := q.flt
  match key with
  | 0x210003 => q.ranged (1048576 ≤ v && v ≤ 100663296) { q with pwr := { q.pwr with pendingLimit := BitVec.ofNat 32 v } }
  | 0x820001 => q.ranged (v ≤ 2) { q with flt := { f with mode := v } }
  | 0x820004 => ({ q with flt := { f with requestTimeout := BitVec.ofNat 64 v } }).okAns
  | 0x820005 => q.ranged (10000 ≤ v && v ≤ 1000000) { q with flt := { f with heartbeat := BitVec.ofNat 64 v } }
  | 0x820006 => q.ranged (1 ≤ v && v ≤ 255) { q with flt := { f with flapLimit := BitVec.ofNat 8 v } }
  | 0x820008 => if 16384 ≤ v then q.badAns else (q.commitFence (BitVec.ofNat 14 v) true).okAns
  | 0x82000A => if 16384 ≤ v && v != 0xFFFF then q.badAns else (q.setBackup (BitVec.ofNat 16 v)).okAns
  | 0x82000B => q.exactly 10 bs (fun q =>
      if 16384 ≤ leNat (slice bs 8 2) then q.badAns else (q.lineClear (bitsOf 60 (slice bs 0 8)) (bitsOf 14 (slice bs 8 2))).okAns)
  | 0x82000F => if 16384 ≤ v then q.badAns else (q.clearSource (BitVec.ofNat 14 v)).okAns
  | 0x820011 => q.ranged (1000000 ≤ v && v ≤ 10000000000) { q with flt := { f with colTimeout := BitVec.ofNat 64 v } }
  | _ => q.badAns

/-- Table ENS-6 but for the cursor. -/
def Qf.writeEnsign (q : Qf) (key v : Nat) (bs : List Byte) : Ans :=
  match key with
  | 0x701001 => takenAns (q.setInterval (BitVec.ofNat 64 v))
  | 0x702001 => (q.ensignStage (imageOf bs)).okAns
  | 0x702002 => q.acting v (fun q => takenAns (q.ensignActivate 1))
  | 0x702004 => takenAns (q.setAuthority bs)
  | _ => q.badAns

/-- Tables MGMT-7 and BOOT-7. -/
def Qf.writeMgmt (q : Qf) (key v : Nat) (bs : List Byte) : Ans :=
  match key with
  | 0x101001 => if 3 < v then q.badAns else (q.setAddrMode v).okAns
  | 0x101002 => q.exactly 9 bs (fun q => (q.setIpv4 bs).okAns)
  | 0x101003 => q.exactly 33 bs (fun q => (q.setIpv6 bs).okAns)
  | 0x101004 => q.ranged (1024 ≤ v) { q with mgmt := { q.mgmt with udpPort := BitVec.ofNat 16 v } }
  | 0x102001 => q.claimOwner bs
  | 0x102002 => q.setRoles bs
  | 0x901001 => q.stageImage (imageOf bs)
  | 0x901003 => q.acting v (fun q => q.activate)
  | 0x901004 => q.acting v (fun q => q.confirm)
  | 0x901005 => q.acting v (fun q => q.rollBack)
  | 0x901007 => ({ q with boot := { q.boot with ownerLock := v = 1 } }).okAns
  | 0xF00001 => q.releaseOwner bs
  | _ => q.badAns

/-- Tables OBS-8 and ELEC-9. -/
def Qf.writeObserve (q : Qf) (sel key v : Nat) : Ans :=
  let o := q.obs
  let d := q.dbg
  match key with
  | 0x830003 => if 63 < v && v != 0xFF then q.badAns else (q.setTimeParent (BitVec.ofNat 8 v)).okAns
  | 0x830004 => q.ranged (31250 ≤ v && v ≤ 1000000) { q with obs := { o with syncInterval := BitVec.ofNat 64 v } }
  | 0x830007 => takenAns (q.setZenith (BitVec.ofNat 64 v))
  | 0x830008 => ({ q with obs := { o with ppsIn := v = 1 } }).okAns
  | 0x830009 => ({ q with obs := { o with ppsOut := v = 1 } }).okAns
  | 0x831001 => q.acting v (fun q => (q.squall 1).okAns)
  | 0x831003 => ({ q with dbg := { d with propagate := v = 1 } }).okAns
  | 0x831004 => ({ q with dbg := { d with accept := v = 1 } }).okAns
  | 0x831005 => ({ q with dbg := { d with onFault := BitVec.ofNat 16 v } }).okAns
  | 0x831103 => ({ q with dbg := { d with tapEnable := v = 1 } }).okAns
  | 0x832001 => takenAns (q.horizonCapture d.hzPropagate (BitVec.ofNat 64 v))
  | 0x832002 => ({ q with dbg := { d with hzPropagate := v = 1 } }).okAns
  | 0x832005 => q.acting v (fun q => ({ q with dbg := { q.dbg with hzState := 0, hzEntries := [], hzDropped := 0 } }).okAns)
  | 0x833001 => q.ranged (v % 64 = 0) { q with obs := { o with pages := q.obs.pages.set sel (BitVec.ofNat 64 v) } }
  | 0x200101 => q.setDomain sel (v = 1)
  | 0x200202 => q.ranged (850 ≤ v && v ≤ 1000) { q with pwr := { q.pwr with tjThrottle := BitVec.ofNat 16 v } }
  | 0x201001 => q.ranged (60000000000 ≤ v && v ≤ 86400000000000) { q with pwr := { q.pwr with holdupInterval := BitVec.ofNat 64 v } }
  | 0x201002 => q.acting v (fun q => q.holdupNow)
  | _ => q.badAns

/-- The effect of a write, for the item sel. -/
def Qf.writeEntry (q : Qf) (sel key : Nat) (bs : List Byte) : Ans :=
  let i := key / 256
  let v := leNat bs
  if 0x4000 ≤ i && i < 0x5200 then q.writePool sel key v
  else if 0x5200 ≤ i && i < 0x6000 then q.writeEngines key v
  else if i = 0x3000 || i = 0x3010 || i = 0x8301 then q.writeLink sel key v
  else if (0x3100 ≤ i && i < 0x3200) || i = 0x8100 || i = 0x8101 then q.writeCore sel key v
  else if 0x3200 ≤ i && i < 0x4000 then q.writeSched sel key v bs
  else if 0x6000 ≤ i && i < 0x7000 then q.writeSecurity key v bs
  else if i = 0x2100 || i = 0x8200 then q.writeFaults key v bs
  else if 0x7000 ≤ i && i < 0x8000 then q.writeEnsign key v bs
  else if i < 0x2000 || 0x9000 ≤ i then q.writeMgmt key v bs
  else q.writeObserve sel key v

/-- A write of a value of the entry's type (R454): BOOL takes 0 and 1 only. -/
def Qf.writeTyped (q : Qf) (e : Entry) (sel : Nat) (bs : List Byte) : Ans :=
  let key := 256 * e.index.toNat + e.sub.toNat
  match e.type.width with
  | some n =>
    if bs.length != n then ({ status := .accessViolation, detail := 4 }, q)
    else if e.type = .bool && 1 < leNat bs then q.badAns
    else q.writeEntry sel key bs
  | none => q.writeEntry sel key bs

/-! ### Settings (R515) -/

/-- The format code under which the running image writes an entry. -/
def Qf.formatOf (q : Qf) (index : BitVec 16) (sub : BitVec 8) : Option (BitVec 8) :=
  (q.boot.image.settings.find? (fun x => x.1 = index && x.2.1 = sub)).map (fun x => x.2.2)

/-- Keep an entry's value in the settings store where it differs from its default, under the running image's format. -/
def Qf.storeSetting (q : Qf) (e : Entry) (sel : Nat) : Qf :=
  if e.access != .rw || perSession e.index e.sub then q
  else
    let key := 256 * e.index.toNat + e.sub.toNat
    let v := q.readEntry sel key
    let rest := q.boot.settings.filter (fun x => !(x.1 = e.index && x.2.1 = e.sub && x.2.2.1 = sel))
    let new := if v = ({} : Qf).readEntry sel key then rest
      else rest ++ [(e.index, e.sub, sel, v, (q.formatOf e.index e.sub).getD 0)]
    { q with boot := { q.boot with settings := new } }

/-- Apply one stored entry at reset release: one whose format is not the image's, or that the image does not know, is reset
and logged in 6 bytes. -/
def Qf.applySetting (q : Qf) (x : BitVec 16 × BitVec 8 × Nat × List Byte × BitVec 8) : Qf :=
  match q.formatOf x.1 x.2.1, entryAt x.1 x.2.1 with
  | some f, some e =>
    if f = x.2.2.2.2 then
      (let y := (q.writeTyped e x.2.2.1 x.2.2.2.1).2
       { y with boot := { y.boot with settings := y.boot.settings ++ [x] } })
    else { q with boot := { q.boot with resetLog := q.boot.resetLog ++ (bytesOf 2 x.1 ++ [x.2.1, x.2.2.2.2, f, 0]) } }
  | f, _ => { q with boot := { q.boot with resetLog := q.boot.resetLog ++ (bytesOf 2 x.1 ++ [x.2.1, x.2.2.2.2, f.getD 0, 0]) } }

/-- Load the settings (R507, R513, R515). -/
def Qf.loadSettings (q : Qf) : Qf :=
  let xs := q.boot.settings
  xs.foldl (fun q x => q.applySetting x) { q with boot := { q.boot with settings := [], resetLog := [] } }

end Sys2Proof.Machine
end

