-- ==== Sys2Proof/Machine/Boot.lean ====
section
/-! DEFINITION. Machine/Boot.lean: bring-up after secure boot (R503, R507 to R510) and partition boot (R511, R512). -/

namespace Sys2Proof.Machine

/-! ### Reset release and the boot states (Table BOOT-3) -/

/-- Every switchable domain ON. -/
def allOn : Tbl Nat := (List.range domainCount).map (fun d => (d, 2))

/-- RESET_RELEASE (R503 step 4): the switchable domains come on, Zenith counts from 0 (R479), the block is STARTING and loads
its settings (R513, R515); the first hold-up test is due in 10 s (R529). -/
def execResetRelease (s : State) : Out :=
  done (fun q =>
    if q.boot.phase != .holding || q.pwr.resetLow || q.pwr.failState != 0 then q
    else
      let q := (q.stepClock 0).beginInterval
      let q := { q with
        boot := { q.boot with phase := .starting, releaseAt := 0 }
        pwr := { q.pwr with domain := allOn, waking := [], testDue := 10000000000, lastThermal := 0 } }
      q.loadSettings) s

/-- REDUCED_SERVICE (R507, R508): every stack is trained at half rate, and the host ports out of reset answer. -/
def execReducedService (s : State) : Out :=
  done (fun q =>
    if q.boot.phase != .starting || q.dbg.squalled || q.pwr.failState != 0 then q
    else { q with
      boot := { q.boot with phase := .reduced, stackRate := List.replicate 8 1 }
      host := { q.host with ready := q.pwr.perst.map (fun b => !b) } }) s

/-- STACK_RETRAIN (R509): a stack is at full rate, or stays at half. -/
def execStackRetrain (stack : Sector) (good : Bool) (s : State) : Out :=
  done (fun q =>
    if q.boot.phase != .reduced || q.dbg.squalled then q
    else { q with boot := { q.boot with stackRate := q.boot.stackRate.set stack.toNat (if good then 2 else 1) } }) s

/-- CUMULUS_SELF_TEST (R509): a unit's F64 path has passed its fixed vectors, or failed. -/
def execCumulusSelfTest (sector : Sector) (good : Bool) (s : State) : Out :=
  done (fun q =>
    if q.boot.phase != .reduced || q.dbg.squalled then q
    else { q with boot := { q.boot with selfTest := q.boot.selfTest.set sector.toNat (if good then 1 else 2) } }) s

/-- A link is at its full rate, or has none to reach: it is down, its peer declared none, or it was given up (R313). -/
def Link.settled (l : Link) : Bool := !l.live || l.rate = 2 || !l.peerFull || 3 ≤ l.rateFails

/-- Every condition of FULL is met (Table BOOT-3). -/
def Qf.calibrated (q : Qf) : Bool :=
  q.boot.stackRate.all (· = 2) && q.boot.selfTest.all (· = 1) && allHalves.all (fun h => (q.link h).settled)

/-- FULL: CANONICAL_AVAILABLE is 1 if every self-test passed; a stack at half rate and a unit that failed raise UNIT faults
(R507, R510). -/
def Qf.enterFull (q : Qf) : Qf :=
  let b := q.boot
  let q := (List.range 8).foldl (fun q k =>
    let s : Sector := BitVec.ofNat 3 k
    let q := if b.stackRate.getD k 0 = 2 then q else q.unitFault { sector := s, unit := 3 } 0
    if b.selfTest.getD k 0 = 2 then q.unitFault { sector := s, unit := 4 } 0 else q) q
  { q with
    boot := { q.boot with phase := .full, releaseTime := q.obs.zenith }
    cum := { q.cum with canonical := b.selfTest.all (· = 1) } }

/-- FULL_SERVICE (R507). -/
def execFullService (s : State) : Out :=
  done (fun q => if q.boot.phase = .reduced && q.calibrated && !q.dbg.squalled then q.enterFull else q) s

/-- FULL_TIMEOUT (R510): 8 s after reset release. -/
def execFullTimeout (s : State) : Out :=
  done (fun q =>
    if q.boot.phase = .reduced && decide (q.boot.releaseAt + 8000000000 ≤ q.now) && !q.dbg.squalled then q.enterFull else q) s

/-! ### Partition boot (R511, R512) -/

/-- The kind of each endpoint of a composition table. -/
def kindsOf (cs : List (BitVec 32)) : Tbl Nat :=
  cs.foldl (fun (t : Tbl Nat) c => t.set (fld c 0 14 : BitVec 14).toNat (fld c 14 2 : BitVec 2).toNat) []

/-- The fence table: one byte per endpoint, in the composition's order (R417). -/
def fencesOf (cs : List (BitVec 32)) (bs : List Byte) : Tbl Nat :=
  (List.zip cs bs).foldl (fun (t : Tbl Nat) x => t.set (fld x.1 0 14 : BitVec 14).toNat x.2.toNat) []

/-- The arguments are in range and their tables as long as the count says (R511, R512). -/
def bootArgsOk (partition : BitVec 8) (endpoint count : BitVec 16) (composition : List (BitVec 32)) (fence : List Byte)
    (routes : List (BitVec 64)) (groups : List (BitVec 128)) (masks : List (BitVec 64)) : Bool :=
  decide (partition.toNat < 64) && inRange endpoint 16384 && decide (count.toNat ≤ 16384) &&
  composition.length = count.toNat && fence.length = count.toNat && composition.all (fun c => fld c 16 16 = (0 : BitVec 16)) &&
  composition.all (fun c => fld c 14 2 != (3 : BitVec 2)) &&
  decide (routes.length ≤ 16384) && routes.all routeOk && decide (groups.length ≤ 1024) && groups.all groupOk &&
  masks.length = 8 && masks.all (fun m => fld m 0 34 != (0 : BitVec 34))

/-- The tier-0 system area is zero: no region table, extent map, version record, directory entry or context is left. -/
def Qf.zeroSystem (q : Qf) : Qf :=
  { q with
    sys := []
    pool := { q.pool with extents := [], withdrawals := [], moves := [], incoming := [], waiting := [], restoring := [], frames := [], hotPages := [] }
    ver := {}
    home := { q.home with dir := [], lostSets := [] }
    edge := { q.edge with cache := [], worn := [] }
    qps := { q.qps with qps := [], own := [], targets := [] } }

/-- Every switch slice and stack is ON (R25): those switched off before come on (log 169). -/
def Qf.slicesOn (q : Qf) : Qf :=
  let ds := (List.range 8).map (fun s => 5 * s) ++ (List.range 8).map (fun s => 72 + s)
  { q with pwr := { q.pwr with
    domain := ds.foldl (fun t d => t.set d 2) q.pwr.domain, enable := ds.foldl (fun t d => t.set d true) q.pwr.enable } }

/-- PARTITION_BOOT (R511, R512): RETRY in STARTING, ACCESS_VIOLATION where already booted; it completes when the partition's
time has been taken, at once at the time root. -/
def execPartitionBoot (m : MgrRef) (partition : BitVec 8) (endpoint epoch count : BitVec 16) (composition : List (BitVec 32))
    (fence : List Byte) (routes : List (BitVec 64)) (groups : List (BitVec 128)) (masks : List (BitVec 64)) (s : State) : Out :=
  done (fun q => q.mgr m 0x28 (bootArgsOk partition endpoint count composition fence routes groups masks) (fun q =>
    if q.boot.phase = .starting then q.complete m 0x28 .retry
    else if q.part.booted then q.complete m 0x28 .accessViolation
    else
      let q : Qf := allHalves.foldl (fun q h => q.lowerLink h 9) q.zeroSystem.slicesOn
      let bank : Bank := { label := epoch, routes := writeTable [] 0 routes, groups := writeTable [] 0 groups }
      let q := { q with
        sw := { q.sw with current := bank, previous := none, pending := { bank with label := epoch + 1 } }
        flt := { q.flt with mode := 1 }
        part := {
          booted := true, id := fld partition 0 6, ep := fld endpoint 0 14, kinds := kindsOf composition
          fences := fencesOf composition fence, masks := masks.map (fun x => fld x 0 34), epoch := epoch
          advancedAt := q.now, bootCmd := some m } }
      if q.timeParent.isSome then q
      else ({ q with obs := { q.obs with timeState := 4 } }).takeTime)) s

end Sys2Proof.Machine
end

