-- ==== Sys2Proof/Machine/Agwen.lean ====
section
/-! DEFINITION. Machine/Agwen.lean: the management network and the dictionary server (R443 to R462): sessions, rights,
requests and their answers, segments and events. -/

namespace Sys2Proof.Machine

/-! ### Sessions -/

/-- Whether the management cores serve: an image runs, or the minimal service of R506. -/
def Qf.agLive (q : Qf) : Bool := q.zenithOn || q.boot.phase = .imageInvalid

/-- A session. -/
def Qf.session (q : Qf) (id : Nat) : Option AgSession := q.mgmt.sessions.find? (fun x => x.id = id)

/-- Change a session. -/
def Qf.updSession (q : Qf) (id : Nat) (f : AgSession → AgSession) : Qf :=
  { q with mgmt := { q.mgmt with sessions := updFirst (fun x => x.id = id) f q.mgmt.sessions } }

/-- Hand a response to the network, and keep it among the session's last 64 (R453). -/
def Qf.answerFrame (q : Qf) (id : Nat) (f : AgFrame) : Qf :=
  let q := { q with mgmt := { q.mgmt with outbox := q.mgmt.outbox ++ [f] } }
  q.updSession id (fun x => { x with kept := (x.kept ++ [f]).drop (x.kept.length - 63) })

/-- What a request is answered with. -/
structure Reply where
  verdict : Verdict := {}
  payload : List Byte := []
  final : Bool := false
  deriving DecidableEq, Repr, Inhabited

/-- A request in a session (R453): one answered before is answered again and does nothing; one older than all that are kept is
discarded; before the session is established only HELLO and BIND are taken (R445). -/
def Qf.agRequest (q : Qf) (a : AgwenRef) (op : BitVec 8) (early : Bool) (f : AgSession → Qf → Reply × Qf) : Qf :=
  match q.session a.session with
  | none => q
  | some x =>
    if !q.agLive then q
    else
      let q := q.updSession a.session (fun x => { x with last := q.now })
      match x.kept.find? (fun k => k.seq = a.seq) with
      | some k => { q with mgmt := { q.mgmt with outbox := q.mgmt.outbox ++ [k] } }
      | none =>
        if (x.kept != [] && x.kept.all (fun k => decide (a.seq.toNat < k.seq.toNat))) || (!early && x.phase != 3) then q
        else
          let r := f x q
          r.2.answerFrame a.session {
            session := a.session, opcode := op ||| 0x80, seq := a.seq, status := r.1.verdict.status.code
            detail := r.1.verdict.detail, final := r.1.final, payload := r.1.payload }

/-- An answer without payload. -/
def plainReply (x : Ans) : Reply × Qf := ({ verdict := x.1 }, x.2)

/-! ### Rights (Table MGMT-1, R447, R506) -/

/-- The verdicts of Table MGMT-4. -/
def deny (detail : Nat) : Verdict := { status := .accessViolation, detail := BitVec.ofNat 8 detail }
/-- No such entry, or an opcode not in the session's version. -/
def unknown (detail : Nat) : Verdict := { status := .unsupportedVersion, detail := BitVec.ofNat 8 detail }

/-- Entries that the minimal service reaches (R506). -/
def bootEntry (e : Entry) : Bool :=
  (e.index = 0x1000 && 1 ≤ e.sub.toNat && e.sub.toNat ≤ 5) || (0x9000 ≤ e.index.toNat && e.index.toNat ≤ 0x9020)

/-- The entry a request names, at the session's revision. -/
def Qf.entryFor (q : Qf) (x : AgSession) (index : BitVec 16) (sub : BitVec 8) : Option Entry :=
  match entryAt index sub with
  | some e => if x.revision < e.revision || (q.boot.phase = .imageInvalid && !bootEntry e) then none else some e
  | none => none

/-- Whether a session may read an entry. -/
def Qf.mayRead (q : Qf) (x : AgSession) (e : Entry) : Bool :=
  let i := e.index.toNat
  if 0xF000 ≤ i then x.service
  else if perSession e.index e.sub then x.role != 0
  else match x.role with
    | 1 => true
    | 2 | 3 => !e.secure
    | 4 => !e.secure || (0x8000 ≤ i && i < 0x9000 && q.debugOn)
    | _ => 0x1000 ≤ i && i < 0x1100 && !e.secure

/-- Whether a session may write an entry. -/
def mayWrite (x : AgSession) (e : Entry) : Bool :=
  let i := e.index.toNat
  if 0xF000 ≤ i then x.service
  else if perSession e.index e.sub then x.role != 0
  else match x.role with
    | 1 => !(0x7000 ≤ i && i < 0x8000)
    | 2 => !e.secure && ((0x1000 ≤ i && i < 0x7000) || (0x8200 ≤ i && i ≤ 0x8301) || i = 0x8330 || (0x9000 ≤ i && i < 0xA000))
    | 3 => 0x7000 ≤ i && i < 0x8000
    | 4 => !e.secure && 0x8000 ≤ i && i < 0x9000
    | _ => i = 0x1020 && e.sub = 1

/-! ### Selections (R457) -/

/-- The key of an entry. -/
def entryKey (index : BitVec 16) (sub : BitVec 8) : Nat := 256 * index.toNat + sub.toNat

/-- The *_SELECT entry that an index acts through. -/
def selectOf (i : Nat) : Nat :=
  if i = 0x3000 || i = 0x8301 then 0x300000
  else if i = 0x3110 || i = 0x3201 || i = 0x3210 then 0x311000
  else if i = 0x3220 then 0x322000
  else if i = 0x4010 then 0x401000
  else if i = 0x6020 || i = 0x6050 || i = 0x6051 || i = 0x8330 then 0x602000
  else if i = 0x8100 then 0x810000
  else if i = 0x8311 then 0x831100
  else if i = 0x2001 then 0x200100
  else if i = 0x8010 then 0x801000
  else 0

/-- Entries of a selected index that act on no one item: SHAPER entries name two, TAP_ENABLE and COUNTER_PAGE_FAILURES none. -/
def AgSession.sel (x : AgSession) (key : Nat) : Nat :=
  let s (k : Nat) : Nat := x.selects.get k 0
  if key / 256 = 0x3200 then 8 * s 0x311000 + s 0x320000
  else if key = 0x604004 then s 0x300000
  else if key = 0x831103 || key = 0x833002 || selectOf (key / 256) = 0 then 0
  else s (selectOf (key / 256))

/-- The greatest value of a selection. -/
def selectMax (key : Nat) : Nat :=
  match key with
  | 0x300000 | 0x311000 => 63
  | 0x322000 | 0x401000 | 0x602000 => 4095
  | 0x810000 => 15
  | 0x320000 => 7
  | 0x831100 => 47
  | 0x200100 => 79
  | 0x801000 => 1023
  | _ => 2 ^ 64 - 1

/-! ### Reading (R441, R461, R463, R493) -/

/-- A record of DICT_LISTING. -/
def listingRecord (e : Entry) : List Byte :=
  bytesOf 2 e.index ++ [e.sub, BitVec.ofNat 8 e.type.code, BitVec.ofNat 8 (e.access.code + 4 * b2n e.secure),
    BitVec.ofNat 8 e.revision, 0, 0]

/-- The value of an entry as a session reads it. -/
def Qf.valueFor (q : Qf) (x : AgSession) (e : Entry) : List Byte :=
  let key := entryKey e.index e.sub
  if perSession e.index e.sub then natLe (e.type.width.getD 0) (x.selects.get key 0)
  else if key = 0x100003 then (entries.filter (fun e => e.revision ≤ x.revision)).flatMap listingRecord
  else if key = 0x100005 then enc8 x.role
  else if key = 0x701004 then (q.ens.atCursor (x.selects.get 0x110001 0)).1
  else q.readEntry (x.sel key) key

/-- What a read does: records leave their ring, the cursor advances, and a final state has been read. -/
def Qf.readEffect (q : Qf) (x : AgSession) (key : Nat) : Qf :=
  match key with
  | 0x810101 => { q with sw := { q.sw with samples := q.sw.samples.drop 1 } }
  | 0x820002 => { q with flt := { q.flt with ring := q.flt.ring.drop 1 } }
  | 0x802001 => { q with mgmt := { q.mgmt with violations := q.mgmt.violations.drop 1 } }
  | 0x701004 => q.updSession x.id (fun y =>
      { y with selects := y.selects.set 0x110001 (q.ens.atCursor (x.selects.get 0x110001 0)).2 })
  | 0x801001 =>
    let k := x.sel key
    if (q.mgmt.progress.get k {}).kind != 0 && (q.mgmt.progress.get k {}).state != 0 then
      q.updProgress (some k) (fun p => { p with readFinal := if p.readFinal.isSome then p.readFinal else some q.now })
    else q
  | _ => q

/-- Read an entry: its value, or why not. -/
def Qf.dictRead (q : Qf) (x : AgSession) (index : BitVec 16) (sub : BitVec 8) (most : Option Nat) : Reply × Qf :=
  match q.entryFor x index sub with
  | none => ({ verdict := unknown 5 }, q)
  | some e =>
    if !q.mayRead x e then ({ verdict := deny 1 }, q)
    else if e.access = .wo then ({ verdict := deny 2 }, q)
    else if entryKey index sub = 0x831102 && !q.dbg.squalled then ({ verdict := deny 3 }, q)
    else
      let v := q.valueFor x e
      match most with
      | some n => if n < v.length then ({ verdict := deny 4 }, q) else ({ payload := v }, q.readEffect x (entryKey index sub))
      | none => ({ payload := v }, q.readEffect x (entryKey index sub))

/-! ### Writing (R455, R456, R515) -/

/-- Whether another session has an entry reserved by an open segmented write. -/
def Qf.reserved (q : Qf) (x : AgSession) (index : BitVec 16) (sub : BitVec 8) : Bool :=
  q.mgmt.sessions.any (fun y => y.id != x.id && y.segs.any (fun g => g.write && g.index = index && g.sub = sub))

/-- Why a session may not write an entry; none where it may. -/
def Qf.writeBar (q : Qf) (x : AgSession) (index : BitVec 16) (sub : BitVec 8) : Except Verdict Entry :=
  match q.entryFor x index sub with
  | none => .error (unknown 5)
  | some e =>
    if !mayWrite x e then .error (deny 1)
    else if e.access = .ro || e.access = .const then .error (deny 2)
    else if q.reserved x index sub then .error { status := .retry }
    else .ok e

/-- A selection or the cursor, within its range. -/
def Qf.writeSelect (q : Qf) (x : AgSession) (e : Entry) (bs : List Byte) : Ans :=
  let key := entryKey e.index e.sub
  if bs.length != e.type.width.getD 0 then (deny 4, q)
  else if selectMax key < leNat bs then q.badAns
  else (q.updSession x.id (fun y => { y with selects := y.selects.set key (leNat bs) })).okAns

/-- A write that a session may make: one change of one sub-entry, kept in the settings store. -/
def Qf.writeWith (q : Qf) (x : AgSession) (index : BitVec 16) (sub : BitVec 8) (f : Entry → Qf → Ans) : Ans :=
  match q.writeBar x index sub with
  | .error v => (v, q)
  | .ok e =>
    let r := f e q
    if r.1.status = .ok then (r.1, r.2.storeSetting e (x.sel (entryKey index sub))) else r

/-- Write a value to an entry. -/
def Qf.dictWrite (q : Qf) (x : AgSession) (index : BitVec 16) (sub : BitVec 8) (bs : List Byte) : Ans :=
  q.writeWith x index sub (fun e q =>
    if perSession index sub then q.writeSelect x e bs else q.writeTyped e (x.sel (entryKey index sub)) bs)

/-- A write request to an entry, of whatever length. -/
def Qf.agWrite (q : Qf) (a : AgwenRef) (op : BitVec 8) (index : BitVec 16) (sub : BitVec 8) (bs : List Byte) : Qf :=
  q.agRequest a op false (fun x q => plainReply (q.dictWrite x index sub bs))

/-- A read request of an entry, of whatever length. -/
def Qf.agRead (q : Qf) (a : AgwenRef) (index : BitVec 16) (sub : BitVec 8) : Qf :=
  q.agRequest a 0x03 false (fun x q => q.dictRead x index sub none)

/-- AGWEN_READ (R447, R454): a value of at most 1,128 bytes. -/
def execAgwenRead (a : AgwenRef) (index : BitVec 16) (sub : BitVec 8) (s : State) : Out :=
  done (fun q => q.agRequest a 0x03 false (fun x q => q.dictRead x index sub (some 1128))) s

/-- AGWEN_WRITE (R454, R456): a value of at most 1,128 bytes. -/
def execAgwenWrite (a : AgwenRef) (index : BitVec 16) (sub : BitVec 8) (value : List Byte) (s : State) : Out :=
  done (fun q => q.agRequest a 0x04 false (fun x q => plainReply
    (if 1128 < value.length then (match q.writeBar x index sub with | .error v => (v, q) | .ok _ => (deny 4, q))
     else q.dictWrite x index sub value))) s

/-- COMPARE_WRITE (R456): in version 2 only, and only where the entry holds the expected value; never to a WO entry. -/
def execCompareWrite (a : AgwenRef) (index : BitVec 16) (sub : BitVec 8) (expected value : List Byte) (s : State) : Out :=
  done (fun q => q.agRequest a 0x05 false (fun x q =>
    if x.version != 2 then ({ verdict := unknown 6 }, q)
    else match q.writeBar x index sub with
      | .error v => ({ verdict := v }, q)
      | .ok e =>
        if e.access = .wo then ({ verdict := deny 2 }, q)
        else
          let v := q.valueFor x e
          if v = expected then plainReply (q.dictWrite x index sub value)
          else ({ verdict := { status := .versionConflict }, payload := v }, q))) s

/-! ### Segments (R455, R516) -/

/-- Whether a segment is that of an entry. -/
def Segment.is (g : Segment) (w : Bool) (index : BitVec 16) (sub : BitVec 8) : Bool := g.write = w && g.index = index && g.sub = sub

/-- Put a session's segment. -/
def Qf.putSegment (q : Qf) (x : AgSession) (g : Segment) : Qf :=
  q.updSession x.id (fun y => { y with segs := y.segs.filter (fun z => !z.is g.write g.index g.sub) ++ [g] })

/-- Remove a session's segment. -/
def Qf.dropSegment (q : Qf) (x : AgSession) (w : Bool) (index : BitVec 16) (sub : BitVec 8) : Qf :=
  q.updSession x.id (fun y => { y with segs := y.segs.filter (fun z => !z.is w index sub) })

/-- An open write is discarded; a staging write's progress ends ABORTED. -/
def Qf.discardSegment (q : Qf) (x : AgSession) (g : Segment) : Qf :=
  (q.endProgress g.progress 3 Status.aborted.code).dropSegment x g.write g.index g.sub

/-- The value of a segmented write is applied as one write. -/
def Qf.segFinal (q : Qf) (x : AgSession) (g : Segment) : Ans :=
  let q := q.dropSegment x true g.index g.sub
  if entryKey g.index g.sub = 0x901001 then q.writeWith x g.index g.sub (fun _ q => q.stageEnd g.progress (imageOf g.data))
  else q.dictWrite x g.index g.sub g.data

/-- A segment joins its write. -/
def Qf.segJoin (q : Qf) (x : AgSession) (g : Segment) (final : Bool) (data : List Byte) : Ans :=
  let g := { g with data := g.data ++ data, last := q.now }
  let q := q.updProgress g.progress (fun p => { p with position := g.data.length })
  if final then q.segFinal x g else (q.putSegment x g).okAns

/-- WRITE_SEG (R455): OFFSET 0 opens a write and reserves the entry; each further segment starts where the last one ended. -/
def Qf.writeSeg (q : Qf) (x : AgSession) (index : BitVec 16) (sub : BitVec 8) (offset : Nat) (final : Bool) (data : List Byte) : Ans :=
  match q.writeBar x index sub with
  | .error v => (v, q)
  | .ok _ =>
    if 1024 < data.length then (deny 4, q)
    else if offset = 0 then
      let q := match x.segs.find? (fun g => g.is true index sub) with | some g => q.discardSegment x g | none => q
      if entryKey index sub = 0x901001 then
        (let y := q.stageOpen 0
         match y.1 with
         | some k => y.2.2.segJoin x { index, sub, progress := some k } final data
         | none => y.2)
      else q.segJoin x { index, sub } final data
    else match x.segs.find? (fun g => g.is true index sub) with
      | some g => if g.data.length = offset then q.segJoin x g final data else q.badAns
      | none => q.badAns

/-- WRITE_SEG. -/
def execWriteSeg (a : AgwenRef) (index : BitVec 16) (sub : BitVec 8) (offset : BitVec 64) (final : Bool) (data : List Byte)
    (s : State) : Out :=
  done (fun q => q.agRequest a 0x07 false (fun x q => plainReply (q.writeSeg x index sub offset.toNat final data))) s

/-- READ_SEG (R455): OFFSET 0 copies the value, and later segments come from the copy until its end has been read. -/
def Qf.readSeg (q : Qf) (x : AgSession) (index : BitVec 16) (sub : BitVec 8) (offset : Nat) : Reply × Qf :=
  let part (v : List Byte) : Reply := { payload := (v.drop offset).take 1024, final := decide (v.length ≤ offset + 1024) }
  let keep (q : Qf) (v : List Byte) : Qf :=
    if v.length ≤ offset + 1024 then q.dropSegment x false index sub
    else q.putSegment x { index, sub, data := v, write := false, last := q.now }
  if offset = 0 then
    (let r := q.dictRead x index sub none
     if r.1.verdict.status = .ok then (part r.1.payload, keep r.2 r.1.payload) else r)
  else match x.segs.find? (fun g => g.is false index sub) with
    | some g => if g.data.length < offset then ({ verdict := deny 3 }, q) else (part g.data, keep q g.data)
    | none => ({ verdict := deny 3 }, q)

/-- READ_SEG. -/
def execReadSeg (a : AgwenRef) (index : BitVec 16) (sub : BitVec 8) (offset : BitVec 64) (s : State) : Out :=
  done (fun q => q.agRequest a 0x06 false (fun x q => q.readSeg x index sub offset.toNat)) s

/-- SEGMENT_TIMEOUT (R455): 10 s without a segment. -/
def execSegmentTimeout (session : Nat) (index : BitVec 16) (sub : BitVec 8) (s : State) : Out :=
  done (fun q => match q.session session with
    | none => q
    | some x => (x.segs.filter (fun g => g.index = index && g.sub = sub && decide (g.last + 10000000000 ≤ q.now))).foldl
        (fun q g => q.discardSegment x g) q) s

/-! ### Opening a session (R445, R446, R448, R452) -/

/-- DTLS_HANDSHAKE (R445): the one suite, group and signature scheme, the cookie exchange, and a good RSA-4096 chain. -/
def execDtlsHandshake (c : DtlsMsg) (s : State) : Out :=
  done (fun q =>
    if !q.agLive || c.suite != 0x1302 || c.group != 0x0018 || c.scheme != 0x0806 || !c.cookie ||
        (Config.chainEnd c.rsaChain).isNone || (q.session c.session).isSome then q
    else
      let x : AgSession := { id := c.session, core := q.mgmt.nextCore, rsaChain := c.rsaChain, exporter := c.exporter
                             v6 := c.v6, last := q.now }
      { q with mgmt := { q.mgmt with sessions := q.mgmt.sessions ++ [x], nextCore := !q.mgmt.nextCore } }) s

/-- The agreed protocol version and dictionary revision; none where there is no common value (R452). -/
def helloChoice (versions : BitVec 8) (lo hi : BitVec 16) : Option (Nat × Nat) :=
  let v := if versions.getLsbD 1 then 2 else if versions.getLsbD 0 then 1 else 0
  let r := min hi.toNat 2
  if v = 0 || r = 0 || r < lo.toNat then none else some (v, r)

/-- AGWEN_HELLO (R452): version and revision; RETRY beyond 16 sessions; a session with nothing in common is closed. -/
def execAgwenHello (a : AgwenRef) (versions : BitVec 8) (revLow revHigh : BitVec 16) (role : BitVec 8) (s : State) : Out :=
  done (fun q =>
    let q' := q.agRequest a 0x01 true (fun x q =>
      if x.phase != 1 then ({ verdict := unknown 6 }, q)
      else if 16 ≤ (q.mgmt.sessions.filter (fun y => 2 ≤ y.phase)).length then ({ verdict := { status := .retry } }, q)
      else match helloChoice versions revLow revHigh with
        | some c => ({ payload := [BitVec.ofNat 8 c.1, BitVec.ofNat 8 c.2] }, q.updSession x.id (fun y =>
            { y with phase := 2, version := c.1, revision := c.2, wanted := role.toNat }))
        | none => ({ verdict := unknown 6 }, q.updSession x.id (fun y => { y with phase := 0 })))
    q'.endSessions (fun x => x.phase = 0)) s

/-- The anchors that a client's two chains end at, with their roles (R446). -/
def Qf.rolesFor (q : Qf) (rsa mldsa : List Byte) : List (Nat × AnchorPair) :=
  q.mgmt.allRoles.filter (fun r => Config.chainEnd rsa = some r.2.rsa && Config.chainEnd mldsa = some r.2.mldsa)

/-- The role of a session at BIND: none where the client is refused (R446 to R448). -/
def Qf.roleAtBind (q : Qf) (x : AgSession) (chain : List Byte) : Option (Nat × AnchorPair) :=
  let rs := q.rolesFor x.rsaChain chain
  let service := Config.chainEnd x.rsaChain = some Config.service.1 && Config.chainEnd chain = some Config.service.2
  if q.mgmt.owner = [] || (rs = [] && service) then some (0, {})
  else match rs with
    | [] => none
    | [r] => some r
    | _ => rs.find? (fun r => r.1 = x.wanted)

/-- BIND (R445, R446): the ML-DSA-87 signature over the exporter value and both chains decide; any failure closes the session. -/
def execBind (a : AgwenRef) (chain sig : List Byte) (s : State) : Out :=
  done (fun q =>
    let q' := q.agRequest a 0x02 true (fun x q =>
      let bad : Reply × Qf := ({ verdict := deny 1 }, q.updSession x.id (fun y => { y with phase := 0 }))
      let good := x.phase = 2 && Config.mldsaVerify (Config.chainLeaf chain) x.exporter sig && (Config.chainEnd chain).isSome
      match if good then q.roleAtBind x chain else none with
      | some r =>
        ({ payload := Config.certs 1 ++ slice (Config.sign 1 x.exporter) 0 4627 }, q.updSession x.id (fun y =>
          { y with
            phase := 3, role := r.1, pair := r.2, selects := []
            service := Config.chainEnd x.rsaChain = some Config.service.1 && Config.chainEnd chain = some Config.service.2 }))
      | none => bad)
    q'.endSessions (fun x => x.phase = 0)) s

/-! ### Events and the end of a session (R459, R460) -/

/-- SUBSCRIBE (Table MGMT-5). -/
def execSubscribe (a : AgwenRef) (mask : BitVec 32) (s : State) : Out :=
  done (fun q => q.agRequest a 0x08 false (fun x q =>
    if 63 < mask.toNat then ({ verdict := deny 3 }, q)
    else ({}, q.updSession x.id (fun y => { y with mask := mask })))) s

/-- EVENT_ACK. -/
def execEventAck (a : AgwenRef) (event : BitVec 32) (s : State) : Out :=
  done (fun q => q.agRequest a 0x0A false (fun x q =>
    ({}, q.updSession x.id (fun y => { y with events := y.events.filter (fun e => e.1 != event) })))) s

/-- EVENT_REPEAT: each event unacknowledged for 200 ms is sent again, at most five times. -/
def execEventRepeat (session : Nat) (s : State) : Out :=
  done (fun q => match q.session session with
    | none => q
    | some x =>
      let due (e : BitVec 32 × List Byte × Nat × Nat) : Bool := decide (e.2.2.1 + 200000000 ≤ q.now) && decide (e.2.2.2 ≤ 5)
      if !q.agLive then q
      else
        let out : List AgFrame := (x.events.filter due).map (fun e =>
          { session := x.id, opcode := 0x09, seq := e.1, payload := e.2.1 })
        let q := { q with mgmt := { q.mgmt with outbox := q.mgmt.outbox ++ out } }
        q.updSession session (fun y => { y with
          events := y.events.map (fun e => if due e then (e.1, e.2.1, q.now, e.2.2.2 + 1) else e) })) s

/-- KEEPALIVE. -/
def execKeepalive (a : AgwenRef) (s : State) : Out := done (fun q => q.agRequest a 0x0B false (fun _ q => ({}, q))) s

/-- CLOSE. -/
def execClose (a : AgwenRef) (s : State) : Out :=
  done (fun q =>
    let q' := q.agRequest a 0x0C false (fun x q => ({}, q.updSession x.id (fun y => { y with phase := 0 })))
    q'.endSessions (fun x => x.phase = 0)) s

/-- SESSION_IDLE: 60 s without a frame from the client. -/
def execSessionIdle (session : Nat) (s : State) : Out :=
  done (fun q => if q.agLive then q.endSessions (fun x => x.id = session && decide (x.last + 60000000000 ≤ q.now)) else q) s

/-- DTLS_ALERT. -/
def execDtlsAlert (session : Nat) (s : State) : Out :=
  done (fun q => if q.agLive then q.endSessions (fun x => x.id = session) else q) s

/-! ### The management network (R443, R444) -/

/-- The addresses are announced on a port: gratuitous ARP, and an unsolicited neighbour advertisement (log 39). -/
def Qf.announce (q : Qf) (port : Bool) : Qf :=
  let mac := Config.macOf port
  { q with mgmt := { q.mgmt with
    netOut := q.mgmt.netOut ++ [1 :: mac ++ q.mgmt.ipv4.take 4, 2 :: mac ++ q.mgmt.ipv6.take 16] } }

/-- MGMT_PORT_TAKEOVER (R443): the other port's link is lost; this one takes over if its own is up. -/
def execMgmtPortTakeover (port : Bool) (s : State) : Out :=
  done (fun q =>
    if !q.agLive then q
    else
      let q := { q with mgmt := { q.mgmt with mgUp := setPort q.mgmt.mgUp (!port) false } }
      if q.mgmt.activePort != port && getPort q.mgmt.mgUp port false then
        ({ q with mgmt := { q.mgmt with activePort := port } }).announce port
      else q) s

/-- MGMT_LINK_UP (R443): traffic comes to a port only where the active one has no link. -/
def execMgmtLinkUp (port : Bool) (s : State) : Out :=
  done (fun q =>
    if !q.agLive then q
    else
      let q := { q with mgmt := { q.mgmt with mgUp := setPort q.mgmt.mgUp port true } }
      if getPort q.mgmt.mgUp q.mgmt.activePort false then q
      else ({ q with mgmt := { q.mgmt with activePort := port } }).announce port) s

/-- DHCP_LEASE (R444): an address with prefix length and gateway, where the mode takes one. -/
def execDhcpLease (v6 : Bool) (address : List Byte) (seconds : BitVec 32) (s : State) : Out :=
  done (fun q =>
    let t := q.now + seconds.toNat * 1000000000
    if !q.agLive || !leases q.mgmt.addrMode v6 then q
    else if v6 then
      let q := q.setIpv6 (slice address 0 33)
      { q with mgmt := { q.mgmt with lease6 := some t } }
    else
      let q := q.setIpv4 (slice address 0 9)
      { q with mgmt := { q.mgmt with lease4 := some t } }) s

/-- DHCP_LEASE_EXPIRY (R444): the address goes, and the sessions on it end. -/
def execDhcpLeaseExpiry (v6 : Bool) (s : State) : Out :=
  done (fun q =>
    let due (t : Option Nat) : Bool := t.any (fun t => decide (t ≤ q.now))
    if !q.agLive then q
    else if v6 then
      (if due q.mgmt.lease6 then ({ q with mgmt := { q.mgmt with lease6 := none } }).setIpv6 (List.replicate 33 0) else q)
    else if due q.mgmt.lease4 then ({ q with mgmt := { q.mgmt with lease4 := none } }).setIpv4 (List.replicate 9 0)
    else q) s

/-- ARP_ND_ICMP_ECHO (R444): a query for the block's own address is answered (log 39). -/
def execArpNdIcmpEcho (n : NetQuery) (s : State) : Out :=
  done (fun q =>
    let v4 (a : BitVec 32) : Bool := a != 0 && bitsOf 32 (q.mgmt.ipv4.take 4) = a
    let v6 (a : BitVec 128) : Bool := a != 0 && bitsOf 128 (q.mgmt.ipv6.take 16) = a
    let mac := Config.macOf q.mgmt.activePort
    let out (b : List Byte) : Qf := { q with mgmt := { q.mgmt with netOut := q.mgmt.netOut ++ [b] } }
    if !q.agLive then q
    else match n with
      | .arp a => if v4 a then out (3 :: mac ++ bytesOf 4 a) else q
      | .nd a => if v6 a then out (4 :: mac ++ bytesOf 16 a) else q
      | .echo4 a d => if v4 a then out (5 :: bytesOf 4 a ++ d) else q
      | .echo6 a d => if v6 a then out (6 :: bytesOf 16 a ++ d) else q) s

end Sys2Proof.Machine
end

