-- ==== Sys2Proof/Machine/Managed.lean ====
section
/-! DEFINITION. Machine/Managed.lean: the commands that are one read or write of one dictionary entry (Tables LINK-13,
CORE-7, SCHED-5, SEC-8, FAULT-8, ENS-6, MGMT-7, OBS-8, BOOT-7 and ELEC-9), and the registers without a row of their own. -/

namespace Sys2Proof.Machine

/-- REASSEMBLY_CLEAR (R93). -/
def execReassemblyClear (a : AgwenRef) (value : List Byte) (s : State) : Out :=
  done (fun q => q.agWrite a 0x04 0x8200 0x0F value) s

/-- PORT_MODE (R289, R327). -/
def execPortMode (a : AgwenRef) (value : List Byte) (s : State) : Out :=
  done (fun q => q.agWrite a 0x04 0x3000 0x01 value) s

/-- QUEUE_PURGE (R356). -/
def execQueuePurge (a : AgwenRef) (value : List Byte) (s : State) : Out :=
  done (fun q => q.agWrite a 0x04 0x3110 0x04 value) s

/-- SAMPLER_N (R350). -/
def execSamplerN (a : AgwenRef) (value : List Byte) (s : State) : Out :=
  done (fun q => q.agWrite a 0x04 0x8100 0x01 value) s

/-- GATE_ARM (R373). -/
def execGateArm (a : AgwenRef) (value : List Byte) (s : State) : Out :=
  done (fun q => q.agWrite a 0x04 0x3210 0x07 value) s

/-- ATTEST_CHALLENGE (R389). -/
def execAttestChallenge (a : AgwenRef) (value : List Byte) (s : State) : Out :=
  done (fun q => q.agWrite a 0x04 0x6010 0x01 value) s

/-- TENANT_ENROL (R391, R392). -/
def execTenantEnrol (a : AgwenRef) (value : List Byte) (s : State) : Out :=
  done (fun q => q.agWrite a 0x04 0x6010 0x03 value) s

/-- DEBUG_AUTHORISE (R400). -/
def execDebugAuthorise (a : AgwenRef) (value : List Byte) (s : State) : Out :=
  done (fun q => q.agWrite a 0x04 0x6040 0x02 value) s

/-- FENCE_ENDPOINT (R417). -/
def execFenceEndpoint (a : AgwenRef) (value : List Byte) (s : State) : Out :=
  done (fun q => q.agWrite a 0x04 0x8200 0x08 value) s

/-- PORT_FENCE (R420). -/
def execPortFence (a : AgwenRef) (value : List Byte) (s : State) : Out :=
  done (fun q => q.agWrite a 0x04 0x3000 0x10 value) s

/-- LINE_CLEAR (R411). -/
def execLineClear (a : AgwenRef) (value : List Byte) (s : State) : Out :=
  done (fun q => q.agWrite a 0x04 0x8200 0x0B value) s

/-- OWNERSHIP_BACKUP_EP (R421). -/
def execOwnershipBackupEp (a : AgwenRef) (value : List Byte) (s : State) : Out :=
  done (fun q => q.agWrite a 0x04 0x8200 0x0A value) s

/-- INTERVAL_LENGTH (R439). -/
def execIntervalLength (a : AgwenRef) (value : List Byte) (s : State) : Out :=
  done (fun q => q.agWrite a 0x04 0x7010 0x01 value) s

/-- ENSIGN_FW_ACTIVATE (R439). -/
def execEnsignFwActivate (a : AgwenRef) (value : List Byte) (s : State) : Out :=
  done (fun q => q.agWrite a 0x04 0x7020 0x02 value) s

/-- AUTHORITY_KEYS (R439). -/
def execAuthorityKeys (a : AgwenRef) (value : List Byte) (s : State) : Out :=
  done (fun q => q.agWrite a 0x04 0x7020 0x04 value) s

/-- OWNER_CLAIM (R448). -/
def execOwnerClaim (a : AgwenRef) (value : List Byte) (s : State) : Out :=
  done (fun q => q.agWrite a 0x04 0x1020 0x01 value) s

/-- ROLE_ANCHORS (R449). -/
def execRoleAnchors (a : AgwenRef) (value : List Byte) (s : State) : Out :=
  done (fun q => q.agWrite a 0x04 0x1020 0x02 value) s

/-- RELEASE_RECORD (R448). -/
def execReleaseRecord (a : AgwenRef) (value : List Byte) (s : State) : Out :=
  done (fun q => q.agWrite a 0x04 0xF000 0x01 value) s

/-- ZENITH_SET (R485). -/
def execZenithSet (a : AgwenRef) (value : List Byte) (s : State) : Out :=
  done (fun q => q.agWrite a 0x04 0x8300 0x07 value) s

/-- SQUALL_TRIGGER (R488). -/
def execSquallTrigger (a : AgwenRef) (value : List Byte) (s : State) : Out :=
  done (fun q => q.agWrite a 0x04 0x8310 0x01 value) s

/-- HORIZON_CAPTURE (R494). -/
def execHorizonCapture (a : AgwenRef) (value : List Byte) (s : State) : Out :=
  done (fun q => q.agWrite a 0x04 0x8320 0x01 value) s

/-- HORIZON_RELEASE (R496). -/
def execHorizonRelease (a : AgwenRef) (value : List Byte) (s : State) : Out :=
  done (fun q => q.agWrite a 0x04 0x8320 0x05 value) s

/-- FW_ACTIVATE (R518). -/
def execFwActivate (a : AgwenRef) (value : List Byte) (s : State) : Out :=
  done (fun q => q.agWrite a 0x04 0x9010 0x03 value) s

/-- FW_CONFIRM (R519). -/
def execFwConfirm (a : AgwenRef) (value : List Byte) (s : State) : Out :=
  done (fun q => q.agWrite a 0x04 0x9010 0x04 value) s

/-- FW_ROLLBACK (R520). -/
def execFwRollback (a : AgwenRef) (value : List Byte) (s : State) : Out :=
  done (fun q => q.agWrite a 0x04 0x9010 0x05 value) s

/-- HOLDUP_TEST_NOW (R529). -/
def execHoldupTestNow (a : AgwenRef) (value : List Byte) (s : State) : Out :=
  done (fun q => q.agWrite a 0x04 0x2010 0x02 value) s

/-- DOMAIN_ENABLE (R531). -/
def execDomainEnable (a : AgwenRef) (value : List Byte) (s : State) : Out :=
  done (fun q => q.agWrite a 0x04 0x2001 0x01 value) s

/-- SAMPLE_RECORD (R353): the oldest record, removed by the read. -/
def execSampleRecord (a : AgwenRef) (s : State) : Out :=
  done (fun q => q.agRead a 0x8101 0x01) s

/-- FAULT_RECORD (R405): the oldest record, removed by the read. -/
def execFaultRecord (a : AgwenRef) (s : State) : Out :=
  done (fun q => q.agRead a 0x8200 0x02) s

/-- VIOLATION_RECORD (R465): the oldest record, removed by the read. -/
def execViolationRecord (a : AgwenRef) (s : State) : Out :=
  done (fun q => q.agRead a 0x8020 0x01) s

/-- RECORD_AT_CURSOR (R441): the record at the session's cursor, which advances. -/
def execRecordAtCursor (a : AgwenRef) (s : State) : Out :=
  done (fun q => q.agRead a 0x7010 0x04) s

/-- SCAN_DATA (R493): a segment of the selected chain. -/
def execScanData (a : AgwenRef) (offset : BitVec 64) (s : State) : Out :=
  done (fun q => q.agRequest a 0x06 false (fun x q => q.readSeg x 0x8311 0x02 offset.toNat)) s

/-- FW_STAGE (R439): an Ensign image goes to its staging area. -/
def execFwStage (a : AgwenRef) (image : FwImage) (s : State) : Out :=
  done (fun q => q.agRequest a 0x07 false (fun x q =>
    plainReply (q.writeWith x 0x7020 0x01 (fun _ q => (q.ensignStage image).okAns)))) s

/-- FW_IMAGE (R516): a main image goes to the slot that does not run. -/
def execFwImage (a : AgwenRef) (image : FwImage) (s : State) : Out :=
  done (fun q => q.agRequest a 0x07 false (fun x q =>
    plainReply (q.writeWith x 0x9010 0x01 (fun _ q => q.stageImage image)))) s

/-- The entries whose write reconfigures a shaper or policer (R366). -/
def reconfEntry (index : BitVec 16) (sub : BitVec 8) : Bool :=
  (index = 0x3200 && 3 ≤ sub.toNat && sub.toNat ≤ 5) || (index = 0x3201 && 1 ≤ sub.toNat && sub.toNat ≤ 3) ||
  (index = 0x3220 && 1 ≤ sub.toNat && sub.toNat ≤ 3)

/-- RECONFIGURATION (R366): a write of RATE, BURST or OVERHEAD of a class shaper, the port shaper or a policer. -/
def execReconfiguration (a : AgwenRef) (index : BitVec 16) (sub : BitVec 8) (value : List Byte) (s : State) : Out :=
  done (fun q => if reconfEntry index sub then q.agWrite a 0x04 index sub value else q) s

/-- REGISTER_WRITE (R456, R467, R469): a register that has no row of its own, in the dictionary or in BAR0. -/
def execRegisterWrite (r : RegTarget) (s : State) : Out :=
  done (fun q => match r with
    | .dict a index sub value => q.agWrite a 0x04 index sub value
    | .bar0 port offset value => q.bar0Write port (fun q => q.bar0Reg port offset value)) s

end Sys2Proof.Machine
end

