-- ==== Sys2Proof/Machine/Dispatch.lean ====
section
/-! DEFINITION. Machine/Dispatch.lean: one arm per command, each one direct call of its meaning. -/

namespace Sys2Proof.Machine

def exec (i : Instr) (s : State) : Host.Outcome State Fault Refusal :=
  match i with
  | .tenantRecord port t value => Sys2Proof.Machine.execTenantRecord port t value s
  | .bar2Access port offset op => Sys2Proof.Machine.execBar2Access port offset op s
  | .extentAssign m slot tray trayExtent tenant region flags => Sys2Proof.Machine.execExtentAssign m slot tray trayExtent tenant region flags s
  | .extentWithdraw m slot tw => Sys2Proof.Machine.execExtentWithdraw m slot tw s
  | .withdrawEffect slot => Sys2Proof.Machine.execWithdrawEffect slot s
  | .withdrawDrainEnd slot => Sys2Proof.Machine.execWithdrawDrainEnd slot s
  | .withdrawDrainTimeout slot => Sys2Proof.Machine.execWithdrawDrainTimeout slot s
  | .scrubDone slot => Sys2Proof.Machine.execScrubDone slot s
  | .trayFillTimeout slot => Sys2Proof.Machine.execTrayFillTimeout slot s
  | .extentMove m slot newHome newSlot => Sys2Proof.Machine.execExtentMove m slot newHome newSlot s
  | .moveCopyPass slot => Sys2Proof.Machine.execMoveCopyPass slot s
  | .placeT0 m slot => Sys2Proof.Machine.execPlaceT0 m slot s
  | .t0FillDone slot => Sys2Proof.Machine.execT0FillDone slot s
  | .cirrusRegister m lender first count => Sys2Proof.Machine.execCirrusRegister m lender first count s
  | .cirrusReplicate m slot lender extent => Sys2Proof.Machine.execCirrusReplicate m slot lender extent s
  | .cirrusReplicaComplete slot => Sys2Proof.Machine.execCirrusReplicaComplete slot s
  | .reclaim ing p => Sys2Proof.Machine.execReclaim ing p s
  | .reclaimAck lender => Sys2Proof.Machine.execReclaimAck lender s
  | .extentRestore m slot image tenant => Sys2Proof.Machine.execExtentRestore m slot image tenant s
  | .openVersion m tenant region => Sys2Proof.Machine.execOpenVersion m tenant region s
  | .closeVersion m tenant region slot => Sys2Proof.Machine.execCloseVersion m tenant region slot s
  | .foldPage tenant region => Sys2Proof.Machine.execFoldPage tenant region s
  | .openDraft m tenant region => Sys2Proof.Machine.execOpenDraft m tenant region s
  | .publish m tenant region draft expected => Sys2Proof.Machine.execPublish m tenant region draft expected s
  | .abandon m tenant region draft => Sys2Proof.Machine.execAbandon m tenant region draft s
  | .throttle home short tenants => Sys2Proof.Machine.execThrottle home short tenants s
  | .throttleRenew => Sys2Proof.Machine.execThrottleRenew s
  | .throttleLapse home => Sys2Proof.Machine.execThrottleLapse home s
  | .skewHot r hot lines => Sys2Proof.Machine.execSkewHot r hot lines s
  | .replicaIdleDrop page => Sys2Proof.Machine.execReplicaIdleDrop page s
  | .epochRetire => Sys2Proof.Machine.execEpochRetire s
  | .epochRetireEarly => Sys2Proof.Machine.execEpochRetireEarly s
  | .advance port value => Sys2Proof.Machine.execAdvance port value s
  | .retireEarly port value => Sys2Proof.Machine.execRetireEarly port value s
  | .placed ing p => Sys2Proof.Machine.execPlaced ing p s
  | .pennant ing p => Sys2Proof.Machine.execPennant ing p s
  | .pennantDone ing p => Sys2Proof.Machine.execPennantDone ing p s
  | .streamReset ing p => Sys2Proof.Machine.execStreamReset ing p s
  | .waitRegister ing p => Sys2Proof.Machine.execWaitRegister ing p s
  | .waitTimeout waiter tag => Sys2Proof.Machine.execWaitTimeout waiter tag s
  | .waitRegisterResend pair => Sys2Proof.Machine.execWaitRegisterResend pair s
  | .waitPoll pair => Sys2Proof.Machine.execWaitPoll pair s
  | .waitDone ing p => Sys2Proof.Machine.execWaitDone ing p s
  | .cancel ing p => Sys2Proof.Machine.execCancel ing p s
  | .reassemblyClear a value => Sys2Proof.Machine.execReassemblyClear a value s
  | .clearedPairExpiry src msgId => Sys2Proof.Machine.execClearedPairExpiry src msgId s
  | .rdNc ing p => Sys2Proof.Machine.execRdNc ing p s
  | .rdShared ing p => Sys2Proof.Machine.execRdShared ing p s
  | .rdOwn ing p => Sys2Proof.Machine.execRdOwn ing p s
  | .upgrade ing p => Sys2Proof.Machine.execUpgrade ing p s
  | .wrNc ing p => Sys2Proof.Machine.execWrNc ing p s
  | .wrFullNc ing p => Sys2Proof.Machine.execWrFullNc ing p s
  | .wrBulk ing p => Sys2Proof.Machine.execWrBulk ing p s
  | .rdBulk ing p => Sys2Proof.Machine.execRdBulk ing p s
  | .wbDirty ing p => Sys2Proof.Machine.execWbDirty ing p s
  | .evictClean ing p => Sys2Proof.Machine.execEvictClean ing p s
  | .atomic ing p => Sys2Proof.Machine.execAtomic ing p s
  | .snpRspI ing p => Sys2Proof.Machine.execSnpRspI ing p s
  | .snpRspS ing p => Sys2Proof.Machine.execSnpRspS ing p s
  | .snpRspWrittenBack ing p => Sys2Proof.Machine.execSnpRspWrittenBack ing p s
  | .snpRspKeep ing p => Sys2Proof.Machine.execSnpRspKeep ing p s
  | .dataDirty ing p => Sys2Proof.Machine.execDataDirty ing p s
  | .dataWrite ing p => Sys2Proof.Machine.execDataWrite ing p s
  | .dataClean ing p => Sys2Proof.Machine.execDataClean ing p s
  | .cmpAck ing p => Sys2Proof.Machine.execCmpAck ing p s
  | .grantM ing p => Sys2Proof.Machine.execGrantM ing p s
  | .atomicResult ing p => Sys2Proof.Machine.execAtomicResult ing p s
  | .fail ing p => Sys2Proof.Machine.execFail ing p s
  | .wbDone ing p => Sys2Proof.Machine.execWbDone ing p s
  | .snoopTimeout line => Sys2Proof.Machine.execSnoopTimeout line s
  | .retryBackoff tag => Sys2Proof.Machine.execRetryBackoff tag s
  | .qpDoorbell port word => Sys2Proof.Machine.execQpDoorbell port word s
  | .doorbell ing p => Sys2Proof.Machine.execDoorbell ing p s
  | .write pair wr => Sys2Proof.Machine.execWrite pair wr s
  | .read pair wr => Sys2Proof.Machine.execRead pair wr s
  | .copy pair wr => Sys2Proof.Machine.execCopy pair wr s
  | .qpAtomic pair wr => Sys2Proof.Machine.execQpAtomic pair wr s
  | .pennantWrite pair wr => Sys2Proof.Machine.execPennantWrite pair wr s
  | .wait pair wr => Sys2Proof.Machine.execWait pair wr s
  | .flush pair wr => Sys2Proof.Machine.execFlush pair wr s
  | .signal pair wr => Sys2Proof.Machine.execSignal pair wr s
  | .ackTimeout tag => Sys2Proof.Machine.execAckTimeout tag s
  | .peerSlotReopen pair peer => Sys2Proof.Machine.execPeerSlotReopen pair peer s
  | .qpClose ing p => Sys2Proof.Machine.execQpClose ing p s
  | .qpCreate m qpn context => Sys2Proof.Machine.execQpCreate m qpn context s
  | .qpReset m qpn => Sys2Proof.Machine.execQpReset m qpn s
  | .qpDestroy m qpn => Sys2Proof.Machine.execQpDestroy m qpn s
  | .qpAbort m src qpn wrIndex => Sys2Proof.Machine.execQpAbort m src qpn wrIndex s
  | .abortResolve pair => Sys2Proof.Machine.execAbortResolve pair s
  | .pipeCreate m qpn context => Sys2Proof.Machine.execPipeCreate m qpn context s
  | .renew ing p => Sys2Proof.Machine.execRenew ing p s
  | .release ing p => Sys2Proof.Machine.execRelease ing p s
  | .transfer ing p => Sys2Proof.Machine.execTransfer ing p s
  | .claim ing p => Sys2Proof.Machine.execClaim ing p s
  | .ownAnswer ing p => Sys2Proof.Machine.execOwnAnswer ing p s
  | .leaseRenewal pair => Sys2Proof.Machine.execLeaseRenewal pair s
  | .leaseEnd pair => Sys2Proof.Machine.execLeaseEnd pair s
  | .ownerLeaseStop pair => Sys2Proof.Machine.execOwnerLeaseStop pair s
  | .keyRetireDeadline t g => Sys2Proof.Machine.execKeyRetireDeadline t g s
  | .keySlotZeroise t g => Sys2Proof.Machine.execKeySlotZeroise t g s
  | .keyRetireTimeout t g => Sys2Proof.Machine.execKeyRetireTimeout t g s
  | .groupArm m record => Sys2Proof.Machine.execGroupArm m record s
  | .groupDisarm m group => Sys2Proof.Machine.execGroupDisarm m group s
  | .colAbortCommand m group inst => Sys2Proof.Machine.execColAbortCommand m group inst s
  | .colLaunch h p => Sys2Proof.Machine.execColLaunch h p s
  | .colExp h p => Sys2Proof.Machine.execColExp h p s
  | .colEbcast h p => Sys2Proof.Machine.execColEbcast h p s
  | .colData h p => Sys2Proof.Machine.execColData h p s
  | .colPartial h p => Sys2Proof.Machine.execColPartial h p s
  | .colCommit h p => Sys2Proof.Machine.execColCommit h p s
  | .colResult h p => Sys2Proof.Machine.execColResult h p s
  | .colAbortReq h p => Sys2Proof.Machine.execColAbortReq h p s
  | .colAbort h p => Sys2Proof.Machine.execColAbort h p s
  | .colAbortAnswer h p => Sys2Proof.Machine.execColAbortAnswer h p s
  | .collectiveTimeout group => Sys2Proof.Machine.execCollectiveTimeout group s
  | .runPipeline origin qpn wr => Sys2Proof.Machine.execRunPipeline origin qpn wr s
  | .pipelineStart sector => Sys2Proof.Machine.execPipelineStart sector s
  | .pipelineComplete pair wrIndex => Sys2Proof.Machine.execPipelineComplete pair wrIndex s
  | .gatherBackup pair wrIndex stage ordinal => Sys2Proof.Machine.execGatherBackup pair wrIndex stage ordinal s
  | .searchShard ing p => Sys2Proof.Machine.execSearchShard ing p s
  | .searchAnswer ing p => Sys2Proof.Machine.execSearchAnswer ing p s
  | .searchBackup pair wrIndex shard => Sys2Proof.Machine.execSearchBackup pair wrIndex shard s
  | .sideAppend ing p => Sys2Proof.Machine.execSideAppend ing p s
  | .indexMerge m tenant region t metric => Sys2Proof.Machine.execIndexMerge m tenant region t metric s
  | .sideReclaim m tenant side r indexes => Sys2Proof.Machine.execSideReclaim m tenant side r indexes s
  | .frbEncode m descriptor => Sys2Proof.Machine.execFrbEncode m descriptor s
  | .linkDetect h => Sys2Proof.Machine.execLinkDetect h s
  | .equalizeDone h good => Sys2Proof.Machine.execEqualizeDone h good s
  | .frameLock h good => Sys2Proof.Machine.execFrameLock h good s
  | .cap h c => Sys2Proof.Machine.execCap h c s
  | .sessionHello h c => Sys2Proof.Machine.execSessionHello h c s
  | .sessionKem h ct => Sys2Proof.Machine.execSessionKem h ct s
  | .sessionFinish h rsaSig mldsaSig => Sys2Proof.Machine.execSessionFinish h rsaSig mldsaSig s
  | .creditInit h credits => Sys2Proof.Machine.execCreditInit h credits s
  | .time h c => Sys2Proof.Machine.execTime h c s
  | .rekey h => Sys2Proof.Machine.execRekey h s
  | .rekeyInterval h => Sys2Proof.Machine.execRekeyInterval h s
  | .rateUp h good => Sys2Proof.Machine.execRateUp h good s
  | .down h => Sys2Proof.Machine.execDown h s
  | .linkStateTimeout h => Sys2Proof.Machine.execLinkStateTimeout h s
  | .frameLockLoss h => Sys2Proof.Machine.execFrameLockLoss h s
  | .flitReceive h f => Sys2Proof.Machine.execFlitReceive h f s
  | .replayTimeout h => Sys2Proof.Machine.execReplayTimeout h s
  | .portMode a value => Sys2Proof.Machine.execPortMode a value s
  | .trayDone ing p => Sys2Proof.Machine.execTrayDone ing p s
  | .memRd c => Sys2Proof.Machine.execMemRd c s
  | .memWr c => Sys2Proof.Machine.execMemWr c s
  | .memWrPtl c => Sys2Proof.Machine.execMemWrPtl c s
  | .biRsp h tag state data => Sys2Proof.Machine.execBiRsp h tag state data s
  | .packetAdmit ing vc => Sys2Proof.Machine.execPacketAdmit ing vc s
  | .packetDepart h => Sys2Proof.Machine.execPacketDepart h s
  | .routeWrite m first count entries => Sys2Proof.Machine.execRouteWrite m first count entries s
  | .groupWrite m first count entries => Sys2Proof.Machine.execGroupWrite m first count entries s
  | .routeBankEmpty => Sys2Proof.Machine.execRouteBankEmpty s
  | .stuckQueue h vc => Sys2Proof.Machine.execStuckQueue h vc s
  | .queuePurge a value => Sys2Proof.Machine.execQueuePurge a value s
  | .samplerN a value => Sys2Proof.Machine.execSamplerN a value s
  | .sampleRecord a => Sys2Proof.Machine.execSampleRecord a s
  | .reconfiguration a index sub value => Sys2Proof.Machine.execReconfiguration a index sub value s
  | .policerRelease t => Sys2Proof.Machine.execPolicerRelease t s
  | .gateArm a value => Sys2Proof.Machine.execGateArm a value s
  | .gateTakeover h => Sys2Proof.Machine.execGateTakeover h s
  | .gateEntryChange h => Sys2Proof.Machine.execGateEntryChange h s
  | .attestChallenge a value => Sys2Proof.Machine.execAttestChallenge a value s
  | .ephemeralKeyExpiry => Sys2Proof.Machine.execEphemeralKeyExpiry s
  | .tenantEnrol a value => Sys2Proof.Machine.execTenantEnrol a value s
  | .debugAuthorise a value => Sys2Proof.Machine.execDebugAuthorise a value s
  | .debugExpiry => Sys2Proof.Machine.execDebugExpiry s
  | .keyLoad m tenant gen => Sys2Proof.Machine.execKeyLoad m tenant gen s
  | .keyRotate m tenant => Sys2Proof.Machine.execKeyRotate m tenant s
  | .sweepDone t => Sys2Proof.Machine.execSweepDone t s
  | .keyRetire m tenant gen td => Sys2Proof.Machine.execKeyRetire m tenant gen td s
  | .tenantRemove m tenant td => Sys2Proof.Machine.execTenantRemove m tenant td s
  | .removalDeadline t => Sys2Proof.Machine.execRemovalDeadline t s
  | .removalWithdraw t => Sys2Proof.Machine.execRemovalWithdraw t s
  | .faultHeartbeat h => Sys2Proof.Machine.execFaultHeartbeat h s
  | .heartbeatSend => Sys2Proof.Machine.execHeartbeatSend s
  | .silentNeighbour ep => Sys2Proof.Machine.execSilentNeighbour ep s
  | .fencePropose h p => Sys2Proof.Machine.execFencePropose h p s
  | .fenceVote p => Sys2Proof.Machine.execFenceVote p s
  | .fenceVoteWindow suspect proposer => Sys2Proof.Machine.execFenceVoteWindow suspect proposer s
  | .fenceCommit h p => Sys2Proof.Machine.execFenceCommit h p s
  | .fenceAbandon h p => Sys2Proof.Machine.execFenceAbandon h p s
  | .fenceEndpoint a value => Sys2Proof.Machine.execFenceEndpoint a value s
  | .portFence a value => Sys2Proof.Machine.execPortFence a value s
  | .lineClear a value => Sys2Proof.Machine.execLineClear a value s
  | .ownMirror ing p => Sys2Proof.Machine.execOwnMirror ing p s
  | .ownMirrorAck ing p => Sys2Proof.Machine.execOwnMirrorAck ing p s
  | .ownershipBackupEp a value => Sys2Proof.Machine.execOwnershipBackupEp a value s
  | .faultRecord a => Sys2Proof.Machine.execFaultRecord a s
  | .requestTimeout src tag => Sys2Proof.Machine.execRequestTimeout src tag s
  | .watchdog core => Sys2Proof.Machine.execWatchdog core s
  | .unitFault sector unitCode index => Sys2Proof.Machine.execUnitFault sector unitCode index s
  | .undervoltage => Sys2Proof.Machine.execUndervoltage s
  | .drainDone => Sys2Proof.Machine.execDrainDone s
  | .meterTapFlush sector => Sys2Proof.Machine.execMeterTapFlush sector s
  | .meterTap sector => Sys2Proof.Machine.execMeterTap sector s
  | .intervalEnd => Sys2Proof.Machine.execIntervalEnd s
  | .intervalLength a value => Sys2Proof.Machine.execIntervalLength a value s
  | .fwStage a image => Sys2Proof.Machine.execFwStage a image s
  | .ensignFwActivate a value => Sys2Proof.Machine.execEnsignFwActivate a value s
  | .authorityKeys a value => Sys2Proof.Machine.execAuthorityKeys a value s
  | .recordAtCursor a => Sys2Proof.Machine.execRecordAtCursor a s
  | .ensignFinalRecord => Sys2Proof.Machine.execEnsignFinalRecord s
  | .dtlsHandshake c => Sys2Proof.Machine.execDtlsHandshake c s
  | .agwenHello a versions revLow revHigh role => Sys2Proof.Machine.execAgwenHello a versions revLow revHigh role s
  | .bind a chain sig => Sys2Proof.Machine.execBind a chain sig s
  | .agwenRead a index sub => Sys2Proof.Machine.execAgwenRead a index sub s
  | .agwenWrite a index sub value => Sys2Proof.Machine.execAgwenWrite a index sub value s
  | .compareWrite a index sub expected value => Sys2Proof.Machine.execCompareWrite a index sub expected value s
  | .readSeg a index sub offset => Sys2Proof.Machine.execReadSeg a index sub offset s
  | .writeSeg a index sub offset final data => Sys2Proof.Machine.execWriteSeg a index sub offset final data s
  | .segmentTimeout session index sub => Sys2Proof.Machine.execSegmentTimeout session index sub s
  | .subscribe a mask => Sys2Proof.Machine.execSubscribe a mask s
  | .eventAck a event => Sys2Proof.Machine.execEventAck a event s
  | .eventRepeat session => Sys2Proof.Machine.execEventRepeat session s
  | .keepalive a => Sys2Proof.Machine.execKeepalive a s
  | .close a => Sys2Proof.Machine.execClose a s
  | .sessionIdle session => Sys2Proof.Machine.execSessionIdle session s
  | .mgmtPortTakeover port => Sys2Proof.Machine.execMgmtPortTakeover port s
  | .dhcpLeaseExpiry v6 => Sys2Proof.Machine.execDhcpLeaseExpiry v6 s
  | .ownerClaim a value => Sys2Proof.Machine.execOwnerClaim a value s
  | .roleAnchors a value => Sys2Proof.Machine.execRoleAnchors a value s
  | .releaseRecord a value => Sys2Proof.Machine.execReleaseRecord a value s
  | .hostTakeover port value => Sys2Proof.Machine.execHostTakeover port value s
  | .mqDoorbell port queue value => Sys2Proof.Machine.execMqDoorbell port queue value s
  | .mqConfig port queue value => Sys2Proof.Machine.execMqConfig port queue value s
  | .eqDoorbell port value => Sys2Proof.Machine.execEqDoorbell port value s
  | .commandFetch queue command => Sys2Proof.Machine.execCommandFetch queue command s
  | .nop m => Sys2Proof.Machine.execNop m s
  | .completionRingFull port queue => Sys2Proof.Machine.execCompletionRingFull port queue s
  | .progressFree n => Sys2Proof.Machine.execProgressFree n s
  | .violationRecord a => Sys2Proof.Machine.execViolationRecord a s
  | .timeSync => Sys2Proof.Machine.execTimeSync s
  | .ppsIn stamp => Sys2Proof.Machine.execPpsIn stamp s
  | .ppsInLost => Sys2Proof.Machine.execPpsInLost s
  | .ppsOut => Sys2Proof.Machine.execPpsOut s
  | .zenithSet a value => Sys2Proof.Machine.execZenithSet a value s
  | .squallTrigger a value => Sys2Proof.Machine.execSquallTrigger a value s
  | .squallPacket h p => Sys2Proof.Machine.execSquallPacket h p s
  | .squall update => Sys2Proof.Machine.execSquall update s
  | .extest value => Sys2Proof.Machine.execExtest value s
  | .samplePreload value => Sys2Proof.Machine.execSamplePreload value s
  | .idcode => Sys2Proof.Machine.execIdcode s
  | .scanSelect chain => Sys2Proof.Machine.execScanSelect chain s
  | .scanRead => Sys2Proof.Machine.execScanRead s
  | .bypass => Sys2Proof.Machine.execBypass s
  | .scanData a offset => Sys2Proof.Machine.execScanData a offset s
  | .horizonCapture a value => Sys2Proof.Machine.execHorizonCapture a value s
  | .horizon h p => Sys2Proof.Machine.execHorizon h p s
  | .horizonLatch => Sys2Proof.Machine.execHorizonLatch s
  | .horizonReady => Sys2Proof.Machine.execHorizonReady s
  | .horizonRelease a value => Sys2Proof.Machine.execHorizonRelease a value s
  | .counterPage t => Sys2Proof.Machine.execCounterPage t s
  | .powerUp => Sys2Proof.Machine.execPowerUp s
  | .resetRelease => Sys2Proof.Machine.execResetRelease s
  | .reducedService => Sys2Proof.Machine.execReducedService s
  | .stackRetrain stack good => Sys2Proof.Machine.execStackRetrain stack good s
  | .cumulusSelfTest sector good => Sys2Proof.Machine.execCumulusSelfTest sector good s
  | .fullService => Sys2Proof.Machine.execFullService s
  | .fullTimeout => Sys2Proof.Machine.execFullTimeout s
  | .partitionBoot m partition endpoint epoch count composition fence routes groups masks => Sys2Proof.Machine.execPartitionBoot m partition endpoint epoch count composition fence routes groups masks s
  | .fwImage a image => Sys2Proof.Machine.execFwImage a image s
  | .fwActivate a value => Sys2Proof.Machine.execFwActivate a value s
  | .selfReset => Sys2Proof.Machine.execSelfReset s
  | .fwConfirm a value => Sys2Proof.Machine.execFwConfirm a value s
  | .fwRollback a value => Sys2Proof.Machine.execFwRollback a value s
  | .resetN low => Sys2Proof.Machine.execResetN low s
  | .perstN port asserted => Sys2Proof.Machine.execPerstN port asserted s
  | .inputLoss => Sys2Proof.Machine.execInputLoss s
  | .holdupTest => Sys2Proof.Machine.execHoldupTest s
  | .holdupTestEnd charge droop => Sys2Proof.Machine.execHoldupTestEnd charge droop s
  | .holdupTestNow a value => Sys2Proof.Machine.execHoldupTestNow a value s
  | .domainEnable a value => Sys2Proof.Machine.execDomainEnable a value s
  | .domainPowerDown domain => Sys2Proof.Machine.execDomainPowerDown domain s
  | .domainWake domain => Sys2Proof.Machine.execDomainWake domain s
  | .thermalSample die stackTemps => Sys2Proof.Machine.execThermalSample die stackTemps s
  | .registerWrite r => Sys2Proof.Machine.execRegisterWrite r s
  | .controlMessageRepeat h => Sys2Proof.Machine.execControlMessageRepeat h s
  | .regulatorFailure domain => Sys2Proof.Machine.execRegulatorFailure domain s
  | .dtlsAlert session => Sys2Proof.Machine.execDtlsAlert session s
  | .dhcpLease v6 address seconds => Sys2Proof.Machine.execDhcpLease v6 address seconds s
  | .arpNdIcmpEcho q => Sys2Proof.Machine.execArpNdIcmpEcho q s
  | .mgmtLinkUp port => Sys2Proof.Machine.execMgmtLinkUp port s
  | .cxlTrayMemCompletion c => Sys2Proof.Machine.execCxlTrayMemCompletion c s

end Sys2Proof.Machine
end

