-- ==== Sys2Proof/Machine/Worn.lean ====
section
/-! DEFINITION. Machine/Worn.lean: a stored word found beyond correction, and what Table FAULT-3 says of the place it is
found in (R409, R410). Which word, and when, is a free value (log 9). -/

namespace Sys2Proof.Machine

/-- A tier-0 or hot-page line: its copies are discarded, and the page is refilled from tier 1. -/
def Qf.wornLine (q : Qf) (n : LineNo) : Qf :=
  if (q.frameLine n).isSome || q.pool.hotPages.any (fun h => h.page = linePage n) then (q.lineFault 0 n .ok).refillPage n else q

/-- A Cirrus replica's line: the extent has no replica any more. -/
def Qf.wornReplica (q : Qf) (s : Slot) : Qf :=
  if (q.extent s).cirrusValid then (q.dropReplica s).fault 0 { unit := 2, tenant := (q.extent s).tenant } else q

/-- A directory set is marked LOST (R410). -/
def Qf.wornSet (q : Qf) (s : Sector) (d : BitVec 21) : Qf :=
  if q.home.lostSets.contains (s, d) then q
  else ({ q with home := { q.home with lostSets := q.home.lostSets ++ [(s, d)] } }).fault 1
    { sector := s, unit := 2, status := Status.uncorrectable.code }

/-- A region-table entry: it cannot be read until BAR2 rewrites it. -/
def Qf.wornEntry (q : Qf) (a : Nat) : Qf :=
  if q.edge.worn.contains a then q
  else ({ q with edge := { q.edge with worn := q.edge.worn ++ [a] } }).fault 1
    { unit := 3, status := Status.uncorrectable.code }

/-- An extent's map entry: every request to the extent fails until EXTENT_RESTORE rewrites it. -/
def Qf.wornExtent (q : Qf) (s : Slot) : Qf :=
  if (q.extent s).state = .free then q
  else (q.updExtent s (fun e => { e with lost := true })).fault 1
    { unit := 2, status := Status.uncorrectable.code, tenant := (q.extent s).tenant }

/-- A region's version record or page map: every request to the region fails until EXTENT_RESTORE rewrites it. -/
def Qf.wornVersion (q : Qf) (r : RegionId) : Qf :=
  if (q.ver.recs.find? r.toNat).isNone then q
  else (q.updVer r (fun v => { v with lost := true })).fault 1 { unit := 2, status := Status.uncorrectable.code }

/-- A queue pair's context backing or its part of the retransmission store: the pair enters ERROR. -/
def Qf.wornQp (q : Qf) (n : QpKey) : Qf :=
  if (q.qp n).ctx.state != .ready then q
  else (q.fault 1 { sector := fld n 0 3, unit := 7, status := Status.uncorrectable.code }).qpError n Status.uncorrectable.code

/-- A target record: every packet that would use it fails, so the pair enters ERROR at its owner. -/
def Qf.wornTarget (q : Qf) (k : Nat) : Qf :=
  match q.qps.targets[k]? with
  | none => q
  | some t =>
    let h : QpHdr := { originEp := t.originEp, qpn := t.qpn }
    (q.updTarget h (fun t => { t with lost := true })).fault 1
      { sector := fld t.qpn 0 3, unit := 3, status := Status.uncorrectable.code }

/-- An accumulator slot of a group's instance (R183). -/
def Qf.wornSlot (q : Qf) (g : Nat) (b : Nat) : Qf :=
  if (q.group g).inst.blocks.any (fun x => x.1 = b) then
    ((q.fault 1 { sector := colSector g b, unit := 4, status := Status.uncorrectable.code }).colFail g 5
      Status.uncorrectable.code).colRun g
  else q

/-- A link cell or a selection-store entry of a running pipeline. -/
def Qf.wornPipe (q : Qf) (k : Nat) : Qf :=
  match q.eng.jobs[k]? with
  | none => q
  | some j =>
    if !j.started then q
    else (q.fault 1 { sector := j.sector, unit := 5, status := Status.uncorrectable.code }).pipeFail j.pair j.wrIndex
      { status := Status.uncorrectable.code }

/-- The word of a place and number is found beyond correction (Table FAULT-3, in the table's order; a buffer cell is found
when it is read, R357, and a tier-1 line by its tray, R545). -/
def Qf.wornAt (q : Qf) (place k : Nat) : Qf :=
  match place with
  | 1 => q.wornLine (BitVec.ofNat 40 k)
  | 2 => q.wornReplica (BitVec.ofNat 18 k)
  | 3 => q.wornSet (BitVec.ofNat 3 k) (BitVec.ofNat 21 (k / 8))
  | 4 => q.wornEntry (16 * k)
  | 5 => q.wornExtent (BitVec.ofNat 18 k)
  | 6 => q.wornVersion (BitVec.ofNat 20 k)
  | 7 => q.wornQp (BitVec.ofNat 30 k)
  | 8 => q.wornTarget k
  | 9 => q.wornSlot (k % 4096) (k / 4096)
  | 10 => q.wornPipe k
  | _ => q

/-- What one nanosecond finds. -/
def Qf.wear (q : Qf) : Qf :=
  if !q.running then q
  else
    let x := Config.worn q.freeCount
    { q with freeCount := q.freeCount + 1 }.wornAt x.1 x.2

end Sys2Proof.Machine
end

