-- ==== Sys2Proof/WellFormed.lean ====
section
/-! DEFINITION. WellFormed.lean: the commands whose operands have a form the spec can send: packets and flits of
legal size (R291, R300, R302), lists of the right length. -/

namespace Sys2Proof

/-- A packet with at most 4,096 bytes of payload, and a COL header exactly on the COL channel (R302, R303). -/
def Packet.wf (p : Packet) : Bool :=
  decide (p.payload.length ≤ 4096) && (p.col.isSome == decide (p.vc = 4))

/-- A flit of 15 slots (R291). -/
def Flit.wf (f : Flit) : Bool := f.slots.length = 15

/-- A BAR2 access of 1 to 4,096 bytes (R471). -/
def Bar2Op.wf : Bar2Op → Bool
  | .read n => decide (1 ≤ n ∧ n ≤ 4096)
  | .write d => decide (1 ≤ d.length ∧ d.length ≤ 4096)

/-- An image whose settings-format table has the entries its header counts (R501). -/
def FwImage.wf (x : FwImage) : Bool := x.settings.length = x.settingsEntries.toNat

/-- An echo of at most one datagram (R444). -/
def NetQuery.wf : NetQuery → Bool
  | .arp _ => true
  | .nd _ => true
  | .echo4 _ d => decide (d.length ≤ 65507)
  | .echo6 _ d => decide (d.length ≤ 65487)

/-- A CXL host's access carries no data or one line, and asks for a state of Table LINK-15 (R322). -/
def CxlReq.wf (c : CxlReq) : Bool := (c.data.length = 0 || c.data.length = 64) && c.want != 3

/-- A CXL tray's completion carries no data or one line (R325). -/
def CxlTrayCpl.wf (c : CxlTrayCpl) : Bool := c.data.length = 0 || c.data.length = 64

/-- A TIME message of a kind of Table OBS-1. -/
def TimeMsg.wf (c : TimeMsg) : Bool := decide (1 ≤ c.kind.toNat ∧ c.kind.toNat ≤ 2)

/-- Whether a command is well formed. -/
def Instr.wf (i : Instr) : Bool :=
  match i with
  | .tenantRecord _ _ _ => true
  | .bar2Access _ _ op => op.wf
  | .extentAssign _ _ _ _ _ _ _ => true
  | .extentWithdraw _ _ _ => true
  | .withdrawEffect _ => true
  | .withdrawDrainEnd _ => true
  | .withdrawDrainTimeout _ => true
  | .scrubDone _ => true
  | .trayFillTimeout _ => true
  | .extentMove _ _ _ _ => true
  | .moveCopyPass _ => true
  | .placeT0 _ _ => true
  | .t0FillDone _ => true
  | .cirrusRegister _ _ _ _ => true
  | .cirrusReplicate _ _ _ _ => true
  | .cirrusReplicaComplete _ => true
  | .reclaim _ p => p.wf
  | .reclaimAck _ => true
  | .extentRestore _ _ _ _ => true
  | .openVersion _ _ _ => true
  | .closeVersion _ _ _ _ => true
  | .foldPage _ _ => true
  | .openDraft _ _ _ => true
  | .publish _ _ _ _ _ => true
  | .abandon _ _ _ _ => true
  | .throttle _ _ _ => true
  | .throttleRenew => true
  | .throttleLapse _ => true
  | .skewHot _ _ _ => true
  | .replicaIdleDrop _ => true
  | .epochRetire => true
  | .epochRetireEarly => true
  | .advance _ _ => true
  | .retireEarly _ _ => true
  | .placed _ p => p.wf
  | .pennant _ p => p.wf
  | .pennantDone _ p => p.wf
  | .streamReset _ p => p.wf
  | .waitRegister _ p => p.wf
  | .waitTimeout _ _ => true
  | .waitRegisterResend _ => true
  | .waitPoll _ => true
  | .waitDone _ p => p.wf
  | .cancel _ p => p.wf
  | .reassemblyClear _ _ => true
  | .clearedPairExpiry _ _ => true
  | .rdNc _ p => p.wf
  | .rdShared _ p => p.wf
  | .rdOwn _ p => p.wf
  | .upgrade _ p => p.wf
  | .wrNc _ p => p.wf
  | .wrFullNc _ p => p.wf
  | .wrBulk _ p => p.wf
  | .rdBulk _ p => p.wf
  | .wbDirty _ p => p.wf
  | .evictClean _ p => p.wf
  | .atomic _ p => p.wf
  | .snpRspI _ p => p.wf
  | .snpRspS _ p => p.wf
  | .snpRspWrittenBack _ p => p.wf
  | .snpRspKeep _ p => p.wf
  | .dataDirty _ p => p.wf
  | .dataWrite _ p => p.wf
  | .dataClean _ p => p.wf
  | .cmpAck _ p => p.wf
  | .grantM _ p => p.wf
  | .atomicResult _ p => p.wf
  | .fail _ p => p.wf
  | .wbDone _ p => p.wf
  | .snoopTimeout _ => true
  | .retryBackoff _ => true
  | .qpDoorbell _ _ => true
  | .doorbell _ p => p.wf
  | .write _ _ => true
  | .read _ _ => true
  | .copy _ _ => true
  | .qpAtomic _ _ => true
  | .pennantWrite _ _ => true
  | .wait _ _ => true
  | .flush _ _ => true
  | .signal _ _ => true
  | .ackTimeout _ => true
  | .peerSlotReopen _ _ => true
  | .qpClose _ p => p.wf
  | .qpCreate _ _ _ => true
  | .qpReset _ _ => true
  | .qpDestroy _ _ => true
  | .qpAbort _ _ _ _ => true
  | .abortResolve _ => true
  | .pipeCreate _ _ _ => true
  | .renew _ p => p.wf
  | .release _ p => p.wf
  | .transfer _ p => p.wf
  | .claim _ p => p.wf
  | .ownAnswer _ p => p.wf
  | .leaseRenewal _ => true
  | .leaseEnd _ => true
  | .ownerLeaseStop _ => true
  | .keyRetireDeadline _ _ => true
  | .keySlotZeroise _ _ => true
  | .keyRetireTimeout _ _ => true
  | .groupArm _ _ => true
  | .groupDisarm _ _ => true
  | .colAbortCommand _ _ _ => true
  | .colLaunch _ p => p.wf
  | .colExp _ p => p.wf
  | .colEbcast _ p => p.wf
  | .colData _ p => p.wf
  | .colPartial _ p => p.wf
  | .colCommit _ p => p.wf
  | .colResult _ p => p.wf
  | .colAbortReq _ p => p.wf
  | .colAbort _ p => p.wf
  | .colAbortAnswer _ p => p.wf
  | .collectiveTimeout _ => true
  | .runPipeline _ _ _ => true
  | .pipelineStart _ => true
  | .pipelineComplete _ _ => true
  | .gatherBackup _ _ _ _ => true
  | .searchShard _ p => p.wf
  | .searchAnswer _ p => p.wf
  | .searchBackup _ _ _ => true
  | .sideAppend _ p => p.wf
  | .indexMerge _ _ _ _ _ => true
  | .sideReclaim _ _ _ _ _ => true
  | .frbEncode _ _ => true
  | .linkDetect _ => true
  | .equalizeDone _ _ => true
  | .frameLock _ _ => true
  | .cap _ _ => true
  | .sessionHello _ _ => true
  | .sessionKem _ _ => true
  | .sessionFinish _ _ _ => true
  | .creditInit _ credits => credits.length = 7
  | .time _ c => c.wf
  | .rekey _ => true
  | .rekeyInterval _ => true
  | .rateUp _ _ => true
  | .down _ => true
  | .linkStateTimeout _ => true
  | .frameLockLoss _ => true
  | .flitReceive _ f => f.wf
  | .replayTimeout _ => true
  | .portMode _ _ => true
  | .trayDone _ p => p.wf
  | .memRd c => c.wf
  | .memWr c => c.wf
  | .memWrPtl c => c.wf
  | .biRsp _ _ _ data => (data.length = 0 || data.length = 64)
  | .packetAdmit _ _ => true
  | .packetDepart _ => true
  | .routeWrite _ _ _ entries => decide (entries.length ≤ 16384)
  | .groupWrite _ _ _ entries => decide (entries.length ≤ 1024)
  | .routeBankEmpty => true
  | .stuckQueue _ _ => true
  | .queuePurge _ _ => true
  | .samplerN _ _ => true
  | .sampleRecord _ => true
  | .reconfiguration _ _ _ _ => true
  | .policerRelease _ => true
  | .gateArm _ _ => true
  | .gateTakeover _ => true
  | .gateEntryChange _ => true
  | .attestChallenge _ _ => true
  | .ephemeralKeyExpiry => true
  | .tenantEnrol _ _ => true
  | .debugAuthorise _ _ => true
  | .debugExpiry => true
  | .keyLoad _ _ _ => true
  | .keyRotate _ _ => true
  | .sweepDone _ => true
  | .keyRetire _ _ _ _ => true
  | .tenantRemove _ _ _ => true
  | .removalDeadline _ => true
  | .removalWithdraw _ => true
  | .faultHeartbeat _ => true
  | .heartbeatSend => true
  | .silentNeighbour _ => true
  | .fencePropose _ p => p.wf
  | .fenceVote p => p.wf
  | .fenceVoteWindow _ _ => true
  | .fenceCommit _ p => p.wf
  | .fenceAbandon _ p => p.wf
  | .fenceEndpoint _ _ => true
  | .portFence _ _ => true
  | .lineClear _ _ => true
  | .ownMirror _ p => p.wf
  | .ownMirrorAck _ p => p.wf
  | .ownershipBackupEp _ _ => true
  | .faultRecord _ => true
  | .requestTimeout _ _ => true
  | .watchdog _ => true
  | .unitFault _ unitCode _ => decide (unitCode.toNat ≤ 12)
  | .undervoltage => true
  | .drainDone => true
  | .meterTapFlush _ => true
  | .meterTap _ => true
  | .intervalEnd => true
  | .intervalLength _ _ => true
  | .fwStage _ image => image.wf
  | .ensignFwActivate _ _ => true
  | .authorityKeys _ _ => true
  | .recordAtCursor _ => true
  | .ensignFinalRecord => true
  | .dtlsHandshake _ => true
  | .agwenHello _ _ _ _ _ => true
  | .bind _ _ _ => true
  | .agwenRead _ _ _ => true
  | .agwenWrite _ _ _ _ => true
  | .compareWrite _ _ _ _ _ => true
  | .readSeg _ _ _ _ => true
  | .writeSeg _ _ _ _ _ _ => true
  | .segmentTimeout _ _ _ => true
  | .subscribe _ _ => true
  | .eventAck _ _ => true
  | .eventRepeat _ => true
  | .keepalive _ => true
  | .close _ => true
  | .sessionIdle _ => true
  | .mgmtPortTakeover _ => true
  | .dhcpLeaseExpiry _ => true
  | .ownerClaim _ _ => true
  | .roleAnchors _ _ => true
  | .releaseRecord _ _ => true
  | .hostTakeover _ _ => true
  | .mqDoorbell _ _ _ => true
  | .mqConfig _ _ _ => true
  | .eqDoorbell _ _ => true
  | .commandFetch _ _ => true
  | .nop _ => true
  | .completionRingFull _ _ => true
  | .progressFree _ => true
  | .violationRecord _ => true
  | .timeSync => true
  | .ppsIn _ => true
  | .ppsInLost => true
  | .ppsOut => true
  | .zenithSet _ _ => true
  | .squallTrigger _ _ => true
  | .squallPacket _ p => p.wf
  | .squall _ => true
  | .extest _ => true
  | .samplePreload _ => true
  | .idcode => true
  | .scanSelect _ => true
  | .scanRead => true
  | .bypass => true
  | .scanData _ _ => true
  | .horizonCapture _ _ => true
  | .horizon _ p => p.wf
  | .horizonLatch => true
  | .horizonReady => true
  | .horizonRelease _ _ => true
  | .counterPage _ => true
  | .powerUp => true
  | .resetRelease => true
  | .reducedService => true
  | .stackRetrain _ _ => true
  | .cumulusSelfTest _ _ => true
  | .fullService => true
  | .fullTimeout => true
  | .partitionBoot _ _ _ _ _ _ fence _ _ masks => decide (fence.length ≤ 2048) && masks.length = 8
  | .fwImage _ image => image.wf
  | .fwActivate _ _ => true
  | .selfReset => true
  | .fwConfirm _ _ => true
  | .fwRollback _ _ => true
  | .resetN _ => true
  | .perstN _ _ => true
  | .inputLoss => true
  | .holdupTest => true
  | .holdupTestEnd _ _ => true
  | .holdupTestNow _ _ => true
  | .domainEnable _ _ => true
  | .domainPowerDown domain => decide (domain.toNat ≤ 79)
  | .domainWake domain => decide (domain.toNat ≤ 79)
  | .thermalSample _ stackTemps => stackTemps.length = 8
  | .registerWrite _ => true
  | .controlMessageRepeat _ => true
  | .regulatorFailure domain => decide (domain.toNat ≤ 79)
  | .dtlsAlert _ => true
  | .dhcpLease v6 address _ => address.length = (if v6 then 16 else 4)
  | .arpNdIcmpEcho q => q.wf
  | .mgmtLinkUp _ => true
  | .cxlTrayMemCompletion c => c.wf

end Sys2Proof
end

