-- ==== Sys2Proof/Safety.lean ====
section
/-! DEFINITION. Safety.lean: what counts as a safe run: a step answers a next state, and the block keeps what the
spec states of its plain data in every reachable state. -/

namespace Sys2Proof.Safety
open Sys2Proof.Machine

/-- A step that neither faults nor refuses. -/
def Goes (s : State) : Prop := ∃ t, step s = .next t

/-- What holds of the block's data at every moment: the system area's bytes are in canonical form (R47), the fault
ring holds at most 4,096 records (R405), the violation log at most 1,024 (R465), and at most 4,096 events wait for
room in the event ring (R477). -/
def Sound (q : Qf) : Prop :=
  Memory.wf q.sys = true ∧ q.flt.ring.length ≤ 4096 ∧ q.mgmt.violations.length ≤ 1024 ∧
  q.host.waitingEvents.length ≤ 4096

end Sys2Proof.Safety
end

