-- ==== Sys2Proof/Certificates/Slice0/Obligations.lean ====
section
/-! DEFINITION. Certificates/Slice0/Obligations.lean: the statements for the provers. -/

namespace Sys2Proof.Claims
open Sys2Proof.Machine

/-- The command completes: it answers a next state that differs from s in the block only, which becomes q. -/
def To (c : Instr) (s : State) (q : Qf) : Prop := exec c s = .next { s with qf := q }

/-- The command completes with a block of which P holds, the waiting commands as they were. -/
def Ends (c : Instr) (s : State) (P : Qf → Prop) : Prop :=
  ∃ t, exec c s = .next t ∧ t.pending = s.pending ∧ P t.qf

/-- A manager command of the generation in force that may start (R468, R473, R474): FORMAT 1 and nothing beyond
its arguments. -/
abbrev MgrReady (q : Qf) (m : MgrRef) : Prop :=
  q.mgrLive = true ∧ m.generation = q.host.generation ∧ q.mayStart m = true ∧ mgrOk m = true ∧
  q.fetchedOk m = true

/-- The block once the command counts as started. -/
abbrev started (s : State) (m : MgrRef) : Qf := s.qf.markStart m true

/-- Nothing changes the slot and no command waits for it (R474, R540). -/
abbrev SlotStill (q : Qf) (x : Slot) : Prop :=
  q.slotBusy x = false ∧ q.pool.waiting.any (fun w => w.1 = x) = false

/-- The block with its pool changed, and so on for the other groups of its state. -/
abbrev inPool (q : Qf) (f : Pool → Pool) : Qf := { q with pool := f q.pool }
@[inherit_doc inPool] abbrev inHome (q : Qf) (f : Home → Home) : Qf := { q with home := f q.home }
@[inherit_doc inPool] abbrev inEdge (q : Qf) (f : Edge → Edge) : Qf := { q with edge := f q.edge }
@[inherit_doc inPool] abbrev inPart (q : Qf) (f : Partition → Partition) : Qf := { q with part := f q.part }
@[inherit_doc inPool] abbrev inSw (q : Qf) (f : Switch → Switch) : Qf := { q with sw := f q.sw }
@[inherit_doc inPool] abbrev inSched (q : Qf) (f : Sched → Sched) : Qf := { q with sched := f q.sched }
@[inherit_doc inPool] abbrev inSec (q : Qf) (f : Security → Security) : Qf := { q with sec := f q.sec }
@[inherit_doc inPool] abbrev inFlt (q : Qf) (f : Faults → Faults) : Qf := { q with flt := f q.flt }
@[inherit_doc inPool] abbrev inEns (q : Qf) (f : Ensign → Ensign) : Qf := { q with ens := f q.ens }
@[inherit_doc inPool] abbrev inMgmt (q : Qf) (f : Mgmt → Mgmt) : Qf := { q with mgmt := f q.mgmt }
@[inherit_doc inPool] abbrev inHost (q : Qf) (f : HostIf → HostIf) : Qf := { q with host := f q.host }
@[inherit_doc inPool] abbrev inDbg (q : Qf) (f : Debug → Debug) : Qf := { q with dbg := f q.dbg }
@[inherit_doc inPool] abbrev inPwr (q : Qf) (f : Power → Power) : Qf := { q with pwr := f q.pwr }
@[inherit_doc inPool] abbrev inBoot (q : Qf) (f : Boot → Boot) : Qf := { q with boot := f q.boot }
@[inherit_doc inPool] abbrev inCum (q : Qf) (f : Cumulus → Cumulus) : Qf := { q with cum := f q.cum }
@[inherit_doc inPool] abbrev inObs (q : Qf) (f : Observe → Observe) : Qf := { q with obs := f q.obs }

/-- A packet comes in where no client of this QF960 sends it, for this QF960. -/
abbrev ForUs (q : Qf) (i : Ingress) (p : Packet) : Prop :=
  q.inService = true ∧ q.atEdge i = false ∧ p.destEp = q.ownEp

/-- The block once the packet is taken from where it came in. -/
abbrev took (s : State) (i : Ingress) (p : Packet) : Qf := s.qf.take i p

/-- The home accepts a packet: its message is not cleared and no move blocks it (R60, R93), its PSN is to be processed,
giving q1 (R139), its checks pass (Table POOL-5) and its draft page is taken, giving q2. -/
abbrev Accepts (q : Qf) (p : Packet) (q1 q2 : Qf) : Prop :=
  q.isCleared p = false ∧ q.moveBlocks p = false ∧ q.targetCheck p = (true, q1) ∧ q1.homeChecks p = none ∧
  q1.draftPage p = some q2

/-- A packet of the current instance of an armed group, behind no other of its half-port; q is the block once its arrival is
noted and it is taken. -/
abbrev Current (s : State) (h : HalfPort) (p : Packet) (c : ColHdr) (g : Nat) (q : Qf) : Prop :=
  s.qf.inService = true ∧ p.col = some c ∧ c.groupId.toNat = g ∧ q = (s.qf.colStamp c).take (.half h) p ∧
  ((s.qf.colStamp c).group g).waiting = [] ∧ ((s.qf.colStamp c).colTry h p).isSome = true ∧ q.cum.groups.has g = true ∧
  c.instanceSeq = (q.group g).nextSeq

/-- No disarm of the group is under way, and no command waits for one (R474). -/
abbrev GroupStill (q : Qf) (g : Nat) : Prop := (q.group g).disarm = none ∧ q.cum.later.any (fun w => w.1 = g) = false

/-- A session in a phase whose request is neither answered before nor older than all that are kept (R453). -/
abbrev Awaits (q : Qf) (a : AgwenRef) (x : AgSession) (phase : Nat) : Prop :=
  q.session a.session = some x ∧ q.agLive = true ∧ x.phase = phase ∧ (∀ k ∈ x.kept, k.seq ≠ a.seq) ∧
  (x.kept = [] ∨ ∃ k ∈ x.kept, k.seq.toNat ≤ a.seq.toNat)

/-- A request of an established session, neither answered before nor older than all that are kept (R445, R453). -/
abbrev Fresh (q : Qf) (a : AgwenRef) (x : AgSession) : Prop := Awaits q a x 3

/-- The block once a frame of the session has come. -/
abbrev heard (q : Qf) (a : AgwenRef) : Qf := q.updSession a.session (fun x => { x with last := q.now })

/-- The block once a request of an opcode is answered OK with a payload (R453). -/
abbrev answered (q : Qf) (a : AgwenRef) (op : BitVec 8) (bs : List Byte := []) (final : Bool := false) : Qf :=
  q.answerFrame a.session { session := a.session, opcode := op ||| 0x80, seq := a.seq, final := final, payload := bs }

/-- The block once a request of an opcode is refused, as Table MGMT-4 has it: ACCESS_VIOLATION where no other status is given. -/
abbrev denied (q : Qf) (a : AgwenRef) (op : BitVec 8) (detail : Nat) (st : Status := .accessViolation) (bs : List Byte := []) : Qf :=
  q.answerFrame a.session {
    session := a.session, opcode := op ||| 0x80, seq := a.seq, status := st.code, detail := BitVec.ofNat 8 detail, payload := bs }

/-- A request of an established session takes effect, f, where ok holds, and is answered OK with what r gives: x is the
session as it was when the request came. -/
def Asks (c : AgwenRef → Instr) (op : BitVec 8) (ok : Qf → AgSession → Prop) (f : Qf → AgSession → Qf)
    (r : Qf → AgSession → List Byte × Bool := fun _ _ => ([], false)) : Prop :=
  ∀ (s : State) (a : AgwenRef) (x : AgSession) (q : Qf), Fresh s.qf a x → q = heard s.qf a → ok q x →
    To (c a) s (answered (f q x) a op (r q x).1 (r q x).2)

/-- The session may read the entry now (R447, R452, R493). -/
abbrev Readable (q : Qf) (x : AgSession) (index : BitVec 16) (sub : BitVec 8) (e : Entry) : Prop :=
  q.entryFor x index sub = some e ∧ q.mayRead x e = true ∧ e.access ≠ .wo ∧
  (entryKey index sub = 0x831102 → q.dbg.squalled = true)

/-- The write of an entry that the session may write (R447, R455) takes effect, is kept in the settings store where the
entry is RW (R515), and is answered OK: item is what the session has selected, v the value. -/
def Writes (c : AgwenRef → List Byte → Instr) (index : BitVec 16) (sub : BitVec 8) (ok : Qf → Nat → List Byte → Prop)
    (f : Qf → Nat → List Byte → Qf) : Prop :=
  ∀ (s : State) (a : AgwenRef) (x : AgSession) (e : Entry) (v : List Byte) (item : Nat) (q : Qf), Fresh s.qf a x →
    q = heard s.qf a → q.writeBar x index sub = .ok e → x.sel (entryKey index sub) = item → ok q item v →
    To (c a v) s (answered ((f q item v).storeSetting e item) a 0x04)

/-- A flooded fence message, new here, arrives on a half-port: x is the endpoint it names, q the block once it is taken, noted
and forwarded (R416). -/
abbrev Floods (s : State) (h : HalfPort) (p : Packet) (x : Ep) (q : Qf) : Prop :=
  s.qf.inService = true ∧ (s.qf.link h).peerQf = true ∧ x = fenceSuspect p.payload ∧
  (s.qf.take (.half h) p).seenFence p.opcode x p.srcEp = false ∧
  q = ((s.qf.take (.half h) p).noteFence p.opcode x p.srcEp).flood p.opcode p.srcEp p.payload (some h)

/-- A half-port trains and is in a state: the block runs, the port's mode uses the half-port, its domain is on and it is not
fenced (R289, R311, R420). -/
abbrev TrainsIn (q : Qf) (h : HalfPort) (st : LinkState) : Prop :=
  q.running = true ∧ q.halfUsed h = true ∧ q.domainOn (40 + h.toNat / 2) = true ∧ (q.link h).fence = false ∧ (q.link h).state = st

/-- A host behind a CXL port asks for the line that holds a host address, at PVA line a, when its client is open (R301, R322). -/
def HostAsks (q : Qf) (c : CxlReq) (a : BitVec 60) (p : Packet) : Prop :=
  q.inService = true ∧ (q.link c.halfport).live = true ∧ (q.link c.halfport).profile = 3 ∧
  (∃ x, (q.link c.halfport).cxl.pvaOf c.hpa = some x ∧ x &&& ~~~(63 : BitVec 60) = a) ∧
  p.tag = c.tag ∧ p.addr = a ∧ p.srcEp = (q.link c.halfport).peerEp ∧ q.clientOpen c.halfport p = true

/-- The block once a host's request is remembered under its tag. -/
abbrev remembered (q : Qf) (c : CxlReq) (owned : List (BitVec 60)) : Qf :=
  q.updLink c.halfport (fun l => { l with cxl := { l.cxl with openReqs := l.cxl.openReqs ++ [(c.tag, c)], owned := owned } })

/-- The block once an extent of the region is assigned to the tenant: where FLAGS make it versioned, its record home is this
QF960 and there is no version record yet, one is begun (R37). -/
abbrev withRecord (flags : BitVec 8) (q : Qf) (t : Tenant) (r : RegionId) : Qf :=
  if flags.getLsbD 2 && q.recordHome t r = q.ownEp && !q.ver.recs.has r.toNat then q.updVer r (fun v => v) else q

/-- The version record of a region lies here, at the home of its extent with the lowest VEN, and can be read (R37): it is v. -/
abbrev RecordHere (q : Qf) (tenant : BitVec 16) (region : BitVec 32) (r : RegionId) (v : VersionRec) : Prop :=
  inRange tenant 4096 = true ∧ inRange region 1048576 = true ∧ fld region 0 20 = r ∧ q.ver.recs.has r.toNat = true ∧
  q.recordHome (fld tenant 0 12) r = q.ownEp ∧ q.verRec r = v ∧ v.lost = false

/-- A response to a request of this QF960 itself, r: its switch combined no request with r's, and no line's transaction waits
for it (R120, R121, R347). -/
abbrev AnswersOwn (q : Qf) (i : Ingress) (p : Packet) (r : OpenReq) : Prop :=
  q.inService = true ∧ q.pwr.failState = 0 ∧ p.destEp = (q.take i p).ownEp ∧
  (q.take i p).home.combines.find? (fun c => c.is p.destEp p.tag) = none ∧
  (q.take i p).home.trayReads.find? (fun r => r.is p.srcEp p.tag) = none ∧ (q.take i p).openFor p = some r

/-- A response that resolves the request r of a client of this edge (R347). -/
abbrev AnswersClient (q : Qf) (i : Ingress) (p : Packet) (r : OpenReq) : Prop :=
  q.inService = true ∧ p.destEp ≠ q.ownEp ∧ p.destEp ≠ (q.take i p).ownEp ∧ ((q.take i p).clientHalf p.destEp).isSome = true ∧
  (q.take i p).home.combines.find? (fun c => c.is p.destEp p.tag) = none ∧ (q.take i p).openFor p = some r ∧
  resolves r p = true

end Sys2Proof.Claims

open Sys2Proof Sys2Proof.Machine Sys2Proof.Claims

/-- EXTENT_ASSIGN, EXTENT_WITHDRAW, EXTENT_MOVE, PLACE_T0 and CIRRUS_REPLICATE run (Table POOL-16): a slot that is FREE
is assigned and its quota counted (R53, R541); of an ASSIGNED slot, a withdrawal is noted for Tw (R43), a move starts
copying (R60), a tier-0 frame is taken and filled (R49), a replica is begun (R51).
Each completes, in every state and with all operands that meet the conditions named: EXTENT_ASSIGN, EXTENT_WITHDRAW,
EXTENT_MOVE, PLACE_T0, CIRRUS_REPLICATE. -/
def Obligations.ExtentCommandsTakeEffect : Prop :=
  (∀ (s : State) (m : MgrRef) (slot region : BitVec 32) (tray x tenant : BitVec 16) (flags : BitVec 8) (h : HalfPort)
    (k : Slot) (t : Tenant) (ep : Ep) (n : BitVec 13), fld slot 0 18 = k → fld tenant 0 12 = t → fld tray 0 14 = ep →
    fld x 0 13 = n → MgrReady s.qf m → SlotStill s.qf k →
    inRange slot 262144 = true → inRange tray 16384 = true → inRange x 8192 = true → inRange tenant 4096 = true →
    inRange region 1048576 = true → inRange flags 8 = true →
    (s.qf.extent k).lost = false → (s.qf.extent k).state = .free → s.qf.halfTo ep = some h →
    (s.qf.link h).profile = 2 → (s.qf.link h).trayProt = true → n.toNat < (s.qf.link h).trayCapacity →
    (∀ e ∈ s.qf.pool.extents, e.2.state ≠ .free → e.2.trayEp = ep → e.2.trayExtent ≠ n) →
    (s.qf.quota t).u1 < (s.qf.quota t).q1.toNat →
    To (.extentAssign m slot tray x tenant region flags) s
      (((withRecord flags (((started s m).updExtent k (fun _ =>
          { state := .assigned, prot := flags.getLsbD 0, sealedX := flags.getLsbD 1, versioned := flags.getLsbD 2,
            trayEp := ep, trayExtent := n, tenant := t, region := fld region 0 20 })).updQuota t
          (fun u => { u with u1 := u.u1 + 1 })) t (fld region 0 20)).meter 0 t 4 1).complete m 0x10 .ok).settle) ∧
  (∀ (s : State) (m : MgrRef) (slot : BitVec 32) (tw : BitVec 64) (pr : Nat) (q1 : Qf) (k : Slot), fld slot 0 18 = k →
    MgrReady s.qf m → SlotStill s.qf k → inRange slot 262144 = true → s.qf.boot.resetAt = none →
    (s.qf.extent k).lost = false → (s.qf.extent k).state = .assigned → s.qf.now < tw.toNat → (started s m).newProgress 1 0 4194304 = some (pr, q1) →
    To (.extentWithdraw m slot tw) s (q1.updWd k (fun _ => { tw := tw.toNat, cmd := some m, progress := some pr })).settle) ∧
  (∀ (s : State) (m : MgrRef) (slot newSlot : BitVec 32) (newHome : BitVec 16) (pr : Nat) (q1 : Qf) (k : Slot),
    fld slot 0 18 = k → MgrReady s.qf m → SlotStill s.qf k → inRange slot 262144 = true → inRange newHome 16384 = true →
    inRange newSlot 262144 = true → s.qf.boot.resetAt = none → (s.qf.extent k).lost = false → (s.qf.extent k).state = .assigned →
    (started s m).newProgress 2 1 65536 = some (pr, q1) →
    To (.extentMove m slot newHome newSlot) s
      ((inPool q1 (fun p => { p with
        moves := p.moves.set k.toNat { newHome := fld newHome 0 14, newSlot := fld newSlot 0 18, cmd := some m,
                                       progress := some pr } })).moveNext k).settle) ∧
  (∀ (s : State) (m : MgrRef) (slot : BitVec 32) (f pr : Nat) (q1 : Qf) (k : Slot) (e : Extent),
    fld slot 0 18 = k → s.qf.extent k = e →
    MgrReady s.qf m → SlotStill s.qf k → inRange slot 262144 = true → e.lost = false → e.state = .assigned → e.t0Frame = 0xFFF →
    s.qf.pool.short = false → (s.qf.quota e.tenant).u0 < (s.qf.quota e.tenant).q0.toNat →
    (s.qf.freeFrames 1).head? = some f → (started s m).newProgress 8 0 4194304 = some (pr, q1) →
    To (.placeT0 m slot) s
      (((((((inPool (q1.updExtent k (fun e => { e with t0Frame := BitVec.ofNat 12 f }))
          (fun p => { p with frames := p.frames.set f { slot := k, progress := some pr } })).updQuota e.tenant
          (fun u => { u with u0 := u.u0 + 1 })).meter 0 e.tenant 3 1).checkShort.complete m 0x13 .ok (some pr) 1).fillNext
          f)).settle)) ∧
  (∀ (s : State) (m : MgrRef) (slot : BitVec 32) (lender x : BitVec 16) (k : Slot) (e : Extent) (l : Ep),
    fld slot 0 18 = k → s.qf.extent k = e → fld lender 0 14 = l →
    MgrReady s.qf m → SlotStill s.qf k → inRange slot 262144 = true → inRange lender 16384 = true →
    e.lost = false → e.state = .assigned → e.sealedX = true → e.cirrusValid = false →
    s.qf.pool.cirrus.any (fun c => c.lender = l && c.extent = x && c.slot.isNone) = true →
    ¬ (s.qf.quota e.tenant).q2.toNat ≤ (s.qf.quota e.tenant).u2 + (started s m).replicating e.tenant →
    To (.cirrusReplicate m slot lender x) s
      ((inPool (started s m) (fun p => { p with
          cirrus := updFirst (fun c => c.lender = l && c.extent = x && c.slot.isNone)
            (fun c => { c with slot := some k }) p.cirrus
          replications := p.replications ++
            ([{ slot := k, lender := l, extent := x, cmd := some m }] : List Replication) })).replicaNext k).settle)

/-- The events of a withdrawal and of a move, when they are due (R43, R44, R46, R60, R542): at Tw the slot is
WITHDRAWING; with nothing in flight its lines are recalled; at Tw + 10 ms what is left is failed and its lines are recalled, the scrub following them;
a scrub of the last line frees the slot, ends its progress object and completes the command; a TRAY_FILL unanswered for
REQUEST_TIMEOUT stops the scrub; the last line of a frame ends the fill; a pass of a move begins another over the pages
written meanwhile.
Each completes, in every state and with all operands that meet the conditions named: WITHDRAW_EFFECT, WITHDRAW_DRAIN_END,
WITHDRAW_DRAIN_TIMEOUT, SCRUB_DONE, TRAY_FILL_TIMEOUT, T0_FILL_DONE, MOVE_COPY_PASS. -/
def Obligations.WithdrawalAndMoveEventsTakeEffect : Prop :=
  (∀ (s : State) (k : Slot) (w : Withdrawal), s.qf.wd k = some w → w.effective = false → w.stopped = false →
    w.tw ≤ s.qf.now → s.qf.running = true →
    To (.withdrawEffect k) s
      ((((s.qf.failFill k .withdrawn).updExtent k (fun e => { e with state := .withdrawing })).updWd k
        (fun w => { w with effective := true })).failWaits (fun w => slotNo w.pkt.addr = k) .withdrawn)) ∧
  (∀ (s : State) (k : Slot) (w : Withdrawal), s.qf.wd k = some w → w.effective = true →
    (s.qf.extent k).state = .withdrawing → s.qf.slotInFlight k = 0 → s.qf.running = true →
    To (.withdrawDrainEnd k) s
      (((s.qf.updWd k (fun w => { w with recalling := true })).recallSlot k true).settle)) ∧
  (∀ (s : State) (k : Slot) (w : Withdrawal), s.qf.wd k = some w → w.effective = true →
    (s.qf.extent k).state = .withdrawing → w.tw + 10000000 ≤ s.qf.now → s.qf.running = true →
    To (.withdrawDrainTimeout k) s
      ((((s.qf.updWd k (fun w => { w with discarded := true, recalling := true })).failSlot k .withdrawn).recallSlot k
        true).settle)) ∧
  (∀ (s : State) (k : Slot) (w : Withdrawal) (m : MgrRef), s.qf.wd k = some w → (s.qf.extent k).state = .scrubbing →
    w.stopped = false → 4194304 ≤ w.scrubPos → s.qf.running = true → w.cmd = some m →
    To (.scrubDone k) s
      ((((inPool (s.qf.freeSlot k) (fun p => { p with withdrawals := p.withdrawals.del k.toNat })).endProgress
        w.progress 1 0).complete m 0x11 .ok w.progress).settle)) ∧
  (∀ (s : State) (k : Slot) (w : Withdrawal) (f : Tag × Nat × Nat), s.qf.wd k = some w → w.fill = some f →
    f.2.2 + s.qf.flt.requestTimeout.toNat ≤ s.qf.now → s.qf.running = true →
    To (.trayFillTimeout k) s ((s.qf.scrubStop k .timeout).settle)) ∧
  (∀ (s : State) (k : Slot) (f : Nat) (fr : Frame), (s.qf.extent k).t0Frame.toNat = f → s.qf.pool.frames.find? f = some fr →
    4194304 ≤ fr.fillPos → fr.progress.isSome = true → s.qf.running = true →
    To (.t0FillDone k) s (inPool (s.qf.endProgress fr.progress 1 0)
      (fun p => { p with frames := p.frames.set f { fr with progress := none } }))) ∧
  (∀ (s : State) (k : Slot) (v : Move), s.qf.pool.moves.find? k.toNat = some v → v.pass ≠ 0 → v.todo = [] →
    s.qf.running = true → v.blocked = false → 64 ≤ v.dirty.length →
    To (.moveCopyPass k) s
      ((inPool s.qf (fun p => { p with
        moves := p.moves.set k.toNat { v with pass := v.pass + 1, todo := v.dirty, dirty := [] } })).moveNext k))

/-- The Cirrus commands and EXTENT_RESTORE (R51, R52, R409): a lender's extents that are not yet registered join the
registry; a replica whose last line is written is marked in the extent's entry, counted in its quota and completes its
command; a reclaim takes the lender's extents out of the registry; its acknowledgement reissues the reads
still out to the reclaimed memory and answers PLACED; a restore is noted and its image read.
Each completes, in every state and with all operands that meet the conditions named: CIRRUS_REGISTER, CIRRUS_REPLICA_COMPLETE,
RECLAIM, RECLAIM_ACK, EXTENT_RESTORE. -/
def Obligations.CirrusCommandsTakeEffect : Prop :=
  (∀ (s : State) (m : MgrRef) (lender first count : BitVec 16) (l : Ep) (new : List Nat), fld lender 0 14 = l →
    MgrReady s.qf m → inRange lender 16384 = true → first.toNat + count.toNat ≤ 65536 →
    ((List.range count.toNat).map (fun k => first.toNat + k)).filter (fun x =>
      !s.qf.pool.cirrus.any (fun c => c.lender = l && c.extent.toNat = x)) = new →
    s.qf.pool.cirrus.length + new.length ≤ 65536 →
    To (.cirrusRegister m lender first count) s
      ((inPool (started s m) (fun p => { p with
        cirrus := p.cirrus ++ new.map (fun x => { lender := l, extent := BitVec.ofNat 16 x }) })).complete m 0x14 .ok)) ∧
  (∀ (s : State) (k : Slot) (r : Replication), s.qf.pool.replications.find? (fun r => r.slot = k) = some r →
    4194304 ≤ r.pos → s.qf.running = true →
    To (.cirrusReplicaComplete k) s
      ((((((s.qf.updExtent k (fun e => { e with cirrusValid := true, cirrusEp := r.lender, cirrusExtent := r.extent })).updQuota
        (s.qf.extent k).tenant (fun u => { u with u2 := u.u2 + 1 })).meter 0 (s.qf.extent k).tenant 5 1).replicaEnd k
        .ok).settle))) ∧
  (∀ (s : State) (i : Ingress) (p : Packet), s.qf.inService = true → p.destEp = s.qf.ownEp →
    To (.reclaim i p) s ((s.qf.take i p).reclaim p)) ∧
  (∀ (s : State) (lender : Ep) (r : Reclaim) (q1 : Qf) (old : List TrayRead),
    s.qf.pool.reclaims.find? (fun r => r.lender = lender) = some r → s.qf.inService = true →
    s.qf.home.trayReads.filter (fun t => t.cirrus && t.ep = lender && r.exts.contains t.ext) = old →
    old.foldl (fun q t => match (q.lineQ t.forLine).bind BlockedLine.txn with
        | some x => if x.phase = .reading then q.readTier t.forLine x else q
        | none => q)
      (inHome s.qf (fun h => { h with
        trayReads := h.trayReads.filter (fun t => !(t.cirrus && t.ep = lender && r.exts.contains t.ext)) })) = q1 →
    To (.reclaimAck lender) s
      (((inPool q1 (fun p => { p with reclaims := dropFirst (fun r => r.lender = lender) p.reclaims })).sendPlain (.unit 0)
        { opcode := Opc.placed, vc := 1, tc := r.tc, partitionId := q1.part.id, destEp := lender, srcEp := q1.ownEp,
          tag := r.tag, mapEpoch := q1.part.epoch }).settle)) ∧
  (∀ (s : State) (m : MgrRef) (slot : BitVec 32) (image : BitVec 64) (tenant : BitVec 16) (k : Slot) (q1 : Qf),
    fld slot 0 18 = k → MgrReady s.qf m → inRange slot 262144 = true → inRange image (2 ^ 56) = true →
    inRange tenant 4096 = true →
    (inPool (started s m) (fun p => { p with restoring := p.restoring ++ [(k, m)] })).issue 0 (.restore k)
      { opcode := Opc.rdNc, tenant := fld tenant 0 12, world := true, stream := (3 : BitVec 2) ++ (8 : BitVec 16),
        addr := fld image 0 60 } = (none, q1) →
    To (.extentRestore m slot image tenant) s q1)

/-- The version commands on a region that has a version record here (R56, R57, R59): a reader of the current version is
counted and its version answered; a reader of a version leaves it, and
with the last reader of a version no longer current its slot is given back; a draft of the current version opens; an open
draft whose expected version is the current one is published as the next version; an open draft is abandoned; a fold
takes its next turn.
Each completes, in every state and with all operands that meet the conditions named: OPEN_VERSION, CLOSE_VERSION, OPEN_DRAFT,
PUBLISH, ABANDON, FOLD_PAGE. -/
def Obligations.VersionCommandsTakeEffect : Prop :=
  (∀ (s : State) (m : MgrRef) (tenant : BitVec 16) (region : BitVec 32) (r : RegionId) (v : VersionRec),
    MgrReady s.qf m → RecordHere s.qf tenant region r v →
    To (.openVersion m tenant region) s
      (((started s m).updVer r (fun x => { x with
          readers := x.readers.set v.currentSlot.toNat ((x.readers[v.currentSlot.toNat]?).getD 0 + 1) })).complete
        m 0x17 .ok none (verResult v.current v.currentSlot.toNat))) ∧
  (∀ (s : State) (m : MgrRef) (tenant : BitVec 16) (region : BitVec 32) (slot : BitVec 8) (r : RegionId) (v w : VersionRec)
    (n : BitVec 16), MgrReady s.qf m → RecordHere s.qf tenant region r v → inRange slot 4 = true →
    (v.readers[slot.toNat]?).getD 0 = n → n ≠ 0 → { v with readers := v.readers.set slot.toNat (n - 1) } = w →
    To (.closeVersion m tenant region slot) s
      (((((started s m).updVer r (fun _ =>
          if slot.toNat ≠ v.currentSlot.toNat ∧ n = 1 then w.reclaimSlot slot.toNat else w)).freePages r).startFold
        r).complete m 0x17 .ok)) ∧
  (∀ (s : State) (m : MgrRef) (tenant : BitVec 16) (region : BitVec 32) (r : RegionId) (v : VersionRec) (d : Nat),
    MgrReady s.qf m → RecordHere s.qf tenant region r v →
    (List.range 4).find? (fun d => !v.draftOpen.getLsbD d) = some d →
    ∃ q1 : Qf, q1 = (started s m).takeFree.2.updVer r (fun x => { x with
        draftOpen := setBit x.draftOpen d true, draftBase := x.draftBase.set d x.current
        mapDraft := x.mapDraft.set d (fld (started s m).takeFree.1 0 46)
        maps := x.maps.set (4 + d) ((x.maps[x.currentSlot.toNat]?).getD []) }) ∧
      To (.openDraft m tenant region) s (q1.complete m 0x17 .ok none (verResult (q1.verRec r).current d))) ∧
  (∀ (s : State) (m : MgrRef) (tenant : BitVec 16) (region : BitVec 32) (draft : BitVec 8) (r : RegionId) (v : VersionRec)
    (k : Nat) (q1 : Qf), MgrReady s.qf m → RecordHere s.qf tenant region r v → inRange draft 4 = true →
    v.draftOpen.getLsbD draft.toNat = true → (started s m).publishDraft r draft.toNat = some (k, q1) →
    To (.publish m tenant region draft v.current) s (q1.complete m 0x17 .ok none (verResult (v.current + 1) k))) ∧
  (∀ (s : State) (m : MgrRef) (tenant : BitVec 16) (region : BitVec 32) (draft : BitVec 8) (r : RegionId) (v : VersionRec),
    MgrReady s.qf m → RecordHere s.qf tenant region r v → inRange draft 4 = true →
    v.draftOpen.getLsbD draft.toNat = true →
    To (.abandon m tenant region draft) s
      (((((started s m).updVer r (fun x => { x with
          draftOpen := setBit x.draftOpen draft.toNat false, draftBase := x.draftBase.set draft.toNat 0
          maps := x.maps.set (4 + draft.toNat) [], mapDraft := x.mapDraft.set draft.toNat 0 })).freePages r).startFold
        r).complete m 0x17 .ok)) ∧
  (∀ (s : State) (t : Tenant) (r : RegionId), s.qf.running = true → s.qf.ver.recs.has r.toNat = true →
    To (.foldPage t r) s (s.qf.foldTurn r))

/-- The shortage, skew and epoch commands (R54, R62, R65, R66, R346, R369, R470): a notice replaces the home's earlier
one at the edge; a short home renews its notice; a notice of 10 ms ago lapses; a resource that is hot no longer leaves
the hot list with its sampled lines; an idle replica is dropped; the previous epoch retires 1 ms after the advance, or at
once where RETIRE_EARLY is in force and none of its requests is in flight; an advance to the next epoch makes the
pending bank current and cuts over the
moves that are copied; RETIRE_EARLY is noted.
Each completes, in every state and with all operands that meet the conditions named: THROTTLE, THROTTLE_RENEW, THROTTLE_LAPSE,
SKEW_HOT, REPLICA_IDLE_DROP, EPOCH_RETIRE, EPOCH_RETIRE_EARLY, ADVANCE, RETIRE_EARLY. -/
def Obligations.EpochAndSkewCommandsTakeEffect : Prop :=
  (∀ (s : State) (home : Ep) (ts : List Tenant), s.qf.inService = true →
    To (.throttle home false ts) s (inSched s.qf (fun x => { x with policers := x.policers.map (fun y =>
      (y.1, { y.2 with throttles := y.2.throttles.filter (fun z => z.1 != home) })) }))) ∧
  (∀ (s : State), s.qf.inService = true → s.qf.pool.short = true → To .throttleRenew s s.qf.notifyShort) ∧
  (∀ (s : State) (home : Ep), s.qf.running = true →
    Ends (.throttleLapse home) s (fun q => ∀ x ∈ q.sched.policers, ∀ y ∈ x.2.throttles, y.1 = home → s.qf.now < y.2)) ∧
  (∀ (s : State) (r : SkewResource) (ls : List LineNo), s.qf.inService = true →
    To (.skewHot r false ls) s (inPool s.qf (fun p => { p with
      hot := p.hot.filter (· != r), sampled := p.sampled.filter (fun x => x.1 != r) }))) ∧
  (∀ (s : State) (page : BitVec 34) (h : HotPage), s.qf.hotPage page = some h →
    h.lastUse + s.qf.pool.skewIdle.toNat ≤ s.qf.now → s.qf.running = true →
    To (.replicaIdleDrop page) s (inPool s.qf (fun p => { p with
      hotPages := p.hotPages.filter (fun h => h.page != page) }))) ∧
  (∀ (s : State), s.qf.part.prevRetired = false → s.qf.part.advancedAt + 1000000 ≤ s.qf.now → s.qf.running = true →
    s.qf.pool.extents.filter (fun x => x.2.state = .moved) = [] →
    To .epochRetire s ((inPart s.qf (fun p => { p with prevRetired := true, early := false })).settle)) ∧
  (∀ (s : State), s.qf.part.prevRetired = false → s.qf.part.early = true →
    s.qf.epochInFlight (s.qf.part.epoch - 1) = false → s.qf.running = true →
    s.qf.pool.extents.filter (fun x => x.2.state = .moved) = [] →
    To .epochRetireEarly s ((inPart s.qf (fun p => { p with prevRetired := true, early := false })).settle)) ∧
  (∀ (s : State) (port : Bool) (value : BitVec 64) (e : Epoch), s.qf.hostOn port = true → s.qf.host.active = some port →
    value.getLsbD 63 = true → fld value 0 16 = e → e = s.qf.part.epoch + 1 → s.qf.sw.previous = none →
    s.qf.part.booted = true → s.qf.dbg.squalled = false →
    To (.advance port value) s (({ s.qf with
      pool := { s.qf.pool with incoming := [] }
      part := { s.qf.part with epoch := e, advancedAt := s.qf.now, prevRetired := false, early := false }
      sw := { s.qf.sw with previous := some s.qf.sw.current, prevSince := s.qf.now
                           current := { s.qf.sw.pending with label := e }
                           pending := { s.qf.sw.pending with label := e + 1 } } } : Qf).moveCutover.settle)) ∧
  (∀ (s : State) (port : Bool) (value : BitVec 64), s.qf.hostOn port = true → s.qf.host.active = some port →
    value.getLsbD 63 = false → value.getLsbD 61 = true → fld value 0 16 = s.qf.part.epoch →
    s.qf.part.prevRetired = false → s.qf.dbg.squalled = false →
    To (.retireEarly port value) s (inPart s.qf (fun p => { p with early := true })))

/-- A request for this QF960 that is not its client's, and that its checks accept, is admitted and ordered at its line:
RD_NC, RD_SHARED, RD_OWN, UPGRADE, EVICT_CLEAN, ATOMIC and, at its flag's line,
PENNANT (R42, R79, R91, R108, R139), a bulk read at each of its lines (R304), a wait at its word's line (R87, R543), a CANCEL that names PSNs of a pair the home
holds, whose ownership epoch is not below its target record's (R93, R150, R546); a STREAM_RESET of a client leaves its stream with no failure (R82).
Each completes, in every state and with all operands that meet the conditions named: RD_NC, RD_SHARED, RD_OWN, UPGRADE,
EVICT_CLEAN, ATOMIC, PENNANT, RD_BULK, WAIT_REGISTER, CANCEL, STREAM_RESET. -/
def Obligations.HomeRequestsAreOrdered : Prop :=
  (∀ c ∈ [((fun i p => Instr.rdNc i p), LineOp.rdNc), (fun i p => Instr.rdShared i p, .rdShared), (fun i p => Instr.rdOwn i p, .rdOwn),
      (fun i p => Instr.upgrade i p, .upgrade), (fun i p => Instr.evictClean i p, .evictClean), (fun i p => Instr.atomic i p, .atomic), (fun i p => Instr.pennant i p, .flag)],
    ∀ (s : State) (i : Ingress) (p : Packet) (q1 q2 : Qf) (n : LineNo), ForUs s.qf i p →
      Accepts (took s i p) p q1 q2 → q2.viewLine p (lineNo p.addr) = n → (q2.takeIn p).queueFull n = false →
      To (c.1 i p) s ((q2.takeIn p).order { op := c.2, line := n, pkt := p }).settle) ∧
  (∀ (s : State) (i : Ingress) (p : Packet) (q1 q2 : Qf) (ls : List LineReq), ForUs s.qf i p →
    (took s i p).isCleared p = false → (took s i p).targetCheck p = (true, q1) → q1.homeChecks p = none →
    (List.range (ceilDiv ((fld p.addr 0 6 : BitVec 6).toNat + reqLen p none) 64)).map (fun k =>
      ({ op := .rdNc, line := q1.viewLine p (lineNo p.addr + BitVec.ofNat 40 k), pkt := p
         bulk := some q1.home.nextBulk } : LineReq)) = ls → ls ≠ [] →
    (inHome (q1.takeIn p) (fun h => { h with
      nextBulk := q1.home.nextBulk + 1
      bulks := h.bulks.set q1.home.nextBulk { pkt := p, read := true, left := ls.length } })).orderAll ls = some q2 →
    To (.rdBulk i p) s q2.settle) ∧
  (∀ (s : State) (i : Ingress) (p : Packet) (r : WaitRec) (ws : List WaitSlot) (x : Sector), ForUs s.qf i p →
    (took s i p).check123 p = none → WaitRec.ofBits (bitsOf 256 p.payload) = r →
    (took s i p).home.waits.filter (fun w => !(w.waiter = p.srcEp && w.tag = p.tag)) = ws →
    (took s i p).sectorOf (lineNo p.addr) = x → (ws.filter (fun w => w.sector = x)).length < 1024 →
    To (.waitRegister i p) s
      (((inHome (took s i p) (fun h => { h with waits := ws ++
          [{ sector := x, waiter := p.srcEp, tag := p.tag, record := r, pkt := p
             deadline := if r.timeoutUs = 0 then none else some ((took s i p).now + r.timeoutUs.toNat * 1000) }] })).orderInternal
        { op := .waitEval, line := (took s i p).viewLine p (lineNo p.addr), pkt := p }).settle)) ∧
  (∀ (s : State) (i : Ingress) (p : Packet) (h : QpHdr) (t t1 : TargetRec) (psns : List Psn) (q1 : Qf), ForUs s.qf i p →
    p.msg = none → p.qp = some h → (took s i p).target h = some t → t.lost = false → t.ownEpoch ≤ h.ownEpoch →
    (took s i p).updTarget h (fun t => { t with ownEpoch := h.ownEpoch }) = q1 → q1.target h = some t1 →
    (chunks 4 256 p.payload).map (fun b => (bitsOf 32 b : Psn)) = psns →
    To (.cancel i p) s (psns.foldl (fun q x => q.cancelPsn p h x) (q1.updTarget h (fun t => t.cancel psns)))) ∧
  (∀ (s : State) (h : HalfPort) (p : Packet), s.qf.inService = true → s.qf.atEdge (.half h) = true →
    To (.streamReset (.half h) p) s ((took s (.half h) p).streamReset h p))

/-- Writes and dirty data for this QF960 (R71, R72, R90, R114, R139, R544): a write request waits for its DATA_WRITE and
the data for its request; with both, and accepted, each line of the write is ordered; a write-back by the recorded
owner of an idle line is served at once; dirty data that a snoop's answer announced joins its transaction.
Each completes, in every state and with all operands that meet the conditions named: WR_NC, WR_FULL_NC, WR_BULK, WB_DIRTY,
DATA_WRITE, DATA_DIRTY. -/
def Obligations.WritesAreTakenWithTheirData : Prop :=
  (∀ c ∈ [fun i p => Instr.wrNc i p, fun i p => Instr.wrFullNc i p, fun i p => Instr.wrBulk i p],
    ∀ (s : State) (i : Ingress) (p r : Packet) (x : Ingress × Packet) (q1 q2 q3 q4 q5 : Qf) (ls : List LineReq),
      ForUs s.qf i p → (took s i p).pair i p = (some x, q1) → p.vc ≠ 3 →
      r = { p with payload := x.2.payload, msg := p.msg.or x.2.msg, pennant := p.pennant.or x.2.pennant, qp := p.qp.or x.2.qp } →
      q1.isCleared r = false → q1.moveBlocks r = false → q1.targetCheck r = (true, q2) → q2.openMsg r = some q3 →
      q3.homeChecks r = none → q3.draftPage r = some q4 →
      (writePieces r x.2.payload).map (fun y => ({ op := .write, line := q4.viewLine r y.1, pkt := r, data := y.2.1, mask := y.2.2
                                                   bulk := some (q4.noteMove r).home.nextBulk } : LineReq)) = ls → ls ≠ [] →
      (inHome ((q4.noteMove r).takeIn r) (fun h => { h with
        nextBulk := (q4.noteMove r).home.nextBulk + 1
        bulks := h.bulks.set (q4.noteMove r).home.nextBulk { pkt := r, left := ls.length } })).orderAll ls = some q5 →
      To (c i p) s q5.settle) ∧
  (∀ c ∈ [fun i p => Instr.wrNc i p, fun i p => Instr.wrFullNc i p, fun i p => Instr.wrBulk i p,
      fun i p => Instr.wbDirty i p, fun i p => Instr.dataWrite i p],
    ∀ (s : State) (i : Ingress) (p : Packet), ForUs s.qf i p → (took s i p).home.unpaired.find? (isMate p) = none →
      To (c i p) s (inHome (took s i p) (fun h => { h with unpaired := h.unpaired ++ [(i, p)] }))) ∧
  (∀ (s : State) (i : Ingress) (p : Packet) (x : Ingress × Packet) (q1 : Qf) (n : LineNo) (r : LineReq), ForUs s.qf i p →
    (took s i p).pair i p = (some x, q1) → p.vc ≠ 3 → q1.homeChecks p = none → q1.viewLine p (lineNo p.addr) = n →
    (q1.lineQ n).bind BlockedLine.txn = none → (∀ b, q1.lineQ n = some b → b.stuck = false) → q1.wbOwner n p.srcEp = true →
    r = { op := .wbDirty, line := n, pkt := p, data := lineOf (slice x.2.payload 0 64), ordered := q1.now } →
    To (.wbDirty i p) s ((q1.dropHotFor r).serve n r).settle) ∧
  (∀ (s : State) (i : Ingress) (p : Packet) (x : Ingress × Packet) (q1 : Qf), ForUs s.qf i p →
    (took s i p).pair i p = (some x, q1) → p.vc = 3 → To (.dataWrite i p) s (q1.homeWrite x.2 p)) ∧
  (∀ (s : State) (i : Ingress) (p : Packet) (n : LineNo) (t : Txn) (x : Snoop), ForUs s.qf i p →
    (took s i p).snoopedLine p = some (n, t, x) → x.answered = true → x.wantData = true →
    To (.dataDirty i p) s
      ((((took s i p).updTxn n (fun t => { t with
          dirty := some (lineOf (slice p.payload 0 64))
          snoops := t.snoops.map (fun s => if s.ep = p.srcEp && s.tag = p.tag then { s with wantData := false } else s) })).checkSnoops
        n).settle))

/-- A holder's answer to a snoop (R108, R113, R114, R544): the directory drops it, keeps it as a sharer or keeps it as it
was, the snoop counts as answered, and where all are answered the transaction goes on; CMP_ACK records the entry and
releases the line (R110); a snoop unanswered for SNOOP_TIMEOUT leaves the line stuck with no waiters.
Each completes, in every state and with all operands that meet the conditions named: SNP_RSP_I, SNP_RSP_S,
SNP_RSP_WRITTEN_BACK, SNP_RSP_KEEP, CMP_ACK, SNOOP_TIMEOUT. -/
def Obligations.SnoopAnswersAdvanceTheLine : Prop :=
  (∀ c ∈ [((fun i p => Instr.snpRspI i p), (fun (n : LineNo) (q : Qf) (x : Ep) => q.dropHolder n x), false),
      (fun i p => Instr.snpRspS i p, fun n q x => q.ownerShares n x, false),
      (fun i p => Instr.snpRspWrittenBack i p, fun n q x => q.dropHolder n x, true),
      (fun i p => Instr.snpRspKeep i p, fun _ q _ => q, false)],
    ∀ (s : State) (i : Ingress) (p : Packet) (n : LineNo) (t : Txn) (x : Snoop), s.qf.inService = true →
      p.destEp = s.qf.ownEp → (took s i p).snoopedLine p = some (n, t, x) → p.far = false →
      To (c.1 i p) s
        (((c.2.1 n (took s i p) p.srcEp).updTxn n (fun t => { t with
            snoops := t.snoops.map (fun y => if y.ep = p.srcEp && y.tag = p.tag then
              { y with answered := true, wantData := false, wantWb := c.2.2 && (took s i p).wbOwner n p.srcEp && !y.wbSeen }
              else y) })).checkSnoops n).settle) ∧
  (∀ (s : State) (i : Ingress) (p : Packet) (x : Nat × BlockedLine) (t : Txn), s.qf.inService = true → p.destEp = s.qf.ownEp →
    List.find? (grantedTo p) (took s i p).home.lines = some x → x.2.txn = some t →
    To (.cmpAck i p) s ((((took s i p).setDir (BitVec.ofNat 40 x.1) t.newDir).release (BitVec.ofNat 40 x.1)).settle)) ∧
  (∀ (s : State) (n : LineNo) (b : BlockedLine) (t : Txn) (x : Snoop), s.qf.inService = true → s.qf.lineQ n = some b →
    b.txn = some t → b.waiters = [] → b.extRecall = none → b.stuck = false → t.phase = .snooping → t.snoops = [x] →
    x.answered = false → x.since + s.qf.home.snoopTimeout.toNat ≤ s.qf.now →
    To (.snoopTimeout n) s
      (((((s.qf.updLine n (fun b => { b with txn := none, waiters := [], extRecall := none, stuck := true })).silentHolder n
        t.req.pkt x.ep).failReq t.req .timeout)).settle))

/-- A response ends the request it answers (R61, R81, R82, R88, R91, R110, R119, R121, R347): one for this QF960's own
request gives its engine the outcome, status 0 where it succeeded and the packet's status for PENNANT_DONE and for a FAIL
with none of RETRY, EPOCH_STALE and LINK_DOWN; one for a client of this edge resolves the client's request and goes on.
Each completes, in every state and with all operands that meet the conditions named: PLACED, WAIT_DONE, ATOMIC_RESULT,
WB_DONE, GRANT_M, DATA_CLEAN, FAIL, PENNANT_DONE. -/
def Obligations.ResponsesResolveRequests : Prop :=
  (∀ c ∈ [(fun i p => Instr.placed i p), fun i p => .waitDone i p, fun i p => .atomicResult i p, fun i p => .wbDone i p,
      fun i p => .grantM i p],
    ∀ (s : State) (i : Ingress) (p : Packet) (r : OpenReq), AnswersOwn s.qf i p r → p.opcode ≠ Opc.fail →
      To (c i p) s ((took s i p).finalAnswer r p 0).restale) ∧
  (∀ (s : State) (i : Ingress) (p : Packet) (r : OpenReq), AnswersOwn s.qf i p r → p.opcode = Opc.dataClean →
    To (.dataClean i p) s ((took s i p).finalAnswer r p 0).restale.settle) ∧
  (∀ (s : State) (i : Ingress) (p : Packet) (r : OpenReq), AnswersOwn s.qf i p r → p.opcode = Opc.fail →
    p.status ≠ Status.retry.code → p.status ≠ Status.epochStale.code → p.status ≠ Status.linkDown.code →
    (took s i p).home.trayWrites.any (fun w => w.is p.srcEp p.tag) = false → (took s i p).fillSlot p.srcEp p.tag = none →
    To (.fail i p) s ((took s i p).finalAnswer r p p.status).restale.settle) ∧
  (∀ (s : State) (i : Ingress) (p : Packet) (r : OpenReq), s.qf.inService = true → p.destEp = s.qf.ownEp →
    (took s i p).openFor p = some r → p.status ≠ Status.epochStale.code →
    To (.pennantDone i p) s ((took s i p).finalAnswer r p p.status).restale) ∧
  (∀ c ∈ [(fun i p => Instr.placed i p), fun i p => .waitDone i p, fun i p => .atomicResult i p, fun i p => .wbDone i p,
      fun i p => .grantM i p, fun i p => .pennantDone i p],
    ∀ (s : State) (i : Ingress) (p : Packet) (r : OpenReq), AnswersClient s.qf i p r →
      answerStatus p ≠ Status.epochStale.code →
      To (c i p) s ((((took s i p).resolved r (answerStatus p)).transit i p).restale)) ∧
  (∀ c ∈ [(fun i p => Instr.dataClean i p), fun i p => .fail i p],
    ∀ (s : State) (i : Ingress) (p : Packet) (r : OpenReq), AnswersClient s.qf i p r →
      answerStatus p ≠ Status.epochStale.code →
      To (c i p) s ((((took s i p).resolved r (answerStatus p)).transit i p).restale.settle))

/-- The timed events of waits, clears and retries, when due (R87, R93, R111, R141, R543, R546): a wait whose time is over
leaves the home and fails with TIMEOUT; an unregistered wait's word is read again; a registration unanswered for 1 ms is
sent again with the time left; no cleared pair outlives its expiry; a refused request is sent again after its back-off; an
unacknowledged packet is sent again, the retransmission counted.
Each completes, in every state and with all operands that meet the conditions named: WAIT_TIMEOUT, CLEARED_PAIR_EXPIRY,
WAIT_REGISTER_RESEND, WAIT_POLL, RETRY_BACKOFF, ACK_TIMEOUT. -/
def Obligations.RetryEventsTakeEffect : Prop :=
  (∀ (s : State) (ep : Ep) (tag : Tag) (w : WaitSlot) (d : Nat), s.qf.inService = true →
    s.qf.home.waits.find? (fun w => w.waiter = ep && w.tag = tag) = some w → w.deadline = some d → d ≤ s.qf.now →
    To (.waitTimeout ep tag) s (s.qf.failWaits (fun x => x.waiter = ep && x.tag = tag) .timeout)) ∧
  (∀ (s : State) (src : Ep) (id : BitVec 24),
    Ends (.clearedPairExpiry src id) s (fun q =>
      ∀ c, c ∈ q.home.cleared ↔ c ∈ s.qf.home.cleared ∧ ¬ (c.src = src ∧ c.msgId = id ∧ c.expiry ≤ s.qf.now))) ∧
  (∀ (s : State) (n : QpKey) (e : EngineWait) (w : WorkReq) (p p' : Packet) (q1 : Qf), (s.qf.qp n).wait = some e →
    e.polling = false → e.lastSend + 1000000 ≤ s.qf.now → s.qf.inService = true → s.qf.leaseOver n = false →
    s.qf.edge.reqs.any (fun r => r.src = s.qf.ownEp && r.tag = e.tag) = true → (s.qf.qp n).wrOf e.wr = some w →
    s.qf.waitPkt n w.wr { e.record with timeoutUs := e.left s.qf.now } e.tag = p →
    (s.qf.updQp n (fun x => { x with wait := some { e with lastSend := s.qf.now } })).edgeCheck (.unit (qpSector n)) p none =
      (.ok p', q1) →
    To (.waitRegisterResend n) s
      ((inEdge q1 (fun x => { x with
        reqs := updFirst (fun r => r.src = q1.ownEp && r.tag = e.tag)
          (fun r => { r with orig := p, sent := p', sentAt := q1.now, ackAt := q1.ackTime }) x.reqs })).send (.unit (qpSector n)) p')) ∧
  (∀ (s : State) (n : QpKey) (e : EngineWait) (tag : Tag) (p p' : Packet) (q1 q2 : Qf), (s.qf.qp n).wait = some e →
    e.polling = true → e.lastSend + 2000 ≤ s.qf.now → s.qf.inService = true → s.qf.leaseOver n = false → e.over s.qf.now = false →
    s.qf.takeTag = (tag, q1) → q1.enginePkt n 0 Opc.rdNc (fld e.record.addr 0 60) tag = p →
    (q1.updQp n (fun x => { x with wait := some { e with lastSend := q1.now } })).edgeCheck (.unit (qpSector n)) p none =
      (.ok p', q2) →
    To (.waitPoll n) s (q2.submit { ing := .unit (qpSector n), owner := .qpWait n e.wr, orig := p, sent := p' })) ∧
  (∀ (s : State) (tag : Tag) (r : OpenReq) (t : Nat), s.qf.inService = true →
    s.qf.edge.reqs.find? (fun r => r.src = s.qf.ownEp && r.tag = tag) = some r → r.resendAt = some t → t ≤ s.qf.now →
    r.owner.queue = none →
    To (.retryBackoff tag) s ((s.qf.askMates r).foldl (fun q x => q.sendAgain x) s.qf)) ∧
  (∀ (s : State) (tag : Tag) (n : QpKey) (x : SentPkt) (r : OpenReq), s.qf.inService = true →
    s.qf.edge.reqs.find? (fun r => r.src = s.qf.ownEp && r.tag = tag) = some r → r.resendAt = none → r.stale = false →
    s.qf.inStore tag = some (n, x) → r.ackAt ≤ s.qf.now → x.stale = false → s.qf.leaseOver n = false →
    (s.qf.qp n).ctx.state = .ready → x.cancelled = false →
    ((s.qf.qp n).wrOf x.wr).any (fun w => w.aborting.isSome) = false → x.tries < 7 →
    To (.ackTimeout tag) s
      (((({ s.qf with qps := { s.qf.qps with retransmissions := s.qf.qps.retransmissions + 1 } } : Qf).updQp n (fun y => { y with
        store := updFirst (fun z => z.tag = r.tag) (fun z => { z with tries := z.tries + 1, noRoute := false }) y.store })).sendAgain
        r).restale))
/-- A work request that may start takes its place in ring order, the ring's consumer past it, and does what its opcode says
(R79 to R82, R86 to R88, R94 to R96, R131, R133, R145, R478): WRITE and READ begin their transfer, and so does COPY,
QP_ATOMIC queues its atomic, PENNANT_WRITE its Pennant, WAIT registers, FLUSH and SIGNAL wait for the work before
them.
Each completes, in every state and with all operands that meet the conditions named: WRITE, READ, COPY, QP_ATOMIC,
PENNANT_WRITE, WAIT, FLUSH, SIGNAL. -/
def Obligations.WorkRequestsStart : Prop :=
  ∀ c ∈ [((fun n w => Instr.write n w), 1, (fun (n : QpKey) (_ : BitVec 512) (x : WorkReq) (q : Qf) => q.startTransfer n x)),
      (fun n w => .read n w, 2, fun n _ x q => q.startTransfer n x),
      (fun n w => .copy n w, 3, fun n _ x q => q.startTransfer n x),
      (fun n w => .qpAtomic n w, 4, fun n w x q => if offPool (Wr.dest w) 4 then
          q.wrFail n x.index Status.accessViolation.code true (fld (Wr.dest w) 0 60) 0
        else q.takeTag.2.pushPkt n {
          pkt := { (q.takeTag.2.enginePkt n w Opc.atomic (fld (Wr.dest w) 0 60) q.takeTag.1) with
            atomicOp := Wr.atomicOp w, atomicWidth := Wr.atomicWidth w, payload := bytesOf 32 (Wr.payload w) }
          wr := x.index, owner := .qpAtomic n x.index }),
      (fun n w => .pennantWrite n w, 5, fun n _ x q => q.updWr n x.index (fun y => { y with todo := [{}] })),
      (fun n w => .wait n w, 6, fun n _ x q => q.startWait n x),
      (fun n w => .flush n w, 7, fun _ _ _ q => q),
      (fun n w => .signal n w, 8, fun _ _ _ q => q)],
    ∀ (s : State) (n : QpKey) (w : BitVec 512) (y : Qp) (x : WorkReq), s.qf.startable n w c.2.1 = true →
      s.qf.domainOn (5 * (qpSector n).toNat + 4) = true → (s.qf.touchQp n).qp n = y →
      x = { index := y.ctx.sqConsumer, wr := w, seq := (s.qf.touchQp n).qps.useSeq
            final := if c.2.1 = 7 && y.broken != 0 then some y.broken else none } →
      To (c.1 n w) s
        ((c.2.2 n w x ((s.qf.touchQp n).updQp n (fun z => { z with
          fetched := none, work := z.work ++ [x], ctx := { z.ctx with sqConsumer := z.ctx.sqConsumer + 1 } }))).settleQp n)

/-- Doorbells and the manager's queue pair commands (R125, R128, R130, R138, R142, R151, R187): a doorbell of a live queue
pair sets its producer and consumer; one that may not ring is counted; a context that passes its checks is made with its
ownership record, in RESET or as a pipeline's; a queue pair in ERROR begins its reset; one in RESET that no other QF960 holds is freed; an abort of
a work request not yet started waits for it; an aborted work request with nothing outstanding is reported; a home frees
its target record; a ninth home waits for a slot to close.
Each completes, in every state and with all operands that meet the conditions named: QP_DOORBELL, DOORBELL, QP_CREATE,
PIPE_CREATE, QP_RESET, QP_DESTROY, QP_ABORT, ABORT_RESOLVE, QP_CLOSE, PEER_SLOT_REOPEN. -/
def Obligations.QueuePairCommandsTakeEffect : Prop :=
  (∀ (s : State) (port : Bool) (w : BitVec 64) (k : Qpn) (n : QpKey) (a b r : BitVec 16), doorbellWord w = (k, a, b, r) →
    s.qf.ownPair k = n → s.qf.hostOn port = true → s.qf.dbg.squalled = false → s.qf.host.active = some port →
    s.qf.inService = true → s.qf.protectedTenant (s.qf.qp n).ctx.tenant = false → s.qf.hasQp n = true →
    (s.qf.qp n).ctx.state = .ready ∨ (s.qf.qp n).ctx.state = .error →
    To (.qpDoorbell port w) s
      ((s.qf.updQp n (fun x => { x with ctx := { x.ctx with sqProducer := a }, cqConsumer := b })).settleQp n)) ∧
  (∀ (s : State) (h : HalfPort) (p : Packet) (k : Qpn) (n : QpKey) (a b r : BitVec 16),
    doorbellWord (bitsOf 64 (slice p.payload 0 8)) = (k, a, b, r) → s.qf.inService = true →
    s.qf.pairOf k (fun x => x.ctx.boundEp = (s.qf.link h).peerEp && x.ctx.state != .reset) = n →
    ((took s (.half h) p).qp n).ctx.boundEp = (s.qf.link h).peerEp → (took s (.half h) p).hasQp n = true →
    ((took s (.half h) p).qp n).ctx.state = .ready ∨ ((took s (.half h) p).qp n).ctx.state = .error →
    To (.doorbell (.half h) p) s
      (((took s (.half h) p).updQp n (fun x => { x with ctx := { x.ctx with sqProducer := a }, cqConsumer := b })).settleQp n)) ∧
  (∀ c ∈ [((fun m n x => Instr.qpCreate m n x), false, (0x30 : BitVec 8)), (fun m n x => .pipeCreate m n x, true, 0x34)],
    ∀ (s : State) (m : MgrRef) (k : Qpn) (n : QpKey) (ctx : BitVec 512) (e : BitVec 32), MgrReady s.qf m → s.qf.ownPair k = n →
      (s.qf.qp n).resetting = none → s.qf.qps.waiting.any (fun v => v.pair = n) = false →
      (started s m).createCheck n ctx = none → ((s.qf.qps.own.find? n.toNat).map OwnRec.ownEpoch).getD 1 = e →
      To (c.1 m k ctx) s
        ((({ started s m with qps := { s.qf.qps with
            qps := s.qf.qps.qps.set n.toNat { ctx := { QpCtx.ofBits ctx with originEp := s.qf.ownEp, ownEpoch := e }, pipe := c.2.1 }
            own := s.qf.qps.own.set n.toNat
              { ownerEp := s.qf.ownEp, ownEpoch := e, qpn := qpnOf n, leaseEnd := BitVec.ofNat 64 (s.qf.now + 100000) } } } :
          Qf).complete m c.2.2 .ok).resetTurn n)) ∧
  (∀ (s : State) (m : MgrRef) (k : Qpn) (n : QpKey), MgrReady s.qf m → s.qf.pairIn k .error = n → (s.qf.qp n).resetting = none →
    s.qf.qps.waiting.any (fun v => v.pair = n) = false → s.qf.hasQp n = true → (s.qf.qp n).ctx.state = .error →
    To (.qpReset m k) s (((started s m).updQp n (fun x => { x with resetting := some m })).resetTurn n)) ∧
  (∀ (s : State) (m : MgrRef) (k : Qpn) (n : QpKey), MgrReady s.qf m → s.qf.pairIn k .reset = n → (s.qf.qp n).resetting = none →
    s.qf.qps.waiting.any (fun v => v.pair = n) = false → s.qf.hasQp n = true → (s.qf.qp n).ctx.state = .reset →
    s.qf.heldElsewhere n = false →
    To (.qpDestroy m k) s
      ((({ started s m with qps := { s.qf.qps with
          qps := s.qf.qps.qps.del n.toNat, own := s.qf.qps.own.del n.toNat } } : Qf).complete m 0x32 .ok).resetTurn n)) ∧
  (∀ (s : State) (src : Ep) (k : Qpn) (n : QpKey) (i : BitVec 16) (x : Qp),
    s.qf.pairOf k (fun x => (x.ctx.state = .ready || x.ctx.state = .error) && (false || x.ctx.boundEp = src)) = n →
    s.qf.qp n = x → s.qf.inService = true → s.qf.hasQp n = true →
    x.ctx.state = .ready → x.ctx.boundEp = src → x.work.find? (fun w => w.index = i && !w.reported) = none →
    (i - x.ctx.sqConsumer).toNat < (x.ctx.sqProducer - x.ctx.sqConsumer).toNat → x.preAbort.any (fun a => a.1 = i) = false →
    i ≠ x.ctx.sqConsumer →
    To (.qpAbort none src k i) s (s.qf.updQp n (fun x => { x with preAbort := x.preAbort ++ [(i, none)] }))) ∧
  (∀ (s : State) (n : QpKey) (w : WorkReq) (m : Option MgrRef), s.qf.inService = true →
    (s.qf.qp n).work.filter (fun w => w.aborting.isSome && w.unresolved = 0 && !w.done) = [w] → w.aborting = some m →
    w.delivered = false →
    To (.abortResolve n) s
      ((((if w.writes then s.qf.updQp n (fun x => x.breakWrites w.index Status.aborted.code) else s.qf).updWr n w.index (fun w =>
        { w with aborting := none, done := true, status := Status.aborted.code })).abortAnswer n w.index m .ok).settleQp n)) ∧
  (∀ (s : State) (i : Ingress) (p : Packet) (h : QpHdr), ForUs s.qf i p → p.qp = some h →
    (∀ t, (took s i p).target h = some t → t.ownEpoch ≤ h.ownEpoch) →
    To (.qpClose i p) s
      (({ took s i p with qps := { (took s i p).qps with
        targets := dropFirst (fun t => t.is h) (took s i p).qps.targets } } : Qf).answer p Opc.placed)) ∧
  (∀ (s : State) (n : QpKey) (peer : Ep) (x : Qp) (y : SentPkt) (p : Packet) (q1 : Qf), s.qf.qp n = x →
    x.outbox.find? (fun y => !y.bare) = some y → s.qf.edgeCheck (.unit (qpSector n)) y.pkt y.data = (.ok p, q1) →
    x.peers.any (fun z => z.peer = p.destEp) = false → x.peers.any (fun z => z.peer = peer && z.unacked = 0) = true →
    x.peers.all (fun z => !z.closing) = true → s.qf.inService = true → x.ctx.state = .ready → 8 ≤ x.peers.length →
    s.qf.leaseOver n = false →
    To (.peerSlotReopen n peer) s ((s.qf.checkpoint n).sendClose n peer))
/-- Ownership of queue pairs (R148 to R150, R421, R423): a renewal by the owner at the record's epoch extends the lease and
keeps its checkpoint; a release makes the grantee the owner at the next epoch, an owner's own release asks its keeper; a
transfer makes the context and claims it; a claim of a released record takes effect; an answer without a failure sets the
lease; a checkpoint every 25 us goes to the origin with a renewal, or into the origin's own record; at the end of a lease the keeper takes the queue pair back, and a released owner's context
goes to RESET; a mirror is kept and acknowledged, and its acknowledgement sends the answer that waited for it.
Each completes, in every state and with all operands that meet the conditions named: RENEW, RELEASE, TRANSFER, CLAIM,
OWN_ANSWER, LEASE_RENEWAL, LEASE_END, OWNER_LEASE_STOP, OWN_MIRROR, OWN_MIRROR_ACK. -/
def Obligations.OwnershipMessagesTakeEffect : Prop :=
  (∀ (s : State) (i : Ingress) (p : Packet) (m : OwnMsg) (r : OwnRec), s.qf.inService = true → p.destEp = s.qf.ownEp →
    OwnMsg.ofBytes p.payload = m → (took s i p).ownRec? m.pair = some r → r.released = false → r.ownerEp = p.srcEp →
    r.ownEpoch = m.epoch → (took s i p).keepsOwn m = true →
    ∃ q1 : Qf, q1 = (took s i p).updOwn m.pair (fun r => { r with
        leaseEnd := (took s i p).newLease, ckConsumer := m.consumer, ckProducer := m.producer, ckPeers := m.peers }) ∧
      To (.renew i p) s
        (q1.ownChanged m.pair (some (q1.ownAnswer p m.pair r.ownEpoch q1.newLease .ok)))) ∧
  (∀ (s : State) (i : Ingress) (p : Packet) (m : OwnMsg) (r : OwnRec), s.qf.inService = true → p.destEp = s.qf.ownEp →
    p.srcEp ≠ s.qf.ownEp → OwnMsg.ofBytes p.payload = m → (took s i p).ownRec? m.pair = some r → r.released = false →
    r.ownerEp = p.srcEp → r.ownEpoch = m.epoch → (took s i p).keepsOwn m = true →
    ∃ q1 : Qf, q1 = (took s i p).updOwn m.pair (fun x => { x with
        released := true, ownerEp := m.grantee, ownEpoch := r.ownEpoch + 1, leaseEnd := (took s i p).newLease
        ckConsumer := m.consumer, ckProducer := m.producer, ckPeers := m.peers }) ∧
      To (.release i p) s
        (q1.ownChanged m.pair (some (q1.ownAnswer p m.pair (r.ownEpoch + 1) q1.newLease .ok)))) ∧
  (∀ (s : State) (i : Ingress) (p : Packet) (m : OwnMsg), s.qf.inService = true → p.srcEp = s.qf.ownEp →
    OwnMsg.ofBytes p.payload = m → (s.qf.qp m.pair).ctx.state = .ready →
    To (.release i p) s ((took s i p).startRelease m)) ∧
  (∀ (s : State) (i : Ingress) (p : Packet) (m : OwnMsg), s.qf.inService = true → p.destEp = s.qf.ownEp →
    OwnMsg.ofBytes p.payload = m → (took s i p).hasQp m.pair = true → ((took s i p).qp m.pair).ctx.state = .reset →
    To (.transfer i p) s
      (((took s i p).updQp m.pair (fun y => { y with
          ctx := { ((took s i p).qp m.pair).ctx with
            state := .reset, originEp := m.origin, ownEpoch := m.epoch, sqConsumer := m.consumer, cqProducer := m.producer }
          peers := m.peers })).sendOwn m.pair 4 m.origin 0)) ∧
  (∀ (s : State) (i : Ingress) (p : Packet) (m : OwnMsg) (r : OwnRec), s.qf.inService = true → p.destEp = s.qf.ownEp →
    OwnMsg.ofBytes p.payload = m → (took s i p).ownRec? m.pair = some r → r.released = true → r.ownerEp = p.srcEp →
    r.ownEpoch = m.epoch → (took s i p).now < r.leaseEnd.toNat → (took s i p).keepsOwn m = true →
    ((took s i p).qp m.pair).ctx.state ≠ .released →
    ∃ q1 : Qf, q1 = (took s i p).updOwn m.pair (fun r => { r with released := false, leaseEnd := (took s i p).newLease }) ∧
      To (.claim i p) s
        (q1.ownChanged m.pair (some (q1.ownAnswer p m.pair r.ownEpoch q1.newLease .ok)))) ∧
  (∀ (s : State) (i : Ingress) (p : Packet) (n : QpKey) (h : QpHdr), s.qf.inService = true → p.destEp = s.qf.ownEp →
    (took s i p).edge.reqs = [] → p.qp = some h → h.originEp ++ h.qpn = n → (took s i p).hasQp n = true → p.status = 0 →
    ((took s i p).qp n).ctx.state = .ready →
    To (.ownAnswer i p) s
      (((inEdge (took s i p) (fun e => { e with reqs := [] })).updQp n (fun x => { x with
        leaseEnd := leNat (slice p.payload 4 8), authority := if p.srcEp = originOf n then none else some p.srcEp })).settleQp n)) ∧
  (∀ (s : State) (n : QpKey) (x : Qp), s.qf.qp n = x → s.qf.inService = true → s.qf.hasQp n = true → x.ctx.state = .ready →
    (∀ t, x.renewSent = some t → t + 25000 ≤ s.qf.now) →
    (originOf n ≠ s.qf.ownEp → To (.leaseRenewal n) s
      ((s.qf.updQp n (fun x => { x with renewSent := some s.qf.now })).sendOwn n 1 (x.authority.getD (originOf n)) 0)) ∧
    (originOf n = s.qf.ownEp → s.qf.qps.backupEp = 0xFFFF → To (.leaseRenewal n) s
      { s.qf with qps := { s.qf.qps with own := s.qf.qps.own.upd n.toNat {} (fun r => { r with
          leaseEnd := BitVec.ofNat 64 (s.qf.now + 100000)
          ckConsumer := x.ckConsumer, ckProducer := x.ctx.cqProducer, ckPeers := x.ckPeers }) } })) ∧
  (∀ (s : State) (n : QpKey) (r : OwnRec), s.qf.ownRec? n = some r → s.qf.inService = true → r.leaseEnd.toNat ≤ s.qf.now →
    r.released = true ∨ r.ownerEp ≠ s.qf.ownEp → To (.leaseEnd n) s (s.qf.reclaimQp n)) ∧
  (∀ (s : State) (n : QpKey) (x : Qp), s.qf.qp n = x → s.qf.hasQp n = true → originOf n ≠ s.qf.ownEp →
    x.leaseEnd ≤ s.qf.now → s.qf.running = true → x.ctx.state = .released →
    To (.ownerLeaseStop n) s (s.qf.clearQp n)) ∧
  (∀ (s : State) (i : Ingress) (p : Packet) (seq : BitVec 32) (r : OwnRec), s.qf.inService = true → p.destEp = s.qf.ownEp →
    mirrorOf p.payload = (seq, r) →
    ∃ q1 : Qf, q1 = { took s i p with qps := { (took s i p).qps with
        mirrors := (took s i p).qps.mirrors.filter (fun m => !(m.origin = p.srcEp && m.record.qpn = r.qpn)) ++
          [{ origin := p.srcEp, mirrorSeq := seq, record := r }] } } ∧
      To (.ownMirror i p) s
        (q1.sendPlain .mgmt (q1.mgt Opc.ownMirrorAck p.srcEp (bytesOf 2 r.qpn ++ bytesOf 4 seq)))) ∧
  (∀ (s : State) (i : Ingress) (p : Packet) (n : QpKey) (seq : BitVec 32) (a : Packet), s.qf.inService = true →
    p.destEp = s.qf.ownEp → (took s i p).ownPair (bitsOf 16 (slice p.payload 0 2)) = n → bitsOf 32 (slice p.payload 2 4) = seq →
    ((took s i p).ownRec? n).bind OwnRec.pendingAnswer = some (seq, a) →
    To (.ownMirrorAck i p) s
      (((took s i p).updOwn n (fun r => { r with pendingAnswer := none })).sendPlain (.unit (qpSector n)) a))

/-- The key commands and their deadlines (R146, R386 to R388, R397, R547): a first key is loaded; a rotation makes CURRENT
PREVIOUS, derives the next generation and sweeps; a retire notes the earlier deadline; a removal notes its deadline; at Td a
generation retires and a removal takes effect; with nothing in flight and no line left to
recall a slot is zeroised; at Td + 2 ms it is zeroised and
its transactions fail; a whole sweep lets the previous generation be retired; a removed tenant's extents are withdrawn.
Each completes, in every state and with all operands that meet the conditions named: KEY_LOAD, KEY_ROTATE, KEY_RETIRE,
TENANT_REMOVE, KEY_RETIRE_DEADLINE, KEY_SLOT_ZEROISE, KEY_RETIRE_TIMEOUT, SWEEP_DONE, REMOVAL_DEADLINE, REMOVAL_WITHDRAW. -/
def Obligations.KeyCommandsTakeEffect : Prop :=
  (∀ (s : State) (m : MgrRef) (tenant : BitVec 16) (g : BitVec 8) (t : Tenant), fld tenant 0 12 = t → MgrReady s.qf m →
    inRange tenant 4096 = true → g ≠ 0 → s.qf.keysOf t = {} →
    To (.keyLoad m tenant g) s
      (((started s m).updKeys t (fun k => { k with
        current := some { gen := g, key := memoryKey s.qf.sec.drk s.qf.part.id t g (s.qf.seedOf t) } })).complete m 0x60 .ok)) ∧
  (∀ (s : State) (m : MgrRef) (tenant : BitVec 16) (t : Tenant) (k : TenantKeys) (c : KeySlot) (pr : Nat) (q1 : Qf),
    fld tenant 0 12 = t → MgrReady s.qf m → inRange tenant 4096 = true → s.qf.keysOf t = k → k.current = some c →
    k.previous = none → k.retiring = [] →
    (started s m).newProgress 4 1 (((started s m).slotsOf t).length * 4194304) = some (pr, q1) →
    To (.keyRotate m tenant) s
      (((q1.updKeys t (fun k => { k with
        previous := some c, current := some (q1.keySlot t (nextGen c.gen)), swept := false, sweepPos := 0
        sweepTotal := ((started s m).slotsOf t).length * 4194304, sweepSlots := (started s m).slotsOf t
        sweepRunning := true, sweepSince := q1.now, sweepAt := none, progress := some pr })).settle).complete m 0x61 .ok
        (some pr))) ∧
  (∀ (s : State) (m : MgrRef) (tenant : BitVec 16) (g : BitVec 8) (td : BitVec 64) (t : Tenant) (x : KeySlot),
    fld tenant 0 12 = t → MgrReady s.qf m → inRange tenant 4096 = true → g ≠ 0 →
    (s.qf.keysOf t).live.find? (fun y => y.gen = g) = some x → (s.qf.keysOf t).previous = none → x.deadline = none →
    s.qf.now + 10000 ≤ td.toNat →
    To (.keyRetire m tenant g td) s
      (((started s m).updKeys t (fun k => { k with
          current := k.current.map (fun y => if y.gen = g then { y with deadline := some td.toNat } else y)
          previous := k.previous.map (fun y => if y.gen = g then { y with deadline := some td.toNat } else y) })).complete
        m 0x62 .ok)) ∧
  (∀ (s : State) (m : MgrRef) (tenant : BitVec 16) (td : BitVec 64) (t : Tenant), fld tenant 0 12 = t → MgrReady s.qf m →
    inRange tenant 4096 = true → (s.qf.keysOf t).removal = none → s.qf.now + 10000 ≤ td.toNat →
    To (.tenantRemove m tenant td) s
      (((started s m).updKeys t (fun k => { k with removal := some td.toNat })).complete m 0x63 .ok)) ∧
  (∀ (s : State) (t : Tenant) (g : KeyGen), s.qf.running = true →
    (s.qf.keysOf t).live.any (fun x => x.gen = g && x.deadline.any (fun d => decide (d ≤ s.qf.now))) = true →
    To (.keyRetireDeadline t g) s (s.qf.retireNow t g).settle) ∧
  (∀ (s : State) (t : Tenant) (g : KeyGen), s.qf.running = true → s.qf.inFlight t g = 0 →
    (s.qf.keysOf t).retiring.any (fun x => x.gen = g && x.recalls) = false ∨ (∀ x ∈ s.qf.slotsOf t, s.qf.recalled x = true) →
    To (.keySlotZeroise t g) s
      (s.qf.updKeys t (fun k => { k with retiring := k.retiring.filter (fun x => x.gen != g) }))) ∧
  (∀ (s : State) (t : Tenant) (g : KeyGen), s.qf.running = true →
    (s.qf.keysOf t).retiring.any (fun x => x.gen = g && decide (x.deadline.getD x.retiredAt + 2000000 ≤ s.qf.now)) = true →
    To (.keyRetireTimeout t g) s
      ((s.qf.genLines t g).foldl (fun q x => q.failTxn x.1 x.2 .keyRetired)
        (s.qf.updKeys t (fun k => { k with retiring := k.retiring.filter (fun x => x.gen != g) }))).settle) ∧
  (∀ (s : State) (t : Tenant) (k : TenantKeys), s.qf.keysOf t = k → s.qf.running = true → k.sweepRunning = true →
    k.sweepTotal ≤ k.sweepPos → k.sweepAt = none →
    To (.sweepDone t) s
      ((s.qf.endProgress k.progress 1 0).updKeys t (fun k => { k with
        swept := true, sweepRunning := false, progress := none }))) ∧
  (∀ (s : State) (t : Tenant) (d : Nat), s.qf.running = true → (s.qf.keysOf t).removalDone = false →
    (s.qf.keysOf t).removal = some d → d ≤ s.qf.now → To (.removalDeadline t) s (s.qf.removeNow t)) ∧
  (∀ (s : State) (t : Tenant) (d : Nat), s.qf.running = true → (s.qf.keysOf t).removalDone = true →
    (s.qf.keysOf t).removal = some d → d + 2000000 ≤ s.qf.now →
    ∃ q1 : Qf, q1 = s.qf.updKeys t (fun k => { k with removal := none, removalDone := false }) ∧
      (q1.slotsOf t = [] → To (.removalWithdraw t) s q1.settle) ∧
      (∀ (x : Slot) (pr : Nat) (q2 : Qf), q1.slotsOf t = [x] → (q1.extent x).state = .assigned →
        q1.newProgress 1 1 4194304 = some (pr, q2) →
        To (.removalWithdraw t) s (q2.withdrawBegin x (d + 2000000) none (some pr) true).settle))

/-- The management commands of collectives and the packets of their current instance (R156 to R184): a record that may be
armed arms its group, a disarm fails the instance and ends it, an abort is decided at the root; a launch of a member joins
it; exponents of a child and blocks of a member or child are folded; the parent's shared exponents, commit and result are
taken; an abort request is ordered, an abort acknowledged, an acknowledgement counted; an instance silent for its timeout
fails.
Each completes, in every state and with all operands that meet the conditions named: GROUP_ARM, GROUP_DISARM,
COL_ABORT_COMMAND, COLLECTIVE_TIMEOUT. -/
def Obligations.CollectiveCommandsTakeEffect : Prop :=
  (∀ (s : State) (m : MgrRef) (r : BitVec 256) (g n : Nat) (x : Group) (fs : List Nat) (q1 : Qf), MgrReady s.qf m →
    recordOk r = true → Group.ofRecord r = x → x.modes.getLsbD 0 = false ∨ s.qf.oldTreeLink x = false →
    (fld r 244 12).toNat = g → GroupStill s.qf g → s.qf.cum.groups.has g = false → s.qf.colReserved + x.window ≤ 4096 →
    (fld r 8 12).toNat = n → (if n = 0 then [] else s.qf.freeFrames n) = fs → n ≤ fs.length →
    n = 0 ∨ (s.qf.quota x.tenant).u0 + n ≤ (s.qf.quota x.tenant).q0.toNat →
    inCum (started s m) (fun u => { u with groups := u.groups.set g { x with frames := fs } }) = q1 →
    To (.groupArm m r) s
      ((if n = 0 then q1 else (q1.updQuota x.tenant (fun u => { u with u0 := u.u0 + n })).meter 0 x.tenant 3 n).complete m
        0x40 .ok)) ∧
  (∀ (s : State) (m : MgrRef) (group : BitVec 16), MgrReady s.qf m → inRange group 4096 = true →
    s.qf.cum.groups.has group.toNat = true → GroupStill s.qf group.toNat →
    To (.groupDisarm m group) s
      ((((started s m).updGroup group.toNat (fun x => { x with disarm := some m })).colFail group.toNat 6
        Status.aborted.code).colTurn group.toNat)) ∧
  (∀ (s : State) (m : MgrRef) (group : BitVec 16) (inst : BitVec 32), MgrReady s.qf m → inRange group 4096 = true →
    s.qf.cum.groups.has group.toNat = true → GroupStill s.qf group.toNat → inst = (s.qf.group group.toNat).nextSeq →
    To (.colAbortCommand m group inst) s
      ((((started s m).colOpen group.toNat).colAbortAsk group.toNat 1 Status.aborted.code
        (some { cmd := some m, ep := (started s m).ownEp })).colTurn group.toNat)) ∧
  (∀ (s : State) (group : GroupId), s.qf.inService = true → (s.qf.group group.toNat).istate = .prepass ∨ (s.qf.group group.toNat).istate = .summing →
    s.qf.colLimit (s.qf.group group.toNat).inst ≠ 0 →
    (s.qf.group group.toNat).inst.lastPacket + s.qf.colLimit (s.qf.group group.toNat).inst ≤ s.qf.now →
    To (.collectiveTimeout group) s
      (((s.qf.fault 5 { sector := colSector group.toNat 0, unit := 4, status := Status.timeout.code,
                        tenant := (s.qf.group group.toNat).tenant }).colFail group.toNat 5 Status.timeout.code).colRun
        group.toNat))

/-- A packet of a group's current instance, not behind another of its half-port (R158, R159, R161 to R184).
Each completes, in every state and with all operands that meet the conditions named: COL_LAUNCH, COL_EXP, COL_EBCAST,
COL_DATA, COL_PARTIAL, COL_COMMIT, COL_RESULT, COL_ABORT_REQ, COL_ABORT, COL_ABORT_ANSWER. -/
def Obligations.CollectivePacketsTakeEffect : Prop :=
  (∀ (s : State) (h : HalfPort) (p : Packet) (c : ColHdr) (g : Nat) (x : Group) (q q1 : Qf), Current s h p c g q →
    p.opcode = Opc.colLaunch → q.group g = x → x.memberMask.getLsbD h.toNat = true →
    ((q.link h).bind.map Binding.tenant).getD p.tenant = x.tenant → x.inst.members.any (fun m => m.half = h) = false →
    LDesc.mode (bitsOf 512 p.payload) = false ∨ q.cum.canonical = true → launchOk x.modes (bitsOf 512 p.payload) = true →
    x.istate ≠ .aborting →
    q1 = q.updInst g (fun i => { i with
      members := i.members ++ [{ half := h, ep := p.srcEp, tag := p.tag, desc := bitsOf 512 p.payload }] }) →
    To (.colLaunch h p) s ((q1.colSign g (LDesc.sig (bitsOf 512 p.payload))).2.colRun g)) ∧
  (∀ (s : State) (h : HalfPort) (p : Packet) (c : ColHdr) (g : Nat) (x : Group) (q q1 : Qf), Current s h p c g q →
    p.opcode = Opc.colExp → q.group g = x → x.children.getLsbD h.toNat = true → x.istate = .prepass →
    q.colSign g (hdrSig c) = (true, q1) → (q1.group g).istate = .prepass →
    To (.colExp h p) s ((q1.colPutExps g h c.firstBlock.toNat p.payload).colRun g)) ∧
  (∀ (s : State) (h : HalfPort) (p : Packet) (c : ColHdr) (g : Nat) (x : Group) (q : Qf), Current s h p c g q →
    p.opcode = Opc.colEbcast → q.group g = x → x.root = false → h = x.parent → x.istate = .prepass →
    ∃ q1 : Qf, q1 = q.updInst g (fun i => { i with
        eFinal := (p.payload.zipIdx).foldl (fun t v => t.set (c.firstBlock.toNat + v.2) v.1) i.eFinal }) ∧
      To (.colEbcast h p) s
        (((if x.qfChildren = [] then q1 else q1.sendCol (unitOf (colSector g 0)) x.qfChildren
          (q1.colPkt g Opc.colEbcast (q1.colHdr g true c.firstBlock.toNat c.run.toNat) p.payload)).colExps g).colRun g)) ∧
  (∀ (s : State) (h : HalfPort) (p : Packet) (c : ColHdr) (g : Nat) (x : Group) (q q1 : Qf) (m : ColMember) (sig : ColSig),
    Current s h p c g q → p.opcode = Opc.colData → q.group g = x → x.children.getLsbD h.toNat = true →
    x.memberMask.getLsbD h.toNat = true → x.istate = .summing → x.inst.members.find? (fun m => m.half = h) = some m →
    x.inst.sig = some sig → sig.inFmt ≠ 4 ∨ m.table.isSome = true → hdrSig c = sig →
    q.colSome g h p c true m sig = (true, q1) → To (.colData h p) s (q1.colRun g)) ∧
  (∀ (s : State) (h : HalfPort) (p : Packet) (c : ColHdr) (g : Nat) (x : Group) (q q1 : Qf) (sig : ColSig),
    Current s h p c g q → p.opcode = Opc.colPartial → q.group g = x → x.children.getLsbD h.toNat = true →
    x.memberMask.getLsbD h.toNat = false → x.istate = .summing → x.inst.sig = some sig → hdrSig c = sig →
    x.inst.members.find? (fun m => m.half = h) = none → q.colSome g h p c false {} sig = (true, q1) →
    To (.colPartial h p) s (q1.colRun g)) ∧
  (∀ (s : State) (h : HalfPort) (p : Packet) (c : ColHdr) (g : Nat) (x : Group) (q : Qf), Current s h p c g q →
    p.opcode = Opc.colCommit → q.group g = x → x.root = false → h = x.parent → x.istate = .summing →
    ∃ q1 : Qf, q1 = q.updGroup g (fun x => { x with
        istate := .committed
        inst := { x.inst with blocks := [], commitTime := c.commitTime.toNat
                              contributions := leNat (slice p.payload 0 4), overflow := leNat (slice p.payload 4 4) } }) ∧
      To (.colCommit h p) s
        ((if x.qfChildren = [] then q1 else q1.sendCol (unitOf (colSector g 0)) x.qfChildren
          (q1.colPkt g Opc.colCommit { (q1.colHdr g true 0 0) with commitTime := c.commitTime } p.payload)).colRun g)) ∧
  (∀ (s : State) (h : HalfPort) (p : Packet) (c : ColHdr) (g : Nat) (x : Group) (q q1 : Qf), Current s h p c g q →
    p.opcode = Opc.colResult → q.group g = x → x.root = false → h = x.parent → x.istate = .committed →
    q1 = ((List.range c.run.toNat).foldl (fun (a : Nat × Qf) k =>
      (a.1 + (x.inst.sig.getD {}).elems (c.firstBlock.toNat + k) * (x.inst.sig.getD {}).outBytes,
        if (x.inst.sig.getD {}).blocks ≤ c.firstBlock.toNat + k || c.firstBlock.toNat + k < (a.2.group g).inst.resNext ||
            (a.2.group g).inst.resAhead.contains (c.firstBlock.toNat + k) then a.2
        else a.2.colDeliver g (c.firstBlock.toNat + k)
          (slice p.payload a.1 ((x.inst.sig.getD {}).elems (c.firstBlock.toNat + k) * (x.inst.sig.getD {}).outBytes)))) (0, q)).2 →
    To (.colResult h p) s ((x.inst.members.foldl (fun q m => q.memberFinish g m.half) q1).colRun g)) ∧
  (∀ (s : State) (h : HalfPort) (p : Packet) (c : ColHdr) (g : Nat) (x : Group) (q : Qf), Current s h p c g q →
    p.opcode = Opc.colAbortReq → q.group g = x → x.children.getLsbD h.toNat = true → x.memberMask.getLsbD h.toNat = false →
    x.root = false →
    To (.colAbortReq h p) s
      ((q.colAbortAsk g c.reason p.status
        (if c.reason = 1 then some { half := some h, ep := p.srcEp, tag := p.tag } else none)).colRun g)) ∧
  (∀ (s : State) (h : HalfPort) (p : Packet) (c : ColHdr) (g : Nat) (x : Group) (q : Qf), Current s h p c g q →
    p.opcode = Opc.colAbort → q.group g = x → x.memberMask.getLsbD h.toNat = false → x.root = false → h = x.parent →
    x.istate = .summing →
    To (.colAbort h p) s
      (((q.sendCol (unitOf (colSector g 0)) [h]
        { (q.colPkt g Opc.colAbortAnswer { (q.colHdr g true 0 0) with reason := c.reason } []) with
          destEp := (q.link h).peerEp }).colAbortNow g c.reason p.status).colRun g)) ∧
  (∀ (s : State) (h : HalfPort) (p : Packet) (c : ColHdr) (g : Nat) (x : Group) (q : Qf), Current s h p c g q →
    p.opcode = Opc.colAbortAnswer → q.group g = x → (x.root = true ∨ h ≠ x.parent) → x.children.getLsbD h.toNat = true →
    To (.colAbortAnswer h p) s
      ((q.updInst g (fun i => { i with acks := if i.acks.contains h then i.acks else i.acks ++ [h] })).colRun g))


/-- The dictionary entries by which the fabric is managed act when they are written (R93, R289, R350, R356, R366, R373,
R411, R417, R418, R420, R421): a source's messages are cleared, a port takes a mode, a queue is purged, a sampler's count restarts,
a pending gate list is armed, an endpoint or half-port is fenced, a stuck line is cleared, a backup is named, a bucket
is reconfigured.
Each completes, in every state and with all operands that meet the conditions named: REASSEMBLY_CLEAR, PORT_MODE, QUEUE_PURGE,
SAMPLER_N, GATE_ARM, FENCE_ENDPOINT, PORT_FENCE, LINE_CLEAR, OWNERSHIP_BACKUP_EP, RECONFIGURATION. -/
def Obligations.FabricEntriesTakeEffect : Prop :=
  Writes .reassemblyClear 0x8200 0x0F (fun _ _ v => v.length = 2 ∧ leNat v < 16384)
    (fun q _ v => q.clearSource (BitVec.ofNat 14 (leNat v))) ∧
  Writes .portMode 0x3000 0x01 (fun _ i v => v.length = 1 ∧ leNat v ≤ 3 ∧ (leNat v = 2 → i % 8 < 2))
    (fun q i v => q.setPortMode (BitVec.ofNat 6 i) (leNat v)) ∧
  Writes .queuePurge 0x3110 0x04 (fun _ _ v => v.length = 1 ∧ leNat v ≤ 5)
    (fun q i v => q.purgeQueue (BitVec.ofNat 6 i) (BitVec.ofNat 3 (leNat v))) ∧
  Writes .samplerN 0x8100 0x01 (fun _ _ v => v.length = 2)
    (fun q i v => { q with sw := { q.sw with
      samplers := q.sw.samplers.upd i {} (fun x => { x with n := BitVec.ofNat 16 (leNat v), count := 0 }) } }) ∧
  (∀ (h : HalfPort) (l : List (BitVec 64)),
    Writes .gateArm 0x3210 0x07
      (fun q i v => v.length = 1 ∧ leNat v = 1 ∧ h = BitVec.ofNat 6 i ∧ (q.egress h).pendEntries.toNat ≤ 256 ∧
        (q.egress h).pendEntries.toNat ≤ (q.egress h).pendList.length ∧
        l = (q.egress h).pendList.take (q.egress h).pendEntries.toNat ∧ (∀ x ∈ l, (fld x 0 32 : BitVec 32) ≠ 0) ∧
        q.now + 1000 ≤ (q.egress h).takeover.toNat ∧ ((q.egress h).pendEntries ≠ 0 → (q.egress h).pendCycle ≠ 0))
      (fun q _ _ => q.updEgress h (fun e => { e with
        pendState := 1, armed := some (l, e.pendCycle.toNat, e.takeover.toNat) }))) ∧
  Writes .fenceEndpoint 0x8200 0x08 (fun _ _ v => v.length = 2 ∧ leNat v < 16384)
    (fun q _ v => q.commitFence (BitVec.ofNat 14 (leNat v)) true) ∧
  Writes .portFence 0x3000 0x10 (fun _ _ v => v.length = 1 ∧ leNat v ≤ 1)
    (fun q i v => q.setFence (BitVec.ofNat 6 i) (leNat v = 1)) ∧
  Writes .lineClear 0x8200 0x0B (fun _ _ v => v.length = 10 ∧ leNat (slice v 8 2) < 16384)
    (fun q _ v => q.lineClear (bitsOf 60 (slice v 0 8)) (bitsOf 14 (slice v 8 2))) ∧
  Writes .ownershipBackupEp 0x8200 0x0A (fun _ _ v => v.length = 2 ∧ (leNat v < 16384 ∨ leNat v = 0xFFFF))
    (fun q _ v => q.setBackup (BitVec.ofNat 16 (leNat v))) ∧
  (∀ p ∈ [(0, (3 : BitVec 8), 4), (1, 4, 4), (2, 5, 1)],
    Writes (fun a v => .reconfiguration a 0x3200 p.2.1 v) 0x3200 p.2.1 (fun _ _ v => v.length = p.2.2 ∧ bucketOk p.1 (leNat v) = true)
      (fun q i v => q.updEgress (BitVec.ofNat 6 (i / 8)) (fun e =>
        { e with shapers := e.shapers.upd (i % 8) {} (fun b => b.write q.now p.1 (leNat v)) }))) ∧
  (∀ p ∈ [(0, (1 : BitVec 8), 4), (1, 2, 4), (2, 3, 1)],
    Writes (fun a v => .reconfiguration a 0x3201 p.2.1 v) 0x3201 p.2.1 (fun _ _ v => v.length = p.2.2 ∧ bucketOk p.1 (leNat v) = true)
      (fun q i v => q.updEgress (BitVec.ofNat 6 i) (fun e => { e with port := e.port.write q.now p.1 (leNat v) }))) ∧
  (∀ p ∈ [(0, (1 : BitVec 8), 4), (1, 2, 4), (2, 3, 1)],
    Writes (fun a v => .reconfiguration a 0x3220 p.2.1 v) 0x3220 p.2.1 (fun _ _ v => v.length = p.2.2 ∧ bucketOk p.1 (leNat v) = true)
      (fun q i v => q.updPolicer (BitVec.ofNat 12 i) (fun x => { x with bucket := x.bucket.write q.now p.1 (leNat v) })))

/-- The dictionary entries of security, metering, management, time, debug, firmware and power act when they are written
(R389, R391, R400, R439, R448, R449, R485, R488, R494, R496, R518, R519, R520, R529, R531).
Each completes, in every state and with all operands that meet the conditions named: ATTEST_CHALLENGE, TENANT_ENROL,
DEBUG_AUTHORISE, INTERVAL_LENGTH, ENSIGN_FW_ACTIVATE, AUTHORITY_KEYS, OWNER_CLAIM, ROLE_ANCHORS, RELEASE_RECORD, ZENITH_SET,
SQUALL_TRIGGER, HORIZON_CAPTURE, HORIZON_RELEASE, FW_ACTIVATE, FW_CONFIRM, FW_ROLLBACK, HOLDUP_TEST_NOW, DOMAIN_ENABLE. -/
def Obligations.ServiceEntriesTakeEffect : Prop :=
  Writes .attestChallenge 0x6010 0x01 (fun _ _ v => v.length = 32) (fun q _ v => q.attest v) ∧
  Writes .tenantEnrol 0x6010 0x03 (fun _ _ _ => True) (fun q _ v => q.enrolTenant v) ∧
  Writes .debugAuthorise 0x6040 0x02 (fun _ _ v => v.length = 8) (fun q _ v => q.setDebug (BitVec.ofNat 64 (leNat v))) ∧
  Writes .intervalLength 0x7010 0x01
    (fun _ _ v => v.length = 8 ∧ 1000000000 ≤ leNat v ∧ leNat v ≤ 3600000000000 ∧ leNat v % 1000000000 = 0)
    (fun q _ v => inEns q.sealEvent (fun e => { e with interval := BitVec.ofNat 64 (leNat v) })) ∧
  (∀ (i : FwImage), Writes .ensignFwActivate 0x7020 0x02
    (fun q _ v => v.length = 1 ∧ leNat v = 1 ∧ q.ens.staged = some i ∧ q.ens.stageState = 1)
    (fun q _ _ => inEns q.sealEvent (fun e => { e with
      fwVersion := i.version, fwImage := imageBytes i, staged := none, stageState := 0
      restartUntil := q.sealEvent.now + 50000000 }))) ∧
  (∀ (p : AnchorPair) (d : List Byte) (g : List Byte), Writes .authorityKeys 0x7020 0x04
    (fun q _ v => pairSplit v = some (p, g) ∧ g.length = 5139 ∧ d = sha512 (v.take (v.length - 5139)) ∧
      Config.rsaVerify q.ens.authorityKeys.1 d (slice g 0 512) = true ∧
      Config.mldsaVerify q.ens.authorityKeys.2 d (slice g 512 4627) = true)
    (fun q _ _ => inEns q.sealEvent (fun e => { e with authority := some p }))) ∧
  (∀ (p : AnchorPair), Writes .ownerClaim 0x1020 0x01 (fun q _ v => q.mgmt.owner = [] ∧ pairSplit v = some (p, []))
    (fun q _ _ => inMgmt q (fun m => { m with owner := [p] }))) ∧
  (∀ (rs : List (Nat × AnchorPair)), Writes .roleAnchors 0x1020 0x02 (fun _ _ v => rolesOf 4 0 v = some rs)
    (fun q _ _ => (inMgmt q (fun m => { m with roles := rs })).endUnanchored)) ∧
  Writes .releaseRecord 0xF000 0x01
    (fun _ _ v => v.length = 5147 ∧ v.take 8 = bytesOf 8 Config.deviceSerial ∧
      Config.rsaVerify Config.service.1 (sha512 (v.take 8)) (slice v 8 512) = true ∧
      Config.mldsaVerify Config.service.2 (sha512 (v.take 8)) (slice v 520 4627) = true)
    (fun q _ _ => inMgmt (q.endSessions (fun _ => true)) (fun m => { m with owner := [], roles := [] })) ∧
  Writes .zenithSet 0x8300 0x07 (fun q _ v => v.length = 8 ∧ q.timeParent = none ∧ q.part.booted = false)
    (fun q _ v => (inObs q (fun o => { o with slewFrac := 0 })).stepClock (BitVec.ofNat 64 (leNat v))) ∧
  Writes .squallTrigger 0x8310 0x01 (fun _ _ v => v.length = 1 ∧ leNat v = 1) (fun q _ _ => q.squall 1) ∧
  (∀ (th : Nat), Writes .horizonCapture 0x8320 0x01
    (fun q _ v => v.length = 8 ∧ q.dbg.hzState = 0 ∧ q.dbg.hzPropagate = false ∧
      th = (if leNat v = 0 then q.now + 10000 else leNat v) ∧ q.now + 10000 ≤ th)
    (fun q _ _ => (inDbg q (fun d => { d with hzNext := d.hzNext + 1, hzSeen := d.hzSeen ++ [(q.ownEp, d.hzNext)] })).hzArm
      q.ownEp q.dbg.hzNext th false)) ∧
  Writes .horizonRelease 0x8320 0x05 (fun _ _ v => v.length = 1 ∧ leNat v = 1)
    (fun q _ _ => inDbg q (fun d => { d with hzState := 0, hzEntries := [], hzDropped := 0 })) ∧
  Writes .fwActivate 0x9010 0x03
    (fun q _ v => v.length = 1 ∧ leNat v = 1 ∧ q.updateBar = 0 ∧ q.boot.stageState = 1 ∧
      slotValid q.boot.minSecurity q.boot.otherSlot = true)
    (fun q _ _ => (inBoot q (fun b => b.writeRec (!b.activeB) true 0)).resetLater) ∧
  Writes .fwConfirm 0x9010 0x04 (fun q _ v => v.length = 1 ∧ leNat v = 1 ∧ q.boot.phase = .full)
    (fun q _ _ => inBoot q (fun b => { (b.writeRec b.activeB false 0) with
      trial := false
      minSecurity := if b.image.securityVersion.toNat < b.minSecurity.toNat then b.minSecurity else b.image.securityVersion })) ∧
  (∀ (x : FwSlot), Writes .fwRollback 0x9010 0x05
    (fun q _ v => v.length = 1 ∧ leNat v = 1 ∧ q.updateBar = 0 ∧ q.boot.otherSlot = some x ∧
      q.boot.minSecurity.toNat ≤ x.image.securityVersion.toNat ∧ slotValid q.boot.minSecurity (some x) = true)
    (fun q _ _ => (inBoot q (fun b => b.writeRec (!b.activeB) false 0)).resetLater)) ∧
  Writes .holdupTestNow 0x2010 0x02 (fun q _ v => v.length = 1 ∧ leNat v = 1 ∧ q.pwr.testSince = none) (fun q _ _ => q.startHoldup) ∧
  (∀ (on : Bool), Writes .domainEnable 0x2001 0x01
    (fun q i v => v = [if on then 1 else 0] ∧ engineDomain i = true ∧ (on = true → q.pwr.domain.get (sliceOf i) 0 = 2))
    (fun q i _ => (fun (r : Qf) =>
        if on then
          (if q.pwr.domain.get i 0 = 0 then r.putDomain i 1
           else if q.pwr.domain.get i 0 = 3 then (r.putDomain i 2).runUnit i else r)
        else if q.pwr.domain.get i 0 = 2 then r.putDomain i 3 else r)
      (inPwr q (fun w => { w with
        enable := w.enable.set i on, offByFault := if on then w.offByFault.filter (fun e => e != i) else w.offByFault })))) ∧
  (∀ (on : Bool), Writes .domainEnable 0x2001 0x01
    (fun q i v => v = [if on then 1 else 0] ∧ engineDomain i = false ∧ i < 80 ∧
      (on = true → sliceOf i ≠ i → q.pwr.domain.get (sliceOf i) 0 = 2) ∧
      (on = false → sliceOf i = i → ∀ e ∈ dependents i, q.pwr.domain.get e 0 = 0) ∧
      (q.pwr.domain.get i 0 = (if on then 2 else 0) ∨
        (i < 40 ∨ 72 ≤ i → q.part.booted = false) ∧
        (40 ≤ i → i < 72 → (q.link (BitVec.ofNat 6 (2 * (i - 40)))).state = .detect ∧
          (q.link (BitVec.ofNat 6 (2 * (i - 40)) + 1)).state = .detect)))
    (fun q i _ => (fun (r : Qf) =>
        if on then (dependents i).foldl (fun q e => if engineDomain e && !q.unitIdle e then q.wantUnit e else q) r else r)
      ((inPwr q (fun w => { w with
        enable := w.enable.set i on
        offByFault := if on then w.offByFault.filter (fun e => e != i) else w.offByFault })).putDomain i (if on then 2 else 0))))

/-- Pipelines run (R188 to R190, R193, R201, R210, R236, R238): a RUN_PIPELINE of a good form takes
its place in its sector and begins to read its descriptor; what waits in a sector starts; a pipeline whose writes are placed, or
that stopped, writes its result record, with RELEASE behind its engine's earlier writes; a row or a shard that is late is asked of its replica too.
Each completes, in every state and with all operands that meet the conditions named: RUN_PIPELINE, PIPELINE_START,
PIPELINE_COMPLETE, GATHER_BACKUP, SEARCH_BACKUP. -/
def Obligations.PipelinesTakeEffect : Prop :=
  (∀ (s : State) (origin : Ep) (qpn : Qpn) (n : QpKey) (w : BitVec 512) (y : Qp) (x : WorkReq) (q0 q1 : Qf), n = origin ++ qpn →
    s.qf.startable n w 0x20 = true →
    (s.qf.touchQp n).qp n = y → x = { index := y.ctx.sqConsumer, wr := w, seq := (s.qf.touchQp n).qps.useSeq } →
    q0 = (s.qf.touchQp n).updQp n (fun z => { z with
      fetched := none, work := z.work ++ [x], ctx := { z.ctx with sqConsumer := z.ctx.sqConsumer + 1 } }) →
    pipeFormOk w = true → q1 = q0.updWr n x.index (fun x => { x with todo := [{}] }) →
    To (.runPipeline origin qpn w) s
      ((({ q1 with eng := { q1.eng with jobs := q1.eng.jobs ++ ([{
            pair := n, wrIndex := x.index, wr := w, sector := qpSector n
            after := if Wr.release w then q0.writesBefore n x.seq else [] }] : List PipeJob) } } : Qf).pumpJob n
        x.index).settleQp n)) ∧
  (∀ (s : State) (k : Sector), s.qf.inService = true → To (.pipelineStart k) s ((s.qf.startPipes k).startShards k)) ∧
  (∀ (s : State) (n : QpKey) (i : BitVec 16) (j : PipeJob) (w : WorkReq), s.qf.inService = true → s.qf.job n i = some j →
    (s.qf.qp n).wrOf i = some w → s.qf.acquiring n = false →
    Wr.release j.wr = false ∨ s.qf.writesBefore n w.seq = [] → (j.phase = .outputs ∧ w.unresolved = 0 ∧ w.final = none) ∨ (j.phase = .stopped ∧ w.unresolved = 1) →
    To (.pipelineComplete n i) s (s.qf.pipeRecord n i)) ∧
  (∀ (s : State) (n : QpKey) (i : BitVec 16) (stage : BitVec 3) (o : BitVec 32) (j : PipeJob) (r : EngRead) (bins : List Nat)
    (factor : Nat), s.qf.inService = true → s.qf.job n i = some j → j.phase = .running →
    j.reads.find? (fun r => keyOf r.key = (false, stage.toNat, o.toNat) && r.alt && r.key % 2 ^ 58 != askLine) = some r →
    bins = s.qf.hist j.sector false (r.shard.getD 0) → factor = j.par.getD 0 0 → 0 < factor →
    (stage.toNat, o.toNat) ∉ j.backs → max 1 (j.par.getD 1 0) ≤ bins.length →
    pastEdge (s.qf.now - r.sentAt) factor (shardP99 bins) = true →
    100 * ((j.backs.filter (fun b => b.1 = stage.toNat)).length + 1) ≤ j.par.getD 2 0 * stageRows j stage.toNat →
    To (.gatherBackup n i stage o) s
      ((({ s.qf with eng := { s.qf.eng with gLaunched := s.qf.eng.gLaunched + 1 } } : Qf).updJob n i (fun j =>
        { j with backs := j.backs ++ [(stage.toNat, o.toNat)], launched := j.launched + 1 })).pumpJob n i)) ∧
  (∀ (s : State) (n : QpKey) (i : BitVec 16) (shard : BitVec 8) (j : PipeJob) (r : EngRead) (bins : List Nat) (factor : Nat),
    s.qf.inService = true → s.qf.job n i = some j → j.phase = .running →
    j.reads.find? (fun r => !(keyOf r.key).1 && (keyOf r.key).2.2 = shard.toNat && r.alt && r.key % 2 ^ 58 = askLine &&
      !j.backs.contains (r.stage, shard.toNat)) = some r →
    bins = s.qf.hist j.sector true (r.shard.getD 0) → factor = j.par.getD 3 0 → 0 < factor →
    max 1 (j.par.getD 4 0) ≤ bins.length → pastEdge (s.qf.now - r.sentAt) factor (shardP99 bins) = true →
    To (.searchBackup n i shard) s
      ((({ s.qf with eng := { s.qf.eng with sLaunched := s.qf.eng.sLaunched + 1 } } : Qf).updJob n i (fun j =>
        { j with backs := j.backs ++ [(r.stage, shard.toNat)], launched := j.launched + 1 })).pumpJob n i))

/-- Messages and manager commands of the search and compression engines take effect (R221, R233, R234, R236, R237, R261): a
shard query whole and served joins its sector and starts where there is a place; a shard's answer resolves the query it
answers and goes to its pipeline; an append at its side list's home begins, as a reclaim does; a merge opens a draft and goes
on; an encode takes a progress object and goes on.
Each completes, in every state and with all operands that meet the conditions named: SEARCH_SHARD, SEARCH_ANSWER, SIDE_APPEND,
INDEX_MERGE, SIDE_RECLAIM, FRB_ENCODE. -/
def Obligations.SearchAndEncodeCommandsTakeEffect : Prop :=
  (∀ (s : State) (i : Ingress) (p p' : Packet) (bs : List Byte) (q : Qf) (r : Nat) (k : Sector), s.qf.inService = true →
    p.destEp = s.qf.ownEp → (took s i p).msgIn p = (some (p', bs), q) → q.check123 p' = none → r = leNat (slice bs 0 64) →
    k = BitVec.ofNat 3 (nfld r 185 16 + nfld r 496 8) →
    To (.searchShard i p) s
      (({ q with eng := { q.eng with
          nextJob := q.eng.nextJob + 1
          shards := q.eng.shards ++ ([{ id := q.eng.nextJob, pkt := p', data := bs, sector := k }] : List ShardJob) } } :
        Qf).startShards k)) ∧
  (∀ (s : State) (i : Ingress) (p p' : Packet) (bs : List Byte) (q : Qf) (r : OpenReq) (n : QpKey) (w : BitVec 16) (key : Nat)
    (st : BitVec 8), s.qf.inService = true → p.destEp = s.qf.ownEp → (took s i p).msgIn p = (some (p', bs), q) →
    q.openFor p' = some r → r.owner = .shardAsk n w key → st = BitVec.ofNat 8 (nfld (leNat (slice bs 0 32)) 248 8) →
    To (.searchAnswer i p) s
      ((q.askResolved r (if st = Status.partialResult.code then 0 else st)).pipeGot n w key
        (if st = Status.partialResult.code then 0 else st) bs)) ∧
  (∀ (s : State) (i : Ingress) (p p' : Packet) (bs : List Byte) (q : Qf) (a : Nat), s.qf.inService = true →
    p.destEp = s.qf.ownEp → (took s i p).msgIn p = (some (p', bs), q) → q.check123 p' = none → p'.addr.toNat = a →
    a % 64 = 0 →
    To (.sideAppend i p) s (q.sideStart { pkt := p', data := bs, pva := a % 2 ^ 46, place := a })) ∧
  (∀ (s : State) (m : MgrRef) (tenant : BitVec 16) (region : BitVec 32) (t : BitVec 64) (metric : BitVec 8) (r : RegionId)
    (a pr d : Nat) (q1 q2 : Qf), MgrReady s.qf m → inRange tenant 4096 = true → inRange region 1048576 = true →
    inRange metric 3 = true → fld region 0 20 = r → s.qf.ver.recs.has r.toNat = true → (s.qf.verRec r).lost = false →
    (started s m).regionPva (fld tenant 0 12) r = some a → (started s m).newProgress 5 2 0 = some (pr, q1) →
    q1.openDraft r = some (d, q2) →
    To (.indexMerge m tenant region t metric) s
      (({ q2 with eng := { q2.eng with
          nextJob := q2.eng.nextJob + 1
          merges := q2.eng.merges.set q2.eng.nextJob
            { cmd := m, progress := some pr, tenant := fld tenant 0 12, region := r, target := t.toNat, metric := metric.toNat,
              draft := d, base := a, expected := (q2.verRec r).current } } } : Qf).pumpMerge 32 q2.eng.nextJob)) ∧
  (∀ (s : State) (m : MgrRef) (tenant : BitVec 16) (side r : BitVec 64) (xs : List (BitVec 32)) (e : RtEntry) (a : BitVec 60)
    (q1 : Qf), MgrReady s.qf m →
    inRange tenant 4096 = true → side.toNat < 2 ^ 56 → side.toNat % 64 = 0 → xs.length ≤ 8 →
    (∀ x ∈ xs, inRange x 1048576 = true) → (started s m).translate 0 (fld tenant 0 12) true {} (fld side 0 60) = (.ok (e, a), q1) →
    To (.sideReclaim m tenant side r xs) s
      ((started s m).sideStart { pkt := { tenant := fld tenant 0 12, world := true, stream := streamOf 3 256 }, pva := side.toNat
                                 place := a.toNat, reclaim := some (m, r.toNat, xs) })) ∧
  (∀ (s : State) (m : MgrRef) (d : BitVec 512) (pr : Nat) (q : Qf), MgrReady s.qf m → Fe.ok d = true →
    (started s m).newProgress 6 3 (Fe.blocks d * (if Fe.build d then 2 else 1)) = some (pr, q) →
    To (.frbEncode m d) s
      (({ q with eng := { q.eng with
          nextJob := s.qf.eng.nextJob + 1
          encodes := q.eng.encodes.set s.qf.eng.nextJob
            { cmd := m, desc := d, phase := if Fe.build d then 1 else 0, counts := List.replicate 47 1, progress := some pr } } } :
        Qf).goEnc s.qf.eng.nextJob))

/-- A link trains event by event to ACTIVE, and leaves it (R289, R311 to R315, R319, R394 to R396): a signal starts
EQUALIZE under the values in force, then FRAME_LOCK, CAPABILITY, SESSION, CREDIT_INIT and ACTIVE follow; RATE_UP ends at the
full rate or after three failures; DOWN, a state's time limit and the loss of frame lock take the link down.
Each completes, in every state and with all operands that meet the conditions named: LINK_DETECT, EQUALIZE_DONE, FRAME_LOCK,
CAP, SESSION_HELLO, SESSION_KEM, SESSION_FINISH, CREDIT_INIT, RATE_UP, DOWN, LINK_STATE_TIMEOUT, FRAME_LOCK_LOSS,
CONTROL_MESSAGE_REPEAT. -/
def Obligations.LinkTrainingTakesEffect : Prop :=
  (∀ (s : State) (h : HalfPort) (q : Qf), s.qf.running = true → s.qf.pwr.failState = 0 → q = s.qf.applyMode h →
    q.pwr.failState = 0 → TrainsIn q h .detect →
    To (.linkDetect h) s ((q.updLink h (fun l => { l with par := q.linkPar })).setState h .equalize)) ∧
  (∀ (s : State) (h : HalfPort), TrainsIn s.qf h .equalize → To (.equalizeDone h true) s (s.qf.setState h .frameLock)) ∧
  (∀ (s : State) (h : HalfPort), TrainsIn s.qf h .frameLock →
    To (.frameLock h true) s
      (((s.qf.updLink h (fun l => { l with rate := 1, lastControl := s.qf.now })).sendCtl h (.cap (s.qf.ownCap h))).setState h
        .capability)) ∧
  (∀ (s : State) (h : HalfPort) (c : CapMsg), TrainsIn s.qf h .capability → s.qf.portMode h = 2 →
    To (.cap h c) s
      ((s.qf.updLink h (fun l => { l with
          version := 0x31, rate := 2, profile := if c.qfpm then 4 else 3, peerEp := c.ep, peerBooted := true
          peerQf := false, peerFull := false, trayProt := false, trayChannels := 1, trayCapacity := min c.capacity.toNat 8192
          cxl := { l.cxl with hdmCapacity := c.capacity.toNat } })).setState h .active)) ∧
  (∀ (s : State) (h : HalfPort) (c : CapMsg) (v : BitVec 8), TrainsIn s.qf h .capability → s.qf.portMode h ≠ 2 →
    commonVersion (s.qf.link h).par.offered c.versions = some v →
    (s.qf.part.booted = true → c.booted = true → c.partitionId = s.qf.part.id) → (c.qfpm = true → capTrayOk c = true) →
    ∃ q1 : Qf, q1 = s.qf.takeFree.2.updLink h (fun l => { l with
          version := v, profile := if c.qfpm then 2 else 1, peerEp := c.ep, peerBooted := c.booted
          peerQf := c.isQf960 && !c.qfpm, peerFull := c.fullRate
          trayProt := c.qfpm && c.protect, trayChannels := if c.qfpm then c.channels.toNat else 0
          trayCapacity := if c.qfpm then c.capacity.toNat else 0, lastControl := s.qf.now
          sess := { num := s.qf.freeCount, helloSent := true, anchors := s.qf.linkAnchors
                    initiator := decide (s.qf.ownEp < c.ep) } }) ∧
      To (.cap h c) s ((q1.sendCtl h (.hello (q1.link h).sess.hello)).setState h .session)) ∧
  (∀ (s : State) (h : HalfPort) (c : HelloMsg), TrainsIn s.qf h .session → (s.qf.link h).peerEp ≠ s.qf.ownEp →
    (s.qf.link h).sess.helloSeen = none →
    ∃ q1 : Qf, q1 = s.qf.updLink h (fun l => { l with sess := { l.sess with helloSeen := some c } }) ∧
      To (.sessionHello h c) s (q1.sendCtl h (.kem (q1.link h).sess.ourKem.1))) ∧
  (∀ (s : State) (h : HalfPort) (ct : List Byte) (x y : Session), TrainsIn s.qf h .session → x = (s.qf.link h).sess →
    x.helloSeen.isSome = true → x.kem = [] → y = { x with kem := ct, th := ({ x with kem := ct } : Session).transcript } →
    To (.sessionKem h ct) s ((s.qf.updLink h (fun l => { l with sess := y })).sendCtl h y.finish)) ∧
  (∀ (s : State) (h : HalfPort) (a b : List Byte) (x : Session), TrainsIn s.qf h .session → x = (s.qf.link h).sess →
    x.th ≠ [] → x.verified a b = true →
    ∃ q1 : Qf, q1 = s.qf.updLink h (fun l => { l with lastControl := s.qf.now, sess := { x with
          active := true, tx := x.keys.1, rx := x.keys.2
          peerPrint := (sha512 (Config.chainLeaf ((x.helloSeen.map HelloMsg.mldsaChain).getD []))).take 32 } }) ∧
      To (.sessionFinish h a b) s ((q1.sendCtl h (.creditInit (creditsOf (q1.isHalf h)))).setState h .creditInit)) ∧
  (∀ (s : State) (h : HalfPort) (cs : List (BitVec 14)), creditsOk cs = true →
    ∃ q1 : Qf, q1 = s.qf.updLink h (fun l => { l with
        tx := { advertised := cs, creditsIn := true }, rx := { staged := l.rx.staged, ctl := l.rx.ctl } }) ∧
      (TrainsIn s.qf h .creditInit → To (.creditInit h cs) s (q1.setState h .active)) ∧
      (TrainsIn s.qf h .session → (s.qf.link h).profile = 2 → (s.qf.link h).par.sessionRequired = false →
        (s.qf.link h).sess.helloSeen = none →
        To (.creditInit h cs) s ((q1.sendCtl h (.creditInit (creditsOf (q1.isHalf h)))).setState h .active))) ∧
  (∀ (s : State) (h : HalfPort) (l : Link) (q1 : Qf), l = s.qf.link h → s.qf.running = true → l.live = true → l.rate = 1 →
    l.peerFull = true → s.qf.boot.phase = .reduced ∨ s.qf.boot.phase = .full → l.rateFails < 3 →
    q1 = (if l.state = .active then s.qf.updLink h (fun l => l.sendControl s.qf.now 6) else s.qf) →
    To (.rateUp h true) s
      ((q1.updLink h (fun l => { l with rate := 2, rateFails := 0, rateUpSent := false })).setState h .active) ∧
    (l.rateFails < 2 → To (.rateUp h false) s
      ((q1.updLink h (fun x => { x with rateFails := l.rateFails + 1, rateUpSent := true })).setState h .rateUp)) ∧
    (l.rateFails = 2 → To (.rateUp h false) s
      (((q1.updLink h (fun x => { x with rateFails := 3, rateUpSent := false })).setState h .active).fault 3
        { sector := halfSector h, half := h, peer := l.peerEp }))) ∧
  (∀ (s : State) (h : HalfPort), s.qf.running = true → To (.down h) s (s.qf.linkDown h 6)) ∧
  (∀ (s : State) (h : HalfPort) (t : Nat), s.qf.running = true → (s.qf.link h).state.limit = some t →
    (s.qf.link h).since + t ≤ s.qf.now → To (.linkStateTimeout h) s (s.qf.linkDown h 7)) ∧
  (∀ (s : State) (h : HalfPort), s.qf.running = true → (s.qf.link h).state ≠ .detect → (s.qf.link h).state ≠ .equalize →
    To (.frameLockLoss h) s (s.qf.linkDown h 1)) ∧
  (∀ (s : State) (h : HalfPort), s.qf.running = true →
    (s.qf.link h).state = .capability ∨ (s.qf.link h).state = .session ∨ (s.qf.link h).state = .creditInit →
    (s.qf.link h).lastControl + 1000 ≤ s.qf.now →
    To (.controlMessageRepeat h) s ((s.qf.updLink h (fun l => { l with lastControl := s.qf.now })).sendCtl h (s.qf.awaited h)))

/-- What a live link carries takes effect (R293, R294, R316, R320, R322, R325, R481): a flit in sequence is taken and its packets
with it, one that fails its check is answered with a NAK; a replay or a rekey falls due; a time request is answered; a host
behind a CXL port reads, writes and answers snoops; a tray confirms a write, or a part of an operation.
Each completes, in every state and with all operands that meet the conditions named: FLIT_RECEIVE, REPLAY_TIMEOUT, REKEY,
REKEY_INTERVAL, TIME, TRAY_DONE, MEM_RD, MEM_WR_PTL, MEM_WR, BI_RSP, CXL_TRAY_MEM_COMPLETION. -/
def Obligations.LinkTrafficTakesEffect : Prop :=
  (∀ (s : State) (h : HalfPort) (f : Flit) (l : Link) (slots : List (BitVec 128)) (q : Qf), l = s.qf.link h →
    s.qf.running = true → l.live = true → l.profile ≠ 3 → l.profile ≠ 4 → l.openFlit f = some slots →
    q = (s.qf.countFrame h).useHeader h f → (q.link h).live = true → flitSeq f = l.rx.expect → flitType f = 1 →
    To (.flitReceive h f) s
      (((q.updLink h (fun l => { l with rx := { l.rx with expect := l.rx.expect + 1, nak := false } })).phaseSeen h f).takeSlots
        280 h (l.rx.partSlots ++ slots))) ∧
  (∀ (s : State) (h : HalfPort) (f : Flit) (l : Link), l = s.qf.link h → s.qf.running = true → l.live = true →
    l.profile ≠ 3 → l.profile ≠ 4 → l.openFlit f = none →
    To (.flitReceive h f) s
      ((s.qf.updLink h (fun l => { l with
          rx := { l.rx with nak := true }
          cnt := { l.cnt with
            checkFailures := l.cnt.checkFailures + 1, tagFailures := l.cnt.tagFailures + b2n l.sess.active } })).countFrame
        h)) ∧
  (∀ (s : State) (h : HalfPort) (l : Link), l = s.qf.link h → s.qf.running = true → l.live = true → l.tx.replay ≠ [] →
    l.tx.lastAck + l.par.replayTimeout.toNat ≤ s.qf.now → To (.replayTimeout h) s (s.qf.replayAll h none)) ∧
  (∀ (s : State) (h : HalfPort) (l : Link) (n : Nat), l = s.qf.link h → s.qf.running = true → l.live = true →
    l.sess.active = true → l.version = 0x20 → n = max 1 l.par.rekeyInterval.toNat →
    (l.sess.rx.oldKey = none →
      To (.rekey h) s (s.qf.updLink h (fun l => { l with sess := { l.sess with rx := l.sess.rx.next true } }))) ∧
    To (.rekeyInterval h) s ((s.qf.updLink h (fun x => x.sendControl s.qf.now 5)).updLink h (fun x =>
      { x with sess := { x.sess with
          tx := { (x.sess.tx.next false) with frames := BitVec.ofNat 64 ((l.sess.tx.frames.toNat / n + 1) * n) } } }))) ∧
  (∀ (s : State) (h : HalfPort) (c : TimeMsg), s.qf.running = true → (s.qf.link h).timed = true → (s.qf.link h).peerQf = true →
    (c.kind = 1 → To (.time h c) s
      (s.qf.sendTime h { kind := 2, seq := c.seq, t1 := c.t1, t2 := c.received, t3 := stamp80 s.qf.now })) ∧
    (c.kind = 2 → s.qf.timeParent = some h → c.seq = s.qf.obs.exchSeq → s.qf.obs.reqT1 = some c.t1 →
      To (.time h c) s ((inObs s.qf (fun o => { o with reqT1 := none })).exchange h c.t1 c.t2 c.t3 c.received))) ∧
  (∀ (s : State) (i : Ingress) (p : Packet), p.destEp = s.qf.ownEp →
    s.qf.inService = true ∨ (s.qf.running = true ∧ s.qf.pwr.failState = 1) →
    To (.trayDone i p) s ((took s i p).trayDone p.srcEp p.tag)) ∧
  (∀ (s : State) (c : CxlReq) (a : BitVec 60) (p : Packet) (owned : List (BitVec 60)),
    owned = (s.qf.link c.halfport).cxl.owned →
    (p = { opcode := if c.want = 2 then Opc.rdOwn else if c.want = 1 then Opc.rdShared else Opc.rdNc, tag := c.tag, addr := a
           srcEp := (s.qf.link c.halfport).peerEp } → HostAsks s.qf c a p →
      To (.memRd c) s ((remembered s.qf c owned).clientRequest c.halfport p none)) ∧
    (p = { opcode := Opc.wrNc, tag := c.tag, addr := a, srcEp := (s.qf.link c.halfport).peerEp
           aux := some { byteMask := c.mask } } → HostAsks s.qf c a p →
      To (.memWrPtl c) s ((remembered s.qf c owned).clientRequest c.halfport p
        (some { p with opcode := Opc.dataWrite, vc := 3, payload := slice c.data 0 64 }))) ∧
    (p = { opcode := Opc.wrFullNc, tag := c.tag, addr := a, srcEp := (s.qf.link c.halfport).peerEp } → HostAsks s.qf c a p →
      a ∉ owned →
      To (.memWr c) s ((remembered s.qf { c with want := 0 } owned).clientRequest c.halfport p
        (some { p with opcode := Opc.dataWrite, vc := 3, payload := slice c.data 0 64 }))) ∧
    (p = { opcode := Opc.wbDirty, tag := c.tag, addr := a, srcEp := (s.qf.link c.halfport).peerEp } → HostAsks s.qf c a p →
      a ∈ owned →
      To (.memWr c) s ((remembered s.qf { c with want := 3 } (owned.filter (· != a))).clientRequest c.halfport p
        (some { p with opcode := Opc.dataDirty, vc := 3, payload := slice c.data 0 64 })))) ∧
  (∀ (s : State) (h : HalfPort) (tag : Tag) (l : Link) (sn r : Packet) (line : BitVec 60), l = s.qf.link h →
    s.qf.inService = true → l.live = true → l.profile = 3 → l.snoops.find? (fun p => p.tag = tag) = some sn →
    line = sn.addr &&& ~~~(63 : BitVec 60) → l.cxl.crossing line = false →
    r = { (s.qf.reply sn Opc.snpRspI) with srcEp := sn.destEp, far := false } →
    (To (.biRsp h tag 0 []) s
      ((s.qf.updLink h (fun l => { l with
          snoops := dropFirst (fun p => p.tag = tag) l.snoops
          cxl := { l.cxl with owned := l.cxl.owned.filter (· != line) } })).forHome (.half h) r
        (fun q => q.snoopAnswer r (fun n q => q.dropHolder n r.srcEp) false))) ∧
    (To (.biRsp h tag 1 []) s
      ((s.qf.updLink h (fun l => { l with
          snoops := dropFirst (fun p => p.tag = tag) l.snoops
          cxl := { l.cxl with owned := l.cxl.owned.filter (· != line) } })).forHome (.half h)
        { r with opcode := Opc.snpRspS }
        (fun q => q.snoopAnswer { r with opcode := Opc.snpRspS } (fun n q => q.ownerShares n r.srcEp) false)))) ∧
  (∀ (s : State) (c : CxlTrayCpl) (l : Link) (o o' : CxlTrayOp), l = s.qf.link c.halfport → s.qf.inService = true →
    l.live = true → l.profile = 4 → l.cxl.trayOps.find? (fun o => o.tag = c.tag) = some o → o.read = decide (c.kind.toNat ≤ 1) →
    o' = { o with
      left := o.left - 1, bad := o.bad || c.error
      line := if c.kind = 0 then some c.data else o.line, side := if c.kind = 1 then some c.data else o.side } →
    (o'.left = 0 → To (.cxlTrayMemCompletion c) s
      ((s.qf.updLink c.halfport (fun l => { l with cxl := { l.cxl with
          trayOps := dropFirst (fun o => o.tag = c.tag) l.cxl.trayOps } })).cxlTrayEnd l.peerEp o')) ∧
    (o'.left ≠ 0 → To (.cxlTrayMemCompletion c) s
      (s.qf.updLink c.halfport (fun l => { l with cxl := { l.cxl with
        trayOps := updFirst (fun o => o.tag = c.tag) (fun _ => o') l.cxl.trayOps } }))))

/-- The switch and its schedulers run (R332, R344, R346, R355, R357, R361, R362, R366, R368, R371, R373): a packet that passes through
and fits the queues is admitted, or joins a request it matches, or is not forwarded where its cells cannot be read; the packet the scheduler chooses leaves; route and group tables
of the pending bank are written; the previous bank is emptied; a queue that is stuck is reported; a policer lets held packets
go; an armed gate list takes over.
Each completes, in every state and with all operands that meet the conditions named: PACKET_ADMIT, PACKET_DEPART, ROUTE_WRITE,
GROUP_WRITE, ROUTE_BANK_EMPTY, STUCK_QUEUE, POLICER_RELEASE, GATE_TAKEOVER, GATE_ENTRY_CHANGE. -/
def Obligations.SwitchCommandsTakeEffect : Prop :=
  (∀ (s : State) (h : HalfPort) (vc : BitVec 3) (p : Packet) (o : Ingress) (r c : Bool × Qf), s.qf.inService = true →
    s.qf.sw.stalled.any (fun u => u.inp = .half h && u.pkt.vc = vc) = false → s.qf.stagedTransit h vc = some p →
    s.qf.route p = some o → s.qf.accepts (.half h) p [o] = true → r = (took s (.half h) p).readCells →
    c = (if vc = 0 then r.2.combine (.half h) p else (true, r.2)) →
    (r.1 = true → To (.packetAdmit (.half h) vc) s (r.2.badCells (.half h) p)) ∧
    (r.1 = false → c.1 = true → To (.packetAdmit (.half h) vc) s (c.2.transit (.half h) p)) ∧
    (r.1 = false → c.1 = false → To (.packetAdmit (.half h) vc) s c.2)) ∧
  (∀ (s : State) (i : Ingress) (vc : BitVec 3), s.qf.inService = true →
    s.qf.sw.stalled.any (fun u => u.inp = i && u.pkt.vc = vc) = true → To (.packetAdmit i vc) s (s.qf.admitStalled i vc)) ∧
  (∀ (s : State) (h : HalfPort) (q : Qf) (e : Egress) (c : Nat) (x : QPkt), s.qf.running = true →
    (s.qf.link h).state = .active → q = s.qf.dropUnversioned h → q.choose h = (some (c, x), e) →
    To (.packetDepart h) s (((q.updEgress h (fun _ => e)).depart h c x).noteWaits h)) ∧
  (∀ (s : State) (m : MgrRef) (first count : BitVec 16) (es : List (BitVec 64)), MgrReady s.qf m →
    first.toNat + count.toNat ≤ 16384 → es.length = count.toNat → (∀ e ∈ es, routeOk e = true) →
    To (.routeWrite m first count es) s
      ((inSw (started s m) (fun w => { w with
        pending := { w.pending with routes := writeTable w.pending.routes first.toNat es } })).complete m 0x20 .ok)) ∧
  (∀ (s : State) (m : MgrRef) (first count : BitVec 16) (es : List (BitVec 128)), MgrReady s.qf m →
    first.toNat + count.toNat ≤ 1024 → es.length = count.toNat → (∀ e ∈ es, groupOk e = true) →
    To (.groupWrite m first count es) s
      ((inSw (started s m) (fun w => { w with
        pending := { w.pending with groups := writeTable w.pending.groups first.toNat es } })).complete m 0x21 .ok)) ∧
  (∀ (s : State), s.qf.running = true → s.qf.sw.previous.isSome = true → s.qf.sw.prevSince + 1000000 ≤ s.qf.now →
    To .routeBankEmpty s (inSw s.qf (fun w => { w with previous := none }))) ∧
  (∀ (s : State) (h : HalfPort) (vc : BitVec 3) (q : Qf) (e : QPkt) (t : Nat), s.qf.running = true → q = s.qf.noteWaits h →
    q.sw.queue.find? (fun e => e.out = .half h && e.pkt.vc = vc) = some e → e.waitSince = some t →
    t + q.sw.stuckTime.toNat ≤ q.now → (h, vc) ∉ q.sw.stuck →
    (let r := (inSw q (fun w => { w with stuck := w.stuck ++ [(h, vc)] })).fault 6
        { sector := halfSector h, half := h, peer := (q.link h).peerEp, detail := vc.zeroExtend 16 }
     To (.stuckQueue h vc) s (if (q.link h).peerQf then r.suspect (q.link h).peerEp 3 else r))) ∧
  (∀ (s : State) (t : Tenant) (q : Qf) (x : Nat), s.qf.inService = true → s.qf.policeOpen t = true →
    q = s.qf.releasePoliced s.qf.sched.held.length t → q.sched.held.any (fun h => h.sent.tenant = t) = false →
    (q.policer t).heldSince = some x →
    To (.policerRelease t) s
      (q.updPolicer t (fun p => match p.heldSince with
        | some x => { p with heldSince := none, heldTime := p.heldTime + (q.now - x) }
        | none => p))) ∧
  (∀ (s : State) (h : HalfPort) (l : List (BitVec 64)) (cycle t : Nat), s.qf.running = true →
    (s.qf.egress h).armed = some (l, cycle, t) → t ≤ s.qf.now →
    To (.gateTakeover h) s (s.qf.updEgress h (fun e => { e with
      gates := l, gateCycle := BitVec.ofNat 64 cycle, gateStart := t, armed := none, pendState := 0, pendList := []
      pendEntries := 0, pendCycle := 0, takeovers := e.takeovers + 1 }))) ∧
  (∀ (s : State) (h : HalfPort), To (.gateEntryChange h) s s.qf)

/-- ROUTE_WRITE and GROUP_WRITE change the entries they name in the pending bank and no other (R344).
Each completes, in every state and with all operands that meet the conditions named: ROUTE_WRITE, GROUP_WRITE. -/
def Obligations.TableWritesReadBack : Prop :=
  (∀ (s : State) (m : MgrRef) (first count : BitVec 16) (es : List (BitVec 64)), MgrReady s.qf m →
    first.toNat + count.toNat ≤ 16384 → es.length = count.toNat → (∀ e ∈ es, routeOk e = true) →
    Ends (.routeWrite m first count es) s (fun q =>
      (∀ i, q.sw.pending.routes.get i 0 =
        if first.toNat ≤ i ∧ i < first.toNat + es.length then es.getD (i - first.toNat) 0 else s.qf.sw.pending.routes.get i 0) ∧
      q.sw = { s.qf.sw with pending := { s.qf.sw.pending with routes := q.sw.pending.routes } })) ∧
  (∀ (s : State) (m : MgrRef) (first count : BitVec 16) (es : List (BitVec 128)), MgrReady s.qf m →
    first.toNat + count.toNat ≤ 1024 → es.length = count.toNat → (∀ e ∈ es, groupOk e = true) →
    Ends (.groupWrite m first count es) s (fun q =>
      (∀ i, q.sw.pending.groups.get i 0 =
        if first.toNat ≤ i ∧ i < first.toNat + es.length then es.getD (i - first.toNat) 0 else s.qf.sw.pending.groups.get i 0) ∧
      q.sw = { s.qf.sw with pending := { s.qf.sw.pending with groups := q.sw.pending.groups } }))

/-- Reads of the dictionary take effect (R353, R405, R441, R453 to R455, R465, R493): a read answers the entry's value; a read
of a record removes it from its ring, or advances the cursor; the first segment of a read answers up to 1,024 bytes and keeps
the value where more is left.
Each completes, in every state and with all operands that meet the conditions named: AGWEN_READ, SAMPLE_RECORD, FAULT_RECORD,
VIOLATION_RECORD, RECORD_AT_CURSOR, SCAN_DATA, READ_SEG. -/
def Obligations.DictionaryReadsTakeEffect : Prop :=
  (∀ (index : BitVec 16) (sub : BitVec 8) (e : Entry), Asks (.agwenRead · index sub) 0x03
    (fun q x => Readable q x index sub e ∧ (q.valueFor x e).length ≤ 1128)
    (fun q x => q.readEffect x (entryKey index sub)) (fun q x => (q.valueFor x e, false))) ∧
  (∀ (e : Entry), Asks .sampleRecord 0x03 (fun q x => Readable q x 0x8101 0x01 e)
    (fun q _ => inSw q (fun w => { w with samples := w.samples.drop 1 }))
    (fun q _ => ((q.sw.samples.take 1).flatMap (bytesOf 192), false))) ∧
  (∀ (e : Entry), Asks .faultRecord 0x03 (fun q x => Readable q x 0x8200 0x02 e)
    (fun q _ => inFlt q (fun f => { f with ring := f.ring.drop 1 }))
    (fun q _ => ((q.flt.ring.take 1).flatMap (bytesOf 32), false))) ∧
  (∀ (e : Entry), Asks .violationRecord 0x03 (fun q x => Readable q x 0x8020 0x01 e)
    (fun q _ => inMgmt q (fun m => { m with violations := m.violations.drop 1 }))
    (fun q _ => ((q.mgmt.violations.take 1).flatMap (bytesOf 32), false))) ∧
  (∀ (e : Entry), Asks .recordAtCursor 0x03 (fun q x => Readable q x 0x7010 0x04 e)
    (fun q x => q.updSession x.id (fun y => { y with
      selects := y.selects.set 0x110001 (q.ens.atCursor (x.selects.get 0x110001 0)).2 }))
    (fun q x => ((q.ens.atCursor (x.selects.get 0x110001 0)).1, false))) ∧
  (∀ (e : Entry), Asks (.scanData · 0) 0x06
    (fun q x => Readable q x 0x8311 0x02 e ∧ (q.scanBytes (x.selects.get 0x831100 0)).length ≤ 1024)
    (fun q x => q.dropSegment x false 0x8311 0x02) (fun q x => (q.scanBytes (x.selects.get 0x831100 0), true))) ∧
  (∀ (e : Entry), Asks (.scanData · 0) 0x06
    (fun q x => Readable q x 0x8311 0x02 e ∧ 1024 < (q.scanBytes (x.selects.get 0x831100 0)).length)
    (fun q x => q.putSegment x { index := 0x8311, sub := 0x02, data := q.scanBytes (x.selects.get 0x831100 0), write := false
                                 last := q.now })
    (fun q x => ((q.scanBytes (x.selects.get 0x831100 0)).take 1024, false))) ∧
  (∀ (index : BitVec 16) (sub : BitVec 8) (e : Entry), Asks (.readSeg · index sub 0) 0x06
    (fun q x => Readable q x index sub e ∧ (q.valueFor x e).length ≤ 1024)
    (fun q x => (q.readEffect x (entryKey index sub)).dropSegment x false index sub) (fun q x => (q.valueFor x e, true))) ∧
  (∀ (index : BitVec 16) (sub : BitVec 8) (g : Segment) (o : BitVec 64), Asks (.readSeg · index sub o) 0x06
    (fun _ x => o ≠ 0 ∧ x.segs.find? (fun g => g.is false index sub) = some g ∧ o.toNat ≤ g.data.length ∧
      g.data.length ≤ o.toNat + 1024)
    (fun q x => q.dropSegment x false index sub) (fun _ _ => ((g.data.drop o.toNat).take 1024, true)))

/-- Writes of the dictionary take effect (R454 to R457, R467, R516): a value the entry takes changes it and is kept; a
selection is kept for the session; a segment joins its write, which is applied with its last; an image is staged; a BAR0 write
through the active port acts.
Each completes, in every state and with all operands that meet the conditions named: AGWEN_WRITE, REGISTER_WRITE,
COMPARE_WRITE, WRITE_SEG, FW_STAGE, FW_IMAGE. -/
def Obligations.DictionaryWritesTakeEffect : Prop :=
  (∀ (index : BitVec 16) (sub : BitVec 8) (v w : List Byte) (e : Entry) (q' : Qf → AgSession → Qf)
    (ok : Qf → AgSession → Prop), perSession index sub = false → v.length ≤ 1128 →
    (∀ q x, ok q x ↔ q.writeBar x index sub = .ok e ∧ q.writeTyped e (x.sel (entryKey index sub)) v = ({}, q' q x)) →
    Asks (.agwenWrite · index sub v) 0x04 ok (fun q x => (q' q x).storeSetting e (x.sel (entryKey index sub))) ∧
    Asks (fun a => .registerWrite (.dict a index sub v)) 0x04 ok
      (fun q x => (q' q x).storeSetting e (x.sel (entryKey index sub))) ∧
    Asks (.compareWrite · index sub w v) 0x05
      (fun q x => ok q x ∧ x.version = 2 ∧ e.access ≠ .wo ∧ q.valueFor x e = w)
      (fun q x => (q' q x).storeSetting e (x.sel (entryKey index sub)))) ∧
  (∀ (index : BitVec 16) (sub : BitVec 8) (v : List Byte) (e : Entry), perSession index sub = true → v.length ≤ 1128 →
    Asks (.agwenWrite · index sub v) 0x04
      (fun q x => q.writeBar x index sub = .ok e ∧ v.length = e.type.width.getD 0 ∧ leNat v ≤ selectMax (entryKey index sub))
      (fun q x => (q.updSession x.id (fun y => { y with
        selects := y.selects.set (entryKey index sub) (leNat v) })).storeSetting e (x.sel (entryKey index sub)))) ∧
  (∀ (index : BitVec 16) (sub : BitVec 8) (v : List Byte) (e : Entry), entryKey index sub ≠ 0x901001 → v.length ≤ 1024 →
    Asks (.writeSeg · index sub 0 false v) 0x07
      (fun q x => q.writeBar x index sub = .ok e ∧ x.segs.find? (fun g => g.is true index sub) = none)
      (fun q x => q.putSegment x { index, sub, data := v, last := q.now })) ∧
  (∀ (index : BitVec 16) (sub : BitVec 8) (o : BitVec 64) (v : List Byte) (e : Entry) (g : Segment), o ≠ 0 → v.length ≤ 1024 →
    g.data.length = o.toNat →
    Asks (.writeSeg · index sub o false v) 0x07
      (fun q x => q.writeBar x index sub = .ok e ∧ x.segs.find? (fun g => g.is true index sub) = some g)
      (fun q x => (q.updProgress g.progress (fun p => { p with position := g.data.length + v.length })).putSegment x
        { g with data := g.data ++ v, last := q.now })) ∧
  (∀ (i : FwImage) (e : Entry), Asks (.fwStage · i) 0x07 (fun q x => q.writeBar x 0x7020 0x01 = .ok e)
    (fun q x => (q.ensignStage i).storeSetting e (x.sel 0x702001))) ∧
  (∀ (i : FwImage) (e : Entry) (k : Nat) (q1 : Qf → Qf), Asks (.fwImage · i) 0x07
    (fun q x => q.writeBar x 0x9010 0x01 = .ok e ∧ q.updateBar = 0 ∧
      q.newProgress 7 4 ((imageBytes i).length + 5139) = some (k, q1 q))
    (fun q x => ((inBoot (q1 q) (fun b => { b.putOther none with stageState := 0 })).stageEnd (some k) i).2.storeSetting e
      (x.sel 0x901001))) ∧
  (∀ (s : State) (port : Bool) (o : BitVec 26) (v : BitVec 64), s.qf.hostOn port = true → s.qf.host.active = some port →
    To (.registerWrite (.bar0 port o v)) s (s.qf.bar0Reg port o v))

/-- Sessions open, go on and end (R445, R446, R452, R455, R459, R460): a good handshake opens one; HELLO agrees on a version;
a good BIND establishes it with its role; KEEPALIVE, SUBSCRIBE and EVENT_ACK are answered; an event not acknowledged is sent again;
a write left open for 10 s is discarded; CLOSE, 60 s of silence and an alert end the session, and no other.
Each completes, in every state and with all operands that meet the conditions named: DTLS_HANDSHAKE, AGWEN_HELLO, BIND,
KEEPALIVE, SUBSCRIBE, EVENT_ACK, CLOSE, SESSION_IDLE, DTLS_ALERT, EVENT_REPEAT, SEGMENT_TIMEOUT. -/
def Obligations.SessionCommandsTakeEffect : Prop :=
  (∀ (s : State) (c : DtlsMsg), s.qf.agLive = true → c.suite = 0x1302 → c.group = 0x0018 → c.scheme = 0x0806 →
    c.cookie = true → (Config.chainEnd c.rsaChain).isSome = true → s.qf.session c.session = none →
    To (.dtlsHandshake c) s (inMgmt s.qf (fun m => { m with
      nextCore := !m.nextCore
      sessions := m.sessions ++ [{ id := c.session, core := m.nextCore, rsaChain := c.rsaChain, exporter := c.exporter
                                   v6 := c.v6, last := s.qf.now }] }))) ∧
  (∀ (s : State) (a : AgwenRef) (vs role : BitVec 8) (lo hi : BitVec 16) (x : AgSession) (q : Qf) (v r : Nat),
    Awaits s.qf a x 1 → q = heard s.qf a → (q.mgmt.sessions.filter (fun y => 2 ≤ y.phase)).length < 16 →
    helloChoice vs lo hi = some (v, r) →
    To (.agwenHello a vs lo hi role) s
      ((answered (q.updSession x.id (fun y => { y with phase := 2, version := v, revision := r, wanted := role.toNat })) a 0x01
        [BitVec.ofNat 8 v, BitVec.ofNat 8 r]).endSessions (fun y => y.phase = 0))) ∧
  (∀ (s : State) (a : AgwenRef) (chain sig : List Byte) (x : AgSession) (q : Qf) (r : Nat × AnchorPair),
    Awaits s.qf a x 2 → q = heard s.qf a → Config.mldsaVerify (Config.chainLeaf chain) x.exporter sig = true →
    (Config.chainEnd chain).isSome = true → q.roleAtBind x chain = some r →
    To (.bind a chain sig) s
      ((answered (q.updSession x.id (fun y => { y with
          phase := 3, role := r.1, pair := r.2, selects := []
          service := decide (Config.chainEnd x.rsaChain = some Config.service.1) &&
            decide (Config.chainEnd chain = some Config.service.2) })) a 0x02
        (Config.certs 1 ++ slice (Config.sign 1 x.exporter) 0 4627)).endSessions (fun y => y.phase = 0))) ∧
  Asks .keepalive 0x0B (fun _ _ => True) (fun q _ => q) ∧
  (∀ (mask : BitVec 32), Asks (.subscribe · mask) 0x08 (fun _ _ => mask.toNat ≤ 63)
    (fun q x => q.updSession x.id (fun y => { y with mask := mask }))) ∧
  (∀ (event : BitVec 32), Asks (.eventAck · event) 0x0A (fun _ _ => True)
    (fun q x => q.updSession x.id (fun y => { y with events := y.events.filter (fun e => e.1 != event) }))) ∧
  (∀ (s : State) (a : AgwenRef) (x : AgSession) (q : Qf), Fresh s.qf a x → q = heard s.qf a →
    To (.close a) s ((answered (q.updSession x.id (fun y => { y with phase := 0 })) a 0x0C).endSessions
      (fun y => y.phase = 0))) ∧
  (∀ (s : State) (n : Nat), s.qf.agLive = true →
    To (.sessionIdle n) s (s.qf.endSessions (fun x => x.id = n && decide (x.last + 60000000000 ≤ s.qf.now))) ∧
    To (.dtlsAlert n) s (s.qf.endSessions (fun x => x.id = n))) ∧
  (∀ (s : State) (n : Nat) (x : AgSession) (seq : BitVec 32) (body : List Byte) (t k : Nat), s.qf.agLive = true →
    s.qf.session n = some x → x.events = [(seq, body, t, k)] → t + 200000000 ≤ s.qf.now → k ≤ 5 →
    To (.eventRepeat n) s
      ((inMgmt s.qf (fun m => { m with
        outbox := m.outbox ++ [{ session := x.id, opcode := 0x09, seq := seq, payload := body }] })).updSession n (fun y =>
          { y with events := y.events.map (fun e =>
              if e.2.2.1 + 200000000 ≤ s.qf.now ∧ e.2.2.2 ≤ 5 then (e.1, e.2.1, s.qf.now, e.2.2.2 + 1) else e) }))) ∧
  (∀ (s : State) (n : Nat) (x : AgSession) (g : Segment), s.qf.session n = some x → x.segs = [g] → g.write = true →
    g.last + 10000000000 ≤ s.qf.now →
    To (.segmentTimeout n g.index g.sub) s ((s.qf.endProgress g.progress 3 Status.aborted.code).updSession x.id (fun y =>
      { y with segs := y.segs.filter (fun z => !z.is true g.index g.sub) })))

/-- The management network's events take effect (R443, R444; log 39): a port takes over from one that lost its link and is
announced; a lease gives its address, and takes it away when it expires; queries for the block's own addresses are answered.
Each completes, in every state and with all operands that meet the conditions named: MGMT_PORT_TAKEOVER, MGMT_LINK_UP,
DHCP_LEASE, DHCP_LEASE_EXPIRY, ARP_ND_ICMP_ECHO. -/
def Obligations.ManagementNetworkTakesEffect : Prop :=
  (∀ (s : State) (port : Bool) (up : List Bool), s.qf.agLive = true → s.qf.mgmt.activePort = !port →
    up = setPort s.qf.mgmt.mgUp (!port) false → getPort up port false = true →
    To (.mgmtPortTakeover port) s ((inMgmt s.qf (fun m => { m with mgUp := up, activePort := port })).announce port)) ∧
  (∀ (s : State) (port : Bool) (up : List Bool), s.qf.agLive = true → up = setPort s.qf.mgmt.mgUp port true →
    (getPort up s.qf.mgmt.activePort false = true → To (.mgmtLinkUp port) s (inMgmt s.qf (fun m => { m with mgUp := up }))) ∧
    (getPort up s.qf.mgmt.activePort false = false → To (.mgmtLinkUp port) s
      ((inMgmt s.qf (fun m => { m with mgUp := up, activePort := port })).announce port))) ∧
  (∀ (s : State) (v6 : Bool) (a : List Byte) (n : BitVec 32) (t : Nat), s.qf.agLive = true →
    leases s.qf.mgmt.addrMode v6 = true → t = s.qf.now + n.toNat * 1000000000 →
    To (.dhcpLease v6 a n) s
      (if v6 then inMgmt (s.qf.setIpv6 (slice a 0 33)) (fun m => { m with lease6 := some t })
       else inMgmt (s.qf.setIpv4 (slice a 0 9)) (fun m => { m with lease4 := some t }))) ∧
  (∀ (s : State) (t : Nat), s.qf.agLive = true → t ≤ s.qf.now →
    (s.qf.mgmt.lease6 = some t → To (.dhcpLeaseExpiry true) s
      ((inMgmt s.qf (fun m => { m with lease6 := none })).setIpv6 (List.replicate 33 0))) ∧
    (s.qf.mgmt.lease4 = some t → To (.dhcpLeaseExpiry false) s
      ((inMgmt s.qf (fun m => { m with lease4 := none })).setIpv4 (List.replicate 9 0)))) ∧
  (∀ (s : State) (a : BitVec 32) (b : BitVec 128) (d mac : List Byte), s.qf.agLive = true → a ≠ 0 → b ≠ 0 →
    mac = Config.macOf s.qf.mgmt.activePort →
    (bitsOf 32 (s.qf.mgmt.ipv4.take 4) = a →
      To (.arpNdIcmpEcho (.arp a)) s (inMgmt s.qf (fun m => { m with netOut := m.netOut ++ [3 :: mac ++ bytesOf 4 a] })) ∧
      To (.arpNdIcmpEcho (.echo4 a d)) s (inMgmt s.qf (fun m => { m with netOut := m.netOut ++ [5 :: bytesOf 4 a ++ d] }))) ∧
    (bitsOf 128 (s.qf.mgmt.ipv6.take 16) = b →
      To (.arpNdIcmpEcho (.nd b)) s (inMgmt s.qf (fun m => { m with netOut := m.netOut ++ [4 :: mac ++ bytesOf 16 b] })) ∧
      To (.arpNdIcmpEcho (.echo6 b d)) s (inMgmt s.qf (fun m => { m with netOut := m.netOut ++ [6 :: bytesOf 16 b ++ d] }))))

/-- Suspicion and fencing go on (R415 to R418): heartbeats are sent and heard; a silent neighbour is suspected; a proposal
that is new is forwarded, kept, and voted on where this QF960 suspects the endpoint too; a vote is counted at its proposer; a
vote window ends; a commit fences; an abandoned proposal is dropped.
Each completes, in every state and with all operands that meet the conditions named: FAULT_HEARTBEAT, HEARTBEAT_SEND,
SILENT_NEIGHBOUR, FENCE_PROPOSE, FENCE_VOTE, FENCE_VOTE_WINDOW, FENCE_COMMIT, FENCE_ABANDON. -/
def Obligations.FenceMessagesTakeEffect : Prop :=
  (∀ (s : State) (h : HalfPort) (l : Link) (q : Qf), l = s.qf.link h → s.qf.inService = true → l.live = true →
    l.peerQf = true →
    q = inFlt (s.qf.takeOp h Opc.heartbeat) (fun f => { f with
      heard := f.heard.set l.peerEp.toNat (s.qf.takeOp h Opc.heartbeat).now }) →
    (q.suspects l.peerEp = true → To (.faultHeartbeat h) s q) ∧
    (q.suspects l.peerEp = false → To (.faultHeartbeat h) s
      (inFlt q (fun f => { f with suspected := f.suspected.filter (· != l.peerEp) })))) ∧
  (∀ (s : State) (q : Qf), s.qf.inService = true → s.qf.flt.lastBeat + s.qf.flt.heartbeat.toNat ≤ s.qf.now →
    q = inFlt s.qf (fun f => { f with lastBeat := s.qf.now }) →
    To .heartbeatSend s
      (q.qfNeighbours.foldl (fun q h => q.sendOn .mgmt h (q.mgt Opc.heartbeat (q.link h).peerEp [])) q)) ∧
  (∀ (s : State) (x : Ep), s.qf.inService = true → s.qf.isNeighbour x = true → s.qf.isSilent x = true → x ≠ s.qf.ownEp →
    x ∉ s.qf.flt.fencedEps → x ∉ s.qf.flt.suspected →
    (s.qf.flt.mode = 0 → To (.silentNeighbour x) s
      ((inFlt s.qf (fun f => { f with suspected := f.suspected ++ [x] })).fault 5
        { unit := 9, status := Status.timeout.code, peer := x })) ∧
    (s.qf.flt.mode ≠ 0 → (∀ p ∈ s.qf.flt.proposals, p.suspect = x → s.qf.ownEp.toNat ≤ p.proposer.toNat) →
      To (.silentNeighbour x) s
        (((inFlt s.qf (fun f => { f with
            suspected := f.suspected ++ [x]
            proposals := f.proposals ++ [{ suspect := x, proposer := s.qf.ownEp, opened := s.qf.now, votes := [s.qf.ownEp]
                                           voted := true, mine := true, evidence := 2 }] })).floodFence
          Opc.fencePropose x 2).tally x))) ∧
  (∀ (s : State) (h : HalfPort) (p : Packet) (x : Ep) (q : Qf), Floods s h p x q → x ≠ q.ownEp → q.isNeighbour x = true →
    p.srcEp ≠ q.ownEp → (∀ y ∈ q.flt.proposals, y.suspect = x → y.proposer ≠ q.ownEp ∧ y.proposer ≠ p.srcEp) →
    (q.flt.mode = 0 ∨ q.suspects x = false → To (.fencePropose h p) s (inFlt q (fun f => { f with
      proposals := f.proposals ++ [{ suspect := x, proposer := p.srcEp, opened := q.now
                                     evidence := BitVec.ofNat 4 (fenceUp p.payload) }] }))) ∧
    (∀ (r : Qf), q.flt.mode ≠ 0 → q.suspects x = true → r = inFlt q (fun f => { f with
      proposals := f.proposals ++ [{ suspect := x, proposer := p.srcEp, opened := q.now
                                     evidence := BitVec.ofNat 4 (fenceUp p.payload) }] }) →
      To (.fencePropose h p) s ((r.updProposal x p.srcEp (fun y => { y with voted := true })).vote x p.srcEp true))) ∧
  (∀ (s : State) (p : Packet) (h : HalfPort) (q : Qf) (x : Ep) (y : Proposal), s.qf.inService = true →
    s.qf.stagedAt p = some h →
    (p.destEp ≠ s.qf.ownEp → To (.fenceVote p) s (s.qf.transit (.half h) p)) ∧
    (p.destEp = s.qf.ownEp → q = s.qf.take (.half h) p → x = fenceSuspect p.payload →
      q.flt.proposals.find? (fun y => y.is x q.ownEp) = some y → fenceUp p.payload % 2 = 1 → p.srcEp ∉ y.votes →
      p.srcEp ≠ x → q.now ≤ y.opened + 1000000 →
      To (.fenceVote p) s ((q.updProposal x q.ownEp (fun y => { y with votes := y.votes ++ [p.srcEp] })).tally x))) ∧
  (∀ (s : State) (x by_ : Ep) (y : Proposal) (q : Qf), s.qf.inService = true →
    s.qf.flt.proposals.find? (fun y => y.is x by_) = some y → y.opened + 1000000 ≤ s.qf.now →
    q = inFlt s.qf (fun f => { f with proposals := f.proposals.filter (fun y => !y.is x by_) }) →
    (by_ = s.qf.ownEp → To (.fenceVoteWindow x by_) s (q.floodFence Opc.fenceAbandon x 0)) ∧
    (by_ ≠ s.qf.ownEp → y.voted = false → To (.fenceVoteWindow x by_) s (q.vote x by_ false)) ∧
    (by_ ≠ s.qf.ownEp → y.voted = true → To (.fenceVoteWindow x by_) s q)) ∧
  (∀ (s : State) (h : HalfPort) (p : Packet) (x : Ep) (q : Qf), Floods s h p x q →
    To (.fenceCommit h p) s (q.applyCommit x (decide (fenceUp p.payload % 2 = 1)) (fun _ => false)) ∧
    To (.fenceAbandon h p) s (inFlt q (fun f => { f with proposals := f.proposals.filter (fun y => !y.is x p.srcEp) })))

/-- Faults of the block take effect (R404, R405, R407, R408, R426, R525; Table FAULT-1): a watchdog fails a sector's
pipelines or ends a core's sessions; what runs in a unit that faults fails; an engine that faults powers down and wakes once,
and stays off where the fault recurs; a fault of another unit that recurs is FATAL; an undervoltage or a failed regulator is FATAL; the drain ends; a request times out.
Each completes, in every state and with all operands that meet the conditions named: WATCHDOG, UNIT_FAULT, UNDERVOLTAGE,
REGULATOR_FAILURE, DRAIN_DONE, REQUEST_TIMEOUT. -/
def Obligations.FaultEventsTakeEffect : Prop :=
  (∀ (s : State) (k : Sector) (q : Qf), s.qf.running = true →
    q = s.qf.fault 7 { sector := k, unit := 8, status := Status.timeout.code } →
    To (.watchdog (.sector k)) s ((q.eng.jobs.filter (fun j => j.sector = k && j.started)).foldl
      (fun q j => q.pipeFail j.pair j.wrIndex { status := Status.timeout.code }) q)) ∧
  (∀ (s : State) (c : Bool), s.qf.running = true →
    To (.watchdog (.mgmt c)) s (inMgmt ((s.qf.fault 7 { unit := 9, detail := BitVec.ofNat 16 (b2n c) }).endSessions
      (fun x => x.core = c)) (fun m => { m with nextCore := !c }))) ∧
  (∀ (s : State) (k : Sector) (u : UnitCode) (i : BitVec 4) (n d : Nat) (f : FaultInfo) (q r : Qf), s.qf.running = true →
    n = (k.toNat * 16 + u.toNat) * 16 + i.toNat →
    q = inFlt s.qf (fun f => { f with
      unitTimes := (f.unitTimes.filter (fun (t : Nat × Nat) => t.1 != n)) ++ [(n, s.qf.now)] }) →
    f = { sector := k, unit := u, status := Status.uncorrectable.code, detail := i.zeroExtend 16 } →
    d = 5 * k.toNat + u.toNat - 3 → r = (q.fault 8 f).failUnit k u i →
    (4 ≤ u.toNat → u.toNat ≤ 7 → (∀ t ∈ s.qf.flt.unitTimes, t.1 = n → t.2 + 1000000000 < s.qf.now) → r.domainOn d = true →
      To (.unitFault k u i) s (inPwr r (fun w => { w with
        domain := w.domain.set d 1, waking := w.waking.set d r.now }))) ∧
    (4 ≤ u.toNat → u.toNat ≤ 7 → (∃ t ∈ s.qf.flt.unitTimes, t.1 = n ∧ s.qf.now ≤ t.2 + 1000000000) → d ∉ r.pwr.offByFault →
      To (.unitFault k u i) s (inPwr r (fun w => { w with
        domain := w.domain.set d 0, waking := w.waking.del d, offByFault := w.offByFault ++ [d] }))) ∧
    (u.toNat ≤ 3 ∨ u = 8 → (∃ t ∈ s.qf.flt.unitTimes, t.1 = n ∧ s.qf.now ≤ t.2 + 1000000000) →
      To (.unitFault k u i) s (q.fatal 8 f)) ∧
    (u.toNat ≤ 3 ∨ u = 8 → (∀ t ∈ s.qf.flt.unitTimes, t.1 = n → t.2 + 1000000000 < s.qf.now) →
      To (.unitFault k u i) s r) ∧
    (9 ≤ u.toNat → u.toNat ≤ 12 → To (.unitFault k u i) s r)) ∧
  (∀ (s : State) (q : Qf), s.qf.boot.phase ≠ .off → s.qf.pwr.failState = 0 →
    q = inDbg (inPwr s.qf (fun w => { w with inputUp := false })) (fun d => { d with squalled := false }) →
    To .undervoltage s ((q.fatalBut 9 { unit := 11 } s.qf.drainLink).powerFail)) ∧
  (∀ (s : State) (d : BitVec 7), s.qf.zenithOn = true → s.qf.pwr.failState = 0 → d.toNat < domainCount →
    To (.regulatorFailure d) s (s.qf.fatal 9 { unit := 11, detail := d.zeroExtend 16 })) ∧
  (∀ (s : State) (q : Qf), s.qf.pwr.failState = 1 → s.qf.protectedPending = 0 →
    q = (inPwr s.qf (fun w => { w with
      failState := 2, lastDrainTime := BitVec.ofNat 64 (s.qf.now - w.t0)
      lastDrainBytes := BitVec.ofNat 64 w.drainBytes })).sessionEvent 3 [2] →
    To .drainDone s q.heldReset ∧
    (s.qf.pwr.resetHeld = false → To .drainDone s q)) ∧
  (∀ (s : State) (src : Ep) (tag : Tag) (r : OpenReq) (h : HalfPort) (q : Qf), s.qf.inService = true → src ≠ s.qf.ownEp →
    s.qf.edge.reqs.find? (fun r => r.src = src && r.tag = tag) = some r →
    r.sentAt + s.qf.flt.requestTimeout.toNat ≤ s.qf.now → r.ing = .half h → 
    q = (s.qf.resolved r Status.timeout.code).restale →
    To (.requestTimeout src tag) s
      ((fun (q : Qf) => q.sendOn (unitOf (halfSector h)) h
          (q.reply r.orig (if r.sent.opcode = Opc.pennant then Opc.pennantDone else Opc.fail) Status.timeout.code))
        (inEdge (q.fault 5 { sector := halfSector h, unit := 0, status := Status.timeout.code, tenant := r.sent.tenant
                             peer := r.sent.destEp, addr := q.redact r.sent.world r.sent.tenant r.sent.addr
                             detail := r.sent.opcode.zeroExtend 16 })
          (fun e => { e with expired := e.expired ++ [(src, tag)] }))))

/-- Authorisations end and meters run on (R389, R400, R434, R436, R437, R440): the attestation's key and a debug
authorisation expire; a sector's accumulators are sent at each 100 us and taken into the interval; an interval closes with its
record, the last one at a power fail goes to the final area.
Each completes, in every state and with all operands that meet the conditions named: EPHEMERAL_KEY_EXPIRY, DEBUG_EXPIRY,
METER_TAP_FLUSH, METER_TAP, INTERVAL_END, ENSIGN_FINAL_RECORD. -/
def Obligations.MeterEventsTakeEffect : Prop :=
  (∀ (s : State), s.qf.running = true → s.qf.sec.ephemeralUntil ≤ s.qf.now →
    To .ephemeralKeyExpiry s (inSec s.qf (fun c => { c with nonce := none }))) ∧
  (∀ (s : State), s.qf.running = true → s.qf.sec.debugUntil ≠ 0 → s.qf.sec.debugUntil.toNat ≤ s.qf.now →
    To .debugExpiry s (inSec s.qf (fun c => { c with debugUntil := 0 }))) ∧
  (∀ (s : State) (k : Sector), s.qf.zenithOn = true → s.qf.dbg.squalled = false → s.qf.pwr.failState = 0 →
    s.qf.ens.flushed.get k.toNat 0 ≠ tapPeriod s.qf.now →
    To (.meterTapFlush k) s
      ((inEns s.qf (fun e => { e with flushed := e.flushed.set k.toNat (tapPeriod s.qf.now) })).tapFlush k)) ∧
  (∀ (s : State) (k : Sector) (r : BitVec 256), s.qf.ensignUp = true → s.qf.ens.taps.find? (fun x => x.1 = k) = some (k, r) →
    tapTime r < s.qf.ens.intervalEnd →
    To (.meterTap k) s
      ((inEns s.qf (fun e => ({ e with taps := dropFirst (fun y => y.1 = k) e.taps } : Ensign).takeTap r)).tapOwed k)) ∧
  (∀ (s : State), s.qf.ensignUp = true → s.qf.ens.intervalEnd ≤ s.qf.now →
    To .intervalEnd s ((s.qf.closeInterval s.qf.ens.intervalEnd 0).2.logRecord
      (s.qf.closeInterval s.qf.ens.intervalEnd 0).1)) ∧
  (∀ (s : State) (x : (BitVec 64 × List Byte) × Qf), s.qf.pwr.failState ≠ 0 → s.qf.ens.finalArea = none →
    s.qf.pwr.t0 + 5000 ≤ s.qf.now → x = s.qf.closeInterval (s.qf.pwr.t0 + 5000) 2 →
    To .ensignFinalRecord s (inEns x.2 (fun e => { e with finalArea := some x.1 })))

/-- Commands of the host's registers and memory windows take effect through the active port (R36, R377, R467 to R472, R476):
a tenant record is written and its cached entries go; BAR2 reads and writes bytes; doorbells and configurations of a manager
queue and of the event queue are taken; a takeover makes its port active under the next generation.
Each completes, in every state and with all operands that meet the conditions named: TENANT_RECORD, BAR2_ACCESS, MQ_DOORBELL,
MQ_CONFIG, EQ_DOORBELL, HOST_TAKEOVER. -/
def Obligations.HostRegistersTakeEffect : Prop :=
  (∀ (s : State) (port : Bool) (t : Tenant) (v : BitVec 64) (q : Qf), s.qf.hostOn port = true → s.qf.host.active = some port →
    s.qf.dbg.squalled = false → q = inEdge s.qf (fun e => { e with
      records := e.records.set t.toNat (v &&& 0xFFFFFFFFFFFFFFC0), cache := e.cache.filter (fun c => c.tenant != t) }) →
    (recEnable v = true → To (.tenantRecord port t v) s q) ∧
    (recEnable v = false → (∀ x ∈ q.qps.qps, x.2.ctx.tenant = t → x.2.ctx.state ≠ .ready) → To (.tenantRecord port t v) s q) ∧
    (∀ (n : Nat) (x : Qp), recEnable v = false → q.qps.qps = [(n, x)] → x.ctx.tenant = t → x.ctx.state = .ready →
      To (.tenantRecord port t v) s
        ((q.qpError (BitVec.ofNat 30 n) Status.accessViolation.code).settleQp (BitVec.ofNat 30 n)))) ∧
  (∀ (s : State) (port : Bool) (o : BitVec 36) (n : Nat), s.qf.hostOn port = true → s.qf.dbg.squalled = false →
    (0x80000000 ≤ o.toNat → o.toNat + n ≤ 0x2C0000000 → To (.bar2Access port o (.read n)) s
      (inHost s.qf (fun h => { h with readData := (List.range n).map (fun i => s.qf.sysRead (o.toNat + i)) }))) ∧
    (o.toNat < 0x80000000 ∨ 0x2C0000000 < o.toNat + n → To (.bar2Access port o (.read n)) s
      (inHost (inSec s.qf (fun c => { c with bar2Refused := c.bar2Refused + 1 })) (fun h => { h with
        readData := List.replicate n 0xFF })))) ∧
  (∀ (s : State) (port : Bool) (o : BitVec 36) (bs : List Byte), s.qf.hostOn port = true → s.qf.host.active = some port →
    s.qf.dbg.squalled = false →
    (0x80000000 ≤ o.toNat → o.toNat + bs.length ≤ 0x280000000 → To (.bar2Access port o (.write bs)) s
      (inEdge { s.qf with sys := Mem.putAll s.qf.sys o.toNat bs } (fun e => { e with
        worn := e.worn.filter (fun b => !(decide (b < o.toNat + bs.length) && decide (o.toNat < b + 16)))
        cache := e.cache.filter (fun c =>
          !(decide (recBase (s.qf.tenantRec c.tenant) + 16 * c.ven.toNat < o.toNat + bs.length) &&
            decide (o.toNat < recBase (s.qf.tenantRec c.tenant) + 16 * c.ven.toNat + 16))) }))) ∧
    (o.toNat < 0x80000000 ∨ 0x280000000 < o.toNat + bs.length → To (.bar2Access port o (.write bs)) s
      (inSec s.qf (fun c => { c with bar2Refused := c.bar2Refused + 1 })))) ∧
  (∀ (s : State) (port : Bool) (k : BitVec 3) (v : BitVec 64), s.qf.hostOn port = true → s.qf.host.active = some port →
    (∀ (q : Qf), q = s.qf.updMq port k (fun m => { m with cmdProducer := fld v 48 16, cplConsumer := fld v 32 16 }) →
      To (.mqDoorbell port k v) s (Qf.drainCpl port k ((q.mq port k).waiting.length + 1) q)) ∧
    (∀ (c : BitVec 64), c = v &&& 0xFFFFF80000000000 → cfgEnable (s.qf.mq port k).config = false → cfgSizesOk c = true →
      (cfgEnable c = true → To (.mqConfig port k v) s (s.qf.updMq port k (fun m => { m with
        config := c, state := .running, errorStatus := 0
        cmdProducer := 0, cmdConsumer := 0, cplProducer := 0, cplConsumer := 0 }))) ∧
      (cfgEnable c = false → To (.mqConfig port k v) s (s.qf.updMq port k (fun m => { m with
        config := c, state := .off, fullSince := none })))) ∧
    (cfgEnable (s.qf.mq port k).config = true → cfgEnable v = false → cfgSizesOk (s.qf.mq port k).config = true →
      To (.mqConfig port k v) s (s.qf.updMq port k (fun m => { m with
        config := m.config &&& ~~~((1 : BitVec 64) <<< 63), state := .off, fullSince := none }))) ∧
    (∀ (q : Qf), q = inHost s.qf (fun h => { h with eqConsumer := setPort h.eqConsumer port (fld v 48 16) }) →
      To (.eqDoorbell port v) s (Qf.drainEvents (s.qf.host.waitingEvents.length + 1) q))) ∧
  (∀ (s : State) (port : Bool) (v : BitVec 64), s.qf.hostOn port = true → fld v 0 32 = s.qf.host.generation →
    s.qf.unstarted = [] → (∀ x ∈ s.qf.host.mqs, x.2.waiting = []) →
    To (.hostTakeover port v) s
      (inHost { s.qf with
          pool := { s.qf.pool with waiting := [] }, qps := { s.qf.qps with waiting := [] }, cum := { s.qf.cum with later := [] } } (fun h => { h with
        active := some port, generation := h.generation + 1
        mqs := h.mqs.map (fun x => (x.1, { x.2 with
          state := .off, waiting := [], fullSince := none, config := x.2.config &&& ~~~((1 : BitVec 64) <<< 63) }))
        fetched := h.fetched.filter (fun f => f.started) })))

/-- The manager queues run (R463, R472, R475): a command is fetched from a ring that holds one, a failed fetch puts the queue
in ERROR; NOP completes; a completion ring full for 1 s stops its queue; a progress object is freed at its time.
Each completes, in every state and with all operands that meet the conditions named: COMMAND_FETCH, NOP, COMPLETION_RING_FULL,
PROGRESS_FREE. -/
def Obligations.ManagerQueuesTakeEffect : Prop :=
  (∀ (s : State) (k : BitVec 3) (p : Bool) (x : Mq) (q : Qf), s.qf.host.active = some p → x = s.qf.mq p k →
    s.qf.mgrLive = true → x.state = .running → x.cmdProducer ≠ x.cmdConsumer →
    To (.commandFetch k none) s (s.qf.updMq p k (fun m => { m with state := .error, errorStatus := Status.linkDown.code })) ∧
    (∀ (w : BitVec 1024) (f : Fetched),
      f = { port := p, queue := k, index := x.cmdConsumer, words := w, generation := s.qf.host.generation } →
      q = inHost (s.qf.updMq p k (fun m => { m with cmdConsumer := m.cmdConsumer + 1 })) (fun h => { h with
        fetched := h.fetched ++ [f] }) →
      (fld w 0 8 ∈ mgrOpcodes → To (.commandFetch k (some w)) s q) ∧
      (fld w 0 8 ∉ mgrOpcodes → To (.commandFetch k (some w)) s (q.complete (refOf f) (fld w 0 8) .unsupportedVersion)))) ∧
  (∀ (s : State) (m : MgrRef), MgrReady s.qf m → To (.nop m) s ((started s m).complete m 0x01 .ok)) ∧
  (∀ (s : State) (p : Bool) (k : BitVec 3) (t : Nat), s.qf.mgrLive = true → (s.qf.mq p k).state = .running →
    (s.qf.mq p k).fullSince = some t → t + 1000000000 ≤ s.qf.now →
    To (.completionRingFull p k) s (s.qf.updMq p k (fun m => { m with state := .error, errorStatus := Status.timeout.code }))) ∧
  (∀ (s : State) (n : BitVec 10) (p : Progress), s.qf.mgmt.progress.find? n.toNat = some p → p.state ≠ 0 →
    (∃ t, p.readFinal = some t ∧ t + 60000000000 ≤ s.qf.now) ∨
      (p.readFinal = none ∧ ∃ t, p.ended = some t ∧ t + 600000000000 ≤ s.qf.now) →
    To (.progressFree n) s (inMgmt s.qf (fun m => { m with progress := m.progress.del n.toNat })))

/-- The clock's events take effect (R480, R482 to R485): a time request goes to the parent each interval, and without a live
parent the block is in HOLDOVER; a second's edge corrects the counter, and its loss is seen after 1.1 s; the output rises at
each whole second and falls 1 ms later.
Each completes, in every state and with all operands that meet the conditions named: TIME_SYNC, PPS_IN, PPS_IN_LOST, PPS_OUT. -/
def Obligations.ClockEventsTakeEffect : Prop :=
  (∀ (s : State) (h : HalfPort) (l : Link) (c : TimeMsg), s.qf.timeParent = some h → l = s.qf.link h → s.qf.running = true →
    (l.timed = false → To .timeSync s (inObs s.qf (fun o => { o with timeState := 3, good := 0 }))) ∧
    (l.timed = true → (l.state = .creditInit → s.qf.obs.lastSync < l.since ∨ s.qf.obs.lastSync = 0) →
      (l.state ≠ .creditInit → s.qf.obs.lastSync + s.qf.obs.syncInterval.toNat ≤ s.qf.now) →
      c = { kind := 1, seq := s.qf.obs.exchSeq + 1, t1 := stamp80 s.qf.now } →
      To .timeSync s ((inObs s.qf (fun o => { o with
        exchSeq := c.seq, reqT1 := some c.t1, lastSync := s.qf.now })).sendTime h c))) ∧
  (∀ (s : State) (stamp : BitVec 64) (near : Nat), s.qf.running = true → s.qf.timeParent = none → s.qf.obs.ppsIn = true →
    near = (stamp.toNat + 500000000) / 1000000000 * 1000000000 →
    To (.ppsIn stamp) s ((inObs s.qf (fun o => { o with
      ppsLast := some s.qf.now, ppsState := 1
      timeState := if s.qf.part.booted then 4 else o.timeState })).correct ((near - stamp.toNat : Int) * nsTheta))) ∧
  (∀ (s : State) (t : Nat), s.qf.running = true → s.qf.obs.ppsIn = true → s.qf.obs.ppsState = 1 →
    s.qf.obs.ppsLast = some t → t + 1100000000 ≤ s.qf.now →
    To .ppsInLost s (inObs s.qf (fun o => { o with ppsState := 2, timeState := 3 }))) ∧
  (∀ (s : State), s.qf.clockRuns = true →
    (s.qf.obs.ppsHigh = none → s.qf.obs.ppsOut = true → s.qf.now % 1000000000 < 1000000 →
      To .ppsOut s (inObs s.qf (fun o => { o with ppsHigh := some (s.qf.now / 1000000000 * 1000000000) }))) ∧
    (∀ t, s.qf.obs.ppsHigh = some t → t + 1000000 ≤ s.qf.now →
      To .ppsOut s (inObs s.qf (fun o => { o with ppsHigh := none }))))

/-- The test port answers and changes nothing but the debug state, and Squall freezes the block (R488, R490 to R493): SQUALL
from the port or a packet; each instruction of the port; a private instruction acts where TAP_ENABLE is set and the identity
is up, and as BYPASS elsewhere.
Each completes, in every state and with all operands that meet the conditions named: SQUALL_PACKET, SQUALL, SCAN_SELECT,
SCAN_READ, IDCODE, BYPASS, SAMPLE_PRELOAD, EXTEST. -/
def Obligations.DebugPortCommandsTakeEffect : Prop :=
  (∀ (s : State) (h : HalfPort) (p : Packet), s.qf.running = true → (s.qf.link h).live = true →
    ((took s (.half h) p).dbg.accept = true → To (.squallPacket h p) s ((took s (.half h) p).squall 4)) ∧
    ((took s (.half h) p).dbg.accept = false → To (.squallPacket h p) s (took s (.half h) p))) ∧
  (∀ (s : State) (q : Qf), s.qf.boot.phase ≠ .off → s.qf.boot.phase ≠ .secFail → s.qf.dbg.tapEnable = true →
    (q = inDbg s.qf (fun d => { d with tapIr := 0x10 }) → q.running = true → To (.squall true) s (q.squall 2)) ∧
    To (.squall false) s (inDbg s.qf (fun d => { d with tapIr := 0x10 })) ∧
    (∀ chain, To (.scanSelect chain) s (inDbg s.qf (fun d => { d with tapIr := 0x11, tapChain := chain }))) ∧
    (s.qf.dbg.squalled = true → s.qf.dbg.tapChain.toNat < 48 → To .scanRead s (inDbg s.qf (fun d => { d with
      tapIr := 0x12, tapOut := (inDbg s.qf (fun d => { d with tapIr := 0x12 })).scanBytes d.tapChain.toNat }))) ∧
    (s.qf.dbg.squalled = false ∨ 48 ≤ s.qf.dbg.tapChain.toNat →
      To .scanRead s (inDbg s.qf (fun d => { d with tapIr := 0x12, tapOut := [] })))) ∧
  (∀ (s : State), s.qf.boot.phase ≠ .off → s.qf.dbg.tapEnable = false ∨ s.qf.boot.phase = .secFail →
    To (.squall true) s (inDbg s.qf (fun d => { d with tapIr := 0x10, bypass := false, tapOut := [] })) ∧
    (∀ chain, To (.scanSelect chain) s (inDbg s.qf (fun d => { d with tapIr := 0x11, bypass := false, tapOut := [] }))) ∧
    To .scanRead s (inDbg s.qf (fun d => { d with tapIr := 0x12, bypass := false, tapOut := [] }))) ∧
  (∀ (s : State) (v : BitVec 64), s.qf.boot.phase ≠ .off →
    To .idcode s (inDbg s.qf (fun d => { d with tapIr := 0x02, tapOut := bytesOf 4 idcodeWord })) ∧
    To .bypass s (inDbg s.qf (fun d => { d with tapIr := 0xFF, bypass := false, tapOut := [] })) ∧
    (s.qf.boot.phase ≠ .secFail → To (.samplePreload v) s (inDbg s.qf (fun d => { d with
      tapIr := 0x01, boundary := v, tapOut := bytesOf 8 d.boundary }))) ∧
    (s.qf.boot.phase ≠ .secFail → s.qf.part.booted = false → To (.extest v) s (inDbg s.qf (fun d => { d with
      tapIr := 0x00, boundary := v, tapOut := bytesOf 8 d.boundary }))) ∧
    (s.qf.boot.phase = .secFail ∨ s.qf.part.booted = true → To (.extest v) s (inDbg s.qf (fun d => { d with
      tapIr := 0x00, bypass := false, tapOut := [] }))))

/-- Snapshots and counter pages are taken (R487, R494 to R496): a HORIZON message that is new is forwarded and arms an idle
block; the capture is latched at its time, or at once while squalled, and is then ready; a tenant's page is written once in
each millisecond.
Each completes, in every state and with all operands that meet the conditions named: HORIZON, HORIZON_LATCH, HORIZON_READY,
COUNTER_PAGE. -/
def Obligations.SnapshotEventsTakeEffect : Prop :=
  (∀ (s : State) (h : HalfPort) (p : Packet) (q : Qf) (o : Ep) (n : BitVec 32) (th : Nat), s.qf.inService = true →
    (s.qf.link h).peerQf = true → horizonOf p = (o, n, th) →
    ((o, n) ∈ (took s (.half h) p).dbg.hzSeen → To (.horizon h p) s (took s (.half h) p)) ∧
    ((o, n) ∉ (took s (.half h) p).dbg.hzSeen →
      q = (inDbg (took s (.half h) p) (fun d => { d with hzSeen := d.hzSeen ++ [(o, n)] })).flood Opc.horizon p.srcEp
        p.payload (some h) →
      (q.dbg.hzState = 0 → To (.horizon h p) s (q.hzArm o n th true)) ∧
      (q.dbg.hzState ≠ 0 → To (.horizon h p) s q))) ∧
  (∀ (s : State), s.qf.dbg.hzState = 1 → s.qf.clockRuns = true → s.qf.dbg.squalled = true ∨ s.qf.dbg.hzTh.toNat ≤ s.qf.now →
    To .horizonLatch s (s.qf.hzLatch false)) ∧
  (∀ (s : State), s.qf.dbg.hzState = 2 → s.qf.clockRuns = true →
    To .horizonReady s (inDbg s.qf (fun d => { d with hzState := 3 }))) ∧
  (∀ (s : State) (t : Tenant) (a : BitVec 64) (ms : Nat) (q : Qf) (x : Option Status × Qf), s.qf.inService = true →
    a = s.qf.obs.pages.get t.toNat 0 → a ≠ 0 → ms = s.qf.now / 1000000 → s.qf.obs.pageAt.get t.toNat 0 ≠ ms →
    q = inEdge (inObs s.qf (fun o => { o with pageAt := o.pageAt.set t.toNat ms })) (fun e => { e with
      nextMsg := e.nextMsg + 1 }) →
    x = q.engWrite { sector := 0, tenant := t, stream := streamOf 3 0 } (.counterPage t) 0 a.toNat
      (lineBytes (BitVec.ofNat 512 (packHi [(64, ms * 1000000), (64, s.qf.coarse t 0), (64, s.qf.coarse t 1),
        (64, s.qf.coarse t 2), (256, 0)]))) { msgId := s.qf.edge.nextMsg, totalLen := 64 } →
    (x.1 = none → To (.counterPage t) s x.2) ∧ (x.1 ≠ none → To (.counterPage t) s (x.2.pageFailed t)))

/-- Bring-up and resets take effect (R503, R504, R507 to R512, R518, R525, R526): power comes up; reset is released; REDUCED
and FULL are entered; stacks and Cumulus units report; the partition boots; a self-reset and RESET_N reset the block, at once or
once it has drained; PERST_N holds a host port; the input is lost.
Each completes, in every state and with all operands that meet the conditions named: POWER_UP, RESET_RELEASE, REDUCED_SERVICE,
STACK_RETRAIN, CUMULUS_SELF_TEST, FULL_SERVICE, PARTITION_BOOT, SELF_RESET, RESET_N, PERST_N, INPUT_LOSS. -/
def Obligations.BringUpTakesEffect : Prop :=
  (∀ (s : State), (s.qf.boot.phase = .off → To .powerUp s s.qf.coldStart) ∧
    (s.qf.boot.phase ≠ .off → To .powerUp s (inPwr s.qf (fun w => { w with inputUp := true })))) ∧
  (∀ (s : State) (q : Qf), s.qf.boot.phase = .holding → s.qf.pwr.resetLow = false → s.qf.pwr.failState = 0 →
    q = (s.qf.stepClock 0).beginInterval →
    To .resetRelease s ((inPwr (inBoot q (fun b => { b with phase := .starting, releaseAt := 0 })) (fun w => { w with
      domain := allOn, waking := [], testDue := 10000000000, lastThermal := 0 })).loadSettings)) ∧
  (∀ (s : State), s.qf.boot.phase = .starting → s.qf.dbg.squalled = false → s.qf.pwr.failState = 0 →
    To .reducedService s (inHost (inBoot s.qf (fun b => { b with phase := .reduced, stackRate := List.replicate 8 1 }))
      (fun h => { h with ready := s.qf.pwr.perst.map (fun b => !b) }))) ∧
  (∀ (s : State) (k : Sector) (good : Bool), s.qf.boot.phase = .reduced → s.qf.dbg.squalled = false →
    To (.stackRetrain k good) s (inBoot s.qf (fun b => { b with
      stackRate := b.stackRate.set k.toNat (if good then 2 else 1) })) ∧
    To (.cumulusSelfTest k good) s (inBoot s.qf (fun b => { b with
      selfTest := b.selfTest.set k.toNat (if good then 1 else 2) }))) ∧
  (∀ (s : State) (q : Qf), s.qf.boot.phase = .reduced → s.qf.dbg.squalled = false →
    (∀ r ∈ s.qf.boot.stackRate, r = 2) → (∀ r ∈ s.qf.boot.selfTest, r = 1) →
    (∀ h ∈ allHalves, (s.qf.link h).settled = true) →
    q = inCum (inBoot s.qf (fun b => { b with phase := .full, releaseTime := s.qf.obs.zenith })) (fun c => { c with
      canonical := true }) → s.qf.boot.stackRate.length = 8 → To .fullService s q) ∧
  (∀ (s : State) (m : MgrRef) (pt : BitVec 8) (ep epoch count : BitVec 16) (cs : List (BitVec 32)) (fs : List Byte)
    (rs : List (BitVec 64)) (gs : List (BitVec 128)) (ms : List (BitVec 64)) (z q : Qf) (b : Bank), MgrReady s.qf m →
    bootArgsOk pt ep count cs fs rs gs ms = true → s.qf.boot.phase ≠ .starting → s.qf.part.booted = false →
    b = { label := epoch, routes := writeTable [] 0 rs, groups := writeTable [] 0 gs } →
    z = allHalves.foldl (fun q h => q.lowerLink h 9) (started s m).zeroSystem.slicesOn →
    q = { z with
      sw := { z.sw with current := b, previous := none, pending := { b with label := epoch + 1 } }
      flt := { z.flt with mode := 1 }
      part := { booted := true, id := fld pt 0 6, ep := fld ep 0 14, kinds := kindsOf cs, fences := fencesOf cs fs
                masks := ms.map (fun x => fld x 0 34), epoch := epoch, advancedAt := z.now, bootCmd := some m } } →
    (q.timeParent.isSome = true → To (.partitionBoot m pt ep epoch count cs fs rs gs ms) s q) ∧
    (q.timeParent = none → To (.partitionBoot m pt ep epoch count cs fs rs gs ms) s
      ((inPart (inObs q (fun o => { o with timeState := 4 })) (fun p => { p with
        timeTaken := true, bootCmd := none })).complete m 0x28 .ok))) ∧
  (∀ (s : State) (t : Nat), s.qf.boot.resetAt = some t → t ≤ s.qf.now → To .selfReset s s.qf.wholeReset.secureBoot) ∧
  (∀ (s : State) (q : Qf), q = inPwr s.qf (fun w => { w with resetLow := true }) → s.qf.boot.phase ≠ .off →
    s.qf.boot.phase ≠ .secFail →
    (s.qf.pwr.failState = 0 → To (.resetN true) s q.wholeReset) ∧
    (s.qf.pwr.failState = 1 → To (.resetN true) s (inPwr q (fun w => { w with resetHeld := true }))) ∧
    (s.qf.pwr.failState = 2 → s.qf.pwr.inputUp = true → To (.resetN true) s q.wholeReset)) ∧
  (∀ (s : State) (q : Qf), q = inPwr s.qf (fun w => { w with resetLow := false }) → s.qf.pwr.resetLow = true →
    (s.qf.boot.phase = .holding → s.qf.pwr.failState = 0 → To (.resetN false) s q.secureBoot) ∧
    (s.qf.boot.phase ≠ .holding → To (.resetN false) s q)) ∧
  (∀ (s : State) (port : Bool),
    To (.perstN port true) s (inHost (inPwr s.qf (fun w => { w with perst := setPort w.perst port true })) (fun h => { h with
      ready := setPort h.ready port false })) ∧
    (s.qf.boot.phase = .reduced ∨ s.qf.boot.phase = .full → s.qf.pwr.failState = 0 →
      To (.perstN port false) s (inHost (inPwr s.qf (fun w => { w with perst := setPort w.perst port false })) (fun h => { h with
        ready := setPort h.ready port true })))) ∧
  (∀ (s : State), To .inputLoss s s.qf.powerOff)

/-- The module's power and temperature events take effect (R27, R528, R529, R534, R536): a hold-up test starts when it is due
and ends with its result; an idle engine's domain powers down, one with work left stays on, and one that wakes runs what waits; a thermal sample sets the
state, records a change, and fences the block at its limit.
Each completes, in every state and with all operands that meet the conditions named: HOLDUP_TEST, HOLDUP_TEST_END,
DOMAIN_POWER_DOWN, DOMAIN_WAKE, THERMAL_SAMPLE. -/
def Obligations.PowerEventsTakeEffect : Prop :=
  (∀ (s : State), s.qf.zenithOn = true → s.qf.pwr.testSince = none → s.qf.pwr.testDue ≤ s.qf.now → s.qf.pwr.failState = 0 →
    To .holdupTest s
      (if 45000 ≤ s.qf.senses.2.1 then inPwr s.qf (fun w => { w with
        isolateLow := true, testSince := some s.qf.now, testDue := s.qf.now + w.holdupInterval.toNat })
       else inPwr s.qf (fun w => { w with testDue := s.qf.now + 10000000000 }))) ∧
  (∀ (s : State) (t charge droop : Nat), s.qf.pwr.testSince = some t → t + 200000 ≤ s.qf.now ∨ 2000 ≤ droop → 0 < droop →
    To (.holdupTestEnd charge droop) s (inPwr s.qf (fun w => { w with
      isolateLow := false, testSince := none, holdupLast := s.qf.obs.zenith
      holdupUf := BitVec.ofNat 32 (1000 * charge / droop)
      holdupHealth := BitVec.ofNat 8 (min 100 (16 * charge / (3 * droop))) }))) ∧
  (∀ (s : State) (d : BitVec 7), engineDomain d.toNat = true → s.qf.pwr.enable.get d.toNat true = false →
    s.qf.pwr.domain.get d.toNat 0 = 2 ∨ s.qf.pwr.domain.get d.toNat 0 = 3 →
    (s.qf.unitIdle d.toNat = true → To (.domainPowerDown d) s (inPwr s.qf (fun w => { w with
      domain := w.domain.set d.toNat 0, waking := w.waking.del d.toNat }))) ∧
    (s.qf.unitIdle d.toNat = false → To (.domainPowerDown d) s ((inPwr s.qf (fun w => { w with
      domain := w.domain.set d.toNat 2, waking := w.waking.del d.toNat })).runUnit d.toNat))) ∧
  (∀ (s : State) (d : BitVec 7), engineDomain d.toNat = true → s.qf.pwr.domain.get d.toNat 0 = 1 →
    s.qf.domainOn (sliceOf d.toNat) = true →
    s.qf.pwr.waking.get d.toNat 0 + 20000 ≤ s.qf.now → s.qf.running = true → s.qf.pwr.failState = 0 →
    To (.domainWake d) s ((inPwr s.qf (fun w => { w with
      domain := w.domain.set d.toNat 2, waking := w.waking.del d.toNat })).runUnit d.toNat)) ∧
  (∀ (s : State) (die : BitVec 16) (ts : List (BitVec 16)) (st : Nat) (q : Qf), s.qf.zenithOn = true →
    s.qf.pwr.lastThermal + 1000000 ≤ s.qf.now → s.qf.pwr.thermal ≠ 2 → s.qf.pwr.failState = 0 →
    st = thermalNext s.qf.pwr.thermal s.qf.pwr.tjThrottle.toNat die.toNat (hottest ts) →
    q = inPwr s.qf (fun w => { w with
      tjMax := die, stackMax := BitVec.ofNat 16 (hottest ts), lastThermal := s.qf.now, thermal := st
      throttleTime := w.throttleTime + (if w.thermal = 1 then s.qf.now - w.lastThermal else 0)
      stackHot := hotStacks w.stackHot ts, refreshDouble := warmStacks ts }) →
    (st = s.qf.pwr.thermal → To (.thermalSample die ts) s q) ∧
    (st ≠ s.qf.pwr.thermal → st ≠ 2 → To (.thermalSample die ts) s (q.fault 10 { unit := 11 })) ∧
    (st = 2 → To (.thermalSample die ts) s ((q.fatalBut 10 { unit := 11 } q.drainLink).powerFail)))

/-- Events wait while the ring of the active port is full or disabled: up to 4,096 of them; beyond that they are dropped and
counted in EVENTS_LOST; once room returns and none waits, one EVENTS_LOST event follows. -/
def Obligations.EventsWaitUpTo4096 : Prop :=
  (∀ (q : Qf) (kind : Nat) (st : BitVec 8) (n wr : BitVec 16) (ep : Ep) (d : Nat),
    (∀ p, q.host.active = some p → q.eventRoom p = false) →
    (q.host.waitingEvents.length < 4096 → q.event kind st n wr ep d = inHost q (fun h => { h with
      waitingEvents := h.waitingEvents ++ [eventEntry kind st n wr ep q.now d] })) ∧
    (4096 ≤ q.host.waitingEvents.length → q.event kind st n wr ep d = inHost q (fun h => { h with
      eventsLost := h.eventsLost + 1, lostReport := h.lostReport + 1 }))) ∧
  (∀ (q : Qf) (p : Bool) (k : Nat), q.host.active = some p → q.eventRoom p = true → q.host.waitingEvents = [] →
    (q.host.lostReport ≠ 0 → q.drainEvents (k + 1) =
      (inHost q (fun h => { h with lostReport := 0 })).writeEvent p (eventEntry 6 0 0 0 0 q.now q.host.lostReport)) ∧
    (q.host.lostReport = 0 → q.drainEvents (k + 1) = q))

/-- A session's role decides what it reads and writes (R447, Table MGMT-1): where it may not, the request is answered
ACCESS_VIOLATION with detail 1 and changes nothing else; no session but the owner's writes an entry of world S below 0xF000,
and none but the owner's and an authorised debugger's reads one. -/
def Obligations.RightsAreChecked : Prop :=
  (∀ (s : State) (a : AgwenRef) (x : AgSession) (e : Entry) (index : BitVec 16) (sub : BitVec 8) (v w : List Byte)
    (o : BitVec 64) (fin : Bool), Fresh s.qf a x → (heard s.qf a).entryFor x index sub = some e →
    (mayWrite x e = false →
      To (.agwenWrite a index sub v) s (denied (heard s.qf a) a 0x04 1) ∧
      To (.registerWrite (.dict a index sub v)) s (denied (heard s.qf a) a 0x04 1) ∧
      To (.writeSeg a index sub o fin v) s (denied (heard s.qf a) a 0x07 1) ∧
      (x.version = 2 → To (.compareWrite a index sub w v) s (denied (heard s.qf a) a 0x05 1))) ∧
    ((heard s.qf a).mayRead x e = false →
      To (.agwenRead a index sub) s (denied (heard s.qf a) a 0x03 1) ∧
      To (.readSeg a index sub 0) s (denied (heard s.qf a) a 0x06 1))) ∧
  (∀ (q : Qf) (x : AgSession) (index : BitVec 16) (sub : BitVec 8) (e : Entry), q.entryFor x index sub = some e →
    e.secure = true → index.toNat < 0xF000 → x.role ≠ 1 →
    mayWrite x e = false ∧
    (x.role ≠ 4 ∨ index.toNat < 0x8000 ∨ 0x9000 ≤ index.toNat ∨ q.debugOn = false → q.mayRead x e = false))

/-- A request that a rule refuses is answered as Table MGMT-4 states and changes nothing else: no such entry; a read of a WO
entry; a write of an entry that is not written; a value of the wrong length; a chain read outside Squall (R493); a
COMPARE_WRITE that does not find its value, or names a WO entry (R456). -/
def Obligations.RefusedRequestsChangeNothing : Prop :=
  ∀ (s : State) (a : AgwenRef) (x : AgSession) (q : Qf) (index : BitVec 16) (sub : BitVec 8) (v w : List Byte),
    Fresh s.qf a x → q = heard s.qf a →
    (q.entryFor x index sub = none →
      To (.agwenRead a index sub) s (denied q a 0x03 5 .unsupportedVersion) ∧
      To (.agwenWrite a index sub v) s (denied q a 0x04 5 .unsupportedVersion)) ∧
    (x.version ≠ 2 → To (.compareWrite a index sub w v) s (denied q a 0x05 6 .unsupportedVersion)) ∧
    (∀ e, q.entryFor x index sub = some e → q.mayRead x e = true → e.access = .wo →
      To (.agwenRead a index sub) s (denied q a 0x03 2)) ∧
    (∀ e, q.entryFor x index sub = some e → mayWrite x e = true → e.access = .ro ∨ e.access = .const →
      To (.agwenWrite a index sub v) s (denied q a 0x04 2)) ∧
    (∀ e n, q.writeBar x index sub = .ok e → perSession index sub = false → e.type.width = some n → v.length ≠ n →
      To (.agwenWrite a index sub v) s (denied q a 0x04 4)) ∧
    (∀ e, q.writeBar x index sub = .ok e → 1128 < v.length → To (.agwenWrite a index sub v) s (denied q a 0x04 4)) ∧
    (∀ e, q.writeBar x index sub = .ok e → x.version = 2 → e.access = .wo →
      To (.compareWrite a index sub w v) s (denied q a 0x05 2)) ∧
    (∀ e, q.writeBar x index sub = .ok e → x.version = 2 → e.access ≠ .wo → q.valueFor x e ≠ w →
      To (.compareWrite a index sub w v) s (denied q a 0x05 0 .versionConflict (q.valueFor x e))) ∧
    (∀ e, q.entryFor x 0x8311 0x02 = some e → q.mayRead x e = true → q.dbg.squalled = false →
      To (.scanData a 0) s (denied q a 0x06 3))

/-- A write of region-table bytes through BAR2 stores them where it says and leaves every other byte of the system area as it
was (R471); cached copies of the entries it touches go, and no other state changes (R36) but that an entry whose memory could
not be read holds what is written (log 201). While the block is squalled the write does nothing (R489). The system area is in
canonical form, as every step keeps it.
Each completes, in every state and with all operands that meet the conditions named: BAR2_ACCESS. -/
def Obligations.Bar2WritesStoreTheirBytes : Prop :=
  ∀ (s : State) (port : Bool) (o : BitVec 36) (bs : List Byte), s.qf.hostOn port = true → s.qf.host.active = some port →
    (s.qf.dbg.squalled = false → Memory.wf s.qf.sys = true → 0x80000000 ≤ o.toNat → o.toNat + bs.length ≤ 0x280000000 →
      Ends (.bar2Access port o (.write bs)) s (fun q =>
        (∀ k, q.sysRead k = if o.toNat ≤ k ∧ k < o.toNat + bs.length then bs.getD (k - o.toNat) 0 else s.qf.sysRead k) ∧
        (∀ c ∈ q.edge.cache, c ∈ s.qf.edge.cache ∧ (o.toNat + bs.length ≤ recBase (s.qf.tenantRec c.tenant) + 16 * c.ven.toNat ∨
          recBase (s.qf.tenantRec c.tenant) + 16 * c.ven.toNat + 16 ≤ o.toNat)) ∧
        (∀ b, b ∈ q.edge.worn ↔ b ∈ s.qf.edge.worn ∧ (o.toNat + bs.length ≤ b ∨ b + 16 ≤ o.toNat)) ∧
        q = { s.qf with sys := q.sys, edge := { s.qf.edge with cache := q.edge.cache, worn := q.edge.worn } })) ∧
    (s.qf.dbg.squalled = true → To (.bar2Access port o (.write bs)) s s.qf)

/-- A session's own commands change the management state and nothing else of the block, in every state: HELLO, BIND, KEEPALIVE,
SUBSCRIBE, EVENT_ACK, CLOSE, a handshake, an alert, an event's repetition, the time limits, a query on the network.
Each completes, in every state and with all operands that meet the conditions named: AGWEN_HELLO, BIND, KEEPALIVE, SUBSCRIBE,
EVENT_ACK, CLOSE, DTLS_HANDSHAKE, DTLS_ALERT, EVENT_REPEAT, SESSION_IDLE, SEGMENT_TIMEOUT, ARP_ND_ICMP_ECHO,
MGMT_PORT_TAKEOVER, MGMT_LINK_UP. -/
def Obligations.SessionCommandsKeepTheRest : Prop :=
  ∀ (s : State) (a : AgwenRef) (vs role : BitVec 8) (lo hi index : BitVec 16) (chain sig : List Byte) (mask : BitVec 32)
    (m : DtlsMsg) (n : Nat) (sub : BitVec 8) (query : NetQuery) (port : Bool),
    ∀ c ∈ [Instr.agwenHello a vs lo hi role, .bind a chain sig, .keepalive a, .subscribe a mask, .eventAck a mask, .close a,
        .dtlsHandshake m, .dtlsAlert n, .eventRepeat n, .sessionIdle n, .segmentTimeout n index sub, .arpNdIcmpEcho query,
        .mgmtPortTakeover port, .mgmtLinkUp port],
      Ends c s (fun q => q = { s.qf with mgmt := q.mgmt })

/-- The instructions of the test port change the port's own registers and nothing else of the block, in every state; SQUALL
without its update bit is one of them.
Each completes, in every state and with all operands that meet the conditions named: IDCODE, BYPASS, SAMPLE_PRELOAD, EXTEST,
SCAN_SELECT, SCAN_READ, SQUALL. -/
def Obligations.TestPortKeepsTheBlock : Prop :=
  ∀ (s : State) (v : BitVec 64) (chain : BitVec 8),
    ∀ c ∈ [Instr.idcode, .bypass, .samplePreload v, .extest v, .scanSelect chain, .scanRead, .squall false],
      Ends c s (fun q => q = inDbg s.qf (fun d => { d with
        tapIr := q.dbg.tapIr, tapChain := q.dbg.tapChain, tapOut := q.dbg.tapOut, boundary := q.dbg.boundary
        bypass := q.dbg.bypass }))

/-- The doorbells and configurations of the host's queues change the host interface and nothing else of the block, in every
state, and neither which port is active nor its generation.
Each completes, in every state and with all operands that meet the conditions named: MQ_DOORBELL, MQ_CONFIG, EQ_DOORBELL,
COMPLETION_RING_FULL. -/
def Obligations.HostQueuesKeepTheRest : Prop :=
  ∀ (s : State) (port : Bool) (k : BitVec 3) (v : BitVec 64),
    ∀ c ∈ [Instr.mqDoorbell port k v, .mqConfig port k v, .eqDoorbell port v, .completionRingFull port k],
      Ends c s (fun q => q = { s.qf with host := q.host } ∧ q.host.active = s.qf.host.active ∧
        q.host.generation = s.qf.host.generation ∧ q.host.fetched = s.qf.host.fetched)

/-- A write of a selection, or of any entry of 0x1100, is held for the session that made it: no other session's selections
change, in every state (R457).
Each completes, in every state and with all operands that meet the conditions named: AGWEN_WRITE. -/
def Obligations.SelectionsAreApart : Prop :=
  ∀ (s : State) (a : AgwenRef) (index : BitVec 16) (sub : BitVec 8) (v : List Byte), perSession index sub = true →
    Ends (.agwenWrite a index sub v) s (fun q => q = { s.qf with mgmt := q.mgmt } ∧
      ∀ n, n ≠ a.session → (q.session n).map (fun y => y.selects) = (s.qf.session n).map (fun y => y.selects))

/-- QUEUE_PURGE discards every packet queued for the selected half-port on the channel written and no other, and counts them
(R356).
Each completes, in every state and with all operands that meet the conditions named: QUEUE_PURGE. -/
def Obligations.PurgedQueuesAreEmpty : Prop :=
  ∀ (s : State) (a : AgwenRef) (x : AgSession) (e : Entry) (v : List Byte) (h : HalfPort) (vc : BitVec 3) (f : QPkt → Bool),
    Fresh s.qf a x → (heard s.qf a).writeBar x 0x3110 0x04 = .ok e → v.length = 1 → leNat v ≤ 5 →
    h = BitVec.ofNat 6 (x.sel (entryKey 0x3110 0x04)) → vc = BitVec.ofNat 3 (leNat v) →
    f = (fun e => decide (e.out = .half h) && decide (e.pkt.vc = vc)) →
    Ends (.queuePurge a v) s (fun q =>
      q.sw.queue = s.qf.sw.queue.filter (fun e => !f e) ∧
      q.sw.purged.get h.toNat 0 = s.qf.sw.purged.get h.toNat 0 + (s.qf.sw.queue.filter f).length)

/-- After reset no command waits, the block is off, and the dictionary's entries read the values
that their tables give for reset, as index and sub-index name them. (The flash as delivered, log 4, and what is sensed, log 9,
are no part of this.) -/
def Obligations.ResetReadsTheDefaults : Prop :=
  State.reset.pending = [] ∧ State.reset.qf.boot.phase = .off ∧
  (∀ p ∈
    [(0x100002, 2), (0x101001, 3), (0x101004, 4871), (0x200101, 1), (0x200202, 1000), (0x201001, 3600000000000),
     (0x210003, 100663296), (0x301001, 1000), (0x301002, 1099511627776), (0x301004, 32), (0x301005, 16),
     (0x310001, 624640), (0x310002, 624640), (0x310003, 65536), (0x310004, 10000000), (0x310005, 524288),
     (0x310006, 2097152), (0x310100, 4), (0x320002, 4096), (0x320004, 65536)] ++
    [(0x320007, 65536), (0x320102, 65536), (0x320105, 10), (0x322002, 262144), (0x322005, 3), (0x323001, 5),
     (0x400001, 3712), (0x400002, 3712), (0x402001, 48), (0x402002, 1000000), (0x402003, 10000000), (0x403001, 5),
     (0x403002, 10), (0x403003, 25), (0x404001, 100000), (0x404002, 1), (0x404003, 1), (0x404007, 4194296),
     (0x510001, 16000), (0x510002, 7)] ++
    [(0x510003, 100000), (0x510004, 25000), (0x510008, 1048576), (0x520004, 32768), (0x530001, 24), (0x530002, 256),
     (0x530003, 5), (0x530004, 131072), (0x540001, 16), (0x540002, 64), (0x540003, 8), (0x560004, 131072),
     (0x601005, 60000000000), (0x701001, 900000000000), (0x810004, 63), (0x810005, 255), (0x820001, 1),
     (0x820004, 2000000), (0x820005, 100000), (0x820006, 4)] ++
    [(0x820007, 1000000), (0x82000A, 65535), (0x820011, 100000000), (0x830003, 255), (0x830004, 125000), (0x831003, 1)],
    leNat (State.reset.qf.readEntry 0 p.1) = p.2) ∧
  (∀ k ∈
    [0x100004, 0x101005, 0x200102, 0x200201, 0x200203, 0x200204, 0x200205, 0x201003, 0x201004, 0x210001, 0x210002,
     0x210004, 0x210005, 0x210006, 0x300001, 0x300002, 0x300003, 0x300004, 0x300005, 0x300006, 0x300007, 0x300008,
     0x300009, 0x30000A, 0x30000B, 0x30000C, 0x30000D, 0x30000E, 0x30000F, 0x300010, 0x301003, 0x310007, 0x310008,
     0x310009, 0x31000A, 0x311001, 0x311002, 0x311003, 0x311005, 0x320001] ++
    [0x320003, 0x320005, 0x320006, 0x320101, 0x320103, 0x320104, 0x321001, 0x321002, 0x321004, 0x321005, 0x321006,
     0x321008, 0x321009, 0x322001, 0x322003, 0x322004, 0x322006, 0x322007, 0x322008, 0x400003, 0x400004, 0x400005,
     0x401001, 0x401002, 0x401003, 0x401004, 0x401005, 0x401006, 0x404004, 0x404005, 0x404006, 0x510005, 0x510006,
     0x510007, 0x510009, 0x51000A, 0x51000B, 0x520001, 0x520002, 0x520003] ++
    [0x520005, 0x520006, 0x520007, 0x520008, 0x530005, 0x530006, 0x530007, 0x530008, 0x530009, 0x540004, 0x540005,
     0x540006, 0x540007, 0x540008, 0x540009, 0x550001, 0x550002, 0x550003, 0x550004, 0x550005, 0x550006, 0x560001,
     0x560002, 0x560003, 0x560005, 0x560006, 0x601004, 0x602001, 0x602002, 0x602003, 0x602004, 0x602005, 0x603001,
     0x603002, 0x603003, 0x603004, 0x603005, 0x604002, 0x604003, 0x605001] ++
    [0x605002, 0x605003, 0x605101, 0x605102, 0x605103, 0x700004, 0x700006, 0x700007, 0x701002, 0x701003, 0x701005,
     0x702003, 0x802002, 0x810001, 0x810002, 0x810003, 0x810006, 0x810007, 0x820003, 0x820009, 0x82000C, 0x82000D,
     0x82000E, 0x820010, 0x830002, 0x830005, 0x830006, 0x830008, 0x830009, 0x83000A, 0x83000B, 0x83000C, 0x830101,
     0x831002, 0x831004, 0x831005, 0x831006, 0x831007, 0x831103, 0x832002] ++
    [0x832003, 0x833001, 0x833002, 0x900001, 0x900003, 0x900005, 0x900006, 0x900007, 0x901002, 0x901006, 0x901007],
    leNat (State.reset.qf.readEntry 0 k) = 0)

/-- A step takes the command at the front of the queue and runs it on the state whose queue is the rest. -/
def Obligations.StepRunsFront : Prop :=
  ∀ (s : State) (c : Instr) (cs : List Instr),
    step { s with pending := c :: cs } = exec c { s with pending := cs }

/-- Where no command waits, a step is one nanosecond of the block's own time, in which a word of its memory may become
unreadable: the model's choice (logs 2 and 201). -/
def Obligations.IdleStepIsOneTick : Prop :=
  ∀ (s : State), s.pending = [] → step s = .next { s with qf := s.qf.tick.wear }

/-- Every command of the table completes in every state, with no fault and no refusal, and leaves the waiting commands as
they are. -/
def Obligations.EveryCommandCompletes : Prop :=
  ∀ (c : Instr) (s : State), ∃ t, exec c s = .next t ∧ t.pending = s.pending

/-- The machine after reset is sound: its system-area memory is in canonical form, and the fault ring, the violation log and the
waiting events are within the sizes of R405, R465 and R477. -/
def Obligations.ResetIsSound : Prop := Safety.Sound State.reset.qf

/-- Every step keeps the block sound, from every sound state, whatever command waits: the system-area memory stays in canonical
form, the fault ring holds at most 4,096 records (R405), the violation log at most 1,024 (R465) and at most 4,096 events wait
for the fabric manager (R477). -/
def Obligations.EveryStepKeepsTheBlockSound : Prop :=
  ∀ (s t : State), Safety.Sound s.qf → step s = .next t → Safety.Sound t.qf

/-- The violation log is a ring of 1,024 records: a record is added at its end, and one that finds the ring full replaces the
oldest, which is counted in VIOLATION_RECORDS_LOST. -/
def Obligations.ViolationLogReplacesTheOldest : Prop :=
  ∀ (q : Qf) (a : BitVec 60) (world : Bool) (o : Ep) (n : Qpn) (psn : Psn) (home : Bool) (t : Tenant),
    ∃ r : BitVec 256,
      (q.mgmt.violations.length < 1024 →
        (q.violation a world o n psn home t).mgmt.violations = q.mgmt.violations ++ [r] ∧
        (q.violation a world o n psn home t).mgmt.violationsLost = q.mgmt.violationsLost) ∧
      (q.mgmt.violations.length = 1024 →
        (q.violation a world o n psn home t).mgmt.violations = q.mgmt.violations.drop 1 ++ [r] ∧
        (q.violation a world o n psn home t).mgmt.violationsLost = q.mgmt.violationsLost + 1)

/-- A write that would make SHORT_LOW_WATERMARK not greater than SHORT_HIGH_WATERMARK is refused with ACCESS_VIOLATION, and
both entries keep their values: nothing changes but the session's answer. -/
def Obligations.ShortWatermarksStayApart : Prop :=
  ∀ (s : State) (a : AgwenRef) (x : AgSession) (e : Entry) (sub : BitVec 8) (v : List Byte), Fresh s.qf a x → v.length = 1 →
    (sub = 1 ∧ s.qf.pool.lowMark.toNat ≤ leNat v) ∨ (sub = 2 ∧ leNat v ≤ s.qf.pool.highMark.toNat) →
    (heard s.qf a).writeBar x 0x4030 sub = .ok e →
    ∀ c ∈ [Instr.agwenWrite a 0x4030 sub v, .registerWrite (.dict a 0x4030 sub v)],
      To c s ((heard s.qf a).answerFrame a.session {
        session := a.session, opcode := 0x84, seq := a.seq, status := Status.accessViolation.code, detail := 3 })

/-- At 8 s after reset release the block enters FULL, whatever its stacks and Cumulus units have reached; not before.
Each completes, in every state and with all operands that meet the conditions named: FULL_TIMEOUT. -/
def Obligations.FullServiceAtEightSeconds : Prop :=
  (∀ (s : State), s.qf.boot.phase = .reduced → s.qf.dbg.squalled = false → s.qf.boot.releaseAt + 8000000000 ≤ s.qf.now →
    Ends .fullTimeout s (fun q => q.boot.phase = .full)) ∧
  (∀ (s : State), s.qf.now < s.qf.boot.releaseAt + 8000000000 → To .fullTimeout s s.qf)

/-- A write of ROLE_ANCHORS: a session whose anchor pair is listed under its role no more ends at once; every other session goes
on with the role and pair it bound with.
Each completes, in every state and with all operands that meet the conditions named: ROLE_ANCHORS. -/
def Obligations.RemovedAnchorsEndTheirSessions : Prop :=
  ∀ (s : State) (a : AgwenRef) (x : AgSession) (e : Entry) (v : List Byte) (rs : List (Nat × AnchorPair)), Fresh s.qf a x →
    (heard s.qf a).writeBar x 0x1020 0x02 = .ok e → rolesOf 4 0 v = some rs →
    Ends (.roleAnchors a v) s (fun q =>
      q.mgmt.roles = rs ∧
      (∀ y ∈ q.mgmt.sessions, y.phase = 3 → y.role ≠ 0 → (y.role, y.pair) ∈ q.mgmt.allRoles) ∧
      q.mgmt.sessions.map (fun y => (y.id, y.role, y.pair)) =
        (s.qf.mgmt.sessions.filter (fun y => y.phase != 3 || y.role = 0 ||
          (s.qf.mgmt.owner.map (fun p => (1, p)) ++ rs).contains (y.role, y.pair))).map (fun y => (y.id, y.role, y.pair)))

/-- A BAR0 or BAR2 write through the standby port does nothing but count in HOST_DROPPED_WRITES (R467). -/
def Obligations.StandbyWritesAreDropped : Prop :=
  ∀ (s : State) (port : Bool) (w : BitVec 64) (n : BitVec 3) (t : Tenant) (o : BitVec 36) (r : BitVec 26) (bs : List Byte),
    s.qf.hostOn port = true → s.qf.host.active ≠ some port →
    ∀ c ∈ [Instr.qpDoorbell port w, .tenantRecord port t w, .bar2Access port o (.write bs), .mqDoorbell port n w,
        .mqConfig port n w, .eqDoorbell port w, .registerWrite (.bar0 port r w)],
      To c s (inHost s.qf (fun h => { h with dropped := h.dropped + 1 }))

/-- A request that a session has answered is answered again with the same response, and does nothing else (R453). -/
def Obligations.RepeatedRequestsDoNothing : Prop :=
  ∀ (s : State) (a : AgwenRef) (x : AgSession) (k : AgFrame), s.qf.session a.session = some x → s.qf.agLive = true →
    x.kept.find? (fun f => f.seq = a.seq) = some k →
    ∀ (index : BitVec 16) (sub : BitVec 8) (v w : List Byte) (off : BitVec 64) (fin : Bool) (mask : BitVec 32) (im : FwImage),
    ∀ c ∈ [Instr.agwenRead a index sub, .agwenWrite a index sub v, .compareWrite a index sub v w, .readSeg a index sub off,
        .writeSeg a index sub off fin v, .subscribe a mask, .eventAck a mask, .keepalive a, .faultRecord a,
        .violationRecord a, .sampleRecord a, .recordAtCursor a, .scanData a off, .fwStage a im, .fwImage a im, .portMode a v,
        .portFence a v, .fenceEndpoint a v, .fwActivate a v, .squallTrigger a v, .roleAnchors a v, .ownerClaim a v],
      To c s (inMgmt (heard s.qf a) (fun m => { m with outbox := m.outbox ++ [k] }))
end

