-- ==== Sys2Proof/Laws/Memory.lean ====
section
/-! SUPPORT. Laws/Memory.lean: the memory of the system area keeps its canonical form, and a byte reads as it was
last written. -/

namespace Sys2Proof.Machine

theorem wfFrom_cons (lo j : Nat) (x : Byte) (t : List Host.Cell) :
    Mem.wfFrom lo ((j, x) :: t) = true ↔ lo ≤ j ∧ x ≠ 0 ∧ Mem.wfFrom (j + 1) t = true := by
  rw [Mem.wfFrom, Bool.and_eq_true, Bool.and_eq_true, decide_eq_true_eq, bne_iff_ne, and_assoc]

theorem wfFrom_le (t : List Host.Cell) (k l : Nat) (h : l ≤ k) (ht : Mem.wfFrom k t = true) : Mem.wfFrom l t = true := by
  cases t with
  | nil => rfl
  | cons c t =>
    obtain ⟨i, y⟩ := c
    rw [wfFrom_cons] at ht ⊢
    exact ⟨by omega, ht.2⟩

theorem putFrom_wf (m : List Host.Cell) (lo a : Nat) (b : Byte) (h : Mem.wfFrom lo m = true) (hl : lo ≤ a) : Mem.wfFrom lo (Mem.put m a b) = true := by
  induction m generalizing lo with
  | nil =>
    unfold Mem.put
    split
    · rfl
    · rename_i hb
      exact (wfFrom_cons _ _ _ _).2 ⟨hl, hb, rfl⟩
  | cons c t ih =>
    obtain ⟨j, x⟩ := c
    obtain ⟨h1, h2, h3⟩ := (wfFrom_cons _ _ _ _).1 h
    unfold Mem.put
    split
    · rename_i hj
      split
      · exact h
      · rename_i hb
        exact (wfFrom_cons _ _ _ _).2 ⟨hl, hb, (wfFrom_cons _ _ _ _).2 ⟨hj, h2, h3⟩⟩
    · split
      · rename_i hj
        split
        · exact wfFrom_le t (j + 1) lo (by omega) h3
        · rename_i hb
          exact (wfFrom_cons _ _ _ _).2 ⟨hl, hb, hj ▸ h3⟩
      · exact (wfFrom_cons _ _ _ _).2 ⟨h1, h2, ih _ h3 (by omega)⟩

theorem putAll_wf (m : List Host.Cell) (a : Nat) (bs : List Byte) (h : Memory.wf m = true) : Memory.wf (Mem.putAll m a bs) = true := by
  induction bs generalizing m a with
  | nil => exact h
  | cons b bs ih => exact ih _ _ (putFrom_wf m 0 a b h (Nat.zero_le _))

/-- In a canonical memory nothing is listed below the lower bound. -/
theorem get_below (m : List Host.Cell) (lo a : Nat) (h : Mem.wfFrom lo m = true) (hl : a < lo) :
    Mem.get m a = 0 := by
  cases m with
  | nil => rfl
  | cons c t =>
    obtain ⟨j, x⟩ := c
    have h1 := ((wfFrom_cons _ _ _ _).1 h).1
    rw [Mem.get, if_neg (by omega), if_pos (by omega)]

/-- A byte reads as it was written; every other byte reads as before. -/
theorem get_putFrom (m : List Host.Cell) (lo a c : Nat) (b : Byte) (h : Mem.wfFrom lo m = true) :
    Mem.get (Mem.put m a b) c = if c = a then b else Mem.get m c := by
  induction m generalizing lo with
  | nil =>
    unfold Mem.put
    split
    · rename_i hb
      subst hb
      simp [Mem.get]
    · simp only [Mem.get]
      by_cases hc : c = a
      · rw [if_pos hc.symm, if_pos hc]
      · rw [if_neg (Ne.symm hc), if_neg hc]
        split <;> rfl
  | cons p t ih =>
    obtain ⟨j, x⟩ := p
    obtain ⟨h1, h2, h3⟩ := (wfFrom_cons _ _ _ _).1 h
    have hb := get_below t (j + 1)
    unfold Mem.put
    split
    · rename_i hj
      split
      · rename_i hb0
        split
        · rename_i hc
          rw [hb0, Mem.get, if_neg (by omega), if_pos (by omega)]
        · rfl
      · rw [Mem.get]
        by_cases hc : c = a
        · rw [if_pos hc.symm, if_pos hc]
        · rw [if_neg (Ne.symm hc), if_neg hc]
          split
          · rw [Mem.get, if_neg (by omega), if_pos (by omega)]
          · rfl
    · split
      · rename_i hj
        subst hj
        by_cases hc : c = j
        · rw [if_pos hc, hc]
          split
          · rename_i hb0
            rw [hb0]; exact get_below t (j + 1) j h3 (by omega)
          · rw [Mem.get, if_pos rfl]
        · rw [if_neg hc]
          rw [Mem.get, if_neg (Ne.symm hc)]
          split
          · split
            · rename_i hlt
              exact get_below t (j + 1) c h3 (by omega)
            · rfl
          · rw [Mem.get, if_neg (Ne.symm hc)]
      · rename_i hj1 hj2
        simp only [Mem.get]
        rw [ih (j + 1) h3]
        split
        · rename_i hc; rw [if_neg (by omega)]
        · split
          · rw [if_neg (by omega)]
          · rfl

theorem get_put (m : List Host.Cell) (a c : Nat) (b : Byte) (h : Memory.wf m = true) :
    Mem.get (Mem.put m a b) c = if c = a then b else Mem.get m c := get_putFrom m 0 a c b h

/-- A run of bytes: inside it the bytes written, outside it the bytes as before. -/
theorem get_putAll (m : List Host.Cell) (a c : Nat) (bs : List Byte) (h : Memory.wf m = true) :
    Mem.get (Mem.putAll m a bs) c = if a ≤ c ∧ c < a + bs.length then bs.getD (c - a) 0 else Mem.get m c := by
  induction bs generalizing m a with
  | nil => rw [if_neg (by simp)]; rfl
  | cons b bs ih =>
    rw [Mem.putAll, ih _ _ (putFrom_wf m 0 a b h (Nat.zero_le _)), get_put m a c b h]
    by_cases h1 : c = a
    · rw [if_neg (by omega), if_pos h1, if_pos (by simp; omega)]
      simp [h1]
    · by_cases h2 : a + 1 ≤ c ∧ c < a + 1 + bs.length
      · rw [if_pos h2, if_pos (by simp; omega)]
        obtain ⟨k, rfl⟩ : ∃ k, c = a + 1 + k := ⟨c - (a + 1), by omega⟩
        rw [show a + 1 + k - a = k + 1 by omega, show a + 1 + k - (a + 1) = k by omega]
        rfl
      · rw [if_neg h2, if_neg h1, if_neg (by simp; omega)]

end Sys2Proof.Machine
end

