-- ==== Sys2Proof/Laws/Sound.lean ====
section
/-! SUPPORT. Laws/Sound.lean: how the properties of Safety.Sound pass through an option, a pair, a fold or an
update of a field they do not look at. -/

namespace Sys2Proof.Machine
open Sys2Proof.Safety

@[irreducible] def SoundOpt (o : Option Qf) : Prop := ∀ q, o = some q → Sound q

@[irreducible] def SoundOptP {α : Type} (o : Option (α × Qf)) : Prop := ∀ q, o = some q → Sound q.2

@[irreducible] def SoundExc {ε : Type} (o : Except ε Qf) : Prop := ∀ q, o = .ok q → Sound q

theorem okOpt_none : SoundOpt none := by unfold SoundOpt; intro q h; cases h

theorem okOpt_some {q : Qf} (h : Sound q) : SoundOpt (some q) := by unfold SoundOpt; intro q h; cases h; assumption

theorem okOptP_none {α : Type} : SoundOptP (none : Option (α × Qf)) := by unfold SoundOptP; intro q h; cases h

theorem okOptP_some {α : Type} {a : α} {q : Qf} (h : Sound q) : SoundOptP (some (a, q)) := by unfold SoundOptP; intro q h; cases h; assumption

theorem okExc_err {ε : Type} {e : ε} : SoundExc (.error e) := by unfold SoundExc; intro q h; cases h

theorem okExc_sound {ε : Type} {q : Qf} (h : Sound q) : SoundExc (ε := ε) (.ok q) := by unfold SoundExc; intro q h; cases h; assumption

theorem Sound.snd {α : Type} {a : α} {q : Qf} (h : Sound q) : Sound (a, q).2 := h

theorem Sound.snd2 {α β : Type} {a : α} {b : β} {q : Qf} (h : Sound q) : Sound (a, b, q).2.2 := h

theorem Sound.of {q q' : Qf} (h : Sound q) (a : q'.sys = q.sys) (b : q'.flt.ring = q.flt.ring) (c : q'.mgmt.violations = q.mgmt.violations)
  (d : q'.host.waitingEvents = q.host.waitingEvents) : Sound q' := by
  unfold Sound at *; rw [a, b, c, d]; exact h

theorem Sound.lit {q : Qf} {obs : Observe} {boot : Boot} {part : Partition} {pwr : Power} {pool : Pool} {ver : Versions} {edge : Edge} {home : Home} {qps : Qps} {cum : Cumulus} {eng : Engines} {links : Tbl Link} {linkPar : LinkParams} {sw : Switch} {sched : Sched} {sec : Security} {flt : Faults} {ens : Ensign} {mgmt : Mgmt} {host : HostIf} {dbg : Debug} {freeCount : Nat} (h : Sound q)
  (b : flt.ring = q.flt.ring) (c : mgmt.violations = q.mgmt.violations) (d : host.waitingEvents = q.host.waitingEvents) :
  Sound ⟨obs, boot, part, pwr, pool, ver, edge, home, qps, cum, eng, links, linkPar, sw, sched, sec, flt, ens, mgmt, host, dbg, q.sys, freeCount⟩ := Sound.of h rfl b c d

theorem foldl_sound {α} {f : Qf → α → Qf} (hf : ∀ q x, Sound q → Sound (f q x)) (l : List α) {q} (h : Sound q) : Sound (l.foldl f q) := by
  induction l generalizing q with
  | nil => exact h
  | cons a l ih => exact ih (hf _ _ h)

theorem foldl_ok2 {α β : Type} {f : β × Qf → α → β × Qf} (hf : ∀ x c, Sound x.2 → Sound (f x c).2) (l : List α) {x : β × Qf} (h : Sound x.2) :
    Sound (l.foldl f x).2 := by
  induction l generalizing x with
  | nil => exact h
  | cons a l ih => exact ih (hf _ _ h)

theorem foldl_ok3 {α β γ : Type} {f : β × γ × Qf → α → β × γ × Qf} (hf : ∀ x c, Sound x.2.2 → Sound (f x c).2.2) (l : List α) {x : β × γ × Qf} (h : Sound x.2.2) :
    Sound (l.foldl f x).2.2 := by
  induction l generalizing x with
  | nil => exact h
  | cons a l ih => exact ih (hf _ _ h)

theorem foldl_okOpt {α : Type} {f : Option Qf → α → Option Qf} (hf : ∀ x c, SoundOpt x → SoundOpt (f x c)) (l : List α) {x : Option Qf} (h : SoundOpt x) :
    SoundOpt (l.foldl f x) := by
  induction l generalizing x with
  | nil => exact h
  | cons a l ih => exact ih (hf _ _ h)

theorem SoundOpt.elim {o : Option Qf} (h : SoundOpt o) (q : Qf) (e : o = some q) : Sound q := by unfold SoundOpt at h; exact h q e

theorem SoundOptP.elim {α : Type} {o : Option (α × Qf)} (h : SoundOptP o) (q : α × Qf) (e : o = some q) : Sound q.2 := by unfold SoundOptP at h; exact h q e

theorem SoundExc.elim {ε : Type} {o : Except ε Qf} (h : SoundExc o) (q : Qf) (e : o = .ok q) : Sound q := by unfold SoundExc at h; exact h q e

theorem okOpt_map {o : Option Qf} {f : Qf → Qf} (h : SoundOpt o) (hf : ∀ q, Sound q → Sound (f q)) : SoundOpt (o.map f) := by
  unfold SoundOpt at *; intro q e; cases o with
  | none => cases e
  | some a => cases e; exact hf _ (h _ rfl)

theorem okOptP_mapc {α β : Type} {o : Option β} {f : β → α × Qf} (hf : ∀ b, Sound (f b).2) : SoundOptP (o.map f) := by
  unfold SoundOptP at *; intro q e; cases o with
  | none => cases e
  | some a => cases e; exact hf _

theorem step_sound (q : Qf) {P : Prop} (a : Sound q) (b : Sound q → P) : P := b a

theorem pair_eq {α : Type} {x : α × Qf} {a : α} {q : Qf} (h : x = (a, q)) (hx : Sound x.2) : Sound q := by rw [h] at hx; exact hx

theorem pair_eq2 {α β : Type} {x : α × β × Qf} {a : α} {b : β} {q : Qf} (h : x = (a, b, q)) (hx : Sound x.2.2) : Sound q := by rw [h] at hx; exact hx

theorem opt_eq {o : Option Qf} {q : Qf} (h : o = some q) (ho : SoundOpt o) : Sound q := ho.elim q h

theorem optp_eq {α : Type} {o : Option (α × Qf)} {a : α} {q : Qf} (h : o = some (a, q)) (ho : SoundOptP o) : Sound q := ho.elim (a, q) h

theorem exc_eq {ε : Type} {o : Except ε Qf} {q : Qf} (h : o = .ok q) (ho : SoundExc o) : Sound q := ho.elim q h

theorem okOpt_getD {o : Option Qf} {q : Qf} (ho : SoundOpt o) (h : Sound q) : Sound (o.getD q) := by
  cases o with
  | none => exact h
  | some a => exact ho.elim a rfl

theorem ok_id {q : Qf} (h : Sound q) : Sound (id q) := h

theorem foldl_fst {α β : Type} {f : Qf × β → α → Qf × β} (hf : ∀ x c, Sound x.1 → Sound (f x c).1) (l : List α) {x : Qf × β} (h : Sound x.1) :
    Sound (l.foldl f x).1 := by
  induction l generalizing x with
  | nil => exact h
  | cons a l ih => exact ih (hf _ _ h)

theorem stepP {P Q : Prop} (a : P) (b : P → Q) : Q := b a

theorem okOpt_findSome {α : Type} {f : α → Option Qf} (hf : ∀ a, SoundOpt (f a)) (l : List α) : SoundOpt (l.findSome? f) := by
  induction l with
  | nil => exact okOpt_none
  | cons a l ih =>
    rw [List.findSome?_cons]
    split
    · rename_i h; rw [← h]; exact hf a
    · exact ih

theorem okOpt_or {o o' : Option Qf} (h : SoundOpt o) (h' : SoundOpt o') : SoundOpt (o.or o') := by
  cases o with
  | none => exact h'
  | some a => exact h

theorem okOpt_mapc {β : Type} {o : Option β} {f : β → Qf} (hf : ∀ b, Sound (f b)) : SoundOpt (o.map f) := by
  cases o with
  | none => exact okOpt_none
  | some a => exact okOpt_some (hf a)

end Sys2Proof.Machine
end

