-- ==== Sys2Proof/Laws/SoundFabric.lean ====
section
/-! SUPPORT. Laws/SoundFabric.lean: the observation, event and completion operations, the fabric and the line buffers
keep Safety.Sound: one lemma per operation and per command. -/

set_option linter.tactic.unusedName false

namespace Sys2Proof.Machine
open Sys2Proof.Safety

theorem Qf.updLink_sound {q : Qf} {h : HalfPort} {f : Link → Link} (hq : Sound q) : Sound (Qf.updLink q h f) := by
  unfold Qf.updLink
  with_reducible repeat' first
    | assumption | refine Sound.lit ?_ rfl rfl rfl

theorem Qf.store_sound {q : Qf} {inp : Ingress} {outs : List Ingress} {p : Packet} (hq : Sound q)
    : Sound (Qf.store q inp outs p) := by
  unfold Qf.store
  with_reducible repeat' first
    | assumption | (extract_lets +onlyGivenNames x; clear_value x) | split | refine Sound.lit ?_ rfl rfl rfl

theorem Qf.enterLane_sound {q : Qf} {inp : Ingress} {out : Ingress} {p : Packet} (hq : Sound q)
    : Sound (Qf.enterLane q inp out p) := by
  unfold Qf.enterLane
  with_reducible repeat' first
    | assumption | (extract_lets +onlyGivenNames x; clear_value x) | split | refine Sound.lit ?_ rfl rfl rfl

theorem Qf.enqueue_sound {q : Qf} {inp : Ingress} {outs : List Ingress} {p : Packet} (hq : Sound q)
    : Sound (Qf.enqueue q inp outs p) := by
  unfold Qf.enqueue
  with_reducible repeat' first
    | assumption | apply Qf.store_sound | apply Qf.enterLane_sound | split

theorem Qf.offer_sound {q : Qf} {inp : Ingress} {outs : List Ingress} {fixed : Bool} {p : Packet} (hq : Sound q)
    : Sound (Qf.offer q inp outs fixed p) := by
  unfold Qf.offer
  with_reducible repeat' first
    | assumption | (extract_lets +onlyGivenNames x; clear_value x) | apply Qf.enqueue_sound | split
    | refine Sound.lit ?_ rfl rfl rfl

theorem Qf.noRoute_sound {q : Qf} (hq : Sound q) : Sound (Qf.noRoute q) := by
  unfold Qf.noRoute
  with_reducible repeat' first
    | assumption | (extract_lets +onlyGivenNames x; clear_value x) | refine Sound.lit ?_ rfl rfl rfl

theorem Qf.sendCol_sound {q : Qf} {inp : Ingress} {hs : List HalfPort} {p : Packet} (hq : Sound q)
    : Sound (Qf.sendCol q inp hs p) := by
  unfold Qf.sendCol
  with_reducible repeat' first
    | assumption | (extract_lets +onlyGivenNames x; clear_value x) | apply Qf.offer_sound
    | apply Qf.noRoute_sound | split

theorem Qf.updMq_sound {q : Qf} {port : Bool} {queue : BitVec 3} {f : Mq → Mq} (hq : Sound q)
    : Sound (Qf.updMq q port queue f) := by
  unfold Qf.updMq
  with_reducible repeat' first
    | assumption | (extract_lets +onlyGivenNames x; guard_hyp x : HostIf := _; subst x)
    | refine Sound.lit ?_ rfl rfl rfl

theorem Qf.msix_sound {q : Qf} {v : Nat} (hq : Sound q) : Sound (Qf.msix q v) := by
  unfold Qf.msix
  with_reducible repeat' first
    | assumption | (extract_lets +onlyGivenNames x; guard_hyp x : HostIf := _; subst x)
    | (extract_lets +onlyGivenNames x; clear_value x) | split | refine Sound.lit ?_ rfl rfl rfl

theorem Qf.post_sound {q : Qf} {p : Bool} {a : BitVec 64} {bs : List Byte} (hq : Sound q)
    : Sound (Qf.post q p a bs) := by
  unfold Qf.post
  with_reducible repeat' first
    | assumption | (extract_lets +onlyGivenNames x; guard_hyp x : HostIf := _; subst x)
    | refine Sound.lit ?_ rfl rfl rfl

theorem Qf.drainCpl_sound {port : Bool} {queue : BitVec 3} {a1 : Nat} {q : Qf} (hq : Sound q)
    : Sound (Qf.drainCpl port queue a1 q) := by
  induction a1 generalizing port queue q with
  | zero =>
    unfold Qf.drainCpl
    with_reducible repeat' (assumption)
  | succ n ih =>
    unfold Qf.drainCpl
    with_reducible repeat' first
      | assumption
      | (extract_lets +onlyGivenNames q; guard_hyp q : Qf := _; refine step_sound q ?_ (fun hq => ?_)
         rotate_left; clear_value q; rotate_left; subst q)
      | (extract_lets +onlyGivenNames x; clear_value x) | apply ih | apply Qf.updMq_sound | apply Qf.msix_sound
      | apply Qf.post_sound | split

theorem Qf.writeEvent_sound {q : Qf} {p : Bool} {e : BitVec 256} (hq : Sound q) : Sound (Qf.writeEvent q p e) := by
  unfold Qf.writeEvent
  with_reducible repeat' first
    | assumption
    | (extract_lets +onlyGivenNames q; guard_hyp q : Qf := _; refine step_sound q ?_ (fun hq => ?_)
       rotate_left; clear_value q; rotate_left; subst q)
    | (extract_lets +onlyGivenNames x; guard_hyp x : HostIf := _; subst x)
    | (extract_lets +onlyGivenNames x; clear_value x) | apply Qf.msix_sound | apply Qf.post_sound | split
    | refine Sound.lit ?_ rfl rfl rfl

theorem Qf.drainEvents_sound {a1 : Nat} {q : Qf} (hq : Sound q) : Sound (Qf.drainEvents a1 q) := by
  induction a1 generalizing q with
  | zero => exact hq
  | succ n ih =>
    unfold Qf.drainEvents
    split
    · exact hq
    · split
      · exact hq
      · split
        · rename_i e es he
          apply ih
          apply Qf.writeEvent_sound
          refine ⟨hq.1, hq.2.1, hq.2.2.1, ?_⟩
          have := hq.2.2.2
          show es.length ≤ 4096
          rw [he] at this
          simp at this
          omega
        · split
          · exact hq
          · apply Qf.writeEvent_sound
            exact Sound.of hq rfl rfl rfl rfl

theorem Qf.event_sound {q : Qf} {kind : Nat} {status : BitVec 8} {qpn : BitVec 16} {wr : BitVec 16} {ep : Ep}
    {detail : Nat} (hq : Sound q) : Sound (Qf.event q kind status qpn wr ep detail) := by
  unfold Qf.event
  apply Qf.drainEvents_sound
  split
  · exact Sound.of hq rfl rfl rfl rfl
  · rename_i h
    refine ⟨hq.1, hq.2.1, hq.2.2.1, ?_⟩
    show (q.host.waitingEvents ++ [_]).length ≤ 4096
    simp at h ⊢
    omega

theorem Qf.complete_sound {q : Qf} {m : MgrRef} {op : BitVec 8} {st : Status} {prog : Option Nat}
    {result : BitVec 128} (hq : Sound q) : Sound (Qf.complete q m op st prog result) := by
  unfold Qf.complete
  with_reducible repeat' first
    | assumption
    | (extract_lets +onlyGivenNames q; guard_hyp q : Qf := _; refine step_sound q ?_ (fun hq => ?_)
       rotate_left; clear_value q; rotate_left; subst q)
    | (extract_lets +onlyGivenNames x; guard_hyp x : HostIf := _; subst x)
    | (extract_lets +onlyGivenNames x; clear_value x) | extract_lets +onlyGivenNames x | apply Qf.updMq_sound
    | apply Qf.drainCpl_sound | apply Qf.event_sound | split | refine Sound.lit ?_ rfl rfl rfl

theorem Qf.sendOn_sound {q : Qf} {inp : Ingress} {h : HalfPort} {p : Packet} (hq : Sound q)
    : Sound (Qf.sendOn q inp h p) := by
  unfold Qf.sendOn
  with_reducible repeat' first
    | assumption | apply Qf.offer_sound | apply Qf.noRoute_sound | split

theorem Qf.wantUnit_sound {q : Qf} {d : Nat} (hq : Sound q) : Sound (Qf.wantUnit q d) := by
  unfold Qf.wantUnit
  with_reducible repeat' first
    | assumption | (extract_lets +onlyGivenNames x; clear_value x) | split | refine Sound.lit ?_ rfl rfl rfl

theorem Qf.countEpoch_sound {q : Qf} {p : Packet} (hq : Sound q) : Sound (Qf.countEpoch q p) := by
  unfold Qf.countEpoch
  with_reducible repeat' first
    | assumption | (extract_lets +onlyGivenNames x; clear_value x) | split | refine Sound.lit ?_ rfl rfl rfl

theorem Qf.sendPlain_sound {q : Qf} {inp : Ingress} {p : Packet} (hq : Sound q) : Sound (Qf.sendPlain q inp p) := by
  unfold Qf.sendPlain
  with_reducible repeat' first
    | assumption
    | (extract_lets +onlyGivenNames q; guard_hyp q : Qf := _; refine step_sound q ?_ (fun hq => ?_)
       rotate_left; clear_value q; rotate_left; subst q)
    | apply Qf.offer_sound | apply Qf.countEpoch_sound | apply Qf.noRoute_sound | split

theorem Qf.sendFail_sound {q : Qf} {inp : Ingress} {p : Packet} {st : Status} (hq : Sound q)
    : Sound (Qf.sendFail q inp p st) := by
  unfold Qf.sendFail
  with_reducible repeat' first
    | assumption | apply Qf.sendPlain_sound

theorem Qf.send_sound {q : Qf} {inp : Ingress} {p : Packet} (hq : Sound q) : Sound (Qf.send q inp p) := by
  unfold Qf.send
  with_reducible repeat' first
    | assumption
    | (extract_lets +onlyGivenNames q; guard_hyp q : Qf := _; refine step_sound q ?_ (fun hq => ?_)
       rotate_left; clear_value q; rotate_left; subst q)
    | apply Qf.offer_sound | apply Qf.countEpoch_sound | apply Qf.noRoute_sound | apply Qf.sendFail_sound
    | split

theorem Qf.updPolicer_sound {q : Qf} {t : Tenant} {f : Policer → Policer} (hq : Sound q)
    : Sound (Qf.updPolicer q t f) := by
  unfold Qf.updPolicer
  with_reducible repeat' first
    | assumption | (extract_lets +onlyGivenNames x; clear_value x) | refine Sound.lit ?_ rfl rfl rfl

theorem Qf.policeCharge_sound {q : Qf} {t : Tenant} {len : Nat} (hq : Sound q) : Sound (Qf.policeCharge q t len) := by
  unfold Qf.policeCharge
  with_reducible repeat' first
    | assumption | (extract_lets +onlyGivenNames x; clear_value x) | apply Qf.updPolicer_sound

theorem Qf.tenantCount_sound {q : Qf} {t : Tenant} {k : Nat} {n : Nat} (hq : Sound q)
    : Sound (Qf.tenantCount q t k n) := by
  unfold Qf.tenantCount
  with_reducible repeat' first
    | assumption | (extract_lets +onlyGivenNames x; clear_value x) | refine Sound.lit ?_ rfl rfl rfl

theorem Qf.meter_sound {q : Qf} {s : Sector} {t : Tenant} {quantity : Nat} {v : ℤ} (hq : Sound q)
    : Sound (Qf.meter q s t quantity v) := by
  unfold Qf.meter
  with_reducible repeat' first
    | assumption | (extract_lets +onlyGivenNames x; clear_value x) | split | refine Sound.lit ?_ rfl rfl rfl

theorem Qf.markHeld_sound {q : Qf} {t : Tenant} (hq : Sound q) : Sound (Qf.markHeld q t) := by
  unfold Qf.markHeld
  with_reducible repeat' first
    | assumption | apply Qf.updPolicer_sound

theorem Qf.freeCells_sound {q : Qf} {e : QPkt} (hq : Sound q) : Sound (Qf.freeCells q e) := by
  unfold Qf.freeCells
  with_reducible repeat' first
    | assumption | (extract_lets +onlyGivenNames x; clear_value x) | split | refine Sound.lit ?_ rfl rfl rfl

theorem Qf.dequeue_sound {q : Qf} {f : QPkt → Bool} (hq : Sound q) : Sound (Qf.dequeue q f) := by
  unfold Qf.dequeue
  with_reducible repeat' first
    | assumption | (extract_lets +onlyGivenNames x; clear_value x) | extract_lets +onlyGivenNames x
    | apply Qf.freeCells_sound | split | refine Sound.lit ?_ rfl rfl rfl

theorem Qf.fillLane_sound {a1 : Nat} {a2 : Nat} {q : Qf} (hq : Sound q) : Sound (Qf.fillLane a1 a2 q) := by
  induction a1 generalizing a2 q with
  | zero =>
    unfold Qf.fillLane
    with_reducible repeat' (assumption)
  | succ n ih =>
    unfold Qf.fillLane
    with_reducible repeat' first
      | assumption | (extract_lets +onlyGivenNames x; clear_value x) | extract_lets +onlyGivenNames x | apply ih
      | apply Qf.dequeue_sound | apply Qf.enterLane_sound | split

theorem Qf.leaveLane_sound {q : Qf} {out : Ingress} {p : Packet} (hq : Sound q)
    : SoundOpt (Qf.leaveLane q out p) := by
  unfold Qf.leaveLane
  extract_lets ls
  refine okOpt_mapc (fun x => ?_)
  extract_lets rest q1
  exact Qf.fillLane_sound (Sound.of hq rfl rfl rfl rfl)

theorem Qf.take_sound {q : Qf} {i : Ingress} {p : Packet} (hq : Sound q) : Sound (Qf.take q i p) := by
  unfold Qf.take
  with_reducible repeat' first
    | assumption | extract_lets +onlyGivenNames x | apply Qf.dequeue_sound | apply Qf.leaveLane_sound
    | apply Qf.updLink_sound | split | apply okOpt_getD

theorem Qf.okAns_sound {q : Qf} (hq : Sound q) : Sound (Qf.okAns q).2 := by
  unfold Qf.okAns
  with_reducible repeat' (assumption)

theorem Qf.sessionEvent_sound {q : Qf} {cls : Nat} {record : List Byte} (hq : Sound q)
    : Sound (Qf.sessionEvent q cls record) := by
  unfold Qf.sessionEvent
  with_reducible repeat' first
    | assumption | (extract_lets +onlyGivenNames x; guard_hyp x : Mgmt := _; subst x)
    | (extract_lets +onlyGivenNames x; clear_value x) | refine Sound.lit ?_ rfl rfl rfl

theorem Qf.updProgress_sound {q : Qf} {i : Option Nat} {f : Progress → Progress} (hq : Sound q)
    : Sound (Qf.updProgress q i f) := by
  unfold Qf.updProgress
  with_reducible repeat' first
    | assumption | (extract_lets +onlyGivenNames x; guard_hyp x : Mgmt := _; subst x) | split
    | refine Sound.lit ?_ rfl rfl rfl

theorem Qf.endProgress_sound {q : Qf} {i : Option Nat} {state : Nat} {status : BitVec 8} (hq : Sound q)
    : Sound (Qf.endProgress q i state status) := by
  unfold Qf.endProgress
  with_reducible repeat' first
    | assumption
    | (extract_lets +onlyGivenNames q; guard_hyp q : Qf := _; refine step_sound q ?_ (fun hq => ?_)
       rotate_left; clear_value q; rotate_left; subst q)
    | apply Qf.sessionEvent_sound | apply Qf.updProgress_sound | split

theorem Qf.stageEnd_sound {q : Qf} {k : Option Nat} {i : FwImage} (hq : Sound q) : Sound (Qf.stageEnd q k i).2 := by
  unfold Qf.stageEnd
  with_reducible repeat' first
    | assumption
    | (extract_lets +onlyGivenNames q; guard_hyp q : Qf := _; refine step_sound q ?_ (fun hq => ?_)
       rotate_left; clear_value q; rotate_left; subst q)
    | (extract_lets +onlyGivenNames x; clear_value x) | extract_lets +onlyGivenNames x | apply Qf.okAns_sound
    | apply Qf.endProgress_sound | split | refine Sound.lit ?_ rfl rfl rfl

theorem Qf.newProgress_sound {q : Qf} {kind : Nat} {unit : Nat} {total : Nat} (hq : Sound q)
    : SoundOptP (Qf.newProgress q kind unit total) := by
  unfold Qf.newProgress
  with_reducible repeat' first
    | assumption | intro _ | (extract_lets +onlyGivenNames x; guard_hyp x : Mgmt := _; subst x)
    | extract_lets +onlyGivenNames x | refine Sound.lit ?_ rfl rfl rfl | apply okOptP_mapc

theorem Qf.badAns_sound {q : Qf} (hq : Sound q) : Sound (Qf.badAns q).2 := by
  unfold Qf.badAns
  with_reducible repeat' (assumption)

theorem Qf.refuseUpdate_sound {q : Qf} {code : Nat} (hq : Sound q) : Sound (Qf.refuseUpdate q code).2 := by
  unfold Qf.refuseUpdate
  with_reducible repeat' first
    | assumption | (extract_lets +onlyGivenNames x; clear_value x) | extract_lets +onlyGivenNames x
    | apply Qf.badAns_sound | refine Sound.lit ?_ rfl rfl rfl

theorem Qf.retryAns_sound {q : Qf} (hq : Sound q) : Sound (Qf.retryAns q).2 := by
  unfold Qf.retryAns
  with_reducible repeat' (assumption)

theorem Qf.stageOpen_sound {q : Qf} {total : Nat} (hq : Sound q) : Sound (Qf.stageOpen q total).2.2 := by
  unfold Qf.stageOpen
  with_reducible repeat' first
    | assumption | (extract_lets +onlyGivenNames x; clear_value x) | extract_lets +onlyGivenNames x
    | apply Qf.refuseUpdate_sound | apply Qf.okAns_sound | apply Qf.newProgress_sound | apply Qf.retryAns_sound
    | (split <;> try (rename_i heq; apply optp_eq at heq; refine step_sound _ (heq ?_) (fun hq => ?_)))
    | refine Sound.lit ?_ rfl rfl rfl

theorem Qf.violation_sound {q : Qf} {addr : BitVec 60} {world : Bool} {origin : Ep} {qpn : Qpn} {psn : Psn}
    {atHome : Bool} {t : Tenant} (hq : Sound q) : Sound (Qf.violation q addr world origin qpn psn atHome t) := by
  unfold Qf.violation
  extract_lets r full f q1
  have h1 : Sound q1 := by
    refine ⟨hq.1, hq.2.1, ?_, hq.2.2.2⟩
    show ((if q.mgmt.violations.length ≥ 1024 then q.mgmt.violations.drop 1 else q.mgmt.violations) ++ [r]).length ≤ 1024
    have := hq.2.2.1
    split <;> rename_i h <;> simp at h ⊢ <;> omega
  exact Qf.sessionEvent_sound h1

theorem Qf.respond_sound {q : Qf} {s : Sector} {p : Packet} (hq : Sound q) : Sound (Qf.respond q s p) := by
  unfold Qf.respond
  with_reducible repeat' first
    | assumption | apply Qf.offer_sound | apply Qf.sendPlain_sound | split

theorem Qf.answer_sound {q : Qf} {p : Packet} {o : BitVec 8} {st : BitVec 8} {payload : List Byte}
    (hq : Sound q) : Sound (Qf.answer q p o st payload) := by
  unfold Qf.answer
  with_reducible repeat' first
    | assumption | apply Qf.respond_sound

theorem Qf.answerFail_sound {q : Qf} {p : Packet} {st : Status} (hq : Sound q) : Sound (Qf.answerFail q p st) := by
  unfold Qf.answerFail
  with_reducible repeat' first
    | assumption | apply Qf.answer_sound

theorem Qf.updTarget_sound {q : Qf} {h : QpHdr} {f : TargetRec → TargetRec} (hq : Sound q)
    : Sound (Qf.updTarget q h f) := by
  unfold Qf.updTarget
  with_reducible repeat' first
    | assumption | (extract_lets +onlyGivenNames x; clear_value x) | refine Sound.lit ?_ rfl rfl rfl

theorem Qf.psnFinal_sound {q : Qf} {p : Packet} {st : BitVec 8} {result : Option (BitVec 128)} (hq : Sound q)
    : Sound (Qf.psnFinal q p st result) := by
  unfold Qf.psnFinal
  with_reducible repeat' first
    | assumption | apply Qf.updTarget_sound | split

theorem Qf.closeMsg_sound {q : Qf} {r : Reassembly} (hq : Sound q) : Sound (Qf.closeMsg q r) := by
  unfold Qf.closeMsg
  with_reducible repeat' first
    | assumption
    | (extract_lets +onlyGivenNames q; guard_hyp q : Qf := _; refine step_sound q ?_ (fun hq => ?_)
       rotate_left; clear_value q; rotate_left; subst q)
    | (extract_lets +onlyGivenNames x; clear_value x) | apply Qf.respond_sound | apply Qf.send_sound | split
    | refine Sound.lit ?_ rfl rfl rfl

theorem Qf.countMsg_sound {q : Qf} {p : Packet} {bytes : Nat} {st : BitVec 8} (hq : Sound q)
    : Sound (Qf.countMsg q p bytes st) := by
  unfold Qf.countMsg
  with_reducible repeat' first
    | assumption
    | (extract_lets +onlyGivenNames q; guard_hyp q : Qf := _; refine step_sound q ?_ (fun hq => ?_)
       rotate_left; clear_value q; rotate_left; subst q)
    | (extract_lets +onlyGivenNames x; clear_value x) | apply Qf.closeMsg_sound | split
    | refine Sound.lit ?_ rfl rfl rfl

theorem Qf.updVer_sound {q : Qf} {r : RegionId} {f : VersionRec → VersionRec} (hq : Sound q)
    : Sound (Qf.updVer q r f) := by
  unfold Qf.updVer
  with_reducible repeat' first
    | assumption | (extract_lets +onlyGivenNames x; clear_value x) | refine Sound.lit ?_ rfl rfl rfl

theorem Qf.dropHot_sound {q : Qf} {pg : BitVec 34} (hq : Sound q) : Sound (Qf.dropHot q pg) := by
  unfold Qf.dropHot
  with_reducible repeat' first
    | assumption | (extract_lets +onlyGivenNames x; clear_value x) | refine Sound.lit ?_ rfl rfl rfl

theorem Qf.ackDuplicate_sound {q : Qf} {t : TargetRec} {p : Packet} {psn : Psn} (hq : Sound q)
    : Sound (Qf.ackDuplicate q t p psn) := by
  unfold Qf.ackDuplicate
  with_reducible repeat' first
    | assumption
    | (extract_lets +onlyGivenNames q; guard_hyp q : Qf := _; refine step_sound q ?_ (fun hq => ?_)
       rotate_left; clear_value q; rotate_left; subst q)
    | (extract_lets +onlyGivenNames x; clear_value x) | apply Qf.answerFail_sound | apply Qf.answer_sound
    | split | refine Sound.lit ?_ rfl rfl rfl

theorem Qf.answerOwner_sound {q : Qf} {p : Packet} {h : QpHdr} {e : BitVec 32} (hq : Sound q)
    : Sound (Qf.answerOwner q p h e) := by
  unfold Qf.answerOwner
  with_reducible repeat' first
    | assumption | apply Qf.answerFail_sound

theorem Qf.targetCheck_sound {q : Qf} {p : Packet} (hq : Sound q) : Sound (Qf.targetCheck q p).2 := by
  unfold Qf.targetCheck
  with_reducible repeat' first
    | assumption
    | (extract_lets +onlyGivenNames q; guard_hyp q : Qf := _; refine step_sound q ?_ (fun hq => ?_)
       rotate_left; clear_value q; rotate_left; subst q)
    | (extract_lets +onlyGivenNames x; clear_value x) | apply Qf.updTarget_sound | apply Qf.answerFail_sound
    | apply Qf.ackDuplicate_sound | apply Qf.answerOwner_sound | split | refine Sound.lit ?_ rfl rfl rfl

theorem Qf.takeIn_sound {q : Qf} {p : Packet} (hq : Sound q) : Sound (Qf.takeIn q p) := by
  unfold Qf.takeIn
  with_reducible repeat' first
    | assumption | apply Qf.updTarget_sound | split

theorem Qf.squall_sound {q : Qf} {source : Nat} (hq : Sound q) : Sound (Qf.squall q source) := by
  unfold Qf.squall
  with_reducible repeat' first
    | assumption
    | (extract_lets +onlyGivenNames q; guard_hyp q : Qf := _; refine step_sound q ?_ (fun hq => ?_)
       rotate_left; clear_value q; rotate_left; subst q)
    | (extract_lets +onlyGivenNames x; clear_value x) | split | refine Sound.lit ?_ rfl rfl rfl

theorem Qf.faultSev_sound {q : Qf} {cls : Nat} {sev : Nat} {i : FaultInfo} (hq : Sound q)
    : Sound (Qf.faultSev q cls sev i) := by
  unfold Qf.faultSev
  extract_lets seq r full f q1 q2 q3
  have h1 : Sound q1 := by
    refine ⟨hq.1, ?_, hq.2.2.1, hq.2.2.2⟩
    show ((if q.flt.ring.length ≥ 4096 then q.flt.ring.drop 1 else q.flt.ring) ++ [r]).length ≤ 4096
    have := hq.2.1
    split <;> rename_i h <;> simp at h ⊢ <;> omega
  have h2 : Sound q2 := Qf.sessionEvent_sound h1
  have h3 : Sound q3 := by
    show Sound (if _ then _ else _)
    split
    · exact Qf.event_sound h2
    · exact h2
  split
  · exact Qf.squall_sound h3
  · exact h3

theorem Qf.fault_sound {q : Qf} {cls : Nat} {i : FaultInfo} (hq : Sound q) : Sound (Qf.fault q cls i) := by
  unfold Qf.fault
  with_reducible repeat' first
    | assumption
    | (extract_lets +onlyGivenNames q; guard_hyp q : Qf := _; refine step_sound q ?_ (fun hq => ?_)
       rotate_left; clear_value q; rotate_left; subst q)
    | (extract_lets +onlyGivenNames x; guard_hyp x : Faults := _; subst x)
    | (extract_lets +onlyGivenNames x; clear_value x) | extract_lets +onlyGivenNames x | apply Qf.faultSev_sound
    | split | refine Sound.lit ?_ rfl rfl rfl

theorem Qf.evalWaits_sound {q : Qf} {n : LineNo} {l : Line} (hq : Sound q) : Sound (Qf.evalWaits q n l) := by
  unfold Qf.evalWaits
  with_reducible repeat' first
    | assumption
    | (extract_lets +onlyGivenNames q; guard_hyp q : Qf := _; refine step_sound q ?_ (fun hq => ?_)
       rotate_left; clear_value q; rotate_left; subst q)
    | (extract_lets +onlyGivenNames x; clear_value x) | extract_lets +onlyGivenNames x
    | refine foldl_sound (fun q x hq => ?_) _ ?_ | apply Qf.answer_sound | refine Sound.lit ?_ rfl rfl rfl

theorem Qf.lineFault_sound {q : Qf} {cls : Nat} {n : LineNo} {st : Status} {world : Bool} (hq : Sound q)
    : Sound (Qf.lineFault q cls n st world) := by
  unfold Qf.lineFault
  with_reducible repeat' first
    | assumption | (extract_lets +onlyGivenNames x; clear_value x) | apply Qf.fault_sound

theorem Qf.toTray_sound {q : Qf} {ep : Ep} {n : LineNo} {ps : List Packet} {read : Bool} {tag : Tag}
    (hq : Sound q) : Sound (Qf.toTray q ep n ps read tag) := by
  unfold Qf.toTray
  with_reducible repeat' first
    | assumption | extract_lets +onlyGivenNames x | refine foldl_sound (fun q x hq => ?_) _ ?_
    | apply Qf.noRoute_sound | apply Qf.updLink_sound | apply Qf.sendOn_sound | split

theorem Qf.takeTrayTag_sound {q : Qf} (hq : Sound q) : Sound (Qf.takeTrayTag q).2 := by
  unfold Qf.takeTrayTag
  with_reducible repeat' first
    | assumption | (extract_lets +onlyGivenNames x; clear_value x) | refine Sound.lit ?_ rfl rfl rfl

theorem Qf.trayWrite_sound {q : Qf} {n : LineNo} {s : StoredLine} {waits : Bool} {wb : Option (Packet × Line)}
    (hq : Sound q) : Sound (Qf.trayWrite q n s waits wb) := by
  unfold Qf.trayWrite
  with_reducible repeat' first
    | assumption | (extract_lets +onlyGivenNames x; clear_value x) | extract_lets +onlyGivenNames x
    | apply Qf.toTray_sound | apply Qf.takeTrayTag_sound | refine Sound.lit ?_ rfl rfl rfl

theorem Qf.placeStored_sound {q : Qf} {n : LineNo} {s : StoredLine} {wb : Option (Packet × Line)} (hq : Sound q)
    : Sound (Qf.placeStored q n s wb).2 := by
  unfold Qf.placeStored
  with_reducible repeat' first
    | assumption
    | (extract_lets +onlyGivenNames q; guard_hyp q : Qf := _; refine step_sound q ?_ (fun hq => ?_)
       rotate_left; clear_value q; rotate_left; subst q)
    | (extract_lets +onlyGivenNames x; clear_value x) | apply Qf.trayWrite_sound | apply Qf.dropHot_sound
    | split | refine Sound.lit ?_ rfl rfl rfl

theorem Qf.placeLine_sound {q : Qf} {n : LineNo} {l : Line} (hq : Sound q) : Sound (Qf.placeLine q n l).2 := by
  unfold Qf.placeLine
  with_reducible repeat' first
    | assumption | apply Qf.placeStored_sound

theorem Qf.cirrusRead_sound {q : Qf} {n : LineNo} {for_ : LineNo} (hq : Sound q)
    : Sound (Qf.cirrusRead q n for_) := by
  unfold Qf.cirrusRead
  with_reducible repeat' first
    | assumption | (extract_lets +onlyGivenNames x; clear_value x) | extract_lets +onlyGivenNames x
    | apply Qf.send_sound | apply Qf.takeTrayTag_sound | refine Sound.lit ?_ rfl rfl rfl

theorem Qf.touchHot_sound {q : Qf} {pg : BitVec 34} (hq : Sound q) : Sound (Qf.touchHot q pg) := by
  unfold Qf.touchHot
  with_reducible repeat' first
    | assumption | (extract_lets +onlyGivenNames x; clear_value x) | refine Sound.lit ?_ rfl rfl rfl

theorem Qf.macFailure_sound {q : Qf} {n : LineNo} (hq : Sound q) : Sound (Qf.macFailure q n) := by
  unfold Qf.macFailure
  with_reducible repeat' first
    | assumption | (extract_lets +onlyGivenNames x; clear_value x) | extract_lets +onlyGivenNames x
    | apply Qf.fault_sound | refine Sound.lit ?_ rfl rfl rfl

theorem Qf.trayRead_sound {q : Qf} {n : LineNo} {for_ : LineNo} (hq : Sound q) : Sound (Qf.trayRead q n for_) := by
  unfold Qf.trayRead
  with_reducible repeat' first
    | assumption | (extract_lets +onlyGivenNames x; clear_value x) | extract_lets +onlyGivenNames x
    | apply Qf.toTray_sound | apply Qf.takeTrayTag_sound | refine Sound.lit ?_ rfl rfl rfl

theorem Qf.updExtent_sound {q : Qf} {s : Slot} {f : Extent → Extent} (hq : Sound q) : Sound (Qf.updExtent q s f) := by
  unfold Qf.updExtent
  with_reducible repeat' first
    | assumption | (extract_lets +onlyGivenNames x; clear_value x) | refine Sound.lit ?_ rfl rfl rfl

theorem Qf.updKeys_sound {q : Qf} {t : Tenant} {f : TenantKeys → TenantKeys} (hq : Sound q)
    : Sound (Qf.updKeys q t f) := by
  unfold Qf.updKeys
  with_reducible repeat' first
    | assumption | (extract_lets +onlyGivenNames x; clear_value x) | refine Sound.lit ?_ rfl rfl rfl

theorem Qf.failWaits_sound {q : Qf} {f : WaitSlot → Bool} {st : Status} (hq : Sound q)
    : Sound (Qf.failWaits q f st) := by
  unfold Qf.failWaits
  with_reducible repeat' first
    | assumption
    | (extract_lets +onlyGivenNames q; guard_hyp q : Qf := _; refine step_sound q ?_ (fun hq => ?_)
       rotate_left; clear_value q; rotate_left; subst q)
    | (extract_lets +onlyGivenNames x; clear_value x) | extract_lets +onlyGivenNames x
    | refine foldl_sound (fun q x hq => ?_) _ ?_ | apply Qf.answerFail_sound | refine Sound.lit ?_ rfl rfl rfl

theorem Qf.openMsg_sound {q : Qf} {p : Packet} (hq : Sound q) : SoundOpt (Qf.openMsg q p) := by
  unfold Qf.openMsg
  with_reducible repeat' first
    | assumption | intro q hq | (extract_lets +onlyGivenNames x; guard_hyp x : Option Qf := _; subst x)
    | (extract_lets +onlyGivenNames x; clear_value x) | extract_lets +onlyGivenNames x | split
    | refine Sound.lit ?_ rfl rfl rfl | exact okOpt_none | apply okOpt_some | apply okOpt_map

theorem Qf.updEgress_sound {q : Qf} {h : HalfPort} {f : Egress → Egress} (hq : Sound q)
    : Sound (Qf.updEgress q h f) := by
  unfold Qf.updEgress
  with_reducible repeat' first
    | assumption | (extract_lets +onlyGivenNames x; clear_value x) | refine Sound.lit ?_ rfl rfl rfl

theorem Qf.noWay_sound {q : Qf} {i : Ingress} {p : Packet} (hq : Sound q) : Sound (Qf.noWay q i p) := by
  unfold Qf.noWay
  with_reducible repeat' first
    | assumption | (extract_lets +onlyGivenNames x; clear_value x) | apply Qf.sendPlain_sound
    | apply Qf.noRoute_sound | apply Qf.sendFail_sound | split

theorem Qf.transit_sound {q : Qf} {i : Ingress} {p : Packet} (hq : Sound q) : Sound (Qf.transit q i p) := by
  unfold Qf.transit
  with_reducible repeat' first
    | assumption
    | (extract_lets +onlyGivenNames q; guard_hyp q : Qf := _; refine step_sound q ?_ (fun hq => ?_)
       rotate_left; clear_value q; rotate_left; subst q)
    | (extract_lets +onlyGivenNames x; clear_value x) | apply Qf.noWay_sound | apply Qf.enqueue_sound
    | apply Qf.countEpoch_sound | split | refine Sound.lit ?_ rfl rfl rfl

theorem Qf.takeFree_sound {q : Qf} (hq : Sound q) : Sound (Qf.takeFree q).2 := by
  unfold Qf.takeFree
  with_reducible repeat' first
    | assumption | refine Sound.lit ?_ rfl rfl rfl

theorem takenAns_sound {x : Bool × Qf} (hx : Sound (x).2) : Sound (takenAns x).2 := by
  unfold takenAns
  with_reducible repeat' first
    | assumption | apply Qf.okAns_sound | apply Qf.badAns_sound | split

theorem Qf.flood_sound {q : Qf} {o : BitVec 8} {src : Ep} {payload : List Byte} {but : Option HalfPort}
    (hq : Sound q) : Sound (Qf.flood q o src payload but) := by
  unfold Qf.flood
  with_reducible repeat' first
    | assumption | (extract_lets +onlyGivenNames x; clear_value x) | refine foldl_sound (fun q x hq => ?_) _ ?_
    | apply Qf.sendOn_sound

theorem Qf.clearMsg_sound {q : Qf} {src : Ep} {id : BitVec 24} {counted : Bool} (hq : Sound q)
    : Sound (Qf.clearMsg q src id counted) := by
  unfold Qf.clearMsg
  with_reducible repeat' first
    | assumption
    | (extract_lets +onlyGivenNames q; guard_hyp q : Qf := _; refine step_sound q ?_ (fun hq => ?_)
       rotate_left; clear_value q; rotate_left; subst q)
    | (extract_lets +onlyGivenNames x; clear_value x) | split | refine Sound.lit ?_ rfl rfl rfl

theorem Qf.clearSource_sound {q : Qf} {src : Ep} (hq : Sound q) : Sound (Qf.clearSource q src) := by
  unfold Qf.clearSource
  with_reducible repeat' first
    | assumption | extract_lets +onlyGivenNames x | refine foldl_sound (fun q x hq => ?_) _ ?_
    | apply Qf.clearMsg_sound

theorem Qf.endSessions_sound {q : Qf} {gone : AgSession → Bool} (hq : Sound q) : Sound (Qf.endSessions q gone) := by
  unfold Qf.endSessions
  with_reducible repeat' first
    | assumption
    | (extract_lets +onlyGivenNames q; guard_hyp q : Qf := _; refine step_sound q ?_ (fun hq => ?_)
       rotate_left; clear_value q; rotate_left; subst q)
    | (extract_lets +onlyGivenNames x; guard_hyp x : Mgmt := _; subst x)
    | (extract_lets +onlyGivenNames x; clear_value x) | extract_lets +onlyGivenNames x
    | refine foldl_sound (fun q x hq => ?_) _ ?_ | apply Qf.endProgress_sound | refine Sound.lit ?_ rfl rfl rfl

theorem Qf.stageImage_sound {q : Qf} {i : FwImage} (hq : Sound q) : Sound (Qf.stageImage q i).2 := by
  unfold Qf.stageImage
  with_reducible repeat' first
    | assumption
    | (extract_lets +onlyGivenNames x; guard_hyp x : Option Nat × Ans := _
       refine step_sound x.2.2 ?_ (fun hx => ?_); rotate_left; clear_value x; rotate_left; subst x)
    | apply Qf.stageEnd_sound | apply Qf.stageOpen_sound | split

theorem Qf.resetLater_sound {q : Qf} (hq : Sound q) : Sound (Qf.resetLater q) := by
  unfold Qf.resetLater
  with_reducible repeat' first
    | assumption | (extract_lets +onlyGivenNames x; clear_value x) | split | refine Sound.lit ?_ rfl rfl rfl

theorem Qf.activate_sound {q : Qf} (hq : Sound q) : Sound (Qf.activate q).2 := by
  unfold Qf.activate
  with_reducible repeat' first
    | assumption | extract_lets +onlyGivenNames x | apply Qf.resetLater_sound | apply Qf.refuseUpdate_sound
    | apply Qf.okAns_sound | split | refine Sound.lit ?_ rfl rfl rfl

theorem Qf.rollBack_sound {q : Qf} (hq : Sound q) : Sound (Qf.rollBack q).2 := by
  unfold Qf.rollBack
  with_reducible repeat' first
    | assumption | extract_lets +onlyGivenNames x | apply Qf.resetLater_sound | apply Qf.refuseUpdate_sound
    | apply Qf.okAns_sound | split | refine Sound.lit ?_ rfl rfl rfl

theorem Qf.confirm_sound {q : Qf} (hq : Sound q) : Sound (Qf.confirm q).2 := by
  unfold Qf.confirm
  with_reducible repeat' first
    | assumption | (extract_lets +onlyGivenNames x; clear_value x) | extract_lets +onlyGivenNames x
    | apply Qf.okAns_sound | apply Qf.badAns_sound | split | refine Sound.lit ?_ rfl rfl rfl

theorem Qf.pair_sound {q : Qf} {i : Ingress} {p : Packet} (hq : Sound q) : Sound (Qf.pair q i p).2 := by
  unfold Qf.pair
  with_reducible repeat' first
    | assumption | (extract_lets +onlyGivenNames x; clear_value x) | split | refine Sound.lit ?_ rfl rfl rfl

theorem Qf.sampleOne_sound {q : Qf} {k : Nat} {egressPt : Bool} {h : HalfPort} {inp : Ingress}
    {out : Option Ingress} {cut : Bool} {p : Packet} (hq : Sound q)
    : Sound (Qf.sampleOne q k egressPt h inp out cut p) := by
  unfold Qf.sampleOne
  with_reducible repeat' first
    | assumption | (extract_lets +onlyGivenNames x; clear_value x) | split | refine Sound.lit ?_ rfl rfl rfl

theorem Qf.sample_sound {q : Qf} {egressPt : Bool} {h : HalfPort} {inp : Ingress} {out : Option Ingress}
    {cut : Bool} {p : Packet} (hq : Sound q) : Sound (Qf.sample q egressPt h inp out cut p) := by
  unfold Qf.sample
  with_reducible repeat' first
    | assumption | extract_lets +onlyGivenNames x | refine foldl_sound (fun q x hq => ?_) _ ?_
    | apply Qf.sampleOne_sound

theorem Qf.badCells_sound {q : Qf} {inp : Ingress} {p : Packet} (hq : Sound q) : Sound (Qf.badCells q inp p) := by
  unfold Qf.badCells
  with_reducible repeat' first
    | assumption
    | (extract_lets +onlyGivenNames q; guard_hyp q : Qf := _; refine step_sound q ?_ (fun hq => ?_)
       rotate_left; clear_value q; rotate_left; subst q)
    | (extract_lets +onlyGivenNames x; clear_value x) | apply Qf.sendFail_sound | split
    | refine Sound.lit ?_ rfl rfl rfl

theorem Qf.readCells_sound {q : Qf} (hq : Sound q) : Sound (Qf.readCells q).2 := by
  unfold Qf.readCells
  with_reducible repeat' first
    | assumption | refine Sound.lit ?_ rfl rfl rfl

theorem Qf.onlyIf_sound {q : Qf} {b : Bool} {f : Qf → Qf} (hq : Sound q) (hf1 : ∀ y0, Sound y0 → Sound (f y0))
    : Sound (Qf.onlyIf q b f) := by
  unfold Qf.onlyIf
  with_reducible repeat' first
    | assumption | apply hf1 | split

end Sys2Proof.Machine
end

