-- ==== Sys2Proof/Laws/SoundMemory.lean ====
section
/-! SUPPORT. Laws/SoundMemory.lean: the home unit, withdrawal, the extents, the edge and coherence
keep Safety.Sound: one lemma per operation and per command. -/

set_option linter.tactic.unusedName false

namespace Sys2Proof.Machine
open Sys2Proof.Safety

theorem Qf.updStream_sound {q : Qf} {i : Ingress} {src : Ep} {st : Stream} {f : StreamRec → StreamRec}
    (hq : Sound q) : Sound (Qf.updStream q i src st f) := by
  unfold Qf.updStream
  with_reducible repeat' first
    | assumption | (extract_lets +onlyGivenNames x; clear_value x) | split | refine Sound.lit ?_ rfl rfl rfl

theorem Qf.pennantFail_sound {q : Qf} {i : Ingress} {p : Packet} {st : BitVec 8} (hq : Sound q)
    : Sound (Qf.pennantFail q i p st) := by
  unfold Qf.pennantFail
  with_reducible repeat' first
    | assumption | (extract_lets +onlyGivenNames x; clear_value x) | apply Qf.offer_sound
    | apply Qf.sendOn_sound | split

theorem Qf.combine_sound {q : Qf} {i : Ingress} {p : Packet} (hq : Sound q) : Sound (Qf.combine q i p).2 := by
  unfold Qf.combine
  with_reducible repeat' first
    | assumption | intro _
    | (extract_lets +onlyGivenNames x; guard_hyp x : List Combine → Qf := _
       refine stepP (P := ∀ y0, Sound (x y0)) ?_ (fun hl0 => ?_); rotate_left; clear_value x; rotate_left
       subst x)
    | (extract_lets +onlyGivenNames x; clear_value x) | extract_lets +onlyGivenNames x | apply hl0 | split
    | refine Sound.lit ?_ rfl rfl rfl

theorem Qf.sendReq_sound {q : Qf} {u : Ingress} {p : Packet} (hq : Sound q) : Sound (Qf.sendReq q u p) := by
  unfold Qf.sendReq
  with_reducible repeat' first
    | assumption
    | (extract_lets +onlyGivenNames x; guard_hyp x : Bool × Qf := _; refine step_sound x.2 ?_ (fun hx => ?_)
       rotate_left; clear_value x; rotate_left; subst x)
    | apply Qf.send_sound | apply Qf.combine_sound | split

theorem Qf.openReq_sound {q : Qf} {h : HeldReq} (hq : Sound q) : Sound (Qf.openReq q h) := by
  unfold Qf.openReq
  with_reducible repeat' first
    | assumption | (extract_lets +onlyGivenNames x; clear_value x) | refine Sound.lit ?_ rfl rfl rfl

theorem Qf.addHazard_sound {q : Qf} {i : Ingress} {src : Ep} {p : Packet} {len : Nat} (hq : Sound q)
    : Sound (Qf.addHazard q i src p len) := by
  unfold Qf.addHazard
  with_reducible repeat' first
    | assumption | (extract_lets +onlyGivenNames x; clear_value x) | split | refine Sound.lit ?_ rfl rfl rfl

theorem Qf.emitReq_sound {q : Qf} {h : HeldReq} (hq : Sound q) : Sound (Qf.emitReq q h) := by
  unfold Qf.emitReq
  with_reducible repeat' first
    | assumption
    | (extract_lets +onlyGivenNames q; guard_hyp q : Qf := _; refine step_sound q ?_ (fun hq => ?_)
       rotate_left; clear_value q; rotate_left; subst q)
    | (extract_lets +onlyGivenNames x; clear_value x) | extract_lets +onlyGivenNames x | apply Qf.sendReq_sound
    | apply Qf.policeCharge_sound | apply Qf.send_sound | apply Qf.tenantCount_sound | apply Qf.openReq_sound
    | apply Qf.addHazard_sound | apply Qf.meter_sound | split

theorem Qf.launch_sound {q : Qf} {h0 : HeldReq} (hq : Sound q) : Sound (Qf.launch q h0) := by
  unfold Qf.launch
  with_reducible repeat' first
    | assumption | (extract_lets +onlyGivenNames x; clear_value x) | extract_lets +onlyGivenNames x
    | apply Qf.pennantFail_sound | apply Qf.emitReq_sound | apply Qf.openReq_sound | split

theorem Qf.passPolicer_sound {q : Qf} {h : HeldReq} (hq : Sound q) : Sound (Qf.passPolicer q h) := by
  unfold Qf.passPolicer
  with_reducible repeat' first
    | assumption | (extract_lets +onlyGivenNames x; clear_value x) | extract_lets +onlyGivenNames x
    | apply Qf.launch_sound | apply Qf.markHeld_sound | split | refine Sound.lit ?_ rfl rfl rfl

theorem Qf.holdPennant_sound {q : Qf} {h : HeldReq} (hq : Sound q) : Sound (Qf.holdPennant q h) := by
  unfold Qf.holdPennant
  with_reducible repeat' first
    | assumption | (extract_lets +onlyGivenNames x; clear_value x) | apply Qf.updStream_sound
    | apply Qf.passPolicer_sound | split

theorem Qf.submit_sound {q : Qf} {h0 : HeldReq} (hq : Sound q) : Sound (Qf.submit q h0) := by
  unfold Qf.submit
  with_reducible repeat' first
    | assumption
    | (extract_lets +onlyGivenNames q; guard_hyp q : Qf := _; refine step_sound q ?_ (fun hq => ?_)
       rotate_left; clear_value q; rotate_left; subst q)
    | (extract_lets +onlyGivenNames x; clear_value x) | apply Qf.holdPennant_sound | apply Qf.updStream_sound
    | apply Qf.passPolicer_sound | split | refine Sound.lit ?_ rfl rfl rfl

theorem Qf.recordFail_sound {q : Qf} {i : Ingress} {src : Ep} {st : Stream} {code : BitVec 8} (hq : Sound q)
    : Sound (Qf.recordFail q i src st code) := by
  unfold Qf.recordFail
  with_reducible repeat' first
    | assumption | apply Qf.updStream_sound

theorem Qf.regionEntry_sound {q : Qf} {s : Sector} {t : Tenant} {ven : BitVec 28} (hq : Sound q)
    : Sound (Qf.regionEntry q s t ven).2 := by
  unfold Qf.regionEntry
  with_reducible repeat' first
    | assumption | (extract_lets +onlyGivenNames x; clear_value x) | split | refine Sound.lit ?_ rfl rfl rfl

theorem Qf.translate_sound {q : Qf} {s : Sector} {t : Tenant} {world : Bool} {need : Rights} {a : BitVec 60}
    (hq : Sound q) : Sound (Qf.translate q s t world need a).2 := by
  unfold Qf.translate
  with_reducible repeat' first
    | assumption
    | (extract_lets +onlyGivenNames q; guard_hyp q : Qf := _; refine step_sound q ?_ (fun hq => ?_)
       rotate_left; clear_value q; rotate_left; subst q)
    | (extract_lets +onlyGivenNames x; guard_hyp x : BitVec 128 × Qf := _
       refine step_sound x.2 ?_ (fun hx => ?_); rotate_left; clear_value x; rotate_left; subst x)
    | (extract_lets +onlyGivenNames x; clear_value x) | apply Qf.regionEntry_sound | split

theorem Qf.stampFlag_sound {q : Qf} {s : Sector} {p : Packet} (hq : Sound q) : Sound (Qf.stampFlag q s p).2 := by
  unfold Qf.stampFlag
  with_reducible repeat' first
    | assumption
    | (extract_lets +onlyGivenNames x; guard_hyp x : Except Status (RtEntry × BitVec 60) × Qf := _
       refine step_sound x.2 ?_ (fun hx => ?_); rotate_left; clear_value x; rotate_left; subst x)
    | apply Qf.translate_sound | split

theorem Qf.stampCounter_sound {q : Qf} {s : Sector} {p : Packet} (hq : Sound q)
    : Sound (Qf.stampCounter q s p).2 := by
  unfold Qf.stampCounter
  with_reducible repeat' first
    | assumption
    | (extract_lets +onlyGivenNames x; guard_hyp x : Except Status (RtEntry × BitVec 60) × Qf := _
       refine step_sound x.2 ?_ (fun hx => ?_); rotate_left; clear_value x; rotate_left; subst x)
    | apply Qf.translate_sound | split

theorem Qf.edgeCheck_sound {q : Qf} {i : Ingress} {p : Packet} {data : Option Packet} (hq : Sound q)
    : Sound (Qf.edgeCheck q i p data).2 := by
  unfold Qf.edgeCheck
  with_reducible repeat' first
    | assumption
    | (extract_lets +onlyGivenNames x; guard_hyp x : Except Status (RtEntry × BitVec 60) × Qf := _
       refine step_sound x.2 ?_ (fun hx => ?_); rotate_left; clear_value x; rotate_left; subst x)
    | (extract_lets +onlyGivenNames x; guard_hyp x : Except Status Packet × Qf := _
       refine step_sound x.2 ?_ (fun hx => ?_); rotate_left; clear_value x; rotate_left; subst x)
    | (extract_lets +onlyGivenNames x; clear_value x) | apply Qf.translate_sound | apply Qf.stampFlag_sound
    | apply Qf.stampCounter_sound | split

theorem Qf.issue_sound {q : Qf} {s : Sector} {owner : Owner} {p : Packet} {data : Option Packet} (hq : Sound q)
    : Sound (Qf.issue q s owner p data).2 := by
  unfold Qf.issue
  with_reducible repeat' first
    | assumption
    | (extract_lets +onlyGivenNames q; guard_hyp q : Qf := _; refine step_sound q ?_ (fun hq => ?_)
       rotate_left; clear_value q; rotate_left; subst q)
    | (extract_lets +onlyGivenNames x; guard_hyp x : Except Status Packet × Qf := _
       refine step_sound x.2 ?_ (fun hx => ?_); rotate_left; clear_value x; rotate_left; subst x)
    | (extract_lets +onlyGivenNames x; clear_value x) | apply Qf.submit_sound | apply Qf.recordFail_sound
    | apply Qf.edgeCheck_sound | split | refine Sound.lit ?_ rfl rfl rfl

theorem Qf.engFlag_sound {q : Qf} {w : Issuer} {o : Owner} {r : PennantRec} (hq : Sound q)
    : Sound (Qf.engFlag q w o r).2 := by
  unfold Qf.engFlag
  with_reducible repeat' first
    | assumption | apply Qf.issue_sound

theorem Qf.engRead_sound {q : Qf} {w : Issuer} {o : Owner} {a : Nat} {len : Nat} (hq : Sound q)
    : Sound (Qf.engRead q w o a len).2 := by
  unfold Qf.engRead
  with_reducible repeat' first
    | assumption | apply Qf.issue_sound

theorem Qf.engWrite_sound {q : Qf} {w : Issuer} {o : Owner} {counter : Nat} {a : Nat} {bs : List Byte}
    {msg : MsgHdr} (hq : Sound q) : Sound (Qf.engWrite q w o counter a bs msg).2 := by
  unfold Qf.engWrite
  with_reducible repeat' first
    | assumption | (extract_lets +onlyGivenNames x; clear_value x) | apply Qf.issue_sound

theorem Qf.takeMsg_sound {q : Qf} (hq : Sound q) : Sound (Qf.takeMsg q).2 := by
  unfold Qf.takeMsg
  with_reducible repeat' first
    | assumption | (extract_lets +onlyGivenNames x; clear_value x) | refine Sound.lit ?_ rfl rfl rfl

theorem Qf.nameHomes_sound {q : Qf} {ps : List (Ep × Nat)} (hq : Sound q) : Sound (Qf.nameHomes q ps).2.2 := by
  unfold Qf.nameHomes
  with_reducible repeat' first
    | assumption
    | (extract_lets +onlyGivenNames x; guard_hyp x : List (BitVec 24 × Ep × Nat) × Qf := _
       refine step_sound x.2 ?_ (fun hx => ?_); rotate_left; clear_value x; rotate_left; subst x)
    | extract_lets +onlyGivenNames x | refine foldl_ok2 (fun x c hx => ?_) _ ?_ | apply Qf.takeMsg_sound

theorem Qf.dropMsg_sound {q : Qf} {w : Issuer} {home : Ep} {id : BitVec 24} (hq : Sound q)
    : Sound (Qf.dropMsg q w home id) := by
  unfold Qf.dropMsg
  with_reducible repeat' first
    | assumption | (extract_lets +onlyGivenNames x; clear_value x) | apply Qf.send_sound

theorem Qf.engWriteAll_sound {q : Qf} {w : Issuer} {o : Owner} {counter : Nat} {a : Nat} {bs : List Byte}
    (hq : Sound q) : Sound (Qf.engWriteAll q w o counter a bs).2.2 := by
  unfold Qf.engWriteAll
  with_reducible repeat' first
    | assumption
    | (extract_lets +onlyGivenNames x; guard_hyp x : Option Status × Qf := _
       refine step_sound x.2 ?_ (fun hx => ?_); rotate_left; clear_value x; rotate_left; subst x)
    | (extract_lets +onlyGivenNames x; guard_hyp x : Option Status × Nat × Qf := _
       refine step_sound x.2.2 ?_ (fun hx => ?_); rotate_left; clear_value x; rotate_left; subst x)
    | (extract_lets +onlyGivenNames x; clear_value x) | extract_lets +onlyGivenNames x
    | refine foldl_sound (fun q x hq => ?_) _ ?_ | refine foldl_ok3 (fun x c hx => ?_) _ ?_
    | apply Qf.engWrite_sound | apply Qf.nameHomes_sound | apply Qf.dropMsg_sound
    | (split <;> try (rename_i heq; apply pair_eq2 at heq; refine step_sound _ (heq ?_) (fun hq => ?_)))

theorem Qf.updQuota_sound {q : Qf} {t : Tenant} {f : Quota → Quota} (hq : Sound q) : Sound (Qf.updQuota q t f) := by
  unfold Qf.updQuota
  with_reducible repeat' first
    | assumption | (extract_lets +onlyGivenNames x; clear_value x) | refine Sound.lit ?_ rfl rfl rfl

theorem Qf.markStart_sound {q : Qf} {m : MgrRef} {b : Bool} (hq : Sound q) : Sound (Qf.markStart q m b) := by
  unfold Qf.markStart
  with_reducible repeat' first
    | assumption | (extract_lets +onlyGivenNames x; guard_hyp x : HostIf := _; subst x)
    | refine Sound.lit ?_ rfl rfl rfl

theorem Qf.issueRaw_sound {q : Qf} {s : Sector} {owner : Owner} {p : Packet} {data : Option Packet}
    (hq : Sound q) : Sound (Qf.issueRaw q s owner p data) := by
  unfold Qf.issueRaw
  with_reducible repeat' first
    | assumption
    | (extract_lets +onlyGivenNames q; guard_hyp q : Qf := _; refine step_sound q ?_ (fun hq => ?_)
       rotate_left; clear_value q; rotate_left; subst q)
    | (extract_lets +onlyGivenNames x; clear_value x) | apply Qf.send_sound | split
    | refine Sound.lit ?_ rfl rfl rfl

theorem Qf.moveNext_sound {q : Qf} {s : Slot} (hq : Sound q) : Sound (Qf.moveNext q s) := by
  unfold Qf.moveNext
  with_reducible repeat' first
    | assumption | (extract_lets +onlyGivenNames x; clear_value x) | extract_lets +onlyGivenNames x
    | apply Qf.issueRaw_sound | apply Qf.takeMsg_sound | split

theorem Qf.moveStart_sound {q : Qf} {m : MgrRef} {s : Slot} {h : Ep} {n : Slot} (hq : Sound q)
    : Sound (Qf.moveStart q m s h n) := by
  unfold Qf.moveStart
  with_reducible repeat' first
    | assumption | (extract_lets +onlyGivenNames x; clear_value x) | extract_lets +onlyGivenNames x
    | apply Qf.newProgress_sound | apply Qf.complete_sound | apply Qf.moveNext_sound
    | (split <;> try (rename_i heq; apply optp_eq at heq; refine step_sound _ (heq ?_) (fun hq => ?_)))
    | refine Sound.lit ?_ rfl rfl rfl

theorem Qf.failClient_sound {q : Qf} {h : HalfPort} {p : Packet} {st : Status} (hq : Sound q)
    : Sound (Qf.failClient q h p st) := by
  unfold Qf.failClient
  with_reducible repeat' first
    | assumption | (extract_lets +onlyGivenNames x; clear_value x) | apply Qf.sendOn_sound

theorem Qf.refuseClient_sound {q : Qf} {h : HalfPort} {p : Packet} {st : Status} (hq : Sound q)
    : Sound (Qf.refuseClient q h p st) := by
  unfold Qf.refuseClient
  with_reducible repeat' first
    | assumption | extract_lets +onlyGivenNames x | apply Qf.failClient_sound | apply Qf.recordFail_sound
    | split

theorem Qf.clientRequest_sound {q : Qf} {h : HalfPort} {p0 : Packet} {data : Option Packet} (hq : Sound q)
    : Sound (Qf.clientRequest q h p0 data) := by
  unfold Qf.clientRequest
  with_reducible repeat' first
    | assumption
    | (extract_lets +onlyGivenNames q; guard_hyp q : Qf := _; refine step_sound q ?_ (fun hq => ?_)
       rotate_left; clear_value q; rotate_left; subst q)
    | (extract_lets +onlyGivenNames x; guard_hyp x : Except Status Packet × Qf := _
       refine step_sound x.2 ?_ (fun hx => ?_); rotate_left; clear_value x; rotate_left; subst x)
    | (extract_lets +onlyGivenNames x; clear_value x) | apply Qf.submit_sound | apply Qf.refuseClient_sound
    | apply Qf.failClient_sound | apply Qf.edgeCheck_sound | apply Qf.updLink_sound | split

theorem Qf.releasePennants_sound {q : Qf} {src : Ep} {st : Stream} (hq : Sound q)
    : Sound (Qf.releasePennants q src st) := by
  unfold Qf.releasePennants
  with_reducible repeat' first
    | assumption
    | (extract_lets +onlyGivenNames q; guard_hyp q : Qf := _; refine step_sound q ?_ (fun hq => ?_)
       rotate_left; clear_value q; rotate_left; subst q)
    | (extract_lets +onlyGivenNames x; clear_value x) | extract_lets +onlyGivenNames x
    | refine foldl_sound (fun q x hq => ?_) _ ?_ | apply Qf.updStream_sound | apply Qf.passPolicer_sound | split
    | refine Sound.lit ?_ rfl rfl rfl

theorem Qf.releaseHeld_sound {a1 : Nat} {a2 : List HeldReq} {q : Qf} (hq : Sound q)
    : Sound (Qf.releaseHeld a1 a2 q) := by
  induction a1 generalizing a2 q with
  | zero => exact hq
  | succ n ih =>
    cases a2 with
    | nil => exact hq
    | cons h hs =>
      unfold Qf.releaseHeld
      extract_lets q' before
      split
      · exact ih hq
      · exact ih (Qf.passPolicer_sound (Sound.of hq rfl rfl rfl rfl))

theorem Qf.unhold_sound {q : Qf} (hq : Sound q) : Sound (Qf.unhold q) := by
  unfold Qf.unhold
  with_reducible repeat' first
    | assumption | apply Qf.releaseHeld_sound

theorem Qf.dropHazard_sound {q : Qf} {src : Ep} {p : Packet} (hq : Sound q) : Sound (Qf.dropHazard q src p) := by
  unfold Qf.dropHazard
  with_reducible repeat' first
    | assumption | (extract_lets +onlyGivenNames x; clear_value x) | split | refine Sound.lit ?_ rfl rfl rfl

theorem Qf.closeReq_sound {q : Qf} {r : OpenReq} (hq : Sound q) : Sound (Qf.closeReq q r) := by
  unfold Qf.closeReq
  with_reducible repeat' first
    | assumption | (extract_lets +onlyGivenNames x; clear_value x) | extract_lets +onlyGivenNames x
    | apply Qf.dropHazard_sound | refine Sound.lit ?_ rfl rfl rfl

theorem Qf.resolved_sound {q : Qf} {r : OpenReq} {st : BitVec 8} (hq : Sound q) : Sound (Qf.resolved q r st) := by
  unfold Qf.resolved
  with_reducible repeat' first
    | assumption
    | (extract_lets +onlyGivenNames q; guard_hyp q : Qf := _; refine step_sound q ?_ (fun hq => ?_)
       rotate_left; clear_value q; rotate_left; subst q)
    | (extract_lets +onlyGivenNames x; clear_value x) | extract_lets +onlyGivenNames x
    | apply Qf.updStream_sound | apply Qf.releasePennants_sound | apply Qf.unhold_sound
    | apply Qf.closeReq_sound | split

theorem Qf.dropHeld_sound {q : Qf} {mine : HeldReq → Bool} (hq : Sound q) : Sound (Qf.dropHeld q mine) := by
  unfold Qf.dropHeld
  with_reducible repeat' first
    | assumption
    | (extract_lets +onlyGivenNames q; guard_hyp q : Qf := _; refine step_sound q ?_ (fun hq => ?_)
       rotate_left; clear_value q; rotate_left; subst q)
    | (extract_lets +onlyGivenNames x; clear_value x) | extract_lets +onlyGivenNames x
    | refine foldl_sound (fun q x hq => ?_) _ ?_ | apply Qf.updStream_sound | apply Qf.releasePennants_sound
    | split | refine Sound.lit ?_ rfl rfl rfl

theorem Qf.refuse_sound {q : Qf} {p : Packet} {st : Status} (hq : Sound q) : Sound (Qf.refuse q p st) := by
  unfold Qf.refuse
  with_reducible repeat' first
    | assumption | apply Qf.answerFail_sound | apply Qf.answer_sound | split

theorem Qf.countKey_sound {q : Qf} {st : Status} (hq : Sound q) : Sound (Qf.countKey q st) := by
  unfold Qf.countKey
  with_reducible repeat' first
    | assumption | (extract_lets +onlyGivenNames x; clear_value x) | split | refine Sound.lit ?_ rfl rfl rfl

theorem Qf.homeViolation_sound {q : Qf} {p : Packet} {st : Status} (hq : Sound q)
    : Sound (Qf.homeViolation q p st) := by
  unfold Qf.homeViolation
  with_reducible repeat' first
    | assumption | (extract_lets +onlyGivenNames x; clear_value x) | apply Qf.violation_sound | split

theorem Qf.failChecked_sound {q : Qf} {p : Packet} {bytes : Nat} {st : Status} (hq : Sound q)
    : Sound (Qf.failChecked q p bytes st) := by
  unfold Qf.failChecked
  with_reducible repeat' first
    | assumption | extract_lets +onlyGivenNames x | apply Qf.refuse_sound | apply Qf.psnFinal_sound
    | apply Qf.countKey_sound | apply Qf.countMsg_sound | apply Qf.homeViolation_sound

theorem Qf.takeReserve_sound {q : Qf} {e : Extent} (hq : Sound q) : SoundOptP (Qf.takeReserve q e) := by
  unfold Qf.takeReserve
  with_reducible repeat' first
    | assumption
    | (extract_lets +onlyGivenNames q; guard_hyp q : Qf := _; refine step_sound q ?_ (fun hq => ?_)
       rotate_left; clear_value q; rotate_left; subst q)
    | (extract_lets +onlyGivenNames x; clear_value x) | extract_lets +onlyGivenNames x | apply Qf.updQuota_sound
    | apply Qf.meter_sound | split | refine Sound.lit ?_ rfl rfl rfl | exact okOptP_none | apply okOptP_some

theorem Qf.takePage_sound {q : Qf} {e : Extent} (hq : Sound q) : SoundOptP (Qf.takePage q e) := by
  unfold Qf.takePage
  with_reducible repeat' first
    | assumption | intro _ | extract_lets +onlyGivenNames x | apply Qf.takeReserve_sound
    | (split <;> try (rename_i heq; apply optp_eq at heq; refine step_sound _ (heq ?_) (fun hq => ?_)))
    | exact okOptP_none | apply okOptP_some | apply okOptP_mapc

theorem Qf.updLine_sound {q : Qf} {n : LineNo} {f : BlockedLine → BlockedLine} (hq : Sound q)
    : Sound (Qf.updLine q n f) := by
  unfold Qf.updLine
  with_reducible repeat' first
    | assumption | (extract_lets +onlyGivenNames x; clear_value x) | refine Sound.lit ?_ rfl rfl rfl

theorem Qf.dropHotFor_sound {q : Qf} {r : LineReq} (hq : Sound q) : Sound (Qf.dropHotFor q r) := by
  unfold Qf.dropHotFor
  with_reducible repeat' first
    | assumption | apply Qf.dropHot_sound | split

theorem Qf.orderInternal_sound {q : Qf} {r : LineReq} (hq : Sound q) : Sound (Qf.orderInternal q r) := by
  unfold Qf.orderInternal
  with_reducible repeat' first
    | assumption | extract_lets +onlyGivenNames x | apply Qf.updLine_sound | apply Qf.dropHotFor_sound

theorem Qf.cowPage_sound {q : Qf} {p : Packet} {n : LineNo} (hq : Sound q) : SoundOpt (Qf.cowPage q p n) := by
  unfold Qf.cowPage
  extract_lets e v page old
  split
  · exact okOpt_some hq
  · have h : SoundOptP (q.takePage e) := Qf.takePage_sound hq
    generalize q.takePage e = o at h
    cases o with
    | none => exact okOpt_none
    | some x =>
      refine okOpt_some ?_
      have hx : Sound x.2 := h.elim x rfl
      refine foldl_sound (fun q i hq => Qf.orderInternal_sound hq) _ (Qf.updVer_sound (Sound.of hx rfl rfl rfl rfl))

theorem Qf.draftPage_sound {q : Qf} {p : Packet} (hq : Sound q) : SoundOpt (Qf.draftPage q p) := by
  unfold Qf.draftPage
  with_reducible repeat' first
    | assumption | apply Qf.cowPage_sound | split | apply okOpt_some

theorem Qf.release_sound {q : Qf} {n : LineNo} (hq : Sound q) : Sound (Qf.release q n) := by
  unfold Qf.release
  with_reducible repeat' first
    | assumption | (extract_lets +onlyGivenNames x; clear_value x) | apply Qf.updLine_sound | split
    | refine Sound.lit ?_ rfl rfl rfl

theorem Qf.replicaEnd_sound {q : Qf} {s : Slot} {st : Status} (hq : Sound q) : Sound (Qf.replicaEnd q s st) := by
  unfold Qf.replicaEnd
  with_reducible repeat' first
    | assumption
    | (extract_lets +onlyGivenNames q; guard_hyp q : Qf := _; refine step_sound q ?_ (fun hq => ?_)
       rotate_left; clear_value q; rotate_left; subst q)
    | (extract_lets +onlyGivenNames x; clear_value x) | apply Qf.complete_sound | split
    | refine Sound.lit ?_ rfl rfl rfl

theorem Qf.updBulk_sound {q : Qf} {id : Nat} {f : BulkOp → BulkOp} (hq : Sound q) : Sound (Qf.updBulk q id f) := by
  unfold Qf.updBulk
  with_reducible repeat' first
    | assumption | (extract_lets +onlyGivenNames x; clear_value x) | refine Sound.lit ?_ rfl rfl rfl

theorem Qf.endBulk_sound {q : Qf} {id : Nat} (hq : Sound q) : Sound (Qf.endBulk q id) := by
  unfold Qf.endBulk
  with_reducible repeat' first
    | assumption
    | (extract_lets +onlyGivenNames q; guard_hyp q : Qf := _; refine step_sound q ?_ (fun hq => ?_)
       rotate_left; clear_value q; rotate_left; subst q)
    | (extract_lets +onlyGivenNames x; clear_value x) | extract_lets +onlyGivenNames x | apply Qf.psnFinal_sound
    | apply Qf.countMsg_sound | apply Qf.answer_sound | apply Qf.meter_sound | apply Qf.orderInternal_sound
    | split | refine Sound.lit ?_ rfl rfl rfl

theorem Qf.pieceDone_sound {q : Qf} {id : Nat} {st : BitVec 8} {n : LineNo} {bytes : Nat} {l : Line}
    (hq : Sound q) : Sound (Qf.pieceDone q id st n bytes l) := by
  unfold Qf.pieceDone
  with_reducible repeat' first
    | assumption
    | (extract_lets +onlyGivenNames q; guard_hyp q : Qf := _; refine step_sound q ?_ (fun hq => ?_)
       rotate_left; clear_value q; rotate_left; subst q)
    | apply Qf.updBulk_sound | apply Qf.endBulk_sound | split

theorem Qf.failOne_sound {q : Qf} {r : LineReq} {st : Status} (hq : Sound q) : Sound (Qf.failOne q r st) := by
  unfold Qf.failOne
  with_reducible repeat' first
    | assumption
    | (extract_lets +onlyGivenNames q; guard_hyp q : Qf := _; refine step_sound q ?_ (fun hq => ?_)
       rotate_left; clear_value q; rotate_left; subst q)
    | (extract_lets +onlyGivenNames x; clear_value x) | extract_lets +onlyGivenNames x | apply Qf.psnFinal_sound
    | apply Qf.countKey_sound | apply Qf.replicaEnd_sound | apply Qf.answerFail_sound | apply Qf.answer_sound
    | apply Qf.pieceDone_sound | split | refine Sound.lit ?_ rfl rfl rfl

theorem Qf.failReq_sound {q : Qf} {r : LineReq} {st : Status} (hq : Sound q) : Sound (Qf.failReq q r st) := by
  unfold Qf.failReq
  with_reducible repeat' first
    | assumption | extract_lets +onlyGivenNames x | apply Qf.release_sound | apply Qf.failOne_sound | split

theorem Qf.order_sound {q : Qf} {r : LineReq} (hq : Sound q) : Sound (Qf.order q r) := by
  unfold Qf.order
  with_reducible repeat' first
    | assumption | (extract_lets +onlyGivenNames x; clear_value x) | extract_lets +onlyGivenNames x
    | apply Qf.updLine_sound | apply Qf.dropHotFor_sound | apply Qf.failReq_sound | split

theorem Qf.orderAll_sound {q : Qf} {a1 : List LineReq} (hq : Sound q) : SoundOpt (Qf.orderAll q a1) := by
  induction a1 generalizing q with
  | nil => exact okOpt_some hq
  | cons r rs ih =>
    unfold Qf.orderAll
    split
    · exact okOpt_none
    · exact ih (Qf.order_sound hq)

theorem Qf.holdForMove_sound {q : Qf} {p : Packet} {d : Option Packet} (hq : Sound q)
    : Sound (Qf.holdForMove q p d) := by
  unfold Qf.holdForMove
  with_reducible repeat' first
    | assumption | (extract_lets +onlyGivenNames x; clear_value x) | refine Sound.lit ?_ rfl rfl rfl

theorem Qf.updTxn_sound {q : Qf} {n : LineNo} {f : Txn → Txn} (hq : Sound q) : Sound (Qf.updTxn q n f) := by
  unfold Qf.updTxn
  with_reducible repeat' first
    | assumption | apply Qf.updLine_sound | split

theorem Qf.wbAnswer_sound {q : Qf} {n : LineNo} {t : Txn} {st : Status} (hq : Sound q)
    : Sound (Qf.wbAnswer q n t st) := by
  unfold Qf.wbAnswer
  with_reducible repeat' first
    | assumption
    | (extract_lets +onlyGivenNames q; guard_hyp q : Qf := _; refine step_sound q ?_ (fun hq => ?_)
       rotate_left; clear_value q; rotate_left; subst q)
    | extract_lets +onlyGivenNames x | apply Qf.answerFail_sound | apply Qf.updTxn_sound | apply Qf.answer_sound
    | apply Qf.meter_sound | split

theorem Qf.failTxn_sound {q : Qf} {n : LineNo} {t : Txn} {st : Status} (hq : Sound q)
    : Sound (Qf.failTxn q n t st) := by
  unfold Qf.failTxn
  with_reducible repeat' first
    | assumption | extract_lets +onlyGivenNames x | apply Qf.wbAnswer_sound | apply Qf.release_sound
    | apply Qf.failReq_sound

theorem Qf.setDir_sound {q : Qf} {n : LineNo} {d : Option DirEnt} (hq : Sound q) : Sound (Qf.setDir q n d) := by
  unfold Qf.setDir
  with_reducible repeat' first
    | assumption | (extract_lets +onlyGivenNames x; clear_value x) | split | refine Sound.lit ?_ rfl rfl rfl

theorem Qf.dropHolder_sound {q : Qf} {n : LineNo} {x : Ep} (hq : Sound q) : Sound (Qf.dropHolder q n x) := by
  unfold Qf.dropHolder
  with_reducible repeat' first
    | assumption | (extract_lets +onlyGivenNames x; clear_value x) | apply Qf.setDir_sound | split

theorem Qf.sendSnoops_sound {q : Qf} {n : LineNo} {op : BitVec 8} {eps : List Ep} (hq : Sound q)
    : Sound (Qf.sendSnoops q n op eps) := by
  unfold Qf.sendSnoops
  with_reducible repeat' first
    | assumption
    | (extract_lets +onlyGivenNames q; guard_hyp q : Qf := _; refine step_sound q ?_ (fun hq => ?_)
       rotate_left; clear_value q; rotate_left; subst q)
    | (extract_lets +onlyGivenNames x; clear_value x) | extract_lets +onlyGivenNames x
    | refine foldl_sound (fun q x hq => ?_) _ ?_ | apply Qf.dropHolder_sound | apply Qf.updTxn_sound
    | apply Qf.sendPlain_sound | split | refine Sound.lit ?_ rfl rfl rfl

theorem Qf.placedNow_sound {q : Qf} {n : LineNo} {t : Txn} (hq : Sound q) : Sound (Qf.placedNow q n t) := by
  unfold Qf.placedNow
  with_reducible repeat' first
    | assumption
    | (extract_lets +onlyGivenNames q; guard_hyp q : Qf := _; refine step_sound q ?_ (fun hq => ?_)
       rotate_left; clear_value q; rotate_left; subst q)
    | (extract_lets +onlyGivenNames x; clear_value x) | extract_lets +onlyGivenNames x | apply Qf.wbAnswer_sound
    | apply Qf.psnFinal_sound | apply Qf.release_sound | apply Qf.evalWaits_sound | apply Qf.dropHolder_sound
    | apply Qf.answer_sound | apply Qf.meter_sound | apply Qf.pieceDone_sound | apply Qf.setDir_sound | split

theorem Qf.placeFor_sound {q : Qf} {n : LineNo} {l : Line} (hq : Sound q) : Sound (Qf.placeFor q n l) := by
  unfold Qf.placeFor
  with_reducible repeat' first
    | assumption
    | (extract_lets +onlyGivenNames q; guard_hyp q : Qf := _; refine step_sound q ?_ (fun hq => ?_)
       rotate_left; clear_value q; rotate_left; subst q)
    | extract_lets +onlyGivenNames x | apply Qf.failTxn_sound | apply Qf.updTxn_sound | apply Qf.placedNow_sound
    | apply Qf.placeLine_sound
    | (split <;> try (rename_i heq; apply pair_eq at heq; refine step_sound _ (heq ?_) (fun hq => ?_)))

theorem Qf.grant_sound {q : Qf} {n : LineNo} {t : Txn} {l : Line} (hq : Sound q) : Sound (Qf.grant q n t l) := by
  unfold Qf.grant
  with_reducible repeat' first
    | assumption
    | (extract_lets +onlyGivenNames q; guard_hyp q : Qf := _; refine step_sound q ?_ (fun hq => ?_)
       rotate_left; clear_value q; rotate_left; subst q)
    | (extract_lets +onlyGivenNames x; clear_value x) | extract_lets +onlyGivenNames x | apply Qf.release_sound
    | apply Qf.respond_sound | apply Qf.updTxn_sound | apply Qf.failReq_sound | apply Qf.meter_sound | split

theorem Qf.readOut_sound {q : Qf} {n : LineNo} {t : Txn} {l : Line} (hq : Sound q) : Sound (Qf.readOut q n t l) := by
  unfold Qf.readOut
  with_reducible repeat' first
    | assumption
    | (extract_lets +onlyGivenNames q; guard_hyp q : Qf := _; refine step_sound q ?_ (fun hq => ?_)
       rotate_left; clear_value q; rotate_left; subst q)
    | (extract_lets +onlyGivenNames x; clear_value x) | extract_lets +onlyGivenNames x
    | refine foldl_sound (fun q x hq => ?_) _ ?_ | apply Qf.psnFinal_sound | apply Qf.release_sound
    | apply Qf.updLine_sound | apply Qf.answer_sound | apply Qf.meter_sound | apply Qf.pieceDone_sound | split

theorem Qf.gotLine_sound {q : Qf} {n : LineNo} {t : Txn} {s : StoredLine} {l : Line} (hq : Sound q)
    : Sound (Qf.gotLine q n t s l) := by
  unfold Qf.gotLine
  split
  · exact Qf.failTxn_sound hq
  · cases t.req.op <;> dsimp -zeta only <;> first
      | exact Qf.readOut_sound hq
      | exact Qf.grant_sound hq
      | exact Qf.placeFor_sound hq
      | exact Qf.release_sound hq
      | exact Qf.release_sound (Qf.evalWaits_sound hq)
      | (extract_lets k old
         split
         · exact Qf.placeFor_sound hq
         · exact Qf.release_sound hq)
      | (split
         · exact Qf.grant_sound hq
         · extract_lets r
           exact Qf.placeFor_sound (Qf.updTxn_sound hq))

theorem Qf.fillNext_sound {q : Qf} {f : Nat} (hq : Sound q) : Sound (Qf.fillNext q f) := by
  unfold Qf.fillNext
  with_reducible repeat' first
    | assumption
    | (extract_lets +onlyGivenNames q; guard_hyp q : Qf := _; refine step_sound q ?_ (fun hq => ?_)
       rotate_left; clear_value q; rotate_left; subst q)
    | apply Qf.orderInternal_sound | apply Qf.updProgress_sound | split

theorem Qf.fillDone_sound {q : Qf} {n : LineNo} {s : Option StoredLine} (hq : Sound q)
    : Sound (Qf.fillDone q n s) := by
  unfold Qf.fillDone
  with_reducible repeat' first
    | assumption
    | (extract_lets +onlyGivenNames q; guard_hyp q : Qf := _; refine step_sound q ?_ (fun hq => ?_)
       rotate_left; clear_value q; rotate_left; subst q)
    | (extract_lets +onlyGivenNames x; clear_value x) | extract_lets +onlyGivenNames x | apply Qf.fillNext_sound
    | split | refine Sound.lit ?_ rfl rfl rfl

theorem Qf.replicaSend_sound {q : Qf} {n : LineNo} {s : StoredLine} (hq : Sound q)
    : Sound (Qf.replicaSend q n s) := by
  unfold Qf.replicaSend
  with_reducible repeat' first
    | assumption | (extract_lets +onlyGivenNames x; clear_value x) | extract_lets +onlyGivenNames x
    | apply Qf.send_sound | apply Qf.takeTrayTag_sound | split | refine Sound.lit ?_ rfl rfl rfl

theorem Qf.hotAdd_sound {q : Qf} {n : LineNo} {s : StoredLine} (hq : Sound q) : Sound (Qf.hotAdd q n s) := by
  unfold Qf.hotAdd
  with_reducible repeat' first
    | assumption | (extract_lets +onlyGivenNames x; clear_value x) | refine Sound.lit ?_ rfl rfl rfl

theorem Qf.gotStored_sound {q : Qf} {n : LineNo} {t : Txn} {s : Except Status StoredLine} (hq : Sound q)
    : Sound (Qf.gotStored q n t s) := by
  unfold Qf.gotStored
  with_reducible repeat' first
    | assumption | (extract_lets +onlyGivenNames x; clear_value x) | extract_lets +onlyGivenNames x
    | apply Qf.gotLine_sound | apply Qf.release_sound | apply Qf.fillDone_sound | apply Qf.failTxn_sound
    | apply Qf.replicaSend_sound | apply Qf.hotAdd_sound | apply Qf.macFailure_sound | split

theorem Qf.readFrom_sound {q : Qf} {n : LineNo} {t : Txn} {source : Source} (hq : Sound q)
    : Sound (Qf.readFrom q n t source) := by
  unfold Qf.readFrom
  with_reducible repeat' first
    | assumption
    | (extract_lets +onlyGivenNames q; guard_hyp q : Qf := _; refine step_sound q ?_ (fun hq => ?_)
       rotate_left; clear_value q; rotate_left; subst q)
    | (extract_lets +onlyGivenNames x; clear_value x) | extract_lets +onlyGivenNames x
    | apply Qf.cirrusRead_sound | apply Qf.touchHot_sound | apply Qf.gotStored_sound | apply Qf.updTxn_sound
    | apply Qf.trayRead_sound | split

theorem Qf.readFor_sound {q : Qf} {n : LineNo} {t : Txn} (hq : Sound q) : Sound (Qf.readFor q n t) := by
  unfold Qf.readFor
  with_reducible repeat' first
    | assumption | apply Qf.readFrom_sound

theorem Qf.gotDirty_sound {q : Qf} {n : LineNo} {t : Txn} {l : Line} (hq : Sound q)
    : Sound (Qf.gotDirty q n t l) := by
  unfold Qf.gotDirty
  with_reducible repeat' first
    | assumption | apply Qf.release_sound | apply Qf.grant_sound | apply Qf.readOut_sound | split

theorem Qf.afterSnoops_sound {q : Qf} {n : LineNo} {t : Txn} (hq : Sound q) : Sound (Qf.afterSnoops q n t) := by
  unfold Qf.afterSnoops
  with_reducible repeat' first
    | assumption
    | (extract_lets +onlyGivenNames q; guard_hyp q : Qf := _; refine step_sound q ?_ (fun hq => ?_)
       rotate_left; clear_value q; rotate_left; subst q)
    | (extract_lets +onlyGivenNames x; clear_value x) | extract_lets +onlyGivenNames x | apply Qf.release_sound
    | apply Qf.placeFor_sound | apply Qf.grant_sound | apply Qf.readFor_sound | apply Qf.dropHolder_sound
    | apply Qf.updTxn_sound | apply Qf.answer_sound | apply Qf.gotDirty_sound | apply Qf.setDir_sound | split
    | refine Sound.lit ?_ rfl rfl rfl

theorem Qf.snoopsDone_sound {q : Qf} {n : LineNo} {t : Txn} (hq : Sound q) : Sound (Qf.snoopsDone q n t) := by
  unfold Qf.snoopsDone
  with_reducible repeat' first
    | assumption | (extract_lets +onlyGivenNames x; clear_value x) | extract_lets +onlyGivenNames x
    | apply Qf.wbAnswer_sound | apply Qf.evalWaits_sound | apply Qf.failTxn_sound | apply Qf.lineFault_sound
    | apply Qf.updTxn_sound | apply Qf.afterSnoops_sound | apply Qf.placeLine_sound
    | (split <;> try (rename_i heq; apply pair_eq at heq; refine step_sound _ (heq ?_) (fun hq => ?_)))

theorem Qf.checkSnoops_sound {q : Qf} {n : LineNo} (hq : Sound q) : Sound (Qf.checkSnoops q n) := by
  unfold Qf.checkSnoops
  with_reducible repeat' first
    | assumption | apply Qf.snoopsDone_sound | split

theorem Qf.snoopPhase_sound {q : Qf} {n : LineNo} {t : Txn} (hq : Sound q) : Sound (Qf.snoopPhase q n t) := by
  unfold Qf.snoopPhase
  with_reducible repeat' first
    | assumption | (extract_lets +onlyGivenNames x; guard_hyp x : Faults := _; subst x)
    | extract_lets +onlyGivenNames x | apply Qf.sendSnoops_sound | apply Qf.updTxn_sound
    | apply Qf.checkSnoops_sound | split | refine Sound.lit ?_ rfl rfl rfl

theorem Qf.begin_sound {q : Qf} {n : LineNo} {t : Txn} (hq : Sound q) : Sound (Qf.begin q n t) := by
  unfold Qf.begin
  with_reducible repeat' first
    | assumption
    | (extract_lets +onlyGivenNames q; guard_hyp q : Qf := _; refine step_sound q ?_ (fun hq => ?_)
       rotate_left; clear_value q; rotate_left; subst q)
    | (extract_lets +onlyGivenNames x; clear_value x) | apply Qf.failTxn_sound | apply Qf.updTxn_sound
    | apply Qf.orderInternal_sound | apply Qf.snoopPhase_sound | split

theorem Qf.orderAtomic_sound {q : Qf} {r : LineReq} (hq : Sound q) : Sound (Qf.orderAtomic q r).2 := by
  unfold Qf.orderAtomic
  with_reducible repeat' first
    | assumption | (extract_lets +onlyGivenNames x; clear_value x) | refine Sound.lit ?_ rfl rfl rfl

theorem Qf.serve_sound {q : Qf} {n : LineNo} {r : LineReq} (hq : Sound q) : Sound (Qf.serve q n r) := by
  unfold Qf.serve
  with_reducible repeat' first
    | assumption
    | (extract_lets +onlyGivenNames q; guard_hyp q : Qf := _; refine step_sound q ?_ (fun hq => ?_)
       rotate_left; clear_value q; rotate_left; subst q)
    | (extract_lets +onlyGivenNames x; clear_value x) | extract_lets +onlyGivenNames x | apply Qf.updLine_sound
    | apply Qf.failTxn_sound | apply Qf.fault_sound | apply Qf.begin_sound | apply Qf.afterSnoops_sound
    | apply Qf.orderAtomic_sound
    | (split <;> try (rename_i heq; apply pair_eq at heq; refine step_sound _ (heq ?_) (fun hq => ?_)))

theorem Qf.pump_sound {a1 : Nat} {q : Qf} (hq : Sound q) : Sound (Qf.pump a1 q) := by
  induction a1 generalizing q with
  | zero =>
    unfold Qf.pump
    with_reducible repeat' (assumption)
  | succ n ih =>
    unfold Qf.pump
    with_reducible repeat' first
      | assumption
      | (extract_lets +onlyGivenNames q; guard_hyp q : Qf := _; refine step_sound q ?_ (fun hq => ?_)
         rotate_left; clear_value q; rotate_left; subst q)
      | (extract_lets +onlyGivenNames x; clear_value x) | extract_lets +onlyGivenNames x | apply ih
      | apply Qf.serve_sound | apply Qf.updLine_sound | apply Qf.snoopPhase_sound | split

theorem Qf.settleLines_sound {q : Qf} (hq : Sound q) : Sound (Qf.settleLines q) := by
  unfold Qf.settleLines
  with_reducible repeat' first
    | assumption | apply Qf.pump_sound

theorem Qf.dropHotSlot_sound {q : Qf} {s : Slot} (hq : Sound q) : Sound (Qf.dropHotSlot q s) := by
  unfold Qf.dropHotSlot
  with_reducible repeat' first
    | assumption | (extract_lets +onlyGivenNames x; clear_value x) | refine Sound.lit ?_ rfl rfl rfl

theorem Qf.notifyShort_sound {q : Qf} (hq : Sound q) : Sound (Qf.notifyShort q) := by
  unfold Qf.notifyShort
  with_reducible repeat' first
    | assumption | (extract_lets +onlyGivenNames x; clear_value x) | extract_lets +onlyGivenNames x
    | refine foldl_sound (fun q x hq => ?_) _ ?_ | apply Qf.sendPlain_sound | split

theorem Qf.checkShort_sound {q : Qf} (hq : Sound q) : Sound (Qf.checkShort q) := by
  unfold Qf.checkShort
  with_reducible repeat' first
    | assumption | (extract_lets +onlyGivenNames x; clear_value x) | extract_lets +onlyGivenNames x
    | apply Qf.notifyShort_sound | split | refine Sound.lit ?_ rfl rfl rfl

theorem Qf.releaseFrame_sound {q : Qf} {s : Slot} {st : Status} (hq : Sound q) : Sound (Qf.releaseFrame q s st) := by
  unfold Qf.releaseFrame
  with_reducible repeat' first
    | assumption
    | (extract_lets +onlyGivenNames q; guard_hyp q : Qf := _; refine step_sound q ?_ (fun hq => ?_)
       rotate_left; clear_value q; rotate_left; subst q)
    | (extract_lets +onlyGivenNames x; clear_value x) | extract_lets +onlyGivenNames x | apply Qf.updQuota_sound
    | apply Qf.endProgress_sound | apply Qf.checkShort_sound | apply Qf.meter_sound | apply Qf.updExtent_sound
    | split | refine Sound.lit ?_ rfl rfl rfl

theorem Qf.updWd_sound {q : Qf} {s : Slot} {f : Withdrawal → Withdrawal} (hq : Sound q) : Sound (Qf.updWd q s f) := by
  unfold Qf.updWd
  with_reducible repeat' first
    | assumption | (extract_lets +onlyGivenNames x; clear_value x) | refine Sound.lit ?_ rfl rfl rfl

theorem Qf.scrubStop_sound {q : Qf} {s : Slot} {st : Status} (hq : Sound q) : Sound (Qf.scrubStop q s st) := by
  unfold Qf.scrubStop
  with_reducible repeat' first
    | assumption
    | (extract_lets +onlyGivenNames q; guard_hyp q : Qf := _; refine step_sound q ?_ (fun hq => ?_)
       rotate_left; clear_value q; rotate_left; subst q)
    | (extract_lets +onlyGivenNames x; clear_value x) | apply Qf.fault_sound | apply Qf.endProgress_sound
    | apply Qf.complete_sound | apply Qf.updWd_sound | split

theorem Qf.scrubNext_sound {q : Qf} {s : Slot} (hq : Sound q) : Sound (Qf.scrubNext q s) := by
  unfold Qf.scrubNext
  with_reducible repeat' first
    | assumption
    | (extract_lets +onlyGivenNames q; guard_hyp q : Qf := _; refine step_sound q ?_ (fun hq => ?_)
       rotate_left; clear_value q; rotate_left; subst q)
    | (extract_lets +onlyGivenNames x; clear_value x) | apply Qf.scrubStop_sound | apply Qf.updLink_sound
    | apply Qf.takeTrayTag_sound | apply Qf.sendOn_sound | apply Qf.updWd_sound
    | (split <;> try (rename_i heq; apply pair_eq at heq; refine step_sound _ (heq ?_) (fun hq => ?_)))

theorem Qf.dropReplica_sound {q : Qf} {s : Slot} (hq : Sound q) : Sound (Qf.dropReplica q s) := by
  unfold Qf.dropReplica
  with_reducible repeat' first
    | assumption
    | (extract_lets +onlyGivenNames q; guard_hyp q : Qf := _; refine step_sound q ?_ (fun hq => ?_)
       rotate_left; clear_value q; rotate_left; subst q)
    | (extract_lets +onlyGivenNames x; clear_value x) | apply Qf.updQuota_sound | apply Qf.meter_sound
    | apply Qf.updExtent_sound | split | refine Sound.lit ?_ rfl rfl rfl

theorem Qf.scrubStart_sound {q : Qf} {s : Slot} (hq : Sound q) : Sound (Qf.scrubStart q s) := by
  unfold Qf.scrubStart
  with_reducible repeat' first
    | assumption
    | (extract_lets +onlyGivenNames q; guard_hyp q : Qf := _; refine step_sound q ?_ (fun hq => ?_)
       rotate_left; clear_value q; rotate_left; subst q)
    | extract_lets +onlyGivenNames x | apply Qf.dropHotSlot_sound | apply Qf.releaseFrame_sound
    | apply Qf.scrubNext_sound | apply Qf.updExtent_sound | apply Qf.updProgress_sound
    | apply Qf.dropReplica_sound | apply Qf.updWd_sound

theorem Qf.drainChecks_sound {q : Qf} (hq : Sound q) : Sound (Qf.drainChecks q) := by
  unfold Qf.drainChecks
  with_reducible repeat' first
    | assumption | (extract_lets +onlyGivenNames x; clear_value x) | refine foldl_sound (fun q x hq => ?_) _ ?_
    | apply Qf.scrubStart_sound | split

theorem Qf.sweepTurn_sound {q : Qf} {t : Tenant} (hq : Sound q) : Sound (Qf.sweepTurn q t) := by
  unfold Qf.sweepTurn
  with_reducible repeat' first
    | assumption
    | (extract_lets +onlyGivenNames q; guard_hyp q : Qf := _; refine step_sound q ?_ (fun hq => ?_)
       rotate_left; clear_value q; rotate_left; subst q)
    | (extract_lets +onlyGivenNames x; clear_value x) | extract_lets +onlyGivenNames x | apply Qf.updKeys_sound
    | apply Qf.orderInternal_sound | apply Qf.updProgress_sound | split

theorem Qf.failFill_sound {q : Qf} {s : Slot} {st : Status} (hq : Sound q) : Sound (Qf.failFill q s st) := by
  unfold Qf.failFill
  with_reducible repeat' first
    | assumption
    | (extract_lets +onlyGivenNames q; guard_hyp q : Qf := _; refine step_sound q ?_ (fun hq => ?_)
       rotate_left; clear_value q; rotate_left; subst q)
    | (extract_lets +onlyGivenNames x; clear_value x) | apply Qf.endProgress_sound | split
    | refine Sound.lit ?_ rfl rfl rfl

theorem Qf.withdrawNow_sound {q : Qf} {s : Slot} (hq : Sound q) : Sound (Qf.withdrawNow q s) := by
  unfold Qf.withdrawNow
  with_reducible repeat' first
    | assumption
    | (extract_lets +onlyGivenNames q; guard_hyp q : Qf := _; refine step_sound q ?_ (fun hq => ?_)
       rotate_left; clear_value q; rotate_left; subst q)
    | apply Qf.failWaits_sound | apply Qf.failFill_sound | apply Qf.updExtent_sound | apply Qf.updWd_sound

theorem Qf.withdrawBegin_sound {q : Qf} {s : Slot} {tw : Nat} {cmd : Option MgrRef} {prog : Option Nat}
    {removal : Bool} (hq : Sound q) : Sound (Qf.withdrawBegin q s tw cmd prog removal) := by
  unfold Qf.withdrawBegin
  with_reducible repeat' first
    | assumption
    | (extract_lets +onlyGivenNames q; guard_hyp q : Qf := _; refine step_sound q ?_ (fun hq => ?_)
       rotate_left; clear_value q; rotate_left; subst q)
    | apply Qf.withdrawNow_sound | apply Qf.updWd_sound | split

theorem Qf.startWithdraw_sound {q : Qf} {m : MgrRef} {s : Slot} {tw : Nat} (hq : Sound q)
    : Sound (Qf.startWithdraw q m s tw) := by
  unfold Qf.startWithdraw
  with_reducible repeat' first
    | assumption | extract_lets +onlyGivenNames x | apply Qf.withdrawBegin_sound | apply Qf.newProgress_sound
    | apply Qf.complete_sound
    | (split <;> try (rename_i heq; apply optp_eq at heq; refine step_sound _ (heq ?_) (fun hq => ?_)))

theorem Qf.resumeScrub_sound {q : Qf} {m : MgrRef} {s : Slot} (hq : Sound q) : Sound (Qf.resumeScrub q m s) := by
  unfold Qf.resumeScrub
  with_reducible repeat' first
    | assumption
    | (extract_lets +onlyGivenNames q; guard_hyp q : Qf := _; refine step_sound q ?_ (fun hq => ?_)
       rotate_left; clear_value q; rotate_left; subst q)
    | (extract_lets +onlyGivenNames x; clear_value x) | apply Qf.scrubNext_sound | apply Qf.newProgress_sound
    | apply Qf.complete_sound | apply Qf.updProgress_sound | apply Qf.updWd_sound
    | (split <;> try (rename_i heq; apply optp_eq at heq; refine step_sound _ (heq ?_) (fun hq => ?_)))

theorem Qf.placeT0_sound {q : Qf} {m : MgrRef} {s : Slot} (hq : Sound q) : Sound (Qf.placeT0 q m s) := by
  unfold Qf.placeT0
  with_reducible repeat' first
    | assumption
    | (extract_lets +onlyGivenNames q; guard_hyp q : Qf := _; refine step_sound q ?_ (fun hq => ?_)
       rotate_left; clear_value q; rotate_left; subst q)
    | (extract_lets +onlyGivenNames x; clear_value x) | extract_lets +onlyGivenNames x | apply Qf.updQuota_sound
    | apply Qf.newProgress_sound | apply Qf.checkShort_sound | apply Qf.meter_sound | apply Qf.updExtent_sound
    | apply Qf.complete_sound | apply Qf.fillNext_sound
    | (split <;> try (rename_i heq; apply optp_eq at heq; refine step_sound _ (heq ?_) (fun hq => ?_)))
    | refine Sound.lit ?_ rfl rfl rfl

theorem Qf.restoreEntry_sound {q : Qf} {m : MgrRef} {s : Slot} {entry : BitVec 128} (hq : Sound q)
    : Sound (Qf.restoreEntry q m s entry) := by
  unfold Qf.restoreEntry
  with_reducible repeat' first
    | assumption
    | (extract_lets +onlyGivenNames q; guard_hyp q : Qf := _; refine step_sound q ?_ (fun hq => ?_)
       rotate_left; clear_value q; rotate_left; subst q)
    | (extract_lets +onlyGivenNames x; clear_value x) | extract_lets +onlyGivenNames x
    | apply Qf.updExtent_sound | apply Qf.complete_sound | refine Sound.lit ?_ rfl rfl rfl

theorem Qf.assign_sound {q : Qf} {s : Slot} {tray : Ep} {x : BitVec 13} {t : Tenant} {r : RegionId}
    {flags : BitVec 8} (hq : Sound q) : Sound (Qf.assign q s tray x t r flags).2 := by
  unfold Qf.assign
  with_reducible repeat' first
    | assumption
    | (extract_lets +onlyGivenNames q; guard_hyp q : Qf := _; refine step_sound q ?_ (fun hq => ?_)
       rotate_left; clear_value q; rotate_left; subst q)
    | (extract_lets +onlyGivenNames x; clear_value x) | apply Qf.updQuota_sound | apply Qf.meter_sound
    | apply Qf.updVer_sound | apply Qf.updExtent_sound | split

theorem Qf.replicaNext_sound {q : Qf} {s : Slot} (hq : Sound q) : Sound (Qf.replicaNext q s) := by
  unfold Qf.replicaNext
  with_reducible repeat' first
    | assumption | apply Qf.orderInternal_sound | split

theorem Qf.replicate_sound {q : Qf} {m : MgrRef} {s : Slot} {lender : Ep} {x : BitVec 16} (hq : Sound q)
    : Sound (Qf.replicate q m s lender x) := by
  unfold Qf.replicate
  with_reducible repeat' first
    | assumption
    | (extract_lets +onlyGivenNames q; guard_hyp q : Qf := _; refine step_sound q ?_ (fun hq => ?_)
       rotate_left; clear_value q; rotate_left; subst q)
    | (extract_lets +onlyGivenNames x; clear_value x) | apply Qf.replicaNext_sound | apply Qf.complete_sound
    | split | refine Sound.lit ?_ rfl rfl rfl

theorem Qf.runExt_sound {q : Qf} {m : MgrRef} {s : Slot} {c : ExtCmd} (hq : Sound q) : Sound (Qf.runExt q m s c) := by
  unfold Qf.runExt
  with_reducible repeat' first
    | assumption
    | (extract_lets +onlyGivenNames x; guard_hyp x : Status × Qf := _; refine step_sound x.2 ?_ (fun hx => ?_)
       rotate_left; clear_value x; rotate_left; subst x)
    | (extract_lets +onlyGivenNames x; clear_value x) | apply Qf.moveStart_sound | apply Qf.startWithdraw_sound
    | apply Qf.resumeScrub_sound | apply Qf.placeT0_sound | apply Qf.restoreEntry_sound
    | apply Qf.complete_sound | apply Qf.assign_sound | apply Qf.replicate_sound | split

theorem Qf.wake_sound {q : Qf} {s : Slot} (hq : Sound q) : Sound (Qf.wake q s) := by
  unfold Qf.wake
  with_reducible repeat' first
    | assumption
    | (extract_lets +onlyGivenNames q; guard_hyp q : Qf := _; refine step_sound q ?_ (fun hq => ?_)
       rotate_left; clear_value q; rotate_left; subst q)
    | (extract_lets +onlyGivenNames x; clear_value x) | extract_lets +onlyGivenNames x
    | refine foldl_sound (fun q x hq => ?_) _ ?_ | apply Qf.markStart_sound | apply Qf.runExt_sound | split
    | refine Sound.lit ?_ rfl rfl rfl

theorem Qf.wakeAll_sound {q : Qf} (hq : Sound q) : Sound (Qf.wakeAll q) := by
  unfold Qf.wakeAll
  with_reducible repeat' first
    | assumption | extract_lets +onlyGivenNames x | refine foldl_sound (fun q x hq => ?_) _ ?_
    | apply Qf.wake_sound

theorem Qf.settle_sound {q : Qf} (hq : Sound q) : Sound (Qf.settle q) := by
  unfold Qf.settle
  with_reducible repeat' first
    | assumption
    | (extract_lets +onlyGivenNames q; guard_hyp q : Qf := _; refine step_sound q ?_ (fun hq => ?_)
       rotate_left; clear_value q; rotate_left; subst q)
    | (extract_lets +onlyGivenNames x; clear_value x) | extract_lets +onlyGivenNames x
    | refine foldl_sound (fun q x hq => ?_) _ ?_ | apply Qf.settleLines_sound | apply Qf.drainChecks_sound
    | apply Qf.sweepTurn_sound | apply Qf.wakeAll_sound | split

theorem Qf.homeLine_sound {q0 : Qf} {op : LineOp} {p : Packet} {l : Line} (hq : Sound q0)
    : Sound (Qf.homeLine q0 op p l) := by
  unfold Qf.homeLine
  with_reducible repeat' first
    | assumption
    | (extract_lets +onlyGivenNames q; guard_hyp q : Qf := _; refine step_sound q ?_ (fun hq => ?_)
       rotate_left; clear_value q; rotate_left; subst q)
    | (extract_lets +onlyGivenNames x; guard_hyp x : Bool × Qf := _; refine step_sound x.2 ?_ (fun hx => ?_)
       rotate_left; clear_value x; rotate_left; subst x)
    | extract_lets +onlyGivenNames x | apply Qf.failChecked_sound | apply Qf.refuse_sound
    | apply Qf.draftPage_sound | apply Qf.orderAll_sound | apply Qf.targetCheck_sound | apply Qf.takeIn_sound
    | apply Qf.holdForMove_sound | apply Qf.settle_sound
    | (split <;> try (rename_i heq; apply opt_eq at heq; refine step_sound _ (heq ?_) (fun hq => ?_)))

theorem Qf.orderBulk_sound {q : Qf} {b : BulkOp} {rs : List LineReq} (hq : Sound q)
    : SoundOpt (Qf.orderBulk q b rs) := by
  unfold Qf.orderBulk
  with_reducible repeat' first
    | assumption | intro q hq
    | (extract_lets +onlyGivenNames q; guard_hyp q : Qf := _; refine step_sound q ?_ (fun hq => ?_)
       rotate_left; clear_value q; rotate_left; subst q)
    | (extract_lets +onlyGivenNames x; clear_value x) | extract_lets +onlyGivenNames x | apply Qf.orderAll_sound
    | apply Qf.endBulk_sound | apply Qf.takeIn_sound | apply Qf.settle_sound | split
    | refine Sound.lit ?_ rfl rfl rfl | apply okOpt_map

theorem Qf.noteMove_sound {q : Qf} {p : Packet} (hq : Sound q) : Sound (Qf.noteMove q p) := by
  unfold Qf.noteMove
  with_reducible repeat' first
    | assumption | (extract_lets +onlyGivenNames x; clear_value x) | split | refine Sound.lit ?_ rfl rfl rfl

theorem Qf.homeWrite_sound {q0 : Qf} {p : Packet} {d : Packet} (hq : Sound q0) : Sound (Qf.homeWrite q0 p d) := by
  unfold Qf.homeWrite
  with_reducible repeat' first
    | assumption
    | (extract_lets +onlyGivenNames q; guard_hyp q : Qf := _; refine step_sound q ?_ (fun hq => ?_)
       rotate_left; clear_value q; rotate_left; subst q)
    | (extract_lets +onlyGivenNames x; guard_hyp x : Bool × Qf := _; refine step_sound x.2 ?_ (fun hx => ?_)
       rotate_left; clear_value x; rotate_left; subst x)
    | (extract_lets +onlyGivenNames x; clear_value x) | extract_lets +onlyGivenNames x
    | apply Qf.failChecked_sound | apply Qf.draftPage_sound | apply Qf.answerFail_sound | apply Qf.openMsg_sound
    | apply Qf.targetCheck_sound | apply Qf.orderBulk_sound | apply Qf.noteMove_sound
    | apply Qf.holdForMove_sound
    | (split <;> try (rename_i heq; apply opt_eq at heq; refine step_sound _ (heq ?_) (fun hq => ?_)))
    | apply okOpt_getD | refine Sound.lit ?_ rfl rfl rfl

theorem Qf.recallSlot_sound {q : Qf} {s : Slot} {discard : Bool} (hq : Sound q)
    : Sound (Qf.recallSlot q s discard) := by
  unfold Qf.recallSlot
  with_reducible repeat' first
    | assumption | (extract_lets +onlyGivenNames x; clear_value x) | extract_lets +onlyGivenNames x
    | refine foldl_sound (fun q x hq => ?_) _ ?_ | apply Qf.updLine_sound

theorem Qf.withMate_sound {q : Qf} {i : Ingress} {p : Packet} {f : Packet → Packet → Qf → Qf} (hq : Sound q)
    (hf1 : ∀ y2, Sound y2 → ∀ y0 y1, Sound (f y0 y1 y2)) : Sound (Qf.withMate q i p f) := by
  unfold Qf.withMate
  with_reducible repeat' first
    | assumption | extract_lets +onlyGivenNames x | apply Qf.pair_sound | apply hf1
    | (split <;> try (rename_i heq; apply pair_eq at heq; refine step_sound _ (heq ?_) (fun hq => ?_)))

theorem Qf.paired_sound {q : Qf} {i : Ingress} {p : Packet} {home : Packet → Packet → Qf → Qf} (hq : Sound q)
    (hf1 : ∀ y2, Sound y2 → ∀ y0 y1, Sound (home y0 y1 y2)) : Sound (Qf.paired q i p home) := by
  unfold Qf.paired
  with_reducible repeat' first
    | assumption | intro q hq | extract_lets +onlyGivenNames x | apply Qf.transit_sound
    | apply Qf.withMate_sound | apply Qf.take_sound | apply Qf.clientRequest_sound | apply Qf.markHeld_sound
    | split

theorem execDataWrite_sound {i : Ingress} {p : Packet} {s : State} (hq : Sound s.qf)
    : ∃ q, execDataWrite i p s = .next { s with qf := q } ∧ Sound q := by
  unfold execDataWrite done
  refine ⟨_, rfl, ?_⟩
  with_reducible repeat' first
    | assumption | intro q hq | extract_lets +onlyGivenNames x | apply Qf.paired_sound
    | apply Qf.homeWrite_sound

theorem Qf.wbPlaced_sound {q : Qf} {n : LineNo} {p : Packet} {l : Line} (hq : Sound q)
    : Sound (Qf.wbPlaced q n p l) := by
  unfold Qf.wbPlaced
  with_reducible repeat' first
    | assumption | extract_lets +onlyGivenNames x | apply Qf.evalWaits_sound | apply Qf.dropHolder_sound
    | apply Qf.answer_sound | apply Qf.meter_sound

theorem Qf.scrubDone_sound {q : Qf} {s : Slot} {n : Nat} (hq : Sound q) : Sound (Qf.scrubDone q s n) := by
  unfold Qf.scrubDone
  with_reducible repeat' first
    | assumption
    | (extract_lets +onlyGivenNames q; guard_hyp q : Qf := _; refine step_sound q ?_ (fun hq => ?_)
       rotate_left; clear_value q; rotate_left; subst q)
    | apply Qf.scrubNext_sound | apply Qf.updProgress_sound | apply Qf.updWd_sound | split

theorem Qf.forgetEntry_sound {q : Qf} {t : Tenant} {ven : BitVec 28} (hq : Sound q)
    : Sound (Qf.forgetEntry q t ven) := by
  unfold Qf.forgetEntry
  with_reducible repeat' first
    | assumption | (extract_lets +onlyGivenNames x; clear_value x) | refine Sound.lit ?_ rfl rfl rfl

theorem Qf.markStale_sound {q : Qf} {r : OpenReq} (hq : Sound q) : Sound (Qf.markStale q r) := by
  unfold Qf.markStale
  with_reducible repeat' first
    | assumption
    | (extract_lets +onlyGivenNames q; guard_hyp q : Qf := _; refine step_sound q ?_ (fun hq => ?_)
       rotate_left; clear_value q; rotate_left; subst q)
    | (extract_lets +onlyGivenNames x; clear_value x) | apply Qf.forgetEntry_sound
    | refine Sound.lit ?_ rfl rfl rfl

theorem Qf.freeSlot_sound {q : Qf} {s : Slot} (hq : Sound q) : Sound (Qf.freeSlot q s) := by
  unfold Qf.freeSlot
  with_reducible repeat' first
    | assumption
    | (extract_lets +onlyGivenNames q; guard_hyp q : Qf := _; refine step_sound q ?_ (fun hq => ?_)
       rotate_left; clear_value q; rotate_left; subst q)
    | (extract_lets +onlyGivenNames x; clear_value x) | extract_lets +onlyGivenNames x | apply Qf.updQuota_sound
    | apply Qf.dropHotSlot_sound | apply Qf.releaseFrame_sound | apply Qf.meter_sound
    | apply Qf.dropReplica_sound | refine Sound.lit ?_ rfl rfl rfl

theorem Qf.uncombine_sound {q : Qf} {i : Ingress} {p : Packet} {deliver : Qf → Packet → Qf} (hq : Sound q)
    (hf1 : ∀ y0, Sound y0 → ∀ y1, Sound (deliver y0 y1)) : Sound (Qf.uncombine q i p deliver) := by
  unfold Qf.uncombine
  with_reducible repeat' first
    | assumption
    | (extract_lets +onlyGivenNames q; guard_hyp q : Qf := _; refine step_sound q ?_ (fun hq => ?_)
       rotate_left; clear_value q; rotate_left; subst q)
    | (extract_lets +onlyGivenNames x; guard_hyp x : Qf × Nat → Packet → Qf × Nat := _; subst x)
    | (extract_lets +onlyGivenNames x; clear_value x) | extract_lets +onlyGivenNames x
    | refine foldl_sound (fun q x hq => ?_) _ ?_ | refine foldl_fst (fun x c hx => ?_) _ ?_
    | apply Qf.transit_sound | apply hf1 | split | refine Sound.lit ?_ rfl rfl rfl

theorem Qf.resendAs_sound {q : Qf} {r : OpenReq} {p0 : Packet} (hq : Sound q) : Sound (Qf.resendAs q r p0) := by
  unfold Qf.resendAs
  with_reducible repeat' first
    | assumption
    | (extract_lets +onlyGivenNames q; guard_hyp q : Qf := _; refine step_sound q ?_ (fun hq => ?_)
       rotate_left; clear_value q; rotate_left; subst q)
    | (extract_lets +onlyGivenNames x; clear_value x) | extract_lets +onlyGivenNames x | apply Qf.sendReq_sound
    | apply Qf.send_sound | apply Qf.dropHazard_sound | apply Qf.addHazard_sound | split
    | refine Sound.lit ?_ rfl rfl rfl

theorem Qf.retryStale_sound {q : Qf} {r : OpenReq} (hq : Sound q) : SoundExc (Qf.retryStale q r) := by
  unfold Qf.retryStale
  with_reducible repeat' first
    | assumption
    | (extract_lets +onlyGivenNames x; guard_hyp x : Except Status Packet × Qf := _
       refine step_sound x.2 ?_ (fun hx => ?_); rotate_left; clear_value x; rotate_left; subst x)
    | extract_lets +onlyGivenNames x | apply Qf.resendAs_sound | apply Qf.edgeCheck_sound | split
    | exact okExc_err | apply okExc_sound

theorem Qf.cancelPsn_sound {q : Qf} {p : Packet} {h : QpHdr} {psn : Psn} (hq : Sound q)
    : Sound (Qf.cancelPsn q p h psn) := by
  unfold Qf.cancelPsn
  with_reducible repeat' first
    | assumption
    | (extract_lets +onlyGivenNames q; guard_hyp q : Qf := _; refine step_sound q ?_ (fun hq => ?_)
       rotate_left; clear_value q; rotate_left; subst q)
    | (extract_lets +onlyGivenNames x; clear_value x) | apply Qf.updTarget_sound | apply Qf.answerFail_sound
    | apply Qf.answer_sound | apply Qf.ackDuplicate_sound | split

theorem Qf.cancelAll_sound {q : Qf} {p : Packet} {h : QpHdr} {psns : List Psn} (hq : Sound q)
    : Sound (Qf.cancelAll q p h psns) := by
  unfold Qf.cancelAll
  with_reducible repeat' first
    | assumption | (extract_lets +onlyGivenNames x; guard_hyp x : Option Qf := _; subst x)
    | (extract_lets +onlyGivenNames x; clear_value x) | extract_lets +onlyGivenNames x
    | refine foldl_sound (fun q x hq => ?_) _ ?_ | apply Qf.updTarget_sound | apply Qf.cancelPsn_sound
    | apply Qf.answerFail_sound
    | (split <;> try (rename_i heq; apply opt_eq at heq; refine step_sound _ (heq ?_) (fun hq => ?_)))
    | refine Sound.lit ?_ rfl rfl rfl | exact okOpt_none | apply okOpt_some

theorem Qf.homeCancel_sound {q : Qf} {p : Packet} (hq : Sound q) : Sound (Qf.homeCancel q p) := by
  unfold Qf.homeCancel
  with_reducible repeat' first
    | assumption | intro q hq
    | (extract_lets +onlyGivenNames x; guard_hyp x : Qf → Qf := _
       refine stepP (P := ∀ y0, Sound y0 → Sound (x y0)) ?_ (fun hl0 => ?_); rotate_left; clear_value x
       rotate_left; subst x)
    | extract_lets +onlyGivenNames x | apply hl0 | apply Qf.updTarget_sound | apply Qf.clearMsg_sound
    | apply Qf.cancelAll_sound | apply Qf.answerOwner_sound | split

theorem Qf.placeWriteBack_sound {q : Qf} {n : LineNo} {p : Packet} {l : Line} (hq : Sound q)
    : Sound (Qf.placeWriteBack q n p l) := by
  unfold Qf.placeWriteBack
  with_reducible repeat' first
    | assumption
    | (extract_lets +onlyGivenNames x; guard_hyp x : Bool × Qf := _; refine step_sound x.2 ?_ (fun hx => ?_)
       rotate_left; clear_value x; rotate_left; subst x)
    | apply Qf.answerFail_sound | apply Qf.placeStored_sound | apply Qf.wbPlaced_sound | split

theorem Qf.wbRefused_sound {q : Qf} {p : Packet} {st : Status} (hq : Sound q) : Sound (Qf.wbRefused q p st) := by
  unfold Qf.wbRefused
  with_reducible repeat' first
    | assumption
    | (extract_lets +onlyGivenNames q; guard_hyp q : Qf := _; refine step_sound q ?_ (fun hq => ?_)
       rotate_left; clear_value q; rotate_left; subst q)
    | (extract_lets +onlyGivenNames x; clear_value x) | extract_lets +onlyGivenNames x
    | apply Qf.failChecked_sound | apply Qf.dropHolder_sound | apply Qf.updTxn_sound
    | apply Qf.checkSnoops_sound | apply Qf.settle_sound | split

theorem Qf.homeWriteBack_sound {q : Qf} {p : Packet} {d : Packet} (hq : Sound q)
    : Sound (Qf.homeWriteBack q p d) := by
  unfold Qf.homeWriteBack
  with_reducible repeat' first
    | assumption
    | (extract_lets +onlyGivenNames q; guard_hyp q : Qf := _; refine step_sound q ?_ (fun hq => ?_)
       rotate_left; clear_value q; rotate_left; subst q)
    | (extract_lets +onlyGivenNames x; clear_value x) | extract_lets +onlyGivenNames x
    | apply Qf.placeWriteBack_sound | apply Qf.wbRefused_sound | apply Qf.serve_sound
    | apply Qf.dropHotFor_sound | apply Qf.answerFail_sound | apply Qf.updTxn_sound | apply Qf.homeLine_sound
    | apply Qf.checkSnoops_sound | apply Qf.settle_sound | split

theorem Qf.request_sound {q : Qf} {i : Ingress} {p : Packet} {home : Qf → Qf} (hq : Sound q)
    (hf1 : ∀ y0, Sound y0 → Sound (home y0)) : Sound (Qf.request q i p home) := by
  unfold Qf.request
  with_reducible repeat' first
    | assumption
    | (extract_lets +onlyGivenNames x; guard_hyp x : Bool × Qf := _; refine step_sound x.2 ?_ (fun hx => ?_)
       rotate_left; clear_value x; rotate_left; subst x)
    | extract_lets +onlyGivenNames x | apply Qf.transit_sound | apply Qf.take_sound
    | apply Qf.clientRequest_sound | apply Qf.markHeld_sound | apply Qf.combine_sound | apply hf1 | split

theorem execUpgrade_sound {i : Ingress} {p : Packet} {s : State} (hq : Sound s.qf)
    : ∃ q, execUpgrade i p s = .next { s with qf := q } ∧ Sound q := by
  unfold execUpgrade done
  refine ⟨_, rfl, ?_⟩
  with_reducible repeat' first
    | assumption | intro q hq | extract_lets +onlyGivenNames x | apply Qf.request_sound
    | apply Qf.homeLine_sound

theorem Qf.extCmd_sound {q : Qf} {m : MgrRef} {s : Slot} {c : ExtCmd} (hq : Sound q) : Sound (Qf.extCmd q m s c) := by
  unfold Qf.extCmd
  with_reducible repeat' first
    | assumption
    | (extract_lets +onlyGivenNames q; guard_hyp q : Qf := _; refine step_sound q ?_ (fun hq => ?_)
       rotate_left; clear_value q; rotate_left; subst q)
    | (extract_lets +onlyGivenNames x; clear_value x) | extract_lets +onlyGivenNames x
    | apply Qf.markStart_sound | apply Qf.runExt_sound | apply Qf.settle_sound | split
    | refine Sound.lit ?_ rfl rfl rfl

theorem Qf.forHome_sound {q : Qf} {i : Ingress} {p : Packet} {f : Qf → Qf} (hq : Sound q)
    (hf1 : ∀ y0, Sound y0 → Sound (f y0)) : Sound (Qf.forHome q i p f) := by
  unfold Qf.forHome
  with_reducible repeat' first
    | assumption | extract_lets +onlyGivenNames x | apply Qf.transit_sound | apply Qf.take_sound | apply hf1
    | split

theorem Qf.snoopAnswer_sound {q : Qf} {p : Packet} {dirf : LineNo → Qf → Qf} {wb : Bool} (hq : Sound q)
    (hf1 : ∀ y1, Sound y1 → ∀ y0, Sound (dirf y0 y1)) : Sound (Qf.snoopAnswer q p dirf wb) := by
  unfold Qf.snoopAnswer
  with_reducible repeat' first
    | assumption
    | (extract_lets +onlyGivenNames q; guard_hyp q : Qf := _; refine step_sound q ?_ (fun hq => ?_)
       rotate_left; clear_value q; rotate_left; subst q)
    | (extract_lets +onlyGivenNames x; clear_value x) | extract_lets +onlyGivenNames x | apply Qf.updTxn_sound
    | apply Qf.checkSnoops_sound | apply Qf.settle_sound | apply hf1 | split | refine Sound.lit ?_ rfl rfl rfl

theorem execSnpRspI_sound {i : Ingress} {p : Packet} {s : State} (hq : Sound s.qf)
    : ∃ q, execSnpRspI i p s = .next { s with qf := q } ∧ Sound q := by
  unfold execSnpRspI done
  refine ⟨_, rfl, ?_⟩
  with_reducible repeat' first
    | assumption | intro q hq | intro _ | extract_lets +onlyGivenNames x | apply Qf.dropHolder_sound
    | apply Qf.forHome_sound | apply Qf.snoopAnswer_sound

theorem execWrNc_sound {i : Ingress} {p : Packet} {s : State} (hq : Sound s.qf)
    : ∃ q, execWrNc i p s = .next { s with qf := q } ∧ Sound q := by
  unfold execWrNc done
  refine ⟨_, rfl, ?_⟩
  with_reducible repeat' first
    | assumption | intro q hq | extract_lets +onlyGivenNames x | apply Qf.paired_sound
    | apply Qf.homeWrite_sound

theorem execPennant_sound {i : Ingress} {p : Packet} {s : State} (hq : Sound s.qf)
    : ∃ q, execPennant i p s = .next { s with qf := q } ∧ Sound q := by
  unfold execPennant done
  refine ⟨_, rfl, ?_⟩
  with_reducible repeat' first
    | assumption | intro q hq | extract_lets +onlyGivenNames x | apply Qf.request_sound
    | apply Qf.homeLine_sound

theorem execSnpRspWrittenBack_sound {i : Ingress} {p : Packet} {s : State} (hq : Sound s.qf)
    : ∃ q, execSnpRspWrittenBack i p s = .next { s with qf := q } ∧ Sound q := by
  unfold execSnpRspWrittenBack done
  refine ⟨_, rfl, ?_⟩
  with_reducible repeat' first
    | assumption | intro q hq | intro _ | extract_lets +onlyGivenNames x | apply Qf.dropHolder_sound
    | apply Qf.forHome_sound | apply Qf.snoopAnswer_sound

theorem execEvictClean_sound {i : Ingress} {p : Packet} {s : State} (hq : Sound s.qf)
    : ∃ q, execEvictClean i p s = .next { s with qf := q } ∧ Sound q := by
  unfold execEvictClean done
  refine ⟨_, rfl, ?_⟩
  with_reducible repeat' first
    | assumption | intro q hq | extract_lets +onlyGivenNames x | apply Qf.request_sound
    | apply Qf.homeLine_sound

theorem Qf.homeDirty_sound {q : Qf} {i : Ingress} {p : Packet} (hq : Sound q) : Sound (Qf.homeDirty q i p) := by
  unfold Qf.homeDirty
  with_reducible repeat' first
    | assumption
    | (extract_lets +onlyGivenNames q; guard_hyp q : Qf := _; refine step_sound q ?_ (fun hq => ?_)
       rotate_left; clear_value q; rotate_left; subst q)
    | (extract_lets +onlyGivenNames x; clear_value x) | extract_lets +onlyGivenNames x | apply Qf.pair_sound
    | apply Qf.updTxn_sound | apply Qf.homeWriteBack_sound | apply Qf.checkSnoops_sound | apply Qf.settle_sound
    | (split <;> try (rename_i heq; apply pair_eq at heq; refine step_sound _ (heq ?_) (fun hq => ?_)))
    | refine Sound.lit ?_ rfl rfl rfl

theorem Qf.ownerShares_sound {q : Qf} {n : LineNo} {ep : Ep} (hq : Sound q) : Sound (Qf.ownerShares q n ep) := by
  unfold Qf.ownerShares
  with_reducible repeat' first
    | assumption | apply Qf.setDir_sound

theorem execAtomic_sound {i : Ingress} {p : Packet} {s : State} (hq : Sound s.qf)
    : ∃ q, execAtomic i p s = .next { s with qf := q } ∧ Sound q := by
  unfold execAtomic done
  refine ⟨_, rfl, ?_⟩
  with_reducible repeat' first
    | assumption | intro q hq | extract_lets +onlyGivenNames x | apply Qf.request_sound
    | apply Qf.homeLine_sound

theorem Qf.readTier_sound {q : Qf} {n : LineNo} {t : Txn} (hq : Sound q) : Sound (Qf.readTier q n t) := by
  unfold Qf.readTier
  with_reducible repeat' first
    | assumption | apply Qf.readFrom_sound

theorem Qf.streamReset_sound {q : Qf} {h : HalfPort} {p0 : Packet} (hq : Sound q)
    : Sound (Qf.streamReset q h p0) := by
  unfold Qf.streamReset
  with_reducible repeat' first
    | assumption
    | (extract_lets +onlyGivenNames q; guard_hyp q : Qf := _; refine step_sound q ?_ (fun hq => ?_)
       rotate_left; clear_value q; rotate_left; subst q)
    | (extract_lets +onlyGivenNames x; clear_value x) | extract_lets +onlyGivenNames x
    | apply Qf.policeCharge_sound | apply Qf.updStream_sound | apply Qf.releasePennants_sound

theorem execStreamReset_sound {i : Ingress} {p : Packet} {s : State} (hq : Sound s.qf)
    : ∃ q, execStreamReset i p s = .next { s with qf := q } ∧ Sound q := by
  unfold execStreamReset done
  refine ⟨_, rfl, ?_⟩
  with_reducible repeat' first
    | assumption | extract_lets +onlyGivenNames x | apply Qf.streamReset_sound | apply Qf.transit_sound
    | apply Qf.take_sound | split | refine Sound.lit ?_ rfl rfl rfl

theorem Qf.homeWait_sound {q : Qf} {p : Packet} (hq : Sound q) : Sound (Qf.homeWait q p) := by
  unfold Qf.homeWait
  with_reducible repeat' first
    | assumption
    | (extract_lets +onlyGivenNames q; guard_hyp q : Qf := _; refine step_sound q ?_ (fun hq => ?_)
       rotate_left; clear_value q; rotate_left; subst q)
    | (extract_lets +onlyGivenNames x; clear_value x) | extract_lets +onlyGivenNames x | apply Qf.countKey_sound
    | apply Qf.answerFail_sound | apply Qf.orderInternal_sound | apply Qf.settle_sound | split
    | refine Sound.lit ?_ rfl rfl rfl

theorem execWaitRegister_sound {i : Ingress} {p : Packet} {s : State} (hq : Sound s.qf)
    : ∃ q, execWaitRegister i p s = .next { s with qf := q } ∧ Sound q := by
  unfold execWaitRegister done
  refine ⟨_, rfl, ?_⟩
  with_reducible repeat' first
    | assumption | intro q hq | extract_lets +onlyGivenNames x | apply Qf.homeWait_sound
    | apply Qf.request_sound

theorem Qf.homeReadBulk_sound {q0 : Qf} {p : Packet} (hq : Sound q0) : Sound (Qf.homeReadBulk q0 p) := by
  unfold Qf.homeReadBulk
  with_reducible repeat' first
    | assumption
    | (extract_lets +onlyGivenNames q; guard_hyp q : Qf := _; refine step_sound q ?_ (fun hq => ?_)
       rotate_left; clear_value q; rotate_left; subst q)
    | (extract_lets +onlyGivenNames x; guard_hyp x : Bool × Qf := _; refine step_sound x.2 ?_ (fun hx => ?_)
       rotate_left; clear_value x; rotate_left; subst x)
    | (extract_lets +onlyGivenNames x; clear_value x) | extract_lets +onlyGivenNames x
    | apply Qf.failChecked_sound | apply Qf.answerFail_sound | apply Qf.targetCheck_sound
    | apply Qf.orderBulk_sound | split | apply okOpt_getD

theorem execRdBulk_sound {i : Ingress} {p : Packet} {s : State} (hq : Sound s.qf)
    : ∃ q, execRdBulk i p s = .next { s with qf := q } ∧ Sound q := by
  unfold execRdBulk done
  refine ⟨_, rfl, ?_⟩
  with_reducible repeat' first
    | assumption | intro q hq | extract_lets +onlyGivenNames x | apply Qf.request_sound
    | apply Qf.homeReadBulk_sound

theorem execSnpRspKeep_sound {i : Ingress} {p : Packet} {s : State} (hq : Sound s.qf)
    : ∃ q, execSnpRspKeep i p s = .next { s with qf := q } ∧ Sound q := by
  unfold execSnpRspKeep done
  refine ⟨_, rfl, ?_⟩
  with_reducible repeat' first
    | assumption | intro q hq | intro _ | extract_lets +onlyGivenNames x | apply Qf.forHome_sound
    | apply Qf.snoopAnswer_sound

theorem execCancel_sound {i : Ingress} {p : Packet} {s : State} (hq : Sound s.qf)
    : ∃ q, execCancel i p s = .next { s with qf := q } ∧ Sound q := by
  unfold execCancel done
  refine ⟨_, rfl, ?_⟩
  with_reducible repeat' first
    | assumption | intro q hq | extract_lets +onlyGivenNames x | apply Qf.homeCancel_sound
    | apply Qf.request_sound

theorem execRdShared_sound {i : Ingress} {p : Packet} {s : State} (hq : Sound s.qf)
    : ∃ q, execRdShared i p s = .next { s with qf := q } ∧ Sound q := by
  unfold execRdShared done
  refine ⟨_, rfl, ?_⟩
  with_reducible repeat' first
    | assumption | intro q hq | extract_lets +onlyGivenNames x | apply Qf.request_sound
    | apply Qf.homeLine_sound

theorem execRdNc_sound {i : Ingress} {p : Packet} {s : State} (hq : Sound s.qf)
    : ∃ q, execRdNc i p s = .next { s with qf := q } ∧ Sound q := by
  unfold execRdNc done
  refine ⟨_, rfl, ?_⟩
  with_reducible repeat' first
    | assumption | intro q hq | extract_lets +onlyGivenNames x | apply Qf.request_sound
    | apply Qf.homeLine_sound

theorem execRdOwn_sound {i : Ingress} {p : Packet} {s : State} (hq : Sound s.qf)
    : ∃ q, execRdOwn i p s = .next { s with qf := q } ∧ Sound q := by
  unfold execRdOwn done
  refine ⟨_, rfl, ?_⟩
  with_reducible repeat' first
    | assumption | intro q hq | extract_lets +onlyGivenNames x | apply Qf.request_sound
    | apply Qf.homeLine_sound

theorem execDataDirty_sound {i : Ingress} {p : Packet} {s : State} (hq : Sound s.qf)
    : ∃ q, execDataDirty i p s = .next { s with qf := q } ∧ Sound q := by
  unfold execDataDirty done
  refine ⟨_, rfl, ?_⟩
  with_reducible repeat' first
    | assumption | intro q hq | extract_lets +onlyGivenNames x | apply Qf.homeDirty_sound
    | apply Qf.transit_sound | apply Qf.paired_sound | apply Qf.take_sound | apply Qf.homeWriteBack_sound
    | split | refine Sound.lit ?_ rfl rfl rfl

theorem Qf.cmpAck_sound {q : Qf} {p : Packet} (hq : Sound q) : Sound (Qf.cmpAck q p) := by
  unfold Qf.cmpAck
  with_reducible repeat' first
    | assumption | (extract_lets +onlyGivenNames x; clear_value x) | extract_lets +onlyGivenNames x
    | apply Qf.release_sound | apply Qf.settle_sound | apply Qf.setDir_sound | split

theorem execCmpAck_sound {i : Ingress} {p : Packet} {s : State} (hq : Sound s.qf)
    : ∃ q, execCmpAck i p s = .next { s with qf := q } ∧ Sound q := by
  unfold execCmpAck done
  refine ⟨_, rfl, ?_⟩
  with_reducible repeat' first
    | assumption | intro q hq | extract_lets +onlyGivenNames x | apply Qf.cmpAck_sound | apply Qf.forHome_sound

theorem execWbDirty_sound {i : Ingress} {p : Packet} {s : State} (hq : Sound s.qf)
    : ∃ q, execWbDirty i p s = .next { s with qf := q } ∧ Sound q := by
  unfold execWbDirty done
  refine ⟨_, rfl, ?_⟩
  with_reducible repeat' first
    | assumption | intro q hq | extract_lets +onlyGivenNames x | apply Qf.paired_sound
    | apply Qf.homeWriteBack_sound

theorem execSnpRspS_sound {i : Ingress} {p : Packet} {s : State} (hq : Sound s.qf)
    : ∃ q, execSnpRspS i p s = .next { s with qf := q } ∧ Sound q := by
  unfold execSnpRspS done
  refine ⟨_, rfl, ?_⟩
  with_reducible repeat' first
    | assumption | intro q hq | intro _ | extract_lets +onlyGivenNames x | apply Qf.ownerShares_sound
    | apply Qf.forHome_sound | apply Qf.snoopAnswer_sound

theorem execWrBulk_sound {i : Ingress} {p : Packet} {s : State} (hq : Sound s.qf)
    : ∃ q, execWrBulk i p s = .next { s with qf := q } ∧ Sound q := by
  unfold execWrBulk done
  refine ⟨_, rfl, ?_⟩
  with_reducible repeat' first
    | assumption | intro q hq | extract_lets +onlyGivenNames x | apply Qf.paired_sound
    | apply Qf.homeWrite_sound

theorem execWrFullNc_sound {i : Ingress} {p : Packet} {s : State} (hq : Sound s.qf)
    : ∃ q, execWrFullNc i p s = .next { s with qf := q } ∧ Sound q := by
  unfold execWrFullNc done
  refine ⟨_, rfl, ?_⟩
  with_reducible repeat' first
    | assumption | intro q hq | extract_lets +onlyGivenNames x | apply Qf.paired_sound
    | apply Qf.homeWrite_sound

theorem Qf.setOwner_sound {q : Qf} {n : LineNo} {x : Ep} (hq : Sound q) : Sound (Qf.setOwner q n x) := by
  unfold Qf.setOwner
  with_reducible repeat' first
    | assumption | apply Qf.setDir_sound

end Sys2Proof.Machine
end

