-- ==== Sys2Proof/Laws/SoundPool.lean ====
section
/-! SUPPORT. Laws/SoundPool.lean: the pool, the leases and the extent commands
keep Safety.Sound: one lemma per operation and per command. -/

set_option linter.tactic.unusedName false

namespace Sys2Proof.Machine
open Sys2Proof.Safety

theorem Qf.moveFail_sound {q : Qf} {s : Slot} {st : Status} (hq : Sound q) : Sound (Qf.moveFail q s st) := by
  unfold Qf.moveFail
  with_reducible repeat' first
    | assumption
    | (extract_lets +onlyGivenNames q; guard_hyp q : Qf := _; refine step_sound q ?_ (fun hq => ?_)
       rotate_left; clear_value q; rotate_left; subst q)
    | (extract_lets +onlyGivenNames x; clear_value x) | extract_lets +onlyGivenNames x
    | refine foldl_sound (fun q x hq => ?_) _ ?_ | apply Qf.endProgress_sound | apply Qf.homeLine_sound
    | apply Qf.complete_sound | apply Qf.homeWrite_sound | split | refine Sound.lit ?_ rfl rfl rfl

theorem Qf.restoreGot_sound {q : Qf} {s : Slot} {st : Status} {bytes : List Byte} (hq : Sound q)
    : Sound (Qf.restoreGot q s st bytes) := by
  unfold Qf.restoreGot
  with_reducible repeat' first
    | assumption
    | (extract_lets +onlyGivenNames q; guard_hyp q : Qf := _; refine step_sound q ?_ (fun hq => ?_)
       rotate_left; clear_value q; rotate_left; subst q)
    | (extract_lets +onlyGivenNames x; clear_value x) | extract_lets +onlyGivenNames x
    | apply Qf.markStart_sound | apply Qf.runExt_sound | apply Qf.complete_sound | apply Qf.settle_sound | split
    | refine Sound.lit ?_ rfl rfl rfl

theorem Qf.moveWrote_sound {q : Qf} {s : Slot} {pg : Nat} (hq : Sound q) : Sound (Qf.moveWrote q s pg) := by
  unfold Qf.moveWrote
  with_reducible repeat' first
    | assumption
    | (extract_lets +onlyGivenNames q; guard_hyp q : Qf := _; refine step_sound q ?_ (fun hq => ?_)
       rotate_left; clear_value q; rotate_left; subst q)
    | (extract_lets +onlyGivenNames x; clear_value x) | apply Qf.updProgress_sound | apply Qf.moveNext_sound
    | refine Sound.lit ?_ rfl rfl rfl

theorem Qf.freePages_sound {q : Qf} {r : RegionId} (hq : Sound q) : Sound (Qf.freePages q r) := by
  unfold Qf.freePages
  with_reducible repeat' first
    | assumption | (extract_lets +onlyGivenNames x; clear_value x) | refine Sound.lit ?_ rfl rfl rfl

theorem Qf.startFold_sound {q : Qf} {r : RegionId} (hq : Sound q) : Sound (Qf.startFold q r) := by
  unfold Qf.startFold
  with_reducible repeat' first
    | assumption
    | (extract_lets +onlyGivenNames q; guard_hyp q : Qf := _; refine step_sound q ?_ (fun hq => ?_)
       rotate_left; clear_value q; rotate_left; subst q)
    | (extract_lets +onlyGivenNames x; clear_value x) | extract_lets +onlyGivenNames x
    | apply Qf.freePages_sound | apply Qf.newProgress_sound | apply Qf.updVer_sound
    | (split <;> try (rename_i heq; apply optp_eq at heq; refine step_sound _ (heq ?_) (fun hq => ?_)))

theorem Qf.abandonDraft_sound {q : Qf} {r : RegionId} {d : Nat} (hq : Sound q) : Sound (Qf.abandonDraft q r d) := by
  unfold Qf.abandonDraft
  with_reducible repeat' first
    | assumption
    | (extract_lets +onlyGivenNames q; guard_hyp q : Qf := _; refine step_sound q ?_ (fun hq => ?_)
       rotate_left; clear_value q; rotate_left; subst q)
    | extract_lets +onlyGivenNames x | apply Qf.freePages_sound | apply Qf.updVer_sound
    | apply Qf.startFold_sound

theorem Qf.publishDraft_sound {q : Qf} {r : RegionId} {d : Nat} (hq : Sound q)
    : SoundOptP (Qf.publishDraft q r d) := by
  unfold Qf.publishDraft
  with_reducible repeat' first
    | assumption | intro _
    | (extract_lets +onlyGivenNames q; guard_hyp q : Qf := _; refine step_sound q ?_ (fun hq => ?_)
       rotate_left; clear_value q; rotate_left; subst q)
    | (extract_lets +onlyGivenNames x; clear_value x) | extract_lets +onlyGivenNames x
    | apply Qf.freePages_sound | apply Qf.updVer_sound | apply Qf.startFold_sound | apply okOptP_mapc

theorem Qf.moveGot_sound {q : Qf} {s : Slot} {pg : Nat} {bytes : List Byte} (hq : Sound q)
    : Sound (Qf.moveGot q s pg bytes) := by
  unfold Qf.moveGot
  with_reducible repeat' first
    | assumption | (extract_lets +onlyGivenNames x; clear_value x) | apply Qf.issueRaw_sound | split

theorem Qf.reclaim_sound {q : Qf} {p : Packet} (hq : Sound q) : Sound (Qf.reclaim q p) := by
  unfold Qf.reclaim
  with_reducible repeat' first
    | assumption
    | (extract_lets +onlyGivenNames q; guard_hyp q : Qf := _; refine step_sound q ?_ (fun hq => ?_)
       rotate_left; clear_value q; rotate_left; subst q)
    | (extract_lets +onlyGivenNames x; clear_value x) | extract_lets +onlyGivenNames x
    | refine foldl_sound (fun q x hq => ?_) _ ?_ | apply Qf.replicaEnd_sound | apply Qf.dropReplica_sound
    | apply Qf.settle_sound | refine Sound.lit ?_ rfl rfl rfl

theorem execReclaim_sound {i : Ingress} {p : Packet} {s : State} (hq : Sound s.qf)
    : ∃ q, execReclaim i p s = .next { s with qf := q } ∧ Sound q := by
  unfold execReclaim done
  refine ⟨_, rfl, ?_⟩
  with_reducible repeat' first
    | assumption | extract_lets +onlyGivenNames x | apply Qf.reclaim_sound | apply Qf.transit_sound
    | apply Qf.take_sound | split | refine Sound.lit ?_ rfl rfl rfl

theorem Qf.failSlot_sound {q : Qf} {s : Slot} {st : Status} (hq : Sound q) : Sound (Qf.failSlot q s st) := by
  unfold Qf.failSlot
  with_reducible repeat' first
    | assumption
    | (extract_lets +onlyGivenNames q; guard_hyp q : Qf := _; refine step_sound q ?_ (fun hq => ?_)
       rotate_left; clear_value q; rotate_left; subst q)
    | (extract_lets +onlyGivenNames x; clear_value x) | extract_lets +onlyGivenNames x
    | refine foldl_sound (fun q x hq => ?_) _ ?_ | apply Qf.wbAnswer_sound | apply Qf.failReq_sound
    | apply Qf.setDir_sound | split | refine Sound.lit ?_ rfl rfl rfl

theorem execWithdrawDrainTimeout_sound {slot : Slot} {s : State} (hq : Sound s.qf)
    : ∃ q, execWithdrawDrainTimeout slot s = .next { s with qf := q } ∧ Sound q := by
  unfold execWithdrawDrainTimeout done
  refine ⟨_, rfl, ?_⟩
  with_reducible repeat' first
    | assumption
    | (extract_lets +onlyGivenNames q; guard_hyp q : Qf := _; refine step_sound q ?_ (fun hq => ?_)
       rotate_left; clear_value q; rotate_left; subst q)
    | extract_lets +onlyGivenNames x | apply Qf.failSlot_sound | apply Qf.recallSlot_sound
    | apply Qf.settle_sound | apply Qf.updWd_sound | split | refine Sound.lit ?_ rfl rfl rfl

theorem Qf.mgr_sound {q : Qf} {m : MgrRef} {op : BitVec 8} {ok : Bool} {f : Qf → Qf} (hq : Sound q)
    (hf1 : ∀ y0, Sound y0 → Sound (f y0)) : Sound (Qf.mgr q m op ok f) := by
  unfold Qf.mgr
  with_reducible repeat' first
    | assumption
    | (extract_lets +onlyGivenNames q; guard_hyp q : Qf := _; refine step_sound q ?_ (fun hq => ?_)
       rotate_left; clear_value q; rotate_left; subst q)
    | apply Qf.markStart_sound | apply Qf.complete_sound | apply hf1 | split

theorem Qf.versionOp_sound {q : Qf} {m : MgrRef} {tenant : BitVec 16} {region : BitVec 32} {ok : Bool}
    {f : RegionId → Qf → Qf} (hq : Sound q) (hf1 : ∀ y1, Sound y1 → ∀ y0, Sound (f y0 y1))
    : Sound (Qf.versionOp q m tenant region ok f) := by
  unfold Qf.versionOp
  with_reducible repeat' first
    | assumption | intro q hq | (extract_lets +onlyGivenNames x; clear_value x) | extract_lets +onlyGivenNames x
    | apply Qf.mgr_sound | apply Qf.complete_sound | apply hf1 | split

theorem execCloseVersion_sound {m : MgrRef} {tenant : BitVec 16} {region : BitVec 32} {slot : BitVec 8}
    {s : State} (hq : Sound s.qf)
    : ∃ q, execCloseVersion m tenant region slot s = .next { s with qf := q } ∧ Sound q := by
  unfold execCloseVersion done
  refine ⟨_, rfl, ?_⟩
  with_reducible repeat' first
    | assumption | intro q hq | intro _
    | (extract_lets +onlyGivenNames q; guard_hyp q : Qf := _; refine step_sound q ?_ (fun hq => ?_)
       rotate_left; clear_value q; rotate_left; subst q)
    | (extract_lets +onlyGivenNames x; clear_value x) | extract_lets +onlyGivenNames x
    | apply Qf.freePages_sound | apply Qf.updVer_sound | apply Qf.startFold_sound | apply Qf.versionOp_sound
    | apply Qf.complete_sound | split

theorem Qf.replicaWrote_sound {q : Qf} {s : Slot} (hq : Sound q) : Sound (Qf.replicaWrote q s) := by
  unfold Qf.replicaWrote
  with_reducible repeat' first
    | assumption
    | (extract_lets +onlyGivenNames q; guard_hyp q : Qf := _; refine step_sound q ?_ (fun hq => ?_)
       rotate_left; clear_value q; rotate_left; subst q)
    | (extract_lets +onlyGivenNames x; clear_value x) | apply Qf.replicaNext_sound
    | refine Sound.lit ?_ rfl rfl rfl

theorem Qf.bar0Write_sound {q : Qf} {port : Bool} {f : Qf → Qf} (hq : Sound q)
    (hf1 : ∀ y0, Sound y0 → Sound (f y0)) : Sound (Qf.bar0Write q port f) := by
  unfold Qf.bar0Write
  with_reducible repeat' first
    | assumption | (extract_lets +onlyGivenNames x; guard_hyp x : HostIf := _; subst x) | apply hf1 | split
    | refine Sound.lit ?_ rfl rfl rfl

theorem execThrottleRenew_sound {s : State} (hq : Sound s.qf)
    : ∃ q, execThrottleRenew s = .next { s with qf := q } ∧ Sound q := by
  unfold execThrottleRenew done
  refine ⟨_, rfl, ?_⟩
  with_reducible repeat' first
    | assumption | extract_lets +onlyGivenNames x | apply Qf.notifyShort_sound | split
    | refine Sound.lit ?_ rfl rfl rfl

theorem execOpenVersion_sound {m : MgrRef} {tenant : BitVec 16} {region : BitVec 32} {s : State}
    (hq : Sound s.qf) : ∃ q, execOpenVersion m tenant region s = .next { s with qf := q } ∧ Sound q := by
  unfold execOpenVersion done
  refine ⟨_, rfl, ?_⟩
  with_reducible repeat' first
    | assumption | intro q hq | intro _
    | (extract_lets +onlyGivenNames q; guard_hyp q : Qf := _; refine step_sound q ?_ (fun hq => ?_)
       rotate_left; clear_value q; rotate_left; subst q)
    | (extract_lets +onlyGivenNames x; clear_value x) | extract_lets +onlyGivenNames x | apply Qf.updVer_sound
    | apply Qf.versionOp_sound | apply Qf.complete_sound

theorem Qf.retireEpoch_sound {q : Qf} (hq : Sound q) : Sound (Qf.retireEpoch q) := by
  unfold Qf.retireEpoch
  with_reducible repeat' first
    | assumption
    | (extract_lets +onlyGivenNames q; guard_hyp q : Qf := _; refine step_sound q ?_ (fun hq => ?_)
       rotate_left; clear_value q; rotate_left; subst q)
    | (extract_lets +onlyGivenNames x; clear_value x) | extract_lets +onlyGivenNames x
    | refine foldl_sound (fun q x hq => ?_) _ ?_ | apply Qf.freeSlot_sound | refine Sound.lit ?_ rfl rfl rfl

theorem execEpochRetireEarly_sound {s : State} (hq : Sound s.qf)
    : ∃ q, execEpochRetireEarly s = .next { s with qf := q } ∧ Sound q := by
  unfold execEpochRetireEarly done
  refine ⟨_, rfl, ?_⟩
  with_reducible repeat' first
    | assumption | extract_lets +onlyGivenNames x | apply Qf.retireEpoch_sound | apply Qf.settle_sound | split
    | refine Sound.lit ?_ rfl rfl rfl

theorem execPublish_sound {m : MgrRef} {tenant : BitVec 16} {region : BitVec 32} {draft : BitVec 8}
    {expected : BitVec 64} {s : State} (hq : Sound s.qf)
    : ∃ q, execPublish m tenant region draft expected s = .next { s with qf := q } ∧ Sound q := by
  unfold execPublish done
  refine ⟨_, rfl, ?_⟩
  with_reducible repeat' first
    | assumption | intro q hq | intro _ | (extract_lets +onlyGivenNames x; clear_value x)
    | extract_lets +onlyGivenNames x | apply Qf.publishDraft_sound | apply Qf.versionOp_sound
    | apply Qf.complete_sound
    | (split <;> try (rename_i heq; apply optp_eq at heq; refine step_sound _ (heq ?_) (fun hq => ?_)))

theorem execEpochRetire_sound {s : State} (hq : Sound s.qf)
    : ∃ q, execEpochRetire s = .next { s with qf := q } ∧ Sound q := by
  unfold execEpochRetire done
  refine ⟨_, rfl, ?_⟩
  with_reducible repeat' first
    | assumption | extract_lets +onlyGivenNames x | apply Qf.retireEpoch_sound | apply Qf.settle_sound | split
    | refine Sound.lit ?_ rfl rfl rfl

theorem Qf.openDraft_sound {q : Qf} {r : RegionId} (hq : Sound q) : SoundOptP (Qf.openDraft q r) := by
  unfold Qf.openDraft
  with_reducible repeat' first
    | assumption | intro _ | (extract_lets +onlyGivenNames x; clear_value x) | extract_lets +onlyGivenNames x
    | apply Qf.takeFree_sound | apply Qf.updVer_sound
    | (split <;> try (rename_i heq; apply pair_eq at heq; refine step_sound _ (heq ?_) (fun hq => ?_)))
    | apply okOptP_mapc

theorem execCirrusRegister_sound {m : MgrRef} {lender : BitVec 16} {first : BitVec 16} {count : BitVec 16}
    {s : State} (hq : Sound s.qf)
    : ∃ q, execCirrusRegister m lender first count s = .next { s with qf := q } ∧ Sound q := by
  unfold execCirrusRegister done
  refine ⟨_, rfl, ?_⟩
  with_reducible repeat' first
    | assumption | intro q hq
    | (extract_lets +onlyGivenNames q; guard_hyp q : Qf := _; refine step_sound q ?_ (fun hq => ?_)
       rotate_left; clear_value q; rotate_left; subst q)
    | (extract_lets +onlyGivenNames x; clear_value x) | apply Qf.mgr_sound | apply Qf.complete_sound | split
    | refine Sound.lit ?_ rfl rfl rfl

theorem Qf.moveCutover_sound {q : Qf} (hq : Sound q) : Sound (Qf.moveCutover q) := by
  unfold Qf.moveCutover
  with_reducible repeat' first
    | assumption
    | (extract_lets +onlyGivenNames q; guard_hyp q : Qf := _; refine step_sound q ?_ (fun hq => ?_)
       rotate_left; clear_value q; rotate_left; subst q)
    | (extract_lets +onlyGivenNames x; clear_value x) | extract_lets +onlyGivenNames x
    | refine foldl_sound (fun q x hq => ?_) _ ?_ | apply Qf.failChecked_sound | apply Qf.failWaits_sound
    | apply Qf.failFill_sound | apply Qf.endProgress_sound | apply Qf.updExtent_sound | apply Qf.complete_sound
    | split | refine Sound.lit ?_ rfl rfl rfl

theorem execCirrusReplicate_sound {m : MgrRef} {slot : BitVec 32} {lender : BitVec 16} {extent : BitVec 16}
    {s : State} (hq : Sound s.qf)
    : ∃ q, execCirrusReplicate m slot lender extent s = .next { s with qf := q } ∧ Sound q := by
  unfold execCirrusReplicate done
  refine ⟨_, rfl, ?_⟩
  with_reducible repeat' first
    | assumption | intro q hq | extract_lets +onlyGivenNames x | apply Qf.extCmd_sound | apply Qf.mgr_sound

theorem execPlaceT0_sound {m : MgrRef} {slot : BitVec 32} {s : State} (hq : Sound s.qf)
    : ∃ q, execPlaceT0 m slot s = .next { s with qf := q } ∧ Sound q := by
  unfold execPlaceT0 done
  refine ⟨_, rfl, ?_⟩
  with_reducible repeat' first
    | assumption | intro q hq | extract_lets +onlyGivenNames x | apply Qf.extCmd_sound | apply Qf.mgr_sound

theorem Qf.hotReplicate_sound {q : Qf} {pg : BitVec 34} (hq : Sound q) : Sound (Qf.hotReplicate q pg) := by
  unfold Qf.hotReplicate
  with_reducible repeat' first
    | assumption
    | (extract_lets +onlyGivenNames q; guard_hyp q : Qf := _; refine step_sound q ?_ (fun hq => ?_)
       rotate_left; clear_value q; rotate_left; subst q)
    | (extract_lets +onlyGivenNames x; clear_value x) | extract_lets +onlyGivenNames x
    | refine foldl_sound (fun q x hq => ?_) _ ?_ | apply Qf.dropHot_sound | apply Qf.orderInternal_sound | split
    | refine Sound.lit ?_ rfl rfl rfl

theorem execSkewHot_sound {r : SkewResource} {hot : Bool} {lines : List LineNo} {s : State} (hq : Sound s.qf)
    : ∃ q, execSkewHot r hot lines s = .next { s with qf := q } ∧ Sound q := by
  unfold execSkewHot done
  refine ⟨_, rfl, ?_⟩
  with_reducible repeat' first
    | assumption
    | (extract_lets +onlyGivenNames q; guard_hyp q : Qf := _; refine step_sound q ?_ (fun hq => ?_)
       rotate_left; clear_value q; rotate_left; subst q)
    | (extract_lets +onlyGivenNames x; clear_value x) | extract_lets +onlyGivenNames x
    | refine foldl_sound (fun q x hq => ?_) _ ?_ | apply Qf.hotReplicate_sound | apply Qf.settle_sound | split
    | refine Sound.lit ?_ rfl rfl rfl

theorem execTrayFillTimeout_sound {slot : Slot} {s : State} (hq : Sound s.qf)
    : ∃ q, execTrayFillTimeout slot s = .next { s with qf := q } ∧ Sound q := by
  unfold execTrayFillTimeout done
  refine ⟨_, rfl, ?_⟩
  with_reducible repeat' first
    | assumption | extract_lets +onlyGivenNames x | apply Qf.scrubStop_sound | apply Qf.settle_sound | split
    | refine Sound.lit ?_ rfl rfl rfl

theorem execWithdrawDrainEnd_sound {slot : Slot} {s : State} (hq : Sound s.qf)
    : ∃ q, execWithdrawDrainEnd slot s = .next { s with qf := q } ∧ Sound q := by
  unfold execWithdrawDrainEnd done
  refine ⟨_, rfl, ?_⟩
  with_reducible repeat' first
    | assumption | extract_lets +onlyGivenNames x | apply Qf.recallSlot_sound | apply Qf.settle_sound
    | apply Qf.updWd_sound | split | refine Sound.lit ?_ rfl rfl rfl

theorem Qf.sectorWrite_sound {q : Qf} {port : Bool} {f : Qf → Qf} (hq : Sound q)
    (hf1 : ∀ y0, Sound y0 → Sound (f y0)) : Sound (Qf.sectorWrite q port f) := by
  unfold Qf.sectorWrite
  with_reducible repeat' first
    | assumption | intro q hq | extract_lets +onlyGivenNames x | apply Qf.bar0Write_sound | apply hf1 | split

theorem execCirrusReplicaComplete_sound {slot : Slot} {s : State} (hq : Sound s.qf)
    : ∃ q, execCirrusReplicaComplete slot s = .next { s with qf := q } ∧ Sound q := by
  unfold execCirrusReplicaComplete done
  refine ⟨_, rfl, ?_⟩
  with_reducible repeat' first
    | assumption
    | (extract_lets +onlyGivenNames q; guard_hyp q : Qf := _; refine step_sound q ?_ (fun hq => ?_)
       rotate_left; clear_value q; rotate_left; subst q)
    | (extract_lets +onlyGivenNames x; clear_value x) | extract_lets +onlyGivenNames x | apply Qf.updQuota_sound
    | apply Qf.replicaEnd_sound | apply Qf.meter_sound | apply Qf.updExtent_sound | apply Qf.settle_sound
    | split | refine Sound.lit ?_ rfl rfl rfl

theorem Qf.foldTurn_sound {q : Qf} {r : RegionId} (hq : Sound q) : Sound (Qf.foldTurn q r) := by
  unfold Qf.foldTurn
  with_reducible repeat' first
    | assumption
    | (extract_lets +onlyGivenNames q; guard_hyp q : Qf := _; refine step_sound q ?_ (fun hq => ?_)
       rotate_left; clear_value q; rotate_left; subst q)
    | (extract_lets +onlyGivenNames x; clear_value x) | extract_lets +onlyGivenNames x
    | refine foldl_sound (fun q x hq => ?_) _ ?_ | apply Qf.freePages_sound | apply Qf.endProgress_sound
    | apply Qf.updVer_sound | apply Qf.orderInternal_sound | apply Qf.updProgress_sound | apply Qf.settle_sound
    | split

theorem execFoldPage_sound {_tenant : Tenant} {region : RegionId} {s : State} (hq : Sound s.qf)
    : ∃ q, execFoldPage _tenant region s = .next { s with qf := q } ∧ Sound q := by
  unfold execFoldPage done
  refine ⟨_, rfl, ?_⟩
  with_reducible repeat' first
    | assumption | extract_lets +onlyGivenNames x | apply Qf.foldTurn_sound | split
    | refine Sound.lit ?_ rfl rfl rfl

theorem execExtentMove_sound {m : MgrRef} {slot : BitVec 32} {newHome : BitVec 16} {newSlot : BitVec 32}
    {s : State} (hq : Sound s.qf)
    : ∃ q, execExtentMove m slot newHome newSlot s = .next { s with qf := q } ∧ Sound q := by
  unfold execExtentMove done
  refine ⟨_, rfl, ?_⟩
  with_reducible repeat' first
    | assumption | intro q hq | extract_lets +onlyGivenNames x | apply Qf.extCmd_sound | apply Qf.mgr_sound
    | apply Qf.complete_sound | split

theorem execExtentRestore_sound {m : MgrRef} {slot : BitVec 32} {image : BitVec 64} {tenant : BitVec 16}
    {s : State} (hq : Sound s.qf)
    : ∃ q, execExtentRestore m slot image tenant s = .next { s with qf := q } ∧ Sound q := by
  unfold execExtentRestore done
  refine ⟨_, rfl, ?_⟩
  with_reducible repeat' first
    | assumption | intro q hq
    | (extract_lets +onlyGivenNames q; guard_hyp q : Qf := _; refine step_sound q ?_ (fun hq => ?_)
       rotate_left; clear_value q; rotate_left; subst q)
    | (extract_lets +onlyGivenNames x; clear_value x) | extract_lets +onlyGivenNames x
    | apply Qf.restoreGot_sound | apply Qf.mgr_sound | apply Qf.issue_sound
    | (split <;> try (rename_i heq; apply pair_eq at heq; refine step_sound _ (heq ?_) (fun hq => ?_)))
    | refine Sound.lit ?_ rfl rfl rfl

theorem execThrottleLapse_sound {home : Ep} {s : State} (hq : Sound s.qf)
    : ∃ q, execThrottleLapse home s = .next { s with qf := q } ∧ Sound q := by
  unfold execThrottleLapse done
  refine ⟨_, rfl, ?_⟩
  with_reducible repeat' first
    | assumption | (extract_lets +onlyGivenNames x; clear_value x) | extract_lets +onlyGivenNames x | split
    | refine Sound.lit ?_ rfl rfl rfl

theorem execExtentAssign_sound {m : MgrRef} {slot : BitVec 32} {tray : BitVec 16} {trayExtent : BitVec 16}
    {tenant : BitVec 16} {region : BitVec 32} {flags : BitVec 8} {s : State} (hq : Sound s.qf)
    : ∃ q, execExtentAssign m slot tray trayExtent tenant region flags s = .next { s with qf := q } ∧ Sound q := by
  unfold execExtentAssign done
  refine ⟨_, rfl, ?_⟩
  with_reducible repeat' first
    | assumption | intro q hq | extract_lets +onlyGivenNames x | apply Qf.extCmd_sound | apply Qf.mgr_sound

theorem execScrubDone_sound {slot : Slot} {s : State} (hq : Sound s.qf)
    : ∃ q, execScrubDone slot s = .next { s with qf := q } ∧ Sound q := by
  unfold execScrubDone done
  refine ⟨_, rfl, ?_⟩
  with_reducible repeat' first
    | assumption
    | (extract_lets +onlyGivenNames q; guard_hyp q : Qf := _; refine step_sound q ?_ (fun hq => ?_)
       rotate_left; clear_value q; rotate_left; subst q)
    | (extract_lets +onlyGivenNames x; clear_value x) | extract_lets +onlyGivenNames x | apply Qf.freeSlot_sound
    | apply Qf.endProgress_sound | apply Qf.complete_sound | apply Qf.settle_sound | split
    | refine Sound.lit ?_ rfl rfl rfl

theorem execExtentWithdraw_sound {m : MgrRef} {slot : BitVec 32} {tw : BitVec 64} {s : State} (hq : Sound s.qf)
    : ∃ q, execExtentWithdraw m slot tw s = .next { s with qf := q } ∧ Sound q := by
  unfold execExtentWithdraw done
  refine ⟨_, rfl, ?_⟩
  with_reducible repeat' first
    | assumption | intro q hq | extract_lets +onlyGivenNames x | apply Qf.extCmd_sound | apply Qf.mgr_sound
    | apply Qf.complete_sound | split

theorem execAbandon_sound {m : MgrRef} {tenant : BitVec 16} {region : BitVec 32} {draft : BitVec 8} {s : State}
    (hq : Sound s.qf) : ∃ q, execAbandon m tenant region draft s = .next { s with qf := q } ∧ Sound q := by
  unfold execAbandon done
  refine ⟨_, rfl, ?_⟩
  with_reducible repeat' first
    | assumption | intro q hq | intro _ | extract_lets +onlyGivenNames x | apply Qf.abandonDraft_sound
    | apply Qf.versionOp_sound | apply Qf.complete_sound | split

theorem execReclaimAck_sound {lender : Ep} {s : State} (hq : Sound s.qf)
    : ∃ q, execReclaimAck lender s = .next { s with qf := q } ∧ Sound q := by
  unfold execReclaimAck done
  refine ⟨_, rfl, ?_⟩
  with_reducible repeat' first
    | assumption
    | (extract_lets +onlyGivenNames q; guard_hyp q : Qf := _; refine step_sound q ?_ (fun hq => ?_)
       rotate_left; clear_value q; rotate_left; subst q)
    | (extract_lets +onlyGivenNames x; clear_value x) | extract_lets +onlyGivenNames x
    | refine foldl_sound (fun q x hq => ?_) _ ?_ | apply Qf.readTier_sound | apply Qf.sendPlain_sound
    | apply Qf.settle_sound | split | refine Sound.lit ?_ rfl rfl rfl

theorem execWithdrawEffect_sound {slot : Slot} {s : State} (hq : Sound s.qf)
    : ∃ q, execWithdrawEffect slot s = .next { s with qf := q } ∧ Sound q := by
  unfold execWithdrawEffect done
  refine ⟨_, rfl, ?_⟩
  with_reducible repeat' first
    | assumption | extract_lets +onlyGivenNames x | apply Qf.withdrawNow_sound | split
    | refine Sound.lit ?_ rfl rfl rfl

theorem execMoveCopyPass_sound {slot : Slot} {s : State} (hq : Sound s.qf)
    : ∃ q, execMoveCopyPass slot s = .next { s with qf := q } ∧ Sound q := by
  unfold execMoveCopyPass done
  refine ⟨_, rfl, ?_⟩
  with_reducible repeat' first
    | assumption | intro q hq | intro _
    | (extract_lets +onlyGivenNames x; guard_hyp x : Qf → Move → Qf := _
       refine stepP (P := ∀ y0 y1, Sound y0 → Sound (x y0 y1)) ?_ (fun hl0 => ?_); rotate_left; clear_value x
       rotate_left; subst x)
    | (extract_lets +onlyGivenNames x; clear_value x) | extract_lets +onlyGivenNames x | apply hl0
    | apply Qf.recallSlot_sound | apply Qf.moveNext_sound | apply Qf.settle_sound | split
    | refine Sound.lit ?_ rfl rfl rfl

theorem execT0FillDone_sound {slot : Slot} {s : State} (hq : Sound s.qf)
    : ∃ q, execT0FillDone slot s = .next { s with qf := q } ∧ Sound q := by
  unfold execT0FillDone done
  refine ⟨_, rfl, ?_⟩
  with_reducible repeat' first
    | assumption
    | (extract_lets +onlyGivenNames q; guard_hyp q : Qf := _; refine step_sound q ?_ (fun hq => ?_)
       rotate_left; clear_value q; rotate_left; subst q)
    | (extract_lets +onlyGivenNames x; clear_value x) | extract_lets +onlyGivenNames x
    | apply Qf.endProgress_sound | split | refine Sound.lit ?_ rfl rfl rfl

theorem execRetireEarly_sound {port : Bool} {value : BitVec 64} {s : State} (hq : Sound s.qf)
    : ∃ q, execRetireEarly port value s = .next { s with qf := q } ∧ Sound q := by
  unfold execRetireEarly done
  refine ⟨_, rfl, ?_⟩
  with_reducible repeat' first
    | assumption | intro q hq | (extract_lets +onlyGivenNames x; clear_value x) | extract_lets +onlyGivenNames x
    | apply Qf.sectorWrite_sound | split | refine Sound.lit ?_ rfl rfl rfl

theorem execAdvance_sound {port : Bool} {value : BitVec 64} {s : State} (hq : Sound s.qf)
    : ∃ q, execAdvance port value s = .next { s with qf := q } ∧ Sound q := by
  unfold execAdvance done
  refine ⟨_, rfl, ?_⟩
  with_reducible repeat' first
    | assumption | intro q hq
    | (extract_lets +onlyGivenNames q; guard_hyp q : Qf := _; refine step_sound q ?_ (fun hq => ?_)
       rotate_left; clear_value q; rotate_left; subst q)
    | (extract_lets +onlyGivenNames x; clear_value x) | extract_lets +onlyGivenNames x
    | apply Qf.sectorWrite_sound | apply Qf.moveCutover_sound | apply Qf.settle_sound | split
    | refine Sound.lit ?_ rfl rfl rfl

theorem Qf.throttleNotice_sound {q : Qf} {home : Ep} {short : Bool} {ts : List Tenant} (hq : Sound q)
    : Sound (Qf.throttleNotice q home short ts) := by
  unfold Qf.throttleNotice
  with_reducible repeat' first
    | assumption
    | (extract_lets +onlyGivenNames q; guard_hyp q : Qf := _; refine step_sound q ?_ (fun hq => ?_)
       rotate_left; clear_value q; rotate_left; subst q)
    | (extract_lets +onlyGivenNames x; clear_value x) | extract_lets +onlyGivenNames x
    | refine foldl_sound (fun q x hq => ?_) _ ?_ | apply Qf.updPolicer_sound | split
    | refine Sound.lit ?_ rfl rfl rfl

theorem execThrottle_sound {home : Ep} {short : Bool} {tenants : List Tenant} {s : State} (hq : Sound s.qf)
    : ∃ q, execThrottle home short tenants s = .next { s with qf := q } ∧ Sound q := by
  unfold execThrottle done
  refine ⟨_, rfl, ?_⟩
  with_reducible repeat' first
    | assumption | extract_lets +onlyGivenNames x | apply Qf.throttleNotice_sound | split
    | refine Sound.lit ?_ rfl rfl rfl

theorem execReplicaIdleDrop_sound {page : BitVec 34} {s : State} (hq : Sound s.qf)
    : ∃ q, execReplicaIdleDrop page s = .next { s with qf := q } ∧ Sound q := by
  unfold execReplicaIdleDrop done
  refine ⟨_, rfl, ?_⟩
  with_reducible repeat' first
    | assumption | extract_lets +onlyGivenNames x | apply Qf.dropHot_sound | split
    | refine Sound.lit ?_ rfl rfl rfl

theorem execOpenDraft_sound {m : MgrRef} {tenant : BitVec 16} {region : BitVec 32} {s : State} (hq : Sound s.qf)
    : ∃ q, execOpenDraft m tenant region s = .next { s with qf := q } ∧ Sound q := by
  unfold execOpenDraft done
  refine ⟨_, rfl, ?_⟩
  with_reducible repeat' first
    | assumption | intro q hq | intro _ | extract_lets +onlyGivenNames x | apply Qf.versionOp_sound
    | apply Qf.complete_sound | apply Qf.openDraft_sound
    | (split <;> try (rename_i heq; apply optp_eq at heq; refine step_sound _ (heq ?_) (fun hq => ?_)))

end Sys2Proof.Machine
end

