-- ==== Sys2Proof/Laws/SoundEngines.lean ====
section
/-! SUPPORT. Laws/SoundEngines.lean: the collective, copy, gather, search and encode engines
keep Safety.Sound: one lemma per operation and per command. -/

set_option linter.tactic.unusedName false

namespace Sys2Proof.Machine
open Sys2Proof.Safety

theorem Qf.takeTag_sound {q : Qf} (hq : Sound q) : Sound (Qf.takeTag q).2 := by
  unfold Qf.takeTag
  with_reducible repeat' first
    | assumption | (extract_lets +onlyGivenNames x; clear_value x) | refine Sound.lit ?_ rfl rfl rfl

theorem Qf.updQp_sound {q : Qf} {n : QpKey} {f : Qp → Qp} (hq : Sound q) : Sound (Qf.updQp q n f) := by
  unfold Qf.updQp
  with_reducible repeat' first
    | assumption | (extract_lets +onlyGivenNames x; clear_value x) | refine Sound.lit ?_ rfl rfl rfl

theorem Qf.pushPkt_sound {q : Qf} {n : QpKey} {s : SentPkt} (hq : Sound q) : Sound (Qf.pushPkt q n s) := by
  unfold Qf.pushPkt
  with_reducible repeat' first
    | assumption | (extract_lets +onlyGivenNames x; clear_value x) | apply Qf.updQp_sound

theorem Qf.writePiece_sound {q : Qf} {n : QpKey} {w : WorkReq} {p : Piece} {window : Bool} {bs : List Byte}
    (hq : Sound q) : Sound (Qf.writePiece q n w p window bs) := by
  unfold Qf.writePiece
  with_reducible repeat' first
    | assumption | (extract_lets +onlyGivenNames x; clear_value x) | extract_lets +onlyGivenNames x
    | apply Qf.takeTag_sound | apply Qf.pushPkt_sound

theorem Qf.updWr_sound {q : Qf} {n : QpKey} {i : BitVec 16} {f : WorkReq → WorkReq} (hq : Sound q)
    : Sound (Qf.updWr q n i f) := by
  unfold Qf.updWr
  with_reducible repeat' first
    | assumption | apply Qf.updQp_sound

theorem Qf.pushPieces_sound {a1 : Nat} {a2 : QpKey} {a3 : BitVec 16} {q : Qf} (hq : Sound q)
    : Sound (Qf.pushPieces a1 a2 a3 q) := by
  induction a1 generalizing a2 a3 q with
  | zero =>
    unfold Qf.pushPieces
    with_reducible repeat' (assumption)
  | succ n ih =>
    unfold Qf.pushPieces
    with_reducible repeat' first
      | assumption | extract_lets +onlyGivenNames x | apply ih | apply Qf.writePiece_sound
      | apply Qf.updWr_sound | split

theorem Qf.updGroup_sound {q : Qf} {g : Nat} {f : Group → Group} (hq : Sound q) : Sound (Qf.updGroup q g f) := by
  unfold Qf.updGroup
  with_reducible repeat' first
    | assumption | (extract_lets +onlyGivenNames x; clear_value x) | split | refine Sound.lit ?_ rfl rfl rfl

theorem Qf.updInst_sound {q : Qf} {g : Nat} {f : ColInst → ColInst} (hq : Sound q) : Sound (Qf.updInst q g f) := by
  unfold Qf.updInst
  with_reducible repeat' first
    | assumption | apply Qf.updGroup_sound

theorem Qf.answerAbort_sound {q : Qf} {g : Nat} {seq : BitVec 32} {r : ColReq} {st : Status} (hq : Sound q)
    : Sound (Qf.answerAbort q g seq r st) := by
  unfold Qf.answerAbort
  with_reducible repeat' first
    | assumption | (extract_lets +onlyGivenNames x; clear_value x) | apply Qf.complete_sound
    | apply Qf.sendOn_sound | split

theorem Qf.colDone_sound {q : Qf} {g : Nat} {h : HalfPort} {ep : Ep} {tag : Tag} {seq : BitVec 32}
    {st : BitVec 8} {reason : BitVec 8} {elements : Nat} {i : ColInst} (hq : Sound q)
    : Sound (Qf.colDone q g h ep tag seq st reason elements i) := by
  unfold Qf.colDone
  with_reducible repeat' first
    | assumption | (extract_lets +onlyGivenNames x; clear_value x) | apply Qf.sendOn_sound

theorem Qf.answerAborts_sound {q : Qf} {g : Nat} {st : Status} (hq : Sound q) : Sound (Qf.answerAborts q g st) := by
  unfold Qf.answerAborts
  with_reducible repeat' first
    | assumption | (extract_lets +onlyGivenNames x; clear_value x) | extract_lets +onlyGivenNames x
    | refine foldl_sound (fun q x hq => ?_) _ ?_ | apply Qf.updInst_sound | apply Qf.answerAbort_sound

theorem Qf.colAbortNow_sound {q : Qf} {g : Nat} {reason : BitVec 8} {st : BitVec 8} (hq : Sound q)
    : Sound (Qf.colAbortNow q g reason st) := by
  unfold Qf.colAbortNow
  with_reducible repeat' first
    | assumption
    | (extract_lets +onlyGivenNames q; guard_hyp q : Qf := _; refine step_sound q ?_ (fun hq => ?_)
       rotate_left; clear_value q; rotate_left; subst q)
    | (extract_lets +onlyGivenNames x; clear_value x) | extract_lets +onlyGivenNames x
    | refine foldl_sound (fun q x hq => ?_) _ ?_ | apply Qf.updGroup_sound | apply Qf.sendCol_sound
    | apply Qf.updInst_sound | apply Qf.colDone_sound | apply Qf.answerAborts_sound | apply Qf.sendOn_sound
    | split

theorem Qf.colAbortAsk_sound {q : Qf} {g : Nat} {reason : BitVec 8} {st : BitVec 8} {from_ : Option ColReq}
    (hq : Sound q) : Sound (Qf.colAbortAsk q g reason st from_) := by
  unfold Qf.colAbortAsk
  with_reducible repeat' first
    | assumption | intro q hq
    | (extract_lets +onlyGivenNames x; guard_hyp x : Qf → Qf := _
       refine stepP (P := ∀ y0, Sound y0 → Sound (x y0)) ?_ (fun hl0 => ?_); rotate_left; clear_value x
       rotate_left; subst x)
    | (extract_lets +onlyGivenNames x; clear_value x) | extract_lets +onlyGivenNames x | apply hl0
    | apply Qf.sendCol_sound | apply Qf.updInst_sound | apply Qf.answerAbort_sound | apply Qf.colAbortNow_sound
    | split

theorem Qf.colFail_sound {q : Qf} {g : Nat} {reason : BitVec 8} {st : BitVec 8} (hq : Sound q)
    : Sound (Qf.colFail q g reason st) := by
  unfold Qf.colFail
  with_reducible repeat' first
    | assumption | (extract_lets +onlyGivenNames x; clear_value x) | apply Qf.colAbortAsk_sound | split

theorem Qf.colWant_sound {q : Qf} {g : Nat} (hq : Sound q) : Sound (Qf.colWant q g) := by
  unfold Qf.colWant
  with_reducible repeat' first
    | assumption | (extract_lets +onlyGivenNames x; clear_value x) | extract_lets +onlyGivenNames x
    | refine foldl_sound (fun q x hq => ?_) _ ?_ | apply Qf.wantUnit_sound

theorem Qf.updMember_sound {q : Qf} {g : Nat} {h : HalfPort} {f : ColMember → ColMember} (hq : Sound q)
    : Sound (Qf.updMember q g h f) := by
  unfold Qf.updMember
  with_reducible repeat' first
    | assumption | apply Qf.updInst_sound

theorem Qf.memberFinish_sound {q : Qf} {g : Nat} {h : HalfPort} (hq : Sound q) : Sound (Qf.memberFinish q g h) := by
  unfold Qf.memberFinish
  with_reducible repeat' first
    | assumption
    | (extract_lets +onlyGivenNames q; guard_hyp q : Qf := _; refine step_sound q ?_ (fun hq => ?_)
       rotate_left; clear_value q; rotate_left; subst q)
    | (extract_lets +onlyGivenNames x; guard_hyp x : Option Status × Qf := _
       refine step_sound x.2 ?_ (fun hx => ?_); rotate_left; clear_value x; rotate_left; subst x)
    | (extract_lets +onlyGivenNames x; clear_value x) | extract_lets +onlyGivenNames x
    | apply Qf.updMember_sound | apply Qf.colDone_sound | apply Qf.engFlag_sound | split

theorem Qf.colRead_sound {q : Qf} {g : Nat} {h : HalfPort} (hq : Sound q) : Sound (Qf.colRead q g h) := by
  unfold Qf.colRead
  with_reducible repeat' first
    | assumption | intro q hq
    | (extract_lets +onlyGivenNames q; guard_hyp q : Qf := _; refine step_sound q ?_ (fun hq => ?_)
       rotate_left; clear_value q; rotate_left; subst q)
    | (extract_lets +onlyGivenNames x; guard_hyp x : Qf → Nat → Nat → Qf := _
       refine stepP (P := ∀ y0 y1 y2, Sound y0 → Sound (x y0 y1 y2)) ?_ (fun hl0 => ?_); rotate_left
       clear_value x; rotate_left; subst x)
    | (extract_lets +onlyGivenNames x; clear_value x) | extract_lets +onlyGivenNames x | apply hl0
    | apply Qf.updMember_sound | apply Qf.colFail_sound | apply Qf.engRead_sound | split
    | refine Sound.lit ?_ rfl rfl rfl

theorem Qf.colBegin_sound {q : Qf} {g : Nat} {sig : ColSig} (hq : Sound q) : Sound (Qf.colBegin q g sig) := by
  unfold Qf.colBegin
  with_reducible repeat' first
    | assumption
    | (extract_lets +onlyGivenNames q; guard_hyp q : Qf := _; refine step_sound q ?_ (fun hq => ?_)
       rotate_left; clear_value q; rotate_left; subst q)
    | (extract_lets +onlyGivenNames x; clear_value x) | apply Qf.colAbortAsk_sound | apply Qf.updGroup_sound
    | split

theorem Qf.colSign_sound {q : Qf} {g : Nat} {sig : ColSig} (hq : Sound q) : Sound (Qf.colSign q g sig).2 := by
  unfold Qf.colSign
  with_reducible repeat' first
    | assumption
    | (extract_lets +onlyGivenNames q; guard_hyp q : Qf := _; refine step_sound q ?_ (fun hq => ?_)
       rotate_left; clear_value q; rotate_left; subst q)
    | apply Qf.colFail_sound | apply Qf.colBegin_sound | split

theorem Qf.colExpand_sound {q : Qf} {t : Line} {bs : List Byte} (hq : Sound q) : Sound (Qf.colExpand q t bs).2 := by
  unfold Qf.colExpand
  with_reducible repeat' first
    | assumption | (extract_lets +onlyGivenNames x; clear_value x) | split | refine Sound.lit ?_ rfl rfl rfl

theorem Qf.colValues_sound {q : Qf} {m : ColMember} {sig : ColSig} {b : Nat} {bs : List Byte} (hq : Sound q)
    : Sound (Qf.colValues q m sig b bs).2 := by
  unfold Qf.colValues
  with_reducible repeat' first
    | assumption | apply Qf.colExpand_sound | split

theorem Qf.colDeliver_sound {q : Qf} {g : Nat} {b : Nat} {bs : List Byte} (hq : Sound q)
    : Sound (Qf.colDeliver q g b bs) := by
  unfold Qf.colDeliver
  with_reducible repeat' first
    | assumption
    | (extract_lets +onlyGivenNames q; guard_hyp q : Qf := _; refine step_sound q ?_ (fun hq => ?_)
       rotate_left; clear_value q; rotate_left; subst q)
    | (extract_lets +onlyGivenNames x; guard_hyp x : Option Status × Nat × Qf := _
       refine step_sound x.2.2 ?_ (fun hx => ?_); rotate_left; clear_value x; rotate_left; subst x)
    | (extract_lets +onlyGivenNames x; clear_value x) | refine foldl_sound (fun q x hq => ?_) _ ?_
    | apply Qf.updMember_sound | apply Qf.sendCol_sound | apply Qf.engWriteAll_sound | apply Qf.updInst_sound
    | apply Qf.sendOn_sound | split

theorem Qf.colCommit_sound {q : Qf} {g : Nat} (hq : Sound q) : Sound (Qf.colCommit q g) := by
  unfold Qf.colCommit
  with_reducible repeat' first
    | assumption
    | (extract_lets +onlyGivenNames q; guard_hyp q : Qf := _; refine step_sound q ?_ (fun hq => ?_)
       rotate_left; clear_value q; rotate_left; subst q)
    | (extract_lets +onlyGivenNames x; clear_value x) | extract_lets +onlyGivenNames x
    | refine foldl_sound (fun q x hq => ?_) _ ?_ | apply Qf.memberFinish_sound | apply Qf.updGroup_sound
    | apply Qf.colDeliver_sound | apply Qf.sendCol_sound | apply Qf.updInst_sound | apply Qf.answerAborts_sound
    | split

theorem Qf.colBlockDone_sound {q : Qf} {g : Nat} {b : Nat} {blk : ColBlock} (hq : Sound q)
    : Sound (Qf.colBlockDone q g b blk) := by
  unfold Qf.colBlockDone
  with_reducible repeat' first
    | assumption
    | (extract_lets +onlyGivenNames q; guard_hyp q : Qf := _; refine step_sound q ?_ (fun hq => ?_)
       rotate_left; clear_value q; rotate_left; subst q)
    | (extract_lets +onlyGivenNames x; clear_value x) | apply Qf.sendCol_sound | apply Qf.updInst_sound
    | apply Qf.colCommit_sound | split | refine Sound.lit ?_ rfl rfl rfl

theorem Qf.colFold_sound {q : Qf} {g : Nat} {h : HalfPort} {b : Nat} {vs : List (BitVec 64)} (hq : Sound q)
    : Sound (Qf.colFold q g h b vs) := by
  unfold Qf.colFold
  with_reducible repeat' first
    | assumption
    | (extract_lets +onlyGivenNames q; guard_hyp q : Qf := _; refine step_sound q ?_ (fun hq => ?_)
       rotate_left; clear_value q; rotate_left; subst q)
    | (extract_lets +onlyGivenNames x; clear_value x) | extract_lets +onlyGivenNames x | apply Qf.updInst_sound
    | apply Qf.meter_sound | apply Qf.colBlockDone_sound | split

theorem Qf.colContribute_sound {q : Qf} {g : Nat} {m : ColMember} {b : Nat} {bs : List Byte} (hq : Sound q)
    : Sound (Qf.colContribute q g m b bs) := by
  unfold Qf.colContribute
  with_reducible repeat' first
    | assumption
    | (extract_lets +onlyGivenNames x; guard_hyp x : Option (List Nat) × Qf := _
       refine step_sound x.2 ?_ (fun hx => ?_); rotate_left; clear_value x; rotate_left; subst x)
    | (extract_lets +onlyGivenNames x; clear_value x) | apply Qf.colValues_sound | apply Qf.colFail_sound
    | apply Qf.colFold_sound | split

theorem Qf.colBlocks_sound {g : Nat} {h : HalfPort} {p : Packet} {c : ColHdr} {data : Bool} {m : ColMember}
    {sig : ColSig} {a1 : Nat} {a2 : Nat} {a3 : Nat} {q : Qf} (hq : Sound q)
    : Sound (Qf.colBlocks g h p c data m sig a1 a2 a3 q).2 := by
  induction a1 generalizing a2 a3 q with
  | zero => exact hq
  | succ n ih =>
    unfold Qf.colBlocks
    extract_lets x b z
    split
    · exact hq
    · split
      · exact hq
      · refine ih ?_
        split
        · exact Qf.colContribute_sound hq
        · exact Qf.colFold_sound hq

theorem Qf.colSome_sound {q : Qf} {g : Nat} {h : HalfPort} {p : Packet} {c : ColHdr} {data : Bool}
    {m : ColMember} {sig : ColSig} (hq : Sound q) : Sound (Qf.colSome q g h p c data m sig).2 := by
  unfold Qf.colSome
  with_reducible repeat' first
    | assumption
    | (extract_lets +onlyGivenNames x; guard_hyp x : Nat × Qf := _; refine step_sound x.2 ?_ (fun hx => ?_)
       rotate_left; clear_value x; rotate_left; subst x)
    | (extract_lets +onlyGivenNames x; clear_value x) | apply Qf.updInst_sound | apply Qf.colBlocks_sound

theorem Qf.colDataStep_sound {q : Qf} {g : Nat} {h : HalfPort} {p : Packet} {c : ColHdr} (hq : Sound q)
    : Sound (Qf.colDataStep q g h p c).2 := by
  unfold Qf.colDataStep
  with_reducible repeat' first
    | assumption
    | (extract_lets +onlyGivenNames q; guard_hyp q : Qf := _; refine step_sound q ?_ (fun hq => ?_)
       rotate_left; clear_value q; rotate_left; subst q)
    | (extract_lets +onlyGivenNames x; guard_hyp x : Bool × Qf := _; refine step_sound x.2 ?_ (fun hx => ?_)
       rotate_left; clear_value x; rotate_left; subst x)
    | (extract_lets +onlyGivenNames x; clear_value x) | apply Qf.colSign_sound | apply Qf.colSome_sound
    | apply Qf.colFail_sound | split

theorem Qf.colAdvance_sound {q : Qf} {g : Nat} (hq : Sound q) : Sound (Qf.colAdvance q g) := by
  unfold Qf.colAdvance
  with_reducible repeat' first
    | assumption
    | (extract_lets +onlyGivenNames x; guard_hyp x : Bool × Qf := _; refine step_sound x.2 ?_ (fun hx => ?_)
       rotate_left; clear_value x; rotate_left; subst x)
    | (extract_lets +onlyGivenNames x; clear_value x) | extract_lets +onlyGivenNames x
    | refine foldl_sound (fun q x hq => ?_) _ ?_ | apply Qf.colDataStep_sound | split

theorem Qf.colOpen_sound {q : Qf} {g : Nat} (hq : Sound q) : Sound (Qf.colOpen q g) := by
  unfold Qf.colOpen
  with_reducible repeat' first
    | assumption | apply Qf.colBegin_sound | split

theorem Qf.colExps_sound {q : Qf} {g : Nat} (hq : Sound q) : Sound (Qf.colExps q g) := by
  unfold Qf.colExps
  with_reducible repeat' first
    | assumption | intro q hq
    | (extract_lets +onlyGivenNames q; guard_hyp q : Qf := _; refine step_sound q ?_ (fun hq => ?_)
       rotate_left; clear_value q; rotate_left; subst q)
    | (extract_lets +onlyGivenNames x; guard_hyp x : Qf → BitVec 8 → List HalfPort → Qf := _
       refine stepP (P := ∀ y0 y1 y2, Sound y0 → Sound (x y0 y1 y2)) ?_ (fun hl0 => ?_); rotate_left
       clear_value x; rotate_left; subst x)
    | (extract_lets +onlyGivenNames x; clear_value x) | extract_lets +onlyGivenNames x | apply hl0
    | refine foldl_sound (fun q x hq => ?_) _ ?_ | apply Qf.updGroup_sound | apply Qf.sendCol_sound
    | apply Qf.updInst_sound | split

theorem Qf.colPutExps_sound {q : Qf} {g : Nat} {h : HalfPort} {first : Nat} {bs : List Byte} (hq : Sound q)
    : Sound (Qf.colPutExps q g h first bs) := by
  unfold Qf.colPutExps
  with_reducible repeat' first
    | assumption | extract_lets +onlyGivenNames x | apply Qf.colExps_sound | apply Qf.updInst_sound

theorem Qf.colTake_sound {a1 : Nat} {a2 : Nat} {a3 : HalfPort} {q : Qf} (hq : Sound q)
    : Sound (Qf.colTake a1 a2 a3 q) := by
  induction a1 generalizing a2 a3 q with
  | zero =>
    unfold Qf.colTake
    with_reducible repeat' (assumption)
  | succ n ih =>
    unfold Qf.colTake
    with_reducible repeat' first
      | assumption
      | (extract_lets +onlyGivenNames q; guard_hyp q : Qf := _; refine step_sound q ?_ (fun hq => ?_)
         rotate_left; clear_value q; rotate_left; subst q)
      | (extract_lets +onlyGivenNames x; guard_hyp x : Option (List Nat) × Qf := _
         refine step_sound x.2 ?_ (fun hx => ?_); rotate_left; clear_value x; rotate_left; subst x)
      | (extract_lets +onlyGivenNames x; clear_value x) | extract_lets +onlyGivenNames x | apply ih
      | apply Qf.colContribute_sound | apply Qf.updMember_sound | apply Qf.colValues_sound
      | apply Qf.colFail_sound | apply Qf.colPutExps_sound | split

theorem Qf.colFree_sound {q : Qf} {g : Nat} (hq : Sound q) : Sound (Qf.colFree q g) := by
  unfold Qf.colFree
  with_reducible repeat' first
    | assumption
    | (extract_lets +onlyGivenNames q; guard_hyp q : Qf := _; refine step_sound q ?_ (fun hq => ?_)
       rotate_left; clear_value q; rotate_left; subst q)
    | (extract_lets +onlyGivenNames x; clear_value x) | extract_lets +onlyGivenNames x
    | refine foldl_sound (fun q x hq => ?_) _ ?_ | apply Qf.updQuota_sound | apply Qf.take_sound
    | apply Qf.meter_sound | apply Qf.answerAbort_sound | apply Qf.complete_sound | split
    | refine Sound.lit ?_ rfl rfl rfl

theorem Qf.colCommitNow_sound {q : Qf} {g : Nat} {p : Packet} {c : ColHdr} (hq : Sound q)
    : Sound (Qf.colCommitNow q g p c) := by
  unfold Qf.colCommitNow
  with_reducible repeat' first
    | assumption
    | (extract_lets +onlyGivenNames q; guard_hyp q : Qf := _; refine step_sound q ?_ (fun hq => ?_)
       rotate_left; clear_value q; rotate_left; subst q)
    | (extract_lets +onlyGivenNames x; clear_value x) | apply Qf.updGroup_sound | apply Qf.sendCol_sound | split

theorem Qf.colAbortReqNow_sound {q : Qf} {g : Nat} {h : HalfPort} {p : Packet} {c : ColHdr} {member : Bool}
    (hq : Sound q) : Sound (Qf.colAbortReqNow q g h p c member) := by
  unfold Qf.colAbortReqNow
  with_reducible repeat' first
    | assumption
    | (extract_lets +onlyGivenNames q; guard_hyp q : Qf := _; refine step_sound q ?_ (fun hq => ?_)
       rotate_left; clear_value q; rotate_left; subst q)
    | (extract_lets +onlyGivenNames x; clear_value x) | apply Qf.colAbortAsk_sound | apply Qf.colBegin_sound
    | split

theorem Qf.colResultNow_sound {q : Qf} {g : Nat} {p : Packet} {c : ColHdr} (hq : Sound q)
    : SoundOpt (Qf.colResultNow q g p c) := by
  unfold Qf.colResultNow
  with_reducible repeat' first
    | assumption
    | (extract_lets +onlyGivenNames q; guard_hyp q : Qf := _; refine step_sound q ?_ (fun hq => ?_)
       rotate_left; clear_value q; rotate_left; subst q)
    | (extract_lets +onlyGivenNames x; clear_value x) | extract_lets +onlyGivenNames x
    | refine foldl_sound (fun q x hq => ?_) _ ?_ | refine foldl_ok2 (fun x c hx => ?_) _ ?_
    | apply Qf.memberFinish_sound | apply Qf.colDeliver_sound | split | exact okOpt_none | apply okOpt_some

theorem Qf.colAnswerNow_sound {q : Qf} {g : Nat} {h : HalfPort} {p : Packet} {up : Bool} (hq : Sound q)
    : Sound (Qf.colAnswerNow q g h p up) := by
  unfold Qf.colAnswerNow
  with_reducible repeat' first
    | assumption | (extract_lets +onlyGivenNames x; clear_value x) | extract_lets +onlyGivenNames x
    | apply Qf.updInst_sound | apply Qf.answerAbort_sound | split

theorem Qf.colDataNow_sound {q : Qf} {g : Nat} {h : HalfPort} {p : Packet} {c : ColHdr} (hq : Sound q)
    : SoundOpt (Qf.colDataNow q g h p c) := by
  unfold Qf.colDataNow
  with_reducible repeat' first
    | assumption
    | (extract_lets +onlyGivenNames x; guard_hyp x : Bool × Qf := _; refine step_sound x.2 ?_ (fun hx => ?_)
       rotate_left; clear_value x; rotate_left; subst x)
    | apply Qf.colDataStep_sound | split | exact okOpt_none | apply okOpt_some

theorem Qf.colExpNow_sound {q : Qf} {g : Nat} {h : HalfPort} {p : Packet} {c : ColHdr} (hq : Sound q)
    : Sound (Qf.colExpNow q g h p c) := by
  unfold Qf.colExpNow
  with_reducible repeat' first
    | assumption
    | (extract_lets +onlyGivenNames x; guard_hyp x : Bool × Qf := _; refine step_sound x.2 ?_ (fun hx => ?_)
       rotate_left; clear_value x; rotate_left; subst x)
    | (extract_lets +onlyGivenNames x; clear_value x) | apply Qf.colSign_sound | apply Qf.colPutExps_sound
    | split

theorem Qf.refuseLaunch_sound {q : Qf} {h : HalfPort} {p : Packet} {c : ColHdr} {st : Status}
    {reason : BitVec 8} (hq : Sound q) : Sound (Qf.refuseLaunch q h p c st reason) := by
  unfold Qf.refuseLaunch
  with_reducible repeat' first
    | assumption | apply Qf.colDone_sound

theorem Qf.colLaunchNow_sound {q : Qf} {g : Nat} {h : HalfPort} {p : Packet} {c : ColHdr} (hq : Sound q)
    : Sound (Qf.colLaunchNow q g h p c) := by
  unfold Qf.colLaunchNow
  with_reducible repeat' first
    | assumption | (extract_lets +onlyGivenNames x; clear_value x) | extract_lets +onlyGivenNames x
    | apply Qf.colSign_sound | apply Qf.colAbortAsk_sound | apply Qf.updInst_sound | apply Qf.colDone_sound
    | apply Qf.refuseLaunch_sound | apply Qf.colBegin_sound | split

theorem Qf.colAbortFrom_sound {q : Qf} {g : Nat} {h : HalfPort} {p : Packet} {c : ColHdr} (hq : Sound q)
    : Sound (Qf.colAbortFrom q g h p c) := by
  unfold Qf.colAbortFrom
  with_reducible repeat' first
    | assumption
    | (extract_lets +onlyGivenNames q; guard_hyp q : Qf := _; refine step_sound q ?_ (fun hq => ?_)
       rotate_left; clear_value q; rotate_left; subst q)
    | (extract_lets +onlyGivenNames x; clear_value x) | extract_lets +onlyGivenNames x | apply Qf.sendCol_sound
    | apply Qf.colBegin_sound | apply Qf.colAbortNow_sound | split

theorem Qf.colEbcastNow_sound {q : Qf} {g : Nat} {p : Packet} {c : ColHdr} (hq : Sound q)
    : SoundOpt (Qf.colEbcastNow q g p c) := by
  unfold Qf.colEbcastNow
  with_reducible repeat' first
    | assumption
    | (extract_lets +onlyGivenNames q; guard_hyp q : Qf := _; refine step_sound q ?_ (fun hq => ?_)
       rotate_left; clear_value q; rotate_left; subst q)
    | (extract_lets +onlyGivenNames x; clear_value x) | extract_lets +onlyGivenNames x | apply Qf.sendCol_sound
    | apply Qf.colExps_sound | apply Qf.updInst_sound | split | exact okOpt_none | apply okOpt_some

theorem Qf.colNow_sound {q : Qf} {g : Nat} {h : HalfPort} {p : Packet} {c : ColHdr} (hq : Sound q)
    : SoundOpt (Qf.colNow q g h p c) := by
  unfold Qf.colNow
  with_reducible repeat' first
    | assumption | (extract_lets +onlyGivenNames x; clear_value x) | extract_lets +onlyGivenNames x
    | apply Qf.colCommitNow_sound | apply Qf.colAbortReqNow_sound | apply Qf.colResultNow_sound
    | apply Qf.colAnswerNow_sound | apply Qf.colDataNow_sound | apply Qf.colExpNow_sound
    | apply Qf.colLaunchNow_sound | apply Qf.colAbortFrom_sound | apply Qf.colEbcastNow_sound | split
    | apply okOpt_some

theorem Qf.colTry_sound {q : Qf} {h : HalfPort} {p : Packet} (hq : Sound q) : SoundOpt (Qf.colTry q h p) := by
  unfold Qf.colTry
  with_reducible repeat' first
    | assumption | intro q hq
    | (extract_lets +onlyGivenNames x; guard_hyp x : Qf → Qf := _
       refine stepP (P := ∀ y0, Sound y0 → Sound (x y0)) ?_ (fun hl0 => ?_); rotate_left; clear_value x
       rotate_left; subst x)
    | (extract_lets +onlyGivenNames x; clear_value x) | extract_lets +onlyGivenNames x | apply hl0
    | apply Qf.colNow_sound | apply Qf.updGroup_sound | apply Qf.answerAbort_sound | apply Qf.refuseLaunch_sound
    | split | refine Sound.lit ?_ rfl rfl rfl | exact okOpt_none | apply okOpt_some

theorem Qf.colEnd_sound {q : Qf} {g : Nat} (hq : Sound q) : Sound (Qf.colEnd q g) := by
  unfold Qf.colEnd
  with_reducible repeat' first
    | assumption
    | (extract_lets +onlyGivenNames q; guard_hyp q : Qf := _; refine step_sound q ?_ (fun hq => ?_)
       rotate_left; clear_value q; rotate_left; subst q)
    | (extract_lets +onlyGivenNames x; clear_value x) | apply Qf.updGroup_sound | split
    | refine Sound.lit ?_ rfl rfl rfl

theorem Qf.colPump_sound {a1 : Nat} {a2 : Nat} {q : Qf} (hq : Sound q) : Sound (Qf.colPump a1 a2 q) := by
  induction a1 generalizing a2 q with
  | zero =>
    unfold Qf.colPump
    with_reducible repeat' (assumption)
  | succ n ih =>
    unfold Qf.colPump
    with_reducible repeat' first
      | assumption
      | (extract_lets +onlyGivenNames q; guard_hyp q : Qf := _; refine step_sound q ?_ (fun hq => ?_)
         rotate_left; clear_value q; rotate_left; subst q)
      | (extract_lets +onlyGivenNames x; clear_value x) | extract_lets +onlyGivenNames x | apply ih
      | refine foldl_sound (fun q x hq => ?_) _ ?_ | apply Qf.memberFinish_sound | apply Qf.colAbortAsk_sound
      | apply Qf.updGroup_sound | apply Qf.colRead_sound | apply Qf.colAdvance_sound | apply Qf.colOpen_sound
      | apply Qf.colTake_sound | apply Qf.colFree_sound | apply Qf.take_sound | apply Qf.colTry_sound
      | apply Qf.colEnd_sound | split | apply okOpt_getD

theorem Qf.colTurn_sound {q : Qf} {g : Nat} (hq : Sound q) : Sound (Qf.colTurn q g) := by
  unfold Qf.colTurn
  with_reducible repeat' first
    | assumption | extract_lets +onlyGivenNames x | apply Qf.colWant_sound | apply Qf.colPump_sound

theorem Qf.armNow_sound {q : Qf} {m : MgrRef} {record : BitVec 256} (hq : Sound q)
    : Sound (Qf.armNow q m record) := by
  unfold Qf.armNow
  with_reducible repeat' first
    | assumption
    | (extract_lets +onlyGivenNames q; guard_hyp q : Qf := _; refine step_sound q ?_ (fun hq => ?_)
       rotate_left; clear_value q; rotate_left; subst q)
    | (extract_lets +onlyGivenNames x; clear_value x) | extract_lets +onlyGivenNames x | apply Qf.updQuota_sound
    | apply Qf.meter_sound | apply Qf.complete_sound | split | refine Sound.lit ?_ rfl rfl rfl

theorem Qf.disarmNow_sound {q : Qf} {m : MgrRef} {g : Nat} (hq : Sound q) : Sound (Qf.disarmNow q m g) := by
  unfold Qf.disarmNow
  with_reducible repeat' first
    | assumption | extract_lets +onlyGivenNames x | apply Qf.colTurn_sound | apply Qf.updGroup_sound
    | apply Qf.colFail_sound | apply Qf.complete_sound | split

theorem Qf.abortNow_sound {q : Qf} {m : MgrRef} {g : Nat} {inst : BitVec 32} (hq : Sound q)
    : Sound (Qf.abortNow q m g inst) := by
  unfold Qf.abortNow
  with_reducible repeat' first
    | assumption | (extract_lets +onlyGivenNames x; clear_value x) | extract_lets +onlyGivenNames x
    | apply Qf.colTurn_sound | apply Qf.colAbortAsk_sound | apply Qf.updGroup_sound | apply Qf.colOpen_sound
    | apply Qf.complete_sound | split

theorem Qf.runGroupCmd_sound {q : Qf} {m : MgrRef} {g : Nat} {c : GroupCmd} (hq : Sound q)
    : Sound (Qf.runGroupCmd q m g c) := by
  unfold Qf.runGroupCmd
  with_reducible repeat' first
    | assumption | apply Qf.armNow_sound | apply Qf.disarmNow_sound | apply Qf.abortNow_sound | split

theorem Qf.groupWake_sound {a1 : Nat} {a2 : Nat} {q : Qf} (hq : Sound q) : Sound (Qf.groupWake a1 a2 q) := by
  induction a1 generalizing a2 q with
  | zero =>
    unfold Qf.groupWake
    with_reducible repeat' (assumption)
  | succ n ih =>
    unfold Qf.groupWake
    with_reducible repeat' first
      | assumption
      | (extract_lets +onlyGivenNames q; guard_hyp q : Qf := _; refine step_sound q ?_ (fun hq => ?_)
         rotate_left; clear_value q; rotate_left; subst q)
      | (extract_lets +onlyGivenNames x; clear_value x) | extract_lets +onlyGivenNames x | apply ih
      | apply Qf.markStart_sound | apply Qf.runGroupCmd_sound | split | refine Sound.lit ?_ rfl rfl rfl

theorem Qf.colRun_sound {q : Qf} {g : Nat} (hq : Sound q) : Sound (Qf.colRun q g) := by
  unfold Qf.colRun
  with_reducible repeat' first
    | assumption
    | (extract_lets +onlyGivenNames q; guard_hyp q : Qf := _; refine step_sound q ?_ (fun hq => ?_)
       rotate_left; clear_value q; rotate_left; subst q)
    | apply Qf.colTurn_sound | apply Qf.groupWake_sound

theorem Qf.colTenantGone_sound {q : Qf} {t : Tenant} (hq : Sound q) : Sound (Qf.colTenantGone q t) := by
  unfold Qf.colTenantGone
  with_reducible repeat' first
    | assumption | extract_lets +onlyGivenNames x | refine foldl_sound (fun q x hq => ?_) _ ?_
    | apply Qf.colFail_sound | apply Qf.colRun_sound | split

theorem Qf.colStamp_sound {q : Qf} {c : ColHdr} (hq : Sound q) : Sound (Qf.colStamp q c) := by
  unfold Qf.colStamp
  with_reducible repeat' first
    | assumption | (extract_lets +onlyGivenNames x; clear_value x) | apply Qf.updInst_sound | split

theorem Qf.colArrive_sound {q : Qf} {h : HalfPort} {p : Packet} (hq : Sound q) : Sound (Qf.colArrive q h p) := by
  unfold Qf.colArrive
  with_reducible repeat' first
    | assumption
    | (extract_lets +onlyGivenNames q; guard_hyp q : Qf := _; refine step_sound q ?_ (fun hq => ?_)
       rotate_left; clear_value q; rotate_left; subst q)
    | (extract_lets +onlyGivenNames x; clear_value x) | extract_lets +onlyGivenNames x | apply Qf.updGroup_sound
    | apply Qf.colStamp_sound | apply Qf.colRun_sound | apply Qf.take_sound | apply Qf.colTry_sound
    | (split <;> try (rename_i heq; apply opt_eq at heq; refine step_sound _ (heq ?_) (fun hq => ?_)))
    | apply okOpt_getD | exact okOpt_none

theorem execColResult_sound {h : HalfPort} {p : Packet} {s : State} (hq : Sound s.qf)
    : ∃ q, execColResult h p s = .next { s with qf := q } ∧ Sound q := by
  unfold execColResult done
  refine ⟨_, rfl, ?_⟩
  with_reducible repeat' first
    | assumption | extract_lets +onlyGivenNames x | apply Qf.colArrive_sound

theorem Qf.updJob_sound {q : Qf} {n : QpKey} {i : BitVec 16} {f : PipeJob → PipeJob} (hq : Sound q)
    : Sound (Qf.updJob q n i f) := by
  unfold Qf.updJob
  with_reducible repeat' first
    | assumption | (extract_lets +onlyGivenNames x; clear_value x) | refine Sound.lit ?_ rfl rfl rfl

theorem Qf.copied_sound {q : Qf} {n : QpKey} {o : Owner} {d : Option Packet} (hq : Sound q)
    : Sound (Qf.copied q n o d) := by
  unfold Qf.copied
  with_reducible repeat' first
    | assumption | apply Qf.meter_sound | split

theorem Qf.countSelects_sound {q : Qf} {js : List PipeJob} (hq : Sound q) : Sound (Qf.countSelects q js) := by
  unfold Qf.countSelects
  with_reducible repeat' first
    | assumption | (extract_lets +onlyGivenNames x; clear_value x) | refine Sound.lit ?_ rfl rfl rfl

theorem Qf.dropPipes_sound {q : Qf} {n : QpKey} (hq : Sound q) : Sound (Qf.dropPipes q n) := by
  unfold Qf.dropPipes
  with_reducible repeat' first
    | assumption
    | (extract_lets +onlyGivenNames q; guard_hyp q : Qf := _; refine step_sound q ?_ (fun hq => ?_)
       rotate_left; clear_value q; rotate_left; subst q)
    | (extract_lets +onlyGivenNames x; clear_value x) | apply Qf.countSelects_sound
    | refine Sound.lit ?_ rfl rfl rfl

theorem Qf.qpResolve_sound {q : Qf} {n : QpKey} {s : SentPkt} (hq : Sound q) : Sound (Qf.qpResolve q n s) := by
  unfold Qf.qpResolve
  with_reducible repeat' first
    | assumption
    | (extract_lets +onlyGivenNames q; guard_hyp q : Qf := _; refine step_sound q ?_ (fun hq => ?_)
       rotate_left; clear_value q; rotate_left; subst q)
    | (extract_lets +onlyGivenNames x; clear_value x) | apply Qf.updQp_sound | split
    | refine Sound.lit ?_ rfl rfl rfl

theorem Qf.takeBack_sound {q : Qf} {n : QpKey} {pick : SentPkt → Bool} (hq : Sound q)
    : Sound (Qf.takeBack q n pick) := by
  unfold Qf.takeBack
  with_reducible repeat' first
    | assumption
    | (extract_lets +onlyGivenNames q; guard_hyp q : Qf := _; refine step_sound q ?_ (fun hq => ?_)
       rotate_left; clear_value q; rotate_left; subst q)
    | (extract_lets +onlyGivenNames x; clear_value x) | extract_lets +onlyGivenNames x
    | refine foldl_sound (fun q x hq => ?_) _ ?_ | apply Qf.dropHeld_sound | apply Qf.qpResolve_sound

theorem Qf.abortAnswer_sound {q : Qf} {n : QpKey} {i : BitVec 16} {m : Option MgrRef} {st : Status}
    (hq : Sound q) : Sound (Qf.abortAnswer q n i m st) := by
  unfold Qf.abortAnswer
  with_reducible repeat' first
    | assumption
    | (extract_lets +onlyGivenNames q; guard_hyp q : Qf := _; refine step_sound q ?_ (fun hq => ?_)
       rotate_left; clear_value q; rotate_left; subst q)
    | (extract_lets +onlyGivenNames x; clear_value x) | apply Qf.updQp_sound | apply Qf.complete_sound | split

theorem Qf.putCancel_sound {q : Qf} {n : QpKey} {c : CancelRec} (hq : Sound q) : Sound (Qf.putCancel q n c) := by
  unfold Qf.putCancel
  with_reducible repeat' first
    | assumption
    | (extract_lets +onlyGivenNames q; guard_hyp q : Qf := _; refine step_sound q ?_ (fun hq => ?_)
       rotate_left; clear_value q; rotate_left; subst q)
    | (extract_lets +onlyGivenNames x; clear_value x) | apply Qf.takeTag_sound | apply Qf.updQp_sound
    | apply Qf.send_sound
    | (split <;> try (rename_i heq; apply pair_eq at heq; refine step_sound _ (heq ?_) (fun hq => ?_)))

theorem Qf.sendCancel_sound {q : Qf} {n : QpKey} {peer : Ep} {wr : BitVec 16} {m : Option MsgHdr}
    {psns : List Psn} (hq : Sound q) : Sound (Qf.sendCancel q n peer wr m psns) := by
  unfold Qf.sendCancel
  with_reducible repeat' first
    | assumption | apply Qf.putCancel_sound

theorem Qf.cancelMsgs_sound {q : Qf} {n : QpKey} {w : WorkReq} (hq : Sound q) : Sound (Qf.cancelMsgs q n w) := by
  unfold Qf.cancelMsgs
  with_reducible repeat' first
    | assumption | extract_lets +onlyGivenNames x | refine foldl_sound (fun q x hq => ?_) _ ?_
    | apply Qf.sendCancel_sound

theorem Qf.qpError_sound {q : Qf} {n : QpKey} {st : BitVec 8} (hq : Sound q) : Sound (Qf.qpError q n st) := by
  unfold Qf.qpError
  with_reducible repeat' first
    | assumption
    | (extract_lets +onlyGivenNames q; guard_hyp q : Qf := _; refine step_sound q ?_ (fun hq => ?_)
       rotate_left; clear_value q; rotate_left; subst q)
    | (extract_lets +onlyGivenNames x; clear_value x) | extract_lets +onlyGivenNames x
    | refine foldl_sound (fun q x hq => ?_) _ ?_ | apply Qf.dropPipes_sound | apply Qf.msix_sound
    | apply Qf.takeBack_sound | apply Qf.updQp_sound | apply Qf.abortAnswer_sound | apply Qf.cancelMsgs_sound
    | split

theorem Qf.pumpRing_sound {a1 : Nat} {a2 : QpKey} {q : Qf} (hq : Sound q) : Sound (Qf.pumpRing a1 a2 q) := by
  induction a1 generalizing a2 q with
  | zero =>
    unfold Qf.pumpRing
    with_reducible repeat' (assumption)
  | succ n ih =>
    unfold Qf.pumpRing
    with_reducible repeat' first
      | assumption
      | (extract_lets +onlyGivenNames q; guard_hyp q : Qf := _; refine step_sound q ?_ (fun hq => ?_)
         rotate_left; clear_value q; rotate_left; subst q)
      | (extract_lets +onlyGivenNames x; clear_value x) | extract_lets +onlyGivenNames x | apply ih
      | apply Qf.copied_sound | apply Qf.submit_sound | apply Qf.updQp_sound | apply Qf.edgeCheck_sound
      | apply Qf.qpError_sound
      | (split <;> try (rename_i heq; apply pair_eq at heq; refine step_sound _ (heq ?_) (fun hq => ?_)))

theorem Qf.touchQp_sound {q : Qf} {n : QpKey} (hq : Sound q) : Sound (Qf.touchQp q n) := by
  unfold Qf.touchQp
  with_reducible repeat' first
    | assumption
    | (extract_lets +onlyGivenNames q; guard_hyp q : Qf := _; refine step_sound q ?_ (fun hq => ?_)
       rotate_left; clear_value q; rotate_left; subst q)
    | (extract_lets +onlyGivenNames x; clear_value x) | apply Qf.updQp_sound | split
    | refine Sound.lit ?_ rfl rfl rfl

theorem Qf.fetchWr_sound {q : Qf} {n : QpKey} (hq : Sound q) : Sound (Qf.fetchWr q n) := by
  unfold Qf.fetchWr
  with_reducible repeat' first
    | assumption
    | (extract_lets +onlyGivenNames q; guard_hyp q : Qf := _; refine step_sound q ?_ (fun hq => ?_)
       rotate_left; clear_value q; rotate_left; subst q)
    | (extract_lets +onlyGivenNames x; clear_value x) | extract_lets +onlyGivenNames x | apply Qf.submit_sound
    | apply Qf.takeTag_sound | apply Qf.updQp_sound | apply Qf.touchQp_sound | apply Qf.edgeCheck_sound
    | apply Qf.qpError_sound
    | (split <;> try (rename_i heq; apply pair_eq at heq; refine step_sound _ (heq ?_) (fun hq => ?_)))

theorem Qf.keep_sound {q : Qf} {n : QpKey} {s : SentPkt} (hq : Sound q) : Sound (Qf.keep q n s) := by
  unfold Qf.keep
  with_reducible repeat' first
    | assumption | apply Qf.updQp_sound

theorem Qf.sendBare_sound {q : Qf} {n : QpKey} {s : SentPkt} (hq : Sound q) : SoundExc (Qf.sendBare q n s) := by
  unfold Qf.sendBare
  with_reducible repeat' first
    | assumption
    | (extract_lets +onlyGivenNames q; guard_hyp q : Qf := _; refine step_sound q ?_ (fun hq => ?_)
       rotate_left; clear_value q; rotate_left; subst q)
    | (extract_lets +onlyGivenNames x; clear_value x) | extract_lets +onlyGivenNames x | apply Qf.copied_sound
    | apply Qf.submit_sound | apply Qf.keep_sound | apply Qf.send_sound | apply Qf.edgeCheck_sound
    | (split <;> try (rename_i heq; apply pair_eq at heq; refine step_sound _ (heq ?_) (fun hq => ?_)))
    | refine Sound.lit ?_ rfl rfl rfl | exact okExc_err | apply okExc_sound

theorem Qf.openSlot_sound {q : Qf} {n : QpKey} {home : Ep} (hq : Sound q) : Sound (Qf.openSlot q n home) := by
  unfold Qf.openSlot
  with_reducible repeat' first
    | assumption | apply Qf.updQp_sound | split

theorem Qf.endReads_sound {q : Qf} {n : QpKey} {i : BitVec 16} (hq : Sound q) : Sound (Qf.endReads q n i) := by
  unfold Qf.endReads
  with_reducible repeat' first
    | assumption | (extract_lets +onlyGivenNames x; clear_value x) | extract_lets +onlyGivenNames x
    | apply Qf.updJob_sound | refine Sound.lit ?_ rfl rfl rfl

theorem Qf.dropJob_sound {q : Qf} {n : QpKey} {i : BitVec 16} (hq : Sound q) : Sound (Qf.dropJob q n i) := by
  unfold Qf.dropJob
  with_reducible repeat' first
    | assumption
    | (extract_lets +onlyGivenNames q; guard_hyp q : Qf := _; refine step_sound q ?_ (fun hq => ?_)
       rotate_left; clear_value q; rotate_left; subst q)
    | (extract_lets +onlyGivenNames x; clear_value x) | extract_lets +onlyGivenNames x
    | apply Qf.countSelects_sound | apply Qf.endReads_sound | refine Sound.lit ?_ rfl rfl rfl

theorem Qf.stopPipe_sound {q : Qf} {n : QpKey} {i : BitVec 16} {r : PipeReport} (hq : Sound q)
    : Sound (Qf.stopPipe q n i r) := by
  unfold Qf.stopPipe
  with_reducible repeat' first
    | assumption | extract_lets +onlyGivenNames x | apply Qf.updJob_sound | apply Qf.countSelects_sound
    | apply Qf.updWr_sound | apply Qf.endReads_sound

theorem Qf.pipeStops_sound {q : Qf} {n : QpKey} {i : BitVec 16} {r : PipeReport} (hq : Sound q)
    : Sound (Qf.pipeStops q n i r) := by
  unfold Qf.pipeStops
  with_reducible repeat' first
    | assumption | apply Qf.dropJob_sound | apply Qf.stopPipe_sound | split

theorem Qf.popOut_sound {q : Qf} {n : QpKey} (hq : Sound q) : Sound (Qf.popOut q n) := by
  unfold Qf.popOut
  with_reducible repeat' first
    | assumption | apply Qf.updQp_sound

theorem Qf.wrFail_sound {q : Qf} {n : QpKey} {i : BitVec 16} {st : BitVec 8} {atEdge : Bool} {a : BitVec 60}
    {psn : Psn} (hq : Sound q) : Sound (Qf.wrFail q n i st atEdge a psn) := by
  unfold Qf.wrFail
  with_reducible repeat' first
    | assumption
    | (extract_lets +onlyGivenNames q; guard_hyp q : Qf := _; refine step_sound q ?_ (fun hq => ?_)
       rotate_left; clear_value q; rotate_left; subst q)
    | (extract_lets +onlyGivenNames x; clear_value x) | extract_lets +onlyGivenNames x | apply Qf.updQp_sound
    | apply Qf.violation_sound | apply Qf.cancelMsgs_sound | apply Qf.updWr_sound | apply Qf.qpError_sound
    | split

theorem Qf.refuseOut_sound {q : Qf} {n : QpKey} {s : SentPkt} {st : BitVec 8} (hq : Sound q)
    : Sound (Qf.refuseOut q n s st) := by
  unfold Qf.refuseOut
  with_reducible repeat' first
    | assumption
    | (extract_lets +onlyGivenNames q; guard_hyp q : Qf := _; refine step_sound q ?_ (fun hq => ?_)
       rotate_left; clear_value q; rotate_left; subst q)
    | extract_lets +onlyGivenNames x | apply Qf.pipeStops_sound | apply Qf.popOut_sound | apply Qf.wrFail_sound
    | apply Qf.recordFail_sound | apply Qf.updWr_sound | split

theorem Qf.noteMsg_sound {q : Qf} {p : Packet} {home : Ep} (hq : Sound q) : Sound (Qf.noteMsg q p home) := by
  unfold Qf.noteMsg
  with_reducible repeat' first
    | assumption | (extract_lets +onlyGivenNames x; clear_value x) | split | refine Sound.lit ?_ rfl rfl rfl

theorem Qf.takePsn_sound {q : Qf} {n : QpKey} {peer : Ep} {atomic : Bool} {wr : BitVec 16} (hq : Sound q)
    : Sound (Qf.takePsn q n peer atomic wr).2 := by
  unfold Qf.takePsn
  with_reducible repeat' first
    | assumption | (extract_lets +onlyGivenNames x; clear_value x) | apply Qf.updQp_sound

theorem Qf.sendPsn_sound {q : Qf} {n : QpKey} {s : SentPkt} {p : Packet} (hq : Sound q)
    : Sound (Qf.sendPsn q n s p) := by
  unfold Qf.sendPsn
  with_reducible repeat' first
    | assumption | (extract_lets +onlyGivenNames x; clear_value x) | extract_lets +onlyGivenNames x
    | apply Qf.copied_sound | apply Qf.submit_sound | apply Qf.keep_sound | apply Qf.noteMsg_sound
    | apply Qf.takePsn_sound

theorem Qf.sendFront_sound {q : Qf} {n : QpKey} (hq : Sound q) : SoundOpt (Qf.sendFront q n) := by
  unfold Qf.sendFront
  with_reducible repeat' first
    | assumption | (extract_lets +onlyGivenNames x; clear_value x) | extract_lets +onlyGivenNames x
    | apply Qf.sendBare_sound | apply Qf.openSlot_sound | apply Qf.refuseOut_sound | apply Qf.popOut_sound
    | apply Qf.edgeCheck_sound | apply Qf.sendPsn_sound
    | (split <;> try (rename_i heq
                      first
                        | (apply pair_eq at heq; refine step_sound _ (heq ?_) (fun hq => ?_))
                        | (apply exc_eq at heq; refine step_sound _ (heq ?_) (fun hq => ?_))))
    | exact okOpt_none | apply okOpt_some

theorem Qf.sendOf_sound {q : Qf} {n : QpKey} {quantum : Nat} (hq : Sound q) : SoundOpt (Qf.sendOf q n quantum) := by
  unfold Qf.sendOf
  with_reducible repeat' first
    | assumption | intro q hq
    | (extract_lets +onlyGivenNames q; guard_hyp q : Qf := _; refine step_sound q ?_ (fun hq => ?_)
       rotate_left; clear_value q; rotate_left; subst q)
    | (extract_lets +onlyGivenNames x; clear_value x) | extract_lets +onlyGivenNames x
    | apply Qf.sendFront_sound | apply Qf.updQp_sound | split | refine Sound.lit ?_ rfl rfl rfl
    | exact okOpt_none | apply okOpt_map

theorem Qf.serveEngine_sound {a1 : Nat} {a2 : QpKey} {q : Qf} (hq : Sound q) : Sound (Qf.serveEngine a1 a2 q) := by
  induction a1 generalizing a2 q with
  | zero => exact hq
  | succ n ih =>
    unfold Qf.serveEngine
    extract_lets ks sent
    have h : SoundOpt sent := by
      show SoundOpt (match q.qps.turns.find? (engineOf a2).toNat with | none => _ | some t => _)
      split
      · exact okOpt_findSome (fun m => Qf.sendOf_sound hq) _
      · exact okOpt_or (Qf.sendOf_sound hq) (okOpt_findSome (fun m => Qf.sendOf_sound hq) _)
    clear_value sent
    split
    · exact ih (h.elim _ rfl)
    · exact hq

theorem Qf.pumpOut_sound {q : Qf} {n : QpKey} (hq : Sound q) : Sound (Qf.pumpOut q n) := by
  unfold Qf.pumpOut
  with_reducible repeat' first
    | assumption | apply Qf.serveEngine_sound

theorem Qf.countPipes_sound {q : Qf} {x : Qp} {ws : List WorkReq} (hq : Sound q) : Sound (Qf.countPipes q x ws) := by
  unfold Qf.countPipes
  with_reducible repeat' first
    | assumption | (extract_lets +onlyGivenNames x; clear_value x) | refine Sound.lit ?_ rfl rfl rfl

theorem Qf.startPennants_sound {q : Qf} {n : QpKey} (hq : Sound q) : Sound (Qf.startPennants q n) := by
  unfold Qf.startPennants
  with_reducible repeat' first
    | assumption | (extract_lets +onlyGivenNames x; clear_value x) | extract_lets +onlyGivenNames x
    | refine foldl_sound (fun q x hq => ?_) _ ?_ | apply Qf.takeTag_sound | apply Qf.pushPkt_sound
    | apply Qf.updWr_sound | split

theorem Qf.ringWrite_sound {q : Qf} {n : QpKey} {a : BitVec 60} {bs : List Byte} (hq : Sound q)
    : Sound (Qf.ringWrite q n a bs) := by
  unfold Qf.ringWrite
  with_reducible repeat' first
    | assumption | (extract_lets +onlyGivenNames x; clear_value x) | extract_lets +onlyGivenNames x
    | apply Qf.takeTag_sound | apply Qf.updQp_sound

theorem Qf.writeCpl_sound {q : Qf} {n : QpKey} {e : BitVec 256} (hq : Sound q) : Sound (Qf.writeCpl q n e) := by
  unfold Qf.writeCpl
  with_reducible repeat' first
    | assumption | (extract_lets +onlyGivenNames x; clear_value x) | extract_lets +onlyGivenNames x
    | apply Qf.updQp_sound | apply Qf.ringWrite_sound

theorem Qf.reportWr_sound {q : Qf} {n : QpKey} {w : WorkReq} (hq : Sound q) : Sound (Qf.reportWr q n w) := by
  unfold Qf.reportWr
  with_reducible repeat' first
    | assumption
    | (extract_lets +onlyGivenNames q; guard_hyp q : Qf := _; refine step_sound q ?_ (fun hq => ?_)
       rotate_left; clear_value q; rotate_left; subst q)
    | (extract_lets +onlyGivenNames x; clear_value x) | apply Qf.writeCpl_sound | apply Qf.updQp_sound
    | apply Qf.ringWrite_sound | split

theorem Qf.drainQp_sound {a1 : Nat} {a2 : QpKey} {q : Qf} (hq : Sound q) : Sound (Qf.drainQp a1 a2 q) := by
  induction a1 generalizing a2 q with
  | zero =>
    unfold Qf.drainQp
    with_reducible repeat' (assumption)
  | succ n ih =>
    unfold Qf.drainQp
    with_reducible repeat' first
      | assumption | (extract_lets +onlyGivenNames x; clear_value x) | extract_lets +onlyGivenNames x | apply ih
      | apply Qf.writeCpl_sound | apply Qf.updQp_sound | apply Qf.reportWr_sound | split

theorem Qf.settleOnce_sound {q : Qf} {n : QpKey} (hq : Sound q) : Sound (Qf.settleOnce q n) := by
  unfold Qf.settleOnce
  with_reducible repeat' first
    | assumption
    | (extract_lets +onlyGivenNames q; guard_hyp q : Qf := _; refine step_sound q ?_ (fun hq => ?_)
       rotate_left; clear_value q; rotate_left; subst q)
    | (extract_lets +onlyGivenNames x; clear_value x) | extract_lets +onlyGivenNames x | apply Qf.pumpRing_sound
    | apply Qf.msix_sound | apply Qf.fetchWr_sound | apply Qf.updQp_sound | apply Qf.pumpOut_sound
    | apply Qf.countPipes_sound | apply Qf.startPennants_sound | apply Qf.drainQp_sound | split

theorem Qf.settleMates_sound {q : Qf} {n : QpKey} (hq : Sound q) : Sound (Qf.settleMates q n) := by
  unfold Qf.settleMates
  with_reducible repeat' first
    | assumption | extract_lets +onlyGivenNames x | refine foldl_sound (fun q x hq => ?_) _ ?_
    | apply Qf.settleOnce_sound

theorem Qf.settleQp_sound {q : Qf} {n : QpKey} (hq : Sound q) : Sound (Qf.settleQp q n) := by
  unfold Qf.settleQp
  with_reducible repeat' first
    | assumption | extract_lets +onlyGivenNames x | apply Qf.settleOnce_sound | apply Qf.settleMates_sound

theorem Qf.pipeFail_sound {q : Qf} {n : QpKey} {i : BitVec 16} {r : PipeReport} (hq : Sound q)
    : Sound (Qf.pipeFail q n i r) := by
  unfold Qf.pipeFail
  with_reducible repeat' first
    | assumption
    | (extract_lets +onlyGivenNames q; guard_hyp q : Qf := _; refine step_sound q ?_ (fun hq => ?_)
       rotate_left; clear_value q; rotate_left; subst q)
    | (extract_lets +onlyGivenNames x; clear_value x) | extract_lets +onlyGivenNames x | apply Qf.settleQp_sound
    | apply Qf.pipeStops_sound | apply Qf.wrFail_sound | split | refine Sound.lit ?_ rfl rfl rfl

theorem Qf.pipeRefuse_sound {q : Qf} {n : QpKey} {i : BitVec 16} {st : BitVec 8} (hq : Sound q)
    : Sound (Qf.pipeRefuse q n i st) := by
  unfold Qf.pipeRefuse
  with_reducible repeat' first
    | assumption | extract_lets +onlyGivenNames x | apply Qf.settleQp_sound | apply Qf.dropJob_sound
    | apply Qf.wrFail_sound | apply Qf.updWr_sound

theorem Qf.pushOut_sound {q : Qf} {n : QpKey} {i : BitVec 16} {wr : BitVec 512} {stage : Nat} {counts : Bool}
    {o : PipeWrite} (hq : Sound q) : SoundExc (Qf.pushOut q n i wr stage counts o) := by
  unfold Qf.pushOut
  with_reducible repeat' first
    | assumption
    | (extract_lets +onlyGivenNames q; guard_hyp q : Qf := _; refine step_sound q ?_ (fun hq => ?_)
       rotate_left; clear_value q; rotate_left; subst q)
    | (extract_lets +onlyGivenNames x; clear_value x) | extract_lets +onlyGivenNames x
    | refine foldl_sound (fun q x hq => ?_) _ ?_ | apply Qf.takeTag_sound | apply Qf.pushPkt_sound
    | apply Qf.nameHomes_sound | apply Qf.updWr_sound
    | (split <;> try (rename_i heq; apply pair_eq2 at heq; refine step_sound _ (heq ?_) (fun hq => ?_)))
    | exact okExc_err | apply okExc_sound

theorem Qf.pushOuts_sound {n : QpKey} {i : BitVec 16} {wr : BitVec 512} {counts : Bool}
    {a1 : List (Nat × PipeWrite)} {q : Qf} (hq : Sound q) : Sound (Qf.pushOuts n i wr counts a1 q).2 := by
  induction a1 generalizing q with
  | nil => exact hq
  | cons x xs ih =>
    unfold Qf.pushOuts
    split
    · rename_i heq
      exact ih (exc_eq heq (Qf.pushOut_sound hq))
    · exact hq

theorem Qf.countStages_sound {q : Qf} {ds : List (BitVec 512)} {os : List StageOut} (hq : Sound q)
    : Sound (Qf.countStages q ds os) := by
  unfold Qf.countStages
  with_reducible repeat' first
    | assumption | (extract_lets +onlyGivenNames x; clear_value x) | refine Sound.lit ?_ rfl rfl rfl

theorem Qf.gotAt_sound {q : Qf} {n : QpKey} {i : BitVec 16} {key : Nat} {st : BitVec 8} (hq : Sound q)
    : Sound (Qf.gotAt q n i key st) := by
  unfold Qf.gotAt
  with_reducible repeat' first
    | assumption | apply Qf.updJob_sound

theorem Qf.sendAsk_sound {q : Qf} {w : Issuer} {o : Owner} {op : BitVec 8} {a : Nat} {bs : List Byte}
    (hq : Sound q) : Sound (Qf.sendAsk q w o op a bs).2 := by
  unfold Qf.sendAsk
  with_reducible repeat' first
    | assumption | extract_lets +onlyGivenNames x | refine foldl_ok2 (fun x c hx => ?_) _ ?_
    | apply Qf.takeMsg_sound | apply Qf.issue_sound | split

theorem Qf.readLine_sound {q : Qf} {w : Issuer} {o : Owner} {line : Nat} (hq : Sound q)
    : Sound (Qf.readLine q w o line).2 := by
  unfold Qf.readLine
  with_reducible repeat' first
    | assumption | apply Qf.issue_sound

theorem Qf.pipeAsk_sound {q : Qf} {n : QpKey} {i : BitVec 16} {x : Need} (hq : Sound q)
    : Sound (Qf.pipeAsk q n i x) := by
  unfold Qf.pipeAsk
  with_reducible repeat' first
    | assumption
    | (extract_lets +onlyGivenNames q; guard_hyp q : Qf := _; refine step_sound q ?_ (fun hq => ?_)
       rotate_left; clear_value q; rotate_left; subst q)
    | (extract_lets +onlyGivenNames x; guard_hyp x : Option Status × Qf := _
       refine step_sound x.2 ?_ (fun hx => ?_); rotate_left; clear_value x; rotate_left; subst x)
    | (extract_lets +onlyGivenNames x; clear_value x) | apply Qf.updJob_sound | apply Qf.sendAsk_sound
    | apply Qf.readLine_sound | apply Qf.gotAt_sound | apply Qf.violation_sound | split

theorem Qf.pipeNeed_sound {q : Qf} {n : QpKey} {i : BitVec 16} {wr : BitVec 512} {x : Need} (hq : Sound q)
    : Sound (Qf.pipeNeed q n i wr x) := by
  unfold Qf.pipeNeed
  with_reducible repeat' first
    | assumption | extract_lets +onlyGivenNames x | apply Qf.updJob_sound | apply Qf.gotAt_sound
    | apply Qf.pipeAsk_sound | apply Qf.pushOut_sound
    | (split <;> try (rename_i heq; apply exc_eq at heq; refine step_sound _ (heq ?_) (fun hq => ?_)))

theorem Qf.pipeNeeds_sound {q : Qf} {n : QpKey} {i : BitVec 16} {j : PipeJob} {rs : List Need} (hq : Sound q)
    : Sound (Qf.pipeNeeds q n i j rs).2 := by
  unfold Qf.pipeNeeds
  with_reducible repeat' first
    | assumption
    | (extract_lets +onlyGivenNames q; guard_hyp q : Qf := _; refine step_sound q ?_ (fun hq => ?_)
       rotate_left; clear_value q; rotate_left; subst q)
    | extract_lets +onlyGivenNames x | refine foldl_sound (fun q x hq => ?_) _ ?_ | apply Qf.updJob_sound
    | apply Qf.settleQp_sound | apply Qf.pipeNeed_sound

theorem Qf.pumpPipe_sound {a1 : Nat} {a2 : QpKey} {a3 : BitVec 16} {q : Qf} (hq : Sound q)
    : Sound (Qf.pumpPipe a1 a2 a3 q) := by
  induction a1 generalizing a2 a3 q with
  | zero =>
    unfold Qf.pumpPipe
    with_reducible repeat' (assumption)
  | succ n ih =>
    unfold Qf.pumpPipe
    with_reducible repeat' first
      | assumption
      | (extract_lets +onlyGivenNames q; guard_hyp q : Qf := _; refine step_sound q ?_ (fun hq => ?_)
         rotate_left; clear_value q; rotate_left; subst q)
      | (extract_lets +onlyGivenNames x; guard_hyp x : Option (Nat × Status) × Qf := _
         refine step_sound x.2 ?_ (fun hx => ?_); rotate_left; clear_value x; rotate_left; subst x)
      | (extract_lets +onlyGivenNames x; guard_hyp x : Bool × Qf := _; refine step_sound x.2 ?_ (fun hx => ?_)
         rotate_left; clear_value x; rotate_left; subst x)
      | (extract_lets +onlyGivenNames x; clear_value x) | extract_lets +onlyGivenNames x | apply ih
      | apply Qf.updJob_sound | apply Qf.settleQp_sound | apply Qf.pipeFail_sound | apply Qf.pipeRefuse_sound
      | apply Qf.pushOuts_sound | apply Qf.dropJob_sound | apply Qf.endReads_sound | apply Qf.countStages_sound
      | apply Qf.pipeNeeds_sound | split

theorem Qf.goPipe_sound {q : Qf} {n : QpKey} {i : BitVec 16} (hq : Sound q) : Sound (Qf.goPipe q n i) := by
  unfold Qf.goPipe
  with_reducible repeat' first
    | assumption | apply Qf.pumpPipe_sound

theorem Qf.startPipe_sound {q : Qf} {j : PipeJob} (hq : Sound q) : Sound (Qf.startPipe q j) := by
  unfold Qf.startPipe
  with_reducible repeat' first
    | assumption | (extract_lets +onlyGivenNames x; clear_value x) | apply Qf.updJob_sound

theorem Qf.startPipes_sound {q : Qf} {s : Sector} (hq : Sound q) : Sound (Qf.startPipes q s) := by
  unfold Qf.startPipes
  with_reducible repeat' first
    | assumption | (extract_lets +onlyGivenNames x; clear_value x) | extract_lets +onlyGivenNames x
    | refine foldl_sound (fun q x hq => ?_) _ ?_ | apply Qf.wantUnit_sound | apply Qf.goPipe_sound
    | apply Qf.startPipe_sound | split

theorem Qf.pumpJob_sound {q : Qf} {n : QpKey} {i : BitVec 16} (hq : Sound q) : Sound (Qf.pumpJob q n i) := by
  unfold Qf.pumpJob
  with_reducible repeat' first
    | assumption
    | (extract_lets +onlyGivenNames q; guard_hyp q : Qf := _; refine step_sound q ?_ (fun hq => ?_)
       rotate_left; clear_value q; rotate_left; subst q)
    | (extract_lets +onlyGivenNames x; clear_value x) | apply Qf.startPipes_sound | apply Qf.goPipe_sound
    | split

theorem Qf.wakePipes_sound {q : Qf} {s : Sector} (hq : Sound q) : Sound (Qf.wakePipes q s) := by
  unfold Qf.wakePipes
  with_reducible repeat' first
    | assumption | extract_lets +onlyGivenNames x | refine foldl_sound (fun q x hq => ?_) _ ?_
    | apply Qf.pumpJob_sound

theorem Qf.colGot_sound {q : Qf} {g : Nat} {key : Nat} {st : BitVec 8} {bs : List Byte} (hq : Sound q)
    : Sound (Qf.colGot q g key st bs) := by
  unfold Qf.colGot
  with_reducible repeat' first
    | assumption
    | (extract_lets +onlyGivenNames q; guard_hyp q : Qf := _; refine step_sound q ?_ (fun hq => ?_)
       rotate_left; clear_value q; rotate_left; subst q)
    | (extract_lets +onlyGivenNames x; clear_value x) | apply Qf.updMember_sound | apply Qf.colFail_sound
    | apply Qf.colRun_sound | split | refine Sound.lit ?_ rfl rfl rfl

theorem Qf.sampleShard_sound {q : Qf} {s : Sector} {search : Bool} {a : Pva} {ns : Nat} (hq : Sound q)
    : Sound (Qf.sampleShard q s search a ns) := by
  unfold Qf.sampleShard
  with_reducible repeat' first
    | assumption | (extract_lets +onlyGivenNames x; clear_value x) | refine Sound.lit ?_ rfl rfl rfl

theorem Qf.lateGot_sound {q : Qf} {n : QpKey} {i : BitVec 16} {key : Nat} {came : Bool} (hq : Sound q)
    : Sound (Qf.lateGot q n i key came) := by
  unfold Qf.lateGot
  with_reducible repeat' first
    | assumption
    | (extract_lets +onlyGivenNames q; guard_hyp q : Qf := _; refine step_sound q ?_ (fun hq => ?_)
       rotate_left; clear_value q; rotate_left; subst q)
    | (extract_lets +onlyGivenNames x; clear_value x) | apply Qf.sampleShard_sound | split
    | refine Sound.lit ?_ rfl rfl rfl

theorem Qf.pipeGot_sound {q : Qf} {n : QpKey} {i : BitVec 16} {key : Nat} {st : BitVec 8} {data : List Byte}
    (hq : Sound q) : Sound (Qf.pipeGot q n i key st data) := by
  unfold Qf.pipeGot
  with_reducible repeat' first
    | assumption
    | (extract_lets +onlyGivenNames q; guard_hyp q : Qf := _; refine step_sound q ?_ (fun hq => ?_)
       rotate_left; clear_value q; rotate_left; subst q)
    | (extract_lets +onlyGivenNames x; clear_value x) | apply Qf.updJob_sound | apply Qf.lateGot_sound
    | apply Qf.sampleShard_sound | apply Qf.pumpJob_sound | split | refine Sound.lit ?_ rfl rfl rfl

theorem Qf.encEnd_sound {q : Qf} {id : Nat} {j : EncJob} {st : BitVec 8} (hq : Sound q)
    : Sound (Qf.encEnd q id j st) := by
  unfold Qf.encEnd
  with_reducible repeat' first
    | assumption
    | (extract_lets +onlyGivenNames q; guard_hyp q : Qf := _; refine step_sound q ?_ (fun hq => ?_)
       rotate_left; clear_value q; rotate_left; subst q)
    | (extract_lets +onlyGivenNames x; clear_value x) | apply Qf.endProgress_sound | apply Qf.complete_sound
    | refine Sound.lit ?_ rfl rfl rfl

theorem Qf.updEnc_sound {q : Qf} {id : Nat} {f : EncJob → EncJob} (hq : Sound q) : Sound (Qf.updEnc q id f) := by
  unfold Qf.updEnc
  with_reducible repeat' first
    | assumption | (extract_lets +onlyGivenNames x; clear_value x) | split | refine Sound.lit ?_ rfl rfl rfl

theorem Qf.encRead_sound {q : Qf} {id : Nat} {j : EncJob} {a : Nat} {len : Nat} {pos : Nat} (hq : Sound q)
    : Sound (Qf.encRead q id j a len pos) := by
  unfold Qf.encRead
  with_reducible repeat' first
    | assumption
    | (extract_lets +onlyGivenNames x; guard_hyp x : Option Status × Qf := _
       refine step_sound x.2 ?_ (fun hx => ?_); rotate_left; clear_value x; rotate_left; subst x)
    | apply Qf.updEnc_sound | apply Qf.engRead_sound | split

theorem Qf.encWrite_sound {q : Qf} {id : Nat} {d : BitVec 512} {counter : Nat} {a : Nat} {bs : List Byte}
    (hq : Sound q) : Sound (Qf.encWrite q id d counter a bs) := by
  unfold Qf.encWrite
  with_reducible repeat' first
    | assumption
    | (extract_lets +onlyGivenNames x; guard_hyp x : Option Status × Nat × Qf := _
       refine step_sound x.2.2 ?_ (fun hx => ?_); rotate_left; clear_value x; rotate_left; subst x)
    | apply Qf.engWriteAll_sound | apply Qf.updEnc_sound | split

theorem Qf.pumpEnc_sound {a1 : Nat} {a2 : Nat} {q : Qf} (hq : Sound q) : Sound (Qf.pumpEnc a1 a2 q) := by
  induction a1 generalizing a2 q with
  | zero =>
    unfold Qf.pumpEnc
    with_reducible repeat' (assumption)
  | succ n ih =>
    unfold Qf.pumpEnc
    with_reducible repeat' first
      | assumption
      | (extract_lets +onlyGivenNames q; guard_hyp q : Qf := _; refine step_sound q ?_ (fun hq => ?_)
         rotate_left; clear_value q; rotate_left; subst q)
      | (extract_lets +onlyGivenNames x; clear_value x) | extract_lets +onlyGivenNames x | apply ih
      | apply Qf.encEnd_sound | apply Qf.encRead_sound | apply Qf.encWrite_sound | apply Qf.updEnc_sound | split

theorem Qf.encWrote_sound {q : Qf} {id : Nat} {a : Nat} {len : Nat} {st : BitVec 8} (hq : Sound q)
    : Sound (Qf.encWrote q id a len st) := by
  unfold Qf.encWrote
  with_reducible repeat' first
    | assumption
    | (extract_lets +onlyGivenNames q; guard_hyp q : Qf := _; refine step_sound q ?_ (fun hq => ?_)
       rotate_left; clear_value q; rotate_left; subst q)
    | (extract_lets +onlyGivenNames x; clear_value x) | extract_lets +onlyGivenNames x | apply Qf.pumpEnc_sound
    | apply Qf.updEnc_sound | split | refine Sound.lit ?_ rfl rfl rfl

theorem Qf.updShard_sound {q : Qf} {id : Nat} {f : ShardJob → ShardJob} (hq : Sound q)
    : Sound (Qf.updShard q id f) := by
  unfold Qf.updShard
  with_reducible repeat' first
    | assumption | (extract_lets +onlyGivenNames x; clear_value x) | refine Sound.lit ?_ rfl rfl rfl

theorem Qf.answerMsg_sound {q : Qf} {s : Sector} {p : Packet} {op : BitVec 8} {st : BitVec 8} {bs : List Byte}
    (hq : Sound q) : Sound (Qf.answerMsg q s p op st bs) := by
  unfold Qf.answerMsg
  with_reducible repeat' first
    | assumption | (extract_lets +onlyGivenNames x; clear_value x) | extract_lets +onlyGivenNames x
    | refine foldl_sound (fun q x hq => ?_) _ ?_ | apply Qf.respond_sound | apply Qf.takeMsg_sound

theorem Qf.shardEnd_sound {q : Qf} {j : ShardJob} {st : BitVec 8} {a : Answer} (hq : Sound q)
    : Sound (Qf.shardEnd q j st a) := by
  unfold Qf.shardEnd
  with_reducible repeat' first
    | assumption
    | (extract_lets +onlyGivenNames q; guard_hyp q : Qf := _; refine step_sound q ?_ (fun hq => ?_)
       rotate_left; clear_value q; rotate_left; subst q)
    | (extract_lets +onlyGivenNames x; clear_value x) | apply Qf.meter_sound | apply Qf.answerMsg_sound
    | refine Sound.lit ?_ rfl rfl rfl

theorem Qf.pumpShard_sound {a1 : Nat} {a2 : Nat} {q : Qf} (hq : Sound q) : Sound (Qf.pumpShard a1 a2 q) := by
  induction a1 generalizing a2 q with
  | zero =>
    unfold Qf.pumpShard
    with_reducible repeat' (assumption)
  | succ n ih =>
    unfold Qf.pumpShard
    with_reducible repeat' first
      | assumption
      | (extract_lets +onlyGivenNames q; guard_hyp q : Qf := _; refine step_sound q ?_ (fun hq => ?_)
         rotate_left; clear_value q; rotate_left; subst q)
      | (extract_lets +onlyGivenNames x; guard_hyp x : Option Status × Qf := _
         refine step_sound x.2 ?_ (fun hx => ?_); rotate_left; clear_value x; rotate_left; subst x)
      | (extract_lets +onlyGivenNames x; clear_value x) | apply ih | refine foldl_sound (fun q x hq => ?_) _ ?_
      | apply Qf.readLine_sound | apply Qf.updShard_sound | apply Qf.shardEnd_sound | split

theorem Qf.shardGot_sound {q : Qf} {id : Nat} {key : Nat} {st : BitVec 8} {data : List Byte} (hq : Sound q)
    : Sound (Qf.shardGot q id key st data) := by
  unfold Qf.shardGot
  with_reducible repeat' first
    | assumption | extract_lets +onlyGivenNames x | apply Qf.updShard_sound | apply Qf.pumpShard_sound

theorem Qf.tablePkt_sound {q : Qf} {s : Sector} {t : Tenant} {world : Bool} {op : BitVec 8} {a : Nat}
    {view : BitVec 3} (hq : Sound q) : Sound (Qf.tablePkt q s t world op a view).2 := by
  unfold Qf.tablePkt
  with_reducible repeat' first
    | assumption
    | (extract_lets +onlyGivenNames x; guard_hyp x : Except Status (RtEntry × BitVec 60) × Qf := _
       refine step_sound x.2 ?_ (fun hx => ?_); rotate_left; clear_value x; rotate_left; subst x)
    | apply Qf.translate_sound | split

theorem Qf.sidePkt_sound {q : Qf} {j : SideJob} {op : BitVec 8} {a : Nat} (hq : Sound q)
    : Sound (Qf.sidePkt q j op a).2 := by
  unfold Qf.sidePkt
  with_reducible repeat' first
    | assumption | (extract_lets +onlyGivenNames x; clear_value x) | apply Qf.tablePkt_sound | split

theorem Qf.sidePut_sound {q : Qf} {j : SideJob} {o : Owner} {a : Nat} {bs : List Byte} (hq : Sound q)
    : Sound (Qf.sidePut q j o a bs).2.2 := by
  unfold Qf.sidePut
  with_reducible repeat' first
    | assumption | (extract_lets +onlyGivenNames x; clear_value x) | extract_lets +onlyGivenNames x
    | refine foldl_ok3 (fun x c hx => ?_) _ ?_ | apply Qf.issueRaw_sound | apply Qf.sidePkt_sound
    | apply Qf.takeMsg_sound
    | (split <;> try (rename_i heq; apply pair_eq at heq; refine step_sound _ (heq ?_) (fun hq => ?_)))

theorem Qf.updSide_sound {q : Qf} {id : Nat} {f : SideJob → SideJob} (hq : Sound q) : Sound (Qf.updSide q id f) := by
  unfold Qf.updSide
  with_reducible repeat' first
    | assumption | (extract_lets +onlyGivenNames x; clear_value x) | refine Sound.lit ?_ rfl rfl rfl

theorem Qf.sideWrite_sound {q : Qf} {id : Nat} {seq : Nat} {a : Nat} {bs : List Byte} (hq : Sound q)
    : Sound (Qf.sideWrite q id seq a bs) := by
  unfold Qf.sideWrite
  with_reducible repeat' first
    | assumption
    | (extract_lets +onlyGivenNames x; guard_hyp x : Option Status × Nat × Qf := _
       refine step_sound x.2.2 ?_ (fun hx => ?_); rotate_left; clear_value x; rotate_left; subst x)
    | apply Qf.engWriteAll_sound | apply Qf.sidePut_sound | apply Qf.updSide_sound | split

theorem Qf.viewPkt_sound {q : Qf} {s : Sector} {t : Tenant} {op : BitVec 8} {a : Nat} {view : BitVec 3}
    (hq : Sound q) : Sound (Qf.viewPkt q s t op a view).2 := by
  unfold Qf.viewPkt
  with_reducible repeat' first
    | assumption | apply Qf.tablePkt_sound

theorem Qf.sideAsk_sound {q : Qf} {id : Nat} {j : SideJob} {x : Need} (hq : Sound q)
    : Sound (Qf.sideAsk q id j x) := by
  unfold Qf.sideAsk
  with_reducible repeat' first
    | assumption | intro q hq | intro _
    | (extract_lets +onlyGivenNames x; guard_hyp x : Option Status × Qf := _
       refine step_sound x.2 ?_ (fun hx => ?_); rotate_left; clear_value x; rotate_left; subst x)
    | (extract_lets +onlyGivenNames x; guard_hyp x : Qf → Qf := _
       refine stepP (P := ∀ y0, Sound y0 → Sound (x y0)) ?_ (fun hl0 => ?_); rotate_left; clear_value x
       rotate_left; subst x)
    | (extract_lets +onlyGivenNames x; guard_hyp x : Qf → Status → Qf := _
       refine stepP (P := ∀ y0 y1, Sound y0 → Sound (x y0 y1)) ?_ (fun hl1 => ?_); rotate_left; clear_value x
       rotate_left; subst x)
    | (extract_lets +onlyGivenNames x; clear_value x) | extract_lets +onlyGivenNames x | apply hl0 | apply hl1
    | apply Qf.issueRaw_sound | apply Qf.readLine_sound | apply Qf.updSide_sound | apply Qf.sidePkt_sound
    | apply Qf.viewPkt_sound
    | (split <;> try (rename_i heq; apply pair_eq at heq; refine step_sound _ (heq ?_) (fun hq => ?_)))

theorem Qf.sideEnd_sound {q : Qf} {id : Nat} {st : BitVec 8} {committed : Nat} (hq : Sound q)
    : Sound (Qf.sideEnd q id st committed) := by
  unfold Qf.sideEnd
  with_reducible repeat' first
    | assumption
    | (extract_lets +onlyGivenNames q; guard_hyp q : Qf := _; refine step_sound q ?_ (fun hq => ?_)
       rotate_left; clear_value q; rotate_left; subst q)
    | (extract_lets +onlyGivenNames x; clear_value x) | apply Qf.answer_sound | apply Qf.complete_sound | split
    | refine Sound.lit ?_ rfl rfl rfl

theorem Qf.sideTurn_sound {a1 : Nat} {a2 : Nat} {q : Qf} (hq : Sound q) : Sound (Qf.sideTurn a1 a2 q) := by
  induction a1 generalizing a2 q with
  | zero =>
    unfold Qf.sideTurn
    with_reducible repeat' (assumption)
  | succ n ih =>
    unfold Qf.sideTurn
    with_reducible repeat' first
      | assumption | intro q hq | intro _
      | (extract_lets +onlyGivenNames q; guard_hyp q : Qf := _; refine step_sound q ?_ (fun hq => ?_)
         rotate_left; clear_value q; rotate_left; subst q)
      | (extract_lets +onlyGivenNames x; guard_hyp x : Nat → Qf := _
         refine stepP (P := ∀ y0, Sound (x y0)) ?_ (fun hl0 => ?_); rotate_left; clear_value x; rotate_left
         subst x)
      | (extract_lets +onlyGivenNames x; guard_hyp x : List Need → Qf := _
         refine stepP (P := ∀ y0, Sound (x y0)) ?_ (fun hl1 => ?_); rotate_left; clear_value x; rotate_left
         subst x)
      | (extract_lets +onlyGivenNames x; guard_hyp x : Qf → Qf := _
         refine stepP (P := ∀ y0, Sound y0 → Sound (x y0)) ?_ (fun hl2 => ?_); rotate_left; clear_value x
         rotate_left; subst x)
      | (extract_lets +onlyGivenNames x; clear_value x) | extract_lets +onlyGivenNames x | apply ih | apply hl0
      | apply hl1 | apply hl2 | refine foldl_sound (fun q x hq => ?_) _ ?_ | apply Qf.sideWrite_sound
      | apply Qf.updSide_sound | apply Qf.sideAsk_sound | apply Qf.sideEnd_sound | split
      | refine Sound.lit ?_ rfl rfl rfl

theorem Qf.sideGot_sound {q : Qf} {id : Nat} {key : Nat} {st : BitVec 8} {data : List Byte} (hq : Sound q)
    : Sound (Qf.sideGot q id key st data) := by
  unfold Qf.sideGot
  with_reducible repeat' first
    | assumption | extract_lets +onlyGivenNames x | apply Qf.sideTurn_sound | apply Qf.updSide_sound

theorem Qf.qpClosed_sound {q : Qf} {n : QpKey} {peer : Ep} (hq : Sound q) : Sound (Qf.qpClosed q n peer) := by
  unfold Qf.qpClosed
  with_reducible repeat' first
    | assumption | extract_lets +onlyGivenNames x | apply Qf.settleQp_sound | apply Qf.updQp_sound

theorem Qf.wrResult_sound {q : Qf} {n : QpKey} {i : BitVec 16} {r : BitVec 128} (hq : Sound q)
    : Sound (Qf.wrResult q n i r) := by
  unfold Qf.wrResult
  with_reducible repeat' first
    | assumption | apply Qf.updWr_sound

theorem Qf.sendOpen_sound {q : Qf} {n : QpKey} {owner : Owner} {p : Packet} (hq : Sound q)
    : Sound (Qf.sendOpen q n owner p) := by
  unfold Qf.sendOpen
  with_reducible repeat' first
    | assumption | (extract_lets +onlyGivenNames x; clear_value x) | extract_lets +onlyGivenNames x
    | apply Qf.send_sound | refine Sound.lit ?_ rfl rfl rfl

theorem Qf.sendOwn_sound {q : Qf} {n : QpKey} {kind : Nat} {dest : Ep} {grantee : Ep} (hq : Sound q)
    : Sound (Qf.sendOwn q n kind dest grantee) := by
  unfold Qf.sendOwn
  with_reducible repeat' first
    | assumption | extract_lets +onlyGivenNames x | apply Qf.takeTag_sound | apply Qf.sendOpen_sound

theorem Qf.checkpoint_sound {q : Qf} {n : QpKey} (hq : Sound q) : Sound (Qf.checkpoint q n) := by
  unfold Qf.checkpoint
  with_reducible repeat' first
    | assumption | (extract_lets +onlyGivenNames x; clear_value x) | extract_lets +onlyGivenNames x
    | apply Qf.sendOwn_sound | apply Qf.updQp_sound | split | refine Sound.lit ?_ rfl rfl rfl

theorem Qf.qpOne_sound {q : Qf} {n : QpKey} {i : BitVec 16} {p : Packet} {st : BitVec 8} (hq : Sound q)
    : Sound (Qf.qpOne q n i p st) := by
  unfold Qf.qpOne
  with_reducible repeat' first
    | assumption
    | (extract_lets +onlyGivenNames q; guard_hyp q : Qf := _; refine step_sound q ?_ (fun hq => ?_)
       rotate_left; clear_value q; rotate_left; subst q)
    | apply Qf.wrResult_sound | apply Qf.settleQp_sound | apply Qf.checkpoint_sound | apply Qf.wrFail_sound
    | apply Qf.qpResolve_sound | split

theorem Qf.gotPiece_sound {q : Qf} {n : QpKey} {i : BitVec 16} {src : Nat} {bs : List Byte} (hq : Sound q)
    : Sound (Qf.gotPiece q n i src bs) := by
  unfold Qf.gotPiece
  with_reducible repeat' first
    | assumption
    | (extract_lets +onlyGivenNames q; guard_hyp q : Qf := _; refine step_sound q ?_ (fun hq => ?_)
       rotate_left; clear_value q; rotate_left; subst q)
    | (extract_lets +onlyGivenNames x; clear_value x) | apply Qf.updWr_sound | apply Qf.pushPieces_sound

theorem Qf.readPiece_sound {q : Qf} {n : QpKey} {w : WorkReq} {p : Piece} {window : Bool} {again : Bool}
    (hq : Sound q) : Sound (Qf.readPiece q n w p window again) := by
  unfold Qf.readPiece
  with_reducible repeat' first
    | assumption | extract_lets +onlyGivenNames x | apply Qf.takeTag_sound | apply Qf.pushPkt_sound
    | apply Qf.takeMsg_sound

theorem Qf.qpData_sound {q : Qf} {n : QpKey} {i : BitVec 16} {src : Nat} {len : Nat} {p : Packet}
    {st : BitVec 8} (hq : Sound q) : Sound (Qf.qpData q n i src len p st) := by
  unfold Qf.qpData
  with_reducible repeat' first
    | assumption
    | (extract_lets +onlyGivenNames q; guard_hyp q : Qf := _; refine step_sound q ?_ (fun hq => ?_)
       rotate_left; clear_value q; rotate_left; subst q)
    | apply Qf.settleQp_sound | apply Qf.gotPiece_sound | apply Qf.readPiece_sound | apply Qf.wrFail_sound
    | apply Qf.qpResolve_sound | apply Qf.updWr_sound | split

theorem Qf.snapWrote_sound {q : Qf} {n : QpKey} {i : BitVec 16} {k : Nat} {st : BitVec 8} (hq : Sound q)
    : Sound (Qf.snapWrote q n i k st) := by
  unfold Qf.snapWrote
  with_reducible repeat' first
    | assumption | (extract_lets +onlyGivenNames x; clear_value x) | apply Qf.pipeGot_sound | split

theorem Qf.countPipe_sound {q : Qf} {j : PipeJob} (hq : Sound q) : Sound (Qf.countPipe q j) := by
  unfold Qf.countPipe
  with_reducible repeat' first
    | assumption
    | (extract_lets +onlyGivenNames q; guard_hyp q : Qf := _; refine step_sound q ?_ (fun hq => ?_)
       rotate_left; clear_value q; rotate_left; subst q)
    | (extract_lets +onlyGivenNames x; clear_value x) | extract_lets +onlyGivenNames x | apply Qf.meter_sound
    | refine Sound.lit ?_ rfl rfl rfl

theorem Qf.pipeEnd_sound {q : Qf} {n : QpKey} {i : BitVec 16} (hq : Sound q) : Sound (Qf.pipeEnd q n i) := by
  unfold Qf.pipeEnd
  with_reducible repeat' first
    | assumption
    | (extract_lets +onlyGivenNames q; guard_hyp q : Qf := _; refine step_sound q ?_ (fun hq => ?_)
       rotate_left; clear_value q; rotate_left; subst q)
    | (extract_lets +onlyGivenNames x; clear_value x) | extract_lets +onlyGivenNames x | apply Qf.settleQp_sound
    | apply Qf.countPipe_sound | apply Qf.dropJob_sound | apply Qf.wrFail_sound | apply Qf.updWr_sound | split

theorem Qf.recordWrote_sound {q : Qf} {n : QpKey} {i : BitVec 16} {st : BitVec 8} (hq : Sound q)
    : Sound (Qf.recordWrote q n i st) := by
  unfold Qf.recordWrote
  with_reducible repeat' first
    | assumption
    | (extract_lets +onlyGivenNames q; guard_hyp q : Qf := _; refine step_sound q ?_ (fun hq => ?_)
       rotate_left; clear_value q; rotate_left; subst q)
    | apply Qf.updJob_sound | apply Qf.pipeEnd_sound | split

theorem Qf.pipeWrote_sound {q : Qf} {n : QpKey} {i : BitVec 16} {stage : Nat} {tag : Tag} {st : BitVec 8}
    (hq : Sound q) : Sound (Qf.pipeWrote q n i stage tag st) := by
  unfold Qf.pipeWrote
  with_reducible repeat' first
    | assumption
    | (extract_lets +onlyGivenNames q; guard_hyp q : Qf := _; refine step_sound q ?_ (fun hq => ?_)
       rotate_left; clear_value q; rotate_left; subst q)
    | extract_lets +onlyGivenNames x | apply Qf.settleQp_sound | apply Qf.pipeFail_sound
    | apply Qf.qpResolve_sound | apply Qf.updWr_sound | apply Qf.snapWrote_sound | apply Qf.recordWrote_sound
    | split

theorem Qf.encBlocks_sound {a1 : Nat} {a2 : Nat} {q : Qf} (hq : Sound q) : Sound (Qf.encBlocks a1 a2 q) := by
  induction a1 generalizing a2 q with
  | zero =>
    unfold Qf.encBlocks
    with_reducible repeat' (assumption)
  | succ n ih =>
    unfold Qf.encBlocks
    with_reducible repeat' first
      | assumption
      | (extract_lets +onlyGivenNames q; guard_hyp q : Qf := _; refine step_sound q ?_ (fun hq => ?_)
         rotate_left; clear_value q; rotate_left; subst q)
      | (extract_lets +onlyGivenNames x; clear_value x) | extract_lets +onlyGivenNames x | apply ih
      | apply Qf.encWrite_sound | apply Qf.updEnc_sound | apply Qf.updProgress_sound | split
      | refine Sound.lit ?_ rfl rfl rfl

theorem Qf.encGot_sound {q : Qf} {id : Nat} {pos : Nat} {st : BitVec 8} {data : List Byte} (hq : Sound q)
    : Sound (Qf.encGot q id pos st data) := by
  unfold Qf.encGot
  with_reducible repeat' first
    | assumption
    | (extract_lets +onlyGivenNames q; guard_hyp q : Qf := _; refine step_sound q ?_ (fun hq => ?_)
       rotate_left; clear_value q; rotate_left; subst q)
    | (extract_lets +onlyGivenNames x; guard_hyp x : Mgmt := _; subst x)
    | (extract_lets +onlyGivenNames x; clear_value x) | extract_lets +onlyGivenNames x | apply Qf.encEnd_sound
    | apply Qf.pumpEnc_sound | apply Qf.encBlocks_sound | apply Qf.updEnc_sound | split
    | refine Sound.lit ?_ rfl rfl rfl

theorem Qf.colWrote_sound {q : Qf} {g : Nat} {key : Nat} {st : BitVec 8} (hq : Sound q)
    : Sound (Qf.colWrote q g key st) := by
  unfold Qf.colWrote
  with_reducible repeat' first
    | assumption | (extract_lets +onlyGivenNames x; clear_value x) | extract_lets +onlyGivenNames x
    | apply Qf.updMember_sound | apply Qf.colRun_sound

theorem Qf.updMerge_sound {q : Qf} {id : Nat} {f : MergeJob → MergeJob} (hq : Sound q)
    : Sound (Qf.updMerge q id f) := by
  unfold Qf.updMerge
  with_reducible repeat' first
    | assumption | (extract_lets +onlyGivenNames x; clear_value x) | split | refine Sound.lit ?_ rfl rfl rfl

theorem Qf.mergeAsk_sound {q : Qf} {id : Nat} {j : MergeJob} {x : Need} (hq : Sound q)
    : Sound (Qf.mergeAsk q id j x) := by
  unfold Qf.mergeAsk
  with_reducible repeat' first
    | assumption | (extract_lets +onlyGivenNames x; clear_value x) | extract_lets +onlyGivenNames x
    | apply Qf.updMerge_sound | apply Qf.issueRaw_sound | apply Qf.viewPkt_sound
    | (split <;> try (rename_i heq; apply pair_eq at heq; refine step_sound _ (heq ?_) (fun hq => ?_)))

theorem Qf.mergeFail_sound {q : Qf} {id : Nat} {j : MergeJob} {st : BitVec 8} (hq : Sound q)
    : Sound (Qf.mergeFail q id j st) := by
  unfold Qf.mergeFail
  with_reducible repeat' first
    | assumption
    | (extract_lets +onlyGivenNames q; guard_hyp q : Qf := _; refine step_sound q ?_ (fun hq => ?_)
       rotate_left; clear_value q; rotate_left; subst q)
    | (extract_lets +onlyGivenNames x; clear_value x) | extract_lets +onlyGivenNames x
    | apply Qf.abandonDraft_sound | apply Qf.endProgress_sound | apply Qf.complete_sound
    | refine Sound.lit ?_ rfl rfl rfl

theorem Qf.mergeWrite_sound {q : Qf} {id : Nat} {j : MergeJob} {a : Nat} {bs : List Byte} (hq : Sound q)
    : Sound (Qf.mergeWrite q id j a bs) := by
  unfold Qf.mergeWrite
  with_reducible repeat' first
    | assumption | (extract_lets +onlyGivenNames x; clear_value x) | extract_lets +onlyGivenNames x
    | refine foldl_sound (fun q x hq => ?_) _ ?_ | apply Qf.updMerge_sound | apply Qf.issueRaw_sound
    | apply Qf.takeMsg_sound | apply Qf.viewPkt_sound
    | (split <;> try (rename_i heq; apply pair_eq at heq; refine step_sound _ (heq ?_) (fun hq => ?_)))

theorem Qf.mergePublish_sound {q : Qf} {id : Nat} {j : MergeJob} (hq : Sound q) : Sound (Qf.mergePublish q id j) := by
  unfold Qf.mergePublish
  with_reducible repeat' first
    | assumption
    | (extract_lets +onlyGivenNames q; guard_hyp q : Qf := _; refine step_sound q ?_ (fun hq => ?_)
       rotate_left; clear_value q; rotate_left; subst q)
    | (extract_lets +onlyGivenNames x; clear_value x) | apply Qf.mergeFail_sound | apply Qf.publishDraft_sound
    | apply Qf.endProgress_sound | apply Qf.complete_sound
    | (split <;> try (rename_i heq; apply optp_eq at heq; refine step_sound _ (heq ?_) (fun hq => ?_)))
    | refine Sound.lit ?_ rfl rfl rfl

theorem Qf.mergeProgress_sound {q : Qf} {j : MergeJob} (hq : Sound q) : Sound (Qf.mergeProgress q j) := by
  unfold Qf.mergeProgress
  with_reducible repeat' first
    | assumption | apply Qf.updProgress_sound | split

theorem Qf.pumpMerge_sound {a1 : Nat} {a2 : Nat} {q : Qf} (hq : Sound q) : Sound (Qf.pumpMerge a1 a2 q) := by
  induction a1 generalizing a2 q with
  | zero =>
    unfold Qf.pumpMerge
    with_reducible repeat' (assumption)
  | succ n ih =>
    unfold Qf.pumpMerge
    with_reducible repeat' first
      | assumption
      | (extract_lets +onlyGivenNames q; guard_hyp q : Qf := _; refine step_sound q ?_ (fun hq => ?_)
         rotate_left; clear_value q; rotate_left; subst q)
      | (extract_lets +onlyGivenNames x; clear_value x) | extract_lets +onlyGivenNames x | apply ih
      | refine foldl_sound (fun q x hq => ?_) _ ?_ | apply Qf.updMerge_sound | apply Qf.mergeAsk_sound
      | apply Qf.mergeFail_sound | apply Qf.mergeWrite_sound | apply Qf.mergePublish_sound
      | apply Qf.updProgress_sound | apply Qf.mergeProgress_sound | split | refine Sound.lit ?_ rfl rfl rfl

theorem Qf.mergeGot_sound {q : Qf} {id : Nat} {key : Nat} {st : BitVec 8} {data : List Byte} (hq : Sound q)
    : Sound (Qf.mergeGot q id key st data) := by
  unfold Qf.mergeGot
  with_reducible repeat' first
    | assumption | extract_lets +onlyGivenNames x | apply Qf.updMerge_sound | apply Qf.pumpMerge_sound

theorem Qf.sideWrote_sound {q : Qf} {id : Nat} {seq : Nat} {st : BitVec 8} (hq : Sound q)
    : Sound (Qf.sideWrote q id seq st) := by
  unfold Qf.sideWrote
  with_reducible repeat' first
    | assumption | extract_lets +onlyGivenNames x | apply Qf.sideTurn_sound | apply Qf.updSide_sound

theorem Qf.gotRing_sound {q : Qf} {n : QpKey} {w : BitVec 512} (hq : Sound q) : Sound (Qf.gotRing q n w) := by
  unfold Qf.gotRing
  with_reducible repeat' first
    | assumption | intro q hq | intro _
    | (extract_lets +onlyGivenNames q; guard_hyp q : Qf := _; refine step_sound q ?_ (fun hq => ?_)
       rotate_left; clear_value q; rotate_left; subst q)
    | (extract_lets +onlyGivenNames x; guard_hyp x : Option Status → Qf → Qf := _
       refine stepP (P := ∀ y0 y1, Sound y1 → Sound (x y0 y1)) ?_ (fun hl0 => ?_); rotate_left; clear_value x
       rotate_left; subst x)
    | (extract_lets +onlyGivenNames x; clear_value x) | extract_lets +onlyGivenNames x | apply hl0
    | apply Qf.settleQp_sound | apply Qf.updQp_sound | apply Qf.abortAnswer_sound | apply Qf.wrFail_sound
    | split

theorem Qf.readAgain_sound {q : Qf} {n : QpKey} {a : BitVec 60} (hq : Sound q) : Sound (Qf.readAgain q n a) := by
  unfold Qf.readAgain
  with_reducible repeat' first
    | assumption
    | (extract_lets +onlyGivenNames q; guard_hyp q : Qf := _; refine step_sound q ?_ (fun hq => ?_)
       rotate_left; clear_value q; rotate_left; subst q)
    | (extract_lets +onlyGivenNames x; clear_value x) | extract_lets +onlyGivenNames x | apply Qf.submit_sound
    | apply Qf.takeTag_sound | apply Qf.updQp_sound | apply Qf.edgeCheck_sound | apply Qf.qpError_sound
    | (split <;> try (rename_i heq; apply pair_eq at heq; refine step_sound _ (heq ?_) (fun hq => ?_)))

theorem Qf.gotCount_sound {q : Qf} {n : QpKey} {c : BitVec 64} (hq : Sound q) : Sound (Qf.gotCount q n c) := by
  unfold Qf.gotCount
  with_reducible repeat' first
    | assumption | (extract_lets +onlyGivenNames x; clear_value x) | apply Qf.updQp_sound

theorem Qf.qpRing_sound {q : Qf} {n : QpKey} {r : OpenReq} {p : Packet} {st : BitVec 8} (hq : Sound q)
    : Sound (Qf.qpRing q n r p st) := by
  unfold Qf.qpRing
  with_reducible repeat' first
    | assumption
    | (extract_lets +onlyGivenNames q; guard_hyp q : Qf := _; refine step_sound q ?_ (fun hq => ?_)
       rotate_left; clear_value q; rotate_left; subst q)
    | (extract_lets +onlyGivenNames x; clear_value x) | extract_lets +onlyGivenNames x | apply Qf.settleQp_sound
    | apply Qf.gotRing_sound | apply Qf.updQp_sound | apply Qf.readAgain_sound | apply Qf.qpError_sound
    | apply Qf.gotCount_sound | split

theorem Qf.endWait_sound {q : Qf} {n : QpKey} {i : BitVec 16} {st : BitVec 8} {v : BitVec 64}
    {edge : Option (BitVec 60)} (hq : Sound q) : Sound (Qf.endWait q n i st v edge) := by
  unfold Qf.endWait
  with_reducible repeat' first
    | assumption
    | (extract_lets +onlyGivenNames q; guard_hyp q : Qf := _; refine step_sound q ?_ (fun hq => ?_)
       rotate_left; clear_value q; rotate_left; subst q)
    | (extract_lets +onlyGivenNames x; clear_value x) | extract_lets +onlyGivenNames x
    | refine foldl_sound (fun q x hq => ?_) _ ?_ | apply Qf.wrResult_sound | apply Qf.resolved_sound
    | apply Qf.settleQp_sound | apply Qf.updQp_sound | apply Qf.wrFail_sound | apply Qf.updWr_sound | split

theorem Qf.qpWait_sound {q : Qf} {n : QpKey} {i : BitVec 16} {r : OpenReq} {p : Packet} {st : BitVec 8}
    (hq : Sound q) : Sound (Qf.qpWait q n i r p st) := by
  unfold Qf.qpWait
  with_reducible repeat' first
    | assumption | (extract_lets +onlyGivenNames x; clear_value x) | apply Qf.updQp_sound
    | apply Qf.endWait_sound | split

theorem Qf.mergeWrote_sound {q : Qf} {id : Nat} {st : BitVec 8} (hq : Sound q) : Sound (Qf.mergeWrote q id st) := by
  unfold Qf.mergeWrote
  with_reducible repeat' first
    | assumption | extract_lets +onlyGivenNames x | apply Qf.updMerge_sound | apply Qf.pumpMerge_sound

theorem Qf.sendClose_sound {q : Qf} {n : QpKey} {peer : Ep} (hq : Sound q) : Sound (Qf.sendClose q n peer) := by
  unfold Qf.sendClose
  with_reducible repeat' first
    | assumption | (extract_lets +onlyGivenNames x; clear_value x) | extract_lets +onlyGivenNames x
    | apply Qf.takeTag_sound | apply Qf.keep_sound | apply Qf.updQp_sound | apply Qf.sendOpen_sound

theorem Qf.goEnc_sound {q : Qf} {id : Nat} (hq : Sound q) : Sound (Qf.goEnc q id) := by
  unfold Qf.goEnc
  with_reducible repeat' first
    | assumption | (extract_lets +onlyGivenNames x; clear_value x) | apply Qf.pumpEnc_sound
    | apply Qf.wantUnit_sound | split

theorem Qf.startShards_sound {q : Qf} {s : Sector} (hq : Sound q) : Sound (Qf.startShards q s) := by
  unfold Qf.startShards
  with_reducible repeat' first
    | assumption | extract_lets +onlyGivenNames x | refine foldl_sound (fun q x hq => ?_) _ ?_
    | apply Qf.updShard_sound | apply Qf.wantUnit_sound | apply Qf.pumpShard_sound | split

theorem Qf.startWr_sound {q : Qf} {n : QpKey} {w : BitVec 512} {op : Nat} {f : WorkReq → Qf → Qf} (hq : Sound q)
    (hf1 : ∀ y1, Sound y1 → ∀ y0, Sound (f y0 y1)) : Sound (Qf.startWr q n w op f) := by
  unfold Qf.startWr
  with_reducible repeat' first
    | assumption
    | (extract_lets +onlyGivenNames q; guard_hyp q : Qf := _; refine step_sound q ?_ (fun hq => ?_)
       rotate_left; clear_value q; rotate_left; subst q)
    | (extract_lets +onlyGivenNames x; clear_value x) | extract_lets +onlyGivenNames x | apply Qf.settleQp_sound
    | apply Qf.updQp_sound | apply Qf.touchQp_sound | apply Qf.wantUnit_sound | apply hf1 | split

theorem Qf.nameMsgs_sound {q : Qf} {n : QpKey} {ps : List Piece} (hq : Sound q) : Sound (Qf.nameMsgs q n ps).2.2 := by
  unfold Qf.nameMsgs
  with_reducible repeat' first
    | assumption
    | (extract_lets +onlyGivenNames x; guard_hyp x : List MsgHdr × List (BitVec 24 × Ep × Nat) × Qf := _
       refine step_sound x.2.2 ?_ (fun hx => ?_); rotate_left; clear_value x; rotate_left; subst x)
    | (extract_lets +onlyGivenNames x; clear_value x) | apply Qf.nameHomes_sound

theorem Qf.engineKey_sound {q : Qf} {n : QpKey} {t : Tenant} {g : KeyGen} (hq : Sound q)
    : Sound (Qf.engineKey q n t g) := by
  unfold Qf.engineKey
  with_reducible repeat' first
    | assumption | (extract_lets +onlyGivenNames x; clear_value x) | extract_lets +onlyGivenNames x
    | refine Sound.lit ?_ rfl rfl rfl

theorem Qf.pieceKeys_sound {q : Qf} {n : QpKey} {p : Piece} (hq : Sound q) : Sound (Qf.pieceKeys q n p) := by
  unfold Qf.pieceKeys
  with_reducible repeat' first
    | assumption
    | (extract_lets +onlyGivenNames q; guard_hyp q : Qf := _; refine step_sound q ?_ (fun hq => ?_)
       rotate_left; clear_value q; rotate_left; subst q)
    | (extract_lets +onlyGivenNames x; clear_value x) | apply Qf.engineKey_sound | split

theorem Qf.startTransfer_sound {q : Qf} {n : QpKey} {w : WorkReq} (hq : Sound q)
    : Sound (Qf.startTransfer q n w) := by
  unfold Qf.startTransfer
  with_reducible repeat' first
    | assumption
    | (extract_lets +onlyGivenNames q; guard_hyp q : Qf := _; refine step_sound q ?_ (fun hq => ?_)
       rotate_left; clear_value q; rotate_left; subst q)
    | (extract_lets +onlyGivenNames x; guard_hyp x : List Piece × List (BitVec 24 × Ep × Nat) × Qf := _
       refine step_sound x.2.2 ?_ (fun hx => ?_); rotate_left; clear_value x; rotate_left; subst x)
    | (extract_lets +onlyGivenNames x; clear_value x) | extract_lets +onlyGivenNames x
    | refine foldl_sound (fun q x hq => ?_) _ ?_ | apply Qf.nameMsgs_sound | apply Qf.pieceKeys_sound
    | apply Qf.readPiece_sound | apply Qf.wrFail_sound | apply Qf.updWr_sound | split

theorem Qf.startWait_sound {q : Qf} {n : QpKey} {w : WorkReq} (hq : Sound q) : Sound (Qf.startWait q n w) := by
  unfold Qf.startWait
  with_reducible repeat' first
    | assumption | (extract_lets +onlyGivenNames x; clear_value x) | extract_lets +onlyGivenNames x
    | apply Qf.takeTag_sound | apply Qf.pushPkt_sound | apply Qf.updQp_sound | apply Qf.wrFail_sound | split

theorem Qf.clearQp_sound {q : Qf} {n : QpKey} (hq : Sound q) : Sound (Qf.clearQp q n) := by
  unfold Qf.clearQp
  with_reducible repeat' first
    | assumption
    | (extract_lets +onlyGivenNames q; guard_hyp q : Qf := _; refine step_sound q ?_ (fun hq => ?_)
       rotate_left; clear_value q; rotate_left; subst q)
    | (extract_lets +onlyGivenNames x; clear_value x) | extract_lets +onlyGivenNames x
    | refine foldl_sound (fun q x hq => ?_) _ ?_ | apply Qf.dropHeld_sound | apply Qf.resolved_sound
    | apply Qf.updQp_sound | apply Qf.settleMates_sound | refine Sound.lit ?_ rfl rfl rfl

theorem Qf.colTreeDown_sound {q : Qf} {h : HalfPort} (hq : Sound q) : Sound (Qf.colTreeDown q h) := by
  unfold Qf.colTreeDown
  with_reducible repeat' first
    | assumption
    | (extract_lets +onlyGivenNames q; guard_hyp q : Qf := _; refine step_sound q ?_ (fun hq => ?_)
       rotate_left; clear_value q; rotate_left; subst q)
    | (extract_lets +onlyGivenNames x; clear_value x) | refine foldl_sound (fun q x hq => ?_) _ ?_
    | apply Qf.updGroup_sound | apply Qf.updMember_sound | apply Qf.colFail_sound | apply Qf.colRun_sound
    | apply Qf.updInst_sound | apply Qf.colAbortNow_sound | split

theorem Qf.msgIn_sound {q : Qf} {p : Packet} (hq : Sound q) : Sound (Qf.msgIn q p).2 := by
  unfold Qf.msgIn
  with_reducible repeat' first
    | assumption | (extract_lets +onlyGivenNames x; clear_value x) | split | refine Sound.lit ?_ rfl rfl rfl

theorem Qf.arriveMsg_sound {q : Qf} {i : Ingress} {p : Packet} {f : Qf → Qf} (hq : Sound q)
    (hf1 : ∀ y0, Sound y0 → Sound (f y0)) : Sound (Qf.arriveMsg q i p f) := by
  unfold Qf.arriveMsg
  with_reducible repeat' first
    | assumption | extract_lets +onlyGivenNames x | apply Qf.transit_sound | apply Qf.take_sound | apply hf1
    | split

theorem Qf.sideStart_sound {q : Qf} {j : SideJob} (hq : Sound q) : Sound (Qf.sideStart q j) := by
  unfold Qf.sideStart
  with_reducible repeat' first
    | assumption | (extract_lets +onlyGivenNames x; clear_value x) | extract_lets +onlyGivenNames x
    | apply Qf.sideTurn_sound | refine Sound.lit ?_ rfl rfl rfl

theorem execSideAppend_sound {i : Ingress} {p : Packet} {s : State} (hq : Sound s.qf)
    : ∃ q, execSideAppend i p s = .next { s with qf := q } ∧ Sound q := by
  unfold execSideAppend done
  refine ⟨_, rfl, ?_⟩
  with_reducible repeat' first
    | assumption | intro q hq | extract_lets +onlyGivenNames x | apply Qf.answerFail_sound
    | apply Qf.msgIn_sound | apply Qf.arriveMsg_sound | apply Qf.sideStart_sound
    | (split <;> try (rename_i heq; apply pair_eq at heq; refine step_sound _ (heq ?_) (fun hq => ?_)))

theorem Qf.qpStop_sound {q : Qf} {n : QpKey} {kind : Nat} {st : Status} (hq : Sound q)
    : Sound (Qf.qpStop q n kind st) := by
  unfold Qf.qpStop
  with_reducible repeat' first
    | assumption | (extract_lets +onlyGivenNames x; clear_value x) | extract_lets +onlyGivenNames x
    | refine foldl_sound (fun q x hq => ?_) _ ?_ | apply Qf.event_sound | apply Qf.clearQp_sound

theorem execSearchShard_sound {i : Ingress} {p : Packet} {s : State} (hq : Sound s.qf)
    : ∃ q, execSearchShard i p s = .next { s with qf := q } ∧ Sound q := by
  unfold execSearchShard done
  refine ⟨_, rfl, ?_⟩
  with_reducible repeat' first
    | assumption | intro q hq
    | (extract_lets +onlyGivenNames q; guard_hyp q : Qf := _; refine step_sound q ?_ (fun hq => ?_)
       rotate_left; clear_value q; rotate_left; subst q)
    | (extract_lets +onlyGivenNames x; clear_value x) | extract_lets +onlyGivenNames x
    | apply Qf.startShards_sound | apply Qf.answerFail_sound | apply Qf.msgIn_sound | apply Qf.arriveMsg_sound
    | (split <;> try (rename_i heq; apply pair_eq at heq; refine step_sound _ (heq ?_) (fun hq => ?_)))
    | refine Sound.lit ?_ rfl rfl rfl

theorem Qf.staleSent_sound {q : Qf} {n : QpKey} {s : SentPkt} (hq : Sound q) : Sound (Qf.staleSent q n s) := by
  unfold Qf.staleSent
  with_reducible repeat' first
    | assumption | apply Qf.updQp_sound

theorem Qf.failEncodes_sound {q : Qf} {s : Sector} {st : BitVec 8} (hq : Sound q)
    : Sound (Qf.failEncodes q s st) := by
  unfold Qf.failEncodes
  with_reducible repeat' first
    | assumption | (extract_lets +onlyGivenNames x; clear_value x) | extract_lets +onlyGivenNames x
    | refine foldl_sound (fun q x hq => ?_) _ ?_ | apply Qf.pumpEnc_sound | apply Qf.updEnc_sound | split

theorem Qf.colSlotLost_sound {q : Qf} {s : Sector} (hq : Sound q) : Sound (Qf.colSlotLost q s) := by
  unfold Qf.colSlotLost
  with_reducible repeat' first
    | assumption | extract_lets +onlyGivenNames x | refine foldl_sound (fun q x hq => ?_) _ ?_
    | apply Qf.colFail_sound | apply Qf.colRun_sound | split

theorem execRunPipeline_sound {origin : Ep} {qpn : Qpn} {wr : BitVec 512} {s : State} (hq : Sound s.qf)
    : ∃ q, execRunPipeline origin qpn wr s = .next { s with qf := q } ∧ Sound q := by
  unfold execRunPipeline done
  refine ⟨_, rfl, ?_⟩
  with_reducible repeat' first
    | assumption | intro q hq | intro _
    | (extract_lets +onlyGivenNames q; guard_hyp q : Qf := _; refine step_sound q ?_ (fun hq => ?_)
       rotate_left; clear_value q; rotate_left; subst q)
    | (extract_lets +onlyGivenNames x; clear_value x) | extract_lets +onlyGivenNames x | apply Qf.startWr_sound
    | apply Qf.wrFail_sound | apply Qf.pumpJob_sound | apply Qf.updWr_sound | split
    | refine Sound.lit ?_ rfl rfl rfl

theorem Qf.groupCmd_sound {q : Qf} {m : MgrRef} {g : Nat} {c : GroupCmd} (hq : Sound q)
    : Sound (Qf.groupCmd q m g c) := by
  unfold Qf.groupCmd
  with_reducible repeat' first
    | assumption
    | (extract_lets +onlyGivenNames q; guard_hyp q : Qf := _; refine step_sound q ?_ (fun hq => ?_)
       rotate_left; clear_value q; rotate_left; subst q)
    | (extract_lets +onlyGivenNames x; clear_value x) | apply Qf.markStart_sound | apply Qf.runGroupCmd_sound
    | split | refine Sound.lit ?_ rfl rfl rfl

theorem execGroupArm_sound {m : MgrRef} {record : BitVec 256} {s : State} (hq : Sound s.qf)
    : ∃ q, execGroupArm m record s = .next { s with qf := q } ∧ Sound q := by
  unfold execGroupArm done
  refine ⟨_, rfl, ?_⟩
  with_reducible repeat' first
    | assumption | intro q hq | extract_lets +onlyGivenNames x | apply Qf.groupCmd_sound | apply Qf.mgr_sound

theorem execColCommit_sound {h : HalfPort} {p : Packet} {s : State} (hq : Sound s.qf)
    : ∃ q, execColCommit h p s = .next { s with qf := q } ∧ Sound q := by
  unfold execColCommit done
  refine ⟨_, rfl, ?_⟩
  with_reducible repeat' first
    | assumption | extract_lets +onlyGivenNames x | apply Qf.colArrive_sound

theorem execColAbort_sound {h : HalfPort} {p : Packet} {s : State} (hq : Sound s.qf)
    : ∃ q, execColAbort h p s = .next { s with qf := q } ∧ Sound q := by
  unfold execColAbort done
  refine ⟨_, rfl, ?_⟩
  with_reducible repeat' first
    | assumption | extract_lets +onlyGivenNames x | apply Qf.colArrive_sound

theorem execColAbortCommand_sound {m : MgrRef} {group : BitVec 16} {inst : BitVec 32} {s : State}
    (hq : Sound s.qf) : ∃ q, execColAbortCommand m group inst s = .next { s with qf := q } ∧ Sound q := by
  unfold execColAbortCommand done
  refine ⟨_, rfl, ?_⟩
  with_reducible repeat' first
    | assumption | intro q hq | extract_lets +onlyGivenNames x | apply Qf.groupCmd_sound | apply Qf.mgr_sound

theorem execColPartial_sound {h : HalfPort} {p : Packet} {s : State} (hq : Sound s.qf)
    : ∃ q, execColPartial h p s = .next { s with qf := q } ∧ Sound q := by
  unfold execColPartial done
  refine ⟨_, rfl, ?_⟩
  with_reducible repeat' first
    | assumption | extract_lets +onlyGivenNames x | apply Qf.colArrive_sound

theorem Qf.cancelAsks_sound {q : Qf} {n : QpKey} {i : BitVec 16} (hq : Sound q) : Sound (Qf.cancelAsks q n i) := by
  unfold Qf.cancelAsks
  with_reducible repeat' first
    | assumption
    | (extract_lets +onlyGivenNames q; guard_hyp q : Qf := _; refine step_sound q ?_ (fun hq => ?_)
       rotate_left; clear_value q; rotate_left; subst q)
    | (extract_lets +onlyGivenNames x; clear_value x) | extract_lets +onlyGivenNames x
    | refine foldl_sound (fun q x hq => ?_) _ ?_ | apply Qf.resolved_sound | apply Qf.dropMsg_sound
    | refine Sound.lit ?_ rfl rfl rfl

theorem execGroupDisarm_sound {m : MgrRef} {group : BitVec 16} {s : State} (hq : Sound s.qf)
    : ∃ q, execGroupDisarm m group s = .next { s with qf := q } ∧ Sound q := by
  unfold execGroupDisarm done
  refine ⟨_, rfl, ?_⟩
  with_reducible repeat' first
    | assumption | intro q hq | extract_lets +onlyGivenNames x | apply Qf.groupCmd_sound | apply Qf.mgr_sound

theorem execCollectiveTimeout_sound {group : GroupId} {s : State} (hq : Sound s.qf)
    : ∃ q, execCollectiveTimeout group s = .next { s with qf := q } ∧ Sound q := by
  unfold execCollectiveTimeout done
  refine ⟨_, rfl, ?_⟩
  with_reducible repeat' first
    | assumption | (extract_lets +onlyGivenNames x; clear_value x) | extract_lets +onlyGivenNames x
    | apply Qf.fault_sound | apply Qf.colFail_sound | apply Qf.colRun_sound | split
    | refine Sound.lit ?_ rfl rfl rfl

theorem Qf.pipeAbort_sound {q : Qf} {n : QpKey} {i : BitVec 16} (hq : Sound q) : Sound (Qf.pipeAbort q n i) := by
  unfold Qf.pipeAbort
  with_reducible repeat' first
    | assumption
    | (extract_lets +onlyGivenNames q; guard_hyp q : Qf := _; refine step_sound q ?_ (fun hq => ?_)
       rotate_left; clear_value q; rotate_left; subst q)
    | (extract_lets +onlyGivenNames x; clear_value x) | extract_lets +onlyGivenNames x | apply Qf.updJob_sound
    | apply Qf.cancelAsks_sound | apply Qf.countSelects_sound | apply Qf.takeBack_sound | apply Qf.updQp_sound
    | apply Qf.endReads_sound

theorem execGatherBackup_sound {n : QpKey} {wrIndex : BitVec 16} {stage : BitVec 3} {ordinal : BitVec 32}
    {s : State} (hq : Sound s.qf)
    : ∃ q, execGatherBackup n wrIndex stage ordinal s = .next { s with qf := q } ∧ Sound q := by
  unfold execGatherBackup done
  refine ⟨_, rfl, ?_⟩
  with_reducible repeat' first
    | assumption
    | (extract_lets +onlyGivenNames q; guard_hyp q : Qf := _; refine step_sound q ?_ (fun hq => ?_)
       rotate_left; clear_value q; rotate_left; subst q)
    | (extract_lets +onlyGivenNames x; clear_value x) | extract_lets +onlyGivenNames x | apply Qf.updJob_sound
    | apply Qf.pumpJob_sound | split | refine Sound.lit ?_ rfl rfl rfl

theorem execSideReclaim_sound {m : MgrRef} {tenant : BitVec 16} {side : BitVec 64} {r : BitVec 64}
    {indexes : List (BitVec 32)} {s : State} (hq : Sound s.qf)
    : ∃ q, execSideReclaim m tenant side r indexes s = .next { s with qf := q } ∧ Sound q := by
  unfold execSideReclaim done
  refine ⟨_, rfl, ?_⟩
  with_reducible repeat' first
    | assumption | intro q hq | (extract_lets +onlyGivenNames x; clear_value x) | apply Qf.sideStart_sound
    | apply Qf.mgr_sound

theorem execColEbcast_sound {h : HalfPort} {p : Packet} {s : State} (hq : Sound s.qf)
    : ∃ q, execColEbcast h p s = .next { s with qf := q } ∧ Sound q := by
  unfold execColEbcast done
  refine ⟨_, rfl, ?_⟩
  with_reducible repeat' first
    | assumption | extract_lets +onlyGivenNames x | apply Qf.colArrive_sound

theorem execColAbortReq_sound {h : HalfPort} {p : Packet} {s : State} (hq : Sound s.qf)
    : ∃ q, execColAbortReq h p s = .next { s with qf := q } ∧ Sound q := by
  unfold execColAbortReq done
  refine ⟨_, rfl, ?_⟩
  with_reducible repeat' first
    | assumption | extract_lets +onlyGivenNames x | apply Qf.colArrive_sound

theorem execSearchBackup_sound {n : QpKey} {wrIndex : BitVec 16} {shard : BitVec 8} {s : State}
    (hq : Sound s.qf) : ∃ q, execSearchBackup n wrIndex shard s = .next { s with qf := q } ∧ Sound q := by
  unfold execSearchBackup done
  refine ⟨_, rfl, ?_⟩
  with_reducible repeat' first
    | assumption
    | (extract_lets +onlyGivenNames q; guard_hyp q : Qf := _; refine step_sound q ?_ (fun hq => ?_)
       rotate_left; clear_value q; rotate_left; subst q)
    | (extract_lets +onlyGivenNames x; clear_value x) | extract_lets +onlyGivenNames x | apply Qf.updJob_sound
    | apply Qf.pumpJob_sound | split | refine Sound.lit ?_ rfl rfl rfl

theorem execPipelineStart_sound {sector : Sector} {s : State} (hq : Sound s.qf)
    : ∃ q, execPipelineStart sector s = .next { s with qf := q } ∧ Sound q := by
  unfold execPipelineStart done
  refine ⟨_, rfl, ?_⟩
  with_reducible repeat' first
    | assumption | extract_lets +onlyGivenNames x | apply Qf.startShards_sound | apply Qf.startPipes_sound
    | split | refine Sound.lit ?_ rfl rfl rfl

theorem Qf.pipeRecord_sound {q : Qf} {n : QpKey} {i : BitVec 16} (hq : Sound q) : Sound (Qf.pipeRecord q n i) := by
  unfold Qf.pipeRecord
  with_reducible repeat' first
    | assumption | intro q hq | intro _
    | (extract_lets +onlyGivenNames q; guard_hyp q : Qf := _; refine step_sound q ?_ (fun hq => ?_)
       rotate_left; clear_value q; rotate_left; subst q)
    | (extract_lets +onlyGivenNames x; guard_hyp x : Option Status × Nat × Qf := _
       refine step_sound x.2.2 ?_ (fun hx => ?_); rotate_left; clear_value x; rotate_left; subst x)
    | (extract_lets +onlyGivenNames x; guard_hyp x : Qf → Status → Qf := _
       refine stepP (P := ∀ y0 y1, Sound y0 → Sound (x y0 y1)) ?_ (fun hl0 => ?_); rotate_left; clear_value x
       rotate_left; subst x)
    | (extract_lets +onlyGivenNames x; clear_value x) | extract_lets +onlyGivenNames x | apply hl0
    | apply Qf.updJob_sound | apply Qf.pipeEnd_sound | apply Qf.engWriteAll_sound | split

theorem execPipelineComplete_sound {n : QpKey} {wrIndex : BitVec 16} {s : State} (hq : Sound s.qf)
    : ∃ q, execPipelineComplete n wrIndex s = .next { s with qf := q } ∧ Sound q := by
  unfold execPipelineComplete done
  refine ⟨_, rfl, ?_⟩
  with_reducible repeat' first
    | assumption | extract_lets +onlyGivenNames x | apply Qf.pipeRecord_sound | split
    | refine Sound.lit ?_ rfl rfl rfl

theorem execColData_sound {h : HalfPort} {p : Packet} {s : State} (hq : Sound s.qf)
    : ∃ q, execColData h p s = .next { s with qf := q } ∧ Sound q := by
  unfold execColData done
  refine ⟨_, rfl, ?_⟩
  with_reducible repeat' first
    | assumption | extract_lets +onlyGivenNames x | apply Qf.colArrive_sound

theorem execColAbortAnswer_sound {h : HalfPort} {p : Packet} {s : State} (hq : Sound s.qf)
    : ∃ q, execColAbortAnswer h p s = .next { s with qf := q } ∧ Sound q := by
  unfold execColAbortAnswer done
  refine ⟨_, rfl, ?_⟩
  with_reducible repeat' first
    | assumption | extract_lets +onlyGivenNames x | apply Qf.colArrive_sound

theorem execIndexMerge_sound {m : MgrRef} {tenant : BitVec 16} {region : BitVec 32} {t : BitVec 64}
    {metric : BitVec 8} {s : State} (hq : Sound s.qf)
    : ∃ q, execIndexMerge m tenant region t metric s = .next { s with qf := q } ∧ Sound q := by
  unfold execIndexMerge done
  refine ⟨_, rfl, ?_⟩
  with_reducible repeat' first
    | assumption | intro q hq
    | (extract_lets +onlyGivenNames q; guard_hyp q : Qf := _; refine step_sound q ?_ (fun hq => ?_)
       rotate_left; clear_value q; rotate_left; subst q)
    | (extract_lets +onlyGivenNames x; clear_value x) | extract_lets +onlyGivenNames x
    | apply Qf.pumpMerge_sound | apply Qf.newProgress_sound | apply Qf.mgr_sound | apply Qf.complete_sound
    | apply Qf.openDraft_sound
    | (split <;> try (rename_i heq; apply optp_eq at heq; refine step_sound _ (heq ?_) (fun hq => ?_)))
    | refine Sound.lit ?_ rfl rfl rfl

theorem execColLaunch_sound {h : HalfPort} {p : Packet} {s : State} (hq : Sound s.qf)
    : ∃ q, execColLaunch h p s = .next { s with qf := q } ∧ Sound q := by
  unfold execColLaunch done
  refine ⟨_, rfl, ?_⟩
  with_reducible repeat' first
    | assumption | extract_lets +onlyGivenNames x | apply Qf.colArrive_sound

theorem Qf.askResolved_sound {q : Qf} {r : OpenReq} {st : BitVec 8} (hq : Sound q)
    : Sound (Qf.askResolved q r st) := by
  unfold Qf.askResolved
  with_reducible repeat' first
    | assumption | (extract_lets +onlyGivenNames x; clear_value x) | extract_lets +onlyGivenNames x
    | refine foldl_sound (fun q x hq => ?_) _ ?_ | apply Qf.resolved_sound

theorem execSearchAnswer_sound {i : Ingress} {p : Packet} {s : State} (hq : Sound s.qf)
    : ∃ q, execSearchAnswer i p s = .next { s with qf := q } ∧ Sound q := by
  unfold execSearchAnswer done
  refine ⟨_, rfl, ?_⟩
  with_reducible repeat' first
    | assumption | intro q hq | (extract_lets +onlyGivenNames x; clear_value x) | extract_lets +onlyGivenNames x
    | apply Qf.pipeGot_sound | apply Qf.msgIn_sound | apply Qf.arriveMsg_sound | apply Qf.askResolved_sound
    | (split <;> try (rename_i heq; apply pair_eq at heq; refine step_sound _ (heq ?_) (fun hq => ?_)))

theorem execColExp_sound {h : HalfPort} {p : Packet} {s : State} (hq : Sound s.qf)
    : ∃ q, execColExp h p s = .next { s with qf := q } ∧ Sound q := by
  unfold execColExp done
  refine ⟨_, rfl, ?_⟩
  with_reducible repeat' first
    | assumption | extract_lets +onlyGivenNames x | apply Qf.colArrive_sound

theorem execFrbEncode_sound {m : MgrRef} {descriptor : BitVec 512} {s : State} (hq : Sound s.qf)
    : ∃ q, execFrbEncode m descriptor s = .next { s with qf := q } ∧ Sound q := by
  unfold execFrbEncode done
  refine ⟨_, rfl, ?_⟩
  with_reducible repeat' first
    | assumption | intro q hq
    | (extract_lets +onlyGivenNames q; guard_hyp q : Qf := _; refine step_sound q ?_ (fun hq => ?_)
       rotate_left; clear_value q; rotate_left; subst q)
    | (extract_lets +onlyGivenNames x; clear_value x) | apply Qf.encEnd_sound | apply Qf.goEnc_sound
    | apply Qf.newProgress_sound | apply Qf.mgr_sound
    | (split <;> try (rename_i heq; apply optp_eq at heq; refine step_sound _ (heq ?_) (fun hq => ?_)))
    | refine Sound.lit ?_ rfl rfl rfl

end Sys2Proof.Machine
end

