-- ==== Sys2Proof/Laws/SoundLinks.lean ====
section
/-! SUPPORT. Laws/SoundLinks.lean: trays, ports, links, the scheduler, the switch, ownership, fences and time
keep Safety.Sound: one lemma per operation and per command. -/

set_option linter.tactic.unusedName false

namespace Sys2Proof.Machine
open Sys2Proof.Safety

theorem Qf.hostRequest_sound {q : Qf} {c : CxlReq} {op : BitVec 60 → BitVec 8} {aux : Option AuxHdr}
    {data : Option (BitVec 8)} (hq : Sound q) : Sound (Qf.hostRequest q c op aux data) := by
  unfold Qf.hostRequest
  with_reducible repeat' first
    | assumption
    | (extract_lets +onlyGivenNames q; guard_hyp q : Qf := _; refine step_sound q ?_ (fun hq => ?_)
       rotate_left; clear_value q; rotate_left; subst q)
    | (extract_lets +onlyGivenNames x; clear_value x) | apply Qf.updLink_sound | apply Qf.clientRequest_sound
    | apply Qf.markHeld_sound | split

theorem execMemWrPtl_sound {c : CxlReq} {s : State} (hq : Sound s.qf)
    : ∃ q, execMemWrPtl c s = .next { s with qf := q } ∧ Sound q := by
  unfold execMemWrPtl done
  refine ⟨_, rfl, ?_⟩
  with_reducible repeat' first
    | assumption | extract_lets +onlyGivenNames x | apply Qf.hostRequest_sound

theorem Qf.tookTurn_sound {q : Qf} {h : HalfPort} {c : Nat} {x : QPkt} (hq : Sound q)
    : Sound (Qf.tookTurn q h c x) := by
  unfold Qf.tookTurn
  with_reducible repeat' first
    | assumption | (extract_lets +onlyGivenNames x; clear_value x) | refine Sound.lit ?_ rfl rfl rfl

theorem Qf.chargeEgress_sound {q : Qf} {h : HalfPort} {c : Nat} {len : Nat} (hq : Sound q)
    : Sound (Qf.chargeEgress q h c len) := by
  unfold Qf.chargeEgress
  with_reducible repeat' first
    | assumption | apply Qf.updEgress_sound

theorem Qf.chargeCut_sound {q : Qf} {h : HalfPort} {o : HalfPort} {p : Packet} {x : Nat × Egress} (hq : Sound q)
    : Sound (Qf.chargeCut q h o p x) := by
  unfold Qf.chargeCut
  with_reducible repeat' first
    | assumption | extract_lets +onlyGivenNames x | apply Qf.tookTurn_sound | apply Qf.updEgress_sound
    | apply Qf.chargeEgress_sound

theorem Qf.armGate_sound {q : Qf} {h : HalfPort} (hq : Sound q) : Sound (Qf.armGate q h).2 := by
  unfold Qf.armGate
  with_reducible repeat' first
    | assumption | (extract_lets +onlyGivenNames x; clear_value x) | apply Qf.updEgress_sound | split

theorem Qf.noteFence_sound {q : Qf} {o : BitVec 8} {x : Ep} {proposer : Ep} (hq : Sound q)
    : Sound (Qf.noteFence q o x proposer) := by
  unfold Qf.noteFence
  with_reducible repeat' first
    | assumption | (extract_lets +onlyGivenNames x; guard_hyp x : Faults := _; subst x)
    | refine Sound.lit ?_ rfl rfl rfl

theorem Qf.floodFence_sound {q : Qf} {o : BitVec 8} {x : Ep} {up : Nat} (hq : Sound q)
    : Sound (Qf.floodFence q o x up) := by
  unfold Qf.floodFence
  with_reducible repeat' first
    | assumption | extract_lets +onlyGivenNames x | apply Qf.noteFence_sound | apply Qf.flood_sound

theorem Qf.freeCtx_sound {q : Qf} (hq : Sound q) : Sound (Qf.freeCtx q).2 := by
  unfold Qf.freeCtx
  with_reducible repeat' first
    | assumption | extract_lets +onlyGivenNames x | apply Qf.takeFree_sound

theorem Qf.replay_sound {q : Qf} {n : QpKey} {e : BitVec 32} {consumer : BitVec 16} {producer : BitVec 16}
    {peers : List PeerSlot} (hq : Sound q) : Sound (Qf.replay q n e consumer producer peers) := by
  unfold Qf.replay
  with_reducible repeat' first
    | assumption
    | (extract_lets +onlyGivenNames q; guard_hyp q : Qf := _; refine step_sound q ?_ (fun hq => ?_)
       rotate_left; clear_value q; rotate_left; subst q)
    | extract_lets +onlyGivenNames x | apply Qf.settleQp_sound | apply Qf.updQp_sound | apply Qf.readAgain_sound

theorem Qf.mirror_sound {q : Qf} {n : QpKey} (hq : Sound q) : Sound (Qf.mirror q n) := by
  unfold Qf.mirror
  with_reducible repeat' first
    | assumption
    | (extract_lets +onlyGivenNames q; guard_hyp q : Qf := _; refine step_sound q ?_ (fun hq => ?_)
       rotate_left; clear_value q; rotate_left; subst q)
    | (extract_lets +onlyGivenNames x; clear_value x) | apply Qf.fault_sound | apply Qf.sendPlain_sound | split
    | refine Sound.lit ?_ rfl rfl rfl

theorem Qf.updOwn_sound {q : Qf} {n : QpKey} {f : OwnRec → OwnRec} (hq : Sound q) : Sound (Qf.updOwn q n f) := by
  unfold Qf.updOwn
  with_reducible repeat' first
    | assumption | (extract_lets +onlyGivenNames x; clear_value x) | refine Sound.lit ?_ rfl rfl rfl

theorem Qf.ownChanged_sound {q : Qf} {n : QpKey} {answer : Option Packet} (hq : Sound q)
    : Sound (Qf.ownChanged q n answer) := by
  unfold Qf.ownChanged
  with_reducible repeat' first
    | assumption
    | (extract_lets +onlyGivenNames q; guard_hyp q : Qf := _; refine step_sound q ?_ (fun hq => ?_)
       rotate_left; clear_value q; rotate_left; subst q)
    | apply Qf.sendPlain_sound | apply Qf.mirror_sound | apply Qf.updOwn_sound | split

theorem Qf.reclaimQp_sound {q : Qf} {n : QpKey} (hq : Sound q) : Sound (Qf.reclaimQp q n) := by
  unfold Qf.reclaimQp
  with_reducible repeat' first
    | assumption
    | (extract_lets +onlyGivenNames q; guard_hyp q : Qf := _; refine step_sound q ?_ (fun hq => ?_)
       rotate_left; clear_value q; rotate_left; subst q)
    | (extract_lets +onlyGivenNames x; clear_value x) | apply Qf.replay_sound | apply Qf.clearQp_sound
    | apply Qf.ownChanged_sound | apply Qf.updOwn_sound | split

theorem Qf.takeOver_sound {q : Qf} {x : Ep} (hq : Sound q) : Sound (Qf.takeOver q x) := by
  unfold Qf.takeOver
  with_reducible repeat' first
    | assumption
    | (extract_lets +onlyGivenNames q; guard_hyp q : Qf := _; refine step_sound q ?_ (fun hq => ?_)
       rotate_left; clear_value q; rotate_left; subst q)
    | (extract_lets +onlyGivenNames x; guard_hyp x : QpCtx × Qf := _; refine step_sound x.2 ?_ (fun hx => ?_)
       rotate_left; clear_value x; rotate_left; subst x)
    | (extract_lets +onlyGivenNames x; clear_value x) | refine foldl_sound (fun q x hq => ?_) _ ?_
    | apply Qf.freeCtx_sound | apply Qf.updQp_sound | apply Qf.reclaimQp_sound | apply Qf.sendPlain_sound
    | apply Qf.updOwn_sound | split

theorem Qf.fenceTold_sound {q : Qf} {h : HalfPort} (hq : Sound q) : Sound (Qf.fenceTold q h) := by
  unfold Qf.fenceTold
  with_reducible repeat' first
    | assumption | (extract_lets +onlyGivenNames x; clear_value x) | extract_lets +onlyGivenNames x
    | refine foldl_sound (fun q x hq => ?_) _ ?_ | apply Qf.dequeue_sound | apply Qf.updLink_sound | split

theorem Qf.sendDown_sound {q : Qf} {h : HalfPort} (hq : Sound q) : Sound (Qf.sendDown q h) := by
  unfold Qf.sendDown
  with_reducible repeat' first
    | assumption | apply Qf.updLink_sound | split

theorem Qf.applyMode_sound {q : Qf} {h : HalfPort} (hq : Sound q) : Sound (Qf.applyMode q h) := by
  unfold Qf.applyMode
  with_reducible repeat' first
    | assumption | (extract_lets +onlyGivenNames x; clear_value x) | apply Qf.updLink_sound | split

theorem Qf.ackForLost_sound {q : Qf} {g : Packet} (hq : Sound q) : Sound (Qf.ackForLost q g) := by
  unfold Qf.ackForLost
  with_reducible repeat' first
    | assumption | (extract_lets +onlyGivenNames x; clear_value x) | apply Qf.sendPlain_sound

theorem Qf.snoopForLost_sound {q : Qf} {s : Packet} (hq : Sound q) : Sound (Qf.snoopForLost q s) := by
  unfold Qf.snoopForLost
  with_reducible repeat' first
    | assumption | (extract_lets +onlyGivenNames x; clear_value x) | apply Qf.sendPlain_sound

theorem Qf.requeue1_sound {q : Qf} {e : QPkt} (hq : Sound q) : Sound (Qf.requeue1 q e) := by
  unfold Qf.requeue1
  with_reducible repeat' first
    | assumption
    | (extract_lets +onlyGivenNames q; guard_hyp q : Qf := _; refine step_sound q ?_ (fun hq => ?_)
       rotate_left; clear_value q; rotate_left; subst q)
    | (extract_lets +onlyGivenNames x; clear_value x) | apply Qf.enqueue_sound | apply Qf.noRoute_sound
    | apply Qf.sendFail_sound | apply Qf.ackForLost_sound | apply Qf.freeCells_sound
    | apply Qf.snoopForLost_sound | split

theorem Qf.requeueHalf_sound {q : Qf} {h : HalfPort} (hq : Sound q) : Sound (Qf.requeueHalf q h) := by
  unfold Qf.requeueHalf
  with_reducible repeat' first
    | assumption
    | (extract_lets +onlyGivenNames q; guard_hyp q : Qf := _; refine step_sound q ?_ (fun hq => ?_)
       rotate_left; clear_value q; rotate_left; subst q)
    | (extract_lets +onlyGivenNames x; clear_value x) | extract_lets +onlyGivenNames x
    | refine foldl_sound (fun q x hq => ?_) _ ?_ | apply Qf.requeue1_sound | refine Sound.lit ?_ rfl rfl rfl

theorem Qf.txnPlaced_sound {q : Qf} {n : LineNo} (hq : Sound q) : Sound (Qf.txnPlaced q n) := by
  unfold Qf.txnPlaced
  with_reducible repeat' first
    | assumption
    | (extract_lets +onlyGivenNames q; guard_hyp q : Qf := _; refine step_sound q ?_ (fun hq => ?_)
       rotate_left; clear_value q; rotate_left; subst q)
    | (extract_lets +onlyGivenNames x; clear_value x) | extract_lets +onlyGivenNames x | apply Qf.wbAnswer_sound
    | apply Qf.evalWaits_sound | apply Qf.updTxn_sound | apply Qf.afterSnoops_sound | apply Qf.placedNow_sound
    | split

theorem Qf.refillPage_sound {q : Qf} {n : LineNo} (hq : Sound q) : Sound (Qf.refillPage q n) := by
  unfold Qf.refillPage
  with_reducible repeat' first
    | assumption
    | (extract_lets +onlyGivenNames q; guard_hyp q : Qf := _; refine step_sound q ?_ (fun hq => ?_)
       rotate_left; clear_value q; rotate_left; subst q)
    | (extract_lets +onlyGivenNames x; clear_value x) | extract_lets +onlyGivenNames x
    | refine foldl_sound (fun q x hq => ?_) _ ?_ | apply Qf.dropHot_sound | apply Qf.releaseFrame_sound
    | apply Qf.orderInternal_sound | split | refine Sound.lit ?_ rfl rfl rfl

theorem Qf.trayWriteFail_sound {q : Qf} {w : TrayWrite} {st : Status} (hq : Sound q)
    : Sound (Qf.trayWriteFail q w st) := by
  unfold Qf.trayWriteFail
  with_reducible repeat' first
    | assumption
    | (extract_lets +onlyGivenNames q; guard_hyp q : Qf := _; refine step_sound q ?_ (fun hq => ?_)
       rotate_left; clear_value q; rotate_left; subst q)
    | (extract_lets +onlyGivenNames x; clear_value x) | extract_lets +onlyGivenNames x
    | apply Qf.txnPlaced_sound | apply Qf.failTxn_sound | apply Qf.replicaEnd_sound | apply Qf.answerFail_sound
    | apply Qf.lineFault_sound | apply Qf.refillPage_sound | apply Qf.settle_sound | split
    | refine Sound.lit ?_ rfl rfl rfl

theorem Qf.trayReadFail_sound {q : Qf} {r : TrayRead} {st : Status} (hq : Sound q)
    : Sound (Qf.trayReadFail q r st) := by
  unfold Qf.trayReadFail
  with_reducible repeat' first
    | assumption
    | (extract_lets +onlyGivenNames q; guard_hyp q : Qf := _; refine step_sound q ?_ (fun hq => ?_)
       rotate_left; clear_value q; rotate_left; subst q)
    | (extract_lets +onlyGivenNames x; clear_value x) | extract_lets +onlyGivenNames x
    | apply Qf.gotStored_sound | apply Qf.lineFault_sound | apply Qf.readFor_sound | apply Qf.dropReplica_sound
    | apply Qf.settle_sound | split | refine Sound.lit ?_ rfl rfl rfl

theorem Qf.trayLost_sound {q : Qf} {ep : Ep} (hq : Sound q) : Sound (Qf.trayLost q ep) := by
  unfold Qf.trayLost
  with_reducible repeat' first
    | assumption
    | (extract_lets +onlyGivenNames q; guard_hyp q : Qf := _; refine step_sound q ?_ (fun hq => ?_)
       rotate_left; clear_value q; rotate_left; subst q)
    | (extract_lets +onlyGivenNames x; clear_value x) | extract_lets +onlyGivenNames x
    | refine foldl_sound (fun q x hq => ?_) _ ?_ | apply Qf.scrubStop_sound | apply Qf.trayWriteFail_sound
    | apply Qf.settle_sound | apply Qf.trayReadFail_sound

theorem Qf.setState_sound {q : Qf} {h : HalfPort} {st : LinkState} (hq : Sound q) : Sound (Qf.setState q h st) := by
  unfold Qf.setState
  with_reducible repeat' first
    | assumption | extract_lets +onlyGivenNames x | apply Qf.updLink_sound | apply Qf.sessionEvent_sound

theorem Qf.lowerOne_sound {q : Qf} {h : HalfPort} {reason : Nat} (hq : Sound q) : Sound (Qf.lowerOne q h reason) := by
  unfold Qf.lowerOne
  with_reducible repeat' first
    | assumption
    | (extract_lets +onlyGivenNames q; guard_hyp q : Qf := _; refine step_sound q ?_ (fun hq => ?_)
       rotate_left; clear_value q; rotate_left; subst q)
    | (extract_lets +onlyGivenNames x; clear_value x) | extract_lets +onlyGivenNames x
    | refine foldl_sound (fun q x hq => ?_) _ ?_ | apply Qf.applyMode_sound | apply Qf.requeueHalf_sound
    | apply Qf.colTreeDown_sound | apply Qf.trayLost_sound | apply Qf.setState_sound | apply Qf.fault_sound
    | apply Qf.updLink_sound | apply Qf.ackForLost_sound | apply Qf.snoopForLost_sound | split
    | refine Sound.lit ?_ rfl rfl rfl

theorem Qf.lowerLink_sound {q : Qf} {h : HalfPort} {reason : Nat} (hq : Sound q)
    : Sound (Qf.lowerLink q h reason) := by
  unfold Qf.lowerLink
  with_reducible repeat' first
    | assumption | extract_lets +onlyGivenNames x | refine foldl_sound (fun q x hq => ?_) _ ?_
    | apply Qf.sendDown_sound | apply Qf.lowerOne_sound | split

theorem Qf.fencePort_sound {q : Qf} {h : HalfPort} {b : Bool} (hq : Sound q) : Sound (Qf.fencePort q h b) := by
  unfold Qf.fencePort
  with_reducible repeat' first
    | assumption
    | (extract_lets +onlyGivenNames q; guard_hyp q : Qf := _; refine step_sound q ?_ (fun hq => ?_)
       rotate_left; clear_value q; rotate_left; subst q)
    | extract_lets +onlyGivenNames x | apply Qf.fenceTold_sound | apply Qf.lowerLink_sound
    | apply Qf.sendDown_sound | apply Qf.updLink_sound | split

theorem Qf.applyCommit_sound {q : Qf} {x : Ep} {byManager : Bool} {keep : HalfPort → Bool} (hq : Sound q)
    : Sound (Qf.applyCommit q x byManager keep) := by
  unfold Qf.applyCommit
  with_reducible repeat' first
    | assumption
    | (extract_lets +onlyGivenNames q; guard_hyp q : Qf := _; refine step_sound q ?_ (fun hq => ?_)
       rotate_left; clear_value q; rotate_left; subst q)
    | (extract_lets +onlyGivenNames x; guard_hyp x : Faults := _; subst x) | extract_lets +onlyGivenNames x
    | refine foldl_sound (fun q x hq => ?_) _ ?_ | apply Qf.takeOver_sound | apply Qf.clearSource_sound
    | apply Qf.fencePort_sound | apply Qf.fault_sound | split | refine Sound.lit ?_ rfl rfl rfl

theorem Qf.commitFence_sound {q : Qf} {x : Ep} {byManager : Bool} (hq : Sound q)
    : Sound (Qf.commitFence q x byManager) := by
  unfold Qf.commitFence
  with_reducible repeat' first
    | assumption | extract_lets +onlyGivenNames x | apply Qf.floodFence_sound | apply Qf.applyCommit_sound

theorem Qf.setPortMode_sound {q : Qf} {h : HalfPort} {m : Nat} (hq : Sound q) : Sound (Qf.setPortMode q h m) := by
  unfold Qf.setPortMode
  with_reducible repeat' first
    | assumption | extract_lets +onlyGivenNames x | apply Qf.applyMode_sound | apply Qf.updLink_sound

theorem Qf.markFence_sound {q : Qf} {h : HalfPort} {b : Bool} (hq : Sound q) : Sound (Qf.markFence q h b) := by
  unfold Qf.markFence
  with_reducible repeat' first
    | assumption
    | (extract_lets +onlyGivenNames q; guard_hyp q : Qf := _; refine step_sound q ?_ (fun hq => ?_)
       rotate_left; clear_value q; rotate_left; subst q)
    | (extract_lets +onlyGivenNames x; clear_value x) | apply Qf.fencePort_sound | apply Qf.fault_sound | split

theorem Qf.tally_sound {q : Qf} {x : Ep} (hq : Sound q) : Sound (Qf.tally q x) := by
  unfold Qf.tally
  with_reducible repeat' first
    | assumption | apply Qf.commitFence_sound | split

theorem Qf.vote_sound {q : Qf} {x : Ep} {proposer : Ep} {yes : Bool} (hq : Sound q)
    : Sound (Qf.vote q x proposer yes) := by
  unfold Qf.vote
  with_reducible repeat' first
    | assumption | apply Qf.sendPlain_sound

theorem Qf.updProposal_sound {q : Qf} {x : Ep} {by_ : Ep} {f : Proposal → Proposal} (hq : Sound q)
    : Sound (Qf.updProposal q x by_ f) := by
  unfold Qf.updProposal
  with_reducible repeat' first
    | assumption | (extract_lets +onlyGivenNames x; guard_hyp x : Faults := _; subst x)
    | refine Sound.lit ?_ rfl rfl rfl

theorem Qf.voteYes_sound {q : Qf} {x : Ep} (hq : Sound q) : Sound (Qf.voteYes q x) := by
  unfold Qf.voteYes
  with_reducible repeat' first
    | assumption | extract_lets +onlyGivenNames x | apply Qf.vote_sound | apply Qf.updProposal_sound | split

theorem Qf.suspect_sound {q : Qf} {x : Ep} {evidence : Nat} (hq : Sound q) : Sound (Qf.suspect q x evidence) := by
  unfold Qf.suspect
  with_reducible repeat' first
    | assumption
    | (extract_lets +onlyGivenNames q; guard_hyp q : Qf := _; refine step_sound q ?_ (fun hq => ?_)
       rotate_left; clear_value q; rotate_left; subst q)
    | (extract_lets +onlyGivenNames x; guard_hyp x : Faults := _; subst x)
    | (extract_lets +onlyGivenNames x; clear_value x) | extract_lets +onlyGivenNames x
    | apply Qf.floodFence_sound | apply Qf.tally_sound | apply Qf.voteYes_sound | apply Qf.fault_sound | split
    | refine Sound.lit ?_ rfl rfl rfl

theorem Qf.setFence_sound {q : Qf} {h : HalfPort} {b : Bool} (hq : Sound q) : Sound (Qf.setFence q h b) := by
  unfold Qf.setFence
  with_reducible repeat' first
    | assumption
    | (extract_lets +onlyGivenNames q; guard_hyp q : Qf := _; refine step_sound q ?_ (fun hq => ?_)
       rotate_left; clear_value q; rotate_left; subst q)
    | (extract_lets +onlyGivenNames x; guard_hyp x : Faults := _; subst x)
    | (extract_lets +onlyGivenNames x; clear_value x) | apply Qf.markFence_sound | apply Qf.suspect_sound
    | split | refine Sound.lit ?_ rfl rfl rfl

theorem Qf.setSampler_sound {q : Qf} {k : Nat} {n : BitVec 16} (hq : Sound q) : Sound (Qf.setSampler q k n) := by
  unfold Qf.setSampler
  with_reducible repeat' first
    | assumption | (extract_lets +onlyGivenNames x; clear_value x) | refine Sound.lit ?_ rfl rfl rfl

theorem Qf.purgeQueue_sound {q : Qf} {h : HalfPort} {vc : BitVec 3} (hq : Sound q)
    : Sound (Qf.purgeQueue q h vc) := by
  unfold Qf.purgeQueue
  with_reducible repeat' first
    | assumption
    | (extract_lets +onlyGivenNames q; guard_hyp q : Qf := _; refine step_sound q ?_ (fun hq => ?_)
       rotate_left; clear_value q; rotate_left; subst q)
    | (extract_lets +onlyGivenNames x; clear_value x) | extract_lets +onlyGivenNames x
    | refine foldl_sound (fun q x hq => ?_) _ ?_ | apply Qf.dequeue_sound | refine Sound.lit ?_ rfl rfl rfl

theorem Qf.tick_sound {q : Qf} (hq : Sound q) : Sound (Qf.tick q) := by
  unfold Qf.tick
  with_reducible repeat' first
    | assumption | (extract_lets +onlyGivenNames x; clear_value x) | split | refine Sound.lit ?_ rfl rfl rfl

theorem Qf.trayWritten_sound {q : Qf} {w : TrayWrite} (hq : Sound q) : Sound (Qf.trayWritten q w) := by
  unfold Qf.trayWritten
  with_reducible repeat' first
    | assumption
    | (extract_lets +onlyGivenNames q; guard_hyp q : Qf := _; refine step_sound q ?_ (fun hq => ?_)
       rotate_left; clear_value q; rotate_left; subst q)
    | (extract_lets +onlyGivenNames x; clear_value x) | extract_lets +onlyGivenNames x
    | apply Qf.txnPlaced_sound | apply Qf.replicaWrote_sound | apply Qf.wbPlaced_sound | apply Qf.settle_sound
    | split | refine Sound.lit ?_ rfl rfl rfl

theorem Qf.trayDone_sound {q : Qf} {ep : Ep} {tag : Tag} (hq : Sound q) : Sound (Qf.trayDone q ep tag) := by
  unfold Qf.trayDone
  with_reducible repeat' first
    | assumption | (extract_lets +onlyGivenNames x; clear_value x) | extract_lets +onlyGivenNames x
    | apply Qf.trayWritten_sound | apply Qf.scrubDone_sound | apply Qf.settle_sound | split
    | refine Sound.lit ?_ rfl rfl rfl

theorem Qf.trayFail_sound {q : Qf} {ep : Ep} {tag : Tag} {st : Status} (hq : Sound q)
    : Sound (Qf.trayFail q ep tag st) := by
  unfold Qf.trayFail
  with_reducible repeat' first
    | assumption | extract_lets +onlyGivenNames x | apply Qf.scrubStop_sound | apply Qf.trayWriteFail_sound
    | apply Qf.settle_sound | apply Qf.trayReadFail_sound | split

theorem Qf.trayGot_sound {q : Qf} {r : TrayRead} {s : StoredLine} (hq : Sound q) : Sound (Qf.trayGot q r s) := by
  unfold Qf.trayGot
  with_reducible repeat' first
    | assumption
    | (extract_lets +onlyGivenNames q; guard_hyp q : Qf := _; refine step_sound q ?_ (fun hq => ?_)
       rotate_left; clear_value q; rotate_left; subst q)
    | (extract_lets +onlyGivenNames x; clear_value x) | extract_lets +onlyGivenNames x
    | apply Qf.gotStored_sound | apply Qf.settle_sound | split | refine Sound.lit ?_ rfl rfl rfl

theorem Qf.cxlTrayEnd_sound {q : Qf} {ep : Ep} {o : CxlTrayOp} (hq : Sound q) : Sound (Qf.cxlTrayEnd q ep o) := by
  unfold Qf.cxlTrayEnd
  with_reducible repeat' first
    | assumption | apply Qf.trayDone_sound | apply Qf.trayFail_sound | apply Qf.trayGot_sound | split

theorem execCxlTrayMemCompletion_sound {c : CxlTrayCpl} {s : State} (hq : Sound s.qf)
    : ∃ q, execCxlTrayMemCompletion c s = .next { s with qf := q } ∧ Sound q := by
  unfold execCxlTrayMemCompletion done
  refine ⟨_, rfl, ?_⟩
  with_reducible repeat' first
    | assumption | (extract_lets +onlyGivenNames x; clear_value x) | extract_lets +onlyGivenNames x
    | apply Qf.cxlTrayEnd_sound | apply Qf.updLink_sound | split | refine Sound.lit ?_ rfl rfl rfl

theorem Qf.passSlots_sound {q : Qf} {h : HalfPort} {o : HalfPort} {ss : List (BitVec 128)} {last : Bool}
    (hq : Sound q) : Sound (Qf.passSlots q h o ss last) := by
  unfold Qf.passSlots
  with_reducible repeat' first
    | assumption | (extract_lets +onlyGivenNames x; clear_value x) | extract_lets +onlyGivenNames x
    | apply Qf.updLink_sound | split

theorem Qf.cutMore_sound {q : Qf} {h : HalfPort} {ss : List (BitVec 128)} {n : Nat} {headers : Nat}
    (hq : Sound q) : Sound (Qf.cutMore q h ss n headers) := by
  unfold Qf.cutMore
  with_reducible repeat' first
    | assumption
    | (extract_lets +onlyGivenNames q; guard_hyp q : Qf := _; refine step_sound q ?_ (fun hq => ?_)
       rotate_left; clear_value q; rotate_left; subst q)
    | extract_lets +onlyGivenNames x | apply Qf.passSlots_sound | apply Qf.chargeCut_sound
    | apply Qf.updLink_sound | split

theorem Qf.refusedPkt_sound {q : Qf} {h : HalfPort} {st : Status} (hq : Sound q) : Sound (Qf.refusedPkt q h st) := by
  unfold Qf.refusedPkt
  with_reducible repeat' first
    | assumption | apply Qf.fault_sound

theorem Qf.discard_sound {q : Qf} {h : HalfPort} {st : Status} (hq : Sound q) : Sound (Qf.discard q h st) := by
  unfold Qf.discard
  with_reducible repeat' first
    | assumption | extract_lets +onlyGivenNames x | apply Qf.updLink_sound | apply Qf.refusedPkt_sound

theorem Qf.freeCredits_sound {q : Qf} {h : HalfPort} {p : Packet} (hq : Sound q) : Sound (Qf.freeCredits q h p) := by
  unfold Qf.freeCredits
  with_reducible repeat' first
    | assumption | apply Qf.updLink_sound

theorem Qf.toHost_sound {q : Qf} {h : HalfPort} {p : Packet} (hq : Sound q) : Sound (Qf.toHost q h p) := by
  unfold Qf.toHost
  with_reducible repeat' first
    | assumption
    | (extract_lets +onlyGivenNames q; guard_hyp q : Qf := _; refine step_sound q ?_ (fun hq => ?_)
       rotate_left; clear_value q; rotate_left; subst q)
    | (extract_lets +onlyGivenNames x; clear_value x) | apply Qf.updLink_sound | apply Qf.ackForLost_sound
    | split

theorem Qf.transmit_sound {q : Qf} {h : HalfPort} {p : Packet} (hq : Sound q) : Sound (Qf.transmit q h p) := by
  unfold Qf.transmit
  with_reducible repeat' first
    | assumption | apply Qf.toHost_sound | apply Qf.updLink_sound | split

theorem Qf.afterDown_sound {q : Qf} {h : HalfPort} {l : Link} (hq : Sound q) : Sound (Qf.afterDown q h l) := by
  unfold Qf.afterDown
  with_reducible repeat' first
    | assumption
    | (extract_lets +onlyGivenNames q; guard_hyp q : Qf := _; refine step_sound q ?_ (fun hq => ?_)
       rotate_left; clear_value q; rotate_left; subst q)
    | apply Qf.markFence_sound | apply Qf.suspect_sound | split

theorem Qf.linkDown_sound {q : Qf} {h : HalfPort} {reason : Nat} (hq : Sound q) : Sound (Qf.linkDown q h reason) := by
  unfold Qf.linkDown
  with_reducible repeat' first
    | assumption | (extract_lets +onlyGivenNames x; clear_value x) | extract_lets +onlyGivenNames x
    | refine foldl_sound (fun q x hq => ?_) _ ?_ | apply Qf.lowerLink_sound | apply Qf.afterDown_sound

theorem Qf.arrive_sound {q : Qf} {h : HalfPort} {p : Packet} (hq : Sound q) : Sound (Qf.arrive q h p) := by
  unfold Qf.arrive
  with_reducible repeat' first
    | assumption
    | (extract_lets +onlyGivenNames q; guard_hyp q : Qf := _; refine step_sound q ?_ (fun hq => ?_)
       rotate_left; clear_value q; rotate_left; subst q)
    | (extract_lets +onlyGivenNames x; clear_value x) | extract_lets +onlyGivenNames x | apply Qf.discard_sound
    | apply Qf.fault_sound | apply Qf.freeCredits_sound | apply Qf.sample_sound | apply Qf.chargeCut_sound
    | apply Qf.failClient_sound | apply Qf.transmit_sound | apply Qf.updLink_sound | apply Qf.linkDown_sound
    | apply Qf.sendFail_sound | apply Qf.refusedPkt_sound | split

theorem Qf.cutEnd_sound {q : Qf} {h : HalfPort} {o : HalfPort} {p : Packet} (hq : Sound q)
    : Sound (Qf.cutEnd q h o p) := by
  unfold Qf.cutEnd
  with_reducible repeat' first
    | assumption
    | (extract_lets +onlyGivenNames q; guard_hyp q : Qf := _; refine step_sound q ?_ (fun hq => ?_)
       rotate_left; clear_value q; rotate_left; subst q)
    | extract_lets +onlyGivenNames x | apply Qf.passSlots_sound | apply Qf.freeCredits_sound
    | apply Qf.sample_sound | apply Qf.updLink_sound

theorem Qf.takeSlots_sound {a1 : Nat} {a2 : HalfPort} {a3 : List (BitVec 128)} {q : Qf} (hq : Sound q)
    : Sound (Qf.takeSlots a1 a2 a3 q) := by
  induction a1 generalizing a2 a3 q with
  | zero =>
    unfold Qf.takeSlots
    with_reducible repeat' (assumption)
  | succ n ih =>
    unfold Qf.takeSlots
    with_reducible repeat' first
      | assumption | intro q hq
      | (extract_lets +onlyGivenNames x; guard_hyp x : Qf → Qf := _
         refine stepP (P := ∀ y0, Sound y0 → Sound (x y0)) ?_ (fun hl0 => ?_); rotate_left; clear_value x
         rotate_left; subst x)
      | (extract_lets +onlyGivenNames x; clear_value x) | extract_lets +onlyGivenNames x | apply ih | apply hl0
      | apply Qf.cutMore_sound | apply Qf.arrive_sound | apply Qf.updLink_sound | apply Qf.linkDown_sound
      | apply Qf.cutEnd_sound | split

theorem execFrameLockLoss_sound {h : HalfPort} {s : State} (hq : Sound s.qf)
    : ∃ q, execFrameLockLoss h s = .next { s with qf := q } ∧ Sound q := by
  unfold execFrameLockLoss done
  refine ⟨_, rfl, ?_⟩
  with_reducible repeat' first
    | assumption | extract_lets +onlyGivenNames x | apply Qf.linkDown_sound | split
    | refine Sound.lit ?_ rfl rfl rfl

theorem Qf.fatalBut_sound {q : Qf} {cls : Nat} {i : FaultInfo} {keep : HalfPort → Bool} (hq : Sound q)
    : Sound (Qf.fatalBut q cls i keep) := by
  unfold Qf.fatalBut
  with_reducible repeat' first
    | assumption | extract_lets +onlyGivenNames x | apply Qf.floodFence_sound | apply Qf.applyCommit_sound
    | apply Qf.faultSev_sound

theorem Qf.fatal_sound {q : Qf} {cls : Nat} {i : FaultInfo} (hq : Sound q) : Sound (Qf.fatal q cls i) := by
  unfold Qf.fatal
  with_reducible repeat' first
    | assumption | apply Qf.fatalBut_sound

theorem Qf.drainAccepted_sound {q : Qf} (hq : Sound q) : Sound (Qf.drainAccepted q) := by
  unfold Qf.drainAccepted
  with_reducible repeat' first
    | assumption
    | (extract_lets +onlyGivenNames q; guard_hyp q : Qf := _; refine step_sound q ?_ (fun hq => ?_)
       rotate_left; clear_value q; rotate_left; subst q)
    | extract_lets +onlyGivenNames x | refine foldl_sound (fun q x hq => ?_) _ ?_ | apply Qf.updTxn_sound
    | apply Qf.checkSnoops_sound | apply Qf.trayReadFail_sound

theorem execRouteWrite_sound {m : MgrRef} {first : BitVec 16} {count : BitVec 16} {entries : List (BitVec 64)}
    {s : State} (hq : Sound s.qf)
    : ∃ q, execRouteWrite m first count entries s = .next { s with qf := q } ∧ Sound q := by
  unfold execRouteWrite done
  refine ⟨_, rfl, ?_⟩
  with_reducible repeat' first
    | assumption | intro q hq | (extract_lets +onlyGivenNames x; clear_value x) | extract_lets +onlyGivenNames x
    | apply Qf.mgr_sound | apply Qf.complete_sound | refine Sound.lit ?_ rfl rfl rfl

theorem execDown_sound {h : HalfPort} {s : State} (hq : Sound s.qf)
    : ∃ q, execDown h s = .next { s with qf := q } ∧ Sound q := by
  unfold execDown done
  refine ⟨_, rfl, ?_⟩
  with_reducible repeat' first
    | assumption | extract_lets +onlyGivenNames x | apply Qf.linkDown_sound | split
    | refine Sound.lit ?_ rfl rfl rfl

theorem Qf.sendCtl_sound {q : Qf} {h : HalfPort} {m : CtlMsg} (hq : Sound q) : Sound (Qf.sendCtl q h m) := by
  unfold Qf.sendCtl
  with_reducible repeat' first
    | assumption | apply Qf.updLink_sound

theorem Qf.takeMirror_sound {q : Qf} {p : Packet} (hq : Sound q) : Sound (Qf.takeMirror q p) := by
  unfold Qf.takeMirror
  with_reducible repeat' first
    | assumption | (extract_lets +onlyGivenNames x; clear_value x) | extract_lets +onlyGivenNames x
    | apply Qf.sendPlain_sound | refine Sound.lit ?_ rfl rfl rfl

theorem Qf.replayAll_sound {q : Qf} {h : HalfPort} {nak : Option (BitVec 10)} (hq : Sound q)
    : Sound (Qf.replayAll q h nak) := by
  unfold Qf.replayAll
  with_reducible repeat' first
    | assumption
    | (extract_lets +onlyGivenNames q; guard_hyp q : Qf := _; refine step_sound q ?_ (fun hq => ?_)
       rotate_left; clear_value q; rotate_left; subst q)
    | apply Qf.updLink_sound | apply Qf.linkDown_sound | split

theorem execOwnerLeaseStop_sound {n : QpKey} {s : State} (hq : Sound s.qf)
    : ∃ q, execOwnerLeaseStop n s = .next { s with qf := q } ∧ Sound q := by
  unfold execOwnerLeaseStop done
  refine ⟨_, rfl, ?_⟩
  with_reducible repeat' first
    | assumption | extract_lets +onlyGivenNames x | apply Qf.clearQp_sound | apply Qf.qpStop_sound | split
    | refine Sound.lit ?_ rfl rfl rfl

theorem Qf.countFrame_sound {q : Qf} {h : HalfPort} (hq : Sound q) : Sound (Qf.countFrame q h) := by
  unfold Qf.countFrame
  with_reducible repeat' first
    | assumption | apply Qf.updLink_sound

theorem Qf.train_sound {q : Qf} {h : HalfPort} {st : LinkState} {f : Qf → Qf} (hq : Sound q)
    (hf1 : ∀ y0, Sound y0 → Sound (f y0)) : Sound (Qf.train q h st f) := by
  unfold Qf.train
  with_reducible repeat' first
    | assumption | apply hf1 | split

theorem execSessionKem_sound {h : HalfPort} {ct : List Byte} {s : State} (hq : Sound s.qf)
    : ∃ q, execSessionKem h ct s = .next { s with qf := q } ∧ Sound q := by
  unfold execSessionKem done
  refine ⟨_, rfl, ?_⟩
  with_reducible repeat' first
    | assumption | intro q hq | (extract_lets +onlyGivenNames x; clear_value x) | extract_lets +onlyGivenNames x
    | apply Qf.train_sound | apply Qf.updLink_sound | apply Qf.sendCtl_sound | split

theorem Qf.ownRefuse_sound {q : Qf} {p : Packet} {m : OwnMsg} (hq : Sound q) : Sound (Qf.ownRefuse q p m) := by
  unfold Qf.ownRefuse
  with_reducible repeat' first
    | assumption | (extract_lets +onlyGivenNames x; clear_value x) | apply Qf.sendPlain_sound

theorem Qf.takeRenew_sound {q : Qf} {p : Packet} {m : OwnMsg} (hq : Sound q) : Sound (Qf.takeRenew q p m) := by
  unfold Qf.takeRenew
  with_reducible repeat' first
    | assumption
    | (extract_lets +onlyGivenNames q; guard_hyp q : Qf := _; refine step_sound q ?_ (fun hq => ?_)
       rotate_left; clear_value q; rotate_left; subst q)
    | apply Qf.ownRefuse_sound | apply Qf.ownChanged_sound | apply Qf.updOwn_sound | split

theorem Qf.admitStalled_sound {q : Qf} {i : Ingress} {vc : BitVec 3} (hq : Sound q)
    : Sound (Qf.admitStalled q i vc) := by
  unfold Qf.admitStalled
  with_reducible repeat' first
    | assumption | intro q hq
    | (extract_lets +onlyGivenNames x; guard_hyp x : Qf → Qf := _
       refine stepP (P := ∀ y0, Sound y0 → Sound (x y0)) ?_ (fun hl0 => ?_); rotate_left; clear_value x
       rotate_left; subst x)
    | (extract_lets +onlyGivenNames x; clear_value x) | extract_lets +onlyGivenNames x | apply hl0
    | apply Qf.noWay_sound | apply Qf.enqueue_sound | apply Qf.noRoute_sound | split
    | refine Sound.lit ?_ rfl rfl rfl

theorem execPacketAdmit_sound {i : Ingress} {vc : BitVec 3} {s : State} (hq : Sound s.qf)
    : ∃ q, execPacketAdmit i vc s = .next { s with qf := q } ∧ Sound q := by
  unfold execPacketAdmit done
  refine ⟨_, rfl, ?_⟩
  with_reducible repeat' first
    | assumption
    | (extract_lets +onlyGivenNames x; guard_hyp x : Bool × Qf := _; refine step_sound x.2 ?_ (fun hx => ?_)
       rotate_left; clear_value x; rotate_left; subst x)
    | extract_lets +onlyGivenNames x | apply Qf.badCells_sound | apply Qf.readCells_sound
    | apply Qf.transit_sound | apply Qf.admitStalled_sound | apply Qf.take_sound | apply Qf.combine_sound
    | split | refine Sound.lit ?_ rfl rfl rfl

theorem execCap_sound {h : HalfPort} {c : CapMsg} {s : State} (hq : Sound s.qf)
    : ∃ q, execCap h c s = .next { s with qf := q } ∧ Sound q := by
  unfold execCap done
  refine ⟨_, rfl, ?_⟩
  with_reducible repeat' first
    | assumption | intro q hq
    | (extract_lets +onlyGivenNames q; guard_hyp q : Qf := _; refine step_sound q ?_ (fun hq => ?_)
       rotate_left; clear_value q; rotate_left; subst q)
    | (extract_lets +onlyGivenNames x; guard_hyp x : BitVec 64 × Qf := _
       refine step_sound x.2 ?_ (fun hx => ?_); rotate_left; clear_value x; rotate_left; subst x)
    | (extract_lets +onlyGivenNames x; clear_value x) | extract_lets +onlyGivenNames x | apply Qf.takeFree_sound
    | apply Qf.setState_sound | apply Qf.train_sound | apply Qf.updLink_sound | apply Qf.linkDown_sound
    | apply Qf.sendCtl_sound | split

theorem execRateUp_sound {h : HalfPort} {good : Bool} {s : State} (hq : Sound s.qf)
    : ∃ q, execRateUp h good s = .next { s with qf := q } ∧ Sound q := by
  unfold execRateUp done
  refine ⟨_, rfl, ?_⟩
  with_reducible repeat' first
    | assumption
    | (extract_lets +onlyGivenNames q; guard_hyp q : Qf := _; refine step_sound q ?_ (fun hq => ?_)
       rotate_left; clear_value q; rotate_left; subst q)
    | (extract_lets +onlyGivenNames x; clear_value x) | extract_lets +onlyGivenNames x | apply Qf.setState_sound
    | apply Qf.fault_sound | apply Qf.updLink_sound | split | refine Sound.lit ?_ rfl rfl rfl

theorem Qf.takeClaim_sound {q : Qf} {p : Packet} {m : OwnMsg} (hq : Sound q) : Sound (Qf.takeClaim q p m) := by
  unfold Qf.takeClaim
  with_reducible repeat' first
    | assumption
    | (extract_lets +onlyGivenNames q; guard_hyp q : Qf := _; refine step_sound q ?_ (fun hq => ?_)
       rotate_left; clear_value q; rotate_left; subst q)
    | apply Qf.clearQp_sound | apply Qf.ownRefuse_sound | apply Qf.ownChanged_sound | apply Qf.updOwn_sound
    | split

theorem Qf.ownMsg_sound {q : Qf} {i : Ingress} {p : Packet} {f : Qf → Qf} (hq : Sound q)
    (hf1 : ∀ y0, Sound y0 → Sound (f y0)) : Sound (Qf.ownMsg q i p f) := by
  unfold Qf.ownMsg
  with_reducible repeat' first
    | assumption | extract_lets +onlyGivenNames x | apply Qf.transit_sound | apply Qf.take_sound | apply hf1
    | split

theorem execClaim_sound {i : Ingress} {p : Packet} {s : State} (hq : Sound s.qf)
    : ∃ q, execClaim i p s = .next { s with qf := q } ∧ Sound q := by
  unfold execClaim done
  refine ⟨_, rfl, ?_⟩
  with_reducible repeat' first
    | assumption | intro q hq | extract_lets +onlyGivenNames x | apply Qf.takeClaim_sound
    | apply Qf.ownMsg_sound

theorem execOwnMirror_sound {i : Ingress} {p : Packet} {s : State} (hq : Sound s.qf)
    : ∃ q, execOwnMirror i p s = .next { s with qf := q } ∧ Sound q := by
  unfold execOwnMirror done
  refine ⟨_, rfl, ?_⟩
  with_reducible repeat' first
    | assumption | intro q hq | extract_lets +onlyGivenNames x | apply Qf.takeMirror_sound
    | apply Qf.ownMsg_sound

theorem execRekey_sound {h : HalfPort} {s : State} (hq : Sound s.qf)
    : ∃ q, execRekey h s = .next { s with qf := q } ∧ Sound q := by
  unfold execRekey done
  refine ⟨_, rfl, ?_⟩
  with_reducible repeat' first
    | assumption | extract_lets +onlyGivenNames x | apply Qf.updLink_sound | apply Qf.linkDown_sound | split
    | refine Sound.lit ?_ rfl rfl rfl

theorem Qf.takeTransfer_sound {q : Qf} {m : OwnMsg} (hq : Sound q) : Sound (Qf.takeTransfer q m) := by
  unfold Qf.takeTransfer
  with_reducible repeat' first
    | assumption
    | (extract_lets +onlyGivenNames q; guard_hyp q : Qf := _; refine step_sound q ?_ (fun hq => ?_)
       rotate_left; clear_value q; rotate_left; subst q)
    | (extract_lets +onlyGivenNames x; guard_hyp x : QpCtx × Qf := _; refine step_sound x.2 ?_ (fun hx => ?_)
       rotate_left; clear_value x; rotate_left; subst x)
    | (extract_lets +onlyGivenNames x; clear_value x) | apply Qf.freeCtx_sound | apply Qf.sendOwn_sound
    | apply Qf.updQp_sound | split

theorem execTransfer_sound {i : Ingress} {p : Packet} {s : State} (hq : Sound s.qf)
    : ∃ q, execTransfer i p s = .next { s with qf := q } ∧ Sound q := by
  unfold execTransfer done
  refine ⟨_, rfl, ?_⟩
  with_reducible repeat' first
    | assumption | intro q hq | extract_lets +onlyGivenNames x | apply Qf.ownMsg_sound
    | apply Qf.takeTransfer_sound

theorem execSessionHello_sound {h : HalfPort} {c : HelloMsg} {s : State} (hq : Sound s.qf)
    : ∃ q, execSessionHello h c s = .next { s with qf := q } ∧ Sound q := by
  unfold execSessionHello done
  refine ⟨_, rfl, ?_⟩
  with_reducible repeat' first
    | assumption | intro q hq
    | (extract_lets +onlyGivenNames q; guard_hyp q : Qf := _; refine step_sound q ?_ (fun hq => ?_)
       rotate_left; clear_value q; rotate_left; subst q)
    | extract_lets +onlyGivenNames x | apply Qf.train_sound | apply Qf.updLink_sound | apply Qf.linkDown_sound
    | apply Qf.sendCtl_sound | split

theorem execGateEntryChange_sound {_h : HalfPort} {s : State} (hq : Sound s.qf)
    : ∃ q, execGateEntryChange _h s = .next { s with qf := q } ∧ Sound q := by
  unfold execGateEntryChange done
  refine ⟨_, rfl, ?_⟩
  with_reducible repeat' (assumption)

theorem execTrayDone_sound {i : Ingress} {p : Packet} {s : State} (hq : Sound s.qf)
    : ∃ q, execTrayDone i p s = .next { s with qf := q } ∧ Sound q := by
  unfold execTrayDone done
  refine ⟨_, rfl, ?_⟩
  with_reducible repeat' first
    | assumption | intro q hq | extract_lets +onlyGivenNames x | apply Qf.trayDone_sound
    | apply Qf.forHome_sound | apply Qf.take_sound | split | apply ok_id | refine Sound.lit ?_ rfl rfl rfl

theorem execReplayTimeout_sound {h : HalfPort} {s : State} (hq : Sound s.qf)
    : ∃ q, execReplayTimeout h s = .next { s with qf := q } ∧ Sound q := by
  unfold execReplayTimeout done
  refine ⟨_, rfl, ?_⟩
  with_reducible repeat' first
    | assumption | extract_lets +onlyGivenNames x | apply Qf.replayAll_sound | split
    | refine Sound.lit ?_ rfl rfl rfl

theorem Qf.dropUnversioned_sound {q : Qf} {h : HalfPort} (hq : Sound q) : Sound (Qf.dropUnversioned q h) := by
  unfold Qf.dropUnversioned
  with_reducible repeat' first
    | assumption
    | (extract_lets +onlyGivenNames q; guard_hyp q : Qf := _; refine step_sound q ?_ (fun hq => ?_)
       rotate_left; clear_value q; rotate_left; subst q)
    | (extract_lets +onlyGivenNames x; clear_value x) | extract_lets +onlyGivenNames x
    | refine foldl_sound (fun q x hq => ?_) _ ?_ | apply Qf.dequeue_sound | apply Qf.discard_sound
    | apply Qf.sendFail_sound | apply Qf.refusedPkt_sound | split

theorem Qf.noteWaits_sound {q : Qf} {h : HalfPort} (hq : Sound q) : Sound (Qf.noteWaits q h) := by
  unfold Qf.noteWaits
  with_reducible repeat' first
    | assumption | (extract_lets +onlyGivenNames x; clear_value x) | refine foldl_sound (fun q x hq => ?_) _ ?_
    | split | refine Sound.lit ?_ rfl rfl rfl

theorem Qf.depart_sound {q : Qf} {h : HalfPort} {c : Nat} {x : QPkt} (hq : Sound q) : Sound (Qf.depart q h c x) := by
  unfold Qf.depart
  with_reducible repeat' first
    | assumption
    | (extract_lets +onlyGivenNames q; guard_hyp q : Qf := _; refine step_sound q ?_ (fun hq => ?_)
       rotate_left; clear_value q; rotate_left; subst q)
    | (extract_lets +onlyGivenNames x; guard_hyp x : Bool × Qf := _; refine step_sound x.2 ?_ (fun hx => ?_)
       rotate_left; clear_value x; rotate_left; subst x)
    | (extract_lets +onlyGivenNames x; clear_value x) | extract_lets +onlyGivenNames x | apply Qf.tookTurn_sound
    | apply Qf.badCells_sound | apply Qf.readCells_sound | apply Qf.dequeue_sound | apply Qf.sample_sound
    | apply Qf.chargeEgress_sound | apply Qf.transmit_sound | split

theorem execPacketDepart_sound {h : HalfPort} {s : State} (hq : Sound s.qf)
    : ∃ q, execPacketDepart h s = .next { s with qf := q } ∧ Sound q := by
  unfold execPacketDepart done
  refine ⟨_, rfl, ?_⟩
  with_reducible repeat' first
    | assumption
    | (extract_lets +onlyGivenNames q; guard_hyp q : Qf := _; refine step_sound q ?_ (fun hq => ?_)
       rotate_left; clear_value q; rotate_left; subst q)
    | (extract_lets +onlyGivenNames x; clear_value x) | extract_lets +onlyGivenNames x
    | apply Qf.updEgress_sound | apply Qf.dropUnversioned_sound | apply Qf.noteWaits_sound
    | apply Qf.depart_sound | split | refine Sound.lit ?_ rfl rfl rfl

theorem execSessionFinish_sound {h : HalfPort} {rsaSig : List Byte} {mldsaSig : List Byte} {s : State}
    (hq : Sound s.qf) : ∃ q, execSessionFinish h rsaSig mldsaSig s = .next { s with qf := q } ∧ Sound q := by
  unfold execSessionFinish done
  refine ⟨_, rfl, ?_⟩
  with_reducible repeat' first
    | assumption | intro q hq
    | (extract_lets +onlyGivenNames q; guard_hyp q : Qf := _; refine step_sound q ?_ (fun hq => ?_)
       rotate_left; clear_value q; rotate_left; subst q)
    | (extract_lets +onlyGivenNames x; clear_value x) | extract_lets +onlyGivenNames x | apply Qf.setState_sound
    | apply Qf.train_sound | apply Qf.updLink_sound | apply Qf.linkDown_sound | apply Qf.sendCtl_sound | split

theorem execRekeyInterval_sound {h : HalfPort} {s : State} (hq : Sound s.qf)
    : ∃ q, execRekeyInterval h s = .next { s with qf := q } ∧ Sound q := by
  unfold execRekeyInterval done
  refine ⟨_, rfl, ?_⟩
  with_reducible repeat' first
    | assumption | (extract_lets +onlyGivenNames x; clear_value x) | extract_lets +onlyGivenNames x
    | apply Qf.updLink_sound | apply Qf.linkDown_sound | split | refine Sound.lit ?_ rfl rfl rfl

theorem execOwnMirrorAck_sound {i : Ingress} {p : Packet} {s : State} (hq : Sound s.qf)
    : ∃ q, execOwnMirrorAck i p s = .next { s with qf := q } ∧ Sound q := by
  unfold execOwnMirrorAck done
  refine ⟨_, rfl, ?_⟩
  with_reducible repeat' first
    | assumption | intro q hq | (extract_lets +onlyGivenNames x; clear_value x) | extract_lets +onlyGivenNames x
    | apply Qf.sendPlain_sound | apply Qf.updOwn_sound | apply Qf.ownMsg_sound | split

theorem execRouteBankEmpty_sound {s : State} (hq : Sound s.qf)
    : ∃ q, execRouteBankEmpty s = .next { s with qf := q } ∧ Sound q := by
  unfold execRouteBankEmpty done
  refine ⟨_, rfl, ?_⟩
  with_reducible repeat' first
    | assumption | (extract_lets +onlyGivenNames x; clear_value x) | extract_lets +onlyGivenNames x | split
    | refine Sound.lit ?_ rfl rfl rfl

theorem execControlMessageRepeat_sound {h : HalfPort} {s : State} (hq : Sound s.qf)
    : ∃ q, execControlMessageRepeat h s = .next { s with qf := q } ∧ Sound q := by
  unfold execControlMessageRepeat done
  refine ⟨_, rfl, ?_⟩
  with_reducible repeat' first
    | assumption | extract_lets +onlyGivenNames x | apply Qf.updLink_sound | apply Qf.sendCtl_sound | split
    | refine Sound.lit ?_ rfl rfl rfl

theorem execEqualizeDone_sound {h : HalfPort} {good : Bool} {s : State} (hq : Sound s.qf)
    : ∃ q, execEqualizeDone h good s = .next { s with qf := q } ∧ Sound q := by
  unfold execEqualizeDone done
  refine ⟨_, rfl, ?_⟩
  with_reducible repeat' first
    | assumption | intro q hq | extract_lets +onlyGivenNames x | apply Qf.setState_sound | apply Qf.train_sound
    | split

theorem execStuckQueue_sound {h : HalfPort} {vc : BitVec 3} {s : State} (hq : Sound s.qf)
    : ∃ q, execStuckQueue h vc s = .next { s with qf := q } ∧ Sound q := by
  unfold execStuckQueue done
  refine ⟨_, rfl, ?_⟩
  with_reducible repeat' first
    | assumption
    | (extract_lets +onlyGivenNames q; guard_hyp q : Qf := _; refine step_sound q ?_ (fun hq => ?_)
       rotate_left; clear_value q; rotate_left; subst q)
    | (extract_lets +onlyGivenNames x; clear_value x) | extract_lets +onlyGivenNames x | apply Qf.fault_sound
    | apply Qf.noteWaits_sound | apply Qf.suspect_sound | split | refine Sound.lit ?_ rfl rfl rfl

theorem execFrameLock_sound {h : HalfPort} {good : Bool} {s : State} (hq : Sound s.qf)
    : ∃ q, execFrameLock h good s = .next { s with qf := q } ∧ Sound q := by
  unfold execFrameLock done
  refine ⟨_, rfl, ?_⟩
  with_reducible repeat' first
    | assumption | intro q hq | extract_lets +onlyGivenNames x | apply Qf.setState_sound | apply Qf.train_sound
    | apply Qf.updLink_sound | apply Qf.sendCtl_sound | split

theorem execLinkStateTimeout_sound {h : HalfPort} {s : State} (hq : Sound s.qf)
    : ∃ q, execLinkStateTimeout h s = .next { s with qf := q } ∧ Sound q := by
  unfold execLinkStateTimeout done
  refine ⟨_, rfl, ?_⟩
  with_reducible repeat' first
    | assumption | extract_lets +onlyGivenNames x | apply Qf.linkDown_sound | split
    | refine Sound.lit ?_ rfl rfl rfl

theorem execCreditInit_sound {h : HalfPort} {credits : List (BitVec 14)} {s : State} (hq : Sound s.qf)
    : ∃ q, execCreditInit h credits s = .next { s with qf := q } ∧ Sound q := by
  unfold execCreditInit done
  refine ⟨_, rfl, ?_⟩
  with_reducible repeat' first
    | assumption | intro q hq
    | (extract_lets +onlyGivenNames q; guard_hyp q : Qf := _; refine step_sound q ?_ (fun hq => ?_)
       rotate_left; clear_value q; rotate_left; subst q)
    | extract_lets +onlyGivenNames x | apply Qf.setState_sound | apply Qf.train_sound | apply Qf.updLink_sound
    | apply Qf.linkDown_sound | apply Qf.sendCtl_sound | split

theorem execBiRsp_sound {h : HalfPort} {tag : Tag} {state : BitVec 2} {data : List Byte} {s : State}
    (hq : Sound s.qf) : ∃ q, execBiRsp h tag state data s = .next { s with qf := q } ∧ Sound q := by
  unfold execBiRsp done
  refine ⟨_, rfl, ?_⟩
  with_reducible repeat' first
    | assumption | intro q hq | intro _
    | (extract_lets +onlyGivenNames q; guard_hyp q : Qf := _; refine step_sound q ?_ (fun hq => ?_)
       rotate_left; clear_value q; rotate_left; subst q)
    | (extract_lets +onlyGivenNames x; guard_hyp x : Qf → Qf := _
       refine stepP (P := ∀ y0, Sound y0 → Sound (x y0)) ?_ (fun hl0 => ?_); rotate_left; clear_value x
       rotate_left; subst x)
    | (extract_lets +onlyGivenNames x; clear_value x) | extract_lets +onlyGivenNames x
    | apply Qf.homeDirty_sound | apply Qf.ownerShares_sound | apply Qf.transit_sound | apply Qf.dropHolder_sound
    | apply Qf.forHome_sound | apply Qf.snoopAnswer_sound | apply Qf.updLink_sound | split
    | refine Sound.lit ?_ rfl rfl rfl

theorem execMemWr_sound {c : CxlReq} {s : State} (hq : Sound s.qf)
    : ∃ q, execMemWr c s = .next { s with qf := q } ∧ Sound q := by
  unfold execMemWr done
  refine ⟨_, rfl, ?_⟩
  with_reducible repeat' first
    | assumption | extract_lets +onlyGivenNames x | apply Qf.hostRequest_sound

theorem execLinkDetect_sound {h : HalfPort} {s : State} (hq : Sound s.qf)
    : ∃ q, execLinkDetect h s = .next { s with qf := q } ∧ Sound q := by
  unfold execLinkDetect done
  refine ⟨_, rfl, ?_⟩
  with_reducible repeat' first
    | assumption | intro q hq | extract_lets +onlyGivenNames x | apply Qf.applyMode_sound
    | apply Qf.setState_sound | apply Qf.train_sound | apply Qf.updLink_sound | split
    | refine Sound.lit ?_ rfl rfl rfl

theorem execLeaseEnd_sound {n : QpKey} {s : State} (hq : Sound s.qf)
    : ∃ q, execLeaseEnd n s = .next { s with qf := q } ∧ Sound q := by
  unfold execLeaseEnd done
  refine ⟨_, rfl, ?_⟩
  with_reducible repeat' first
    | assumption | extract_lets +onlyGivenNames x | apply Qf.reclaimQp_sound | split
    | refine Sound.lit ?_ rfl rfl rfl

theorem Qf.releasePoliced_sound {a1 : Nat} {a2 : Tenant} {q : Qf} (hq : Sound q)
    : Sound (Qf.releasePoliced a1 a2 q) := by
  induction a1 generalizing a2 q with
  | zero =>
    unfold Qf.releasePoliced
    with_reducible repeat' (assumption)
  | succ n ih =>
    unfold Qf.releasePoliced
    with_reducible repeat' first
      | assumption
      | (extract_lets +onlyGivenNames q; guard_hyp q : Qf := _; refine step_sound q ?_ (fun hq => ?_)
         rotate_left; clear_value q; rotate_left; subst q)
      | (extract_lets +onlyGivenNames x; clear_value x) | extract_lets +onlyGivenNames x | apply ih
      | apply Qf.launch_sound | split | refine Sound.lit ?_ rfl rfl rfl

theorem execPolicerRelease_sound {t : Tenant} {s : State} (hq : Sound s.qf)
    : ∃ q, execPolicerRelease t s = .next { s with qf := q } ∧ Sound q := by
  unfold execPolicerRelease done
  refine ⟨_, rfl, ?_⟩
  with_reducible repeat' first
    | assumption
    | (extract_lets +onlyGivenNames q; guard_hyp q : Qf := _; refine step_sound q ?_ (fun hq => ?_)
       rotate_left; clear_value q; rotate_left; subst q)
    | extract_lets +onlyGivenNames x | apply Qf.updPolicer_sound | apply Qf.releasePoliced_sound | split
    | refine Sound.lit ?_ rfl rfl rfl

theorem execGateTakeover_sound {h : HalfPort} {s : State} (hq : Sound s.qf)
    : ∃ q, execGateTakeover h s = .next { s with qf := q } ∧ Sound q := by
  unfold execGateTakeover done
  refine ⟨_, rfl, ?_⟩
  with_reducible repeat' first
    | assumption | extract_lets +onlyGivenNames x | apply Qf.updEgress_sound | split
    | refine Sound.lit ?_ rfl rfl rfl

theorem Qf.takeAnswer_sound {q : Qf} {p : Packet} (hq : Sound q) : Sound (Qf.takeAnswer q p) := by
  unfold Qf.takeAnswer
  with_reducible repeat' first
    | assumption
    | (extract_lets +onlyGivenNames q; guard_hyp q : Qf := _; refine step_sound q ?_ (fun hq => ?_)
       rotate_left; clear_value q; rotate_left; subst q)
    | (extract_lets +onlyGivenNames x; clear_value x) | extract_lets +onlyGivenNames x | apply Qf.settleQp_sound
    | apply Qf.sendOwn_sound | apply Qf.replay_sound | apply Qf.updQp_sound | apply Qf.qpStop_sound | split
    | refine Sound.lit ?_ rfl rfl rfl

theorem execOwnAnswer_sound {i : Ingress} {p : Packet} {s : State} (hq : Sound s.qf)
    : ∃ q, execOwnAnswer i p s = .next { s with qf := q } ∧ Sound q := by
  unfold execOwnAnswer done
  refine ⟨_, rfl, ?_⟩
  with_reducible repeat' first
    | assumption | intro q hq | extract_lets +onlyGivenNames x | apply Qf.ownMsg_sound
    | apply Qf.takeAnswer_sound

theorem execGroupWrite_sound {m : MgrRef} {first : BitVec 16} {count : BitVec 16} {entries : List (BitVec 128)}
    {s : State} (hq : Sound s.qf)
    : ∃ q, execGroupWrite m first count entries s = .next { s with qf := q } ∧ Sound q := by
  unfold execGroupWrite done
  refine ⟨_, rfl, ?_⟩
  with_reducible repeat' first
    | assumption | intro q hq | (extract_lets +onlyGivenNames x; clear_value x) | extract_lets +onlyGivenNames x
    | apply Qf.mgr_sound | apply Qf.complete_sound | refine Sound.lit ?_ rfl rfl rfl

theorem execMemRd_sound {c : CxlReq} {s : State} (hq : Sound s.qf)
    : ∃ q, execMemRd c s = .next { s with qf := q } ∧ Sound q := by
  unfold execMemRd done
  refine ⟨_, rfl, ?_⟩
  with_reducible repeat' first
    | assumption | extract_lets +onlyGivenNames x | apply Qf.hostRequest_sound

theorem Qf.phaseSeen_sound {q : Qf} {h : HalfPort} {f : Flit} (hq : Sound q) : Sound (Qf.phaseSeen q h f) := by
  unfold Qf.phaseSeen
  with_reducible repeat' first
    | assumption | apply Qf.updLink_sound

theorem Qf.useHeader_sound {q : Qf} {h : HalfPort} {f : Flit} (hq : Sound q) : Sound (Qf.useHeader q h f) := by
  unfold Qf.useHeader
  with_reducible repeat' first
    | assumption
    | (extract_lets +onlyGivenNames q; guard_hyp q : Qf := _; refine step_sound q ?_ (fun hq => ?_)
       rotate_left; clear_value q; rotate_left; subst q)
    | apply Qf.replayAll_sound | apply Qf.updLink_sound | split

theorem execFlitReceive_sound {h : HalfPort} {f : Flit} {s : State} (hq : Sound s.qf)
    : ∃ q, execFlitReceive h f s = .next { s with qf := q } ∧ Sound q := by
  unfold execFlitReceive done
  refine ⟨_, rfl, ?_⟩
  with_reducible repeat' first
    | assumption
    | (extract_lets +onlyGivenNames q; guard_hyp q : Qf := _; refine step_sound q ?_ (fun hq => ?_)
       rotate_left; clear_value q; rotate_left; subst q)
    | (extract_lets +onlyGivenNames x; clear_value x) | extract_lets +onlyGivenNames x
    | apply Qf.takeSlots_sound | apply Qf.phaseSeen_sound | apply Qf.updLink_sound | apply Qf.linkDown_sound
    | apply Qf.countFrame_sound | apply Qf.useHeader_sound | split | refine Sound.lit ?_ rfl rfl rfl

theorem execLeaseRenewal_sound {n : QpKey} {s : State} (hq : Sound s.qf)
    : ∃ q, execLeaseRenewal n s = .next { s with qf := q } ∧ Sound q := by
  unfold execLeaseRenewal done
  refine ⟨_, rfl, ?_⟩
  with_reducible repeat' first
    | assumption
    | extract_lets +onlyGivenNames x | apply Qf.checkpoint_sound | apply Qf.ownChanged_sound | split
    | refine Sound.lit ?_ rfl rfl rfl

theorem Qf.startRelease_sound {q : Qf} {m : OwnMsg} (hq : Sound q) : Sound (Qf.startRelease q m) := by
  unfold Qf.startRelease
  with_reducible repeat' first
    | assumption
    | (extract_lets +onlyGivenNames q; guard_hyp q : Qf := _; refine step_sound q ?_ (fun hq => ?_)
       rotate_left; clear_value q; rotate_left; subst q)
    | (extract_lets +onlyGivenNames x; clear_value x) | apply Qf.sendOwn_sound | apply Qf.updQp_sound | split

theorem Qf.takeRelease_sound {q : Qf} {p : Packet} {m : OwnMsg} (hq : Sound q) : Sound (Qf.takeRelease q p m) := by
  unfold Qf.takeRelease
  with_reducible repeat' first
    | assumption
    | (extract_lets +onlyGivenNames q; guard_hyp q : Qf := _; refine step_sound q ?_ (fun hq => ?_)
       rotate_left; clear_value q; rotate_left; subst q)
    | (extract_lets +onlyGivenNames x; clear_value x) | apply Qf.ownRefuse_sound | apply Qf.ownChanged_sound
    | apply Qf.updOwn_sound | split

theorem execRelease_sound {i : Ingress} {p : Packet} {s : State} (hq : Sound s.qf)
    : ∃ q, execRelease i p s = .next { s with qf := q } ∧ Sound q := by
  unfold execRelease done
  refine ⟨_, rfl, ?_⟩
  with_reducible repeat' first
    | assumption | intro q hq | (extract_lets +onlyGivenNames x; clear_value x) | extract_lets +onlyGivenNames x
    | apply Qf.take_sound | apply Qf.ownMsg_sound | apply Qf.startRelease_sound | apply Qf.takeRelease_sound
    | split | refine Sound.lit ?_ rfl rfl rfl

theorem execRenew_sound {i : Ingress} {p : Packet} {s : State} (hq : Sound s.qf)
    : ∃ q, execRenew i p s = .next { s with qf := q } ∧ Sound q := by
  unfold execRenew done
  refine ⟨_, rfl, ?_⟩
  with_reducible repeat' first
    | assumption | intro q hq | extract_lets +onlyGivenNames x | apply Qf.takeRenew_sound
    | apply Qf.ownMsg_sound

end Sys2Proof.Machine
end

