-- ==== Sys2Proof/Laws/SoundQueues.lean ====
section
/-! SUPPORT. Laws/SoundQueues.lean: queue pairs, keys, Ensign, restarts, responses and faults
keep Safety.Sound: one lemma per operation and per command. -/

set_option linter.tactic.unusedName false

namespace Sys2Proof.Machine
open Sys2Proof.Safety

theorem Qf.pageFailed_sound {q : Qf} {t : Tenant} (hq : Sound q) : Sound (Qf.pageFailed q t) := by
  unfold Qf.pageFailed
  with_reducible repeat' first
    | assumption | (extract_lets +onlyGivenNames x; clear_value x) | refine Sound.lit ?_ rfl rfl rfl

theorem Qf.dispatchAnswer_sound {q : Qf} {r : OpenReq} {p : Packet} {st : BitVec 8} (hq : Sound q)
    : Sound (Qf.dispatchAnswer q r p st) := by
  unfold Qf.dispatchAnswer
  with_reducible repeat' first
    | assumption | (extract_lets +onlyGivenNames x; clear_value x) | apply Qf.moveFail_sound
    | apply Qf.restoreGot_sound | apply Qf.colGot_sound | apply Qf.pipeGot_sound | apply Qf.encWrote_sound
    | apply Qf.shardGot_sound | apply Qf.sideGot_sound | apply Qf.qpClosed_sound | apply Qf.qpOne_sound
    | apply Qf.qpData_sound | apply Qf.pipeWrote_sound | apply Qf.pageFailed_sound | apply Qf.encGot_sound
    | apply Qf.moveWrote_sound | apply Qf.colWrote_sound | apply Qf.mergeGot_sound | apply Qf.sideWrote_sound
    | apply Qf.qpRing_sound | apply Qf.qpWait_sound | apply Qf.moveGot_sound | apply Qf.mergeWrote_sound | split

theorem Qf.resetNow_sound {q : Qf} {m : MgrRef} {n : QpKey} (hq : Sound q) : Sound (Qf.resetNow q m n) := by
  unfold Qf.resetNow
  with_reducible repeat' first
    | assumption | apply Qf.updQp_sound | apply Qf.complete_sound | split

theorem Qf.createNow_sound {q : Qf} {m : MgrRef} {n : QpKey} {ctx : BitVec 512} {pipe : Bool} (hq : Sound q)
    : Sound (Qf.createNow q m n ctx pipe) := by
  unfold Qf.createNow
  with_reducible repeat' first
    | assumption
    | (extract_lets +onlyGivenNames q; guard_hyp q : Qf := _; refine step_sound q ?_ (fun hq => ?_)
       rotate_left; clear_value q; rotate_left; subst q)
    | (extract_lets +onlyGivenNames x; clear_value x) | apply Qf.complete_sound | split
    | refine Sound.lit ?_ rfl rfl rfl

theorem Qf.destroyNow_sound {q : Qf} {m : MgrRef} {n : QpKey} (hq : Sound q) : Sound (Qf.destroyNow q m n) := by
  unfold Qf.destroyNow
  with_reducible repeat' first
    | assumption | (extract_lets +onlyGivenNames x; clear_value x) | extract_lets +onlyGivenNames x
    | apply Qf.complete_sound | split | refine Sound.lit ?_ rfl rfl rfl

theorem Qf.runQpCmd_sound {q : Qf} {w : QpWaiting} (hq : Sound q) : Sound (Qf.runQpCmd q w) := by
  unfold Qf.runQpCmd
  with_reducible repeat' first
    | assumption | apply Qf.resetNow_sound | apply Qf.createNow_sound | apply Qf.destroyNow_sound | split

theorem Qf.wakeQp_sound {a1 : Nat} {a2 : QpKey} {q : Qf} (hq : Sound q) : Sound (Qf.wakeQp a1 a2 q) := by
  induction a1 generalizing a2 q with
  | zero =>
    unfold Qf.wakeQp
    with_reducible repeat' (assumption)
  | succ n ih =>
    unfold Qf.wakeQp
    with_reducible repeat' first
      | assumption
      | (extract_lets +onlyGivenNames q; guard_hyp q : Qf := _; refine step_sound q ?_ (fun hq => ?_)
         rotate_left; clear_value q; rotate_left; subst q)
      | (extract_lets +onlyGivenNames x; clear_value x) | extract_lets +onlyGivenNames x | apply ih
      | apply Qf.markStart_sound | apply Qf.runQpCmd_sound | split | refine Sound.lit ?_ rfl rfl rfl

theorem Qf.resetTurn_sound {q : Qf} {n : QpKey} (hq : Sound q) : Sound (Qf.resetTurn q n) := by
  unfold Qf.resetTurn
  with_reducible repeat' first
    | assumption
    | (extract_lets +onlyGivenNames q; guard_hyp q : Qf := _; refine step_sound q ?_ (fun hq => ?_)
       rotate_left; clear_value q; rotate_left; subst q)
    | (extract_lets +onlyGivenNames x; clear_value x) | extract_lets +onlyGivenNames x
    | refine foldl_sound (fun q x hq => ?_) _ ?_ | apply Qf.sendClose_sound | apply Qf.updStream_sound
    | apply Qf.updQp_sound | apply Qf.releasePennants_sound | apply Qf.wakeQp_sound | apply Qf.complete_sound
    | split | refine Sound.lit ?_ rfl rfl rfl

theorem Qf.answerOwn_sound {q : Qf} {r : OpenReq} {p : Packet} {st : BitVec 8} (hq : Sound q)
    : Sound (Qf.answerOwn q r p st) := by
  unfold Qf.answerOwn
  with_reducible repeat' first
    | assumption
    | (extract_lets +onlyGivenNames q; guard_hyp q : Qf := _; refine step_sound q ?_ (fun hq => ?_)
       rotate_left; clear_value q; rotate_left; subst q)
    | (extract_lets +onlyGivenNames x; clear_value x) | extract_lets +onlyGivenNames x
    | refine foldl_sound (fun q x hq => ?_) _ ?_ | apply Qf.resolved_sound | apply Qf.settleQp_sound
    | apply Qf.dispatchAnswer_sound | apply Qf.qpResolve_sound | apply Qf.resetTurn_sound | split

theorem Qf.finalAnswer_sound {q : Qf} {r : OpenReq} {p : Packet} {st : BitVec 8} (hq : Sound q)
    : Sound (Qf.finalAnswer q r p st) := by
  unfold Qf.finalAnswer
  with_reducible repeat' first
    | assumption
    | (extract_lets +onlyGivenNames q; guard_hyp q : Qf := _; refine step_sound q ?_ (fun hq => ?_)
       rotate_left; clear_value q; rotate_left; subst q)
    | apply Qf.wakePipes_sound | apply Qf.answerOwn_sound | split

theorem Qf.staleFail_sound {q : Qf} {r : OpenReq} {e : Status} (hq : Sound q) : Sound (Qf.staleFail q r e) := by
  unfold Qf.staleFail
  with_reducible repeat' first
    | assumption | (extract_lets +onlyGivenNames x; clear_value x) | extract_lets +onlyGivenNames x
    | apply Qf.resolved_sound | apply Qf.finalAnswer_sound | apply Qf.sendOn_sound | split

theorem Qf.failHome_sound {q : Qf} {s : Sector} (hq : Sound q) : Sound (Qf.failHome q s) := by
  unfold Qf.failHome
  with_reducible repeat' first
    | assumption | (extract_lets +onlyGivenNames x; clear_value x) | extract_lets +onlyGivenNames x
    | refine foldl_sound (fun q x hq => ?_) _ ?_ | apply Qf.failTxn_sound | apply Qf.settle_sound | split

theorem Qf.ensignStage_sound {q : Qf} {i : FwImage} (hq : Sound q) : Sound (Qf.ensignStage q i) := by
  unfold Qf.ensignStage
  with_reducible repeat' first
    | assumption | (extract_lets +onlyGivenNames x; clear_value x) | split | refine Sound.lit ?_ rfl rfl rfl

theorem Qf.closeInterval_sound {q : Qf} {fin : Nat} {flags : BitVec 8} (hq : Sound q)
    : Sound (Qf.closeInterval q fin flags).2 := by
  unfold Qf.closeInterval
  with_reducible repeat' first
    | assumption
    | (extract_lets +onlyGivenNames q; guard_hyp q : Qf := _; refine step_sound q ?_ (fun hq => ?_)
       rotate_left; clear_value q; rotate_left; subst q)
    | (extract_lets +onlyGivenNames x; guard_hyp x : BitVec 64 × Qf := _
       refine step_sound x.2 ?_ (fun hx => ?_); rotate_left; clear_value x; rotate_left; subst x)
    | (extract_lets +onlyGivenNames x; clear_value x) | extract_lets +onlyGivenNames x | apply Qf.takeFree_sound
    | refine Sound.lit ?_ rfl rfl rfl

theorem Qf.logRecord_sound {q : Qf} {x : BitVec 64 × List Byte} (hq : Sound q) : Sound (Qf.logRecord q x) := by
  unfold Qf.logRecord
  with_reducible repeat' first
    | assumption
    | (extract_lets +onlyGivenNames q; guard_hyp q : Qf := _; refine step_sound q ?_ (fun hq => ?_)
       rotate_left; clear_value q; rotate_left; subst q)
    | (extract_lets +onlyGivenNames x; clear_value x) | apply Qf.sessionEvent_sound
    | refine Sound.lit ?_ rfl rfl rfl

theorem Qf.endInterval_sound {q : Qf} {fin : Nat} {flags : BitVec 8} (hq : Sound q)
    : Sound (Qf.endInterval q fin flags) := by
  unfold Qf.endInterval
  with_reducible repeat' first
    | assumption
    | (extract_lets +onlyGivenNames x; guard_hyp x : (BitVec 64 × List Byte) × Qf := _
       refine step_sound x.2 ?_ (fun hx => ?_); rotate_left; clear_value x; rotate_left; subst x)
    | apply Qf.closeInterval_sound | apply Qf.logRecord_sound

theorem Qf.sealEvent_sound {q : Qf} (hq : Sound q) : Sound (Qf.sealEvent q) := by
  unfold Qf.sealEvent
  with_reducible repeat' first
    | assumption | (extract_lets +onlyGivenNames x; clear_value x) | extract_lets +onlyGivenNames x
    | apply Qf.endInterval_sound | refine Sound.lit ?_ rfl rfl rfl

theorem Qf.setInterval_sound {q : Qf} {v : BitVec 64} (hq : Sound q) : Sound (Qf.setInterval q v).2 := by
  unfold Qf.setInterval
  with_reducible repeat' first
    | assumption
    | (extract_lets +onlyGivenNames q; guard_hyp q : Qf := _; refine step_sound q ?_ (fun hq => ?_)
       rotate_left; clear_value q; rotate_left; subst q)
    | (extract_lets +onlyGivenNames x; clear_value x) | apply Qf.sealEvent_sound | split
    | refine Sound.lit ?_ rfl rfl rfl

theorem Qf.ensignActivate_sound {q : Qf} {v : Nat} (hq : Sound q) : Sound (Qf.ensignActivate q v).2 := by
  unfold Qf.ensignActivate
  with_reducible repeat' first
    | assumption
    | (extract_lets +onlyGivenNames q; guard_hyp q : Qf := _; refine step_sound q ?_ (fun hq => ?_)
       rotate_left; clear_value q; rotate_left; subst q)
    | (extract_lets +onlyGivenNames x; clear_value x) | apply Qf.sealEvent_sound | split
    | refine Sound.lit ?_ rfl rfl rfl

theorem Qf.setAuthority_sound {q : Qf} {bs : List Byte} (hq : Sound q) : Sound (Qf.setAuthority q bs).2 := by
  unfold Qf.setAuthority
  with_reducible repeat' first
    | assumption
    | (extract_lets +onlyGivenNames q; guard_hyp q : Qf := _; refine step_sound q ?_ (fun hq => ?_)
       rotate_left; clear_value q; rotate_left; subst q)
    | (extract_lets +onlyGivenNames x; clear_value x) | apply Qf.sealEvent_sound | split
    | refine Sound.lit ?_ rfl rfl rfl

theorem Qf.timeMessages_sound {q : Qf} (hq : Sound q) : Sound (Qf.timeMessages q) := by
  unfold Qf.timeMessages
  with_reducible repeat' first
    | assumption | (extract_lets +onlyGivenNames x; clear_value x) | refine Sound.lit ?_ rfl rfl rfl

theorem Qf.beginInterval_sound {q : Qf} (hq : Sound q) : Sound (Qf.beginInterval q) := by
  unfold Qf.beginInterval
  with_reducible repeat' first
    | assumption | (extract_lets +onlyGivenNames x; clear_value x) | refine Sound.lit ?_ rfl rfl rfl

theorem Qf.stepClock_sound {q0 : Qf} {z : BitVec 64} (hq : Sound q0) : Sound (Qf.stepClock q0 z) := by
  unfold Qf.stepClock
  with_reducible repeat' first
    | assumption
    | (extract_lets +onlyGivenNames q; guard_hyp q : Qf := _; refine step_sound q ?_ (fun hq => ?_)
       rotate_left; clear_value q; rotate_left; subst q)
    | (extract_lets +onlyGivenNames x; clear_value x) | extract_lets +onlyGivenNames x
    | apply Qf.timeMessages_sound | apply Qf.beginInterval_sound | apply Qf.endInterval_sound | split
    | refine Sound.lit ?_ rfl rfl rfl

theorem wrEffect_sound {n : QpKey} {wr : BitVec 512} {op : Nat} {w : WorkReq} {q : Qf} (hq : Sound q)
    : Sound (wrEffect n wr op w q) := by
  unfold wrEffect
  with_reducible repeat' first
    | assumption | (extract_lets +onlyGivenNames x; clear_value x) | extract_lets +onlyGivenNames x
    | apply Qf.takeTag_sound | apply Qf.pushPkt_sound | apply Qf.startTransfer_sound | apply Qf.startWait_sound
    | apply Qf.wrFail_sound | apply Qf.updWr_sound | split

theorem Qf.runFetched_sound {q : Qf} {s : Sector} (hq : Sound q) : Sound (Qf.runFetched q s) := by
  unfold Qf.runFetched
  with_reducible repeat' first
    | assumption | intro q hq | intro _ | (extract_lets +onlyGivenNames x; clear_value x)
    | extract_lets +onlyGivenNames x | refine foldl_sound (fun q x hq => ?_) _ ?_ | apply Qf.startWr_sound
    | apply wrEffect_sound | split

theorem Qf.enrolTenant_sound {q : Qf} {r : List Byte} (hq : Sound q) : Sound (Qf.enrolTenant q r) := by
  unfold Qf.enrolTenant
  with_reducible repeat' first
    | assumption | intro q hq | intro _
    | (extract_lets +onlyGivenNames q; guard_hyp q : Qf := _; refine step_sound q ?_ (fun hq => ?_)
       rotate_left; clear_value q; rotate_left; subst q)
    | (extract_lets +onlyGivenNames x; guard_hyp x : BitVec 8 → Qf → Qf := _
       refine stepP (P := ∀ y0 y1, Sound y1 → Sound (x y0 y1)) ?_ (fun hl0 => ?_); rotate_left; clear_value x
       rotate_left; subst x)
    | (extract_lets +onlyGivenNames x; clear_value x) | extract_lets +onlyGivenNames x | apply hl0 | split
    | refine Sound.lit ?_ rfl rfl rfl

theorem Qf.setDebug_sound {q : Qf} {v : BitVec 64} (hq : Sound q) : Sound (Qf.setDebug q v) := by
  unfold Qf.setDebug
  with_reducible repeat' first
    | assumption
    | (extract_lets +onlyGivenNames q; guard_hyp q : Qf := _; refine step_sound q ?_ (fun hq => ?_)
       rotate_left; clear_value q; rotate_left; subst q)
    | (extract_lets +onlyGivenNames x; clear_value x) | split | refine Sound.lit ?_ rfl rfl rfl

theorem Qf.attest_sound {q : Qf} {nonce : List Byte} (hq : Sound q) : Sound (Qf.attest q nonce) := by
  unfold Qf.attest
  with_reducible repeat' first
    | assumption
    | (extract_lets +onlyGivenNames q; guard_hyp q : Qf := _; refine step_sound q ?_ (fun hq => ?_)
       rotate_left; clear_value q; rotate_left; subst q)
    | (extract_lets +onlyGivenNames x; clear_value x) | refine Sound.lit ?_ rfl rfl rfl

theorem Qf.setBackup_sound {q : Qf} {v : BitVec 16} (hq : Sound q) : Sound (Qf.setBackup q v) := by
  unfold Qf.setBackup
  with_reducible repeat' first
    | assumption
    | (extract_lets +onlyGivenNames q; guard_hyp q : Qf := _; refine step_sound q ?_ (fun hq => ?_)
       rotate_left; clear_value q; rotate_left; subst q)
    | (extract_lets +onlyGivenNames x; clear_value x) | extract_lets +onlyGivenNames x
    | refine foldl_sound (fun q x hq => ?_) _ ?_ | apply Qf.mirror_sound | split
    | refine Sound.lit ?_ rfl rfl rfl

theorem Qf.lineClear_sound {q : Qf} {a : Ppa} {ep : Ep} (hq : Sound q) : Sound (Qf.lineClear q a ep) := by
  unfold Qf.lineClear
  with_reducible repeat' first
    | assumption | (extract_lets +onlyGivenNames x; clear_value x) | extract_lets +onlyGivenNames x
    | apply Qf.release_sound | apply Qf.updLine_sound | apply Qf.dropHolder_sound | apply Qf.settle_sound
    | split

theorem Qf.deadlineOf_sound {q : Qf} {td : BitVec 64} (hq : Sound q) : Sound (Qf.deadlineOf q td).2 := by
  unfold Qf.deadlineOf
  with_reducible repeat' first
    | assumption | (extract_lets +onlyGivenNames x; clear_value x) | split | refine Sound.lit ?_ rfl rfl rfl

theorem Qf.recallTenant_sound {q : Qf} {t : Tenant} (hq : Sound q) : Sound (Qf.recallTenant q t) := by
  unfold Qf.recallTenant
  with_reducible repeat' first
    | assumption | extract_lets +onlyGivenNames x | refine foldl_sound (fun q x hq => ?_) _ ?_
    | apply Qf.recallSlot_sound

theorem Qf.stopSweep_sound {q : Qf} {t : Tenant} (hq : Sound q) : Sound (Qf.stopSweep q t) := by
  unfold Qf.stopSweep
  with_reducible repeat' first
    | assumption | (extract_lets +onlyGivenNames x; clear_value x) | extract_lets +onlyGivenNames x
    | apply Qf.updKeys_sound | apply Qf.endProgress_sound | split

theorem Qf.retireNow_sound {q : Qf} {t : Tenant} {g : KeyGen} (hq : Sound q) : Sound (Qf.retireNow q t g) := by
  unfold Qf.retireNow
  with_reducible repeat' first
    | assumption
    | (extract_lets +onlyGivenNames q; guard_hyp q : Qf := _; refine step_sound q ?_ (fun hq => ?_)
       rotate_left; clear_value q; rotate_left; subst q)
    | (extract_lets +onlyGivenNames x; clear_value x) | apply Qf.failWaits_sound | apply Qf.updKeys_sound
    | apply Qf.recallTenant_sound | apply Qf.stopSweep_sound | split | refine Sound.lit ?_ rfl rfl rfl

theorem execKeyRetire_sound {m : MgrRef} {tenant : BitVec 16} {gen : BitVec 8} {td : BitVec 64} {s : State}
    (hq : Sound s.qf) : ∃ q, execKeyRetire m tenant gen td s = .next { s with qf := q } ∧ Sound q := by
  unfold execKeyRetire done
  refine ⟨_, rfl, ?_⟩
  with_reducible repeat' first
    | assumption | intro q hq
    | (extract_lets +onlyGivenNames q; guard_hyp q : Qf := _; refine step_sound q ?_ (fun hq => ?_)
       rotate_left; clear_value q; rotate_left; subst q)
    | (extract_lets +onlyGivenNames x; guard_hyp x : Nat × Qf := _; refine step_sound x.2 ?_ (fun hx => ?_)
       rotate_left; clear_value x; rotate_left; subst x)
    | (extract_lets +onlyGivenNames x; clear_value x) | extract_lets +onlyGivenNames x | apply Qf.updKeys_sound
    | apply Qf.deadlineOf_sound | apply Qf.retireNow_sound | apply Qf.mgr_sound | apply Qf.complete_sound
    | apply Qf.settle_sound | split

theorem Qf.updCancels_sound {q : Qf} {tag : Tag} {f : CancelRec → CancelRec} (hq : Sound q)
    : Sound (Qf.updCancels q tag f) := by
  unfold Qf.updCancels
  with_reducible repeat' first
    | assumption | (extract_lets +onlyGivenNames x; clear_value x) | refine Sound.lit ?_ rfl rfl rfl

theorem Qf.cancelAnswer_sound {q : Qf} {p : Packet} {st : BitVec 8} (hq : Sound q)
    : Sound (Qf.cancelAnswer q p st) := by
  unfold Qf.cancelAnswer
  with_reducible repeat' first
    | assumption | (extract_lets +onlyGivenNames x; clear_value x) | apply Qf.updQp_sound
    | apply Qf.updCancels_sound | apply Qf.qpStop_sound | split

theorem Qf.keepCounters_sound {o : Qf} {n : Qf} (hq : Sound o) (hq1 : Sound n) : Sound (Qf.keepCounters o n) := by
  exact ⟨hq1.1, hq.2.1, hq.2.2.1, hq1.2.2.2⟩

theorem Qf.tapSend_sound {q : Qf} {s : Sector} {x : Nat × ℤ} (hq : Sound q) : Sound (Qf.tapSend q s x) := by
  unfold Qf.tapSend
  with_reducible repeat' first
    | assumption | (extract_lets +onlyGivenNames x; clear_value x) | split | refine Sound.lit ?_ rfl rfl rfl

theorem Qf.tapOwed_sound {q : Qf} {s : Sector} (hq : Sound q) : Sound (Qf.tapOwed q s) := by
  unfold Qf.tapOwed
  with_reducible repeat' first
    | assumption | (extract_lets +onlyGivenNames x; clear_value x) | apply Qf.tapSend_sound | split
    | refine Sound.lit ?_ rfl rfl rfl

theorem Qf.backOff_sound {q : Qf} {r : OpenReq} (hq : Sound q) : Sound (Qf.backOff q r) := by
  unfold Qf.backOff
  with_reducible repeat' first
    | assumption | (extract_lets +onlyGivenNames x; clear_value x) | refine Sound.lit ?_ rfl rfl rfl

theorem Qf.staleAnswer_sound {q : Qf} {r : OpenReq} {p : Packet} (hq : Sound q) : Sound (Qf.staleAnswer q r p) := by
  unfold Qf.staleAnswer
  with_reducible repeat' first
    | assumption | (extract_lets +onlyGivenNames x; clear_value x) | extract_lets +onlyGivenNames x
    | refine foldl_sound (fun q x hq => ?_) _ ?_ | apply Qf.staleSent_sound | apply Qf.finalAnswer_sound
    | apply Qf.markStale_sound | apply Qf.qpStop_sound | split

theorem Qf.ownResponse_sound {q : Qf} {p : Packet} (hq : Sound q) : Sound (Qf.ownResponse q p) := by
  unfold Qf.ownResponse
  with_reducible repeat' first
    | assumption | (extract_lets +onlyGivenNames x; clear_value x) | extract_lets +onlyGivenNames x
    | refine foldl_sound (fun q x hq => ?_) _ ?_ | apply Qf.cancelAnswer_sound | apply Qf.backOff_sound
    | apply Qf.updQp_sound | apply Qf.finalAnswer_sound | apply Qf.staleAnswer_sound | split
    | refine Sound.lit ?_ rfl rfl rfl

theorem Qf.answerHere_sound {q : Qf} {p : Packet} (hq : Sound q) : Sound (Qf.answerHere q p) := by
  unfold Qf.answerHere
  with_reducible repeat' first
    | assumption | apply Qf.ownResponse_sound | apply Qf.trayFail_sound | apply Qf.trayGot_sound | split

theorem Qf.restartMgmt_sound {q : Qf} {c : Bool} (hq : Sound q) : Sound (Qf.restartMgmt q c) := by
  unfold Qf.restartMgmt
  with_reducible repeat' first
    | assumption
    | (extract_lets +onlyGivenNames q; guard_hyp q : Qf := _; refine step_sound q ?_ (fun hq => ?_)
       rotate_left; clear_value q; rotate_left; subst q)
    | (extract_lets +onlyGivenNames x; guard_hyp x : Mgmt := _; subst x) | apply Qf.endSessions_sound
    | refine Sound.lit ?_ rfl rfl rfl

theorem Qf.failSlice_sound {q : Qf} {s : Sector} (hq : Sound q) : Sound (Qf.failSlice q s) := by
  unfold Qf.failSlice
  with_reducible repeat' first
    | assumption
    | (extract_lets +onlyGivenNames q; guard_hyp q : Qf := _; refine step_sound q ?_ (fun hq => ?_)
       rotate_left; clear_value q; rotate_left; subst q)
    | (extract_lets +onlyGivenNames x; clear_value x) | extract_lets +onlyGivenNames x
    | refine foldl_sound (fun q x hq => ?_) _ ?_ | apply Qf.badCells_sound | apply Qf.freeCells_sound
    | refine Sound.lit ?_ rfl rfl rfl

theorem Qf.restartSector_sound {q : Qf} {c : Sector} {st : BitVec 8} (hq : Sound q)
    : Sound (Qf.restartSector q c st) := by
  unfold Qf.restartSector
  with_reducible repeat' first
    | assumption | extract_lets +onlyGivenNames x | refine foldl_sound (fun q x hq => ?_) _ ?_
    | apply Qf.pipeFail_sound

theorem Qf.failUnit_sound {q : Qf} {s : Sector} {unit : BitVec 4} {index : BitVec 4} (hq : Sound q)
    : Sound (Qf.failUnit q s unit index) := by
  unfold Qf.failUnit
  with_reducible repeat' first
    | assumption
    | (extract_lets +onlyGivenNames q; guard_hyp q : Qf := _; refine step_sound q ?_ (fun hq => ?_)
       rotate_left; clear_value q; rotate_left; subst q)
    | (extract_lets +onlyGivenNames x; clear_value x) | extract_lets +onlyGivenNames x
    | refine foldl_sound (fun q x hq => ?_) _ ?_ | apply Qf.pipeFail_sound | apply Qf.failEncodes_sound
    | apply Qf.restartMgmt_sound | apply Qf.colSlotLost_sound | apply Qf.failSlice_sound
    | apply Qf.shardEnd_sound | apply Qf.qpError_sound | apply Qf.failHome_sound | apply Qf.restartSector_sound
    | split

theorem Qf.unitFault_sound {q : Qf} {i : FaultInfo} {index : BitVec 4} (hq : Sound q)
    : Sound (Qf.unitFault q i index) := by
  unfold Qf.unitFault
  with_reducible repeat' first
    | assumption
    | (extract_lets +onlyGivenNames q; guard_hyp q : Qf := _; refine step_sound q ?_ (fun hq => ?_)
       rotate_left; clear_value q; rotate_left; subst q)
    | (extract_lets +onlyGivenNames x; guard_hyp x : Faults := _; subst x)
    | (extract_lets +onlyGivenNames x; clear_value x) | extract_lets +onlyGivenNames x | apply Qf.failUnit_sound
    | apply Qf.fatal_sound | apply Qf.fault_sound | split | refine Sound.lit ?_ rfl rfl rfl

theorem execUnitFault_sound {sector : Sector} {unitCode : UnitCode} {index : BitVec 4} {s : State}
    (hq : Sound s.qf) : ∃ q, execUnitFault sector unitCode index s = .next { s with qf := q } ∧ Sound q := by
  unfold execUnitFault done
  refine ⟨_, rfl, ?_⟩
  with_reducible repeat' first
    | assumption | extract_lets +onlyGivenNames x | apply Qf.unitFault_sound | split
    | refine Sound.lit ?_ rfl rfl rfl

theorem Qf.freezeLink_sound {q : Qf} {h : HalfPort} (hq : Sound q) : Sound (Qf.freezeLink q h) := by
  unfold Qf.freezeLink
  with_reducible repeat' first
    | assumption
    | (extract_lets +onlyGivenNames q; guard_hyp q : Qf := _; refine step_sound q ?_ (fun hq => ?_)
       rotate_left; clear_value q; rotate_left; subst q)
    | (extract_lets +onlyGivenNames x; clear_value x) | extract_lets +onlyGivenNames x | apply Qf.setState_sound
    | apply Qf.sendDown_sound | apply Qf.fault_sound | apply Qf.updLink_sound | split

theorem Qf.freezeSector_sound {q : Qf} {s : Sector} (hq : Sound q) : Sound (Qf.freezeSector q s) := by
  unfold Qf.freezeSector
  with_reducible repeat' first
    | assumption | (extract_lets +onlyGivenNames x; clear_value x) | refine foldl_sound (fun q x hq => ?_) _ ?_
    | refine Sound.lit ?_ rfl rfl rfl

theorem Qf.freezeFlush_sound {q : Qf} (hq : Sound q) : Sound (Qf.freezeFlush q) := by
  unfold Qf.freezeFlush
  with_reducible repeat' first
    | assumption | extract_lets +onlyGivenNames x | refine foldl_sound (fun q x hq => ?_) _ ?_
    | apply Qf.freezeSector_sound

theorem Qf.powerFail_sound {q : Qf} (hq : Sound q) : Sound (Qf.powerFail q) := by
  unfold Qf.powerFail
  with_reducible repeat' first
    | assumption
    | (extract_lets +onlyGivenNames q; guard_hyp q : Qf := _; refine step_sound q ?_ (fun hq => ?_)
       rotate_left; clear_value q; rotate_left; subst q)
    | (extract_lets +onlyGivenNames x; guard_hyp x : HostIf := _; subst x)
    | (extract_lets +onlyGivenNames x; clear_value x) | extract_lets +onlyGivenNames x
    | refine foldl_sound (fun q x hq => ?_) _ ?_ | apply Qf.freezeLink_sound | apply Qf.drainAccepted_sound
    | apply Qf.freezeFlush_sound | apply Qf.sessionEvent_sound | refine Sound.lit ?_ rfl rfl rfl

theorem Qf.clientResponse_sound {q : Qf} {i : Ingress} {p : Packet} (hq : Sound q)
    : Sound (Qf.clientResponse q i p) := by
  unfold Qf.clientResponse
  with_reducible repeat' first
    | assumption | (extract_lets +onlyGivenNames x; clear_value x) | extract_lets +onlyGivenNames x
    | apply Qf.resolved_sound | apply Qf.transit_sound | apply Qf.markStale_sound | split
    | refine Sound.lit ?_ rfl rfl rfl

theorem Qf.wornSlot_sound {q : Qf} {g : Nat} {b : Nat} (hq : Sound q) : Sound (Qf.wornSlot q g b) := by
  unfold Qf.wornSlot
  with_reducible repeat' first
    | assumption | extract_lets +onlyGivenNames x | apply Qf.fault_sound | apply Qf.colFail_sound
    | apply Qf.colRun_sound | split

theorem Qf.resendPsn_sound {q : Qf} {n : QpKey} {s : SentPkt} {r : OpenReq} (hq : Sound q)
    : SoundOpt (Qf.resendPsn q n s r) := by
  unfold Qf.resendPsn
  with_reducible repeat' first
    | assumption
    | (extract_lets +onlyGivenNames q; guard_hyp q : Qf := _; refine step_sound q ?_ (fun hq => ?_)
       rotate_left; clear_value q; rotate_left; subst q)
    | (extract_lets +onlyGivenNames x; clear_value x) | extract_lets +onlyGivenNames x | apply Qf.copied_sound
    | apply Qf.resendAs_sound | apply Qf.staleFail_sound | apply Qf.openSlot_sound | apply Qf.updQp_sound
    | apply Qf.takePsn_sound | apply Qf.edgeCheck_sound
    | (split <;> try (rename_i heq; apply pair_eq at heq; refine step_sound _ (heq ?_) (fun hq => ?_)))
    | exact okOpt_none | apply okOpt_some

theorem Qf.staleGo_sound {q : Qf} {r : OpenReq} (hq : Sound q) : SoundOpt (Qf.staleGo q r) := by
  unfold Qf.staleGo
  with_reducible repeat' first
    | assumption | extract_lets +onlyGivenNames x | apply Qf.resendPsn_sound | apply Qf.staleFail_sound
    | apply Qf.retryStale_sound
    | (split <;> try (rename_i heq; apply exc_eq at heq; refine step_sound _ (heq ?_) (fun hq => ?_)))
    | apply okOpt_some

theorem Qf.resendStale_sound {a1 : Nat} {a2 : List OpenReq} {q : Qf} (hq : Sound q)
    : Sound (Qf.resendStale a1 a2 q) := by
  induction a1 generalizing a2 q with
  | zero =>
    unfold Qf.resendStale
    with_reducible repeat' (assumption)
  | succ n ih =>
    unfold Qf.resendStale
    with_reducible repeat' first
      | assumption | extract_lets +onlyGivenNames x | apply ih | apply Qf.staleGo_sound
      | (split <;> try (rename_i heq; apply opt_eq at heq; refine step_sound _ (heq ?_) (fun hq => ?_)))

theorem Qf.restale_sound {q : Qf} (hq : Sound q) : Sound (Qf.restale q) := by
  unfold Qf.restale
  with_reducible repeat' first
    | assumption | apply Qf.resendStale_sound

theorem Qf.deliver_sound {i : Ingress} {q : Qf} {p : Packet} (hq : Sound q) : Sound (Qf.deliver i q p) := by
  unfold Qf.deliver
  with_reducible repeat' first
    | assumption | apply Qf.clientResponse_sound | apply Qf.transit_sound | apply Qf.answerHere_sound | split

theorem Qf.drainAnswer_sound {q : Qf} {p : Packet} (hq : Sound q) : Sound (Qf.drainAnswer q p) := by
  unfold Qf.drainAnswer
  with_reducible repeat' first
    | assumption | apply Qf.trayFail_sound | apply Qf.trayGot_sound | split

theorem Qf.response_sound {q : Qf} {i : Ingress} {p : Packet} (hq : Sound q) : Sound (Qf.response q i p) := by
  unfold Qf.response
  with_reducible repeat' first
    | assumption | intro q hq | intro _ | extract_lets +onlyGivenNames x | apply Qf.uncombine_sound
    | apply Qf.restale_sound | apply Qf.take_sound | apply Qf.deliver_sound | apply Qf.drainAnswer_sound | split

theorem execAtomicResult_sound {i : Ingress} {p : Packet} {s : State} (hq : Sound s.qf)
    : ∃ q, execAtomicResult i p s = .next { s with qf := q } ∧ Sound q := by
  unfold execAtomicResult done
  refine ⟨_, rfl, ?_⟩
  with_reducible repeat' first
    | assumption | extract_lets +onlyGivenNames x | apply Qf.response_sound

theorem execFail_sound {i : Ingress} {p : Packet} {s : State} (hq : Sound s.qf)
    : ∃ q, execFail i p s = .next { s with qf := q } ∧ Sound q := by
  unfold execFail done
  refine ⟨_, rfl, ?_⟩
  with_reducible repeat' first
    | assumption | extract_lets +onlyGivenNames x | apply Qf.response_sound | apply Qf.settle_sound

theorem execWaitRegisterResend_sound {n : QpKey} {s : State} (hq : Sound s.qf)
    : ∃ q, execWaitRegisterResend n s = .next { s with qf := q } ∧ Sound q := by
  unfold execWaitRegisterResend done
  refine ⟨_, rfl, ?_⟩
  with_reducible repeat' first
    | assumption
    | (extract_lets +onlyGivenNames q; guard_hyp q : Qf := _; refine step_sound q ?_ (fun hq => ?_)
       rotate_left; clear_value q; rotate_left; subst q)
    | (extract_lets +onlyGivenNames x; clear_value x) | extract_lets +onlyGivenNames x | apply Qf.updQp_sound
    | apply Qf.send_sound | apply Qf.endWait_sound | apply Qf.edgeCheck_sound
    | (split <;> try (rename_i heq; apply pair_eq at heq; refine step_sound _ (heq ?_) (fun hq => ?_)))
    | refine Sound.lit ?_ rfl rfl rfl

theorem Qf.purgeStaging_sound {q : Qf} {t : Tenant} {h : HalfPort} (hq : Sound q)
    : Sound (Qf.purgeStaging q t h) := by
  unfold Qf.purgeStaging
  with_reducible repeat' first
    | assumption
    | (extract_lets +onlyGivenNames q; guard_hyp q : Qf := _; refine step_sound q ?_ (fun hq => ?_)
       rotate_left; clear_value q; rotate_left; subst q)
    | (extract_lets +onlyGivenNames x; clear_value x) | extract_lets +onlyGivenNames x
    | refine foldl_sound (fun q x hq => ?_) _ ?_ | apply Qf.take_sound | split | refine Sound.lit ?_ rfl rfl rfl

theorem Qf.purgeTenant_sound {q : Qf} {t : Tenant} (hq : Sound q) : Sound (Qf.purgeTenant q t) := by
  unfold Qf.purgeTenant
  with_reducible repeat' first
    | assumption
    | (extract_lets +onlyGivenNames q; guard_hyp q : Qf := _; refine step_sound q ?_ (fun hq => ?_)
       rotate_left; clear_value q; rotate_left; subst q)
    | (extract_lets +onlyGivenNames x; clear_value x) | extract_lets +onlyGivenNames x
    | refine foldl_sound (fun q x hq => ?_) _ ?_ | apply Qf.purgeStaging_sound | apply Qf.freeCells_sound
    | refine Sound.lit ?_ rfl rfl rfl

theorem execWatchdog_sound {core : WdCore} {s : State} (hq : Sound s.qf)
    : ∃ q, execWatchdog core s = .next { s with qf := q } ∧ Sound q := by
  unfold execWatchdog done
  refine ⟨_, rfl, ?_⟩
  with_reducible repeat' first
    | assumption | extract_lets +onlyGivenNames x | apply Qf.restartMgmt_sound | apply Qf.fault_sound
    | apply Qf.restartSector_sound | split | refine Sound.lit ?_ rfl rfl rfl

theorem Qf.wornExtent_sound {q : Qf} {s : Slot} (hq : Sound q) : Sound (Qf.wornExtent q s) := by
  unfold Qf.wornExtent
  with_reducible repeat' first
    | assumption | extract_lets +onlyGivenNames x | apply Qf.fault_sound | apply Qf.updExtent_sound | split

theorem Qf.wornReplica_sound {q : Qf} {s : Slot} (hq : Sound q) : Sound (Qf.wornReplica q s) := by
  unfold Qf.wornReplica
  with_reducible repeat' first
    | assumption | extract_lets +onlyGivenNames x | apply Qf.fault_sound | apply Qf.dropReplica_sound | split

theorem Qf.wornSet_sound {q : Qf} {s : Sector} {d : BitVec 21} (hq : Sound q) : Sound (Qf.wornSet q s d) := by
  unfold Qf.wornSet
  with_reducible repeat' first
    | assumption | (extract_lets +onlyGivenNames x; clear_value x) | extract_lets +onlyGivenNames x
    | apply Qf.fault_sound | split | refine Sound.lit ?_ rfl rfl rfl

theorem Qf.wornPipe_sound {q : Qf} {k : Nat} (hq : Sound q) : Sound (Qf.wornPipe q k) := by
  unfold Qf.wornPipe
  with_reducible repeat' first
    | assumption | extract_lets +onlyGivenNames x | apply Qf.pipeFail_sound | apply Qf.fault_sound | split

theorem Qf.wornLine_sound {q : Qf} {n : LineNo} (hq : Sound q) : Sound (Qf.wornLine q n) := by
  unfold Qf.wornLine
  with_reducible repeat' first
    | assumption | extract_lets +onlyGivenNames x | apply Qf.lineFault_sound | apply Qf.refillPage_sound | split

theorem Qf.wornVersion_sound {q : Qf} {r : RegionId} (hq : Sound q) : Sound (Qf.wornVersion q r) := by
  unfold Qf.wornVersion
  with_reducible repeat' first
    | assumption | extract_lets +onlyGivenNames x | apply Qf.fault_sound | apply Qf.updVer_sound | split

theorem Qf.wornEntry_sound {q : Qf} {a : Nat} (hq : Sound q) : Sound (Qf.wornEntry q a) := by
  unfold Qf.wornEntry
  with_reducible repeat' first
    | assumption | (extract_lets +onlyGivenNames x; clear_value x) | extract_lets +onlyGivenNames x
    | apply Qf.fault_sound | split | refine Sound.lit ?_ rfl rfl rfl

theorem Qf.wornQp_sound {q : Qf} {n : QpKey} (hq : Sound q) : Sound (Qf.wornQp q n) := by
  unfold Qf.wornQp
  with_reducible repeat' first
    | assumption | extract_lets +onlyGivenNames x | apply Qf.fault_sound | apply Qf.qpError_sound | split

theorem Qf.wornTarget_sound {q : Qf} {k : Nat} (hq : Sound q) : Sound (Qf.wornTarget q k) := by
  unfold Qf.wornTarget
  with_reducible repeat' first
    | assumption | (extract_lets +onlyGivenNames x; clear_value x) | extract_lets +onlyGivenNames x
    | apply Qf.updTarget_sound | apply Qf.fault_sound | split

theorem Qf.wornAt_sound {q : Qf} {place : Nat} {k : Nat} (hq : Sound q) : Sound (Qf.wornAt q place k) := by
  unfold Qf.wornAt
  with_reducible repeat' first
    | assumption | apply Qf.wornExtent_sound | apply Qf.wornSlot_sound | apply Qf.wornReplica_sound
    | apply Qf.wornSet_sound | apply Qf.wornPipe_sound | apply Qf.wornLine_sound | apply Qf.wornVersion_sound
    | apply Qf.wornEntry_sound | apply Qf.wornQp_sound | apply Qf.wornTarget_sound | split

theorem execKeyLoad_sound {m : MgrRef} {tenant : BitVec 16} {gen : BitVec 8} {s : State} (hq : Sound s.qf)
    : ∃ q, execKeyLoad m tenant gen s = .next { s with qf := q } ∧ Sound q := by
  unfold execKeyLoad done
  refine ⟨_, rfl, ?_⟩
  with_reducible repeat' first
    | assumption | intro q hq | (extract_lets +onlyGivenNames x; clear_value x) | extract_lets +onlyGivenNames x
    | apply Qf.updKeys_sound | apply Qf.mgr_sound | apply Qf.complete_sound | split

theorem Qf.abortLost_sound {q : Qf} {n : QpKey} {i : BitVec 16} {st : Status} (hq : Sound q)
    : Sound (Qf.abortLost q n i st) := by
  unfold Qf.abortLost
  with_reducible repeat' first
    | assumption | extract_lets +onlyGivenNames x | apply Qf.abortAnswer_sound | apply Qf.updWr_sound | split

theorem Qf.takeOp_sound {q : Qf} {h : HalfPort} {o : BitVec 8} (hq : Sound q) : Sound (Qf.takeOp q h o) := by
  unfold Qf.takeOp
  with_reducible repeat' first
    | assumption | apply Qf.take_sound | split

theorem execFaultHeartbeat_sound {h : HalfPort} {s : State} (hq : Sound s.qf)
    : ∃ q, execFaultHeartbeat h s = .next { s with qf := q } ∧ Sound q := by
  unfold execFaultHeartbeat done
  refine ⟨_, rfl, ?_⟩
  with_reducible repeat' first
    | assumption
    | (extract_lets +onlyGivenNames q; guard_hyp q : Qf := _; refine step_sound q ?_ (fun hq => ?_)
       rotate_left; clear_value q; rotate_left; subst q)
    | (extract_lets +onlyGivenNames x; guard_hyp x : Faults := _; subst x) | extract_lets +onlyGivenNames x
    | apply Qf.takeOp_sound | split | refine Sound.lit ?_ rfl rfl rfl

theorem Qf.qpCmd_sound {q : Qf} {w : QpWaiting} (hq : Sound q) : Sound (Qf.qpCmd q w) := by
  unfold Qf.qpCmd
  with_reducible repeat' first
    | assumption
    | (extract_lets +onlyGivenNames q; guard_hyp q : Qf := _; refine step_sound q ?_ (fun hq => ?_)
       rotate_left; clear_value q; rotate_left; subst q)
    | (extract_lets +onlyGivenNames x; clear_value x) | extract_lets +onlyGivenNames x
    | apply Qf.markStart_sound | apply Qf.resetTurn_sound | apply Qf.runQpCmd_sound | split
    | refine Sound.lit ?_ rfl rfl rfl

theorem execPipeCreate_sound {m : MgrRef} {qpn : BitVec 16} {context : BitVec 512} {s : State} (hq : Sound s.qf)
    : ∃ q, execPipeCreate m qpn context s = .next { s with qf := q } ∧ Sound q := by
  unfold execPipeCreate done
  refine ⟨_, rfl, ?_⟩
  with_reducible repeat' first
    | assumption | intro q hq | extract_lets +onlyGivenNames x | apply Qf.qpCmd_sound | apply Qf.mgr_sound

theorem execPennantDone_sound {i : Ingress} {p : Packet} {s : State} (hq : Sound s.qf)
    : ∃ q, execPennantDone i p s = .next { s with qf := q } ∧ Sound q := by
  unfold execPennantDone done
  refine ⟨_, rfl, ?_⟩
  with_reducible repeat' first
    | assumption
    | (extract_lets +onlyGivenNames q; guard_hyp q : Qf := _; refine step_sound q ?_ (fun hq => ?_)
       rotate_left; clear_value q; rotate_left; subst q)
    | extract_lets +onlyGivenNames x | apply Qf.finalAnswer_sound | apply Qf.staleAnswer_sound
    | apply Qf.restale_sound | apply Qf.response_sound | apply Qf.take_sound | split
    | refine Sound.lit ?_ rfl rfl rfl

theorem execGrantM_sound {i : Ingress} {p : Packet} {s : State} (hq : Sound s.qf)
    : ∃ q, execGrantM i p s = .next { s with qf := q } ∧ Sound q := by
  unfold execGrantM done
  refine ⟨_, rfl, ?_⟩
  with_reducible repeat' first
    | assumption | extract_lets +onlyGivenNames x | apply Qf.response_sound

theorem execRemovalWithdraw_sound {t : Tenant} {s : State} (hq : Sound s.qf)
    : ∃ q, execRemovalWithdraw t s = .next { s with qf := q } ∧ Sound q := by
  unfold execRemovalWithdraw done
  refine ⟨_, rfl, ?_⟩
  with_reducible repeat' first
    | assumption
    | (extract_lets +onlyGivenNames q; guard_hyp q : Qf := _; refine step_sound q ?_ (fun hq => ?_)
       rotate_left; clear_value q; rotate_left; subst q)
    | extract_lets +onlyGivenNames x | refine foldl_sound (fun q x hq => ?_) _ ?_ | apply Qf.updKeys_sound
    | apply Qf.withdrawBegin_sound | apply Qf.newProgress_sound | apply Qf.settle_sound
    | (split <;> try (rename_i heq; apply optp_eq at heq; refine step_sound _ (heq ?_) (fun hq => ?_)))
    | refine Sound.lit ?_ rfl rfl rfl

theorem execUndervoltage_sound {s : State} (hq : Sound s.qf)
    : ∃ q, execUndervoltage s = .next { s with qf := q } ∧ Sound q := by
  unfold execUndervoltage done
  refine ⟨_, rfl, ?_⟩
  with_reducible repeat' first
    | assumption
    | (extract_lets +onlyGivenNames q; guard_hyp q : Qf := _; refine step_sound q ?_ (fun hq => ?_)
       rotate_left; clear_value q; rotate_left; subst q)
    | (extract_lets +onlyGivenNames x; clear_value x) | extract_lets +onlyGivenNames x
    | apply Qf.powerFail_sound | apply Qf.fatalBut_sound | split | refine Sound.lit ?_ rfl rfl rfl

theorem execQpAtomic_sound {n : QpKey} {wr : BitVec 512} {s : State} (hq : Sound s.qf)
    : ∃ q, execQpAtomic n wr s = .next { s with qf := q } ∧ Sound q := by
  unfold execQpAtomic done
  refine ⟨_, rfl, ?_⟩
  with_reducible repeat' first
    | assumption | intro q hq | intro _ | extract_lets +onlyGivenNames x | apply Qf.startWr_sound
    | apply wrEffect_sound

theorem Qf.dropCancel_sound {q : Qf} {n : QpKey} {tag : Tag} (hq : Sound q) : Sound (Qf.dropCancel q n tag) := by
  unfold Qf.dropCancel
  with_reducible repeat' first
    | assumption | apply Qf.updQp_sound

theorem Qf.cancelTimeout_sound {q : Qf} {n : QpKey} {c : CancelRec} (hq : Sound q)
    : Sound (Qf.cancelTimeout q n c) := by
  unfold Qf.cancelTimeout
  with_reducible repeat' first
    | assumption
    | (extract_lets +onlyGivenNames q; guard_hyp q : Qf := _; refine step_sound q ?_ (fun hq => ?_)
       rotate_left; clear_value q; rotate_left; subst q)
    | (extract_lets +onlyGivenNames x; clear_value x) | extract_lets +onlyGivenNames x
    | refine foldl_sound (fun q x hq => ?_) _ ?_ | apply Qf.settleQp_sound | apply Qf.dropCancel_sound
    | apply Qf.updQp_sound | apply Qf.putCancel_sound | apply Qf.abortLost_sound | apply Qf.wrFail_sound | split

theorem Qf.powerOff_sound {q : Qf} (_hq : Sound q) : Sound (Qf.powerOff q) := by
  exact ⟨rfl, Nat.zero_le _, Nat.zero_le _, Nat.zero_le _⟩

theorem Qf.ensignPowerUp_sound {q : Qf} (hq : Sound q) : Sound (Qf.ensignPowerUp q) := by
  unfold Qf.ensignPowerUp
  with_reducible repeat' first
    | assumption
    | (extract_lets +onlyGivenNames q; guard_hyp q : Qf := _; refine step_sound q ?_ (fun hq => ?_)
       rotate_left; clear_value q; rotate_left; subst q)
    | (extract_lets +onlyGivenNames x; clear_value x) | extract_lets +onlyGivenNames x
    | apply Qf.logRecord_sound | split | refine Sound.lit ?_ rfl rfl rfl

theorem Qf.ensignReset_sound {q : Qf} (hq : Sound q) : Sound (Qf.ensignReset q) := by
  unfold Qf.ensignReset
  with_reducible repeat' first
    | assumption
    | (extract_lets +onlyGivenNames q; guard_hyp q : Qf := _; refine step_sound q ?_ (fun hq => ?_)
       rotate_left; clear_value q; rotate_left; subst q)
    | (extract_lets +onlyGivenNames x; clear_value x) | apply Qf.freezeFlush_sound
    | apply Qf.ensignPowerUp_sound | split | refine Sound.lit ?_ rfl rfl rfl

theorem Qf.wholeReset_sound {q : Qf} (hq : Sound q) : Sound (Qf.wholeReset q) := by
  unfold Qf.wholeReset
  extract_lets q1 n
  exact Qf.keepCounters_sound (Qf.ensignReset_sound hq) ⟨rfl, Nat.zero_le _, Nat.zero_le _, Nat.zero_le _⟩

theorem Qf.secureBoot_sound {q : Qf} (hq : Sound q) : Sound (Qf.secureBoot q) := by
  unfold Qf.secureBoot
  with_reducible repeat' first
    | assumption | (extract_lets +onlyGivenNames x; clear_value x) | extract_lets +onlyGivenNames x
    | apply Qf.fault_sound | split | refine Sound.lit ?_ rfl rfl rfl

theorem Qf.heldReset_sound {q : Qf} (hq : Sound q) : Sound (Qf.heldReset q) := by
  unfold Qf.heldReset
  with_reducible repeat' first
    | assumption
    | (extract_lets +onlyGivenNames q; guard_hyp q : Qf := _; refine step_sound q ?_ (fun hq => ?_)
       rotate_left; clear_value q; rotate_left; subst q)
    | apply Qf.wholeReset_sound | apply Qf.secureBoot_sound | split

theorem execDebugExpiry_sound {s : State} (hq : Sound s.qf)
    : ∃ q, execDebugExpiry s = .next { s with qf := q } ∧ Sound q := by
  unfold execDebugExpiry done
  refine ⟨_, rfl, ?_⟩
  with_reducible repeat' first
    | assumption | (extract_lets +onlyGivenNames x; clear_value x) | extract_lets +onlyGivenNames x | split
    | refine Sound.lit ?_ rfl rfl rfl

theorem Qf.refuseBell_sound {q : Qf} (hq : Sound q) : Sound (Qf.refuseBell q) := by
  unfold Qf.refuseBell
  with_reducible repeat' first
    | assumption | (extract_lets +onlyGivenNames x; clear_value x) | refine Sound.lit ?_ rfl rfl rfl

theorem Qf.ring_sound {q : Qf} {n : QpKey} {w : BitVec 64} (hq : Sound q) : Sound (Qf.ring q n w) := by
  unfold Qf.ring
  with_reducible repeat' first
    | assumption | (extract_lets +onlyGivenNames x; clear_value x) | extract_lets +onlyGivenNames x
    | apply Qf.settleQp_sound | apply Qf.updQp_sound | split

theorem execDoorbell_sound {i : Ingress} {p : Packet} {s : State} (hq : Sound s.qf)
    : ∃ q, execDoorbell i p s = .next { s with qf := q } ∧ Sound q := by
  unfold execDoorbell done
  refine ⟨_, rfl, ?_⟩
  with_reducible repeat' first
    | assumption
    | (extract_lets +onlyGivenNames q; guard_hyp q : Qf := _; refine step_sound q ?_ (fun hq => ?_)
       rotate_left; clear_value q; rotate_left; subst q)
    | (extract_lets +onlyGivenNames x; clear_value x) | apply Qf.refuseBell_sound | apply Qf.take_sound
    | apply Qf.ring_sound | split | refine Sound.lit ?_ rfl rfl rfl

theorem execDataClean_sound {i : Ingress} {p : Packet} {s : State} (hq : Sound s.qf)
    : ∃ q, execDataClean i p s = .next { s with qf := q } ∧ Sound q := by
  unfold execDataClean done
  refine ⟨_, rfl, ?_⟩
  with_reducible repeat' first
    | assumption | extract_lets +onlyGivenNames x | apply Qf.response_sound | apply Qf.settle_sound

theorem execSignal_sound {n : QpKey} {wr : BitVec 512} {s : State} (hq : Sound s.qf)
    : ∃ q, execSignal n wr s = .next { s with qf := q } ∧ Sound q := by
  unfold execSignal done
  refine ⟨_, rfl, ?_⟩
  with_reducible repeat' first
    | assumption | intro q hq | intro _ | extract_lets +onlyGivenNames x | apply Qf.startWr_sound
    | apply wrEffect_sound

theorem execRead_sound {n : QpKey} {wr : BitVec 512} {s : State} (hq : Sound s.qf)
    : ∃ q, execRead n wr s = .next { s with qf := q } ∧ Sound q := by
  unfold execRead done
  refine ⟨_, rfl, ?_⟩
  with_reducible repeat' first
    | assumption | intro q hq | intro _ | extract_lets +onlyGivenNames x | apply Qf.startWr_sound
    | apply wrEffect_sound

theorem execMeterTap_sound {sector : Sector} {s : State} (hq : Sound s.qf)
    : ∃ q, execMeterTap sector s = .next { s with qf := q } ∧ Sound q := by
  unfold execMeterTap done
  refine ⟨_, rfl, ?_⟩
  with_reducible repeat' first
    | assumption | (extract_lets +onlyGivenNames x; clear_value x) | extract_lets +onlyGivenNames x
    | apply Qf.tapOwed_sound | split | refine Sound.lit ?_ rfl rfl rfl

theorem Qf.onFence_sound {q : Qf} {h : HalfPort} {p : Packet} {f : Ep → Qf → Qf} (hq : Sound q)
    (hf1 : ∀ y1, Sound y1 → ∀ y0, Sound (f y0 y1)) : Sound (Qf.onFence q h p f) := by
  unfold Qf.onFence
  with_reducible repeat' first
    | assumption
    | (extract_lets +onlyGivenNames q; guard_hyp q : Qf := _; refine step_sound q ?_ (fun hq => ?_)
       rotate_left; clear_value q; rotate_left; subst q)
    | (extract_lets +onlyGivenNames x; clear_value x) | extract_lets +onlyGivenNames x
    | apply Qf.noteFence_sound | apply Qf.flood_sound | apply Qf.take_sound | apply hf1 | split

theorem execFenceAbandon_sound {h : HalfPort} {p : Packet} {s : State} (hq : Sound s.qf)
    : ∃ q, execFenceAbandon h p s = .next { s with qf := q } ∧ Sound q := by
  unfold execFenceAbandon done
  refine ⟨_, rfl, ?_⟩
  with_reducible repeat' first
    | assumption | intro q hq | intro _ | (extract_lets +onlyGivenNames x; guard_hyp x : Faults := _; subst x)
    | extract_lets +onlyGivenNames x | apply Qf.onFence_sound | refine Sound.lit ?_ rfl rfl rfl

theorem Qf.sendAgain_sound {q : Qf} {r : OpenReq} (hq : Sound q) : Sound (Qf.sendAgain q r) := by
  unfold Qf.sendAgain
  with_reducible repeat' first
    | assumption
    | (extract_lets +onlyGivenNames q; guard_hyp q : Qf := _; refine step_sound q ?_ (fun hq => ?_)
       rotate_left; clear_value q; rotate_left; subst q)
    | (extract_lets +onlyGivenNames x; clear_value x) | apply Qf.copied_sound | apply Qf.send_sound | split
    | refine Sound.lit ?_ rfl rfl rfl

theorem Qf.backOn_sound {q : Qf} {n : QpKey} {s : SentPkt} {r : OpenReq} (hq : Sound q)
    : Sound (Qf.backOn q n s r) := by
  unfold Qf.backOn
  with_reducible repeat' first
    | assumption | (extract_lets +onlyGivenNames x; clear_value x) | apply Qf.sendAgain_sound
    | apply Qf.finalAnswer_sound | split | refine Sound.lit ?_ rfl rfl rfl

theorem execRetryBackoff_sound {tag : Tag} {s : State} (hq : Sound s.qf)
    : ∃ q, execRetryBackoff tag s = .next { s with qf := q } ∧ Sound q := by
  unfold execRetryBackoff done
  refine ⟨_, rfl, ?_⟩
  with_reducible repeat' first
    | assumption | extract_lets +onlyGivenNames x | refine foldl_sound (fun q x hq => ?_) _ ?_
    | apply Qf.dropCancel_sound | apply Qf.backOn_sound | apply Qf.sendAgain_sound | apply Qf.putCancel_sound
    | split | refine Sound.lit ?_ rfl rfl rfl

theorem execKeyRotate_sound {m : MgrRef} {tenant : BitVec 16} {s : State} (hq : Sound s.qf)
    : ∃ q, execKeyRotate m tenant s = .next { s with qf := q } ∧ Sound q := by
  unfold execKeyRotate done
  refine ⟨_, rfl, ?_⟩
  with_reducible repeat' first
    | assumption | intro q hq
    | (extract_lets +onlyGivenNames q; guard_hyp q : Qf := _; refine step_sound q ?_ (fun hq => ?_)
       rotate_left; clear_value q; rotate_left; subst q)
    | (extract_lets +onlyGivenNames x; clear_value x) | extract_lets +onlyGivenNames x | apply Qf.updKeys_sound
    | apply Qf.newProgress_sound | apply Qf.mgr_sound | apply Qf.complete_sound | apply Qf.settle_sound
    | (split <;> try (rename_i heq; apply optp_eq at heq; refine step_sound _ (heq ?_) (fun hq => ?_)))

theorem execTenantRecord_sound {port : Bool} {t : Tenant} {value : BitVec 64} {s : State} (hq : Sound s.qf)
    : ∃ q, execTenantRecord port t value s = .next { s with qf := q } ∧ Sound q := by
  unfold execTenantRecord done
  refine ⟨_, rfl, ?_⟩
  with_reducible repeat' first
    | assumption | intro q hq
    | (extract_lets +onlyGivenNames q; guard_hyp q : Qf := _; refine step_sound q ?_ (fun hq => ?_)
       rotate_left; clear_value q; rotate_left; subst q)
    | (extract_lets +onlyGivenNames x; clear_value x) | extract_lets +onlyGivenNames x
    | refine foldl_sound (fun q x hq => ?_) _ ?_ | apply Qf.settleQp_sound | apply Qf.sectorWrite_sound
    | apply Qf.qpError_sound | split | refine Sound.lit ?_ rfl rfl rfl

theorem execFenceCommit_sound {h : HalfPort} {p : Packet} {s : State} (hq : Sound s.qf)
    : ∃ q, execFenceCommit h p s = .next { s with qf := q } ∧ Sound q := by
  unfold execFenceCommit done
  refine ⟨_, rfl, ?_⟩
  with_reducible repeat' first
    | assumption | intro q hq | intro _ | extract_lets +onlyGivenNames x | apply Qf.applyCommit_sound
    | apply Qf.onFence_sound

theorem execSelfReset_sound {s : State} (hq : Sound s.qf)
    : ∃ q, execSelfReset s = .next { s with qf := q } ∧ Sound q := by
  unfold execSelfReset done
  refine ⟨_, rfl, ?_⟩
  with_reducible repeat' first
    | assumption | extract_lets +onlyGivenNames x | apply Qf.wholeReset_sound | apply Qf.secureBoot_sound
    | split | refine Sound.lit ?_ rfl rfl rfl

theorem Qf.zeroise_sound {q : Qf} {t : Tenant} {g : KeyGen} (hq : Sound q) : Sound (Qf.zeroise q t g) := by
  unfold Qf.zeroise
  with_reducible repeat' first
    | assumption | apply Qf.updKeys_sound

theorem execKeyRetireTimeout_sound {t : Tenant} {g : KeyGen} {s : State} (hq : Sound s.qf)
    : ∃ q, execKeyRetireTimeout t g s = .next { s with qf := q } ∧ Sound q := by
  unfold execKeyRetireTimeout done
  refine ⟨_, rfl, ?_⟩
  with_reducible repeat' first
    | assumption | extract_lets +onlyGivenNames x | refine foldl_sound (fun q x hq => ?_) _ ?_
    | apply Qf.zeroise_sound | apply Qf.failTxn_sound | apply Qf.settle_sound | split
    | refine Sound.lit ?_ rfl rfl rfl

theorem execDrainDone_sound {s : State} (hq : Sound s.qf)
    : ∃ q, execDrainDone s = .next { s with qf := q } ∧ Sound q := by
  unfold execDrainDone done
  refine ⟨_, rfl, ?_⟩
  with_reducible repeat' first
    | assumption
    | (extract_lets +onlyGivenNames q; guard_hyp q : Qf := _; refine step_sound q ?_ (fun hq => ?_)
       rotate_left; clear_value q; rotate_left; subst q)
    | (extract_lets +onlyGivenNames x; clear_value x) | extract_lets +onlyGivenNames x
    | apply Qf.sessionEvent_sound | apply Qf.heldReset_sound | split | refine Sound.lit ?_ rfl rfl rfl

theorem execAbortResolve_sound {n : QpKey} {s : State} (hq : Sound s.qf)
    : ∃ q, execAbortResolve n s = .next { s with qf := q } ∧ Sound q := by
  unfold execAbortResolve done
  refine ⟨_, rfl, ?_⟩
  with_reducible repeat' first
    | assumption
    | (extract_lets +onlyGivenNames q; guard_hyp q : Qf := _; refine step_sound q ?_ (fun hq => ?_)
       rotate_left; clear_value q; rotate_left; subst q)
    | (extract_lets +onlyGivenNames x; clear_value x) | extract_lets +onlyGivenNames x
    | refine foldl_sound (fun q x hq => ?_) _ ?_ | apply Qf.settleQp_sound | apply Qf.updQp_sound
    | apply Qf.abortAnswer_sound | apply Qf.updWr_sound | split | refine Sound.lit ?_ rfl rfl rfl

theorem Qf.cancelWr_sound {q : Qf} {n : QpKey} {w : WorkReq} {m : Option MgrRef} (hq : Sound q)
    : Sound (Qf.cancelWr q n w m) := by
  unfold Qf.cancelWr
  with_reducible repeat' first
    | assumption
    | (extract_lets +onlyGivenNames q; guard_hyp q : Qf := _; refine step_sound q ?_ (fun hq => ?_)
       rotate_left; clear_value q; rotate_left; subst q)
    | (extract_lets +onlyGivenNames x; clear_value x) | extract_lets +onlyGivenNames x
    | refine foldl_sound (fun q x hq => ?_) _ ?_ | apply Qf.resolved_sound | apply Qf.sendCancel_sound
    | apply Qf.takeBack_sound | apply Qf.updQp_sound | apply Qf.restale_sound

theorem execQpAbort_sound {m : Option MgrRef} {src : Ep} {qpn : BitVec 16} {wrIndex : BitVec 16} {s : State}
    (hq : Sound s.qf) : ∃ q, execQpAbort m src qpn wrIndex s = .next { s with qf := q } ∧ Sound q := by
  unfold execQpAbort done
  refine ⟨_, rfl, ?_⟩
  with_reducible repeat' first
    | assumption | intro q hq
    | (extract_lets +onlyGivenNames x; guard_hyp x : Qf → Qf := _
       refine stepP (P := ∀ y0, Sound y0 → Sound (x y0)) ?_ (fun hl0 => ?_); rotate_left; clear_value x
       rotate_left; subst x)
    | (extract_lets +onlyGivenNames x; clear_value x) | extract_lets +onlyGivenNames x | apply hl0
    | apply Qf.settleQp_sound | apply Qf.updQp_sound | apply Qf.abortAnswer_sound | apply Qf.mgr_sound
    | apply Qf.complete_sound | apply Qf.cancelWr_sound | apply Qf.pipeAbort_sound | split
    | refine Sound.lit ?_ rfl rfl rfl

theorem execEphemeralKeyExpiry_sound {s : State} (hq : Sound s.qf)
    : ∃ q, execEphemeralKeyExpiry s = .next { s with qf := q } ∧ Sound q := by
  unfold execEphemeralKeyExpiry done
  refine ⟨_, rfl, ?_⟩
  with_reducible repeat' first
    | assumption | (extract_lets +onlyGivenNames x; clear_value x) | extract_lets +onlyGivenNames x | split
    | refine Sound.lit ?_ rfl rfl rfl

theorem execCopy_sound {n : QpKey} {wr : BitVec 512} {s : State} (hq : Sound s.qf)
    : ∃ q, execCopy n wr s = .next { s with qf := q } ∧ Sound q := by
  unfold execCopy done
  refine ⟨_, rfl, ?_⟩
  with_reducible repeat' first
    | assumption | intro q hq | intro _ | extract_lets +onlyGivenNames x | apply Qf.startWr_sound
    | apply wrEffect_sound

theorem execPennantWrite_sound {n : QpKey} {wr : BitVec 512} {s : State} (hq : Sound s.qf)
    : ∃ q, execPennantWrite n wr s = .next { s with qf := q } ∧ Sound q := by
  unfold execPennantWrite done
  refine ⟨_, rfl, ?_⟩
  with_reducible repeat' first
    | assumption | intro q hq | intro _ | extract_lets +onlyGivenNames x | apply Qf.startWr_sound
    | apply wrEffect_sound

theorem execSweepDone_sound {t : Tenant} {s : State} (hq : Sound s.qf)
    : ∃ q, execSweepDone t s = .next { s with qf := q } ∧ Sound q := by
  unfold execSweepDone done
  refine ⟨_, rfl, ?_⟩
  with_reducible repeat' first
    | assumption | extract_lets +onlyGivenNames x | apply Qf.updKeys_sound | apply Qf.endProgress_sound | split
    | refine Sound.lit ?_ rfl rfl rfl

theorem execQpReset_sound {m : MgrRef} {qpn : BitVec 16} {s : State} (hq : Sound s.qf)
    : ∃ q, execQpReset m qpn s = .next { s with qf := q } ∧ Sound q := by
  unfold execQpReset done
  refine ⟨_, rfl, ?_⟩
  with_reducible repeat' first
    | assumption | intro q hq | extract_lets +onlyGivenNames x | apply Qf.qpCmd_sound | apply Qf.mgr_sound

theorem execKeySlotZeroise_sound {t : Tenant} {g : KeyGen} {s : State} (hq : Sound s.qf)
    : ∃ q, execKeySlotZeroise t g s = .next { s with qf := q } ∧ Sound q := by
  unfold execKeySlotZeroise done
  refine ⟨_, rfl, ?_⟩
  with_reducible repeat' first
    | assumption | extract_lets +onlyGivenNames x | apply Qf.zeroise_sound | split
    | refine Sound.lit ?_ rfl rfl rfl

theorem execFenceVoteWindow_sound {suspect : Ep} {proposer : Ep} {s : State} (hq : Sound s.qf)
    : ∃ q, execFenceVoteWindow suspect proposer s = .next { s with qf := q } ∧ Sound q := by
  unfold execFenceVoteWindow done
  refine ⟨_, rfl, ?_⟩
  with_reducible repeat' first
    | assumption
    | (extract_lets +onlyGivenNames q; guard_hyp q : Qf := _; refine step_sound q ?_ (fun hq => ?_)
       rotate_left; clear_value q; rotate_left; subst q)
    | (extract_lets +onlyGivenNames x; guard_hyp x : Faults := _; subst x) | extract_lets +onlyGivenNames x
    | apply Qf.floodFence_sound | apply Qf.vote_sound | split | refine Sound.lit ?_ rfl rfl rfl

theorem execPlaced_sound {i : Ingress} {p : Packet} {s : State} (hq : Sound s.qf)
    : ∃ q, execPlaced i p s = .next { s with qf := q } ∧ Sound q := by
  unfold execPlaced done
  refine ⟨_, rfl, ?_⟩
  with_reducible repeat' first
    | assumption | extract_lets +onlyGivenNames x | apply Qf.response_sound

theorem execWbDone_sound {i : Ingress} {p : Packet} {s : State} (hq : Sound s.qf)
    : ∃ q, execWbDone i p s = .next { s with qf := q } ∧ Sound q := by
  unfold execWbDone done
  refine ⟨_, rfl, ?_⟩
  with_reducible repeat' first
    | assumption | extract_lets +onlyGivenNames x | apply Qf.response_sound

theorem execClearedPairExpiry_sound {src : Ep} {msgId : BitVec 24} {s : State} (hq : Sound s.qf)
    : ∃ q, execClearedPairExpiry src msgId s = .next { s with qf := q } ∧ Sound q := by
  unfold execClearedPairExpiry done
  refine ⟨_, rfl, ?_⟩
  with_reducible repeat' first
    | assumption | extract_lets +onlyGivenNames x | refine Sound.lit ?_ rfl rfl rfl

theorem execResetN_sound {low : Bool} {s : State} (hq : Sound s.qf)
    : ∃ q, execResetN low s = .next { s with qf := q } ∧ Sound q := by
  unfold execResetN done
  refine ⟨_, rfl, ?_⟩
  with_reducible repeat' first
    | assumption
    | (extract_lets +onlyGivenNames q; guard_hyp q : Qf := _; refine step_sound q ?_ (fun hq => ?_)
       rotate_left; clear_value q; rotate_left; subst q)
    | (extract_lets +onlyGivenNames x; clear_value x) | extract_lets +onlyGivenNames x
    | apply Qf.wholeReset_sound | apply Qf.secureBoot_sound | split | refine Sound.lit ?_ rfl rfl rfl

theorem execFencePropose_sound {h : HalfPort} {p : Packet} {s : State} (hq : Sound s.qf)
    : ∃ q, execFencePropose h p s = .next { s with qf := q } ∧ Sound q := by
  unfold execFencePropose done
  refine ⟨_, rfl, ?_⟩
  with_reducible repeat' first
    | assumption | intro q hq | intro _
    | (extract_lets +onlyGivenNames q; guard_hyp q : Qf := _; refine step_sound q ?_ (fun hq => ?_)
       rotate_left; clear_value q; rotate_left; subst q)
    | (extract_lets +onlyGivenNames x; guard_hyp x : Faults := _; subst x)
    | (extract_lets +onlyGivenNames x; clear_value x) | extract_lets +onlyGivenNames x
    | apply Qf.floodFence_sound | apply Qf.vote_sound | apply Qf.updProposal_sound | apply Qf.onFence_sound
    | split | refine Sound.lit ?_ rfl rfl rfl

theorem execWrite_sound {n : QpKey} {wr : BitVec 512} {s : State} (hq : Sound s.qf)
    : ∃ q, execWrite n wr s = .next { s with qf := q } ∧ Sound q := by
  unfold execWrite done
  refine ⟨_, rfl, ?_⟩
  with_reducible repeat' first
    | assumption | intro q hq | intro _ | extract_lets +onlyGivenNames x | apply Qf.startWr_sound
    | apply wrEffect_sound

theorem execWait_sound {n : QpKey} {wr : BitVec 512} {s : State} (hq : Sound s.qf)
    : ∃ q, execWait n wr s = .next { s with qf := q } ∧ Sound q := by
  unfold execWait done
  refine ⟨_, rfl, ?_⟩
  with_reducible repeat' first
    | assumption | intro q hq | intro _ | extract_lets +onlyGivenNames x | apply Qf.startWr_sound
    | apply wrEffect_sound

theorem execIntervalEnd_sound {s : State} (hq : Sound s.qf)
    : ∃ q, execIntervalEnd s = .next { s with qf := q } ∧ Sound q := by
  unfold execIntervalEnd done
  refine ⟨_, rfl, ?_⟩
  with_reducible repeat' first
    | assumption | extract_lets +onlyGivenNames x | apply Qf.endInterval_sound | split
    | refine Sound.lit ?_ rfl rfl rfl

theorem Qf.tapFlush_sound {q : Qf} {s : Sector} (hq : Sound q) : Sound (Qf.tapFlush q s) := by
  unfold Qf.tapFlush
  with_reducible repeat' first
    | assumption | extract_lets +onlyGivenNames x | refine foldl_sound (fun q x hq => ?_) _ ?_
    | apply Qf.tapSend_sound

theorem execMeterTapFlush_sound {sector : Sector} {s : State} (hq : Sound s.qf)
    : ∃ q, execMeterTapFlush sector s = .next { s with qf := q } ∧ Sound q := by
  unfold execMeterTapFlush done
  refine ⟨_, rfl, ?_⟩
  with_reducible repeat' first
    | assumption | (extract_lets +onlyGivenNames x; clear_value x) | extract_lets +onlyGivenNames x
    | apply Qf.tapFlush_sound | split | refine Sound.lit ?_ rfl rfl rfl

theorem execEnsignFinalRecord_sound {s : State} (hq : Sound s.qf)
    : ∃ q, execEnsignFinalRecord s = .next { s with qf := q } ∧ Sound q := by
  unfold execEnsignFinalRecord done
  refine ⟨_, rfl, ?_⟩
  with_reducible repeat' first
    | assumption
    | (extract_lets +onlyGivenNames q; guard_hyp q : Qf := _; refine step_sound q ?_ (fun hq => ?_)
       rotate_left; clear_value q; rotate_left; subst q)
    | (extract_lets +onlyGivenNames x; guard_hyp x : (BitVec 64 × List Byte) × Qf := _
       refine step_sound x.2 ?_ (fun hx => ?_); rotate_left; clear_value x; rotate_left; subst x)
    | (extract_lets +onlyGivenNames x; clear_value x) | extract_lets +onlyGivenNames x
    | apply Qf.closeInterval_sound | split | refine Sound.lit ?_ rfl rfl rfl

theorem execPeerSlotReopen_sound {n : QpKey} {peer : Ep} {s : State} (hq : Sound s.qf)
    : ∃ q, execPeerSlotReopen n peer s = .next { s with qf := q } ∧ Sound q := by
  unfold execPeerSlotReopen done
  refine ⟨_, rfl, ?_⟩
  with_reducible repeat' first
    | assumption | (extract_lets +onlyGivenNames x; clear_value x) | extract_lets +onlyGivenNames x
    | apply Qf.sendClose_sound | apply Qf.checkpoint_sound | split | refine Sound.lit ?_ rfl rfl rfl

theorem execInputLoss_sound {s : State} (hq : Sound s.qf)
    : ∃ q, execInputLoss s = .next { s with qf := q } ∧ Sound q := by
  unfold execInputLoss done
  refine ⟨_, rfl, ?_⟩
  with_reducible repeat' first
    | assumption | extract_lets +onlyGivenNames x | apply Qf.powerOff_sound

theorem execWaitTimeout_sound {waiter : Ep} {tag : Tag} {s : State} (hq : Sound s.qf)
    : ∃ q, execWaitTimeout waiter tag s = .next { s with qf := q } ∧ Sound q := by
  unfold execWaitTimeout done
  refine ⟨_, rfl, ?_⟩
  with_reducible repeat' first
    | assumption | extract_lets +onlyGivenNames x | apply Qf.failWaits_sound | split
    | refine Sound.lit ?_ rfl rfl rfl

theorem execSilentNeighbour_sound {ep : Ep} {s : State} (hq : Sound s.qf)
    : ∃ q, execSilentNeighbour ep s = .next { s with qf := q } ∧ Sound q := by
  unfold execSilentNeighbour done
  refine ⟨_, rfl, ?_⟩
  with_reducible repeat' first
    | assumption | extract_lets +onlyGivenNames x | apply Qf.suspect_sound | split
    | refine Sound.lit ?_ rfl rfl rfl

theorem execHeartbeatSend_sound {s : State} (hq : Sound s.qf)
    : ∃ q, execHeartbeatSend s = .next { s with qf := q } ∧ Sound q := by
  unfold execHeartbeatSend done
  refine ⟨_, rfl, ?_⟩
  with_reducible repeat' first
    | assumption
    | (extract_lets +onlyGivenNames q; guard_hyp q : Qf := _; refine step_sound q ?_ (fun hq => ?_)
       rotate_left; clear_value q; rotate_left; subst q)
    | (extract_lets +onlyGivenNames x; guard_hyp x : Faults := _; subst x) | extract_lets +onlyGivenNames x
    | refine foldl_sound (fun q x hq => ?_) _ ?_ | apply Qf.sendOn_sound | split
    | refine Sound.lit ?_ rfl rfl rfl

theorem execFlush_sound {n : QpKey} {wr : BitVec 512} {s : State} (hq : Sound s.qf)
    : ∃ q, execFlush n wr s = .next { s with qf := q } ∧ Sound q := by
  unfold execFlush done
  refine ⟨_, rfl, ?_⟩
  with_reducible repeat' first
    | assumption | intro q hq | intro _ | extract_lets +onlyGivenNames x | apply Qf.startWr_sound
    | apply wrEffect_sound

theorem execQpClose_sound {i : Ingress} {p : Packet} {s : State} (hq : Sound s.qf)
    : ∃ q, execQpClose i p s = .next { s with qf := q } ∧ Sound q := by
  unfold execQpClose done
  refine ⟨_, rfl, ?_⟩
  with_reducible repeat' first
    | assumption | intro q hq | (extract_lets +onlyGivenNames x; clear_value x) | extract_lets +onlyGivenNames x
    | apply Qf.answerFail_sound | apply Qf.request_sound | apply Qf.answer_sound | split
    | refine Sound.lit ?_ rfl rfl rfl

theorem Qf.removeNow_sound {q : Qf} {t : Tenant} (hq : Sound q) : Sound (Qf.removeNow q t) := by
  unfold Qf.removeNow
  with_reducible repeat' first
    | assumption
    | (extract_lets +onlyGivenNames q; guard_hyp q : Qf := _; refine step_sound q ?_ (fun hq => ?_)
       rotate_left; clear_value q; rotate_left; subst q)
    | (extract_lets +onlyGivenNames x; clear_value x) | extract_lets +onlyGivenNames x
    | refine foldl_sound (fun q x hq => ?_) _ ?_ | apply Qf.failTxn_sound | apply Qf.updKeys_sound
    | apply Qf.purgeTenant_sound | apply Qf.retireNow_sound | apply Qf.failReq_sound
    | apply Qf.colTenantGone_sound | apply Qf.qpError_sound | apply Qf.settle_sound | split
    | refine Sound.lit ?_ rfl rfl rfl

theorem execRemovalDeadline_sound {t : Tenant} {s : State} (hq : Sound s.qf)
    : ∃ q, execRemovalDeadline t s = .next { s with qf := q } ∧ Sound q := by
  unfold execRemovalDeadline done
  refine ⟨_, rfl, ?_⟩
  with_reducible repeat' first
    | assumption | extract_lets +onlyGivenNames x | apply Qf.removeNow_sound | split
    | refine Sound.lit ?_ rfl rfl rfl

theorem execQpDoorbell_sound {port : Bool} {word : BitVec 64} {s : State} (hq : Sound s.qf)
    : ∃ q, execQpDoorbell port word s = .next { s with qf := q } ∧ Sound q := by
  unfold execQpDoorbell done
  refine ⟨_, rfl, ?_⟩
  with_reducible repeat' first
    | assumption | intro q hq | (extract_lets +onlyGivenNames x; clear_value x) | extract_lets +onlyGivenNames x
    | apply Qf.sectorWrite_sound | apply Qf.refuseBell_sound | apply Qf.ring_sound | split

theorem Qf.openTimeout_sound {q : Qf} {r : OpenReq} (hq : Sound q) : Sound (Qf.openTimeout q r) := by
  unfold Qf.openTimeout
  with_reducible repeat' first
    | assumption
    | (extract_lets +onlyGivenNames q; guard_hyp q : Qf := _; refine step_sound q ?_ (fun hq => ?_)
       rotate_left; clear_value q; rotate_left; subst q)
    | (extract_lets +onlyGivenNames x; clear_value x) | extract_lets +onlyGivenNames x
    | refine foldl_sound (fun q x hq => ?_) _ ?_ | apply Qf.sendAgain_sound | apply Qf.finalAnswer_sound | split
    | refine Sound.lit ?_ rfl rfl rfl

theorem Qf.bareTimeout_sound {q : Qf} {r : OpenReq} (hq : Sound q) : Sound (Qf.bareTimeout q r) := by
  unfold Qf.bareTimeout
  cases r.owner <;> dsimp only <;> first
    | exact hq
    | (split
       · exact hq
       · exact Qf.openTimeout_sound hq)

theorem Qf.resolveLost_sound {q : Qf} {n : QpKey} {s : SentPkt} {r : OpenReq} (hq : Sound q)
    : Sound (Qf.resolveLost q n s r) := by
  unfold Qf.resolveLost
  with_reducible repeat' first
    | assumption
    | (extract_lets +onlyGivenNames q; guard_hyp q : Qf := _; refine step_sound q ?_ (fun hq => ?_)
       rotate_left; clear_value q; rotate_left; subst q)
    | extract_lets +onlyGivenNames x | apply Qf.resolved_sound | apply Qf.settleQp_sound
    | apply Qf.pipeWrote_sound | apply Qf.qpResolve_sound | apply Qf.resetTurn_sound | split

theorem Qf.resendSent_sound {q : Qf} {n : QpKey} {r : OpenReq} (hq : Sound q) : Sound (Qf.resendSent q n r) := by
  unfold Qf.resendSent
  with_reducible repeat' first
    | assumption
    | (extract_lets +onlyGivenNames q; guard_hyp q : Qf := _; refine step_sound q ?_ (fun hq => ?_)
       rotate_left; clear_value q; rotate_left; subst q)
    | (extract_lets +onlyGivenNames x; clear_value x) | apply Qf.sendAgain_sound | apply Qf.updQp_sound
    | refine Sound.lit ?_ rfl rfl rfl

theorem Qf.giveUp_sound {q : Qf} {n : QpKey} {s : SentPkt} {r : OpenReq} (hq : Sound q)
    : Sound (Qf.giveUp q n s r) := by
  unfold Qf.giveUp
  with_reducible repeat' first
    | assumption
    | (extract_lets +onlyGivenNames q; guard_hyp q : Qf := _; refine step_sound q ?_ (fun hq => ?_)
       rotate_left; clear_value q; rotate_left; subst q)
    | (extract_lets +onlyGivenNames x; clear_value x) | extract_lets +onlyGivenNames x | apply Qf.resolved_sound
    | apply Qf.settleQp_sound | apply Qf.qpClosed_sound | apply Qf.pipeWrote_sound | apply Qf.wrFail_sound
    | apply Qf.qpResolve_sound | apply Qf.resetTurn_sound | apply Qf.qpError_sound | split

theorem Qf.sentTimeout_sound {q : Qf} {n : QpKey} {s : SentPkt} {r : OpenReq} (hq : Sound q)
    : Sound (Qf.sentTimeout q n s r) := by
  unfold Qf.sentTimeout
  with_reducible repeat' first
    | assumption | (extract_lets +onlyGivenNames x; clear_value x) | apply Qf.resolveLost_sound
    | apply Qf.resendSent_sound | apply Qf.giveUp_sound | split

theorem execAckTimeout_sound {tag : Tag} {s : State} (hq : Sound s.qf)
    : ∃ q, execAckTimeout tag s = .next { s with qf := q } ∧ Sound q := by
  unfold execAckTimeout done
  refine ⟨_, rfl, ?_⟩
  with_reducible repeat' first
    | assumption | extract_lets +onlyGivenNames x | apply Qf.cancelTimeout_sound | apply Qf.restale_sound
    | apply Qf.bareTimeout_sound | apply Qf.sentTimeout_sound | split | refine Sound.lit ?_ rfl rfl rfl

theorem execWaitDone_sound {i : Ingress} {p : Packet} {s : State} (hq : Sound s.qf)
    : ∃ q, execWaitDone i p s = .next { s with qf := q } ∧ Sound q := by
  unfold execWaitDone done
  refine ⟨_, rfl, ?_⟩
  with_reducible repeat' first
    | assumption | extract_lets +onlyGivenNames x | apply Qf.response_sound

theorem execKeyRetireDeadline_sound {t : Tenant} {g : KeyGen} {s : State} (hq : Sound s.qf)
    : ∃ q, execKeyRetireDeadline t g s = .next { s with qf := q } ∧ Sound q := by
  unfold execKeyRetireDeadline done
  refine ⟨_, rfl, ?_⟩
  with_reducible repeat' first
    | assumption | extract_lets +onlyGivenNames x | apply Qf.retireNow_sound | apply Qf.settle_sound | split
    | refine Sound.lit ?_ rfl rfl rfl

theorem Qf.silentHolder_sound {q : Qf} {n : LineNo} {p : Packet} {ep : Ep} (hq : Sound q)
    : Sound (Qf.silentHolder q n p ep) := by
  unfold Qf.silentHolder
  with_reducible repeat' first
    | assumption
    | (extract_lets +onlyGivenNames q; guard_hyp q : Qf := _; refine step_sound q ?_ (fun hq => ?_)
       rotate_left; clear_value q; rotate_left; subst q)
    | extract_lets +onlyGivenNames x | refine foldl_sound (fun q x hq => ?_) _ ?_ | apply Qf.fault_sound
    | apply Qf.markFence_sound | split

theorem execSnoopTimeout_sound {line : LineNo} {s : State} (hq : Sound s.qf)
    : ∃ q, execSnoopTimeout line s = .next { s with qf := q } ∧ Sound q := by
  unfold execSnoopTimeout done
  refine ⟨_, rfl, ?_⟩
  with_reducible repeat' first
    | assumption
    | (extract_lets +onlyGivenNames q; guard_hyp q : Qf := _; refine step_sound q ?_ (fun hq => ?_)
       rotate_left; clear_value q; rotate_left; subst q)
    | (extract_lets +onlyGivenNames x; clear_value x) | extract_lets +onlyGivenNames x
    | refine foldl_sound (fun q x hq => ?_) _ ?_ | apply Qf.updLine_sound | apply Qf.failReq_sound
    | apply Qf.silentHolder_sound | apply Qf.settle_sound | split | refine Sound.lit ?_ rfl rfl rfl

theorem execQpDestroy_sound {m : MgrRef} {qpn : BitVec 16} {s : State} (hq : Sound s.qf)
    : ∃ q, execQpDestroy m qpn s = .next { s with qf := q } ∧ Sound q := by
  unfold execQpDestroy done
  refine ⟨_, rfl, ?_⟩
  with_reducible repeat' first
    | assumption | intro q hq | extract_lets +onlyGivenNames x | apply Qf.qpCmd_sound | apply Qf.mgr_sound

theorem execWaitPoll_sound {n : QpKey} {s : State} (hq : Sound s.qf)
    : ∃ q, execWaitPoll n s = .next { s with qf := q } ∧ Sound q := by
  unfold execWaitPoll done
  refine ⟨_, rfl, ?_⟩
  with_reducible repeat' first
    | assumption
    | (extract_lets +onlyGivenNames q; guard_hyp q : Qf := _; refine step_sound q ?_ (fun hq => ?_)
       rotate_left; clear_value q; rotate_left; subst q)
    | (extract_lets +onlyGivenNames x; clear_value x) | extract_lets +onlyGivenNames x | apply Qf.submit_sound
    | apply Qf.takeTag_sound | apply Qf.updQp_sound | apply Qf.endWait_sound | apply Qf.edgeCheck_sound
    | (split <;> try (rename_i heq; apply pair_eq at heq; refine step_sound _ (heq ?_) (fun hq => ?_)))
    | refine Sound.lit ?_ rfl rfl rfl

theorem execQpCreate_sound {m : MgrRef} {qpn : BitVec 16} {context : BitVec 512} {s : State} (hq : Sound s.qf)
    : ∃ q, execQpCreate m qpn context s = .next { s with qf := q } ∧ Sound q := by
  unfold execQpCreate done
  refine ⟨_, rfl, ?_⟩
  with_reducible repeat' first
    | assumption | intro q hq | extract_lets +onlyGivenNames x | apply Qf.qpCmd_sound | apply Qf.mgr_sound

theorem execFenceVote_sound {p : Packet} {s : State} (hq : Sound s.qf)
    : ∃ q, execFenceVote p s = .next { s with qf := q } ∧ Sound q := by
  unfold execFenceVote done
  refine ⟨_, rfl, ?_⟩
  with_reducible repeat' first
    | assumption
    | (extract_lets +onlyGivenNames q; guard_hyp q : Qf := _; refine step_sound q ?_ (fun hq => ?_)
       rotate_left; clear_value q; rotate_left; subst q)
    | (extract_lets +onlyGivenNames x; clear_value x) | extract_lets +onlyGivenNames x | apply Qf.tally_sound
    | apply Qf.transit_sound | apply Qf.take_sound | apply Qf.updProposal_sound | split
    | refine Sound.lit ?_ rfl rfl rfl

theorem execTenantRemove_sound {m : MgrRef} {tenant : BitVec 16} {td : BitVec 64} {s : State} (hq : Sound s.qf)
    : ∃ q, execTenantRemove m tenant td s = .next { s with qf := q } ∧ Sound q := by
  unfold execTenantRemove done
  refine ⟨_, rfl, ?_⟩
  with_reducible repeat' first
    | assumption | intro q hq
    | (extract_lets +onlyGivenNames q; guard_hyp q : Qf := _; refine step_sound q ?_ (fun hq => ?_)
       rotate_left; clear_value q; rotate_left; subst q)
    | (extract_lets +onlyGivenNames x; guard_hyp x : Nat × Qf := _; refine step_sound x.2 ?_ (fun hx => ?_)
       rotate_left; clear_value x; rotate_left; subst x)
    | (extract_lets +onlyGivenNames x; clear_value x) | apply Qf.updKeys_sound | apply Qf.deadlineOf_sound
    | apply Qf.removeNow_sound | apply Qf.mgr_sound | apply Qf.complete_sound | split

theorem execRequestTimeout_sound {src : Ep} {tag : Tag} {s : State} (hq : Sound s.qf)
    : ∃ q, execRequestTimeout src tag s = .next { s with qf := q } ∧ Sound q := by
  unfold execRequestTimeout done
  refine ⟨_, rfl, ?_⟩
  with_reducible repeat' first
    | assumption
    | (extract_lets +onlyGivenNames q; guard_hyp q : Qf := _; refine step_sound q ?_ (fun hq => ?_)
       rotate_left; clear_value q; rotate_left; subst q)
    | (extract_lets +onlyGivenNames x; clear_value x) | extract_lets +onlyGivenNames x | apply Qf.resolved_sound
    | apply Qf.fault_sound | apply Qf.sendPlain_sound | apply Qf.restale_sound | apply Qf.sendOn_sound | split
    | refine Sound.lit ?_ rfl rfl rfl

theorem Qf.coldStart_sound {q : Qf} (hq : Sound q) : Sound (Qf.coldStart q) := by
  unfold Qf.coldStart
  with_reducible repeat' first
    | assumption
    | (extract_lets +onlyGivenNames q; guard_hyp q : Qf := _; refine step_sound q ?_ (fun hq => ?_)
       rotate_left; clear_value q; rotate_left; subst q)
    | (extract_lets +onlyGivenNames x; clear_value x) | apply Qf.ensignPowerUp_sound | apply Qf.powerOff_sound
    | apply Qf.secureBoot_sound | split | refine Sound.lit ?_ rfl rfl rfl

theorem execPowerUp_sound {s : State} (hq : Sound s.qf)
    : ∃ q, execPowerUp s = .next { s with qf := q } ∧ Sound q := by
  unfold execPowerUp done
  refine ⟨_, rfl, ?_⟩
  with_reducible repeat' first
    | assumption | (extract_lets +onlyGivenNames x; clear_value x) | extract_lets +onlyGivenNames x
    | apply Qf.coldStart_sound | split | refine Sound.lit ?_ rfl rfl rfl

theorem Qf.wear_sound {q : Qf} (hq : Sound q) : Sound (Qf.wear q) := by
  unfold Qf.wear
  with_reducible repeat' first
    | assumption | (extract_lets +onlyGivenNames x; clear_value x) | extract_lets +onlyGivenNames x
    | apply Qf.wornAt_sound | split | refine Sound.lit ?_ rfl rfl rfl

end Sys2Proof.Machine
end

