-- ==== Sys2Proof/Laws/SoundService.lean ====
section
/-! SUPPORT. Laws/SoundService.lean: power and observation
keep Safety.Sound: one lemma per operation and per command. -/

set_option linter.tactic.unusedName false

namespace Sys2Proof.Machine
open Sys2Proof.Safety

theorem Qf.sendTime_sound {q : Qf} {h : HalfPort} {c : TimeMsg} (hq : Sound q) : Sound (Qf.sendTime q h c) := by
  unfold Qf.sendTime
  with_reducible repeat' first
    | assumption | apply Qf.updLink_sound

theorem execTimeSync_sound {s : State} (hq : Sound s.qf)
    : ∃ q, execTimeSync s = .next { s with qf := q } ∧ Sound q := by
  unfold execTimeSync done
  refine ⟨_, rfl, ?_⟩
  with_reducible repeat' first
    | assumption
    | (extract_lets +onlyGivenNames q; guard_hyp q : Qf := _; refine step_sound q ?_ (fun hq => ?_)
       rotate_left; clear_value q; rotate_left; subst q)
    | (extract_lets +onlyGivenNames x; clear_value x) | extract_lets +onlyGivenNames x | apply Qf.sendTime_sound
    | split | refine Sound.lit ?_ rfl rfl rfl

theorem Qf.takeTime_sound {q : Qf} (hq : Sound q) : Sound (Qf.takeTime q) := by
  unfold Qf.takeTime
  with_reducible repeat' first
    | assumption
    | (extract_lets +onlyGivenNames q; guard_hyp q : Qf := _; refine step_sound q ?_ (fun hq => ?_)
       rotate_left; clear_value q; rotate_left; subst q)
    | (extract_lets +onlyGivenNames x; clear_value x) | apply Qf.complete_sound | split
    | refine Sound.lit ?_ rfl rfl rfl

theorem Qf.setTimeParent_sound {q : Qf} {v : BitVec 8} (hq : Sound q) : Sound (Qf.setTimeParent q v) := by
  unfold Qf.setTimeParent
  with_reducible repeat' first
    | assumption
    | (extract_lets +onlyGivenNames q; guard_hyp q : Qf := _; refine step_sound q ?_ (fun hq => ?_)
       rotate_left; clear_value q; rotate_left; subst q)
    | (extract_lets +onlyGivenNames x; clear_value x) | apply Qf.takeTime_sound | split
    | refine Sound.lit ?_ rfl rfl rfl

theorem Qf.setZenith_sound {q : Qf} {v : BitVec 64} (hq : Sound q) : Sound (Qf.setZenith q v).2 := by
  unfold Qf.setZenith
  with_reducible repeat' first
    | assumption | (extract_lets +onlyGivenNames x; clear_value x) | extract_lets +onlyGivenNames x
    | apply Qf.stepClock_sound | split | refine Sound.lit ?_ rfl rfl rfl

theorem Qf.runUnit_sound {q : Qf} {d : Nat} (hq : Sound q) : Sound (Qf.runUnit q d) := by
  unfold Qf.runUnit
  with_reducible repeat' first
    | assumption
    | (extract_lets +onlyGivenNames q; guard_hyp q : Qf := _; refine step_sound q ?_ (fun hq => ?_)
       rotate_left; clear_value q; rotate_left; subst q)
    | (extract_lets +onlyGivenNames x; clear_value x) | extract_lets +onlyGivenNames x
    | refine foldl_sound (fun q x hq => ?_) _ ?_ | apply Qf.goEnc_sound | apply Qf.startShards_sound
    | apply Qf.startPipes_sound | apply Qf.runFetched_sound | apply Qf.colRun_sound | split

theorem Qf.putDomain_sound {q : Qf} {d : Nat} {st : Nat} (hq : Sound q) : Sound (Qf.putDomain q d st) := by
  unfold Qf.putDomain
  with_reducible repeat' first
    | assumption | (extract_lets +onlyGivenNames x; clear_value x) | split | refine Sound.lit ?_ rfl rfl rfl

theorem Qf.setDomain_sound {q : Qf} {d : Nat} {b : Bool} (hq : Sound q) : Sound (Qf.setDomain q d b).2 := by
  unfold Qf.setDomain
  with_reducible repeat' first
    | assumption
    | (extract_lets +onlyGivenNames q; guard_hyp q : Qf := _; refine step_sound q ?_ (fun hq => ?_)
       rotate_left; clear_value q; rotate_left; subst q)
    | (extract_lets +onlyGivenNames x; clear_value x) | extract_lets +onlyGivenNames x
    | refine foldl_sound (fun q x hq => ?_) _ ?_ | apply Qf.runUnit_sound | apply Qf.putDomain_sound
    | apply Qf.okAns_sound | apply Qf.badAns_sound | apply Qf.wantUnit_sound | split
    | refine Sound.lit ?_ rfl rfl rfl

theorem Qf.startHoldup_sound {q : Qf} (hq : Sound q) : Sound (Qf.startHoldup q) := by
  unfold Qf.startHoldup
  with_reducible repeat' first
    | assumption | (extract_lets +onlyGivenNames x; clear_value x) | split | refine Sound.lit ?_ rfl rfl rfl

theorem Qf.holdupNow_sound {q : Qf} (hq : Sound q) : Sound (Qf.holdupNow q).2 := by
  unfold Qf.holdupNow
  with_reducible repeat' first
    | assumption | extract_lets +onlyGivenNames x | apply Qf.startHoldup_sound | apply Qf.okAns_sound
    | apply Qf.retryAns_sound | split

theorem Qf.hzLatch_sound {q : Qf} {late : Bool} (hq : Sound q) : Sound (Qf.hzLatch q late) := by
  unfold Qf.hzLatch
  with_reducible repeat' first
    | assumption | (extract_lets +onlyGivenNames x; clear_value x) | split | refine Sound.lit ?_ rfl rfl rfl

theorem Qf.hzArm_sound {q : Qf} {origin : Ep} {seq : BitVec 32} {th : Nat} {prop : Bool} (hq : Sound q)
    : Sound (Qf.hzArm q origin seq th prop) := by
  unfold Qf.hzArm
  with_reducible repeat' first
    | assumption
    | (extract_lets +onlyGivenNames q; guard_hyp q : Qf := _; refine step_sound q ?_ (fun hq => ?_)
       rotate_left; clear_value q; rotate_left; subst q)
    | (extract_lets +onlyGivenNames x; clear_value x) | apply Qf.hzLatch_sound | split
    | refine Sound.lit ?_ rfl rfl rfl

theorem Qf.horizonCapture_sound {q : Qf} {prop : Bool} {v : BitVec 64} (hq : Sound q)
    : Sound (Qf.horizonCapture q prop v).2 := by
  unfold Qf.horizonCapture
  with_reducible repeat' first
    | assumption
    | (extract_lets +onlyGivenNames q; guard_hyp q : Qf := _; refine step_sound q ?_ (fun hq => ?_)
       rotate_left; clear_value q; rotate_left; subst q)
    | (extract_lets +onlyGivenNames x; clear_value x) | apply Qf.flood_sound | apply Qf.hzArm_sound | split
    | refine Sound.lit ?_ rfl rfl rfl

theorem Qf.stepTime_sound {q : Qf} {th : ℤ} (hq : Sound q) : Sound (Qf.stepTime q th) := by
  unfold Qf.stepTime
  with_reducible repeat' first
    | assumption | (extract_lets +onlyGivenNames x; clear_value x) | extract_lets +onlyGivenNames x
    | apply Qf.stepClock_sound | refine Sound.lit ?_ rfl rfl rfl

theorem Qf.correct_sound {q : Qf} {th : ℤ} (hq : Sound q) : Sound (Qf.correct q th) := by
  unfold Qf.correct
  with_reducible repeat' first
    | assumption
    | (extract_lets +onlyGivenNames q; guard_hyp q : Qf := _; refine step_sound q ?_ (fun hq => ?_)
       rotate_left; clear_value q; rotate_left; subst q)
    | (extract_lets +onlyGivenNames x; clear_value x) | apply Qf.stepTime_sound | split
    | refine Sound.lit ?_ rfl rfl rfl

theorem execPpsIn_sound {stamp : BitVec 64} {s : State} (hq : Sound s.qf)
    : ∃ q, execPpsIn stamp s = .next { s with qf := q } ∧ Sound q := by
  unfold execPpsIn done
  refine ⟨_, rfl, ?_⟩
  with_reducible repeat' first
    | assumption
    | (extract_lets +onlyGivenNames q; guard_hyp q : Qf := _; refine step_sound q ?_ (fun hq => ?_)
       rotate_left; clear_value q; rotate_left; subst q)
    | (extract_lets +onlyGivenNames x; clear_value x) | apply Qf.correct_sound | split
    | refine Sound.lit ?_ rfl rfl rfl

theorem execThermalSample_sound {die : BitVec 16} {stackTemps : List (BitVec 16)} {s : State} (hq : Sound s.qf)
    : ∃ q, execThermalSample die stackTemps s = .next { s with qf := q } ∧ Sound q := by
  unfold execThermalSample done
  refine ⟨_, rfl, ?_⟩
  with_reducible repeat' first
    | assumption
    | (extract_lets +onlyGivenNames q; guard_hyp q : Qf := _; refine step_sound q ?_ (fun hq => ?_)
       rotate_left; clear_value q; rotate_left; subst q)
    | (extract_lets +onlyGivenNames x; clear_value x) | extract_lets +onlyGivenNames x
    | apply Qf.powerFail_sound | apply Qf.fault_sound | apply Qf.fatalBut_sound | split
    | refine Sound.lit ?_ rfl rfl rfl

theorem execPpsInLost_sound {s : State} (hq : Sound s.qf)
    : ∃ q, execPpsInLost s = .next { s with qf := q } ∧ Sound q := by
  unfold execPpsInLost done
  refine ⟨_, rfl, ?_⟩
  with_reducible repeat' first
    | assumption | (extract_lets +onlyGivenNames x; clear_value x) | extract_lets +onlyGivenNames x | split
    | refine Sound.lit ?_ rfl rfl rfl

theorem Qf.tapIr_sound {q : Qf} {ir : BitVec 8} (hq : Sound q) : Sound (Qf.tapIr q ir) := by
  unfold Qf.tapIr
  with_reducible repeat' first
    | assumption | (extract_lets +onlyGivenNames x; clear_value x) | refine Sound.lit ?_ rfl rfl rfl

theorem Qf.tapBypass_sound {q : Qf} {ir : BitVec 8} (hq : Sound q) : Sound (Qf.tapBypass q ir) := by
  unfold Qf.tapBypass
  with_reducible repeat' first
    | assumption
    | (extract_lets +onlyGivenNames q; guard_hyp q : Qf := _; refine step_sound q ?_ (fun hq => ?_)
       rotate_left; clear_value q; rotate_left; subst q)
    | (extract_lets +onlyGivenNames x; clear_value x) | apply Qf.tapIr_sound | refine Sound.lit ?_ rfl rfl rfl

theorem execBypass_sound {s : State} (hq : Sound s.qf) : ∃ q, execBypass s = .next { s with qf := q } ∧ Sound q := by
  unfold execBypass done
  refine ⟨_, rfl, ?_⟩
  with_reducible repeat' first
    | assumption | extract_lets +onlyGivenNames x | apply Qf.tapBypass_sound | split
    | refine Sound.lit ?_ rfl rfl rfl

theorem Qf.holdupCap_sound {q : Qf} {charge : Nat} {droop : Nat} (hq : Sound q)
    : Sound (Qf.holdupCap q charge droop).2 := by
  unfold Qf.holdupCap
  with_reducible repeat' first
    | assumption | apply Qf.takeFree_sound | split

theorem Qf.tapPrivate_sound {q : Qf} {ir : BitVec 8} {f : Qf → Qf} (hq : Sound q)
    (hf1 : ∀ y0, Sound y0 → Sound (f y0)) : Sound (Qf.tapPrivate q ir f) := by
  unfold Qf.tapPrivate
  with_reducible repeat' first
    | assumption | extract_lets +onlyGivenNames x | apply Qf.tapBypass_sound | apply Qf.tapIr_sound | apply hf1
    | split

theorem execSquall_sound {update : Bool} {s : State} (hq : Sound s.qf)
    : ∃ q, execSquall update s = .next { s with qf := q } ∧ Sound q := by
  unfold execSquall done
  refine ⟨_, rfl, ?_⟩
  with_reducible repeat' first
    | assumption | intro q hq | extract_lets +onlyGivenNames x | apply Qf.tapPrivate_sound
    | apply Qf.squall_sound | split

theorem execHorizon_sound {h : HalfPort} {p : Packet} {s : State} (hq : Sound s.qf)
    : ∃ q, execHorizon h p s = .next { s with qf := q } ∧ Sound q := by
  unfold execHorizon done
  refine ⟨_, rfl, ?_⟩
  beta_reduce
  split
  · exact hq
  · extract_lets q1 m d q2 q3
    have h1 : Sound q1 := Qf.take_sound hq
    have h2 : Sound q2 := Sound.of h1 rfl rfl rfl rfl
    have h3 : Sound q3 := Qf.flood_sound h2
    split
    · exact h1
    · split
      · exact Qf.hzArm_sound h3
      · exact h3

theorem execScanSelect_sound {chain : BitVec 8} {s : State} (hq : Sound s.qf)
    : ∃ q, execScanSelect chain s = .next { s with qf := q } ∧ Sound q := by
  unfold execScanSelect done
  refine ⟨_, rfl, ?_⟩
  with_reducible repeat' first
    | assumption | intro q hq | (extract_lets +onlyGivenNames x; clear_value x) | extract_lets +onlyGivenNames x
    | apply Qf.tapPrivate_sound | refine Sound.lit ?_ rfl rfl rfl

theorem execHoldupTestEnd_sound {charge : Nat} {droop : Nat} {s : State} (hq : Sound s.qf)
    : ∃ q, execHoldupTestEnd charge droop s = .next { s with qf := q } ∧ Sound q := by
  unfold execHoldupTestEnd done
  refine ⟨_, rfl, ?_⟩
  with_reducible repeat' first
    | assumption
    | (extract_lets +onlyGivenNames q; guard_hyp q : Qf := _; refine step_sound q ?_ (fun hq => ?_)
       rotate_left; clear_value q; rotate_left; subst q)
    | (extract_lets +onlyGivenNames x; guard_hyp x : Nat × Qf := _; refine step_sound x.2 ?_ (fun hx => ?_)
       rotate_left; clear_value x; rotate_left; subst x)
    | (extract_lets +onlyGivenNames x; clear_value x) | extract_lets +onlyGivenNames x
    | apply Qf.holdupCap_sound | split | refine Sound.lit ?_ rfl rfl rfl

theorem execHoldupTest_sound {s : State} (hq : Sound s.qf)
    : ∃ q, execHoldupTest s = .next { s with qf := q } ∧ Sound q := by
  unfold execHoldupTest done
  refine ⟨_, rfl, ?_⟩
  with_reducible repeat' first
    | assumption | extract_lets +onlyGivenNames x | apply Qf.startHoldup_sound | split
    | refine Sound.lit ?_ rfl rfl rfl

theorem execScanRead_sound {s : State} (hq : Sound s.qf)
    : ∃ q, execScanRead s = .next { s with qf := q } ∧ Sound q := by
  unfold execScanRead done
  refine ⟨_, rfl, ?_⟩
  with_reducible repeat' first
    | assumption | intro q hq | (extract_lets +onlyGivenNames x; clear_value x) | extract_lets +onlyGivenNames x
    | apply Qf.tapPrivate_sound | refine Sound.lit ?_ rfl rfl rfl

theorem execSamplePreload_sound {value : BitVec 64} {s : State} (hq : Sound s.qf)
    : ∃ q, execSamplePreload value s = .next { s with qf := q } ∧ Sound q := by
  unfold execSamplePreload done
  refine ⟨_, rfl, ?_⟩
  with_reducible repeat' first
    | assumption
    | (extract_lets +onlyGivenNames q; guard_hyp q : Qf := _; refine step_sound q ?_ (fun hq => ?_)
       rotate_left; clear_value q; rotate_left; subst q)
    | (extract_lets +onlyGivenNames x; clear_value x) | extract_lets +onlyGivenNames x
    | apply Qf.tapBypass_sound | apply Qf.tapIr_sound | split | refine Sound.lit ?_ rfl rfl rfl

theorem execDomainWake_sound {domain : BitVec 7} {s : State} (hq : Sound s.qf)
    : ∃ q, execDomainWake domain s = .next { s with qf := q } ∧ Sound q := by
  unfold execDomainWake done
  refine ⟨_, rfl, ?_⟩
  with_reducible repeat' first
    | assumption | (extract_lets +onlyGivenNames x; clear_value x) | extract_lets +onlyGivenNames x
    | apply Qf.runUnit_sound | apply Qf.putDomain_sound | split | refine Sound.lit ?_ rfl rfl rfl

theorem Qf.lockTime_sound {q : Qf} {th : ℤ} (hq : Sound q) : Sound (Qf.lockTime q th) := by
  unfold Qf.lockTime
  with_reducible repeat' first
    | assumption | (extract_lets +onlyGivenNames x; clear_value x) | refine Sound.lit ?_ rfl rfl rfl

theorem Qf.exchange_sound {q : Qf} {h : HalfPort} {t1 : BitVec 80} {t2 : BitVec 80} {t3 : BitVec 80}
    {t4 : BitVec 80} (hq : Sound q) : Sound (Qf.exchange q h t1 t2 t3 t4) := by
  unfold Qf.exchange
  with_reducible repeat' first
    | assumption
    | (extract_lets +onlyGivenNames q; guard_hyp q : Qf := _; refine step_sound q ?_ (fun hq => ?_)
       rotate_left; clear_value q; rotate_left; subst q)
    | (extract_lets +onlyGivenNames x; clear_value x) | extract_lets +onlyGivenNames x | apply Qf.takeTime_sound
    | apply Qf.lockTime_sound | apply Qf.correct_sound | split | refine Sound.lit ?_ rfl rfl rfl

theorem execTime_sound {h : HalfPort} {c : TimeMsg} {s : State} (hq : Sound s.qf)
    : ∃ q, execTime h c s = .next { s with qf := q } ∧ Sound q := by
  unfold execTime done
  refine ⟨_, rfl, ?_⟩
  with_reducible repeat' first
    | assumption | (extract_lets +onlyGivenNames x; clear_value x) | extract_lets +onlyGivenNames x
    | apply Qf.sendTime_sound | apply Qf.exchange_sound | split | refine Sound.lit ?_ rfl rfl rfl

theorem execRegulatorFailure_sound {domain : BitVec 7} {s : State} (hq : Sound s.qf)
    : ∃ q, execRegulatorFailure domain s = .next { s with qf := q } ∧ Sound q := by
  unfold execRegulatorFailure done
  refine ⟨_, rfl, ?_⟩
  with_reducible repeat' first
    | assumption | extract_lets +onlyGivenNames x | apply Qf.fatal_sound | split
    | refine Sound.lit ?_ rfl rfl rfl

theorem execIdcode_sound {s : State} (hq : Sound s.qf) : ∃ q, execIdcode s = .next { s with qf := q } ∧ Sound q := by
  unfold execIdcode done
  refine ⟨_, rfl, ?_⟩
  with_reducible repeat' first
    | assumption
    | (extract_lets +onlyGivenNames q; guard_hyp q : Qf := _; refine step_sound q ?_ (fun hq => ?_)
       rotate_left; clear_value q; rotate_left; subst q)
    | (extract_lets +onlyGivenNames x; clear_value x) | extract_lets +onlyGivenNames x | apply Qf.tapIr_sound
    | split | refine Sound.lit ?_ rfl rfl rfl

theorem execCounterPage_sound {t : Tenant} {s : State} (hq : Sound s.qf)
    : ∃ q, execCounterPage t s = .next { s with qf := q } ∧ Sound q := by
  unfold execCounterPage done
  refine ⟨_, rfl, ?_⟩
  with_reducible repeat' first
    | assumption
    | (extract_lets +onlyGivenNames q; guard_hyp q : Qf := _; refine step_sound q ?_ (fun hq => ?_)
       rotate_left; clear_value q; rotate_left; subst q)
    | (extract_lets +onlyGivenNames x; guard_hyp x : Option Status × Qf := _
       refine step_sound x.2 ?_ (fun hx => ?_); rotate_left; clear_value x; rotate_left; subst x)
    | (extract_lets +onlyGivenNames x; clear_value x) | extract_lets +onlyGivenNames x | apply Qf.engWrite_sound
    | apply Qf.pageFailed_sound | apply Qf.takeMsg_sound
    | (split <;> try (rename_i heq; apply pair_eq at heq; refine step_sound _ (heq ?_) (fun hq => ?_)))
    | refine Sound.lit ?_ rfl rfl rfl

theorem execSquallPacket_sound {h : HalfPort} {p : Packet} {s : State} (hq : Sound s.qf)
    : ∃ q, execSquallPacket h p s = .next { s with qf := q } ∧ Sound q := by
  unfold execSquallPacket done
  refine ⟨_, rfl, ?_⟩
  with_reducible repeat' first
    | assumption
    | (extract_lets +onlyGivenNames q; guard_hyp q : Qf := _; refine step_sound q ?_ (fun hq => ?_)
       rotate_left; clear_value q; rotate_left; subst q)
    | extract_lets +onlyGivenNames x | apply Qf.squall_sound | apply Qf.take_sound | split
    | refine Sound.lit ?_ rfl rfl rfl

theorem execHorizonLatch_sound {s : State} (hq : Sound s.qf)
    : ∃ q, execHorizonLatch s = .next { s with qf := q } ∧ Sound q := by
  unfold execHorizonLatch done
  refine ⟨_, rfl, ?_⟩
  with_reducible repeat' first
    | assumption | extract_lets +onlyGivenNames x | apply Qf.hzLatch_sound | split
    | refine Sound.lit ?_ rfl rfl rfl

theorem execPerstN_sound {port : Bool} {asserted : Bool} {s : State} (hq : Sound s.qf)
    : ∃ q, execPerstN port asserted s = .next { s with qf := q } ∧ Sound q := by
  unfold execPerstN done
  refine ⟨_, rfl, ?_⟩
  with_reducible repeat' first
    | assumption | extract_lets +onlyGivenNames x | refine Sound.lit ?_ rfl rfl rfl

theorem execDomainPowerDown_sound {domain : BitVec 7} {s : State} (hq : Sound s.qf)
    : ∃ q, execDomainPowerDown domain s = .next { s with qf := q } ∧ Sound q := by
  unfold execDomainPowerDown done
  refine ⟨_, rfl, ?_⟩
  with_reducible repeat' first
    | assumption | (extract_lets +onlyGivenNames x; clear_value x) | extract_lets +onlyGivenNames x
    | apply Qf.runUnit_sound | apply Qf.putDomain_sound | split | refine Sound.lit ?_ rfl rfl rfl

theorem execHorizonReady_sound {s : State} (hq : Sound s.qf)
    : ∃ q, execHorizonReady s = .next { s with qf := q } ∧ Sound q := by
  unfold execHorizonReady done
  refine ⟨_, rfl, ?_⟩
  with_reducible repeat' first
    | assumption | (extract_lets +onlyGivenNames x; clear_value x) | extract_lets +onlyGivenNames x | split
    | refine Sound.lit ?_ rfl rfl rfl

theorem execPpsOut_sound {s : State} (hq : Sound s.qf) : ∃ q, execPpsOut s = .next { s with qf := q } ∧ Sound q := by
  unfold execPpsOut done
  refine ⟨_, rfl, ?_⟩
  with_reducible repeat' first
    | assumption | (extract_lets +onlyGivenNames x; clear_value x) | extract_lets +onlyGivenNames x | split
    | refine Sound.lit ?_ rfl rfl rfl

theorem execExtest_sound {value : BitVec 64} {s : State} (hq : Sound s.qf)
    : ∃ q, execExtest value s = .next { s with qf := q } ∧ Sound q := by
  unfold execExtest done
  refine ⟨_, rfl, ?_⟩
  with_reducible repeat' first
    | assumption
    | (extract_lets +onlyGivenNames q; guard_hyp q : Qf := _; refine step_sound q ?_ (fun hq => ?_)
       rotate_left; clear_value q; rotate_left; subst q)
    | (extract_lets +onlyGivenNames x; clear_value x) | extract_lets +onlyGivenNames x
    | apply Qf.tapBypass_sound | apply Qf.tapIr_sound | split | refine Sound.lit ?_ rfl rfl rfl

end Sys2Proof.Machine
end

