-- ==== Sys2Proof/Laws/SoundDictionary.lean ====
section
/-! SUPPORT. Laws/SoundDictionary.lean: the dictionary, the management channels, the host interface, managed commands and boot
keep Safety.Sound: one lemma per operation and per command. -/

set_option linter.tactic.unusedName false

namespace Sys2Proof.Machine
open Sys2Proof.Safety

theorem Qf.storeSetting_sound {q : Qf} {e : Entry} {sel : Nat} (hq : Sound q) : Sound (Qf.storeSetting q e sel) := by
  unfold Qf.storeSetting
  with_reducible repeat' first
    | assumption | (extract_lets +onlyGivenNames x; clear_value x) | split | refine Sound.lit ?_ rfl rfl rfl

theorem Qf.writeWith_sound {q : Qf} {x : AgSession} {index : BitVec 16} {sub : BitVec 8} {f : Entry → Qf → Ans}
    (hq : Sound q) (hf1 : ∀ y1, Sound y1 → ∀ y0, Sound (f y0 y1).2) : Sound (Qf.writeWith q x index sub f).2 := by
  unfold Qf.writeWith
  with_reducible repeat' first
    | assumption
    | (extract_lets +onlyGivenNames x; guard_hyp x : Ans := _; refine step_sound x.2 ?_ (fun hx => ?_)
       rotate_left; clear_value x; rotate_left; subst x)
    | apply Qf.storeSetting_sound | apply hf1 | split

theorem Qf.acting_sound {q : Qf} {v : Nat} {f : Qf → Ans} (hq : Sound q) (hf1 : ∀ y0, Sound y0 → Sound (f y0).2)
    : Sound (Qf.acting q v f).2 := by
  unfold Qf.acting
  with_reducible repeat' first
    | assumption | apply Qf.okAns_sound | apply Qf.badAns_sound | apply hf1 | split

theorem Qf.writeEnsign_sound {q : Qf} {key : Nat} {v : Nat} {bs : List Byte} (hq : Sound q)
    : Sound (Qf.writeEnsign q key v bs).2 := by
  unfold Qf.writeEnsign
  with_reducible repeat' first
    | assumption | intro q hq | extract_lets +onlyGivenNames x | apply Qf.ensignStage_sound
    | apply Qf.okAns_sound | apply Qf.setInterval_sound | apply Qf.badAns_sound | apply Qf.acting_sound
    | apply takenAns_sound | apply Qf.ensignActivate_sound | apply Qf.setAuthority_sound | split

theorem Qf.ranged_sound {q : Qf} {ok : Bool} {new : Qf} (hq : Sound q) (hq1 : Sound new)
    : Sound (Qf.ranged q ok new).2 := by
  unfold Qf.ranged
  with_reducible repeat' first
    | assumption | apply Qf.okAns_sound | apply Qf.badAns_sound | split

theorem Qf.writePool_sound {q : Qf} {sel : Nat} {key : Nat} {v : Nat} (hq : Sound q)
    : Sound (Qf.writePool q sel key v).2 := by
  unfold Qf.writePool
  with_reducible repeat' first
    | assumption | (extract_lets +onlyGivenNames x; clear_value x) | extract_lets +onlyGivenNames x
    | apply Qf.updQuota_sound | apply Qf.okAns_sound | apply Qf.badAns_sound | apply Qf.checkShort_sound
    | apply Qf.ranged_sound | split | refine Sound.lit ?_ rfl rfl rfl

theorem Qf.writeObserve_sound {q : Qf} {sel : Nat} {key : Nat} {v : Nat} (hq : Sound q)
    : Sound (Qf.writeObserve q sel key v).2 := by
  unfold Qf.writeObserve
  with_reducible repeat' first
    | assumption | intro q hq | (extract_lets +onlyGivenNames x; clear_value x) | extract_lets +onlyGivenNames x
    | apply Qf.setTimeParent_sound | apply Qf.setZenith_sound | apply Qf.setDomain_sound
    | apply Qf.holdupNow_sound | apply Qf.squall_sound | apply Qf.okAns_sound | apply Qf.badAns_sound
    | apply Qf.horizonCapture_sound | apply Qf.acting_sound | apply Qf.ranged_sound | apply takenAns_sound
    | split | refine Sound.lit ?_ rfl rfl rfl

theorem Qf.setClass_sound {q : Qf} {h : HalfPort} {c : Nat} {part : Nat} {v : Nat} (hq : Sound q)
    : Sound (Qf.setClass q h c part v).2 := by
  unfold Qf.setClass
  with_reducible repeat' first
    | assumption | extract_lets +onlyGivenNames x | apply Qf.updEgress_sound | apply Qf.ranged_sound

theorem Qf.setPort_sound {q : Qf} {h : HalfPort} {part : Nat} {v : Nat} (hq : Sound q)
    : Sound (Qf.setPort q h part v).2 := by
  unfold Qf.setPort
  with_reducible repeat' first
    | assumption | extract_lets +onlyGivenNames x | apply Qf.updEgress_sound | apply Qf.ranged_sound

theorem Qf.setPolicer_sound {q : Qf} {t : Tenant} {part : Nat} {v : Nat} (hq : Sound q)
    : Sound (Qf.setPolicer q t part v).2 := by
  unfold Qf.setPolicer
  with_reducible repeat' first
    | assumption | extract_lets +onlyGivenNames x | apply Qf.updPolicer_sound | apply Qf.ranged_sound

theorem Qf.writeSched_sound {q : Qf} {sel : Nat} {key : Nat} {v : Nat} {bs : List Byte} (hq : Sound q)
    : Sound (Qf.writeSched q sel key v bs).2 := by
  unfold Qf.writeSched
  with_reducible repeat' first
    | assumption | intro q hq | (extract_lets +onlyGivenNames x; clear_value x) | extract_lets +onlyGivenNames x
    | apply Qf.armGate_sound | apply Qf.updEgress_sound | apply Qf.updPolicer_sound | apply Qf.setClass_sound
    | apply Qf.okAns_sound | apply Qf.badAns_sound | apply Qf.acting_sound | apply Qf.ranged_sound
    | apply takenAns_sound | apply Qf.setPort_sound | apply Qf.setPolicer_sound | split
    | refine Sound.lit ?_ rfl rfl rfl

theorem Qf.setAnchors_sound {q : Qf} {bs : List Byte} (hq : Sound q) : Sound (Qf.setAnchors q bs).2 := by
  unfold Qf.setAnchors
  with_reducible repeat' first
    | assumption | (extract_lets +onlyGivenNames x; clear_value x) | extract_lets +onlyGivenNames x
    | apply Qf.okAns_sound | apply Qf.badAns_sound | split | refine Sound.lit ?_ rfl rfl rfl

theorem Qf.exactly_sound {q : Qf} {n : Nat} {bs : List Byte} {f : Qf → Ans} (hq : Sound q)
    (hf1 : ∀ y0, Sound y0 → Sound (f y0).2) : Sound (Qf.exactly q n bs f).2 := by
  unfold Qf.exactly
  with_reducible repeat' first
    | assumption | apply hf1 | split

theorem Qf.writeSecurity_sound {q : Qf} {key : Nat} {v : Nat} {bs : List Byte} (hq : Sound q)
    : Sound (Qf.writeSecurity q key v bs).2 := by
  unfold Qf.writeSecurity
  with_reducible repeat' first
    | assumption | intro q hq | (extract_lets +onlyGivenNames x; clear_value x) | extract_lets +onlyGivenNames x
    | apply Qf.setAnchors_sound | apply Qf.exactly_sound | apply Qf.okAns_sound | apply Qf.badAns_sound
    | apply Qf.enrolTenant_sound | apply Qf.setDebug_sound | apply Qf.attest_sound | split
    | refine Sound.lit ?_ rfl rfl rfl

theorem Qf.writeFaults_sound {q : Qf} {key : Nat} {v : Nat} {bs : List Byte} (hq : Sound q)
    : Sound (Qf.writeFaults q key v bs).2 := by
  unfold Qf.writeFaults
  with_reducible repeat' first
    | assumption | intro q hq | (extract_lets +onlyGivenNames x; guard_hyp x : Faults := _; subst x)
    | (extract_lets +onlyGivenNames x; clear_value x) | extract_lets +onlyGivenNames x
    | apply Qf.commitFence_sound | apply Qf.clearSource_sound | apply Qf.setBackup_sound
    | apply Qf.exactly_sound | apply Qf.okAns_sound | apply Qf.badAns_sound | apply Qf.ranged_sound
    | apply Qf.lineClear_sound | split | refine Sound.lit ?_ rfl rfl rfl

theorem Qf.writeLink_sound {q : Qf} {sel : Nat} {key : Nat} {v : Nat} (hq : Sound q)
    : Sound (Qf.writeLink q sel key v).2 := by
  unfold Qf.writeLink
  with_reducible repeat' first
    | assumption | (extract_lets +onlyGivenNames x; clear_value x) | extract_lets +onlyGivenNames x
    | apply Qf.setPortMode_sound | apply Qf.setFence_sound | apply Qf.okAns_sound | apply Qf.badAns_sound
    | apply Qf.ranged_sound | apply Qf.updLink_sound | split | refine Sound.lit ?_ rfl rfl rfl

theorem Qf.endFamily_sound {q : Qf} {v6 : Bool} (hq : Sound q) : Sound (Qf.endFamily q v6) := by
  unfold Qf.endFamily
  with_reducible repeat' first
    | assumption | apply Qf.endSessions_sound

theorem Qf.setIpv4_sound {q : Qf} {bs : List Byte} (hq : Sound q) : Sound (Qf.setIpv4 q bs) := by
  unfold Qf.setIpv4
  with_reducible repeat' first
    | assumption
    | (extract_lets +onlyGivenNames q; guard_hyp q : Qf := _; refine step_sound q ?_ (fun hq => ?_)
       rotate_left; clear_value q; rotate_left; subst q)
    | (extract_lets +onlyGivenNames x; guard_hyp x : Mgmt := _; subst x) | apply Qf.endFamily_sound | split
    | refine Sound.lit ?_ rfl rfl rfl

theorem Qf.claimOwner_sound {q : Qf} {bs : List Byte} (hq : Sound q) : Sound (Qf.claimOwner q bs).2 := by
  unfold Qf.claimOwner
  with_reducible repeat' first
    | assumption | (extract_lets +onlyGivenNames x; guard_hyp x : Mgmt := _; subst x)
    | extract_lets +onlyGivenNames x | apply Qf.okAns_sound | apply Qf.badAns_sound | split
    | refine Sound.lit ?_ rfl rfl rfl

theorem Qf.endUnanchored_sound {q : Qf} (hq : Sound q) : Sound (Qf.endUnanchored q) := by
  unfold Qf.endUnanchored
  with_reducible repeat' first
    | assumption | apply Qf.endSessions_sound

theorem Qf.setRoles_sound {q : Qf} {bs : List Byte} (hq : Sound q) : Sound (Qf.setRoles q bs).2 := by
  unfold Qf.setRoles
  with_reducible repeat' first
    | assumption | (extract_lets +onlyGivenNames x; guard_hyp x : Mgmt := _; subst x)
    | extract_lets +onlyGivenNames x | apply Qf.okAns_sound | apply Qf.endUnanchored_sound
    | apply Qf.badAns_sound | split | refine Sound.lit ?_ rfl rfl rfl

theorem Qf.releaseOwner_sound {q : Qf} {bs : List Byte} (hq : Sound q) : Sound (Qf.releaseOwner q bs).2 := by
  unfold Qf.releaseOwner
  with_reducible repeat' first
    | assumption
    | (extract_lets +onlyGivenNames q; guard_hyp q : Qf := _; refine step_sound q ?_ (fun hq => ?_)
       rotate_left; clear_value q; rotate_left; subst q)
    | (extract_lets +onlyGivenNames x; guard_hyp x : Mgmt := _; subst x)
    | (extract_lets +onlyGivenNames x; clear_value x) | extract_lets +onlyGivenNames x | apply Qf.okAns_sound
    | apply Qf.badAns_sound | apply Qf.endSessions_sound | split | refine Sound.lit ?_ rfl rfl rfl

theorem Qf.setIpv6_sound {q : Qf} {bs : List Byte} (hq : Sound q) : Sound (Qf.setIpv6 q bs) := by
  unfold Qf.setIpv6
  with_reducible repeat' first
    | assumption
    | (extract_lets +onlyGivenNames q; guard_hyp q : Qf := _; refine step_sound q ?_ (fun hq => ?_)
       rotate_left; clear_value q; rotate_left; subst q)
    | (extract_lets +onlyGivenNames x; guard_hyp x : Mgmt := _; subst x) | apply Qf.endFamily_sound | split
    | refine Sound.lit ?_ rfl rfl rfl

theorem Qf.setAddrMode_sound {q : Qf} {m : Nat} (hq : Sound q) : Sound (Qf.setAddrMode q m) := by
  unfold Qf.setAddrMode
  with_reducible repeat' first
    | assumption
    | (extract_lets +onlyGivenNames q; guard_hyp q : Qf := _; refine step_sound q ?_ (fun hq => ?_)
       rotate_left; clear_value q; rotate_left; subst q)
    | (extract_lets +onlyGivenNames x; guard_hyp x : Mgmt := _; subst x)
    | (extract_lets +onlyGivenNames x; clear_value x) | extract_lets +onlyGivenNames x | apply Qf.setIpv4_sound
    | apply Qf.setIpv6_sound | split | refine Sound.lit ?_ rfl rfl rfl

theorem Qf.writeMgmt_sound {q : Qf} {key : Nat} {v : Nat} {bs : List Byte} (hq : Sound q)
    : Sound (Qf.writeMgmt q key v bs).2 := by
  unfold Qf.writeMgmt
  with_reducible repeat' first
    | assumption | intro q hq | (extract_lets +onlyGivenNames x; guard_hyp x : Mgmt := _; subst x)
    | (extract_lets +onlyGivenNames x; clear_value x) | extract_lets +onlyGivenNames x | apply Qf.setIpv4_sound
    | apply Qf.stageImage_sound | apply Qf.claimOwner_sound | apply Qf.setRoles_sound | apply Qf.activate_sound
    | apply Qf.rollBack_sound | apply Qf.confirm_sound | apply Qf.exactly_sound | apply Qf.okAns_sound
    | apply Qf.badAns_sound | apply Qf.releaseOwner_sound | apply Qf.setAddrMode_sound | apply Qf.acting_sound
    | apply Qf.ranged_sound | apply Qf.setIpv6_sound | split | refine Sound.lit ?_ rfl rfl rfl

theorem Qf.writeEngines_sound {q : Qf} {key : Nat} {v : Nat} (hq : Sound q) : Sound (Qf.writeEngines q key v).2 := by
  unfold Qf.writeEngines
  with_reducible repeat' first
    | assumption | (extract_lets +onlyGivenNames x; clear_value x) | extract_lets +onlyGivenNames x
    | apply Qf.okAns_sound | apply Qf.badAns_sound | apply Qf.ranged_sound | split
    | refine Sound.lit ?_ rfl rfl rfl

theorem Qf.updSampler_sound {q : Qf} {k : Nat} {f : Sampler → Sampler} (hq : Sound q)
    : Sound (Qf.updSampler q k f) := by
  unfold Qf.updSampler
  with_reducible repeat' first
    | assumption | (extract_lets +onlyGivenNames x; clear_value x) | refine Sound.lit ?_ rfl rfl rfl

theorem Qf.writeCore_sound {q : Qf} {sel : Nat} {key : Nat} {v : Nat} (hq : Sound q)
    : Sound (Qf.writeCore q sel key v).2 := by
  unfold Qf.writeCore
  with_reducible repeat' first
    | assumption | (extract_lets +onlyGivenNames x; clear_value x) | extract_lets +onlyGivenNames x
    | apply Qf.setSampler_sound | apply Qf.updSampler_sound | apply Qf.purgeQueue_sound | apply Qf.okAns_sound
    | apply Qf.badAns_sound | apply Qf.ranged_sound | split | refine Sound.lit ?_ rfl rfl rfl

theorem Qf.writeEntry_sound {q : Qf} {sel : Nat} {key : Nat} {bs : List Byte} (hq : Sound q)
    : Sound (Qf.writeEntry q sel key bs).2 := by
  unfold Qf.writeEntry
  with_reducible repeat' first
    | assumption | (extract_lets +onlyGivenNames x; clear_value x) | apply Qf.writeEnsign_sound
    | apply Qf.writePool_sound | apply Qf.writeObserve_sound | apply Qf.writeSched_sound
    | apply Qf.writeSecurity_sound | apply Qf.writeFaults_sound | apply Qf.writeLink_sound
    | apply Qf.writeMgmt_sound | apply Qf.writeEngines_sound | apply Qf.writeCore_sound | split

theorem Qf.writeTyped_sound {q : Qf} {e : Entry} {sel : Nat} {bs : List Byte} (hq : Sound q)
    : Sound (Qf.writeTyped q e sel bs).2 := by
  unfold Qf.writeTyped
  with_reducible repeat' first
    | assumption | (extract_lets +onlyGivenNames x; clear_value x) | apply Qf.writeEntry_sound
    | apply Qf.badAns_sound | split

theorem Qf.updSession_sound {q : Qf} {id : Nat} {f : AgSession → AgSession} (hq : Sound q)
    : Sound (Qf.updSession q id f) := by
  unfold Qf.updSession
  with_reducible repeat' first
    | assumption | (extract_lets +onlyGivenNames x; guard_hyp x : Mgmt := _; subst x)
    | refine Sound.lit ?_ rfl rfl rfl

theorem Qf.writeSelect_sound {q : Qf} {x : AgSession} {e : Entry} {bs : List Byte} (hq : Sound q)
    : Sound (Qf.writeSelect q x e bs).2 := by
  unfold Qf.writeSelect
  with_reducible repeat' first
    | assumption | (extract_lets +onlyGivenNames x; clear_value x) | extract_lets +onlyGivenNames x
    | apply Qf.okAns_sound | apply Qf.badAns_sound | apply Qf.updSession_sound | split

theorem Qf.dictWrite_sound {q : Qf} {x : AgSession} {index : BitVec 16} {sub : BitVec 8} {bs : List Byte}
    (hq : Sound q) : Sound (Qf.dictWrite q x index sub bs).2 := by
  unfold Qf.dictWrite
  with_reducible repeat' first
    | assumption | intro q hq | intro _ | extract_lets +onlyGivenNames x | apply Qf.writeWith_sound
    | apply Qf.writeTyped_sound | apply Qf.writeSelect_sound | split

theorem Qf.answerFrame_sound {q : Qf} {id : Nat} {f : AgFrame} (hq : Sound q) : Sound (Qf.answerFrame q id f) := by
  unfold Qf.answerFrame
  with_reducible repeat' first
    | assumption
    | (extract_lets +onlyGivenNames q; guard_hyp q : Qf := _; refine step_sound q ?_ (fun hq => ?_)
       rotate_left; clear_value q; rotate_left; subst q)
    | (extract_lets +onlyGivenNames x; guard_hyp x : Mgmt := _; subst x) | apply Qf.updSession_sound
    | refine Sound.lit ?_ rfl rfl rfl

theorem Qf.agRequest_sound {q : Qf} {a : AgwenRef} {op : BitVec 8} {early : Bool}
    {f : AgSession → Qf → Reply × Qf} (hq : Sound q) (hf1 : ∀ y1, Sound y1 → ∀ y0, Sound (f y0 y1).2)
    : Sound (Qf.agRequest q a op early f) := by
  unfold Qf.agRequest
  with_reducible repeat' first
    | assumption
    | (extract_lets +onlyGivenNames q; guard_hyp q : Qf := _; refine step_sound q ?_ (fun hq => ?_)
       rotate_left; clear_value q; rotate_left; subst q)
    | (extract_lets +onlyGivenNames x; guard_hyp x : Reply × Qf := _; refine step_sound x.2 ?_ (fun hx => ?_)
       rotate_left; clear_value x; rotate_left; subst x)
    | (extract_lets +onlyGivenNames x; guard_hyp x : Mgmt := _; subst x) | apply Qf.updSession_sound
    | apply Qf.answerFrame_sound | apply hf1 | split | refine Sound.lit ?_ rfl rfl rfl

theorem plainReply_sound {x : Ans} (hx : Sound (x).2) : Sound (plainReply x).2 := by
  unfold plainReply
  with_reducible repeat' (assumption)

theorem Qf.agWrite_sound {q : Qf} {a : AgwenRef} {op : BitVec 8} {index : BitVec 16} {sub : BitVec 8}
    {bs : List Byte} (hq : Sound q) : Sound (Qf.agWrite q a op index sub bs) := by
  unfold Qf.agWrite
  with_reducible repeat' first
    | assumption | intro q hq | intro _ | extract_lets +onlyGivenNames x | apply Qf.dictWrite_sound
    | apply Qf.agRequest_sound | apply plainReply_sound

theorem execRoleAnchors_sound {a : AgwenRef} {value : List Byte} {s : State} (hq : Sound s.qf)
    : ∃ q, execRoleAnchors a value s = .next { s with qf := q } ∧ Sound q := by
  unfold execRoleAnchors done
  refine ⟨_, rfl, ?_⟩
  with_reducible repeat' first
    | assumption | extract_lets +onlyGivenNames x | apply Qf.agWrite_sound

theorem Qf.dropSegment_sound {q : Qf} {x : AgSession} {w : Bool} {index : BitVec 16} {sub : BitVec 8}
    (hq : Sound q) : Sound (Qf.dropSegment q x w index sub) := by
  unfold Qf.dropSegment
  with_reducible repeat' first
    | assumption | apply Qf.updSession_sound

theorem Qf.readEffect_sound {q : Qf} {x : AgSession} {key : Nat} (hq : Sound q) : Sound (Qf.readEffect q x key) := by
  unfold Qf.readEffect
  split
  · exact Sound.of hq rfl rfl rfl rfl
  · refine ⟨hq.1, ?_, hq.2.2.1, hq.2.2.2⟩
    have := hq.2.1
    show (q.flt.ring.drop 1).length ≤ 4096
    simp
    omega
  · refine ⟨hq.1, hq.2.1, ?_, hq.2.2.2⟩
    have := hq.2.2.1
    show (q.mgmt.violations.drop 1).length ≤ 1024
    simp
    omega
  · exact Qf.updSession_sound hq
  · extract_lets k
    split
    · exact Qf.updProgress_sound hq
    · exact hq
  · exact hq

theorem Qf.dictRead_sound {q : Qf} {x : AgSession} {index : BitVec 16} {sub : BitVec 8} {most : Option Nat}
    (hq : Sound q) : Sound (Qf.dictRead q x index sub most).2 := by
  unfold Qf.dictRead
  with_reducible repeat' first
    | assumption | (extract_lets +onlyGivenNames x; clear_value x) | apply Qf.readEffect_sound | split

theorem Qf.agRead_sound {q : Qf} {a : AgwenRef} {index : BitVec 16} {sub : BitVec 8} (hq : Sound q)
    : Sound (Qf.agRead q a index sub) := by
  unfold Qf.agRead
  with_reducible repeat' first
    | assumption | intro q hq | intro _ | extract_lets +onlyGivenNames x | apply Qf.dictRead_sound
    | apply Qf.agRequest_sound

theorem execViolationRecord_sound {a : AgwenRef} {s : State} (hq : Sound s.qf)
    : ∃ q, execViolationRecord a s = .next { s with qf := q } ∧ Sound q := by
  unfold execViolationRecord done
  refine ⟨_, rfl, ?_⟩
  with_reducible repeat' first
    | assumption | extract_lets +onlyGivenNames x | apply Qf.agRead_sound

theorem execAgwenRead_sound {a : AgwenRef} {index : BitVec 16} {sub : BitVec 8} {s : State} (hq : Sound s.qf)
    : ∃ q, execAgwenRead a index sub s = .next { s with qf := q } ∧ Sound q := by
  unfold execAgwenRead done
  refine ⟨_, rfl, ?_⟩
  with_reducible repeat' first
    | assumption | intro q hq | intro _ | extract_lets +onlyGivenNames x | apply Qf.dictRead_sound
    | apply Qf.agRequest_sound

theorem execHorizonRelease_sound {a : AgwenRef} {value : List Byte} {s : State} (hq : Sound s.qf)
    : ∃ q, execHorizonRelease a value s = .next { s with qf := q } ∧ Sound q := by
  unfold execHorizonRelease done
  refine ⟨_, rfl, ?_⟩
  with_reducible repeat' first
    | assumption | extract_lets +onlyGivenNames x | apply Qf.agWrite_sound

theorem execSessionIdle_sound {session : Nat} {s : State} (hq : Sound s.qf)
    : ∃ q, execSessionIdle session s = .next { s with qf := q } ∧ Sound q := by
  unfold execSessionIdle done
  refine ⟨_, rfl, ?_⟩
  with_reducible repeat' first
    | assumption | extract_lets +onlyGivenNames x | apply Qf.endSessions_sound | split
    | refine Sound.lit ?_ rfl rfl rfl

theorem execTenantEnrol_sound {a : AgwenRef} {value : List Byte} {s : State} (hq : Sound s.qf)
    : ∃ q, execTenantEnrol a value s = .next { s with qf := q } ∧ Sound q := by
  unfold execTenantEnrol done
  refine ⟨_, rfl, ?_⟩
  with_reducible repeat' first
    | assumption | extract_lets +onlyGivenNames x | apply Qf.agWrite_sound

theorem Qf.setMsix_sound {q : Qf} {port : Bool} {n : Nat} {v : BitVec 64} (hq : Sound q)
    : Sound (Qf.setMsix q port n v) := by
  unfold Qf.setMsix
  with_reducible repeat' first
    | assumption
    | (extract_lets +onlyGivenNames q; guard_hyp q : Qf := _; refine step_sound q ?_ (fun hq => ?_)
       rotate_left; clear_value q; rotate_left; subst q)
    | (extract_lets +onlyGivenNames x; guard_hyp x : HostIf := _; subst x)
    | (extract_lets +onlyGivenNames x; clear_value x) | split | refine Sound.lit ?_ rfl rfl rfl

theorem Qf.setEqConfig_sound {q : Qf} {port : Bool} {v : BitVec 64} (hq : Sound q)
    : Sound (Qf.setEqConfig q port v) := by
  unfold Qf.setEqConfig
  with_reducible repeat' first
    | assumption
    | (extract_lets +onlyGivenNames q; guard_hyp q : Qf := _; refine step_sound q ?_ (fun hq => ?_)
       rotate_left; clear_value q; rotate_left; subst q)
    | (extract_lets +onlyGivenNames x; guard_hyp x : HostIf := _; subst x)
    | (extract_lets +onlyGivenNames x; clear_value x) | apply Qf.drainEvents_sound | split
    | refine Sound.lit ?_ rfl rfl rfl

theorem Qf.bar0Reg_sound {q : Qf} {port : Bool} {offset : BitVec 26} {v : BitVec 64} (hq : Sound q)
    : Sound (Qf.bar0Reg q port offset v) := by
  unfold Qf.bar0Reg
  with_reducible repeat' first
    | assumption | (extract_lets +onlyGivenNames x; guard_hyp x : HostIf := _; subst x)
    | (extract_lets +onlyGivenNames x; clear_value x) | apply Qf.updMq_sound | apply Qf.setMsix_sound
    | apply Qf.setEqConfig_sound | split | refine Sound.lit ?_ rfl rfl rfl

theorem execRegisterWrite_sound {r : RegTarget} {s : State} (hq : Sound s.qf)
    : ∃ q, execRegisterWrite r s = .next { s with qf := q } ∧ Sound q := by
  unfold execRegisterWrite done
  refine ⟨_, rfl, ?_⟩
  with_reducible repeat' first
    | assumption | intro q hq | extract_lets +onlyGivenNames x | apply Qf.bar0Write_sound
    | apply Qf.agWrite_sound | apply Qf.bar0Reg_sound | split

theorem execSamplerN_sound {a : AgwenRef} {value : List Byte} {s : State} (hq : Sound s.qf)
    : ∃ q, execSamplerN a value s = .next { s with qf := q } ∧ Sound q := by
  unfold execSamplerN done
  refine ⟨_, rfl, ?_⟩
  with_reducible repeat' first
    | assumption | extract_lets +onlyGivenNames x | apply Qf.agWrite_sound

theorem Qf.discardSegment_sound {q : Qf} {x : AgSession} {g : Segment} (hq : Sound q)
    : Sound (Qf.discardSegment q x g) := by
  unfold Qf.discardSegment
  with_reducible repeat' first
    | assumption | extract_lets +onlyGivenNames x | apply Qf.dropSegment_sound | apply Qf.endProgress_sound

theorem Qf.segFinal_sound {q : Qf} {x : AgSession} {g : Segment} (hq : Sound q) : Sound (Qf.segFinal q x g).2 := by
  unfold Qf.segFinal
  with_reducible repeat' first
    | assumption | intro q hq | intro _
    | (extract_lets +onlyGivenNames q; guard_hyp q : Qf := _; refine step_sound q ?_ (fun hq => ?_)
       rotate_left; clear_value q; rotate_left; subst q)
    | extract_lets +onlyGivenNames x | apply Qf.writeWith_sound | apply Qf.dropSegment_sound
    | apply Qf.dictWrite_sound | apply Qf.stageEnd_sound | split

theorem Qf.putSegment_sound {q : Qf} {x : AgSession} {g : Segment} (hq : Sound q) : Sound (Qf.putSegment q x g) := by
  unfold Qf.putSegment
  with_reducible repeat' first
    | assumption | apply Qf.updSession_sound

theorem Qf.segJoin_sound {q : Qf} {x : AgSession} {g : Segment} {final : Bool} {data : List Byte} (hq : Sound q)
    : Sound (Qf.segJoin q x g final data).2 := by
  unfold Qf.segJoin
  with_reducible repeat' first
    | assumption
    | (extract_lets +onlyGivenNames q; guard_hyp q : Qf := _; refine step_sound q ?_ (fun hq => ?_)
       rotate_left; clear_value q; rotate_left; subst q)
    | (extract_lets +onlyGivenNames x; clear_value x) | extract_lets +onlyGivenNames x | apply Qf.okAns_sound
    | apply Qf.segFinal_sound | apply Qf.putSegment_sound | apply Qf.updProgress_sound | split

theorem Qf.writeSeg_sound {q : Qf} {x : AgSession} {index : BitVec 16} {sub : BitVec 8} {offset : Nat}
    {final : Bool} {data : List Byte} (hq : Sound q) : Sound (Qf.writeSeg q x index sub offset final data).2 := by
  unfold Qf.writeSeg
  with_reducible repeat' first
    | assumption
    | (extract_lets +onlyGivenNames q; guard_hyp q : Qf := _; refine step_sound q ?_ (fun hq => ?_)
       rotate_left; clear_value q; rotate_left; subst q)
    | (extract_lets +onlyGivenNames x; guard_hyp x : Option Nat × Ans := _
       refine step_sound x.2.2 ?_ (fun hx => ?_); rotate_left; clear_value x; rotate_left; subst x)
    | apply Qf.discardSegment_sound | apply Qf.segJoin_sound | apply Qf.badAns_sound | apply Qf.stageOpen_sound
    | split

theorem execWriteSeg_sound {a : AgwenRef} {index : BitVec 16} {sub : BitVec 8} {offset : BitVec 64}
    {final : Bool} {data : List Byte} {s : State} (hq : Sound s.qf)
    : ∃ q, execWriteSeg a index sub offset final data s = .next { s with qf := q } ∧ Sound q := by
  unfold execWriteSeg done
  refine ⟨_, rfl, ?_⟩
  with_reducible repeat' first
    | assumption | intro q hq | intro _ | extract_lets +onlyGivenNames x | apply Qf.agRequest_sound
    | apply Qf.writeSeg_sound | apply plainReply_sound

theorem execFenceEndpoint_sound {a : AgwenRef} {value : List Byte} {s : State} (hq : Sound s.qf)
    : ∃ q, execFenceEndpoint a value s = .next { s with qf := q } ∧ Sound q := by
  unfold execFenceEndpoint done
  refine ⟨_, rfl, ?_⟩
  with_reducible repeat' first
    | assumption | extract_lets +onlyGivenNames x | apply Qf.agWrite_sound

theorem Qf.applySetting_sound {q : Qf} {x : BitVec 16 × BitVec 8 × Nat × List Byte × BitVec 8} (hq : Sound q)
    : Sound (Qf.applySetting q x) := by
  unfold Qf.applySetting
  with_reducible repeat' first
    | assumption
    | (extract_lets +onlyGivenNames q; guard_hyp q : Qf := _; refine step_sound q ?_ (fun hq => ?_)
       rotate_left; clear_value q; rotate_left; subst q)
    | (extract_lets +onlyGivenNames x; clear_value x) | apply Qf.writeTyped_sound | split
    | refine Sound.lit ?_ rfl rfl rfl

theorem Qf.loadSettings_sound {q : Qf} (hq : Sound q) : Sound (Qf.loadSettings q) := by
  unfold Qf.loadSettings
  with_reducible repeat' first
    | assumption | (extract_lets +onlyGivenNames x; clear_value x) | extract_lets +onlyGivenNames x
    | refine foldl_sound (fun q x hq => ?_) _ ?_ | apply Qf.applySetting_sound | refine Sound.lit ?_ rfl rfl rfl

theorem execResetRelease_sound {s : State} (hq : Sound s.qf)
    : ∃ q, execResetRelease s = .next { s with qf := q } ∧ Sound q := by
  unfold execResetRelease done
  refine ⟨_, rfl, ?_⟩
  with_reducible repeat' first
    | assumption
    | (extract_lets +onlyGivenNames q; guard_hyp q : Qf := _; refine step_sound q ?_ (fun hq => ?_)
       rotate_left; clear_value q; rotate_left; subst q)
    | (extract_lets +onlyGivenNames x; clear_value x) | extract_lets +onlyGivenNames x
    | apply Qf.beginInterval_sound | apply Qf.stepClock_sound | apply Qf.loadSettings_sound | split
    | refine Sound.lit ?_ rfl rfl rfl

theorem execBind_sound {a : AgwenRef} {chain : List Byte} {sig : List Byte} {s : State} (hq : Sound s.qf)
    : ∃ q, execBind a chain sig s = .next { s with qf := q } ∧ Sound q := by
  unfold execBind done
  refine ⟨_, rfl, ?_⟩
  with_reducible repeat' first
    | assumption | intro q hq | intro _
    | (extract_lets +onlyGivenNames x; guard_hyp x : Reply × Qf := _; refine step_sound x.2 ?_ (fun hx => ?_)
       rotate_left; clear_value x; rotate_left; subst x)
    | (extract_lets +onlyGivenNames x; clear_value x) | extract_lets +onlyGivenNames x
    | apply Qf.agRequest_sound | apply Qf.endSessions_sound | apply Qf.updSession_sound | split

theorem execPortMode_sound {a : AgwenRef} {value : List Byte} {s : State} (hq : Sound s.qf)
    : ∃ q, execPortMode a value s = .next { s with qf := q } ∧ Sound q := by
  unfold execPortMode done
  refine ⟨_, rfl, ?_⟩
  with_reducible repeat' first
    | assumption | extract_lets +onlyGivenNames x | apply Qf.agWrite_sound

theorem execArpNdIcmpEcho_sound {n : NetQuery} {s : State} (hq : Sound s.qf)
    : ∃ q, execArpNdIcmpEcho n s = .next { s with qf := q } ∧ Sound q := by
  unfold execArpNdIcmpEcho done
  refine ⟨_, rfl, ?_⟩
  with_reducible repeat' first
    | assumption | (extract_lets +onlyGivenNames x; guard_hyp x : Mgmt := _; subst x)
    | extract_lets +onlyGivenNames x | split | refine Sound.lit ?_ rfl rfl rfl

theorem Qf.enterFull_sound {q : Qf} (hq : Sound q) : Sound (Qf.enterFull q) := by
  unfold Qf.enterFull
  with_reducible repeat' first
    | assumption
    | (extract_lets +onlyGivenNames q; guard_hyp q : Qf := _; refine step_sound q ?_ (fun hq => ?_)
       rotate_left; clear_value q; rotate_left; subst q)
    | (extract_lets +onlyGivenNames x; clear_value x) | refine foldl_sound (fun q x hq => ?_) _ ?_
    | apply Qf.unitFault_sound | split | refine Sound.lit ?_ rfl rfl rfl

theorem execFullService_sound {s : State} (hq : Sound s.qf)
    : ∃ q, execFullService s = .next { s with qf := q } ∧ Sound q := by
  unfold execFullService done
  refine ⟨_, rfl, ?_⟩
  with_reducible repeat' first
    | assumption | extract_lets +onlyGivenNames x | apply Qf.enterFull_sound | split
    | refine Sound.lit ?_ rfl rfl rfl

theorem Qf.orphanEvent_sound {q : Qf} {e : BitVec 256} (hq : Sound q) : Sound (Qf.orphanEvent q e) := by
  unfold Qf.orphanEvent
  with_reducible repeat' first
    | assumption | apply Qf.event_sound

theorem Qf.dropEvent_sound {q : Qf} {f : BitVec 8 × BitVec 16} (hq : Sound q) : Sound (Qf.dropEvent q f) := by
  unfold Qf.dropEvent
  with_reducible repeat' first
    | assumption | apply Qf.event_sound

theorem execHostTakeover_sound {port : Bool} {value : BitVec 64} {s : State} (hq : Sound s.qf)
    : ∃ q, execHostTakeover port value s = .next { s with qf := q } ∧ Sound q := by
  unfold execHostTakeover done
  refine ⟨_, rfl, ?_⟩
  with_reducible repeat' first
    | assumption
    | (extract_lets +onlyGivenNames q; guard_hyp q : Qf := _; refine step_sound q ?_ (fun hq => ?_)
       rotate_left; clear_value q; rotate_left; subst q)
    | (extract_lets +onlyGivenNames x; guard_hyp x : HostIf := _; subst x)
    | (extract_lets +onlyGivenNames x; clear_value x) | extract_lets +onlyGivenNames x
    | refine foldl_sound (fun q x hq => ?_) _ ?_ | apply Qf.orphanEvent_sound | apply Qf.dropEvent_sound | split
    | refine Sound.lit ?_ rfl rfl rfl

theorem execReassemblyClear_sound {a : AgwenRef} {value : List Byte} {s : State} (hq : Sound s.qf)
    : ∃ q, execReassemblyClear a value s = .next { s with qf := q } ∧ Sound q := by
  unfold execReassemblyClear done
  refine ⟨_, rfl, ?_⟩
  with_reducible repeat' first
    | assumption | extract_lets +onlyGivenNames x | apply Qf.agWrite_sound

theorem Qf.bar2Refuse_sound {q : Qf} (hq : Sound q) : Sound (Qf.bar2Refuse q) := by
  unfold Qf.bar2Refuse
  with_reducible repeat' first
    | assumption | (extract_lets +onlyGivenNames x; clear_value x) | refine Sound.lit ?_ rfl rfl rfl

theorem execReducedService_sound {s : State} (hq : Sound s.qf)
    : ∃ q, execReducedService s = .next { s with qf := q } ∧ Sound q := by
  unfold execReducedService done
  refine ⟨_, rfl, ?_⟩
  with_reducible repeat' first
    | assumption | (extract_lets +onlyGivenNames x; guard_hyp x : HostIf := _; subst x)
    | (extract_lets +onlyGivenNames x; clear_value x) | extract_lets +onlyGivenNames x | split
    | refine Sound.lit ?_ rfl rfl rfl

theorem execHorizonCapture_sound {a : AgwenRef} {value : List Byte} {s : State} (hq : Sound s.qf)
    : ∃ q, execHorizonCapture a value s = .next { s with qf := q } ∧ Sound q := by
  unfold execHorizonCapture done
  refine ⟨_, rfl, ?_⟩
  with_reducible repeat' first
    | assumption | extract_lets +onlyGivenNames x | apply Qf.agWrite_sound

theorem execSegmentTimeout_sound {session : Nat} {index : BitVec 16} {sub : BitVec 8} {s : State}
    (hq : Sound s.qf) : ∃ q, execSegmentTimeout session index sub s = .next { s with qf := q } ∧ Sound q := by
  unfold execSegmentTimeout done
  refine ⟨_, rfl, ?_⟩
  with_reducible repeat' first
    | assumption | extract_lets +onlyGivenNames x | refine foldl_sound (fun q x hq => ?_) _ ?_
    | apply Qf.discardSegment_sound | split | refine Sound.lit ?_ rfl rfl rfl

theorem execSubscribe_sound {a : AgwenRef} {mask : BitVec 32} {s : State} (hq : Sound s.qf)
    : ∃ q, execSubscribe a mask s = .next { s with qf := q } ∧ Sound q := by
  unfold execSubscribe done
  refine ⟨_, rfl, ?_⟩
  with_reducible repeat' first
    | assumption | intro q hq | intro _ | extract_lets +onlyGivenNames x | apply Qf.agRequest_sound
    | apply Qf.updSession_sound | split

theorem execFullTimeout_sound {s : State} (hq : Sound s.qf)
    : ∃ q, execFullTimeout s = .next { s with qf := q } ∧ Sound q := by
  unfold execFullTimeout done
  refine ⟨_, rfl, ?_⟩
  with_reducible repeat' first
    | assumption | extract_lets +onlyGivenNames x | apply Qf.enterFull_sound | split
    | refine Sound.lit ?_ rfl rfl rfl

theorem execEventAck_sound {a : AgwenRef} {event : BitVec 32} {s : State} (hq : Sound s.qf)
    : ∃ q, execEventAck a event s = .next { s with qf := q } ∧ Sound q := by
  unfold execEventAck done
  refine ⟨_, rfl, ?_⟩
  with_reducible repeat' first
    | assumption | intro q hq | intro _ | extract_lets +onlyGivenNames x | apply Qf.agRequest_sound
    | apply Qf.updSession_sound

theorem execFaultRecord_sound {a : AgwenRef} {s : State} (hq : Sound s.qf)
    : ∃ q, execFaultRecord a s = .next { s with qf := q } ∧ Sound q := by
  unfold execFaultRecord done
  refine ⟨_, rfl, ?_⟩
  with_reducible repeat' first
    | assumption | extract_lets +onlyGivenNames x | apply Qf.agRead_sound

theorem execCumulusSelfTest_sound {sector : Sector} {good : Bool} {s : State} (hq : Sound s.qf)
    : ∃ q, execCumulusSelfTest sector good s = .next { s with qf := q } ∧ Sound q := by
  unfold execCumulusSelfTest done
  refine ⟨_, rfl, ?_⟩
  with_reducible repeat' first
    | assumption | (extract_lets +onlyGivenNames x; clear_value x) | extract_lets +onlyGivenNames x | split
    | refine Sound.lit ?_ rfl rfl rfl

theorem execCompareWrite_sound {a : AgwenRef} {index : BitVec 16} {sub : BitVec 8} {expected : List Byte}
    {value : List Byte} {s : State} (hq : Sound s.qf)
    : ∃ q, execCompareWrite a index sub expected value s = .next { s with qf := q } ∧ Sound q := by
  unfold execCompareWrite done
  refine ⟨_, rfl, ?_⟩
  with_reducible repeat' first
    | assumption | intro q hq | intro _ | (extract_lets +onlyGivenNames x; clear_value x)
    | extract_lets +onlyGivenNames x | apply Qf.dictWrite_sound | apply Qf.agRequest_sound
    | apply plainReply_sound | split

theorem execDomainEnable_sound {a : AgwenRef} {value : List Byte} {s : State} (hq : Sound s.qf)
    : ∃ q, execDomainEnable a value s = .next { s with qf := q } ∧ Sound q := by
  unfold execDomainEnable done
  refine ⟨_, rfl, ?_⟩
  with_reducible repeat' first
    | assumption | extract_lets +onlyGivenNames x | apply Qf.agWrite_sound

theorem Qf.readSeg_sound {q : Qf} {x : AgSession} {index : BitVec 16} {sub : BitVec 8} {offset : Nat}
    (hq : Sound q) : Sound (Qf.readSeg q x index sub offset).2 := by
  unfold Qf.readSeg
  with_reducible repeat' first
    | assumption | intro q hq | intro _
    | (extract_lets +onlyGivenNames x; guard_hyp x : Reply × Qf := _; refine step_sound x.2 ?_ (fun hx => ?_)
       rotate_left; clear_value x; rotate_left; subst x)
    | (extract_lets +onlyGivenNames x; guard_hyp x : Qf → List Byte → Qf := _
       refine stepP (P := ∀ y0 y1, Sound y0 → Sound (x y0 y1)) ?_ (fun hl0 => ?_); rotate_left; clear_value x
       rotate_left; subst x)
    | (extract_lets +onlyGivenNames x; clear_value x) | extract_lets +onlyGivenNames x | apply hl0
    | apply Qf.dictRead_sound | apply Qf.dropSegment_sound | apply Qf.putSegment_sound | split
    | refine Sound.lit ?_ rfl rfl rfl

theorem execScanData_sound {a : AgwenRef} {offset : BitVec 64} {s : State} (hq : Sound s.qf)
    : ∃ q, execScanData a offset s = .next { s with qf := q } ∧ Sound q := by
  unfold execScanData done
  refine ⟨_, rfl, ?_⟩
  with_reducible repeat' first
    | assumption | intro q hq | intro _ | extract_lets +onlyGivenNames x | apply Qf.readSeg_sound
    | apply Qf.agRequest_sound

theorem execRecordAtCursor_sound {a : AgwenRef} {s : State} (hq : Sound s.qf)
    : ∃ q, execRecordAtCursor a s = .next { s with qf := q } ∧ Sound q := by
  unfold execRecordAtCursor done
  refine ⟨_, rfl, ?_⟩
  with_reducible repeat' first
    | assumption | extract_lets +onlyGivenNames x | apply Qf.agRead_sound

theorem execCommandFetch_sound {queue : BitVec 3} {command : Option (BitVec 1024)} {s : State} (hq : Sound s.qf)
    : ∃ q, execCommandFetch queue command s = .next { s with qf := q } ∧ Sound q := by
  unfold execCommandFetch done
  refine ⟨_, rfl, ?_⟩
  with_reducible repeat' first
    | assumption
    | (extract_lets +onlyGivenNames q; guard_hyp q : Qf := _; refine step_sound q ?_ (fun hq => ?_)
       rotate_left; clear_value q; rotate_left; subst q)
    | (extract_lets +onlyGivenNames x; guard_hyp x : HostIf := _; subst x)
    | (extract_lets +onlyGivenNames x; clear_value x) | extract_lets +onlyGivenNames x | apply Qf.updMq_sound
    | apply Qf.complete_sound | split | refine Sound.lit ?_ rfl rfl rfl

theorem execOwnershipBackupEp_sound {a : AgwenRef} {value : List Byte} {s : State} (hq : Sound s.qf)
    : ∃ q, execOwnershipBackupEp a value s = .next { s with qf := q } ∧ Sound q := by
  unfold execOwnershipBackupEp done
  refine ⟨_, rfl, ?_⟩
  with_reducible repeat' first
    | assumption | extract_lets +onlyGivenNames x | apply Qf.agWrite_sound

theorem execMqConfig_sound {port : Bool} {queue : BitVec 3} {value : BitVec 64} {s : State} (hq : Sound s.qf)
    : ∃ q, execMqConfig port queue value s = .next { s with qf := q } ∧ Sound q := by
  unfold execMqConfig done
  refine ⟨_, rfl, ?_⟩
  with_reducible repeat' first
    | assumption | intro q hq | (extract_lets +onlyGivenNames x; clear_value x) | extract_lets +onlyGivenNames x
    | apply Qf.updMq_sound | apply Qf.bar0Write_sound | split

theorem execReconfiguration_sound {a : AgwenRef} {index : BitVec 16} {sub : BitVec 8} {value : List Byte}
    {s : State} (hq : Sound s.qf)
    : ∃ q, execReconfiguration a index sub value s = .next { s with qf := q } ∧ Sound q := by
  unfold execReconfiguration done
  refine ⟨_, rfl, ?_⟩
  with_reducible repeat' first
    | assumption | extract_lets +onlyGivenNames x | apply Qf.agWrite_sound | split

theorem execBar2Access_sound {port : Bool} {offset : BitVec 36} {op : Bar2Op} {s : State} (hq : Sound s.qf)
    : ∃ q, execBar2Access port offset op s = .next { s with qf := q } ∧ Sound q := by
  unfold execBar2Access done
  refine ⟨_, rfl, ?_⟩
  beta_reduce
  extract_lets a answer
  split
  ·
    have ha : ∀ q bs, Sound q → Sound (answer q bs) := fun q bs h => Sound.of h rfl rfl rfl rfl
    clear_value answer
    split
    · exact ha _ _ hq
    · split
      · exact hq
      · split
        · exact ha _ _ hq
        · exact ha _ _ (Qf.bar2Refuse_sound hq)
  · apply Qf.sectorWrite_sound hq
    intro q hq
    split
    · exact ⟨putAll_wf _ _ _ hq.1, hq.2⟩
    · exact Qf.bar2Refuse_sound hq

theorem execDhcpLeaseExpiry_sound {v6 : Bool} {s : State} (hq : Sound s.qf)
    : ∃ q, execDhcpLeaseExpiry v6 s = .next { s with qf := q } ∧ Sound q := by
  unfold execDhcpLeaseExpiry done
  refine ⟨_, rfl, ?_⟩
  with_reducible repeat' first
    | assumption | (extract_lets +onlyGivenNames x; guard_hyp x : Mgmt := _; subst x)
    | extract_lets +onlyGivenNames x | apply Qf.setIpv4_sound | apply Qf.setIpv6_sound | split
    | refine Sound.lit ?_ rfl rfl rfl

theorem execAuthorityKeys_sound {a : AgwenRef} {value : List Byte} {s : State} (hq : Sound s.qf)
    : ∃ q, execAuthorityKeys a value s = .next { s with qf := q } ∧ Sound q := by
  unfold execAuthorityKeys done
  refine ⟨_, rfl, ?_⟩
  with_reducible repeat' first
    | assumption | extract_lets +onlyGivenNames x | apply Qf.agWrite_sound

theorem execDebugAuthorise_sound {a : AgwenRef} {value : List Byte} {s : State} (hq : Sound s.qf)
    : ∃ q, execDebugAuthorise a value s = .next { s with qf := q } ∧ Sound q := by
  unfold execDebugAuthorise done
  refine ⟨_, rfl, ?_⟩
  with_reducible repeat' first
    | assumption | extract_lets +onlyGivenNames x | apply Qf.agWrite_sound

theorem execFwActivate_sound {a : AgwenRef} {value : List Byte} {s : State} (hq : Sound s.qf)
    : ∃ q, execFwActivate a value s = .next { s with qf := q } ∧ Sound q := by
  unfold execFwActivate done
  refine ⟨_, rfl, ?_⟩
  with_reducible repeat' first
    | assumption | extract_lets +onlyGivenNames x | apply Qf.agWrite_sound

theorem execStackRetrain_sound {stack : Sector} {good : Bool} {s : State} (hq : Sound s.qf)
    : ∃ q, execStackRetrain stack good s = .next { s with qf := q } ∧ Sound q := by
  unfold execStackRetrain done
  refine ⟨_, rfl, ?_⟩
  with_reducible repeat' first
    | assumption | (extract_lets +onlyGivenNames x; clear_value x) | extract_lets +onlyGivenNames x | split
    | refine Sound.lit ?_ rfl rfl rfl

theorem execAgwenHello_sound {a : AgwenRef} {versions : BitVec 8} {revLow : BitVec 16} {revHigh : BitVec 16}
    {role : BitVec 8} {s : State} (hq : Sound s.qf)
    : ∃ q, execAgwenHello a versions revLow revHigh role s = .next { s with qf := q } ∧ Sound q := by
  unfold execAgwenHello done
  refine ⟨_, rfl, ?_⟩
  with_reducible repeat' first
    | assumption | intro q hq | intro _ | extract_lets +onlyGivenNames x | apply Qf.agRequest_sound
    | apply Qf.endSessions_sound | apply Qf.updSession_sound | split

theorem execDtlsHandshake_sound {c : DtlsMsg} {s : State} (hq : Sound s.qf)
    : ∃ q, execDtlsHandshake c s = .next { s with qf := q } ∧ Sound q := by
  unfold execDtlsHandshake done
  refine ⟨_, rfl, ?_⟩
  with_reducible repeat' first
    | assumption | (extract_lets +onlyGivenNames x; guard_hyp x : Mgmt := _; subst x)
    | (extract_lets +onlyGivenNames x; clear_value x) | extract_lets +onlyGivenNames x | split
    | refine Sound.lit ?_ rfl rfl rfl

theorem execFwImage_sound {a : AgwenRef} {image : FwImage} {s : State} (hq : Sound s.qf)
    : ∃ q, execFwImage a image s = .next { s with qf := q } ∧ Sound q := by
  unfold execFwImage done
  refine ⟨_, rfl, ?_⟩
  with_reducible repeat' first
    | assumption | intro q hq | intro _ | extract_lets +onlyGivenNames x | apply Qf.writeWith_sound
    | apply Qf.stageImage_sound | apply Qf.agRequest_sound | apply plainReply_sound

theorem execProgressFree_sound {n : BitVec 10} {s : State} (hq : Sound s.qf)
    : ∃ q, execProgressFree n s = .next { s with qf := q } ∧ Sound q := by
  unfold execProgressFree done
  refine ⟨_, rfl, ?_⟩
  with_reducible repeat' first
    | assumption | (extract_lets +onlyGivenNames x; guard_hyp x : Mgmt := _; subst x)
    | (extract_lets +onlyGivenNames x; clear_value x) | extract_lets +onlyGivenNames x | split
    | refine Sound.lit ?_ rfl rfl rfl

theorem execIntervalLength_sound {a : AgwenRef} {value : List Byte} {s : State} (hq : Sound s.qf)
    : ∃ q, execIntervalLength a value s = .next { s with qf := q } ∧ Sound q := by
  unfold execIntervalLength done
  refine ⟨_, rfl, ?_⟩
  with_reducible repeat' first
    | assumption | extract_lets +onlyGivenNames x | apply Qf.agWrite_sound

theorem execSampleRecord_sound {a : AgwenRef} {s : State} (hq : Sound s.qf)
    : ∃ q, execSampleRecord a s = .next { s with qf := q } ∧ Sound q := by
  unfold execSampleRecord done
  refine ⟨_, rfl, ?_⟩
  with_reducible repeat' first
    | assumption | extract_lets +onlyGivenNames x | apply Qf.agRead_sound

theorem execEqDoorbell_sound {port : Bool} {value : BitVec 64} {s : State} (hq : Sound s.qf)
    : ∃ q, execEqDoorbell port value s = .next { s with qf := q } ∧ Sound q := by
  unfold execEqDoorbell done
  refine ⟨_, rfl, ?_⟩
  with_reducible repeat' first
    | assumption | intro q hq
    | (extract_lets +onlyGivenNames q; guard_hyp q : Qf := _; refine step_sound q ?_ (fun hq => ?_)
       rotate_left; clear_value q; rotate_left; subst q)
    | (extract_lets +onlyGivenNames x; guard_hyp x : HostIf := _; subst x) | extract_lets +onlyGivenNames x
    | apply Qf.bar0Write_sound | apply Qf.drainEvents_sound | refine Sound.lit ?_ rfl rfl rfl

theorem execAttestChallenge_sound {a : AgwenRef} {value : List Byte} {s : State} (hq : Sound s.qf)
    : ∃ q, execAttestChallenge a value s = .next { s with qf := q } ∧ Sound q := by
  unfold execAttestChallenge done
  refine ⟨_, rfl, ?_⟩
  with_reducible repeat' first
    | assumption | extract_lets +onlyGivenNames x | apply Qf.agWrite_sound

theorem execNop_sound {m : MgrRef} {s : State} (hq : Sound s.qf)
    : ∃ q, execNop m s = .next { s with qf := q } ∧ Sound q := by
  unfold execNop done
  refine ⟨_, rfl, ?_⟩
  with_reducible repeat' first
    | assumption | intro q hq | extract_lets +onlyGivenNames x | apply Qf.mgr_sound | apply Qf.complete_sound

theorem Qf.announce_sound {q : Qf} {port : Bool} (hq : Sound q) : Sound (Qf.announce q port) := by
  unfold Qf.announce
  with_reducible repeat' first
    | assumption | (extract_lets +onlyGivenNames x; guard_hyp x : Mgmt := _; subst x)
    | (extract_lets +onlyGivenNames x; clear_value x) | refine Sound.lit ?_ rfl rfl rfl

theorem execMgmtLinkUp_sound {port : Bool} {s : State} (hq : Sound s.qf)
    : ∃ q, execMgmtLinkUp port s = .next { s with qf := q } ∧ Sound q := by
  unfold execMgmtLinkUp done
  refine ⟨_, rfl, ?_⟩
  with_reducible repeat' first
    | assumption
    | (extract_lets +onlyGivenNames q; guard_hyp q : Qf := _; refine step_sound q ?_ (fun hq => ?_)
       rotate_left; clear_value q; rotate_left; subst q)
    | (extract_lets +onlyGivenNames x; guard_hyp x : Mgmt := _; subst x) | extract_lets +onlyGivenNames x
    | apply Qf.announce_sound | split | refine Sound.lit ?_ rfl rfl rfl

theorem execCompletionRingFull_sound {port : Bool} {queue : BitVec 3} {s : State} (hq : Sound s.qf)
    : ∃ q, execCompletionRingFull port queue s = .next { s with qf := q } ∧ Sound q := by
  unfold execCompletionRingFull done
  refine ⟨_, rfl, ?_⟩
  with_reducible repeat' first
    | assumption | extract_lets +onlyGivenNames x | apply Qf.updMq_sound | split
    | refine Sound.lit ?_ rfl rfl rfl

theorem execDhcpLease_sound {v6 : Bool} {address : List Byte} {seconds : BitVec 32} {s : State}
    (hq : Sound s.qf) : ∃ q, execDhcpLease v6 address seconds s = .next { s with qf := q } ∧ Sound q := by
  unfold execDhcpLease done
  refine ⟨_, rfl, ?_⟩
  with_reducible repeat' first
    | assumption
    | (extract_lets +onlyGivenNames q; guard_hyp q : Qf := _; refine step_sound q ?_ (fun hq => ?_)
       rotate_left; clear_value q; rotate_left; subst q)
    | (extract_lets +onlyGivenNames x; guard_hyp x : Mgmt := _; subst x) | extract_lets +onlyGivenNames x
    | apply Qf.setIpv4_sound | apply Qf.setIpv6_sound | split | refine Sound.lit ?_ rfl rfl rfl

theorem execMqDoorbell_sound {port : Bool} {queue : BitVec 3} {value : BitVec 64} {s : State} (hq : Sound s.qf)
    : ∃ q, execMqDoorbell port queue value s = .next { s with qf := q } ∧ Sound q := by
  unfold execMqDoorbell done
  refine ⟨_, rfl, ?_⟩
  with_reducible repeat' first
    | assumption | intro q hq
    | (extract_lets +onlyGivenNames q; guard_hyp q : Qf := _; refine step_sound q ?_ (fun hq => ?_)
       rotate_left; clear_value q; rotate_left; subst q)
    | extract_lets +onlyGivenNames x | apply Qf.updMq_sound | apply Qf.drainCpl_sound | apply Qf.bar0Write_sound

theorem execZenithSet_sound {a : AgwenRef} {value : List Byte} {s : State} (hq : Sound s.qf)
    : ∃ q, execZenithSet a value s = .next { s with qf := q } ∧ Sound q := by
  unfold execZenithSet done
  refine ⟨_, rfl, ?_⟩
  with_reducible repeat' first
    | assumption | extract_lets +onlyGivenNames x | apply Qf.agWrite_sound

theorem execQueuePurge_sound {a : AgwenRef} {value : List Byte} {s : State} (hq : Sound s.qf)
    : ∃ q, execQueuePurge a value s = .next { s with qf := q } ∧ Sound q := by
  unfold execQueuePurge done
  refine ⟨_, rfl, ?_⟩
  with_reducible repeat' first
    | assumption | extract_lets +onlyGivenNames x | apply Qf.agWrite_sound

theorem execReleaseRecord_sound {a : AgwenRef} {value : List Byte} {s : State} (hq : Sound s.qf)
    : ∃ q, execReleaseRecord a value s = .next { s with qf := q } ∧ Sound q := by
  unfold execReleaseRecord done
  refine ⟨_, rfl, ?_⟩
  with_reducible repeat' first
    | assumption | extract_lets +onlyGivenNames x | apply Qf.agWrite_sound

theorem execEnsignFwActivate_sound {a : AgwenRef} {value : List Byte} {s : State} (hq : Sound s.qf)
    : ∃ q, execEnsignFwActivate a value s = .next { s with qf := q } ∧ Sound q := by
  unfold execEnsignFwActivate done
  refine ⟨_, rfl, ?_⟩
  with_reducible repeat' first
    | assumption | extract_lets +onlyGivenNames x | apply Qf.agWrite_sound

theorem execFwConfirm_sound {a : AgwenRef} {value : List Byte} {s : State} (hq : Sound s.qf)
    : ∃ q, execFwConfirm a value s = .next { s with qf := q } ∧ Sound q := by
  unfold execFwConfirm done
  refine ⟨_, rfl, ?_⟩
  with_reducible repeat' first
    | assumption | extract_lets +onlyGivenNames x | apply Qf.agWrite_sound

theorem execHoldupTestNow_sound {a : AgwenRef} {value : List Byte} {s : State} (hq : Sound s.qf)
    : ∃ q, execHoldupTestNow a value s = .next { s with qf := q } ∧ Sound q := by
  unfold execHoldupTestNow done
  refine ⟨_, rfl, ?_⟩
  with_reducible repeat' first
    | assumption | extract_lets +onlyGivenNames x | apply Qf.agWrite_sound

theorem Qf.zeroSystem_sound {q : Qf} (hq : Sound q) : Sound (Qf.zeroSystem q) := by
  exact ⟨rfl, hq.2⟩

theorem Qf.slicesOn_sound {q : Qf} (hq : Sound q) : Sound (Qf.slicesOn q) := by
  unfold Qf.slicesOn
  with_reducible repeat' first
    | assumption | (extract_lets +onlyGivenNames x; clear_value x) | refine Sound.lit ?_ rfl rfl rfl

theorem execPartitionBoot_sound {m : MgrRef} {partition : BitVec 8} {endpoint : BitVec 16} {epoch : BitVec 16}
    {count : BitVec 16} {composition : List (BitVec 32)} {fence : List Byte} {routes : List (BitVec 64)}
    {groups : List (BitVec 128)} {masks : List (BitVec 64)} {s : State} (hq : Sound s.qf)
    : ∃ q, execPartitionBoot m partition endpoint epoch count composition fence routes groups masks s = .next { s with qf := q } ∧ Sound q := by
  unfold execPartitionBoot done
  refine ⟨_, rfl, ?_⟩
  with_reducible repeat' first
    | assumption | intro q hq
    | (extract_lets +onlyGivenNames q; guard_hyp q : Qf := _; refine step_sound q ?_ (fun hq => ?_)
       rotate_left; clear_value q; rotate_left; subst q)
    | (extract_lets +onlyGivenNames x; guard_hyp x : Faults := _; subst x)
    | (extract_lets +onlyGivenNames x; clear_value x) | extract_lets +onlyGivenNames x
    | refine foldl_sound (fun q x hq => ?_) _ ?_ | apply Qf.zeroSystem_sound | apply Qf.lowerLink_sound
    | apply Qf.takeTime_sound | apply Qf.mgr_sound | apply Qf.complete_sound | apply Qf.slicesOn_sound | split
    | refine Sound.lit ?_ rfl rfl rfl

theorem execOwnerClaim_sound {a : AgwenRef} {value : List Byte} {s : State} (hq : Sound s.qf)
    : ∃ q, execOwnerClaim a value s = .next { s with qf := q } ∧ Sound q := by
  unfold execOwnerClaim done
  refine ⟨_, rfl, ?_⟩
  with_reducible repeat' first
    | assumption | extract_lets +onlyGivenNames x | apply Qf.agWrite_sound

theorem execClose_sound {a : AgwenRef} {s : State} (hq : Sound s.qf)
    : ∃ q, execClose a s = .next { s with qf := q } ∧ Sound q := by
  unfold execClose done
  refine ⟨_, rfl, ?_⟩
  with_reducible repeat' first
    | assumption | intro q hq | intro _ | extract_lets +onlyGivenNames x | apply Qf.agRequest_sound
    | apply Qf.endSessions_sound | apply Qf.updSession_sound

theorem execMgmtPortTakeover_sound {port : Bool} {s : State} (hq : Sound s.qf)
    : ∃ q, execMgmtPortTakeover port s = .next { s with qf := q } ∧ Sound q := by
  unfold execMgmtPortTakeover done
  refine ⟨_, rfl, ?_⟩
  with_reducible repeat' first
    | assumption
    | (extract_lets +onlyGivenNames q; guard_hyp q : Qf := _; refine step_sound q ?_ (fun hq => ?_)
       rotate_left; clear_value q; rotate_left; subst q)
    | (extract_lets +onlyGivenNames x; guard_hyp x : Mgmt := _; subst x) | extract_lets +onlyGivenNames x
    | apply Qf.announce_sound | split | refine Sound.lit ?_ rfl rfl rfl

theorem execFwRollback_sound {a : AgwenRef} {value : List Byte} {s : State} (hq : Sound s.qf)
    : ∃ q, execFwRollback a value s = .next { s with qf := q } ∧ Sound q := by
  unfold execFwRollback done
  refine ⟨_, rfl, ?_⟩
  with_reducible repeat' first
    | assumption | extract_lets +onlyGivenNames x | apply Qf.agWrite_sound

theorem execPortFence_sound {a : AgwenRef} {value : List Byte} {s : State} (hq : Sound s.qf)
    : ∃ q, execPortFence a value s = .next { s with qf := q } ∧ Sound q := by
  unfold execPortFence done
  refine ⟨_, rfl, ?_⟩
  with_reducible repeat' first
    | assumption | extract_lets +onlyGivenNames x | apply Qf.agWrite_sound

theorem execDtlsAlert_sound {session : Nat} {s : State} (hq : Sound s.qf)
    : ∃ q, execDtlsAlert session s = .next { s with qf := q } ∧ Sound q := by
  unfold execDtlsAlert done
  refine ⟨_, rfl, ?_⟩
  with_reducible repeat' first
    | assumption | extract_lets +onlyGivenNames x | apply Qf.endSessions_sound | split
    | refine Sound.lit ?_ rfl rfl rfl

theorem execLineClear_sound {a : AgwenRef} {value : List Byte} {s : State} (hq : Sound s.qf)
    : ∃ q, execLineClear a value s = .next { s with qf := q } ∧ Sound q := by
  unfold execLineClear done
  refine ⟨_, rfl, ?_⟩
  with_reducible repeat' first
    | assumption | extract_lets +onlyGivenNames x | apply Qf.agWrite_sound

theorem execAgwenWrite_sound {a : AgwenRef} {index : BitVec 16} {sub : BitVec 8} {value : List Byte} {s : State}
    (hq : Sound s.qf) : ∃ q, execAgwenWrite a index sub value s = .next { s with qf := q } ∧ Sound q := by
  unfold execAgwenWrite done
  refine ⟨_, rfl, ?_⟩
  with_reducible repeat' first
    | assumption | intro q hq | intro _ | extract_lets +onlyGivenNames x | apply Qf.dictWrite_sound
    | apply Qf.agRequest_sound | apply plainReply_sound | split

theorem execKeepalive_sound {a : AgwenRef} {s : State} (hq : Sound s.qf)
    : ∃ q, execKeepalive a s = .next { s with qf := q } ∧ Sound q := by
  unfold execKeepalive done
  refine ⟨_, rfl, ?_⟩
  with_reducible repeat' first
    | assumption | intro q hq | intro _ | extract_lets +onlyGivenNames x | apply Qf.agRequest_sound

theorem execGateArm_sound {a : AgwenRef} {value : List Byte} {s : State} (hq : Sound s.qf)
    : ∃ q, execGateArm a value s = .next { s with qf := q } ∧ Sound q := by
  unfold execGateArm done
  refine ⟨_, rfl, ?_⟩
  with_reducible repeat' first
    | assumption | extract_lets +onlyGivenNames x | apply Qf.agWrite_sound

theorem execSquallTrigger_sound {a : AgwenRef} {value : List Byte} {s : State} (hq : Sound s.qf)
    : ∃ q, execSquallTrigger a value s = .next { s with qf := q } ∧ Sound q := by
  unfold execSquallTrigger done
  refine ⟨_, rfl, ?_⟩
  with_reducible repeat' first
    | assumption | extract_lets +onlyGivenNames x | apply Qf.agWrite_sound

theorem execEventRepeat_sound {session : Nat} {s : State} (hq : Sound s.qf)
    : ∃ q, execEventRepeat session s = .next { s with qf := q } ∧ Sound q := by
  unfold execEventRepeat done
  refine ⟨_, rfl, ?_⟩
  with_reducible repeat' first
    | assumption
    | (extract_lets +onlyGivenNames q; guard_hyp q : Qf := _; refine step_sound q ?_ (fun hq => ?_)
       rotate_left; clear_value q; rotate_left; subst q)
    | (extract_lets +onlyGivenNames x; guard_hyp x : Mgmt := _; subst x)
    | (extract_lets +onlyGivenNames x; clear_value x) | extract_lets +onlyGivenNames x
    | apply Qf.updSession_sound | split | refine Sound.lit ?_ rfl rfl rfl

theorem execFwStage_sound {a : AgwenRef} {image : FwImage} {s : State} (hq : Sound s.qf)
    : ∃ q, execFwStage a image s = .next { s with qf := q } ∧ Sound q := by
  unfold execFwStage done
  refine ⟨_, rfl, ?_⟩
  with_reducible repeat' first
    | assumption | intro q hq | intro _ | extract_lets +onlyGivenNames x | apply Qf.writeWith_sound
    | apply Qf.ensignStage_sound | apply Qf.okAns_sound | apply Qf.agRequest_sound | apply plainReply_sound

theorem execReadSeg_sound {a : AgwenRef} {index : BitVec 16} {sub : BitVec 8} {offset : BitVec 64} {s : State}
    (hq : Sound s.qf) : ∃ q, execReadSeg a index sub offset s = .next { s with qf := q } ∧ Sound q := by
  unfold execReadSeg done
  refine ⟨_, rfl, ?_⟩
  with_reducible repeat' first
    | assumption | intro q hq | intro _ | extract_lets +onlyGivenNames x | apply Qf.readSeg_sound
    | apply Qf.agRequest_sound

end Sys2Proof.Machine
end

