-- ==== Sys2Proof/Laws/State.lean ====
section
/-! SUPPORT. Laws/State.lean: for each update of one group of the block, every other group as it was, so that no later proof
unfolds a record update. -/

namespace Sys2Proof.Machine

/-- Qf.updSession changes mgmt and no other group. -/
@[simp] theorem Qf.updSession_rest (q : Qf) (id : Nat) (f : AgSession → AgSession) :
    (q.updSession id f).obs = q.obs ∧ (q.updSession id f).boot = q.boot ∧ (q.updSession id f).part = q.part ∧
    (q.updSession id f).pwr = q.pwr ∧ (q.updSession id f).pool = q.pool ∧ (q.updSession id f).ver = q.ver ∧
    (q.updSession id f).edge = q.edge ∧ (q.updSession id f).home = q.home ∧ (q.updSession id f).qps = q.qps ∧
    (q.updSession id f).cum = q.cum ∧ (q.updSession id f).eng = q.eng ∧ (q.updSession id f).links = q.links ∧
    (q.updSession id f).linkPar = q.linkPar ∧ (q.updSession id f).sw = q.sw ∧ (q.updSession id f).sched = q.sched ∧
    (q.updSession id f).sec = q.sec ∧ (q.updSession id f).flt = q.flt ∧ (q.updSession id f).ens = q.ens ∧
    (q.updSession id f).host = q.host ∧ (q.updSession id f).dbg = q.dbg ∧ (q.updSession id f).sys = q.sys ∧
    (q.updSession id f).freeCount = q.freeCount := by
  and_intros <;> rfl

/-- Qf.putSegment changes mgmt and no other group. -/
@[simp] theorem Qf.putSegment_rest (q : Qf) (x : AgSession) (g : Segment) :
    (q.putSegment x g).obs = q.obs ∧ (q.putSegment x g).boot = q.boot ∧ (q.putSegment x g).part = q.part ∧
    (q.putSegment x g).pwr = q.pwr ∧ (q.putSegment x g).pool = q.pool ∧ (q.putSegment x g).ver = q.ver ∧
    (q.putSegment x g).edge = q.edge ∧ (q.putSegment x g).home = q.home ∧ (q.putSegment x g).qps = q.qps ∧
    (q.putSegment x g).cum = q.cum ∧ (q.putSegment x g).eng = q.eng ∧ (q.putSegment x g).links = q.links ∧
    (q.putSegment x g).linkPar = q.linkPar ∧ (q.putSegment x g).sw = q.sw ∧ (q.putSegment x g).sched = q.sched ∧
    (q.putSegment x g).sec = q.sec ∧ (q.putSegment x g).flt = q.flt ∧ (q.putSegment x g).ens = q.ens ∧
    (q.putSegment x g).host = q.host ∧ (q.putSegment x g).dbg = q.dbg ∧ (q.putSegment x g).sys = q.sys ∧
    (q.putSegment x g).freeCount = q.freeCount := by
  and_intros <;> rfl

/-- Qf.updQp changes qps and no other group. -/
@[simp] theorem Qf.updQp_rest (q : Qf) (n : QpKey) (f : Qp → Qp) :
    (q.updQp n f).obs = q.obs ∧ (q.updQp n f).boot = q.boot ∧ (q.updQp n f).part = q.part ∧ (q.updQp n f).pwr = q.pwr ∧
    (q.updQp n f).pool = q.pool ∧ (q.updQp n f).ver = q.ver ∧ (q.updQp n f).edge = q.edge ∧ (q.updQp n f).home = q.home ∧
    (q.updQp n f).cum = q.cum ∧ (q.updQp n f).eng = q.eng ∧ (q.updQp n f).links = q.links ∧
    (q.updQp n f).linkPar = q.linkPar ∧ (q.updQp n f).sw = q.sw ∧ (q.updQp n f).sched = q.sched ∧ (q.updQp n f).sec = q.sec ∧
    (q.updQp n f).flt = q.flt ∧ (q.updQp n f).ens = q.ens ∧ (q.updQp n f).mgmt = q.mgmt ∧ (q.updQp n f).host = q.host ∧
    (q.updQp n f).dbg = q.dbg ∧ (q.updQp n f).sys = q.sys ∧ (q.updQp n f).freeCount = q.freeCount := by
  and_intros <;> rfl

/-- Qf.updWr changes qps and no other group. -/
@[simp] theorem Qf.updWr_rest (q : Qf) (n : QpKey) (i : BitVec 16) (f : WorkReq → WorkReq) :
    (q.updWr n i f).obs = q.obs ∧ (q.updWr n i f).boot = q.boot ∧ (q.updWr n i f).part = q.part ∧
    (q.updWr n i f).pwr = q.pwr ∧ (q.updWr n i f).pool = q.pool ∧ (q.updWr n i f).ver = q.ver ∧
    (q.updWr n i f).edge = q.edge ∧ (q.updWr n i f).home = q.home ∧ (q.updWr n i f).cum = q.cum ∧
    (q.updWr n i f).eng = q.eng ∧ (q.updWr n i f).links = q.links ∧ (q.updWr n i f).linkPar = q.linkPar ∧
    (q.updWr n i f).sw = q.sw ∧ (q.updWr n i f).sched = q.sched ∧ (q.updWr n i f).sec = q.sec ∧ (q.updWr n i f).flt = q.flt ∧
    (q.updWr n i f).ens = q.ens ∧ (q.updWr n i f).mgmt = q.mgmt ∧ (q.updWr n i f).host = q.host ∧
    (q.updWr n i f).dbg = q.dbg ∧ (q.updWr n i f).sys = q.sys ∧ (q.updWr n i f).freeCount = q.freeCount := by
  and_intros <;> rfl

/-- Qf.updJob changes eng and no other group. -/
@[simp] theorem Qf.updJob_rest (q : Qf) (n : QpKey) (i : BitVec 16) (f : PipeJob → PipeJob) :
    (q.updJob n i f).obs = q.obs ∧ (q.updJob n i f).boot = q.boot ∧ (q.updJob n i f).part = q.part ∧
    (q.updJob n i f).pwr = q.pwr ∧ (q.updJob n i f).pool = q.pool ∧ (q.updJob n i f).ver = q.ver ∧
    (q.updJob n i f).edge = q.edge ∧ (q.updJob n i f).home = q.home ∧ (q.updJob n i f).qps = q.qps ∧
    (q.updJob n i f).cum = q.cum ∧ (q.updJob n i f).links = q.links ∧ (q.updJob n i f).linkPar = q.linkPar ∧
    (q.updJob n i f).sw = q.sw ∧ (q.updJob n i f).sched = q.sched ∧ (q.updJob n i f).sec = q.sec ∧
    (q.updJob n i f).flt = q.flt ∧ (q.updJob n i f).ens = q.ens ∧ (q.updJob n i f).mgmt = q.mgmt ∧
    (q.updJob n i f).host = q.host ∧ (q.updJob n i f).dbg = q.dbg ∧ (q.updJob n i f).sys = q.sys ∧
    (q.updJob n i f).freeCount = q.freeCount := by
  and_intros <;> rfl

/-- Qf.updGroup changes cum and no other group. -/
@[simp] theorem Qf.updGroup_rest (q : Qf) (g : Nat) (f : Group → Group) :
    (q.updGroup g f).obs = q.obs ∧ (q.updGroup g f).boot = q.boot ∧ (q.updGroup g f).part = q.part ∧
    (q.updGroup g f).pwr = q.pwr ∧ (q.updGroup g f).pool = q.pool ∧ (q.updGroup g f).ver = q.ver ∧
    (q.updGroup g f).edge = q.edge ∧ (q.updGroup g f).home = q.home ∧ (q.updGroup g f).qps = q.qps ∧
    (q.updGroup g f).eng = q.eng ∧ (q.updGroup g f).links = q.links ∧ (q.updGroup g f).linkPar = q.linkPar ∧
    (q.updGroup g f).sw = q.sw ∧ (q.updGroup g f).sched = q.sched ∧ (q.updGroup g f).sec = q.sec ∧
    (q.updGroup g f).flt = q.flt ∧ (q.updGroup g f).ens = q.ens ∧ (q.updGroup g f).mgmt = q.mgmt ∧
    (q.updGroup g f).host = q.host ∧ (q.updGroup g f).dbg = q.dbg ∧ (q.updGroup g f).sys = q.sys ∧
    (q.updGroup g f).freeCount = q.freeCount := by
  unfold Qf.updGroup; repeat' split
  all_goals simp

/-- Qf.updInst changes cum and no other group. -/
@[simp] theorem Qf.updInst_rest (q : Qf) (g : Nat) (f : ColInst → ColInst) :
    (q.updInst g f).obs = q.obs ∧ (q.updInst g f).boot = q.boot ∧ (q.updInst g f).part = q.part ∧
    (q.updInst g f).pwr = q.pwr ∧ (q.updInst g f).pool = q.pool ∧ (q.updInst g f).ver = q.ver ∧
    (q.updInst g f).edge = q.edge ∧ (q.updInst g f).home = q.home ∧ (q.updInst g f).qps = q.qps ∧
    (q.updInst g f).eng = q.eng ∧ (q.updInst g f).links = q.links ∧ (q.updInst g f).linkPar = q.linkPar ∧
    (q.updInst g f).sw = q.sw ∧ (q.updInst g f).sched = q.sched ∧ (q.updInst g f).sec = q.sec ∧ (q.updInst g f).flt = q.flt ∧
    (q.updInst g f).ens = q.ens ∧ (q.updInst g f).mgmt = q.mgmt ∧ (q.updInst g f).host = q.host ∧
    (q.updInst g f).dbg = q.dbg ∧ (q.updInst g f).sys = q.sys ∧ (q.updInst g f).freeCount = q.freeCount := by
  simp [Qf.updInst]

/-- Qf.updMember changes cum and no other group. -/
@[simp] theorem Qf.updMember_rest (q : Qf) (g : Nat) (h : HalfPort) (f : ColMember → ColMember) :
    (q.updMember g h f).obs = q.obs ∧ (q.updMember g h f).boot = q.boot ∧ (q.updMember g h f).part = q.part ∧
    (q.updMember g h f).pwr = q.pwr ∧ (q.updMember g h f).pool = q.pool ∧ (q.updMember g h f).ver = q.ver ∧
    (q.updMember g h f).edge = q.edge ∧ (q.updMember g h f).home = q.home ∧ (q.updMember g h f).qps = q.qps ∧
    (q.updMember g h f).eng = q.eng ∧ (q.updMember g h f).links = q.links ∧ (q.updMember g h f).linkPar = q.linkPar ∧
    (q.updMember g h f).sw = q.sw ∧ (q.updMember g h f).sched = q.sched ∧ (q.updMember g h f).sec = q.sec ∧
    (q.updMember g h f).flt = q.flt ∧ (q.updMember g h f).ens = q.ens ∧ (q.updMember g h f).mgmt = q.mgmt ∧
    (q.updMember g h f).host = q.host ∧ (q.updMember g h f).dbg = q.dbg ∧ (q.updMember g h f).sys = q.sys ∧
    (q.updMember g h f).freeCount = q.freeCount := by
  simp [Qf.updMember]

/-- Qf.updSampler changes sw and no other group. -/
@[simp] theorem Qf.updSampler_rest (q : Qf) (k : Nat) (f : Sampler → Sampler) :
    (q.updSampler k f).obs = q.obs ∧ (q.updSampler k f).boot = q.boot ∧ (q.updSampler k f).part = q.part ∧
    (q.updSampler k f).pwr = q.pwr ∧ (q.updSampler k f).pool = q.pool ∧ (q.updSampler k f).ver = q.ver ∧
    (q.updSampler k f).edge = q.edge ∧ (q.updSampler k f).home = q.home ∧ (q.updSampler k f).qps = q.qps ∧
    (q.updSampler k f).cum = q.cum ∧ (q.updSampler k f).eng = q.eng ∧ (q.updSampler k f).links = q.links ∧
    (q.updSampler k f).linkPar = q.linkPar ∧ (q.updSampler k f).sched = q.sched ∧ (q.updSampler k f).sec = q.sec ∧
    (q.updSampler k f).flt = q.flt ∧ (q.updSampler k f).ens = q.ens ∧ (q.updSampler k f).mgmt = q.mgmt ∧
    (q.updSampler k f).host = q.host ∧ (q.updSampler k f).dbg = q.dbg ∧ (q.updSampler k f).sys = q.sys ∧
    (q.updSampler k f).freeCount = q.freeCount := by
  and_intros <;> rfl

/-- Qf.updStream changes edge and no other group. -/
@[simp] theorem Qf.updStream_rest (q : Qf) (i : Ingress) (src : Ep) (st : Stream) (f : StreamRec → StreamRec) :
    (q.updStream i src st f).obs = q.obs ∧ (q.updStream i src st f).boot = q.boot ∧ (q.updStream i src st f).part = q.part ∧
    (q.updStream i src st f).pwr = q.pwr ∧ (q.updStream i src st f).pool = q.pool ∧ (q.updStream i src st f).ver = q.ver ∧
    (q.updStream i src st f).home = q.home ∧ (q.updStream i src st f).qps = q.qps ∧ (q.updStream i src st f).cum = q.cum ∧
    (q.updStream i src st f).eng = q.eng ∧ (q.updStream i src st f).links = q.links ∧
    (q.updStream i src st f).linkPar = q.linkPar ∧ (q.updStream i src st f).sw = q.sw ∧
    (q.updStream i src st f).sched = q.sched ∧ (q.updStream i src st f).sec = q.sec ∧ (q.updStream i src st f).flt = q.flt ∧
    (q.updStream i src st f).ens = q.ens ∧ (q.updStream i src st f).mgmt = q.mgmt ∧ (q.updStream i src st f).host = q.host ∧
    (q.updStream i src st f).dbg = q.dbg ∧ (q.updStream i src st f).sys = q.sys ∧
    (q.updStream i src st f).freeCount = q.freeCount := by
  unfold Qf.updStream; repeat' split
  all_goals simp

/-- Qf.updEnc changes eng and no other group. -/
@[simp] theorem Qf.updEnc_rest (q : Qf) (id : Nat) (f : EncJob → EncJob) :
    (q.updEnc id f).obs = q.obs ∧ (q.updEnc id f).boot = q.boot ∧ (q.updEnc id f).part = q.part ∧
    (q.updEnc id f).pwr = q.pwr ∧ (q.updEnc id f).pool = q.pool ∧ (q.updEnc id f).ver = q.ver ∧
    (q.updEnc id f).edge = q.edge ∧ (q.updEnc id f).home = q.home ∧ (q.updEnc id f).qps = q.qps ∧
    (q.updEnc id f).cum = q.cum ∧ (q.updEnc id f).links = q.links ∧ (q.updEnc id f).linkPar = q.linkPar ∧
    (q.updEnc id f).sw = q.sw ∧ (q.updEnc id f).sched = q.sched ∧ (q.updEnc id f).sec = q.sec ∧ (q.updEnc id f).flt = q.flt ∧
    (q.updEnc id f).ens = q.ens ∧ (q.updEnc id f).mgmt = q.mgmt ∧ (q.updEnc id f).host = q.host ∧
    (q.updEnc id f).dbg = q.dbg ∧ (q.updEnc id f).sys = q.sys ∧ (q.updEnc id f).freeCount = q.freeCount := by
  unfold Qf.updEnc; repeat' split
  all_goals simp

/-- Qf.updEgress changes sched and no other group. -/
@[simp] theorem Qf.updEgress_rest (q : Qf) (h : HalfPort) (f : Egress → Egress) :
    (q.updEgress h f).obs = q.obs ∧ (q.updEgress h f).boot = q.boot ∧ (q.updEgress h f).part = q.part ∧
    (q.updEgress h f).pwr = q.pwr ∧ (q.updEgress h f).pool = q.pool ∧ (q.updEgress h f).ver = q.ver ∧
    (q.updEgress h f).edge = q.edge ∧ (q.updEgress h f).home = q.home ∧ (q.updEgress h f).qps = q.qps ∧
    (q.updEgress h f).cum = q.cum ∧ (q.updEgress h f).eng = q.eng ∧ (q.updEgress h f).links = q.links ∧
    (q.updEgress h f).linkPar = q.linkPar ∧ (q.updEgress h f).sw = q.sw ∧ (q.updEgress h f).sec = q.sec ∧
    (q.updEgress h f).flt = q.flt ∧ (q.updEgress h f).ens = q.ens ∧ (q.updEgress h f).mgmt = q.mgmt ∧
    (q.updEgress h f).host = q.host ∧ (q.updEgress h f).dbg = q.dbg ∧ (q.updEgress h f).sys = q.sys ∧
    (q.updEgress h f).freeCount = q.freeCount := by
  and_intros <;> rfl

/-- Qf.updPolicer changes sched and no other group. -/
@[simp] theorem Qf.updPolicer_rest (q : Qf) (t : Tenant) (f : Policer → Policer) :
    (q.updPolicer t f).obs = q.obs ∧ (q.updPolicer t f).boot = q.boot ∧ (q.updPolicer t f).part = q.part ∧
    (q.updPolicer t f).pwr = q.pwr ∧ (q.updPolicer t f).pool = q.pool ∧ (q.updPolicer t f).ver = q.ver ∧
    (q.updPolicer t f).edge = q.edge ∧ (q.updPolicer t f).home = q.home ∧ (q.updPolicer t f).qps = q.qps ∧
    (q.updPolicer t f).cum = q.cum ∧ (q.updPolicer t f).eng = q.eng ∧ (q.updPolicer t f).links = q.links ∧
    (q.updPolicer t f).linkPar = q.linkPar ∧ (q.updPolicer t f).sw = q.sw ∧ (q.updPolicer t f).sec = q.sec ∧
    (q.updPolicer t f).flt = q.flt ∧ (q.updPolicer t f).ens = q.ens ∧ (q.updPolicer t f).mgmt = q.mgmt ∧
    (q.updPolicer t f).host = q.host ∧ (q.updPolicer t f).dbg = q.dbg ∧ (q.updPolicer t f).sys = q.sys ∧
    (q.updPolicer t f).freeCount = q.freeCount := by
  and_intros <;> rfl

/-- Qf.updProposal changes flt and no other group. -/
@[simp] theorem Qf.updProposal_rest (q : Qf) (x by_ : Ep) (f : Proposal → Proposal) :
    (q.updProposal x by_ f).obs = q.obs ∧ (q.updProposal x by_ f).boot = q.boot ∧ (q.updProposal x by_ f).part = q.part ∧
    (q.updProposal x by_ f).pwr = q.pwr ∧ (q.updProposal x by_ f).pool = q.pool ∧ (q.updProposal x by_ f).ver = q.ver ∧
    (q.updProposal x by_ f).edge = q.edge ∧ (q.updProposal x by_ f).home = q.home ∧ (q.updProposal x by_ f).qps = q.qps ∧
    (q.updProposal x by_ f).cum = q.cum ∧ (q.updProposal x by_ f).eng = q.eng ∧ (q.updProposal x by_ f).links = q.links ∧
    (q.updProposal x by_ f).linkPar = q.linkPar ∧ (q.updProposal x by_ f).sw = q.sw ∧
    (q.updProposal x by_ f).sched = q.sched ∧ (q.updProposal x by_ f).sec = q.sec ∧ (q.updProposal x by_ f).ens = q.ens ∧
    (q.updProposal x by_ f).mgmt = q.mgmt ∧ (q.updProposal x by_ f).host = q.host ∧ (q.updProposal x by_ f).dbg = q.dbg ∧
    (q.updProposal x by_ f).sys = q.sys ∧ (q.updProposal x by_ f).freeCount = q.freeCount := by
  and_intros <;> rfl

/-- Qf.setDir changes home and no other group. -/
@[simp] theorem Qf.setDir_rest (q : Qf) (n : LineNo) (d : Option DirEnt) :
    (q.setDir n d).obs = q.obs ∧ (q.setDir n d).boot = q.boot ∧ (q.setDir n d).part = q.part ∧ (q.setDir n d).pwr = q.pwr ∧
    (q.setDir n d).pool = q.pool ∧ (q.setDir n d).ver = q.ver ∧ (q.setDir n d).edge = q.edge ∧ (q.setDir n d).qps = q.qps ∧
    (q.setDir n d).cum = q.cum ∧ (q.setDir n d).eng = q.eng ∧ (q.setDir n d).links = q.links ∧
    (q.setDir n d).linkPar = q.linkPar ∧ (q.setDir n d).sw = q.sw ∧ (q.setDir n d).sched = q.sched ∧
    (q.setDir n d).sec = q.sec ∧ (q.setDir n d).flt = q.flt ∧ (q.setDir n d).ens = q.ens ∧ (q.setDir n d).mgmt = q.mgmt ∧
    (q.setDir n d).host = q.host ∧ (q.setDir n d).dbg = q.dbg ∧ (q.setDir n d).sys = q.sys ∧
    (q.setDir n d).freeCount = q.freeCount := by
  and_intros <;> rfl

/-- Qf.setOwner changes home and no other group. -/
@[simp] theorem Qf.setOwner_rest (q : Qf) (n : LineNo) (x : Ep) :
    (q.setOwner n x).obs = q.obs ∧ (q.setOwner n x).boot = q.boot ∧ (q.setOwner n x).part = q.part ∧
    (q.setOwner n x).pwr = q.pwr ∧ (q.setOwner n x).pool = q.pool ∧ (q.setOwner n x).ver = q.ver ∧
    (q.setOwner n x).edge = q.edge ∧ (q.setOwner n x).qps = q.qps ∧ (q.setOwner n x).cum = q.cum ∧
    (q.setOwner n x).eng = q.eng ∧ (q.setOwner n x).links = q.links ∧ (q.setOwner n x).linkPar = q.linkPar ∧
    (q.setOwner n x).sw = q.sw ∧ (q.setOwner n x).sched = q.sched ∧ (q.setOwner n x).sec = q.sec ∧
    (q.setOwner n x).flt = q.flt ∧ (q.setOwner n x).ens = q.ens ∧ (q.setOwner n x).mgmt = q.mgmt ∧
    (q.setOwner n x).host = q.host ∧ (q.setOwner n x).dbg = q.dbg ∧ (q.setOwner n x).sys = q.sys ∧
    (q.setOwner n x).freeCount = q.freeCount := by
  and_intros <;> rfl

/-- Qf.updLine changes home and no other group. -/
@[simp] theorem Qf.updLine_rest (q : Qf) (n : LineNo) (f : BlockedLine → BlockedLine) :
    (q.updLine n f).obs = q.obs ∧ (q.updLine n f).boot = q.boot ∧ (q.updLine n f).part = q.part ∧
    (q.updLine n f).pwr = q.pwr ∧ (q.updLine n f).pool = q.pool ∧ (q.updLine n f).ver = q.ver ∧
    (q.updLine n f).edge = q.edge ∧ (q.updLine n f).qps = q.qps ∧ (q.updLine n f).cum = q.cum ∧ (q.updLine n f).eng = q.eng ∧
    (q.updLine n f).links = q.links ∧ (q.updLine n f).linkPar = q.linkPar ∧ (q.updLine n f).sw = q.sw ∧
    (q.updLine n f).sched = q.sched ∧ (q.updLine n f).sec = q.sec ∧ (q.updLine n f).flt = q.flt ∧
    (q.updLine n f).ens = q.ens ∧ (q.updLine n f).mgmt = q.mgmt ∧ (q.updLine n f).host = q.host ∧
    (q.updLine n f).dbg = q.dbg ∧ (q.updLine n f).sys = q.sys ∧ (q.updLine n f).freeCount = q.freeCount := by
  and_intros <;> rfl

/-- Qf.updTxn changes home and no other group. -/
@[simp] theorem Qf.updTxn_rest (q : Qf) (n : LineNo) (f : Txn → Txn) :
    (q.updTxn n f).obs = q.obs ∧ (q.updTxn n f).boot = q.boot ∧ (q.updTxn n f).part = q.part ∧ (q.updTxn n f).pwr = q.pwr ∧
    (q.updTxn n f).pool = q.pool ∧ (q.updTxn n f).ver = q.ver ∧ (q.updTxn n f).edge = q.edge ∧ (q.updTxn n f).qps = q.qps ∧
    (q.updTxn n f).cum = q.cum ∧ (q.updTxn n f).eng = q.eng ∧ (q.updTxn n f).links = q.links ∧
    (q.updTxn n f).linkPar = q.linkPar ∧ (q.updTxn n f).sw = q.sw ∧ (q.updTxn n f).sched = q.sched ∧
    (q.updTxn n f).sec = q.sec ∧ (q.updTxn n f).flt = q.flt ∧ (q.updTxn n f).ens = q.ens ∧ (q.updTxn n f).mgmt = q.mgmt ∧
    (q.updTxn n f).host = q.host ∧ (q.updTxn n f).dbg = q.dbg ∧ (q.updTxn n f).sys = q.sys ∧
    (q.updTxn n f).freeCount = q.freeCount := by
  unfold Qf.updTxn; repeat' split
  all_goals simp

/-- Qf.updBulk changes home and no other group. -/
@[simp] theorem Qf.updBulk_rest (q : Qf) (id : Nat) (f : BulkOp → BulkOp) :
    (q.updBulk id f).obs = q.obs ∧ (q.updBulk id f).boot = q.boot ∧ (q.updBulk id f).part = q.part ∧
    (q.updBulk id f).pwr = q.pwr ∧ (q.updBulk id f).pool = q.pool ∧ (q.updBulk id f).ver = q.ver ∧
    (q.updBulk id f).edge = q.edge ∧ (q.updBulk id f).qps = q.qps ∧ (q.updBulk id f).cum = q.cum ∧
    (q.updBulk id f).eng = q.eng ∧ (q.updBulk id f).links = q.links ∧ (q.updBulk id f).linkPar = q.linkPar ∧
    (q.updBulk id f).sw = q.sw ∧ (q.updBulk id f).sched = q.sched ∧ (q.updBulk id f).sec = q.sec ∧
    (q.updBulk id f).flt = q.flt ∧ (q.updBulk id f).ens = q.ens ∧ (q.updBulk id f).mgmt = q.mgmt ∧
    (q.updBulk id f).host = q.host ∧ (q.updBulk id f).dbg = q.dbg ∧ (q.updBulk id f).sys = q.sys ∧
    (q.updBulk id f).freeCount = q.freeCount := by
  and_intros <;> rfl

/-- Qf.updQuota changes pool and no other group. -/
@[simp] theorem Qf.updQuota_rest (q : Qf) (t : Tenant) (f : Quota → Quota) :
    (q.updQuota t f).obs = q.obs ∧ (q.updQuota t f).boot = q.boot ∧ (q.updQuota t f).part = q.part ∧
    (q.updQuota t f).pwr = q.pwr ∧ (q.updQuota t f).ver = q.ver ∧ (q.updQuota t f).edge = q.edge ∧
    (q.updQuota t f).home = q.home ∧ (q.updQuota t f).qps = q.qps ∧ (q.updQuota t f).cum = q.cum ∧
    (q.updQuota t f).eng = q.eng ∧ (q.updQuota t f).links = q.links ∧ (q.updQuota t f).linkPar = q.linkPar ∧
    (q.updQuota t f).sw = q.sw ∧ (q.updQuota t f).sched = q.sched ∧ (q.updQuota t f).sec = q.sec ∧
    (q.updQuota t f).flt = q.flt ∧ (q.updQuota t f).ens = q.ens ∧ (q.updQuota t f).mgmt = q.mgmt ∧
    (q.updQuota t f).host = q.host ∧ (q.updQuota t f).dbg = q.dbg ∧ (q.updQuota t f).sys = q.sys ∧
    (q.updQuota t f).freeCount = q.freeCount := by
  and_intros <;> rfl

/-- Qf.updExtent changes pool and no other group. -/
@[simp] theorem Qf.updExtent_rest (q : Qf) (s : Slot) (f : Extent → Extent) :
    (q.updExtent s f).obs = q.obs ∧ (q.updExtent s f).boot = q.boot ∧ (q.updExtent s f).part = q.part ∧
    (q.updExtent s f).pwr = q.pwr ∧ (q.updExtent s f).ver = q.ver ∧ (q.updExtent s f).edge = q.edge ∧
    (q.updExtent s f).home = q.home ∧ (q.updExtent s f).qps = q.qps ∧ (q.updExtent s f).cum = q.cum ∧
    (q.updExtent s f).eng = q.eng ∧ (q.updExtent s f).links = q.links ∧ (q.updExtent s f).linkPar = q.linkPar ∧
    (q.updExtent s f).sw = q.sw ∧ (q.updExtent s f).sched = q.sched ∧ (q.updExtent s f).sec = q.sec ∧
    (q.updExtent s f).flt = q.flt ∧ (q.updExtent s f).ens = q.ens ∧ (q.updExtent s f).mgmt = q.mgmt ∧
    (q.updExtent s f).host = q.host ∧ (q.updExtent s f).dbg = q.dbg ∧ (q.updExtent s f).sys = q.sys ∧
    (q.updExtent s f).freeCount = q.freeCount := by
  and_intros <;> rfl

/-- Qf.updKeys changes sec and no other group. -/
@[simp] theorem Qf.updKeys_rest (q : Qf) (t : Tenant) (f : TenantKeys → TenantKeys) :
    (q.updKeys t f).obs = q.obs ∧ (q.updKeys t f).boot = q.boot ∧ (q.updKeys t f).part = q.part ∧
    (q.updKeys t f).pwr = q.pwr ∧ (q.updKeys t f).pool = q.pool ∧ (q.updKeys t f).ver = q.ver ∧
    (q.updKeys t f).edge = q.edge ∧ (q.updKeys t f).home = q.home ∧ (q.updKeys t f).qps = q.qps ∧
    (q.updKeys t f).cum = q.cum ∧ (q.updKeys t f).eng = q.eng ∧ (q.updKeys t f).links = q.links ∧
    (q.updKeys t f).linkPar = q.linkPar ∧ (q.updKeys t f).sw = q.sw ∧ (q.updKeys t f).sched = q.sched ∧
    (q.updKeys t f).flt = q.flt ∧ (q.updKeys t f).ens = q.ens ∧ (q.updKeys t f).mgmt = q.mgmt ∧
    (q.updKeys t f).host = q.host ∧ (q.updKeys t f).dbg = q.dbg ∧ (q.updKeys t f).sys = q.sys ∧
    (q.updKeys t f).freeCount = q.freeCount := by
  and_intros <;> rfl

/-- Qf.updProgress changes mgmt and no other group. -/
@[simp] theorem Qf.updProgress_rest (q : Qf) (i : Option Nat) (f : Progress → Progress) :
    (q.updProgress i f).obs = q.obs ∧ (q.updProgress i f).boot = q.boot ∧ (q.updProgress i f).part = q.part ∧
    (q.updProgress i f).pwr = q.pwr ∧ (q.updProgress i f).pool = q.pool ∧ (q.updProgress i f).ver = q.ver ∧
    (q.updProgress i f).edge = q.edge ∧ (q.updProgress i f).home = q.home ∧ (q.updProgress i f).qps = q.qps ∧
    (q.updProgress i f).cum = q.cum ∧ (q.updProgress i f).eng = q.eng ∧ (q.updProgress i f).links = q.links ∧
    (q.updProgress i f).linkPar = q.linkPar ∧ (q.updProgress i f).sw = q.sw ∧ (q.updProgress i f).sched = q.sched ∧
    (q.updProgress i f).sec = q.sec ∧ (q.updProgress i f).flt = q.flt ∧ (q.updProgress i f).ens = q.ens ∧
    (q.updProgress i f).host = q.host ∧ (q.updProgress i f).dbg = q.dbg ∧ (q.updProgress i f).sys = q.sys ∧
    (q.updProgress i f).freeCount = q.freeCount := by
  unfold Qf.updProgress; repeat' split
  all_goals simp

/-- Qf.updMq changes host and no other group. -/
@[simp] theorem Qf.updMq_rest (q : Qf) (port : Bool) (queue : BitVec 3) (f : Mq → Mq) :
    (q.updMq port queue f).obs = q.obs ∧ (q.updMq port queue f).boot = q.boot ∧ (q.updMq port queue f).part = q.part ∧
    (q.updMq port queue f).pwr = q.pwr ∧ (q.updMq port queue f).pool = q.pool ∧ (q.updMq port queue f).ver = q.ver ∧
    (q.updMq port queue f).edge = q.edge ∧ (q.updMq port queue f).home = q.home ∧ (q.updMq port queue f).qps = q.qps ∧
    (q.updMq port queue f).cum = q.cum ∧ (q.updMq port queue f).eng = q.eng ∧ (q.updMq port queue f).links = q.links ∧
    (q.updMq port queue f).linkPar = q.linkPar ∧ (q.updMq port queue f).sw = q.sw ∧ (q.updMq port queue f).sched = q.sched ∧
    (q.updMq port queue f).sec = q.sec ∧ (q.updMq port queue f).flt = q.flt ∧ (q.updMq port queue f).ens = q.ens ∧
    (q.updMq port queue f).mgmt = q.mgmt ∧ (q.updMq port queue f).dbg = q.dbg ∧ (q.updMq port queue f).sys = q.sys ∧
    (q.updMq port queue f).freeCount = q.freeCount := by
  and_intros <;> rfl

/-- Qf.updLink changes links and no other group. -/
@[simp] theorem Qf.updLink_rest (q : Qf) (h : HalfPort) (f : Link → Link) :
    (q.updLink h f).obs = q.obs ∧ (q.updLink h f).boot = q.boot ∧ (q.updLink h f).part = q.part ∧
    (q.updLink h f).pwr = q.pwr ∧ (q.updLink h f).pool = q.pool ∧ (q.updLink h f).ver = q.ver ∧
    (q.updLink h f).edge = q.edge ∧ (q.updLink h f).home = q.home ∧ (q.updLink h f).qps = q.qps ∧
    (q.updLink h f).cum = q.cum ∧ (q.updLink h f).eng = q.eng ∧ (q.updLink h f).linkPar = q.linkPar ∧
    (q.updLink h f).sw = q.sw ∧ (q.updLink h f).sched = q.sched ∧ (q.updLink h f).sec = q.sec ∧ (q.updLink h f).flt = q.flt ∧
    (q.updLink h f).ens = q.ens ∧ (q.updLink h f).mgmt = q.mgmt ∧ (q.updLink h f).host = q.host ∧
    (q.updLink h f).dbg = q.dbg ∧ (q.updLink h f).sys = q.sys ∧ (q.updLink h f).freeCount = q.freeCount := by
  and_intros <;> rfl

/-- Qf.updOwn changes qps and no other group. -/
@[simp] theorem Qf.updOwn_rest (q : Qf) (n : QpKey) (f : OwnRec → OwnRec) :
    (q.updOwn n f).obs = q.obs ∧ (q.updOwn n f).boot = q.boot ∧ (q.updOwn n f).part = q.part ∧ (q.updOwn n f).pwr = q.pwr ∧
    (q.updOwn n f).pool = q.pool ∧ (q.updOwn n f).ver = q.ver ∧ (q.updOwn n f).edge = q.edge ∧ (q.updOwn n f).home = q.home ∧
    (q.updOwn n f).cum = q.cum ∧ (q.updOwn n f).eng = q.eng ∧ (q.updOwn n f).links = q.links ∧
    (q.updOwn n f).linkPar = q.linkPar ∧ (q.updOwn n f).sw = q.sw ∧ (q.updOwn n f).sched = q.sched ∧
    (q.updOwn n f).sec = q.sec ∧ (q.updOwn n f).flt = q.flt ∧ (q.updOwn n f).ens = q.ens ∧ (q.updOwn n f).mgmt = q.mgmt ∧
    (q.updOwn n f).host = q.host ∧ (q.updOwn n f).dbg = q.dbg ∧ (q.updOwn n f).sys = q.sys ∧
    (q.updOwn n f).freeCount = q.freeCount := by
  and_intros <;> rfl

/-- Qf.setState changes links and mgmt and no other group. -/
@[simp] theorem Qf.setState_rest (q : Qf) (h : HalfPort) (st : LinkState) :
    (q.setState h st).obs = q.obs ∧ (q.setState h st).boot = q.boot ∧ (q.setState h st).part = q.part ∧
    (q.setState h st).pwr = q.pwr ∧ (q.setState h st).pool = q.pool ∧ (q.setState h st).ver = q.ver ∧
    (q.setState h st).edge = q.edge ∧ (q.setState h st).home = q.home ∧ (q.setState h st).qps = q.qps ∧
    (q.setState h st).cum = q.cum ∧ (q.setState h st).eng = q.eng ∧ (q.setState h st).linkPar = q.linkPar ∧
    (q.setState h st).sw = q.sw ∧ (q.setState h st).sched = q.sched ∧ (q.setState h st).sec = q.sec ∧
    (q.setState h st).flt = q.flt ∧ (q.setState h st).ens = q.ens ∧ (q.setState h st).host = q.host ∧
    (q.setState h st).dbg = q.dbg ∧ (q.setState h st).sys = q.sys ∧ (q.setState h st).freeCount = q.freeCount := by
  and_intros <;> rfl

/-- Qf.putDomain changes pwr and no other group. -/
@[simp] theorem Qf.putDomain_rest (q : Qf) (d st : Nat) :
    (q.putDomain d st).obs = q.obs ∧ (q.putDomain d st).boot = q.boot ∧ (q.putDomain d st).part = q.part ∧
    (q.putDomain d st).pool = q.pool ∧ (q.putDomain d st).ver = q.ver ∧ (q.putDomain d st).edge = q.edge ∧
    (q.putDomain d st).home = q.home ∧ (q.putDomain d st).qps = q.qps ∧ (q.putDomain d st).cum = q.cum ∧
    (q.putDomain d st).eng = q.eng ∧ (q.putDomain d st).links = q.links ∧ (q.putDomain d st).linkPar = q.linkPar ∧
    (q.putDomain d st).sw = q.sw ∧ (q.putDomain d st).sched = q.sched ∧ (q.putDomain d st).sec = q.sec ∧
    (q.putDomain d st).flt = q.flt ∧ (q.putDomain d st).ens = q.ens ∧ (q.putDomain d st).mgmt = q.mgmt ∧
    (q.putDomain d st).host = q.host ∧ (q.putDomain d st).dbg = q.dbg ∧ (q.putDomain d st).sys = q.sys ∧
    (q.putDomain d st).freeCount = q.freeCount := by
  and_intros <;> rfl

/-- Qf.updCancels changes qps and no other group. -/
@[simp] theorem Qf.updCancels_rest (q : Qf) (tag : Tag) (f : CancelRec → CancelRec) :
    (q.updCancels tag f).obs = q.obs ∧ (q.updCancels tag f).boot = q.boot ∧ (q.updCancels tag f).part = q.part ∧
    (q.updCancels tag f).pwr = q.pwr ∧ (q.updCancels tag f).pool = q.pool ∧ (q.updCancels tag f).ver = q.ver ∧
    (q.updCancels tag f).edge = q.edge ∧ (q.updCancels tag f).home = q.home ∧ (q.updCancels tag f).cum = q.cum ∧
    (q.updCancels tag f).eng = q.eng ∧ (q.updCancels tag f).links = q.links ∧ (q.updCancels tag f).linkPar = q.linkPar ∧
    (q.updCancels tag f).sw = q.sw ∧ (q.updCancels tag f).sched = q.sched ∧ (q.updCancels tag f).sec = q.sec ∧
    (q.updCancels tag f).flt = q.flt ∧ (q.updCancels tag f).ens = q.ens ∧ (q.updCancels tag f).mgmt = q.mgmt ∧
    (q.updCancels tag f).host = q.host ∧ (q.updCancels tag f).dbg = q.dbg ∧ (q.updCancels tag f).sys = q.sys ∧
    (q.updCancels tag f).freeCount = q.freeCount := by
  and_intros <;> rfl

/-- Qf.updShard changes eng and no other group. -/
@[simp] theorem Qf.updShard_rest (q : Qf) (id : Nat) (f : ShardJob → ShardJob) :
    (q.updShard id f).obs = q.obs ∧ (q.updShard id f).boot = q.boot ∧ (q.updShard id f).part = q.part ∧
    (q.updShard id f).pwr = q.pwr ∧ (q.updShard id f).pool = q.pool ∧ (q.updShard id f).ver = q.ver ∧
    (q.updShard id f).edge = q.edge ∧ (q.updShard id f).home = q.home ∧ (q.updShard id f).qps = q.qps ∧
    (q.updShard id f).cum = q.cum ∧ (q.updShard id f).links = q.links ∧ (q.updShard id f).linkPar = q.linkPar ∧
    (q.updShard id f).sw = q.sw ∧ (q.updShard id f).sched = q.sched ∧ (q.updShard id f).sec = q.sec ∧
    (q.updShard id f).flt = q.flt ∧ (q.updShard id f).ens = q.ens ∧ (q.updShard id f).mgmt = q.mgmt ∧
    (q.updShard id f).host = q.host ∧ (q.updShard id f).dbg = q.dbg ∧ (q.updShard id f).sys = q.sys ∧
    (q.updShard id f).freeCount = q.freeCount := by
  and_intros <;> rfl

/-- Qf.updSide changes eng and no other group. -/
@[simp] theorem Qf.updSide_rest (q : Qf) (id : Nat) (f : SideJob → SideJob) :
    (q.updSide id f).obs = q.obs ∧ (q.updSide id f).boot = q.boot ∧ (q.updSide id f).part = q.part ∧
    (q.updSide id f).pwr = q.pwr ∧ (q.updSide id f).pool = q.pool ∧ (q.updSide id f).ver = q.ver ∧
    (q.updSide id f).edge = q.edge ∧ (q.updSide id f).home = q.home ∧ (q.updSide id f).qps = q.qps ∧
    (q.updSide id f).cum = q.cum ∧ (q.updSide id f).links = q.links ∧ (q.updSide id f).linkPar = q.linkPar ∧
    (q.updSide id f).sw = q.sw ∧ (q.updSide id f).sched = q.sched ∧ (q.updSide id f).sec = q.sec ∧
    (q.updSide id f).flt = q.flt ∧ (q.updSide id f).ens = q.ens ∧ (q.updSide id f).mgmt = q.mgmt ∧
    (q.updSide id f).host = q.host ∧ (q.updSide id f).dbg = q.dbg ∧ (q.updSide id f).sys = q.sys ∧
    (q.updSide id f).freeCount = q.freeCount := by
  and_intros <;> rfl

/-- Qf.updMerge changes eng and no other group. -/
@[simp] theorem Qf.updMerge_rest (q : Qf) (id : Nat) (f : MergeJob → MergeJob) :
    (q.updMerge id f).obs = q.obs ∧ (q.updMerge id f).boot = q.boot ∧ (q.updMerge id f).part = q.part ∧
    (q.updMerge id f).pwr = q.pwr ∧ (q.updMerge id f).pool = q.pool ∧ (q.updMerge id f).ver = q.ver ∧
    (q.updMerge id f).edge = q.edge ∧ (q.updMerge id f).home = q.home ∧ (q.updMerge id f).qps = q.qps ∧
    (q.updMerge id f).cum = q.cum ∧ (q.updMerge id f).links = q.links ∧ (q.updMerge id f).linkPar = q.linkPar ∧
    (q.updMerge id f).sw = q.sw ∧ (q.updMerge id f).sched = q.sched ∧ (q.updMerge id f).sec = q.sec ∧
    (q.updMerge id f).flt = q.flt ∧ (q.updMerge id f).ens = q.ens ∧ (q.updMerge id f).mgmt = q.mgmt ∧
    (q.updMerge id f).host = q.host ∧ (q.updMerge id f).dbg = q.dbg ∧ (q.updMerge id f).sys = q.sys ∧
    (q.updMerge id f).freeCount = q.freeCount := by
  unfold Qf.updMerge; repeat' split
  all_goals simp

/-- Qf.setSampler changes sw and no other group. -/
@[simp] theorem Qf.setSampler_rest (q : Qf) (k : Nat) (n : BitVec 16) :
    (q.setSampler k n).obs = q.obs ∧ (q.setSampler k n).boot = q.boot ∧ (q.setSampler k n).part = q.part ∧
    (q.setSampler k n).pwr = q.pwr ∧ (q.setSampler k n).pool = q.pool ∧ (q.setSampler k n).ver = q.ver ∧
    (q.setSampler k n).edge = q.edge ∧ (q.setSampler k n).home = q.home ∧ (q.setSampler k n).qps = q.qps ∧
    (q.setSampler k n).cum = q.cum ∧ (q.setSampler k n).eng = q.eng ∧ (q.setSampler k n).links = q.links ∧
    (q.setSampler k n).linkPar = q.linkPar ∧ (q.setSampler k n).sched = q.sched ∧ (q.setSampler k n).sec = q.sec ∧
    (q.setSampler k n).flt = q.flt ∧ (q.setSampler k n).ens = q.ens ∧ (q.setSampler k n).mgmt = q.mgmt ∧
    (q.setSampler k n).host = q.host ∧ (q.setSampler k n).dbg = q.dbg ∧ (q.setSampler k n).sys = q.sys ∧
    (q.setSampler k n).freeCount = q.freeCount := by
  and_intros <;> rfl

/-- Qf.updTarget changes qps and no other group. -/
@[simp] theorem Qf.updTarget_rest (q : Qf) (h : QpHdr) (f : TargetRec → TargetRec) :
    (q.updTarget h f).obs = q.obs ∧ (q.updTarget h f).boot = q.boot ∧ (q.updTarget h f).part = q.part ∧
    (q.updTarget h f).pwr = q.pwr ∧ (q.updTarget h f).pool = q.pool ∧ (q.updTarget h f).ver = q.ver ∧
    (q.updTarget h f).edge = q.edge ∧ (q.updTarget h f).home = q.home ∧ (q.updTarget h f).cum = q.cum ∧
    (q.updTarget h f).eng = q.eng ∧ (q.updTarget h f).links = q.links ∧ (q.updTarget h f).linkPar = q.linkPar ∧
    (q.updTarget h f).sw = q.sw ∧ (q.updTarget h f).sched = q.sched ∧ (q.updTarget h f).sec = q.sec ∧
    (q.updTarget h f).flt = q.flt ∧ (q.updTarget h f).ens = q.ens ∧ (q.updTarget h f).mgmt = q.mgmt ∧
    (q.updTarget h f).host = q.host ∧ (q.updTarget h f).dbg = q.dbg ∧ (q.updTarget h f).sys = q.sys ∧
    (q.updTarget h f).freeCount = q.freeCount := by
  and_intros <;> rfl

/-- Qf.updVer changes ver and no other group. -/
@[simp] theorem Qf.updVer_rest (q : Qf) (r : RegionId) (f : VersionRec → VersionRec) :
    (q.updVer r f).obs = q.obs ∧ (q.updVer r f).boot = q.boot ∧ (q.updVer r f).part = q.part ∧ (q.updVer r f).pwr = q.pwr ∧
    (q.updVer r f).pool = q.pool ∧ (q.updVer r f).edge = q.edge ∧ (q.updVer r f).home = q.home ∧ (q.updVer r f).qps = q.qps ∧
    (q.updVer r f).cum = q.cum ∧ (q.updVer r f).eng = q.eng ∧ (q.updVer r f).links = q.links ∧
    (q.updVer r f).linkPar = q.linkPar ∧ (q.updVer r f).sw = q.sw ∧ (q.updVer r f).sched = q.sched ∧
    (q.updVer r f).sec = q.sec ∧ (q.updVer r f).flt = q.flt ∧ (q.updVer r f).ens = q.ens ∧ (q.updVer r f).mgmt = q.mgmt ∧
    (q.updVer r f).host = q.host ∧ (q.updVer r f).dbg = q.dbg ∧ (q.updVer r f).sys = q.sys ∧
    (q.updVer r f).freeCount = q.freeCount := by
  and_intros <;> rfl

/-- Qf.updWd changes pool and no other group. -/
@[simp] theorem Qf.updWd_rest (q : Qf) (s : Slot) (f : Withdrawal → Withdrawal) :
    (q.updWd s f).obs = q.obs ∧ (q.updWd s f).boot = q.boot ∧ (q.updWd s f).part = q.part ∧ (q.updWd s f).pwr = q.pwr ∧
    (q.updWd s f).ver = q.ver ∧ (q.updWd s f).edge = q.edge ∧ (q.updWd s f).home = q.home ∧ (q.updWd s f).qps = q.qps ∧
    (q.updWd s f).cum = q.cum ∧ (q.updWd s f).eng = q.eng ∧ (q.updWd s f).links = q.links ∧
    (q.updWd s f).linkPar = q.linkPar ∧ (q.updWd s f).sw = q.sw ∧ (q.updWd s f).sched = q.sched ∧ (q.updWd s f).sec = q.sec ∧
    (q.updWd s f).flt = q.flt ∧ (q.updWd s f).ens = q.ens ∧ (q.updWd s f).mgmt = q.mgmt ∧ (q.updWd s f).host = q.host ∧
    (q.updWd s f).dbg = q.dbg ∧ (q.updWd s f).sys = q.sys ∧ (q.updWd s f).freeCount = q.freeCount := by
  and_intros <;> rfl

end Sys2Proof.Machine
end

