-- ==== Sys2Proof/Tests/Slice0.lean ====
section
/-! SUPPORT. Tests/Slice0.lean: the model's own tests: for each check of WellFormed an ill-formed term it refuses; a few
single commands; and for each obligation that has hypotheses, states and operands that meet them, clause by clause
(a hypothesis that rests on a free value of Config, which no one can evaluate, is left out of its clause). -/

namespace Sys2Proof.Tests
open Sys2Proof Sys2Proof.Machine Sys2Proof.Claims
set_option Elab.async false

/-- A block in FULL whose partition is booted. -/
def fullUp (q : Qf := {}) : Qf :=
  { q with boot := { q.boot with phase := .full, releaseAt := 0 }, part := { q.part with booted := true } }
/-- A state in which no command waits. -/
def stateOf (q : Qf) : State := { qf := q }
/-- A manager command that no queue holds. -/
def cmd : MgrRef := { format := 1 }

/-- A protected tray behind half-port 0, a quota of tenant 0, slot 1 sealed and ASSIGNED, an extent of a lender. -/
def qPool : Qf := fullUp {
  links := [(0, { state := .active, profile := 2, trayProt := true, trayCapacity := 8192 })]
  pool := { quotas := [(0, { q0 := 1, q1 := 1, q2 := 1 })]
            extents := [(1, { state := .assigned, sealedX := true, trayExtent := 1 })]
            cirrus := [{ lender := 7, extent := 9 }] } }

/-- Slot 0 has a withdrawal due and not yet in effect; 1 is WITHDRAWING; 2 scrubs, all of it done, and waits for a tray; 3 has a
tier-0 frame that is full; 4 moves. -/
def qWithdraw : Qf := fullUp {
  pool := { extents := [(0, { state := .assigned }), (1, { state := .withdrawing }), (2, { state := .scrubbing }),
                        (3, { state := .assigned, t0Frame := 0 })]
            withdrawals := [(0, {}), (1, { effective := true }),
                            (2, { effective := true, scrubPos := 4194304, cmd := some cmd, fill := some (0, 0, 0) })]
            frames := [(0, { slot := 3, fillPos := 4194304, progress := some 0 })]
            moves := [(4, { pass := 1, dirty := List.range 64 })] }
  obs := { zenith := 10000000 } }

/-- A replica whose last line is written, and a reclaim. -/
def qCirrus : Qf := fullUp { pool := { replications := [{ slot := 1, pos := 4194304 }], reclaims := [{ lender := 7 }] } }

/-- A versioned region homed here, its slot 0 read and its draft 0 open. -/
def qVersion : Qf := fullUp { ver := { recs := [(0, { readers := [1, 0, 0, 0], draftOpen := 1 })] } }

/-- What a check that passes gives. -/
def okOf {ε α : Type} [Inhabited α] : Except ε α → α
  | .ok x => x
  | .error _ => default

/-- A first host port, a credit shortage, a hot page long unused, and a map epoch 10 ms old. -/
def qEpoch : Qf := fullUp {
  host := { active := some false, ready := [true, false] }
  pool := { short := true, hotPages := [{}] }
  part := { prevRetired := false, early := true }
  obs := { zenith := 10000000 } }

/-- Slot 0 is ASSIGNED to tenant 0, whose key of generation 0 is CURRENT, and tenant 0's region table names it with all rights. -/
def qHome : Qf := fullUp {
  pool := { extents := [(0, { state := .assigned })] }
  sec := { keys := [(0, { current := some {} })] }
  edge := { records := [(0, 0x8000000800000000)] }
  sys := [(15, 0xF0)]
  qps := { targets := [{}] }
  links := [(1, { profile := 1 })] }
/-- The same with a mate that waits. -/
def qMate (p : Packet) : Qf := { qHome with home := { unpaired := [(.half 0, p)], dir := [(0, { holders := [0] })] } }
/-- The same with a transaction on line 0. -/
def qTxn (t : Txn) : Qf := { qHome with home := { lines := [(0, { txn := some t })] }, obs := { zenith := 100000 } }
/-- The same with requests open at the edge, 5 an endpoint behind half-port 2. -/
def qOpen (rs : List OpenReq) : Qf :=
  { qHome with edge := { qHome.edge with reqs := rs }, links := [(2, { profile := 1, peerEp := 5, state := .active })] }
/-- The same with queue pairs. -/
def qQps (xs : Tbl Qp) : Qf :=
  { qHome with qps := { qps := xs }, obs := { zenith := 3000000 }, host := { active := some false, ready := [true, false] }
               pwr := { domain := (List.range 40).map (fun d => (d, 2)) } }
/-- A queue pair in READY. -/
def ready : Qp := { ctx := { state := .ready } }
/-- A request refused, one unacknowledged, a wait registered and one that is polled. -/
def qRetry : Qf :=
  { qQps [(0, { ready with wait := some {}, work := [{}], store := [{ tag := 2 }] }), (1, { ready with wait := some { polling := true } })] with
    home := { waits := [{ deadline := some 0 }] }
    edge := { qHome.edge with reqs := [{}, { tag := 1, resendAt := some 0 }, { tag := 2 }] } }
/-- A queue pair in READY, one in ERROR, one in RESET, one with an aborted work request and one with eight peers. -/
def qPairs : Qf := qQps [(0, { ready with ctx := { state := .ready, sqProducer := 2 } }), (1, { ctx := { state := .error } }), (2, {}),
  (4, { ready with work := [{ aborting := some none }] }),
  (5, { ready with outbox := [{ pkt := { opcode := Opc.rdNc } }], peers := (List.range 8).map (fun k => { peer := BitVec.ofNat 14 (k + 1) }) })]
/-- Ownership records: one of an owner here, one of endpoint 3, one released to it; queue pairs here, and two of origin 1. -/
def qOwn : Qf :=
  let q := qQps [(0, ready), (1, {}), (65536, ready), (65537, { ctx := { state := .released } })]
  { q with qps := { q.qps with own := [(0, { ownEpoch := 0, pendingAnswer := some (0, {}) }), (1, { ownerEp := 3, ownEpoch := 0 }),
                                       (2, { ownerEp := 3, ownEpoch := 0, released := true, leaseEnd := 4000000 })] } }
/-- An ownership message about a queue pair, from an endpoint. -/
def ownMsg (n : Byte) (src : Ep) : Packet := { srcEp := src, payload := [0, n, 0] }
/-- Tenants at each stage of their keys, 2 ms after reset. -/
def qKeys : Qf := fullUp {
  obs := { zenith := 2000000 }
  pool := { extents := [(0, { state := .assigned, tenant := 7 })] }
  sec := { keys := [(0, { current := some {} }), (1, { current := some { gen := 1 } }), (2, { current := some { deadline := some 0 } }),
                    (3, { retiring := [{}] }), (4, { sweepRunning := true }), (5, { removal := some 0 }),
                    (6, { removal := some 0, removalDone := true }), (7, { removal := some 0, removalDone := true })] } }

/-- Group 0 armed. -/
def qGroup (x : Group) : Qf := fullUp { cum := { groups := [(0, x)] } }
/-- Groups 1, idle, and 2, whose instance has had no packet for the recovery timeout. -/
def qGroups : Qf := fullUp { cum := { groups := [(1, {}), (2, { istate := .summing })] }, obs := { zenith := 100000000 } }
/-- A packet of group 0's current instance. -/
def colPkt (o : BitVec 8) (d : List Byte := []) : Packet := { opcode := o, col := some {}, payload := d }
/-- A RUN_PIPELINE whose descriptor has a header and one stage. -/
def runWr : BitVec 512 := BitVec.ofNat 512 (0x20 * 2 ^ 504 + 128 * 2 ^ 448)
/-- A pipeline that starts, one that writes its outputs and one with a row and a shard query that are late. -/
def qPipes : Qf :=
  let q := qQps [(0, { ready with fetched := some runWr, work := [{}] })]
  { q with eng := { jobs := [{ phase := .outputs },
                             { wrIndex := 1, phase := .running, par := [8, 1, 100, 8, 1]
                               reads := [{ alt := true }, { key := 2 ^ 57, alt := true }] }]
                    hists := [{ bins := [0] }, { search := true, bins := [0] }] } }
/-- A shard query is asked, and region 0 of tenant 0 is versioned. -/
def qSearch : Qf :=
  { qHome with edge := { qHome.edge with reqs := [{ owner := .shardAsk 0 0 0 }] }, ver := { recs := [(0, {})] } }

/-- Every domain is on, and the links of the half-ports are as listed. -/
def qLinks (ls : Tbl Link) : Qf := fullUp {
  links := ls, obs := { zenith := 1000000000, parent := 6, reqT1 := some 0 }, pwr := { domain := (List.range 80).map (fun d => (d, 2)) } }
/-- A half-port in each state of its training. -/
def qTrain : Qf := qLinks [(2, { state := .equalize }), (4, { state := .frameLock }), (6, { state := .capability, mode := 2 }),
  (8, { state := .capability }), (10, { state := .session, peerEp := 5 }), (12, { state := .session, sess := { helloSeen := some {} } }),
  (14, { state := .session, sess := { helloSeen := some {}, th := [0] } }), (16, { state := .creditInit }),
  (18, { state := .session, profile := 2 }), (20, { state := .active, rate := 1, peerFull := true }),
  (22, { state := .active, rate := 1, peerFull := true, rateFails := 2 })]
/-- Links that carry traffic: a bare one, one with a flit to be replayed, one with a session, a time parent, CXL hosts and trays. -/
def qTraffic : Qf := qLinks [(0, { state := .active }), (2, { state := .active, tx := { replay := [{}] } }),
  (4, { state := .active, version := 0x20, sess := { active := true } }), (6, { state := .active, peerQf := true }),
  (8, { state := .active, profile := 3, snoops := [{}], cxl := { owned := [64] } }),
  (10, { state := .active, profile := 4, cxl := { trayOps := [{ left := 1, read := true }] } }),
  (12, { state := .active, profile := 4, cxl := { trayOps := [{ left := 2, read := true }] } })]
/-- A packet flit of sequence 0 with its check word. -/
def flit0 : Flit :=
  let f : Flit := { hdr := (1 : BitVec 2) ++ (0 : BitVec 62), slots := List.replicate 15 0 }
  { f with check := crc64 (bytesOf 8 f.hdr ++ flitBody f) }
/-- A read that passes through to endpoint 9. -/
def through : Packet := { opcode := Opc.rdNc, relaxed := true, destEp := 9, tag := 1 }
/-- The switch with a packet staged, one queued, one without credits and one stalled; a policer, a gate list and a second bank. -/
def qSwitch (cs : List Combine) : Qf :=
  { qLinks [(0, { state := .active, rx := { staged := [through] } }),
            (2, { state := .active, version := 0x20, rate := 2, peerBooted := true, tx := { advertised := List.replicate 7 100 } }), (4, { state := .active })] with
    home := { combines := cs }
    sw := { current := { routes := [(9, BitVec.ofNat 64 (2 ^ 63 + 2 * 2 ^ 56))] }, previous := some {}
            queue := [{ out := .half 2, pkt := through }, { out := .half 4, pkt := through, waitSince := some 0 }]
            stalled := [{ inp := .unit 0 }] }
    sched := { egress := [(0, { armed := some ([], 0, 0) })], policers := [(0, { heldSince := some 0 })] } }

/-- An owner's session, established. -/
def sess : AgSession := { phase := 3, role := 1, service := true, revision := 2, version := 2 }
/-- A session of the metering role. -/
def meterSess : AgSession := { sess with role := 3 }
/-- A block with one session. -/
def qAg (x : AgSession) (q : Qf := {}) : Qf := fullUp { q with mgmt := { q.mgmt with sessions := [x] } }
/-- A request of a session can meet what a statement asks of it. -/
def AskMet (ok : Qf → AgSession → Prop) : Prop :=
  ∃ (s : State) (a : AgwenRef) (x : AgSession), Fresh s.qf a x ∧ ok (heard s.qf a) x
/-- A write of an entry can meet what a statement asks of it. -/
def WriteMet (index : BitVec 16) (sub : BitVec 8) (ok : Qf → Nat → List Byte → Prop) : Prop :=
  ∃ (s : State) (a : AgwenRef) (x : AgSession) (e : Entry) (v : List Byte) (item : Nat), Fresh s.qf a x ∧
    (heard s.qf a).writeBar x index sub = .ok e ∧ x.sel (entryKey index sub) = item ∧ ok (heard s.qf a) item v
/-- A new image waits in the other slot. -/
def qFw : Qf := qAg sess {
  pwr := { holdupHealth := 100 }, boot := { stageState := 1, slotB := some { image := { factoryImage with body := [], settings := [] }, sigGood := true } } }
/-- Two certificates. -/
def certPair : List Byte := [0x30, 0x82, 0, 0, 0x30, 0x82, 0, 0]
/-- Sessions before HELLO and BIND, one with an event due and one with a stale segment. -/
def qSessions : Qf := fullUp {
  obs := { zenith := 10000000000 }
  mgmt := { sessions := [{ sess with phase := 1 }, { sess with id := 1, phase := 2 }, { sess with id := 2, events := [(1, [], 0, 0)] },
                         { sess with id := 3, segs := [{}] }] } }
/-- A management network with both ports up and both leases over. -/
def qNet : Qf := fullUp { mgmt := { mgUp := [true, true], lease4 := some 0, lease6 := some 0, ipv4 := [1, 2, 3, 4], ipv6 := List.replicate 16 1 } }

/-- A QF960 neighbour, endpoint 5, silent behind half-port 0, where votes are staged; fences proposed of 6, 7 and 8. -/
def vote (dest : Ep) : Packet := { opcode := Opc.fenceVote, destEp := dest, srcEp := 9, payload := fenceBody 6 1 }
/-- The fence states. -/
def qFence (mode : Nat) (stuck : List (HalfPort × BitVec 3) := []) : Qf := fullUp {
  links := [(0, { state := .active, profile := 1, peerEp := 5, peerQf := true, rx := { staged := [vote 0, vote 1] } })]
  flt := { mode, proposals := [{ suspect := 6, opened := 2000000 }, { suspect := 7 }, { suspect := 7, proposer := 9 },
                               { suspect := 8, proposer := 9, voted := true }] }
  sw := { stuck }, obs := { zenith := 2000000 } }
/-- A fence message of endpoint 9 that names endpoint 5. -/
def fenceMsg (o : BitVec 8) : Packet := { opcode := o, srcEp := 9, payload := fenceBody 5 0 }
/-- Every domain on, faults of units noted 0, 64 and 65 at reset, a request of endpoint 5 open too long. -/
def qFault : Qf :=
  { qLinks [] with flt := { unitTimes := [(0, 0), (65, 0)] }, edge := { reqs := [{ src := 5, ing := .half 2 }] } }
/-- The drain of a power loss. -/
def qDrain : Qf := { qFault with pwr := { failState := 1 } }
/-- A tap record waits, an interval has ended and a debug authorisation has lapsed. -/
def qMeter : Qf := fullUp { obs := { zenith := 1000000000000 }, ens := { taps := [(0, 0)] }, sec := { debugUntil := 1 } }
/-- The first port is active, its queue 0 runs with its ring full, and progress 0 has been read. -/
def qHost : Qf := fullUp {
  obs := { zenith := 1000000000000 }
  host := { active := some false, ready := [true, false]
            mqs := [(0, { state := .running, config := 0x8000000000000000, cmdProducer := 1, fullSince := some 0 })] }
  mgmt := { progress := [(0, { state := 1, readFinal := some 0 })] } }
/-- A clock with its pulses on. -/
def qPps (high : Option Nat := none) : Qf := fullUp {
  obs := { zenith := 2000000000, ppsIn := true, ppsOut := true, ppsState := 1, ppsLast := some 0, ppsHigh := high } }
/-- A block in a phase of its start. -/
def qPhase (p : BootPhase) (q : Qf := {}) : Qf := { q with boot := { q.boot with phase := p } }

/-! ### Well-formedness: each check refuses an ill-formed term -/

/-- A packet of more than 4,096 payload bytes is ill formed (R303), and so is a COL header off the COL channel (R302). -/
theorem test_wf_packet :
    ({ payload := List.replicate 4097 0 } : Packet).wf = false ∧ ({ col := some {} } : Packet).wf = false ∧
    (Instr.rdNc (.half 0) { payload := List.replicate 4097 0 }).wf = false ∧
    ({ payload := List.replicate 4096 0 } : Packet).wf = true := by decide +kernel

/-- A flit has 15 slots (R291), a link starts with seven credit counts (R295). -/
theorem test_wf_flit :
    ({ hdr := 0, slots := List.replicate 14 0 } : Flit).wf = false ∧ (Instr.creditInit 0 [0]).wf = false := by
  decide +kernel

/-- A BAR2 access moves 1 to 4,096 bytes (R471). -/
theorem test_wf_bar2 :
    (Bar2Op.read 0).wf = false ∧ (Bar2Op.write []).wf = false ∧ (Bar2Op.write (List.replicate 4097 0)).wf = false ∧
    (Bar2Op.read 4096).wf = true := by decide +kernel

/-- An image's settings table has as many entries as its header counts (R501). -/
theorem test_wf_image : ({ factoryImage with settings := [] } : FwImage).wf = false := by decide +kernel

/-- An echo fits one datagram (R444). -/
theorem test_wf_echo :
    (NetQuery.echo4 0 (List.replicate 65508 0)).wf = false ∧ (NetQuery.echo6 0 (List.replicate 65488 0)).wf = false := by
  constructor <;> (dsimp only [NetQuery.wf]; rw [List.length_replicate]; decide)

/-- A CXL host's access carries nothing or one line and asks for a state of Table LINK-15 (R322); so does a completion (R325). -/
theorem test_wf_cxl :
    ({ data := [0] } : CxlReq).wf = false ∧ ({ want := 3 } : CxlReq).wf = false ∧ ({ data := [0] } : CxlTrayCpl).wf = false := by
  decide +kernel

/-- A TIME message is of one of the kinds of Table OBS-1; the unit codes, domains and stacks are those the spec names. -/
theorem test_wf_small :
    ({ kind := 3 } : TimeMsg).wf = false ∧ (Instr.unitFault 0 13 0).wf = false ∧ (Instr.domainWake 80).wf = false ∧
    (Instr.thermalSample 0 []).wf = false ∧ (Instr.dhcpLease true [0] 0).wf = false := by decide +kernel

/-! ### Single commands -/

/-- The command at the front runs, with the rest behind it; no command spells a word, since the table gives no row bits. -/
theorem test_front_runs : step ({ pending := [.powerUp, .idcode], qf := fullUp } : State) =
    exec .powerUp { pending := [.idcode], qf := fullUp } := rfl

/-- A second thermal sample within 1 ms of the last does nothing (R528). -/
theorem test_sample_too_soon : exec (.thermalSample 1200 []) (stateOf fullUp) = .next (stateOf fullUp) := rfl

/-- A die at 115 C starts the power-fail sequence (R529). -/
theorem test_thermal_limit : (match exec (.thermalSample 1150 []) (stateOf (fullUp { obs := { zenith := 1000000 } })) with
    | .next t => t.qf.pwr.failState | _ => 0) = 1 := by decide +kernel

/-- A doorbell through the standby port is dropped and counted (R467). -/
theorem test_standby_drop : (match exec (.qpDoorbell true 0) (stateOf (fullUp { host := { active := some false, ready := [true, true] } })) with
    | .next t => t.qf.host.dropped | _ => 0) = 1 := by decide +kernel

/-! ### The obligations' hypotheses can be met -/

/-- The hypotheses of ExtentCommandsTakeEffect can be met. -/
theorem witness_ExtentCommandsTakeEffect :
    (∃ (s : State) (m : MgrRef) (slot region : BitVec 32) (tray x tenant : BitVec 16) (flags : BitVec 8) (h : HalfPort) (k :
      Slot) (t : Tenant) (ep : Ep) (n : BitVec 13), fld slot 0 18 = k ∧ fld tenant 0 12 = t ∧ fld tray 0 14 = ep ∧ fld x 0 13
      = n ∧ MgrReady s.qf m ∧ SlotStill s.qf k ∧ inRange slot 262144 = true ∧ inRange tray 16384 = true ∧ inRange x 8192 =
      true ∧ inRange tenant 4096 = true ∧ inRange region 1048576 = true ∧ inRange flags 8 = true ∧ (s.qf.extent k).lost =
      false ∧ (s.qf.extent k).state = .free ∧ s.qf.halfTo ep = some h ∧ (s.qf.link h).profile = 2 ∧ (s.qf.link h).trayProt =
      true ∧ n.toNat < (s.qf.link h).trayCapacity ∧ (∀ e ∈ s.qf.pool.extents, e.2.state ≠ .free → e.2.trayEp = ep →
      e.2.trayExtent ≠ n) ∧ (s.qf.quota t).u1 < (s.qf.quota t).q1.toNat) ∧
    (∃ (s : State) (m : MgrRef) (slot : BitVec 32) (tw : BitVec 64) (pr : Nat) (q1 : Qf) (k : Slot), fld slot 0 18 = k ∧
      MgrReady s.qf m ∧ SlotStill s.qf k ∧ inRange slot 262144 = true ∧ s.qf.boot.resetAt = none ∧ (s.qf.extent k).lost =
      false ∧ (s.qf.extent k).state = .assigned ∧ s.qf.now < tw.toNat ∧ (started s m).newProgress 1 0 4194304 = some (pr, q1)) ∧
    (∃ (s : State) (m : MgrRef) (slot newSlot : BitVec 32) (newHome : BitVec 16) (pr : Nat) (q1 : Qf) (k : Slot), fld slot 0
      18 = k ∧ MgrReady s.qf m ∧ SlotStill s.qf k ∧ inRange slot 262144 = true ∧ inRange newHome 16384 = true ∧ inRange
      newSlot 262144 = true ∧ s.qf.boot.resetAt = none ∧ (s.qf.extent k).lost = false ∧ (s.qf.extent k).state = .assigned ∧
      (started s m).newProgress 2 1 65536 = some (pr, q1)) ∧
    (∃ (s : State) (m : MgrRef) (slot : BitVec 32) (f pr : Nat) (q1 : Qf) (k : Slot) (e : Extent), fld slot 0 18 = k ∧
      s.qf.extent k = e ∧ MgrReady s.qf m ∧ SlotStill s.qf k ∧ inRange slot 262144 = true ∧ e.lost = false ∧ e.state =
      .assigned ∧ e.t0Frame = 0xFFF ∧ s.qf.pool.short = false ∧ (s.qf.quota e.tenant).u0 < (s.qf.quota e.tenant).q0.toNat ∧
      (s.qf.freeFrames 1).head? = some f ∧ (started s m).newProgress 8 0 4194304 = some (pr, q1)) ∧
    (∃ (s : State) (m : MgrRef) (slot : BitVec 32) (lender x : BitVec 16) (k : Slot) (e : Extent) (l : Ep), fld slot 0 18 = k
      ∧ s.qf.extent k = e ∧ fld lender 0 14 = l ∧ MgrReady s.qf m ∧ SlotStill s.qf k ∧ inRange slot 262144 = true ∧ inRange
      lender 16384 = true ∧ e.lost = false ∧ e.state = .assigned ∧ e.sealedX = true ∧ e.cirrusValid = false ∧
      s.qf.pool.cirrus.any (fun c => c.lender = l && c.extent = x && c.slot.isNone) = true ∧ ¬ (s.qf.quota e.tenant).q2.toNat
      ≤ (s.qf.quota e.tenant).u2 + (started s m).replicating e.tenant) :=
  ⟨⟨stateOf qPool, cmd, 0, 0, 0, 0, 0, 0, ((stateOf qPool).qf.halfTo (fld (0 : BitVec 16) 0 14)).getD default, _, _, _, _, rfl,
      rfl, rfl, rfl, by decide +kernel⟩,
   ⟨stateOf qPool, cmd, 1, (1 : BitVec 64), (((started (stateOf qPool) cmd).newProgress 1 0 4194304).getD default).1, (((started
      (stateOf qPool) cmd).newProgress 1 0 4194304).getD default).2, _, rfl, by decide +kernel⟩,
   ⟨stateOf qPool, cmd, 1, 0, 0, (((started (stateOf qPool) cmd).newProgress 2 1 65536).getD default).1, (((started (stateOf
      qPool) cmd).newProgress 2 1 65536).getD default).2, _, rfl, by decide +kernel⟩,
   ⟨stateOf qPool, cmd, 1, (((stateOf qPool).qf.freeFrames 1).head?).getD default, (((started (stateOf qPool) cmd).newProgress 8
      0 4194304).getD default).1, (((started (stateOf qPool) cmd).newProgress 8 0 4194304).getD default).2, _, _, rfl, rfl,
      by decide +kernel⟩,
   ⟨stateOf qPool, cmd, 1, 7, 9, _, _, _, rfl, rfl, rfl, by decide +kernel⟩⟩

/-- The hypotheses of WithdrawalAndMoveEventsTakeEffect can be met. -/
theorem witness_WithdrawalAndMoveEventsTakeEffect :
    (∃ (s : State) (k : Slot) (w : Withdrawal), s.qf.wd k = some w ∧ w.effective = false ∧ w.stopped = false ∧ w.tw ≤ s.qf.now
      ∧ s.qf.running = true) ∧
    (∃ (s : State) (k : Slot) (w : Withdrawal), s.qf.wd k = some w ∧ w.effective = true ∧ (s.qf.extent k).state = .withdrawing
      ∧ s.qf.slotInFlight k = 0 ∧ s.qf.running = true) ∧
    (∃ (s : State) (k : Slot) (w : Withdrawal), s.qf.wd k = some w ∧ w.effective = true ∧ (s.qf.extent k).state = .withdrawing
      ∧ w.tw + 10000000 ≤ s.qf.now ∧ s.qf.running = true) ∧
    (∃ (s : State) (k : Slot) (w : Withdrawal) (m : MgrRef), s.qf.wd k = some w ∧ (s.qf.extent k).state = .scrubbing ∧
      w.stopped = false ∧ 4194304 ≤ w.scrubPos ∧ s.qf.running = true ∧ w.cmd = some m) ∧
    (∃ (s : State) (k : Slot) (w : Withdrawal) (f : Tag × Nat × Nat), s.qf.wd k = some w ∧ w.fill = some f ∧ f.2.2 +
      s.qf.flt.requestTimeout.toNat ≤ s.qf.now ∧ s.qf.running = true) ∧
    (∃ (s : State) (k : Slot) (f : Nat) (fr : Frame), (s.qf.extent k).t0Frame.toNat = f ∧ s.qf.pool.frames.find? f = some fr ∧
      4194304 ≤ fr.fillPos ∧ fr.progress.isSome = true ∧ s.qf.running = true) ∧
    (∃ (s : State) (k : Slot) (v : Move), s.qf.pool.moves.find? k.toNat = some v ∧ v.pass ≠ 0 ∧ v.todo = [] ∧ s.qf.running =
      true ∧ v.blocked = false ∧ 64 ≤ v.dirty.length) :=
  ⟨⟨stateOf qWithdraw, 0, ((stateOf qWithdraw).qf.wd (0 : Slot)).getD default, by decide +kernel⟩,
   ⟨stateOf qWithdraw, 1, ((stateOf qWithdraw).qf.wd (1 : Slot)).getD default, by decide +kernel⟩,
   ⟨stateOf qWithdraw, 1, ((stateOf qWithdraw).qf.wd (1 : Slot)).getD default, by decide +kernel⟩,
   ⟨stateOf qWithdraw, 2, ((stateOf qWithdraw).qf.wd (2 : Slot)).getD default, ((((stateOf qWithdraw).qf.wd (2 : Slot)).getD
      default).cmd).getD default, by decide +kernel⟩,
   ⟨stateOf qWithdraw, 2, ((stateOf qWithdraw).qf.wd (2 : Slot)).getD default, ((((stateOf qWithdraw).qf.wd (2 : Slot)).getD
      default).fill).getD default, by decide +kernel⟩,
   ⟨stateOf qWithdraw, 3, _, ((stateOf qWithdraw).qf.pool.frames.find? (((stateOf qWithdraw).qf.extent (3 :
      Slot)).t0Frame.toNat)).getD default, rfl, by decide +kernel⟩,
   ⟨stateOf qWithdraw, 4, ((stateOf qWithdraw).qf.pool.moves.find? (4 : Slot).toNat).getD default, by decide +kernel⟩⟩

/-- The hypotheses of CirrusCommandsTakeEffect can be met. -/
theorem witness_CirrusCommandsTakeEffect :
    (∃ (s : State) (m : MgrRef) (lender first count : BitVec 16) (l : Ep) (new : List Nat), fld lender 0 14 = l ∧ ((List.range
      count.toNat).map (fun k => first.toNat + k)).filter (fun x => !s.qf.pool.cirrus.any (fun c => c.lender = l &&
      c.extent.toNat = x)) = new ∧ MgrReady s.qf m ∧ inRange lender 16384 = true ∧ first.toNat + count.toNat ≤ 65536 ∧
      s.qf.pool.cirrus.length + new.length ≤ 65536) ∧
    (∃ (s : State) (k : Slot) (r : Replication), s.qf.pool.replications.find? (fun r => r.slot = k) = some r ∧ 4194304 ≤ r.pos
      ∧ s.qf.running = true) ∧
    (∃ (s : State) (p : Packet), s.qf.inService = true ∧ p.destEp = s.qf.ownEp) ∧
    (∃ (s : State) (lender : Ep) (r : Reclaim) (q1 : Qf) (old : List TrayRead), s.qf.home.trayReads.filter (fun t => t.cirrus
      && t.ep = lender && r.exts.contains t.ext) = old ∧ old.foldl
      (fun q t => match (q.lineQ t.forLine).bind BlockedLine.txn with | some x => if x.phase = .reading then q.readTier t.forLine x else q | none => q)
      (inHome s.qf (fun h =>
      { h with trayReads := h.trayReads.filter (fun t => !(t.cirrus && t.ep = lender && r.exts.contains t.ext)) })) = q1 ∧
      s.qf.pool.reclaims.find? (fun r => r.lender = lender) = some r ∧ s.qf.inService = true) ∧
    (∃ (s : State) (m : MgrRef) (slot : BitVec 32) (image : BitVec 64) (tenant : BitVec 16) (k : Slot) (q1 : Qf), fld slot 0
      18 = k ∧ MgrReady s.qf m ∧ inRange slot 262144 = true ∧ inRange image (2 ^ 56) = true ∧ inRange tenant 4096 = true ∧
      (inPool (started s m) (fun p => { p with restoring := p.restoring ++ [(k, m)] })).issue 0 (.restore k)
      { opcode := Opc.rdNc, tenant := fld tenant 0 12, world := true, stream := (3 : BitVec 2) ++ (8 : BitVec 16), addr := fld image 0 60 }
      = (none, q1)) :=
  ⟨⟨stateOf qCirrus, cmd, 0, 0, 0, _, _, rfl, rfl, by decide +kernel⟩,
   ⟨stateOf qCirrus, 1, ((stateOf qCirrus).qf.pool.replications.find? (fun r => r.slot = (1 : Slot))).getD default,
      by decide +kernel⟩,
   ⟨stateOf qCirrus, default, by decide +kernel⟩,
   ⟨stateOf qCirrus, 7, ((stateOf qCirrus).qf.pool.reclaims.find? (fun r => r.lender = (7 : Ep))).getD default, _, _, rfl, rfl,
      by decide +kernel⟩,
   ⟨stateOf qHome, cmd, 0, 0, 0, _, ((inPool (started (stateOf qHome) cmd) (fun p =>
      { p with restoring := p.restoring ++ [((fld (0 : BitVec 32) 0 18), cmd)] })).issue 0 (.restore (fld (0 : BitVec 32) 0
      18))
      { opcode := Opc.rdNc, tenant := fld (0 : BitVec 16) 0 12, world := true, stream := (3 : BitVec 2) ++ (8 : BitVec 16), addr := fld (0 : BitVec 64) 0 60 }).2,
      rfl, by decide +kernel⟩⟩

/-- The hypotheses of VersionCommandsTakeEffect can be met. -/
theorem witness_VersionCommandsTakeEffect :
    (∃ (s : State) (m : MgrRef) (tenant : BitVec 16) (region : BitVec 32) (r : RegionId) (v : VersionRec), MgrReady s.qf m ∧
      RecordHere s.qf tenant region r v) ∧
    (∃ (s : State) (m : MgrRef) (tenant : BitVec 16) (region : BitVec 32) (slot : BitVec 8) (r : RegionId) (v w : VersionRec)
      (n : BitVec 16), (v.readers[slot.toNat]?).getD 0 = n ∧ { v with readers := v.readers.set slot.toNat (n - 1) } = w ∧
      MgrReady s.qf m ∧ RecordHere s.qf tenant region r v ∧ inRange slot 4 = true ∧ n ≠ 0) ∧
    (∃ (s : State) (m : MgrRef) (tenant : BitVec 16) (region : BitVec 32) (r : RegionId) (v : VersionRec) (d : Nat) (q1 : Qf),
      q1 = (started s m).takeFree.2.updVer r (fun x =>
      { x with draftOpen := setBit x.draftOpen d true, draftBase := x.draftBase.set d x.current, mapDraft := x.mapDraft.set d (fld (started s m).takeFree.1 0 46), maps := x.maps.set (4 + d) ((x.maps[x.currentSlot.toNat]?).getD []) })
      ∧ MgrReady s.qf m ∧ RecordHere s.qf tenant region r v ∧ (List.range 4).find? (fun d => !v.draftOpen.getLsbD d) = some d) ∧
    (∃ (s : State) (m : MgrRef) (tenant : BitVec 16) (region : BitVec 32) (draft : BitVec 8) (r : RegionId) (v : VersionRec)
      (k : Nat) (q1 : Qf), MgrReady s.qf m ∧ RecordHere s.qf tenant region r v ∧ inRange draft 4 = true ∧ v.draftOpen.getLsbD
      draft.toNat = true ∧ (started s m).publishDraft r draft.toNat = some (k, q1)) ∧
    (∃ (s : State) (m : MgrRef) (tenant : BitVec 16) (region : BitVec 32) (draft : BitVec 8) (r : RegionId) (v : VersionRec),
      MgrReady s.qf m ∧ RecordHere s.qf tenant region r v ∧ inRange draft 4 = true ∧ v.draftOpen.getLsbD draft.toNat = true) ∧
    (∃ (s : State) (r : RegionId), s.qf.running = true ∧ s.qf.ver.recs.has r.toNat = true) :=
  ⟨⟨stateOf qVersion, cmd, 0, 0, 0, (qVersion.verRec 0), by decide +kernel⟩,
   ⟨stateOf qVersion, cmd, 0, 0, 0, 0, (qVersion.verRec 0), _, _, rfl, rfl, by decide +kernel⟩,
   ⟨stateOf qVersion, cmd, 0, 0, 0, (qVersion.verRec 0), ((List.range 4).find? (fun d => !(qVersion.verRec 0).draftOpen.getLsbD
      d)).getD default, _, rfl, by decide +kernel⟩,
   ⟨stateOf qVersion, cmd, 0, 0, 0, 0, (qVersion.verRec 0), (((started (stateOf qVersion) cmd).publishDraft (0 : RegionId) (0 :
      BitVec 8).toNat).getD default).1, (((started (stateOf qVersion) cmd).publishDraft (0 : RegionId) (0 : BitVec
      8).toNat).getD default).2, by decide +kernel⟩,
   ⟨stateOf qVersion, cmd, 0, 0, 0, 0, (qVersion.verRec 0), by decide +kernel⟩,
   ⟨stateOf qVersion, 0, by decide +kernel⟩⟩

/-- The hypotheses of EpochAndSkewCommandsTakeEffect can be met. -/
theorem witness_EpochAndSkewCommandsTakeEffect :
    (∃ (s : State), s.qf.inService = true) ∧
    (∃ (s : State), s.qf.inService = true ∧ s.qf.pool.short = true) ∧
    (∃ (s : State), s.qf.running = true) ∧
    (∃ (s : State), s.qf.inService = true) ∧
    (∃ (s : State) (page : BitVec 34) (h : HotPage), s.qf.hotPage page = some h ∧ h.lastUse + s.qf.pool.skewIdle.toNat ≤
      s.qf.now ∧ s.qf.running = true) ∧
    (∃ (s : State), s.qf.part.prevRetired = false ∧ s.qf.part.advancedAt + 1000000 ≤ s.qf.now ∧ s.qf.running = true ∧
      s.qf.pool.extents.filter (fun x => x.2.state = .moved) = []) ∧
    (∃ (s : State), s.qf.part.prevRetired = false ∧ s.qf.part.early = true ∧ s.qf.epochInFlight (s.qf.part.epoch - 1) = false
      ∧ s.qf.running = true ∧ s.qf.pool.extents.filter (fun x => x.2.state = .moved) = []) ∧
    (∃ (s : State) (port : Bool) (value : BitVec 64) (e : Epoch), fld value 0 16 = e ∧ s.qf.hostOn port = true ∧
      s.qf.host.active = some port ∧ value.getLsbD 63 = true ∧ e = s.qf.part.epoch + 1 ∧ s.qf.sw.previous = none ∧
      s.qf.part.booted = true ∧ s.qf.dbg.squalled = false) ∧
    (∃ (s : State) (port : Bool) (value : BitVec 64), s.qf.hostOn port = true ∧ s.qf.host.active = some port ∧ value.getLsbD
      63 = false ∧ value.getLsbD 61 = true ∧ fld value 0 16 = s.qf.part.epoch ∧ s.qf.part.prevRetired = false ∧
      s.qf.dbg.squalled = false) :=
  ⟨⟨stateOf qEpoch, by decide +kernel⟩,
   ⟨stateOf qEpoch, by decide +kernel⟩,
   ⟨stateOf qEpoch, by decide +kernel⟩,
   ⟨stateOf qEpoch, by decide +kernel⟩,
   ⟨stateOf qEpoch, 0, ((stateOf qEpoch).qf.hotPage (0 : BitVec 34)).getD default, by decide +kernel⟩,
   ⟨stateOf qEpoch, by decide +kernel⟩,
   ⟨stateOf qEpoch, by decide +kernel⟩,
   ⟨stateOf qEpoch, ((stateOf qEpoch).qf.host.active).getD default, 0x8000000000000001, _, rfl, by decide +kernel⟩,
   ⟨stateOf qEpoch, ((stateOf qEpoch).qf.host.active).getD default, 0x2000000000000000, by decide +kernel⟩⟩

/-- The hypotheses of HomeRequestsAreOrdered can be met. -/
theorem witness_HomeRequestsAreOrdered :
    (∃ (s : State) (i : Ingress) (p : Packet) (q1 q2 : Qf) (n : LineNo), q2.viewLine p (lineNo p.addr) = n ∧ ForUs s.qf i p ∧
      Accepts (took s i p) p q1 q2 ∧ (q2.takeIn p).queueFull n = false) ∧
    (∃ (s : State) (i : Ingress) (p : Packet) (q1 q2 : Qf) (ls : List LineReq), (List.range (ceilDiv ((fld p.addr 0 6 : BitVec
      6).toNat + reqLen p none) 64)).map (fun k =>
      ({ op := .rdNc, line := q1.viewLine p (lineNo p.addr + BitVec.ofNat 40 k), pkt := p, bulk := some q1.home.nextBulk } :
      LineReq)) = ls ∧ ForUs s.qf i p ∧ (took s i p).isCleared p = false ∧ (took s i p).targetCheck p = (true, q1) ∧
      q1.homeChecks p = none ∧ ls ≠ [] ∧ (inHome (q1.takeIn p) (fun h =>
      { h with nextBulk := q1.home.nextBulk + 1, bulks := h.bulks.set q1.home.nextBulk { pkt := p, read := true, left := ls.length } })).orderAll
      ls = some q2) ∧
    (∃ (s : State) (i : Ingress) (p : Packet) (r : WaitRec) (ws : List WaitSlot) (x : Sector), WaitRec.ofBits (bitsOf 256
      p.payload) = r ∧ (took s i p).home.waits.filter (fun w => !(w.waiter = p.srcEp && w.tag = p.tag)) = ws ∧ (took s i
      p).sectorOf (lineNo p.addr) = x ∧ ForUs s.qf i p ∧ (took s i p).check123 p = none ∧ (ws.filter (fun w => w.sector =
      x)).length < 1024) ∧
    (∃ (s : State) (i : Ingress) (p : Packet) (h : QpHdr) (t t1 : TargetRec) (psns : List Psn) (q1 : Qf), (took s i
      p).updTarget h (fun t => { t with ownEpoch := h.ownEpoch }) = q1 ∧ (chunks 4 256 p.payload).map (fun b => (bitsOf 32 b :
      Psn)) = psns ∧ ForUs s.qf i p ∧ p.msg = none ∧ p.qp = some h ∧ (took s i p).target h = some t ∧ t.lost = false ∧
      t.ownEpoch ≤ h.ownEpoch ∧ q1.target h = some t1) ∧
    (∃ (s : State) (h : HalfPort), s.qf.inService = true ∧ s.qf.atEdge (.half h) = true) :=
  ⟨⟨stateOf qHome, .half 0, default, ((took (stateOf qHome) (.half 0 : Ingress) (default : Packet)).targetCheck (default :
      Packet)).2, ((((took (stateOf qHome) (.half 0 : Ingress) (default : Packet)).targetCheck (default :
      Packet)).2).draftPage (default : Packet)).getD default, _, rfl, by decide +kernel⟩,
   ⟨stateOf qHome, .half 0, { opcode := Opc.rdBulk, msg := some { totalLen := 64 } }, ((took (stateOf qHome) (.half 0 : Ingress)
      ({ opcode := Opc.rdBulk, msg := some { totalLen := 64 } } : Packet)).targetCheck
      ({ opcode := Opc.rdBulk, msg := some { totalLen := 64 } } : Packet)).2, ((inHome ((((took (stateOf qHome) (.half 0 :
      Ingress) ({ opcode := Opc.rdBulk, msg := some { totalLen := 64 } } : Packet)).targetCheck
      ({ opcode := Opc.rdBulk, msg := some { totalLen := 64 } } : Packet)).2).takeIn
      ({ opcode := Opc.rdBulk, msg := some { totalLen := 64 } } : Packet)) (fun h =>
      { h with nextBulk := (((took (stateOf qHome) (.half 0 : Ingress) ({ opcode := Opc.rdBulk, msg := some { totalLen := 64 } } : Packet)).targetCheck ({ opcode := Opc.rdBulk, msg := some { totalLen := 64 } } : Packet)).2).home.nextBulk + 1, bulks := h.bulks.set (((took (stateOf qHome) (.half 0 : Ingress) ({ opcode := Opc.rdBulk, msg := some { totalLen := 64 } } : Packet)).targetCheck ({ opcode := Opc.rdBulk, msg := some { totalLen := 64 } } : Packet)).2).home.nextBulk { pkt := ({ opcode := Opc.rdBulk, msg := some { totalLen := 64 } } : Packet), read := true, left := ((List.range (ceilDiv ((fld ({ opcode := Opc.rdBulk, msg := some { totalLen := 64 } } : Packet).addr 0 6 : BitVec 6).toNat + reqLen ({ opcode := Opc.rdBulk, msg := some { totalLen := 64 } } : Packet) none) 64)).map (fun k => ({ op := .rdNc, line := (((took (stateOf qHome) (.half 0 : Ingress) ({ opcode := Opc.rdBulk, msg := some { totalLen := 64 } } : Packet)).targetCheck ({ opcode := Opc.rdBulk, msg := some { totalLen := 64 } } : Packet)).2).viewLine ({ opcode := Opc.rdBulk, msg := some { totalLen := 64 } } : Packet) (lineNo ({ opcode := Opc.rdBulk, msg := some { totalLen := 64 } } : Packet).addr + BitVec.ofNat 40 k), pkt := ({ opcode := Opc.rdBulk, msg := some { totalLen := 64 } } : Packet), bulk := some (((took (stateOf qHome) (.half 0 : Ingress) ({ opcode := Opc.rdBulk, msg := some { totalLen := 64 } } : Packet)).targetCheck ({ opcode := Opc.rdBulk, msg := some { totalLen := 64 } } : Packet)).2).home.nextBulk } : LineReq))).length } })).orderAll
      ((List.range (ceilDiv ((fld ({ opcode := Opc.rdBulk, msg := some { totalLen := 64 } } : Packet).addr 0 6 : BitVec
      6).toNat + reqLen ({ opcode := Opc.rdBulk, msg := some { totalLen := 64 } } : Packet) none) 64)).map (fun k =>
      ({ op := .rdNc, line := (((took (stateOf qHome) (.half 0 : Ingress) ({ opcode := Opc.rdBulk, msg := some { totalLen := 64 } } : Packet)).targetCheck ({ opcode := Opc.rdBulk, msg := some { totalLen := 64 } } : Packet)).2).viewLine ({ opcode := Opc.rdBulk, msg := some { totalLen := 64 } } : Packet) (lineNo ({ opcode := Opc.rdBulk, msg := some { totalLen := 64 } } : Packet).addr + BitVec.ofNat 40 k), pkt := ({ opcode := Opc.rdBulk, msg := some { totalLen := 64 } } : Packet), bulk := some (((took (stateOf qHome) (.half 0 : Ingress) ({ opcode := Opc.rdBulk, msg := some { totalLen := 64 } } : Packet)).targetCheck ({ opcode := Opc.rdBulk, msg := some { totalLen := 64 } } : Packet)).2).home.nextBulk }
      : LineReq)))).getD default, _, rfl, by decide +kernel⟩,
   ⟨stateOf qHome, .half 0, default, _, _, _, rfl, rfl, rfl, by decide +kernel⟩,
   ⟨stateOf qHome, .half 0, { opcode := Opc.cancel, qp := some {} }, (({ opcode := Opc.cancel, qp := some {} } : Packet).qp).getD
      default, ((took (stateOf qHome) (.half 0 : Ingress) ({ opcode := Opc.cancel, qp := some {} } : Packet)).target
      ((({ opcode := Opc.cancel, qp := some {} } : Packet).qp).getD default)).getD default, (((took (stateOf qHome) (.half 0 :
      Ingress) ({ opcode := Opc.cancel, qp := some {} } : Packet)).updTarget ((({ opcode := Opc.cancel, qp := some {} } :
      Packet).qp).getD default) (fun t0 =>
      { t0 with ownEpoch := ((({ opcode := Opc.cancel, qp := some {} } : Packet).qp).getD default).ownEpoch })).target
      ((({ opcode := Opc.cancel, qp := some {} } : Packet).qp).getD default)).getD default, _, _, rfl, rfl, by decide +kernel⟩,
   ⟨stateOf qHome, 1, by decide +kernel⟩⟩

/-- The hypotheses of WritesAreTakenWithTheirData can be met. -/
theorem witness_WritesAreTakenWithTheirData :
    (∃ (s : State) (i : Ingress) (p r : Packet) (x : Ingress × Packet) (q1 q2 q3 q4 q5 : Qf) (ls : List LineReq), r =
      { p with payload := x.2.payload, msg := p.msg.or x.2.msg, pennant := p.pennant.or x.2.pennant, qp := p.qp.or x.2.qp } ∧
      (writePieces r x.2.payload).map (fun y =>
      ({ op := .write, line := q4.viewLine r y.1, pkt := r, data := y.2.1, mask := y.2.2, bulk := some (q4.noteMove r).home.nextBulk }
      : LineReq)) = ls ∧ ForUs s.qf i p ∧ (took s i p).pair i p = (some x, q1) ∧ p.vc ≠ 3 ∧ q1.isCleared r = false ∧
      q1.moveBlocks r = false ∧ q1.targetCheck r = (true, q2) ∧ q2.openMsg r = some q3 ∧ q3.homeChecks r = none ∧ q3.draftPage
      r = some q4 ∧ ls ≠ [] ∧ (inHome ((q4.noteMove r).takeIn r) (fun h =>
      { h with nextBulk := (q4.noteMove r).home.nextBulk + 1, bulks := h.bulks.set (q4.noteMove r).home.nextBulk { pkt := r, left := ls.length } })).orderAll
      ls = some q5) ∧
    (∃ (s : State) (i : Ingress) (p : Packet), ForUs s.qf i p ∧ (took s i p).home.unpaired.find? (isMate p) = none) ∧
    (∃ (s : State) (i : Ingress) (p : Packet) (x : Ingress × Packet) (q1 : Qf) (n : LineNo) (r : LineReq), q1.viewLine p
      (lineNo p.addr) = n ∧ r =
      { op := .wbDirty, line := n, pkt := p, data := lineOf (slice x.2.payload 0 64), ordered := q1.now } ∧ ForUs s.qf i p ∧
      (took s i p).pair i p = (some x, q1) ∧ p.vc ≠ 3 ∧ q1.homeChecks p = none ∧ (q1.lineQ n).bind BlockedLine.txn = none ∧ (∀
      b, q1.lineQ n = some b → b.stuck = false) ∧ q1.wbOwner n p.srcEp = true) ∧
    (∃ (s : State) (i : Ingress) (p : Packet) (x : Ingress × Packet) (q1 : Qf), ForUs s.qf i p ∧ (took s i p).pair i p = (some
      x, q1) ∧ p.vc = 3) ∧
    (∃ (s : State) (i : Ingress) (p : Packet) (n : LineNo) (t : Txn) (x : Snoop), ForUs s.qf i p ∧ (took s i p).snoopedLine p
      = some (n, t, x) ∧ x.answered = true ∧ x.wantData = true) :=
  ⟨⟨stateOf (qMate { vc := 3, payload := List.replicate 64 0 }), .half 0, default, _, (((took (stateOf (qMate
      { vc := 3, payload := List.replicate 64 0 })) (.half 0 : Ingress) (default : Packet)).pair (.half 0 : Ingress) (default
      : Packet)).1).getD default, ((took (stateOf (qMate { vc := 3, payload := List.replicate 64 0 })) (.half 0 : Ingress)
      (default : Packet)).pair (.half 0 : Ingress) (default : Packet)).2, ((((took (stateOf (qMate
      { vc := 3, payload := List.replicate 64 0 })) (.half 0 : Ingress) (default : Packet)).pair (.half 0 : Ingress) (default
      : Packet)).2).targetCheck
      ({ (default : Packet) with payload := ((((took (stateOf (qMate { vc := 3, payload := List.replicate 64 0 })) (.half 0 : Ingress) (default : Packet)).pair (.half 0 : Ingress) (default : Packet)).1).getD default).2.payload, msg := (default : Packet).msg.or ((((took (stateOf (qMate { vc := 3, payload := List.replicate 64 0 })) (.half 0 : Ingress) (default : Packet)).pair (.half 0 : Ingress) (default : Packet)).1).getD default).2.msg, pennant := (default : Packet).pennant.or ((((took (stateOf (qMate { vc := 3, payload := List.replicate 64 0 })) (.half 0 : Ingress) (default : Packet)).pair (.half 0 : Ingress) (default : Packet)).1).getD default).2.pennant, qp := (default : Packet).qp.or ((((took (stateOf (qMate { vc := 3, payload := List.replicate 64 0 })) (.half 0 : Ingress) (default : Packet)).pair (.half 0 : Ingress) (default : Packet)).1).getD default).2.qp }
      : Packet)).2, ((((((took (stateOf (qMate { vc := 3, payload := List.replicate 64 0 })) (.half 0 : Ingress) (default :
      Packet)).pair (.half 0 : Ingress) (default : Packet)).2).targetCheck
      ({ (default : Packet) with payload := ((((took (stateOf (qMate { vc := 3, payload := List.replicate 64 0 })) (.half 0 : Ingress) (default : Packet)).pair (.half 0 : Ingress) (default : Packet)).1).getD default).2.payload, msg := (default : Packet).msg.or ((((took (stateOf (qMate { vc := 3, payload := List.replicate 64 0 })) (.half 0 : Ingress) (default : Packet)).pair (.half 0 : Ingress) (default : Packet)).1).getD default).2.msg, pennant := (default : Packet).pennant.or ((((took (stateOf (qMate { vc := 3, payload := List.replicate 64 0 })) (.half 0 : Ingress) (default : Packet)).pair (.half 0 : Ingress) (default : Packet)).1).getD default).2.pennant, qp := (default : Packet).qp.or ((((took (stateOf (qMate { vc := 3, payload := List.replicate 64 0 })) (.half 0 : Ingress) (default : Packet)).pair (.half 0 : Ingress) (default : Packet)).1).getD default).2.qp }
      : Packet)).2).openMsg
      ({ (default : Packet) with payload := ((((took (stateOf (qMate { vc := 3, payload := List.replicate 64 0 })) (.half 0 : Ingress) (default : Packet)).pair (.half 0 : Ingress) (default : Packet)).1).getD default).2.payload, msg := (default : Packet).msg.or ((((took (stateOf (qMate { vc := 3, payload := List.replicate 64 0 })) (.half 0 : Ingress) (default : Packet)).pair (.half 0 : Ingress) (default : Packet)).1).getD default).2.msg, pennant := (default : Packet).pennant.or ((((took (stateOf (qMate { vc := 3, payload := List.replicate 64 0 })) (.half 0 : Ingress) (default : Packet)).pair (.half 0 : Ingress) (default : Packet)).1).getD default).2.pennant, qp := (default : Packet).qp.or ((((took (stateOf (qMate { vc := 3, payload := List.replicate 64 0 })) (.half 0 : Ingress) (default : Packet)).pair (.half 0 : Ingress) (default : Packet)).1).getD default).2.qp }
      : Packet)).getD default, ((((((((took (stateOf (qMate { vc := 3, payload := List.replicate 64 0 })) (.half 0 : Ingress)
      (default : Packet)).pair (.half 0 : Ingress) (default : Packet)).2).targetCheck
      ({ (default : Packet) with payload := ((((took (stateOf (qMate { vc := 3, payload := List.replicate 64 0 })) (.half 0 : Ingress) (default : Packet)).pair (.half 0 : Ingress) (default : Packet)).1).getD default).2.payload, msg := (default : Packet).msg.or ((((took (stateOf (qMate { vc := 3, payload := List.replicate 64 0 })) (.half 0 : Ingress) (default : Packet)).pair (.half 0 : Ingress) (default : Packet)).1).getD default).2.msg, pennant := (default : Packet).pennant.or ((((took (stateOf (qMate { vc := 3, payload := List.replicate 64 0 })) (.half 0 : Ingress) (default : Packet)).pair (.half 0 : Ingress) (default : Packet)).1).getD default).2.pennant, qp := (default : Packet).qp.or ((((took (stateOf (qMate { vc := 3, payload := List.replicate 64 0 })) (.half 0 : Ingress) (default : Packet)).pair (.half 0 : Ingress) (default : Packet)).1).getD default).2.qp }
      : Packet)).2).openMsg
      ({ (default : Packet) with payload := ((((took (stateOf (qMate { vc := 3, payload := List.replicate 64 0 })) (.half 0 : Ingress) (default : Packet)).pair (.half 0 : Ingress) (default : Packet)).1).getD default).2.payload, msg := (default : Packet).msg.or ((((took (stateOf (qMate { vc := 3, payload := List.replicate 64 0 })) (.half 0 : Ingress) (default : Packet)).pair (.half 0 : Ingress) (default : Packet)).1).getD default).2.msg, pennant := (default : Packet).pennant.or ((((took (stateOf (qMate { vc := 3, payload := List.replicate 64 0 })) (.half 0 : Ingress) (default : Packet)).pair (.half 0 : Ingress) (default : Packet)).1).getD default).2.pennant, qp := (default : Packet).qp.or ((((took (stateOf (qMate { vc := 3, payload := List.replicate 64 0 })) (.half 0 : Ingress) (default : Packet)).pair (.half 0 : Ingress) (default : Packet)).1).getD default).2.qp }
      : Packet)).getD default).draftPage
      ({ (default : Packet) with payload := ((((took (stateOf (qMate { vc := 3, payload := List.replicate 64 0 })) (.half 0 : Ingress) (default : Packet)).pair (.half 0 : Ingress) (default : Packet)).1).getD default).2.payload, msg := (default : Packet).msg.or ((((took (stateOf (qMate { vc := 3, payload := List.replicate 64 0 })) (.half 0 : Ingress) (default : Packet)).pair (.half 0 : Ingress) (default : Packet)).1).getD default).2.msg, pennant := (default : Packet).pennant.or ((((took (stateOf (qMate { vc := 3, payload := List.replicate 64 0 })) (.half 0 : Ingress) (default : Packet)).pair (.half 0 : Ingress) (default : Packet)).1).getD default).2.pennant, qp := (default : Packet).qp.or ((((took (stateOf (qMate { vc := 3, payload := List.replicate 64 0 })) (.half 0 : Ingress) (default : Packet)).pair (.half 0 : Ingress) (default : Packet)).1).getD default).2.qp }
      : Packet)).getD default, ((inHome (((((((((((took (stateOf (qMate { vc := 3, payload := List.replicate 64 0 })) (.half 0
      : Ingress) (default : Packet)).pair (.half 0 : Ingress) (default : Packet)).2).targetCheck
      ({ (default : Packet) with payload := ((((took (stateOf (qMate { vc := 3, payload := List.replicate 64 0 })) (.half 0 : Ingress) (default : Packet)).pair (.half 0 : Ingress) (default : Packet)).1).getD default).2.payload, msg := (default : Packet).msg.or ((((took (stateOf (qMate { vc := 3, payload := List.replicate 64 0 })) (.half 0 : Ingress) (default : Packet)).pair (.half 0 : Ingress) (default : Packet)).1).getD default).2.msg, pennant := (default : Packet).pennant.or ((((took (stateOf (qMate { vc := 3, payload := List.replicate 64 0 })) (.half 0 : Ingress) (default : Packet)).pair (.half 0 : Ingress) (default : Packet)).1).getD default).2.pennant, qp := (default : Packet).qp.or ((((took (stateOf (qMate { vc := 3, payload := List.replicate 64 0 })) (.half 0 : Ingress) (default : Packet)).pair (.half 0 : Ingress) (default : Packet)).1).getD default).2.qp }
      : Packet)).2).openMsg
      ({ (default : Packet) with payload := ((((took (stateOf (qMate { vc := 3, payload := List.replicate 64 0 })) (.half 0 : Ingress) (default : Packet)).pair (.half 0 : Ingress) (default : Packet)).1).getD default).2.payload, msg := (default : Packet).msg.or ((((took (stateOf (qMate { vc := 3, payload := List.replicate 64 0 })) (.half 0 : Ingress) (default : Packet)).pair (.half 0 : Ingress) (default : Packet)).1).getD default).2.msg, pennant := (default : Packet).pennant.or ((((took (stateOf (qMate { vc := 3, payload := List.replicate 64 0 })) (.half 0 : Ingress) (default : Packet)).pair (.half 0 : Ingress) (default : Packet)).1).getD default).2.pennant, qp := (default : Packet).qp.or ((((took (stateOf (qMate { vc := 3, payload := List.replicate 64 0 })) (.half 0 : Ingress) (default : Packet)).pair (.half 0 : Ingress) (default : Packet)).1).getD default).2.qp }
      : Packet)).getD default).draftPage
      ({ (default : Packet) with payload := ((((took (stateOf (qMate { vc := 3, payload := List.replicate 64 0 })) (.half 0 : Ingress) (default : Packet)).pair (.half 0 : Ingress) (default : Packet)).1).getD default).2.payload, msg := (default : Packet).msg.or ((((took (stateOf (qMate { vc := 3, payload := List.replicate 64 0 })) (.half 0 : Ingress) (default : Packet)).pair (.half 0 : Ingress) (default : Packet)).1).getD default).2.msg, pennant := (default : Packet).pennant.or ((((took (stateOf (qMate { vc := 3, payload := List.replicate 64 0 })) (.half 0 : Ingress) (default : Packet)).pair (.half 0 : Ingress) (default : Packet)).1).getD default).2.pennant, qp := (default : Packet).qp.or ((((took (stateOf (qMate { vc := 3, payload := List.replicate 64 0 })) (.half 0 : Ingress) (default : Packet)).pair (.half 0 : Ingress) (default : Packet)).1).getD default).2.qp }
      : Packet)).getD default).noteMove
      ({ (default : Packet) with payload := ((((took (stateOf (qMate { vc := 3, payload := List.replicate 64 0 })) (.half 0 : Ingress) (default : Packet)).pair (.half 0 : Ingress) (default : Packet)).1).getD default).2.payload, msg := (default : Packet).msg.or ((((took (stateOf (qMate { vc := 3, payload := List.replicate 64 0 })) (.half 0 : Ingress) (default : Packet)).pair (.half 0 : Ingress) (default : Packet)).1).getD default).2.msg, pennant := (default : Packet).pennant.or ((((took (stateOf (qMate { vc := 3, payload := List.replicate 64 0 })) (.half 0 : Ingress) (default : Packet)).pair (.half 0 : Ingress) (default : Packet)).1).getD default).2.pennant, qp := (default : Packet).qp.or ((((took (stateOf (qMate { vc := 3, payload := List.replicate 64 0 })) (.half 0 : Ingress) (default : Packet)).pair (.half 0 : Ingress) (default : Packet)).1).getD default).2.qp }
      : Packet)).takeIn
      ({ (default : Packet) with payload := ((((took (stateOf (qMate { vc := 3, payload := List.replicate 64 0 })) (.half 0 : Ingress) (default : Packet)).pair (.half 0 : Ingress) (default : Packet)).1).getD default).2.payload, msg := (default : Packet).msg.or ((((took (stateOf (qMate { vc := 3, payload := List.replicate 64 0 })) (.half 0 : Ingress) (default : Packet)).pair (.half 0 : Ingress) (default : Packet)).1).getD default).2.msg, pennant := (default : Packet).pennant.or ((((took (stateOf (qMate { vc := 3, payload := List.replicate 64 0 })) (.half 0 : Ingress) (default : Packet)).pair (.half 0 : Ingress) (default : Packet)).1).getD default).2.pennant, qp := (default : Packet).qp.or ((((took (stateOf (qMate { vc := 3, payload := List.replicate 64 0 })) (.half 0 : Ingress) (default : Packet)).pair (.half 0 : Ingress) (default : Packet)).1).getD default).2.qp }
      : Packet)) (fun h =>
      { h with nextBulk := ((((((((((took (stateOf (qMate { vc := 3, payload := List.replicate 64 0 })) (.half 0 : Ingress) (default : Packet)).pair (.half 0 : Ingress) (default : Packet)).2).targetCheck ({ (default : Packet) with payload := ((((took (stateOf (qMate { vc := 3, payload := List.replicate 64 0 })) (.half 0 : Ingress) (default : Packet)).pair (.half 0 : Ingress) (default : Packet)).1).getD default).2.payload, msg := (default : Packet).msg.or ((((took (stateOf (qMate { vc := 3, payload := List.replicate 64 0 })) (.half 0 : Ingress) (default : Packet)).pair (.half 0 : Ingress) (default : Packet)).1).getD default).2.msg, pennant := (default : Packet).pennant.or ((((took (stateOf (qMate { vc := 3, payload := List.replicate 64 0 })) (.half 0 : Ingress) (default : Packet)).pair (.half 0 : Ingress) (default : Packet)).1).getD default).2.pennant, qp := (default : Packet).qp.or ((((took (stateOf (qMate { vc := 3, payload := List.replicate 64 0 })) (.half 0 : Ingress) (default : Packet)).pair (.half 0 : Ingress) (default : Packet)).1).getD default).2.qp } : Packet)).2).openMsg ({ (default : Packet) with payload := ((((took (stateOf (qMate { vc := 3, payload := List.replicate 64 0 })) (.half 0 : Ingress) (default : Packet)).pair (.half 0 : Ingress) (default : Packet)).1).getD default).2.payload, msg := (default : Packet).msg.or ((((took (stateOf (qMate { vc := 3, payload := List.replicate 64 0 })) (.half 0 : Ingress) (default : Packet)).pair (.half 0 : Ingress) (default : Packet)).1).getD default).2.msg, pennant := (default : Packet).pennant.or ((((took (stateOf (qMate { vc := 3, payload := List.replicate 64 0 })) (.half 0 : Ingress) (default : Packet)).pair (.half 0 : Ingress) (default : Packet)).1).getD default).2.pennant, qp := (default : Packet).qp.or ((((took (stateOf (qMate { vc := 3, payload := List.replicate 64 0 })) (.half 0 : Ingress) (default : Packet)).pair (.half 0 : Ingress) (default : Packet)).1).getD default).2.qp } : Packet)).getD default).draftPage ({ (default : Packet) with payload := ((((took (stateOf (qMate { vc := 3, payload := List.replicate 64 0 })) (.half 0 : Ingress) (default : Packet)).pair (.half 0 : Ingress) (default : Packet)).1).getD default).2.payload, msg := (default : Packet).msg.or ((((took (stateOf (qMate { vc := 3, payload := List.replicate 64 0 })) (.half 0 : Ingress) (default : Packet)).pair (.half 0 : Ingress) (default : Packet)).1).getD default).2.msg, pennant := (default : Packet).pennant.or ((((took (stateOf (qMate { vc := 3, payload := List.replicate 64 0 })) (.half 0 : Ingress) (default : Packet)).pair (.half 0 : Ingress) (default : Packet)).1).getD default).2.pennant, qp := (default : Packet).qp.or ((((took (stateOf (qMate { vc := 3, payload := List.replicate 64 0 })) (.half 0 : Ingress) (default : Packet)).pair (.half 0 : Ingress) (default : Packet)).1).getD default).2.qp } : Packet)).getD default).noteMove ({ (default : Packet) with payload := ((((took (stateOf (qMate { vc := 3, payload := List.replicate 64 0 })) (.half 0 : Ingress) (default : Packet)).pair (.half 0 : Ingress) (default : Packet)).1).getD default).2.payload, msg := (default : Packet).msg.or ((((took (stateOf (qMate { vc := 3, payload := List.replicate 64 0 })) (.half 0 : Ingress) (default : Packet)).pair (.half 0 : Ingress) (default : Packet)).1).getD default).2.msg, pennant := (default : Packet).pennant.or ((((took (stateOf (qMate { vc := 3, payload := List.replicate 64 0 })) (.half 0 : Ingress) (default : Packet)).pair (.half 0 : Ingress) (default : Packet)).1).getD default).2.pennant, qp := (default : Packet).qp.or ((((took (stateOf (qMate { vc := 3, payload := List.replicate 64 0 })) (.half 0 : Ingress) (default : Packet)).pair (.half 0 : Ingress) (default : Packet)).1).getD default).2.qp } : Packet)).home.nextBulk + 1, bulks := h.bulks.set ((((((((((took (stateOf (qMate { vc := 3, payload := List.replicate 64 0 })) (.half 0 : Ingress) (default : Packet)).pair (.half 0 : Ingress) (default : Packet)).2).targetCheck ({ (default : Packet) with payload := ((((took (stateOf (qMate { vc := 3, payload := List.replicate 64 0 })) (.half 0 : Ingress) (default : Packet)).pair (.half 0 : Ingress) (default : Packet)).1).getD default).2.payload, msg := (default : Packet).msg.or ((((took (stateOf (qMate { vc := 3, payload := List.replicate 64 0 })) (.half 0 : Ingress) (default : Packet)).pair (.half 0 : Ingress) (default : Packet)).1).getD default).2.msg, pennant := (default : Packet).pennant.or ((((took (stateOf (qMate { vc := 3, payload := List.replicate 64 0 })) (.half 0 : Ingress) (default : Packet)).pair (.half 0 : Ingress) (default : Packet)).1).getD default).2.pennant, qp := (default : Packet).qp.or ((((took (stateOf (qMate { vc := 3, payload := List.replicate 64 0 })) (.half 0 : Ingress) (default : Packet)).pair (.half 0 : Ingress) (default : Packet)).1).getD default).2.qp } : Packet)).2).openMsg ({ (default : Packet) with payload := ((((took (stateOf (qMate { vc := 3, payload := List.replicate 64 0 })) (.half 0 : Ingress) (default : Packet)).pair (.half 0 : Ingress) (default : Packet)).1).getD default).2.payload, msg := (default : Packet).msg.or ((((took (stateOf (qMate { vc := 3, payload := List.replicate 64 0 })) (.half 0 : Ingress) (default : Packet)).pair (.half 0 : Ingress) (default : Packet)).1).getD default).2.msg, pennant := (default : Packet).pennant.or ((((took (stateOf (qMate { vc := 3, payload := List.replicate 64 0 })) (.half 0 : Ingress) (default : Packet)).pair (.half 0 : Ingress) (default : Packet)).1).getD default).2.pennant, qp := (default : Packet).qp.or ((((took (stateOf (qMate { vc := 3, payload := List.replicate 64 0 })) (.half 0 : Ingress) (default : Packet)).pair (.half 0 : Ingress) (default : Packet)).1).getD default).2.qp } : Packet)).getD default).draftPage ({ (default : Packet) with payload := ((((took (stateOf (qMate { vc := 3, payload := List.replicate 64 0 })) (.half 0 : Ingress) (default : Packet)).pair (.half 0 : Ingress) (default : Packet)).1).getD default).2.payload, msg := (default : Packet).msg.or ((((took (stateOf (qMate { vc := 3, payload := List.replicate 64 0 })) (.half 0 : Ingress) (default : Packet)).pair (.half 0 : Ingress) (default : Packet)).1).getD default).2.msg, pennant := (default : Packet).pennant.or ((((took (stateOf (qMate { vc := 3, payload := List.replicate 64 0 })) (.half 0 : Ingress) (default : Packet)).pair (.half 0 : Ingress) (default : Packet)).1).getD default).2.pennant, qp := (default : Packet).qp.or ((((took (stateOf (qMate { vc := 3, payload := List.replicate 64 0 })) (.half 0 : Ingress) (default : Packet)).pair (.half 0 : Ingress) (default : Packet)).1).getD default).2.qp } : Packet)).getD default).noteMove ({ (default : Packet) with payload := ((((took (stateOf (qMate { vc := 3, payload := List.replicate 64 0 })) (.half 0 : Ingress) (default : Packet)).pair (.half 0 : Ingress) (default : Packet)).1).getD default).2.payload, msg := (default : Packet).msg.or ((((took (stateOf (qMate { vc := 3, payload := List.replicate 64 0 })) (.half 0 : Ingress) (default : Packet)).pair (.half 0 : Ingress) (default : Packet)).1).getD default).2.msg, pennant := (default : Packet).pennant.or ((((took (stateOf (qMate { vc := 3, payload := List.replicate 64 0 })) (.half 0 : Ingress) (default : Packet)).pair (.half 0 : Ingress) (default : Packet)).1).getD default).2.pennant, qp := (default : Packet).qp.or ((((took (stateOf (qMate { vc := 3, payload := List.replicate 64 0 })) (.half 0 : Ingress) (default : Packet)).pair (.half 0 : Ingress) (default : Packet)).1).getD default).2.qp } : Packet)).home.nextBulk { pkt := ({ (default : Packet) with payload := ((((took (stateOf (qMate { vc := 3, payload := List.replicate 64 0 })) (.half 0 : Ingress) (default : Packet)).pair (.half 0 : Ingress) (default : Packet)).1).getD default).2.payload, msg := (default : Packet).msg.or ((((took (stateOf (qMate { vc := 3, payload := List.replicate 64 0 })) (.half 0 : Ingress) (default : Packet)).pair (.half 0 : Ingress) (default : Packet)).1).getD default).2.msg, pennant := (default : Packet).pennant.or ((((took (stateOf (qMate { vc := 3, payload := List.replicate 64 0 })) (.half 0 : Ingress) (default : Packet)).pair (.half 0 : Ingress) (default : Packet)).1).getD default).2.pennant, qp := (default : Packet).qp.or ((((took (stateOf (qMate { vc := 3, payload := List.replicate 64 0 })) (.half 0 : Ingress) (default : Packet)).pair (.half 0 : Ingress) (default : Packet)).1).getD default).2.qp } : Packet), left := ((writePieces ({ (default : Packet) with payload := ((((took (stateOf (qMate { vc := 3, payload := List.replicate 64 0 })) (.half 0 : Ingress) (default : Packet)).pair (.half 0 : Ingress) (default : Packet)).1).getD default).2.payload, msg := (default : Packet).msg.or ((((took (stateOf (qMate { vc := 3, payload := List.replicate 64 0 })) (.half 0 : Ingress) (default : Packet)).pair (.half 0 : Ingress) (default : Packet)).1).getD default).2.msg, pennant := (default : Packet).pennant.or ((((took (stateOf (qMate { vc := 3, payload := List.replicate 64 0 })) (.half 0 : Ingress) (default : Packet)).pair (.half 0 : Ingress) (default : Packet)).1).getD default).2.pennant, qp := (default : Packet).qp.or ((((took (stateOf (qMate { vc := 3, payload := List.replicate 64 0 })) (.half 0 : Ingress) (default : Packet)).pair (.half 0 : Ingress) (default : Packet)).1).getD default).2.qp } : Packet) ((((took (stateOf (qMate { vc := 3, payload := List.replicate 64 0 })) (.half 0 : Ingress) (default : Packet)).pair (.half 0 : Ingress) (default : Packet)).1).getD default).2.payload).map (fun y => ({ op := .write, line := (((((((((took (stateOf (qMate { vc := 3, payload := List.replicate 64 0 })) (.half 0 : Ingress) (default : Packet)).pair (.half 0 : Ingress) (default : Packet)).2).targetCheck ({ (default : Packet) with payload := ((((took (stateOf (qMate { vc := 3, payload := List.replicate 64 0 })) (.half 0 : Ingress) (default : Packet)).pair (.half 0 : Ingress) (default : Packet)).1).getD default).2.payload, msg := (default : Packet).msg.or ((((took (stateOf (qMate { vc := 3, payload := List.replicate 64 0 })) (.half 0 : Ingress) (default : Packet)).pair (.half 0 : Ingress) (default : Packet)).1).getD default).2.msg, pennant := (default : Packet).pennant.or ((((took (stateOf (qMate { vc := 3, payload := List.replicate 64 0 })) (.half 0 : Ingress) (default : Packet)).pair (.half 0 : Ingress) (default : Packet)).1).getD default).2.pennant, qp := (default : Packet).qp.or ((((took (stateOf (qMate { vc := 3, payload := List.replicate 64 0 })) (.half 0 : Ingress) (default : Packet)).pair (.half 0 : Ingress) (default : Packet)).1).getD default).2.qp } : Packet)).2).openMsg ({ (default : Packet) with payload := ((((took (stateOf (qMate { vc := 3, payload := List.replicate 64 0 })) (.half 0 : Ingress) (default : Packet)).pair (.half 0 : Ingress) (default : Packet)).1).getD default).2.payload, msg := (default : Packet).msg.or ((((took (stateOf (qMate { vc := 3, payload := List.replicate 64 0 })) (.half 0 : Ingress) (default : Packet)).pair (.half 0 : Ingress) (default : Packet)).1).getD default).2.msg, pennant := (default : Packet).pennant.or ((((took (stateOf (qMate { vc := 3, payload := List.replicate 64 0 })) (.half 0 : Ingress) (default : Packet)).pair (.half 0 : Ingress) (default : Packet)).1).getD default).2.pennant, qp := (default : Packet).qp.or ((((took (stateOf (qMate { vc := 3, payload := List.replicate 64 0 })) (.half 0 : Ingress) (default : Packet)).pair (.half 0 : Ingress) (default : Packet)).1).getD default).2.qp } : Packet)).getD default).draftPage ({ (default : Packet) with payload := ((((took (stateOf (qMate { vc := 3, payload := List.replicate 64 0 })) (.half 0 : Ingress) (default : Packet)).pair (.half 0 : Ingress) (default : Packet)).1).getD default).2.payload, msg := (default : Packet).msg.or ((((took (stateOf (qMate { vc := 3, payload := List.replicate 64 0 })) (.half 0 : Ingress) (default : Packet)).pair (.half 0 : Ingress) (default : Packet)).1).getD default).2.msg, pennant := (default : Packet).pennant.or ((((took (stateOf (qMate { vc := 3, payload := List.replicate 64 0 })) (.half 0 : Ingress) (default : Packet)).pair (.half 0 : Ingress) (default : Packet)).1).getD default).2.pennant, qp := (default : Packet).qp.or ((((took (stateOf (qMate { vc := 3, payload := List.replicate 64 0 })) (.half 0 : Ingress) (default : Packet)).pair (.half 0 : Ingress) (default : Packet)).1).getD default).2.qp } : Packet)).getD default).viewLine ({ (default : Packet) with payload := ((((took (stateOf (qMate { vc := 3, payload := List.replicate 64 0 })) (.half 0 : Ingress) (default : Packet)).pair (.half 0 : Ingress) (default : Packet)).1).getD default).2.payload, msg := (default : Packet).msg.or ((((took (stateOf (qMate { vc := 3, payload := List.replicate 64 0 })) (.half 0 : Ingress) (default : Packet)).pair (.half 0 : Ingress) (default : Packet)).1).getD default).2.msg, pennant := (default : Packet).pennant.or ((((took (stateOf (qMate { vc := 3, payload := List.replicate 64 0 })) (.half 0 : Ingress) (default : Packet)).pair (.half 0 : Ingress) (default : Packet)).1).getD default).2.pennant, qp := (default : Packet).qp.or ((((took (stateOf (qMate { vc := 3, payload := List.replicate 64 0 })) (.half 0 : Ingress) (default : Packet)).pair (.half 0 : Ingress) (default : Packet)).1).getD default).2.qp } : Packet) y.1, pkt := ({ (default : Packet) with payload := ((((took (stateOf (qMate { vc := 3, payload := List.replicate 64 0 })) (.half 0 : Ingress) (default : Packet)).pair (.half 0 : Ingress) (default : Packet)).1).getD default).2.payload, msg := (default : Packet).msg.or ((((took (stateOf (qMate { vc := 3, payload := List.replicate 64 0 })) (.half 0 : Ingress) (default : Packet)).pair (.half 0 : Ingress) (default : Packet)).1).getD default).2.msg, pennant := (default : Packet).pennant.or ((((took (stateOf (qMate { vc := 3, payload := List.replicate 64 0 })) (.half 0 : Ingress) (default : Packet)).pair (.half 0 : Ingress) (default : Packet)).1).getD default).2.pennant, qp := (default : Packet).qp.or ((((took (stateOf (qMate { vc := 3, payload := List.replicate 64 0 })) (.half 0 : Ingress) (default : Packet)).pair (.half 0 : Ingress) (default : Packet)).1).getD default).2.qp } : Packet), data := y.2.1, mask := y.2.2, bulk := some ((((((((((took (stateOf (qMate { vc := 3, payload := List.replicate 64 0 })) (.half 0 : Ingress) (default : Packet)).pair (.half 0 : Ingress) (default : Packet)).2).targetCheck ({ (default : Packet) with payload := ((((took (stateOf (qMate { vc := 3, payload := List.replicate 64 0 })) (.half 0 : Ingress) (default : Packet)).pair (.half 0 : Ingress) (default : Packet)).1).getD default).2.payload, msg := (default : Packet).msg.or ((((took (stateOf (qMate { vc := 3, payload := List.replicate 64 0 })) (.half 0 : Ingress) (default : Packet)).pair (.half 0 : Ingress) (default : Packet)).1).getD default).2.msg, pennant := (default : Packet).pennant.or ((((took (stateOf (qMate { vc := 3, payload := List.replicate 64 0 })) (.half 0 : Ingress) (default : Packet)).pair (.half 0 : Ingress) (default : Packet)).1).getD default).2.pennant, qp := (default : Packet).qp.or ((((took (stateOf (qMate { vc := 3, payload := List.replicate 64 0 })) (.half 0 : Ingress) (default : Packet)).pair (.half 0 : Ingress) (default : Packet)).1).getD default).2.qp } : Packet)).2).openMsg ({ (default : Packet) with payload := ((((took (stateOf (qMate { vc := 3, payload := List.replicate 64 0 })) (.half 0 : Ingress) (default : Packet)).pair (.half 0 : Ingress) (default : Packet)).1).getD default).2.payload, msg := (default : Packet).msg.or ((((took (stateOf (qMate { vc := 3, payload := List.replicate 64 0 })) (.half 0 : Ingress) (default : Packet)).pair (.half 0 : Ingress) (default : Packet)).1).getD default).2.msg, pennant := (default : Packet).pennant.or ((((took (stateOf (qMate { vc := 3, payload := List.replicate 64 0 })) (.half 0 : Ingress) (default : Packet)).pair (.half 0 : Ingress) (default : Packet)).1).getD default).2.pennant, qp := (default : Packet).qp.or ((((took (stateOf (qMate { vc := 3, payload := List.replicate 64 0 })) (.half 0 : Ingress) (default : Packet)).pair (.half 0 : Ingress) (default : Packet)).1).getD default).2.qp } : Packet)).getD default).draftPage ({ (default : Packet) with payload := ((((took (stateOf (qMate { vc := 3, payload := List.replicate 64 0 })) (.half 0 : Ingress) (default : Packet)).pair (.half 0 : Ingress) (default : Packet)).1).getD default).2.payload, msg := (default : Packet).msg.or ((((took (stateOf (qMate { vc := 3, payload := List.replicate 64 0 })) (.half 0 : Ingress) (default : Packet)).pair (.half 0 : Ingress) (default : Packet)).1).getD default).2.msg, pennant := (default : Packet).pennant.or ((((took (stateOf (qMate { vc := 3, payload := List.replicate 64 0 })) (.half 0 : Ingress) (default : Packet)).pair (.half 0 : Ingress) (default : Packet)).1).getD default).2.pennant, qp := (default : Packet).qp.or ((((took (stateOf (qMate { vc := 3, payload := List.replicate 64 0 })) (.half 0 : Ingress) (default : Packet)).pair (.half 0 : Ingress) (default : Packet)).1).getD default).2.qp } : Packet)).getD default).noteMove ({ (default : Packet) with payload := ((((took (stateOf (qMate { vc := 3, payload := List.replicate 64 0 })) (.half 0 : Ingress) (default : Packet)).pair (.half 0 : Ingress) (default : Packet)).1).getD default).2.payload, msg := (default : Packet).msg.or ((((took (stateOf (qMate { vc := 3, payload := List.replicate 64 0 })) (.half 0 : Ingress) (default : Packet)).pair (.half 0 : Ingress) (default : Packet)).1).getD default).2.msg, pennant := (default : Packet).pennant.or ((((took (stateOf (qMate { vc := 3, payload := List.replicate 64 0 })) (.half 0 : Ingress) (default : Packet)).pair (.half 0 : Ingress) (default : Packet)).1).getD default).2.pennant, qp := (default : Packet).qp.or ((((took (stateOf (qMate { vc := 3, payload := List.replicate 64 0 })) (.half 0 : Ingress) (default : Packet)).pair (.half 0 : Ingress) (default : Packet)).1).getD default).2.qp } : Packet)).home.nextBulk } : LineReq))).length } })).orderAll
      ((writePieces
      ({ (default : Packet) with payload := ((((took (stateOf (qMate { vc := 3, payload := List.replicate 64 0 })) (.half 0 : Ingress) (default : Packet)).pair (.half 0 : Ingress) (default : Packet)).1).getD default).2.payload, msg := (default : Packet).msg.or ((((took (stateOf (qMate { vc := 3, payload := List.replicate 64 0 })) (.half 0 : Ingress) (default : Packet)).pair (.half 0 : Ingress) (default : Packet)).1).getD default).2.msg, pennant := (default : Packet).pennant.or ((((took (stateOf (qMate { vc := 3, payload := List.replicate 64 0 })) (.half 0 : Ingress) (default : Packet)).pair (.half 0 : Ingress) (default : Packet)).1).getD default).2.pennant, qp := (default : Packet).qp.or ((((took (stateOf (qMate { vc := 3, payload := List.replicate 64 0 })) (.half 0 : Ingress) (default : Packet)).pair (.half 0 : Ingress) (default : Packet)).1).getD default).2.qp }
      : Packet) ((((took (stateOf (qMate { vc := 3, payload := List.replicate 64 0 })) (.half 0 : Ingress) (default :
      Packet)).pair (.half 0 : Ingress) (default : Packet)).1).getD default).2.payload).map (fun y =>
      ({ op := .write, line := (((((((((took (stateOf (qMate { vc := 3, payload := List.replicate 64 0 })) (.half 0 : Ingress) (default : Packet)).pair (.half 0 : Ingress) (default : Packet)).2).targetCheck ({ (default : Packet) with payload := ((((took (stateOf (qMate { vc := 3, payload := List.replicate 64 0 })) (.half 0 : Ingress) (default : Packet)).pair (.half 0 : Ingress) (default : Packet)).1).getD default).2.payload, msg := (default : Packet).msg.or ((((took (stateOf (qMate { vc := 3, payload := List.replicate 64 0 })) (.half 0 : Ingress) (default : Packet)).pair (.half 0 : Ingress) (default : Packet)).1).getD default).2.msg, pennant := (default : Packet).pennant.or ((((took (stateOf (qMate { vc := 3, payload := List.replicate 64 0 })) (.half 0 : Ingress) (default : Packet)).pair (.half 0 : Ingress) (default : Packet)).1).getD default).2.pennant, qp := (default : Packet).qp.or ((((took (stateOf (qMate { vc := 3, payload := List.replicate 64 0 })) (.half 0 : Ingress) (default : Packet)).pair (.half 0 : Ingress) (default : Packet)).1).getD default).2.qp } : Packet)).2).openMsg ({ (default : Packet) with payload := ((((took (stateOf (qMate { vc := 3, payload := List.replicate 64 0 })) (.half 0 : Ingress) (default : Packet)).pair (.half 0 : Ingress) (default : Packet)).1).getD default).2.payload, msg := (default : Packet).msg.or ((((took (stateOf (qMate { vc := 3, payload := List.replicate 64 0 })) (.half 0 : Ingress) (default : Packet)).pair (.half 0 : Ingress) (default : Packet)).1).getD default).2.msg, pennant := (default : Packet).pennant.or ((((took (stateOf (qMate { vc := 3, payload := List.replicate 64 0 })) (.half 0 : Ingress) (default : Packet)).pair (.half 0 : Ingress) (default : Packet)).1).getD default).2.pennant, qp := (default : Packet).qp.or ((((took (stateOf (qMate { vc := 3, payload := List.replicate 64 0 })) (.half 0 : Ingress) (default : Packet)).pair (.half 0 : Ingress) (default : Packet)).1).getD default).2.qp } : Packet)).getD default).draftPage ({ (default : Packet) with payload := ((((took (stateOf (qMate { vc := 3, payload := List.replicate 64 0 })) (.half 0 : Ingress) (default : Packet)).pair (.half 0 : Ingress) (default : Packet)).1).getD default).2.payload, msg := (default : Packet).msg.or ((((took (stateOf (qMate { vc := 3, payload := List.replicate 64 0 })) (.half 0 : Ingress) (default : Packet)).pair (.half 0 : Ingress) (default : Packet)).1).getD default).2.msg, pennant := (default : Packet).pennant.or ((((took (stateOf (qMate { vc := 3, payload := List.replicate 64 0 })) (.half 0 : Ingress) (default : Packet)).pair (.half 0 : Ingress) (default : Packet)).1).getD default).2.pennant, qp := (default : Packet).qp.or ((((took (stateOf (qMate { vc := 3, payload := List.replicate 64 0 })) (.half 0 : Ingress) (default : Packet)).pair (.half 0 : Ingress) (default : Packet)).1).getD default).2.qp } : Packet)).getD default).viewLine ({ (default : Packet) with payload := ((((took (stateOf (qMate { vc := 3, payload := List.replicate 64 0 })) (.half 0 : Ingress) (default : Packet)).pair (.half 0 : Ingress) (default : Packet)).1).getD default).2.payload, msg := (default : Packet).msg.or ((((took (stateOf (qMate { vc := 3, payload := List.replicate 64 0 })) (.half 0 : Ingress) (default : Packet)).pair (.half 0 : Ingress) (default : Packet)).1).getD default).2.msg, pennant := (default : Packet).pennant.or ((((took (stateOf (qMate { vc := 3, payload := List.replicate 64 0 })) (.half 0 : Ingress) (default : Packet)).pair (.half 0 : Ingress) (default : Packet)).1).getD default).2.pennant, qp := (default : Packet).qp.or ((((took (stateOf (qMate { vc := 3, payload := List.replicate 64 0 })) (.half 0 : Ingress) (default : Packet)).pair (.half 0 : Ingress) (default : Packet)).1).getD default).2.qp } : Packet) y.1, pkt := ({ (default : Packet) with payload := ((((took (stateOf (qMate { vc := 3, payload := List.replicate 64 0 })) (.half 0 : Ingress) (default : Packet)).pair (.half 0 : Ingress) (default : Packet)).1).getD default).2.payload, msg := (default : Packet).msg.or ((((took (stateOf (qMate { vc := 3, payload := List.replicate 64 0 })) (.half 0 : Ingress) (default : Packet)).pair (.half 0 : Ingress) (default : Packet)).1).getD default).2.msg, pennant := (default : Packet).pennant.or ((((took (stateOf (qMate { vc := 3, payload := List.replicate 64 0 })) (.half 0 : Ingress) (default : Packet)).pair (.half 0 : Ingress) (default : Packet)).1).getD default).2.pennant, qp := (default : Packet).qp.or ((((took (stateOf (qMate { vc := 3, payload := List.replicate 64 0 })) (.half 0 : Ingress) (default : Packet)).pair (.half 0 : Ingress) (default : Packet)).1).getD default).2.qp } : Packet), data := y.2.1, mask := y.2.2, bulk := some ((((((((((took (stateOf (qMate { vc := 3, payload := List.replicate 64 0 })) (.half 0 : Ingress) (default : Packet)).pair (.half 0 : Ingress) (default : Packet)).2).targetCheck ({ (default : Packet) with payload := ((((took (stateOf (qMate { vc := 3, payload := List.replicate 64 0 })) (.half 0 : Ingress) (default : Packet)).pair (.half 0 : Ingress) (default : Packet)).1).getD default).2.payload, msg := (default : Packet).msg.or ((((took (stateOf (qMate { vc := 3, payload := List.replicate 64 0 })) (.half 0 : Ingress) (default : Packet)).pair (.half 0 : Ingress) (default : Packet)).1).getD default).2.msg, pennant := (default : Packet).pennant.or ((((took (stateOf (qMate { vc := 3, payload := List.replicate 64 0 })) (.half 0 : Ingress) (default : Packet)).pair (.half 0 : Ingress) (default : Packet)).1).getD default).2.pennant, qp := (default : Packet).qp.or ((((took (stateOf (qMate { vc := 3, payload := List.replicate 64 0 })) (.half 0 : Ingress) (default : Packet)).pair (.half 0 : Ingress) (default : Packet)).1).getD default).2.qp } : Packet)).2).openMsg ({ (default : Packet) with payload := ((((took (stateOf (qMate { vc := 3, payload := List.replicate 64 0 })) (.half 0 : Ingress) (default : Packet)).pair (.half 0 : Ingress) (default : Packet)).1).getD default).2.payload, msg := (default : Packet).msg.or ((((took (stateOf (qMate { vc := 3, payload := List.replicate 64 0 })) (.half 0 : Ingress) (default : Packet)).pair (.half 0 : Ingress) (default : Packet)).1).getD default).2.msg, pennant := (default : Packet).pennant.or ((((took (stateOf (qMate { vc := 3, payload := List.replicate 64 0 })) (.half 0 : Ingress) (default : Packet)).pair (.half 0 : Ingress) (default : Packet)).1).getD default).2.pennant, qp := (default : Packet).qp.or ((((took (stateOf (qMate { vc := 3, payload := List.replicate 64 0 })) (.half 0 : Ingress) (default : Packet)).pair (.half 0 : Ingress) (default : Packet)).1).getD default).2.qp } : Packet)).getD default).draftPage ({ (default : Packet) with payload := ((((took (stateOf (qMate { vc := 3, payload := List.replicate 64 0 })) (.half 0 : Ingress) (default : Packet)).pair (.half 0 : Ingress) (default : Packet)).1).getD default).2.payload, msg := (default : Packet).msg.or ((((took (stateOf (qMate { vc := 3, payload := List.replicate 64 0 })) (.half 0 : Ingress) (default : Packet)).pair (.half 0 : Ingress) (default : Packet)).1).getD default).2.msg, pennant := (default : Packet).pennant.or ((((took (stateOf (qMate { vc := 3, payload := List.replicate 64 0 })) (.half 0 : Ingress) (default : Packet)).pair (.half 0 : Ingress) (default : Packet)).1).getD default).2.pennant, qp := (default : Packet).qp.or ((((took (stateOf (qMate { vc := 3, payload := List.replicate 64 0 })) (.half 0 : Ingress) (default : Packet)).pair (.half 0 : Ingress) (default : Packet)).1).getD default).2.qp } : Packet)).getD default).noteMove ({ (default : Packet) with payload := ((((took (stateOf (qMate { vc := 3, payload := List.replicate 64 0 })) (.half 0 : Ingress) (default : Packet)).pair (.half 0 : Ingress) (default : Packet)).1).getD default).2.payload, msg := (default : Packet).msg.or ((((took (stateOf (qMate { vc := 3, payload := List.replicate 64 0 })) (.half 0 : Ingress) (default : Packet)).pair (.half 0 : Ingress) (default : Packet)).1).getD default).2.msg, pennant := (default : Packet).pennant.or ((((took (stateOf (qMate { vc := 3, payload := List.replicate 64 0 })) (.half 0 : Ingress) (default : Packet)).pair (.half 0 : Ingress) (default : Packet)).1).getD default).2.pennant, qp := (default : Packet).qp.or ((((took (stateOf (qMate { vc := 3, payload := List.replicate 64 0 })) (.half 0 : Ingress) (default : Packet)).pair (.half 0 : Ingress) (default : Packet)).1).getD default).2.qp } : Packet)).home.nextBulk }
      : LineReq)))).getD default, _, rfl, rfl, by decide +kernel⟩,
   ⟨stateOf qHome, .half 0, default, by decide +kernel⟩,
   ⟨stateOf (qMate { vc := 3, payload := List.replicate 64 0 }), .half 0, default, (((took (stateOf (qMate
      { vc := 3, payload := List.replicate 64 0 })) (.half 0 : Ingress) (default : Packet)).pair (.half 0 : Ingress) (default
      : Packet)).1).getD default, ((took (stateOf (qMate { vc := 3, payload := List.replicate 64 0 })) (.half 0 : Ingress)
      (default : Packet)).pair (.half 0 : Ingress) (default : Packet)).2, _, _, rfl, rfl, by decide +kernel⟩,
   ⟨stateOf (qMate {}), .half 0, { vc := 3 }, (((took (stateOf (qMate {})) (.half 0 : Ingress) ({ vc := 3 } : Packet)).pair
      (.half 0 : Ingress) ({ vc := 3 } : Packet)).1).getD default, ((took (stateOf (qMate {})) (.half 0 : Ingress)
      ({ vc := 3 } : Packet)).pair (.half 0 : Ingress) ({ vc := 3 } : Packet)).2, by decide +kernel⟩,
   ⟨stateOf (qTxn { snoops := [{ answered := true, wantData := true }] }), .half 0, default, (((took (stateOf (qTxn
      { snoops := [{ answered := true, wantData := true }] })) (.half 0 : Ingress) (default : Packet)).snoopedLine (default :
      Packet)).getD default).1, (((took (stateOf (qTxn { snoops := [{ answered := true, wantData := true }] })) (.half 0 :
      Ingress) (default : Packet)).snoopedLine (default : Packet)).getD default).2.1, (((took (stateOf (qTxn
      { snoops := [{ answered := true, wantData := true }] })) (.half 0 : Ingress) (default : Packet)).snoopedLine (default :
      Packet)).getD default).2.2, by decide +kernel⟩⟩

/-- The hypotheses of SnoopAnswersAdvanceTheLine can be met. -/
theorem witness_SnoopAnswersAdvanceTheLine :
    (∃ (s : State) (i : Ingress) (p : Packet) (n : LineNo) (t : Txn) (x : Snoop), s.qf.inService = true ∧ p.destEp =
      s.qf.ownEp ∧ (took s i p).snoopedLine p = some (n, t, x) ∧ p.far = false) ∧
    (∃ (s : State) (i : Ingress) (p : Packet) (x : Nat × BlockedLine) (t : Txn), s.qf.inService = true ∧ p.destEp = s.qf.ownEp
      ∧ List.find? (grantedTo p) (took s i p).home.lines = some x ∧ x.2.txn = some t) ∧
    (∃ (s : State) (n : LineNo) (b : BlockedLine) (t : Txn) (x : Snoop), s.qf.inService = true ∧ s.qf.lineQ n = some b ∧ b.txn
      = some t ∧ b.waiters = [] ∧ b.extRecall = none ∧ b.stuck = false ∧ t.phase = .snooping ∧ t.snoops = [x] ∧ x.answered =
      false ∧ x.since + s.qf.home.snoopTimeout.toNat ≤ s.qf.now) :=
  ⟨⟨stateOf (qTxn { snoops := [{}] }), .half 0, default, (((took (stateOf (qTxn { snoops := [{}] })) (.half 0 : Ingress) (default
      : Packet)).snoopedLine (default : Packet)).getD default).1, (((took (stateOf (qTxn { snoops := [{}] })) (.half 0 :
      Ingress) (default : Packet)).snoopedLine (default : Packet)).getD default).2.1, (((took (stateOf (qTxn
      { snoops := [{}] })) (.half 0 : Ingress) (default : Packet)).snoopedLine (default : Packet)).getD default).2.2,
      by decide +kernel⟩,
   ⟨stateOf (qTxn { phase := .granted }), .half 0, default, (List.find? (grantedTo (default : Packet)) (took (stateOf (qTxn
      { phase := .granted })) (.half 0 : Ingress) (default : Packet)).home.lines).getD default, (((List.find? (grantedTo
      (default : Packet)) (took (stateOf (qTxn { phase := .granted })) (.half 0 : Ingress) (default :
      Packet)).home.lines).getD default).2.txn).getD default, by decide +kernel⟩,
   ⟨stateOf (qTxn { snoops := [{}] }), 0, ((stateOf (qTxn { snoops := [{}] })).qf.lineQ (0 : LineNo)).getD default, ((((stateOf
      (qTxn { snoops := [{}] })).qf.lineQ (0 : LineNo)).getD default).txn).getD default, default, by decide +kernel⟩⟩

/-- The hypotheses of ResponsesResolveRequests can be met. -/
theorem witness_ResponsesResolveRequests :
    (∃ (s : State) (i : Ingress) (p : Packet) (r : OpenReq), AnswersOwn s.qf i p r ∧ p.opcode ≠ Opc.fail) ∧
    (∃ (s : State) (i : Ingress) (p : Packet) (r : OpenReq), AnswersOwn s.qf i p r ∧ p.opcode = Opc.dataClean) ∧
    (∃ (s : State) (i : Ingress) (p : Packet) (r : OpenReq), AnswersOwn s.qf i p r ∧ p.opcode = Opc.fail ∧ p.status ≠
      Status.retry.code ∧ p.status ≠ Status.epochStale.code ∧ p.status ≠ Status.linkDown.code ∧ (took s i
      p).home.trayWrites.any (fun w => w.is p.srcEp p.tag) = false ∧ (took s i p).fillSlot p.srcEp p.tag = none) ∧
    (∃ (s : State) (i : Ingress) (p : Packet) (r : OpenReq), s.qf.inService = true ∧ p.destEp = s.qf.ownEp ∧ (took s i
      p).openFor p = some r ∧ p.status ≠ Status.epochStale.code) ∧
    (∃ (s : State) (i : Ingress) (p : Packet) (r : OpenReq), AnswersClient s.qf i p r ∧ answerStatus p ≠
      Status.epochStale.code) :=
  ⟨⟨stateOf (qOpen [{}]), .half 0, { opcode := Opc.placed }, ((took (stateOf (qOpen [{}])) (.half 0 : Ingress)
      ({ opcode := Opc.placed } : Packet)).openFor ({ opcode := Opc.placed } : Packet)).getD default, by decide +kernel⟩,
   ⟨stateOf (qOpen [{}]), .half 0, { opcode := Opc.dataClean }, ((took (stateOf (qOpen [{}])) (.half 0 : Ingress)
      ({ opcode := Opc.dataClean } : Packet)).openFor ({ opcode := Opc.dataClean } : Packet)).getD default, by decide +kernel⟩,
   ⟨stateOf (qOpen [{}]), .half 0, { opcode := Opc.fail, status := 1 }, ((took (stateOf (qOpen [{}])) (.half 0 : Ingress)
      ({ opcode := Opc.fail, status := 1 } : Packet)).openFor ({ opcode := Opc.fail, status := 1 } : Packet)).getD default,
      by decide +kernel⟩,
   ⟨stateOf (qOpen [{}]), .half 0, { opcode := Opc.pennantDone }, ((took (stateOf (qOpen [{}])) (.half 0 : Ingress)
      ({ opcode := Opc.pennantDone } : Packet)).openFor ({ opcode := Opc.pennantDone } : Packet)).getD default,
      by decide +kernel⟩,
   ⟨stateOf (qOpen [{ src := 5 }]), .half 0, { opcode := Opc.placed, destEp := 5 }, ((took (stateOf (qOpen [{ src := 5 }]))
      (.half 0 : Ingress) ({ opcode := Opc.placed, destEp := 5 } : Packet)).openFor ({ opcode := Opc.placed, destEp := 5 } :
      Packet)).getD default, by decide +kernel⟩⟩

/-- The hypotheses of RetryEventsTakeEffect can be met. -/
theorem witness_RetryEventsTakeEffect :
    (∃ (s : State) (ep : Ep) (tag : Tag) (w : WaitSlot) (d : Nat), s.qf.inService = true ∧ s.qf.home.waits.find? (fun w =>
      w.waiter = ep && w.tag = tag) = some w ∧ w.deadline = some d ∧ d ≤ s.qf.now) ∧
    (∃ (s : State) (n : QpKey) (e : EngineWait) (w : WorkReq) (p p' : Packet) (q1 : Qf), s.qf.waitPkt n w.wr
      { e.record with timeoutUs := e.left s.qf.now } e.tag = p ∧ (s.qf.qp n).wait = some e ∧ e.polling = false ∧ e.lastSend +
      1000000 ≤ s.qf.now ∧ s.qf.inService = true ∧ s.qf.leaseOver n = false ∧ s.qf.edge.reqs.any (fun r => r.src = s.qf.ownEp
      && r.tag = e.tag) = true ∧ (s.qf.qp n).wrOf e.wr = some w ∧ (s.qf.updQp n (fun x =>
      { x with wait := some { e with lastSend := s.qf.now } })).edgeCheck (.unit (qpSector n)) p none = (.ok p', q1)) ∧
    (∃ (s : State) (n : QpKey) (e : EngineWait) (tag : Tag) (p p' : Packet) (q1 q2 : Qf), q1.enginePkt n 0 Opc.rdNc (fld
      e.record.addr 0 60) tag = p ∧ (s.qf.qp n).wait = some e ∧ e.polling = true ∧ e.lastSend + 2000 ≤ s.qf.now ∧
      s.qf.inService = true ∧ s.qf.leaseOver n = false ∧ e.over s.qf.now = false ∧ s.qf.takeTag = (tag, q1) ∧ (q1.updQp n (fun
      x => { x with wait := some { e with lastSend := q1.now } })).edgeCheck (.unit (qpSector n)) p none = (.ok p', q2)) ∧
    (∃ (s : State) (tag : Tag) (r : OpenReq) (t : Nat), s.qf.inService = true ∧ s.qf.edge.reqs.find? (fun r => r.src =
      s.qf.ownEp && r.tag = tag) = some r ∧ r.resendAt = some t ∧ t ≤ s.qf.now ∧ r.owner.queue = none) ∧
    (∃ (s : State) (tag : Tag) (n : QpKey) (x : SentPkt) (r : OpenReq), s.qf.inService = true ∧ s.qf.edge.reqs.find? (fun r =>
      r.src = s.qf.ownEp && r.tag = tag) = some r ∧ r.resendAt = none ∧ r.stale = false ∧ s.qf.inStore tag = some (n, x) ∧
      r.ackAt ≤ s.qf.now ∧ x.stale = false ∧ s.qf.leaseOver n = false ∧ (s.qf.qp n).ctx.state = .ready ∧ x.cancelled = false ∧
      ((s.qf.qp n).wrOf x.wr).any (fun w => w.aborting.isSome) = false ∧ x.tries < 7) :=
  ⟨⟨stateOf qRetry, 0, 0, ((stateOf qRetry).qf.home.waits.find? (fun w => w.waiter = (0 : Ep) && w.tag = (0 : Tag))).getD
      default, ((((stateOf qRetry).qf.home.waits.find? (fun w => w.waiter = (0 : Ep) && w.tag = (0 : Tag))).getD
      default).deadline).getD default, by decide +kernel⟩,
   ⟨stateOf qRetry, 0, (((stateOf qRetry).qf.qp (0 : QpKey)).wait).getD default, (((stateOf qRetry).qf.qp (0 : QpKey)).wrOf
      ((((stateOf qRetry).qf.qp (0 : QpKey)).wait).getD default).wr).getD default, _, okOf (((stateOf qRetry).qf.updQp (0 :
      QpKey) (fun x =>
      { x with wait := some { ((((stateOf qRetry).qf.qp (0 : QpKey)).wait).getD default) with lastSend := (stateOf qRetry).qf.now } })).edgeCheck
      (.unit (qpSector (0 : QpKey))) ((stateOf qRetry).qf.waitPkt (0 : QpKey) ((((stateOf qRetry).qf.qp (0 : QpKey)).wrOf
      ((((stateOf qRetry).qf.qp (0 : QpKey)).wait).getD default).wr).getD default).wr
      { ((((stateOf qRetry).qf.qp (0 : QpKey)).wait).getD default).record with timeoutUs := ((((stateOf qRetry).qf.qp (0 : QpKey)).wait).getD default).left (stateOf qRetry).qf.now }
      ((((stateOf qRetry).qf.qp (0 : QpKey)).wait).getD default).tag) none).1, (((stateOf qRetry).qf.updQp (0 : QpKey) (fun x
      =>
      { x with wait := some { ((((stateOf qRetry).qf.qp (0 : QpKey)).wait).getD default) with lastSend := (stateOf qRetry).qf.now } })).edgeCheck
      (.unit (qpSector (0 : QpKey))) ((stateOf qRetry).qf.waitPkt (0 : QpKey) ((((stateOf qRetry).qf.qp (0 : QpKey)).wrOf
      ((((stateOf qRetry).qf.qp (0 : QpKey)).wait).getD default).wr).getD default).wr
      { ((((stateOf qRetry).qf.qp (0 : QpKey)).wait).getD default).record with timeoutUs := ((((stateOf qRetry).qf.qp (0 : QpKey)).wait).getD default).left (stateOf qRetry).qf.now }
      ((((stateOf qRetry).qf.qp (0 : QpKey)).wait).getD default).tag) none).2, rfl, by decide +kernel⟩,
   ⟨stateOf qRetry, 1, (((stateOf qRetry).qf.qp (1 : QpKey)).wait).getD default, ((stateOf qRetry).qf.takeTag).1, _, okOf
      (((((stateOf qRetry).qf.takeTag).2).updQp (1 : QpKey) (fun x =>
      { x with wait := some { ((((stateOf qRetry).qf.qp (1 : QpKey)).wait).getD default) with lastSend := (((stateOf qRetry).qf.takeTag).2).now } })).edgeCheck
      (.unit (qpSector (1 : QpKey))) ((((stateOf qRetry).qf.takeTag).2).enginePkt (1 : QpKey) 0 Opc.rdNc (fld ((((stateOf
      qRetry).qf.qp (1 : QpKey)).wait).getD default).record.addr 0 60) (((stateOf qRetry).qf.takeTag).1)) none).1, ((stateOf
      qRetry).qf.takeTag).2, (((((stateOf qRetry).qf.takeTag).2).updQp (1 : QpKey) (fun x =>
      { x with wait := some { ((((stateOf qRetry).qf.qp (1 : QpKey)).wait).getD default) with lastSend := (((stateOf qRetry).qf.takeTag).2).now } })).edgeCheck
      (.unit (qpSector (1 : QpKey))) ((((stateOf qRetry).qf.takeTag).2).enginePkt (1 : QpKey) 0 Opc.rdNc (fld ((((stateOf
      qRetry).qf.qp (1 : QpKey)).wait).getD default).record.addr 0 60) (((stateOf qRetry).qf.takeTag).1)) none).2, rfl,
      by decide +kernel⟩,
   ⟨stateOf qRetry, 1, ((stateOf qRetry).qf.edge.reqs.find? (fun r => r.src = (stateOf qRetry).qf.ownEp && r.tag = (1 :
      Tag))).getD default, ((((stateOf qRetry).qf.edge.reqs.find? (fun r => r.src = (stateOf qRetry).qf.ownEp && r.tag = (1 :
      Tag))).getD default).resendAt).getD default, by decide +kernel⟩,
   ⟨stateOf qRetry, 2, (((stateOf qRetry).qf.inStore (2 : Tag)).getD default).1, (((stateOf qRetry).qf.inStore (2 : Tag)).getD
      default).2, ((stateOf qRetry).qf.edge.reqs.find? (fun r => r.src = (stateOf qRetry).qf.ownEp && r.tag = (2 : Tag))).getD
      default, by decide +kernel⟩⟩

/-- The hypotheses of WorkRequestsStart can be met. -/
theorem witness_WorkRequestsStart :
    (∀ op ∈ [1, 2, 3, 4, 5, 6, 7, 8], ∃ (s : State) (n : QpKey) (w : BitVec 512), s.qf.startable n w op = true ∧ s.qf.domainOn
      (5 * (qpSector n).toNat + 4) = true) :=
  by
    intro op h
    refine ⟨stateOf (qQps [(0, { ready with fetched := some (BitVec.ofNat 512 (op * 2 ^ 504)) })]), 0,
    BitVec.ofNat 512 (op * 2 ^ 504), ?_⟩
    simp only [List.mem_cons, List.not_mem_nil, or_false] at h
    rcases h with rfl
    | rfl | rfl | rfl | rfl | rfl | rfl | rfl <;> decide +kernel

/-- The hypotheses of QueuePairCommandsTakeEffect can be met. -/
theorem witness_QueuePairCommandsTakeEffect :
    (∃ (s : State) (port : Bool) (w : BitVec 64) (k : Qpn) (n : QpKey) (a b r : BitVec 16), s.qf.ownPair k = n ∧ doorbellWord
      w = (k, a, b, r) ∧ s.qf.hostOn port = true ∧ s.qf.dbg.squalled = false ∧ s.qf.host.active = some port ∧ s.qf.inService =
      true ∧ s.qf.protectedTenant (s.qf.qp n).ctx.tenant = false ∧ s.qf.hasQp n = true ∧ ((s.qf.qp n).ctx.state = .ready ∨
      (s.qf.qp n).ctx.state = .error)) ∧
    (∃ (s : State) (h : HalfPort) (p : Packet) (k : Qpn) (n : QpKey) (a b r : BitVec 16), s.qf.pairOf k (fun x =>
      x.ctx.boundEp = (s.qf.link h).peerEp && x.ctx.state != .reset) = n ∧ doorbellWord (bitsOf 64 (slice p.payload 0 8)) =
      (k, a, b, r) ∧ s.qf.inService = true ∧ ((took s (.half h) p).qp n).ctx.boundEp = (s.qf.link h).peerEp ∧ (took s (.half
      h) p).hasQp n = true ∧ (((took s (.half h) p).qp n).ctx.state = .ready ∨ ((took s (.half h) p).qp n).ctx.state =
      .error)) ∧
    (∃ (s : State) (m : MgrRef) (k : Qpn) (n : QpKey) (ctx : BitVec 512) (e : BitVec 32), s.qf.ownPair k = n ∧
      ((s.qf.qps.own.find? n.toNat).map OwnRec.ownEpoch).getD 1 = e ∧ MgrReady s.qf m ∧ (s.qf.qp n).resetting = none ∧
      s.qf.qps.waiting.any (fun v => v.pair = n) = false ∧ (started s m).createCheck n ctx = none) ∧
    (∃ (s : State) (m : MgrRef) (k : Qpn) (n : QpKey), s.qf.pairIn k .error = n ∧ MgrReady s.qf m ∧ (s.qf.qp n).resetting =
      none ∧ s.qf.qps.waiting.any (fun v => v.pair = n) = false ∧ s.qf.hasQp n = true ∧ (s.qf.qp n).ctx.state = .error) ∧
    (∃ (s : State) (m : MgrRef) (k : Qpn) (n : QpKey), s.qf.pairIn k .reset = n ∧ MgrReady s.qf m ∧ (s.qf.qp n).resetting =
      none ∧ s.qf.qps.waiting.any (fun v => v.pair = n) = false ∧ s.qf.hasQp n = true ∧ (s.qf.qp n).ctx.state = .reset ∧
      s.qf.heldElsewhere n = false) ∧
    (∃ (s : State) (src : Ep) (k : Qpn) (n : QpKey) (i : BitVec 16) (x : Qp), s.qf.pairOf k (fun x => (x.ctx.state = .ready ||
      x.ctx.state = .error) && (false || x.ctx.boundEp = src)) = n ∧ s.qf.qp n = x ∧ s.qf.inService = true ∧ s.qf.hasQp n =
      true ∧ x.ctx.state = .ready ∧ x.ctx.boundEp = src ∧ x.work.find? (fun w => w.index = i && !w.reported) = none ∧ (i -
      x.ctx.sqConsumer).toNat < (x.ctx.sqProducer - x.ctx.sqConsumer).toNat ∧ x.preAbort.any (fun a => a.1 = i) = false ∧ i ≠
      x.ctx.sqConsumer) ∧
    (∃ (s : State) (n : QpKey) (w : WorkReq) (m : Option MgrRef), s.qf.inService = true ∧ (s.qf.qp n).work.filter (fun w =>
      w.aborting.isSome && w.unresolved = 0 && !w.done) = [w] ∧ w.aborting = some m ∧ w.delivered = false) ∧
    (∃ (s : State) (i : Ingress) (p : Packet) (h : QpHdr), ForUs s.qf i p ∧ p.qp = some h ∧ (∀ t, (took s i p).target h = some
      t → t.ownEpoch ≤ h.ownEpoch)) ∧
    (∃ (s : State) (n : QpKey) (peer : Ep) (x : Qp) (y : SentPkt) (p : Packet) (q1 : Qf), s.qf.qp n = x ∧ x.outbox.find? (fun
      y => !y.bare) = some y ∧ s.qf.edgeCheck (.unit (qpSector n)) y.pkt y.data = (.ok p, q1) ∧ x.peers.any (fun z => z.peer =
      p.destEp) = false ∧ x.peers.any (fun z => z.peer = peer && z.unacked = 0) = true ∧ x.peers.all (fun z => !z.closing) =
      true ∧ s.qf.inService = true ∧ x.ctx.state = .ready ∧ 8 ≤ x.peers.length ∧ s.qf.leaseOver n = false) :=
  ⟨⟨stateOf qPairs, ((stateOf qPairs).qf.host.active).getD default, 0, (doorbellWord (0 : BitVec 64)).1, _, (doorbellWord (0 :
      BitVec 64)).2.1, (doorbellWord (0 : BitVec 64)).2.2.1, (doorbellWord (0 : BitVec 64)).2.2.2, rfl, by decide +kernel⟩,
   ⟨stateOf qPairs, 0, default, (doorbellWord (bitsOf 64 (slice (default : Packet).payload 0 8))).1, _, (doorbellWord (bitsOf 64
      (slice (default : Packet).payload 0 8))).2.1, (doorbellWord (bitsOf 64 (slice (default : Packet).payload 0 8))).2.2.1,
      (doorbellWord (bitsOf 64 (slice (default : Packet).payload 0 8))).2.2.2, rfl, by decide +kernel⟩,
   ⟨stateOf qPairs, cmd, 2, _, 0, _, rfl, rfl, by decide +kernel⟩,
   ⟨stateOf qPairs, cmd, 1, _, rfl, by decide +kernel⟩,
   ⟨stateOf qPairs, cmd, 2, _, rfl, by decide +kernel⟩,
   ⟨stateOf qPairs, 0, 0, _, 1, _, rfl, rfl, by decide +kernel⟩,
   ⟨stateOf qPairs, 4, (((stateOf qPairs).qf.qp (4 : QpKey)).work.head?).getD default, none, by decide +kernel⟩,
   ⟨stateOf qPairs, .half 0, { qp := some {} }, (({ qp := some {} } : Packet).qp).getD default, by decide +kernel⟩,
   ⟨stateOf qPairs, 5, 1, _, (((stateOf qPairs).qf.qp (5 : QpKey)).outbox.find? (fun y => !y.bare)).getD default, okOf ((stateOf
      qPairs).qf.edgeCheck (.unit (qpSector (5 : QpKey))) ((((stateOf qPairs).qf.qp (5 : QpKey)).outbox.find? (fun y =>
      !y.bare)).getD default).pkt ((((stateOf qPairs).qf.qp (5 : QpKey)).outbox.find? (fun y => !y.bare)).getD
      default).data).1, ((stateOf qPairs).qf.edgeCheck (.unit (qpSector (5 : QpKey))) ((((stateOf qPairs).qf.qp (5 :
      QpKey)).outbox.find? (fun y => !y.bare)).getD default).pkt ((((stateOf qPairs).qf.qp (5 : QpKey)).outbox.find? (fun y =>
      !y.bare)).getD default).data).2, rfl, by decide +kernel⟩⟩

/-- The hypotheses of OwnershipMessagesTakeEffect can be met. -/
theorem witness_OwnershipMessagesTakeEffect :
    (∃ (s : State) (i : Ingress) (p : Packet) (m : OwnMsg) (r : OwnRec) (q1 : Qf), OwnMsg.ofBytes p.payload = m ∧ q1 = (took s
      i p).updOwn m.pair (fun r =>
      { r with leaseEnd := (took s i p).newLease, ckConsumer := m.consumer, ckProducer := m.producer, ckPeers := m.peers }) ∧
      s.qf.inService = true ∧ p.destEp = s.qf.ownEp ∧ (took s i p).ownRec? m.pair = some r ∧ r.released = false ∧ r.ownerEp =
      p.srcEp ∧ r.ownEpoch = m.epoch ∧ (took s i p).keepsOwn m = true) ∧
    (∃ (s : State) (i : Ingress) (p : Packet) (m : OwnMsg) (r : OwnRec) (q1 : Qf), OwnMsg.ofBytes p.payload = m ∧ q1 = (took s
      i p).updOwn m.pair (fun x =>
      { x with released := true, ownerEp := m.grantee, ownEpoch := r.ownEpoch + 1, leaseEnd := (took s i p).newLease, ckConsumer := m.consumer, ckProducer := m.producer, ckPeers := m.peers })
      ∧ s.qf.inService = true ∧ p.destEp = s.qf.ownEp ∧ p.srcEp ≠ s.qf.ownEp ∧ (took s i p).ownRec? m.pair = some r ∧
      r.released = false ∧ r.ownerEp = p.srcEp ∧ r.ownEpoch = m.epoch ∧ (took s i p).keepsOwn m = true) ∧
    (∃ (s : State) (p : Packet) (m : OwnMsg), OwnMsg.ofBytes p.payload = m ∧ s.qf.inService = true ∧ p.srcEp = s.qf.ownEp ∧
      (s.qf.qp m.pair).ctx.state = .ready) ∧
    (∃ (s : State) (i : Ingress) (p : Packet) (m : OwnMsg), OwnMsg.ofBytes p.payload = m ∧ s.qf.inService = true ∧ p.destEp =
      s.qf.ownEp ∧ (took s i p).hasQp m.pair = true ∧ ((took s i p).qp m.pair).ctx.state = .reset) ∧
    (∃ (s : State) (i : Ingress) (p : Packet) (m : OwnMsg) (r : OwnRec) (q1 : Qf), OwnMsg.ofBytes p.payload = m ∧ q1 = (took s
      i p).updOwn m.pair (fun r => { r with released := false, leaseEnd := (took s i p).newLease }) ∧ s.qf.inService = true ∧
      p.destEp = s.qf.ownEp ∧ (took s i p).ownRec? m.pair = some r ∧ r.released = true ∧ r.ownerEp = p.srcEp ∧ r.ownEpoch =
      m.epoch ∧ (took s i p).now < r.leaseEnd.toNat ∧ (took s i p).keepsOwn m = true ∧ ((took s i p).qp m.pair).ctx.state ≠
      .released) ∧
    (∃ (s : State) (i : Ingress) (p : Packet) (n : QpKey) (h : QpHdr), h.originEp ++ h.qpn = n ∧ s.qf.inService = true ∧
      p.destEp = s.qf.ownEp ∧ (took s i p).edge.reqs = [] ∧ p.qp = some h ∧ (took s i p).hasQp n = true ∧ p.status = 0 ∧
      ((took s i p).qp n).ctx.state = .ready) ∧
    (∃ (s : State) (n : QpKey) (x : Qp), s.qf.qp n = x ∧ s.qf.inService = true ∧ s.qf.hasQp n = true ∧ x.ctx.state = .ready ∧
      (∀ t, x.renewSent = some t → t + 25000 ≤ s.qf.now) ∧ originOf n ≠ s.qf.ownEp) ∧
    (∃ (s : State) (n : QpKey) (x : Qp), s.qf.qp n = x ∧ s.qf.inService = true ∧ s.qf.hasQp n = true ∧ x.ctx.state = .ready ∧
      (∀ t, x.renewSent = some t → t + 25000 ≤ s.qf.now) ∧ originOf n = s.qf.ownEp ∧ s.qf.qps.backupEp = 0xFFFF) ∧
    (∃ (s : State) (n : QpKey) (r : OwnRec), s.qf.ownRec? n = some r ∧ s.qf.inService = true ∧ r.leaseEnd.toNat ≤ s.qf.now ∧
      (r.released = true ∨ r.ownerEp ≠ s.qf.ownEp)) ∧
    (∃ (s : State) (n : QpKey) (x : Qp), s.qf.qp n = x ∧ s.qf.hasQp n = true ∧ originOf n ≠ s.qf.ownEp ∧ x.leaseEnd ≤ s.qf.now
      ∧ s.qf.running = true ∧ x.ctx.state = .released) ∧
    (∃ (s : State) (i : Ingress) (p : Packet) (seq : BitVec 32) (r : OwnRec) (q1 : Qf), q1 =
      { took s i p with qps := { (took s i p).qps with mirrors := (took s i p).qps.mirrors.filter (fun m => !(m.origin = p.srcEp && m.record.qpn = r.qpn)) ++ [{ origin := p.srcEp, mirrorSeq := seq, record := r }] } }
      ∧ s.qf.inService = true ∧ p.destEp = s.qf.ownEp ∧ mirrorOf p.payload = (seq, r)) ∧
    (∃ (s : State) (i : Ingress) (p : Packet) (n : QpKey) (seq : BitVec 32) (a : Packet), (took s i p).ownPair (bitsOf 16
      (slice p.payload 0 2)) = n ∧ bitsOf 32 (slice p.payload 2 4) = seq ∧ s.qf.inService = true ∧ p.destEp = s.qf.ownEp ∧
      ((took s i p).ownRec? n).bind OwnRec.pendingAnswer = some (seq, a)) :=
  ⟨⟨stateOf qOwn, .half 0, default, _, ((took (stateOf qOwn) (.half 0 : Ingress) (default : Packet)).ownRec? (OwnMsg.ofBytes
      (default : Packet).payload).pair).getD default, _, rfl, rfl, by decide +kernel⟩,
   ⟨stateOf qOwn, .half 0, ownMsg 1 3, _, ((took (stateOf qOwn) (.half 0 : Ingress) (ownMsg 1 3)).ownRec? (OwnMsg.ofBytes (ownMsg
      1 3).payload).pair).getD default, _, rfl, rfl, by decide +kernel⟩,
   ⟨stateOf qOwn, default, _, rfl, by decide +kernel⟩,
   ⟨stateOf qOwn, .half 0, ownMsg 1 0, _, rfl, by decide +kernel⟩,
   ⟨stateOf qOwn, .half 0, ownMsg 2 3, _, ((took (stateOf qOwn) (.half 0 : Ingress) (ownMsg 2 3)).ownRec? (OwnMsg.ofBytes (ownMsg
      2 3).payload).pair).getD default, _, rfl, rfl, by decide +kernel⟩,
   ⟨stateOf qOwn, .half 0, { qp := some {} }, _, (({ qp := some {} } : Packet).qp).getD default, rfl, by decide +kernel⟩,
   ⟨stateOf qOwn, 65536, _, rfl, by decide +kernel⟩,
   ⟨stateOf qOwn, 0, _, rfl, by decide +kernel⟩,
   ⟨stateOf qOwn, 1, ((stateOf qOwn).qf.ownRec? (1 : QpKey)).getD default, by decide +kernel⟩,
   ⟨stateOf qOwn, 65537, _, rfl, by decide +kernel⟩,
   ⟨stateOf qOwn, .half 0, default, (mirrorOf (default : Packet).payload).1, (mirrorOf (default : Packet).payload).2, _, rfl,
      by decide +kernel⟩,
   ⟨stateOf qOwn, .half 0, default, _, _, {}, rfl, rfl, by decide +kernel⟩⟩

/-- The hypotheses of KeyCommandsTakeEffect can be met. -/
theorem witness_KeyCommandsTakeEffect :
    (∃ (s : State) (m : MgrRef) (tenant : BitVec 16) (g : BitVec 8) (t : Tenant), fld tenant 0 12 = t ∧ MgrReady s.qf m ∧
      inRange tenant 4096 = true ∧ g ≠ 0 ∧ s.qf.keysOf t = {}) ∧
    (∃ (s : State) (m : MgrRef) (tenant : BitVec 16) (t : Tenant) (k : TenantKeys) (c : KeySlot) (pr : Nat) (q1 : Qf), fld
      tenant 0 12 = t ∧ s.qf.keysOf t = k ∧ MgrReady s.qf m ∧ inRange tenant 4096 = true ∧ k.current = some c ∧ k.previous =
      none ∧ k.retiring = [] ∧ (started s m).newProgress 4 1 (((started s m).slotsOf t).length * 4194304) = some (pr, q1)) ∧
    (∃ (s : State) (m : MgrRef) (tenant : BitVec 16) (g : BitVec 8) (td : BitVec 64) (t : Tenant) (x : KeySlot), fld tenant 0
      12 = t ∧ MgrReady s.qf m ∧ inRange tenant 4096 = true ∧ g ≠ 0 ∧ (s.qf.keysOf t).live.find? (fun y => y.gen = g) = some x
      ∧ (s.qf.keysOf t).previous = none ∧ x.deadline = none ∧ s.qf.now + 10000 ≤ td.toNat) ∧
    (∃ (s : State) (m : MgrRef) (tenant : BitVec 16) (td : BitVec 64) (t : Tenant), fld tenant 0 12 = t ∧ MgrReady s.qf m ∧
      inRange tenant 4096 = true ∧ (s.qf.keysOf t).removal = none ∧ s.qf.now + 10000 ≤ td.toNat) ∧
    (∃ (s : State) (t : Tenant) (g : KeyGen), s.qf.running = true ∧ (s.qf.keysOf t).live.any (fun x => x.gen = g &&
      x.deadline.any (fun d => decide (d ≤ s.qf.now))) = true) ∧
    (∃ (s : State) (t : Tenant) (g : KeyGen), s.qf.running = true ∧ s.qf.inFlight t g = 0 ∧ ((s.qf.keysOf t).retiring.any (fun
      x => x.gen = g && x.recalls) = false ∨ (∀ x ∈ s.qf.slotsOf t, s.qf.recalled x = true))) ∧
    (∃ (s : State) (t : Tenant) (g : KeyGen), s.qf.running = true ∧ (s.qf.keysOf t).retiring.any (fun x => x.gen = g && decide
      (x.deadline.getD x.retiredAt + 2000000 ≤ s.qf.now)) = true) ∧
    (∃ (s : State) (t : Tenant) (k : TenantKeys), s.qf.keysOf t = k ∧ s.qf.running = true ∧ k.sweepRunning = true ∧
      k.sweepTotal ≤ k.sweepPos ∧ k.sweepAt = none) ∧
    (∃ (s : State) (t : Tenant) (d : Nat), s.qf.running = true ∧ (s.qf.keysOf t).removalDone = false ∧ (s.qf.keysOf t).removal
      = some d ∧ d ≤ s.qf.now) ∧
    (∃ (s : State) (t : Tenant) (d : Nat) (q1 : Qf), q1 = s.qf.updKeys t (fun k =>
      { k with removal := none, removalDone := false }) ∧ s.qf.running = true ∧ (s.qf.keysOf t).removalDone = true ∧
      (s.qf.keysOf t).removal = some d ∧ d + 2000000 ≤ s.qf.now ∧ q1.slotsOf t = []) ∧
    (∃ (s : State) (t : Tenant) (d : Nat) (q1 : Qf) (x : Slot) (pr : Nat) (q2 : Qf), q1 = s.qf.updKeys t (fun k =>
      { k with removal := none, removalDone := false }) ∧ s.qf.running = true ∧ (s.qf.keysOf t).removalDone = true ∧
      (s.qf.keysOf t).removal = some d ∧ d + 2000000 ≤ s.qf.now ∧ q1.slotsOf t = [x] ∧ (q1.extent x).state = .assigned ∧
      q1.newProgress 1 1 4194304 = some (pr, q2)) :=
  ⟨⟨stateOf qKeys, cmd, 8, 1, _, rfl, by decide +kernel⟩,
   ⟨stateOf qKeys, cmd, 0, _, _, (((stateOf qKeys).qf.keysOf (fld (0 : BitVec 16) 0 12)).current).getD default, (((started
      (stateOf qKeys) cmd).newProgress 4 1 (((started (stateOf qKeys) cmd).slotsOf (fld (0 : BitVec 16) 0 12)).length *
      4194304)).getD default).1, (((started (stateOf qKeys) cmd).newProgress 4 1 (((started (stateOf qKeys) cmd).slotsOf (fld
      (0 : BitVec 16) 0 12)).length * 4194304)).getD default).2, rfl, rfl, by decide +kernel⟩,
   ⟨stateOf qKeys, cmd, 1, 1, 0xFFFFFFFF, _, (((stateOf qKeys).qf.keysOf (fld (1 : BitVec 16) 0 12)).live.find? (fun y => y.gen =
      (1 : BitVec 8))).getD default, rfl, by decide +kernel⟩,
   ⟨stateOf qKeys, cmd, 0, 0xFFFFFFFF, _, rfl, by decide +kernel⟩,
   ⟨stateOf qKeys, 2, 0, by decide +kernel⟩,
   ⟨stateOf qKeys, 0, 0, by decide +kernel⟩,
   ⟨stateOf qKeys, 3, 0, by decide +kernel⟩,
   ⟨stateOf qKeys, 4, _, rfl, by decide +kernel⟩,
   ⟨stateOf qKeys, 5, (((stateOf qKeys).qf.keysOf (5 : Tenant)).removal).getD default, by decide +kernel⟩,
   ⟨stateOf qKeys, 6, (((stateOf qKeys).qf.keysOf (6 : Tenant)).removal).getD default, _, rfl, by decide +kernel⟩,
   ⟨stateOf qKeys, 7, (((stateOf qKeys).qf.keysOf (7 : Tenant)).removal).getD default, _, 0, ((((stateOf qKeys).qf.updKeys (7 :
      Tenant) (fun k => { k with removal := none, removalDone := false })).newProgress 1 1 4194304).getD default).1,
      ((((stateOf qKeys).qf.updKeys (7 : Tenant) (fun k => { k with removal := none, removalDone := false })).newProgress 1 1
      4194304).getD default).2, rfl, by decide +kernel⟩⟩

/-- The hypotheses of CollectiveCommandsTakeEffect can be met. -/
theorem witness_CollectiveCommandsTakeEffect :
    (∃ (s : State) (m : MgrRef) (r : BitVec 256) (g n : Nat) (x : Group) (fs : List Nat) (q1 : Qf), Group.ofRecord r = x ∧
      (fld r 244 12).toNat = g ∧ (fld r 8 12).toNat = n ∧ (if n = 0 then [] else s.qf.freeFrames n) = fs ∧ inCum (started s m)
      (fun u => { u with groups := u.groups.set g { x with frames := fs } }) = q1 ∧ MgrReady s.qf m ∧ recordOk r = true ∧
      (x.modes.getLsbD 0 = false ∨ s.qf.oldTreeLink x = false) ∧ GroupStill s.qf g ∧ s.qf.cum.groups.has g = false ∧
      s.qf.colReserved + x.window ≤ 4096 ∧ n ≤ fs.length ∧ (n = 0 ∨ (s.qf.quota x.tenant).u0 + n ≤ (s.qf.quota
      x.tenant).q0.toNat)) ∧
    (∃ (s : State) (m : MgrRef) (group : BitVec 16), MgrReady s.qf m ∧ inRange group 4096 = true ∧ s.qf.cum.groups.has
      group.toNat = true ∧ GroupStill s.qf group.toNat) ∧
    (∃ (s : State) (m : MgrRef) (group : BitVec 16) (inst : BitVec 32), inst = (s.qf.group group.toNat).nextSeq ∧ MgrReady
      s.qf m ∧ inRange group 4096 = true ∧ s.qf.cum.groups.has group.toNat = true ∧ GroupStill s.qf group.toNat) ∧
    (∃ (s : State) (group : GroupId), s.qf.inService = true ∧ ((s.qf.group group.toNat).istate = .prepass ∨ (s.qf.group
      group.toNat).istate = .summing) ∧ s.qf.colLimit (s.qf.group group.toNat).inst ≠ 0 ∧ (s.qf.group
      group.toNat).inst.lastPacket + s.qf.colLimit (s.qf.group group.toNat).inst ≤ s.qf.now) :=
  ⟨⟨stateOf qGroups, cmd, BitVec.ofNat 256 (2 ^ 228 + 2 ^ 221 + 2 ^ 77 + 2 ^ 66), _, _, _, _, _, rfl, rfl, rfl, rfl, rfl,
      by decide +kernel⟩,
   ⟨stateOf qGroups, cmd, 1, by decide +kernel⟩,
   ⟨stateOf qGroups, cmd, 1, _, rfl, by decide +kernel⟩,
   ⟨stateOf qGroups, 2, by decide +kernel⟩⟩

/-- The hypotheses of CollectivePacketsTakeEffect can be met. -/
theorem witness_CollectivePacketsTakeEffect :
    (∃ (s : State) (h : HalfPort) (p : Packet) (c : ColHdr) (g : Nat) (x : Group) (q q1 : Qf), q.group g = x ∧ q1 = q.updInst
      g (fun i =>
      { i with members := i.members ++ [{ half := h, ep := p.srcEp, tag := p.tag, desc := bitsOf 512 p.payload }] }) ∧ Current
      s h p c g q ∧ p.opcode = Opc.colLaunch ∧ x.memberMask.getLsbD h.toNat = true ∧ ((q.link h).bind.map Binding.tenant).getD
      p.tenant = x.tenant ∧ x.inst.members.any (fun m => m.half = h) = false ∧ (LDesc.mode (bitsOf 512 p.payload) = false ∨
      q.cum.canonical = true) ∧ launchOk x.modes (bitsOf 512 p.payload) = true ∧ x.istate ≠ .aborting) ∧
    (∃ (s : State) (h : HalfPort) (p : Packet) (c : ColHdr) (g : Nat) (x : Group) (q q1 : Qf), q.group g = x ∧ Current s h p c
      g q ∧ p.opcode = Opc.colExp ∧ x.children.getLsbD h.toNat = true ∧ x.istate = .prepass ∧ q.colSign g (hdrSig c) = (true,
      q1) ∧ (q1.group g).istate = .prepass) ∧
    (∃ (s : State) (h : HalfPort) (p : Packet) (c : ColHdr) (g : Nat) (x : Group) (q q1 : Qf), q.group g = x ∧ q1 = q.updInst
      g (fun i => { i with eFinal := (p.payload.zipIdx).foldl (fun t v => t.set (c.firstBlock.toNat + v.2) v.1) i.eFinal }) ∧
      Current s h p c g q ∧ p.opcode = Opc.colEbcast ∧ x.root = false ∧ h = x.parent ∧ x.istate = .prepass) ∧
    (∃ (s : State) (h : HalfPort) (p : Packet) (c : ColHdr) (g : Nat) (x : Group) (q q1 : Qf) (m : ColMember) (sig : ColSig),
      q.group g = x ∧ Current s h p c g q ∧ p.opcode = Opc.colData ∧ x.children.getLsbD h.toNat = true ∧ x.memberMask.getLsbD
      h.toNat = true ∧ x.istate = .summing ∧ x.inst.members.find? (fun m => m.half = h) = some m ∧ x.inst.sig = some sig ∧
      (sig.inFmt ≠ 4 ∨ m.table.isSome = true) ∧ hdrSig c = sig ∧ q.colSome g h p c true m sig = (true, q1)) ∧
    (∃ (s : State) (h : HalfPort) (p : Packet) (c : ColHdr) (g : Nat) (x : Group) (q q1 : Qf) (sig : ColSig), q.group g = x ∧
      Current s h p c g q ∧ p.opcode = Opc.colPartial ∧ x.children.getLsbD h.toNat = true ∧ x.memberMask.getLsbD h.toNat =
      false ∧ x.istate = .summing ∧ x.inst.sig = some sig ∧ hdrSig c = sig ∧ x.inst.members.find? (fun m => m.half = h) = none
      ∧ q.colSome g h p c false {} sig = (true, q1)) ∧
    (∃ (s : State) (h : HalfPort) (p : Packet) (c : ColHdr) (g : Nat) (x : Group) (q q1 : Qf), q.group g = x ∧ q1 = q.updGroup
      g (fun x =>
      { x with istate := .committed, inst := { x.inst with blocks := [], commitTime := c.commitTime.toNat, contributions := leNat (slice p.payload 0 4), overflow := leNat (slice p.payload 4 4) } })
      ∧ Current s h p c g q ∧ p.opcode = Opc.colCommit ∧ x.root = false ∧ h = x.parent ∧ x.istate = .summing) ∧
    (∃ (s : State) (h : HalfPort) (p : Packet) (c : ColHdr) (g : Nat) (x : Group) (q q1 : Qf), q.group g = x ∧ q1 =
      ((List.range c.run.toNat).foldl (fun (a : Nat × Qf) k => (a.1 + (x.inst.sig.getD {}).elems (c.firstBlock.toNat + k) *
      (x.inst.sig.getD {}).outBytes, if (x.inst.sig.getD {}).blocks ≤ c.firstBlock.toNat + k || c.firstBlock.toNat + k <
      (a.2.group g).inst.resNext || (a.2.group g).inst.resAhead.contains (c.firstBlock.toNat + k) then a.2 else a.2.colDeliver
      g (c.firstBlock.toNat + k) (slice p.payload a.1 ((x.inst.sig.getD {}).elems (c.firstBlock.toNat + k) * (x.inst.sig.getD
      {}).outBytes)))) (0, q)).2 ∧ Current s h p c g q ∧ p.opcode = Opc.colResult ∧ x.root = false ∧ h = x.parent ∧ x.istate =
      .committed) ∧
    (∃ (s : State) (h : HalfPort) (p : Packet) (c : ColHdr) (g : Nat) (x : Group) (q : Qf), q.group g = x ∧ Current s h p c g
      q ∧ p.opcode = Opc.colAbortReq ∧ x.children.getLsbD h.toNat = true ∧ x.memberMask.getLsbD h.toNat = false ∧ x.root =
      false) ∧
    (∃ (s : State) (h : HalfPort) (p : Packet) (c : ColHdr) (g : Nat) (x : Group) (q : Qf), q.group g = x ∧ Current s h p c g
      q ∧ p.opcode = Opc.colAbort ∧ x.memberMask.getLsbD h.toNat = false ∧ x.root = false ∧ h = x.parent ∧ x.istate =
      .summing) ∧
    (∃ (s : State) (h : HalfPort) (p : Packet) (c : ColHdr) (g : Nat) (x : Group) (q : Qf), q.group g = x ∧ Current s h p c g
      q ∧ p.opcode = Opc.colAbortAnswer ∧ (x.root = true ∨ h ≠ x.parent) ∧ x.children.getLsbD h.toNat = true) :=
  ⟨⟨stateOf (qGroup { memberMask := 1, modes := 3 }), 0, colPkt Opc.colLaunch (bytesOf 64 (BitVec.ofNat 512 (2 ^ 508 + 2 ^
      416))), default, 0, _, ((stateOf (qGroup { memberMask := 1, modes := 3 })).qf.colStamp (default : ColHdr)).take (.half
      (0 : HalfPort)) (colPkt Opc.colLaunch (bytesOf 64 (BitVec.ofNat 512 (2 ^ 508 + 2 ^ 416)))), _, rfl, rfl,
      by decide +kernel⟩,
   ⟨stateOf (qGroup { children := 1, istate := .prepass, inst := { sig := some {} } }), 0, colPkt Opc.colExp, default, 0, _,
      ((stateOf (qGroup { children := 1, istate := .prepass, inst := { sig := some {} } })).qf.colStamp (default :
      ColHdr)).take (.half (0 : HalfPort)) (colPkt Opc.colExp), ((((stateOf (qGroup
      { children := 1, istate := .prepass, inst := { sig := some {} } })).qf.colStamp (default : ColHdr)).take (.half (0 :
      HalfPort)) (colPkt Opc.colExp)).colSign (0 : Nat) (hdrSig (default : ColHdr))).2, rfl, by decide +kernel⟩,
   ⟨stateOf (qGroup { istate := .prepass }), 0, colPkt Opc.colEbcast, default, 0, _, ((stateOf (qGroup
      { istate := .prepass })).qf.colStamp (default : ColHdr)).take (.half (0 : HalfPort)) (colPkt Opc.colEbcast), _, rfl,
      rfl, by decide +kernel⟩,
   ⟨stateOf (qGroup { children := 1, memberMask := 1, istate := .summing, inst := { sig := some {}, members := [{}] } }), 0,
      colPkt Opc.colData, default, 0, _, ((stateOf (qGroup
      { children := 1, memberMask := 1, istate := .summing, inst := { sig := some {}, members := [{}] } })).qf.colStamp
      (default : ColHdr)).take (.half (0 : HalfPort)) (colPkt Opc.colData), ((((stateOf (qGroup
      { children := 1, memberMask := 1, istate := .summing, inst := { sig := some {}, members := [{}] } })).qf.colStamp
      (default : ColHdr)).take (.half (0 : HalfPort)) (colPkt Opc.colData)).colSome (0 : Nat) (0 : HalfPort) (colPkt
      Opc.colData) (default : ColHdr) true ((((((stateOf (qGroup
      { children := 1, memberMask := 1, istate := .summing, inst := { sig := some {}, members := [{}] } })).qf.colStamp
      (default : ColHdr)).take (.half (0 : HalfPort)) (colPkt Opc.colData)).group (0 : Nat)).inst.members.find? (fun m =>
      m.half = (0 : HalfPort))).getD default) ((((((stateOf (qGroup
      { children := 1, memberMask := 1, istate := .summing, inst := { sig := some {}, members := [{}] } })).qf.colStamp
      (default : ColHdr)).take (.half (0 : HalfPort)) (colPkt Opc.colData)).group (0 : Nat)).inst.sig).getD default)).2,
      (((((stateOf (qGroup
      { children := 1, memberMask := 1, istate := .summing, inst := { sig := some {}, members := [{}] } })).qf.colStamp
      (default : ColHdr)).take (.half (0 : HalfPort)) (colPkt Opc.colData)).group (0 : Nat)).inst.members.find? (fun m =>
      m.half = (0 : HalfPort))).getD default, (((((stateOf (qGroup
      { children := 1, memberMask := 1, istate := .summing, inst := { sig := some {}, members := [{}] } })).qf.colStamp
      (default : ColHdr)).take (.half (0 : HalfPort)) (colPkt Opc.colData)).group (0 : Nat)).inst.sig).getD default, rfl,
      by decide +kernel⟩,
   ⟨stateOf (qGroup { children := 1, istate := .summing, inst := { sig := some {} } }), 0, colPkt Opc.colPartial, default, 0, _,
      ((stateOf (qGroup { children := 1, istate := .summing, inst := { sig := some {} } })).qf.colStamp (default :
      ColHdr)).take (.half (0 : HalfPort)) (colPkt Opc.colPartial), ((((stateOf (qGroup
      { children := 1, istate := .summing, inst := { sig := some {} } })).qf.colStamp (default : ColHdr)).take (.half (0 :
      HalfPort)) (colPkt Opc.colPartial)).colSome (0 : Nat) (0 : HalfPort) (colPkt Opc.colPartial) (default : ColHdr) false {}
      ((((((stateOf (qGroup { children := 1, istate := .summing, inst := { sig := some {} } })).qf.colStamp (default :
      ColHdr)).take (.half (0 : HalfPort)) (colPkt Opc.colPartial)).group (0 : Nat)).inst.sig).getD default)).2, (((((stateOf
      (qGroup { children := 1, istate := .summing, inst := { sig := some {} } })).qf.colStamp (default : ColHdr)).take (.half
      (0 : HalfPort)) (colPkt Opc.colPartial)).group (0 : Nat)).inst.sig).getD default, rfl, by decide +kernel⟩,
   ⟨stateOf (qGroup { istate := .summing }), 0, colPkt Opc.colCommit, default, 0, _, ((stateOf (qGroup
      { istate := .summing })).qf.colStamp (default : ColHdr)).take (.half (0 : HalfPort)) (colPkt Opc.colCommit), _, rfl,
      rfl, by decide +kernel⟩,
   ⟨stateOf (qGroup { istate := .committed }), 0, colPkt Opc.colResult, default, 0, _, ((stateOf (qGroup
      { istate := .committed })).qf.colStamp (default : ColHdr)).take (.half (0 : HalfPort)) (colPkt Opc.colResult), _, rfl,
      rfl, by decide +kernel⟩,
   ⟨stateOf (qGroup { children := 1, parent := 1 }), 0, colPkt Opc.colAbortReq, default, 0, _, ((stateOf (qGroup
      { children := 1, parent := 1 })).qf.colStamp (default : ColHdr)).take (.half (0 : HalfPort)) (colPkt Opc.colAbortReq),
      rfl, by decide +kernel⟩,
   ⟨stateOf (qGroup { istate := .summing }), 0, colPkt Opc.colAbort, default, 0, _, ((stateOf (qGroup
      { istate := .summing })).qf.colStamp (default : ColHdr)).take (.half (0 : HalfPort)) (colPkt Opc.colAbort), rfl,
      by decide +kernel⟩,
   ⟨stateOf (qGroup { children := 1, root := true }), 0, colPkt Opc.colAbortAnswer, default, 0, _, ((stateOf (qGroup
      { children := 1, root := true })).qf.colStamp (default : ColHdr)).take (.half (0 : HalfPort)) (colPkt
      Opc.colAbortAnswer), rfl, by decide +kernel⟩⟩

/-- The hypotheses of FabricEntriesTakeEffect can be met. -/
theorem witness_FabricEntriesTakeEffect :
    (WriteMet 0x8200 0x0F (fun _ _ v => v.length = 2 ∧ leNat v < 16384)) ∧
    (WriteMet 0x3000 0x01 (fun _ i v => v.length = 1 ∧ leNat v ≤ 3 ∧ (leNat v = 2 → i % 8 < 2))) ∧
    (WriteMet 0x3110 0x04 (fun _ _ v => v.length = 1 ∧ leNat v ≤ 5)) ∧
    (WriteMet 0x8100 0x01 (fun _ _ v => v.length = 2)) ∧
    (∃ (h : HalfPort) (l : List (BitVec 64)), WriteMet 0x3210 0x07 (fun q i v => v.length = 1 ∧ leNat v = 1 ∧ h = BitVec.ofNat
      6 i ∧ (q.egress h).pendEntries.toNat ≤ 256 ∧ (q.egress h).pendEntries.toNat ≤ (q.egress h).pendList.length ∧ l =
      (q.egress h).pendList.take (q.egress h).pendEntries.toNat ∧ (∀ x ∈ l, (fld x 0 32 : BitVec 32) ≠ 0) ∧ q.now + 1000 ≤
      (q.egress h).takeover.toNat ∧ ((q.egress h).pendEntries ≠ 0 → (q.egress h).pendCycle ≠ 0))) ∧
    (WriteMet 0x8200 0x08 (fun _ _ v => v.length = 2 ∧ leNat v < 16384)) ∧
    (WriteMet 0x3000 0x10 (fun _ _ v => v.length = 1 ∧ leNat v ≤ 1)) ∧
    (WriteMet 0x8200 0x0B (fun _ _ v => v.length = 10 ∧ leNat (slice v 8 2) < 16384)) ∧
    (WriteMet 0x8200 0x0A (fun _ _ v => v.length = 2 ∧ (leNat v < 16384 ∨ leNat v = 0xFFFF))) ∧
    (∀ p ∈ [(0, (3 : BitVec 8), 4), (1, 4, 4), (2, 5, 1)], WriteMet 0x3200 p.2.1 (fun _ _ v => v.length = p.2.2 ∧ bucketOk p.1
      (leNat v) = true)) ∧
    (∀ p ∈ [(0, (1 : BitVec 8), 4), (1, 2, 4), (2, 3, 1)], WriteMet 0x3201 p.2.1 (fun _ _ v => v.length = p.2.2 ∧ bucketOk p.1
      (leNat v) = true)) ∧
    (∀ p ∈ [(0, (1 : BitVec 8), 4), (1, 2, 4), (2, 3, 1)], WriteMet 0x3220 p.2.1 (fun _ _ v => v.length = p.2.2 ∧ bucketOk p.1
      (leNat v) = true)) :=
  ⟨⟨stateOf (qAg sess), {}, sess, (entryAt 0x8200 0x0F).getD default, [0, 0], 0, by decide +kernel⟩,
   ⟨stateOf (qAg sess), {}, sess, (entryAt 0x3000 0x01).getD default, [0], 0, by decide +kernel⟩,
   ⟨stateOf (qAg sess), {}, sess, (entryAt 0x3110 0x04).getD default, [0], 0, by decide +kernel⟩,
   ⟨stateOf (qAg sess), {}, sess, (entryAt 0x8100 0x01).getD default, [0, 0], 0, by decide +kernel⟩,
   ⟨0, [1], ⟨stateOf (qAg sess
      { sched := { egress := [(0, { pendEntries := 1, pendList := [1], pendCycle := 1, takeover := 1000 })] } }), {}, sess,
      (entryAt 0x3210 0x07).getD default, [1], 0, by decide +kernel, by decide +kernel, by decide +kernel, by decide +kernel,
      by decide +kernel, by decide +kernel, by decide +kernel, by decide +kernel, by decide +kernel, by simp; decide,
      by decide +kernel⟩⟩,
   ⟨stateOf (qAg sess), {}, sess, (entryAt 0x8200 0x08).getD default, [0, 0], 0, by decide +kernel⟩,
   ⟨stateOf (qAg sess), {}, sess, (entryAt 0x3000 0x10).getD default, [0], 0, by decide +kernel⟩,
   ⟨stateOf (qAg sess), {}, sess, (entryAt 0x8200 0x0B).getD default, List.replicate 10 0, 0, by decide +kernel⟩,
   ⟨stateOf (qAg sess), {}, sess, (entryAt 0x8200 0x0A).getD default, [0, 0], 0, by decide +kernel⟩,
   (by
    intro p h
    simp only [List.mem_cons, List.not_mem_nil, or_false] at h
    rcases h with rfl | rfl | rfl
    · exact
      ⟨stateOf (qAg sess), {}, sess, (entryAt 0x3200 3).getD default, [0, 0, 0, 0], 0, by decide +kernel⟩
    · exact ⟨stateOf
      (qAg sess), {}, sess, (entryAt 0x3200 4).getD default, [0, 0x20, 0, 0], 0, by decide +kernel⟩
    · exact ⟨stateOf (qAg
      sess), {}, sess, (entryAt 0x3200 5).getD default, [0], 0, by decide +kernel⟩),
   (by
    intro p h
    simp only [List.mem_cons, List.not_mem_nil, or_false] at h
    rcases h with rfl | rfl | rfl
    · exact
      ⟨stateOf (qAg sess), {}, sess, (entryAt 0x3201 1).getD default, [0, 0, 0, 0], 0, by decide +kernel⟩
    · exact ⟨stateOf
      (qAg sess), {}, sess, (entryAt 0x3201 2).getD default, [0, 0x20, 0, 0], 0, by decide +kernel⟩
    · exact ⟨stateOf (qAg
      sess), {}, sess, (entryAt 0x3201 3).getD default, [0], 0, by decide +kernel⟩),
   (by
    intro p h
    simp only [List.mem_cons, List.not_mem_nil, or_false] at h
    rcases h with rfl | rfl | rfl
    · exact
      ⟨stateOf (qAg sess), {}, sess, (entryAt 0x3220 1).getD default, [0, 0, 0, 0], 0, by decide +kernel⟩
    · exact ⟨stateOf
      (qAg sess), {}, sess, (entryAt 0x3220 2).getD default, [0, 0x20, 0, 0], 0, by decide +kernel⟩
    · exact ⟨stateOf (qAg
      sess), {}, sess, (entryAt 0x3220 3).getD default, [0], 0, by decide +kernel⟩)⟩

set_option maxRecDepth 100000 in
/-- The hypotheses of ServiceEntriesTakeEffect can be met. -/
theorem witness_ServiceEntriesTakeEffect :
    (WriteMet 0x6010 0x01 (fun _ _ v => v.length = 32)) ∧
    (WriteMet 0x6010 0x03 (fun _ _ _ => True)) ∧
    (WriteMet 0x6040 0x02 (fun _ _ v => v.length = 8)) ∧
    (WriteMet 0x7010 0x01 (fun _ _ v => v.length = 8 ∧ 1000000000 ≤ leNat v ∧ leNat v ≤ 3600000000000 ∧ leNat v % 1000000000 =
      0)) ∧
    (∃ (i : FwImage), WriteMet 0x7020 0x02 (fun q _ v => v.length = 1 ∧ leNat v = 1 ∧ q.ens.staged = some i ∧ q.ens.stageState
      = 1)) ∧
    (∃ (p : AnchorPair) (g : List Byte), WriteMet 0x7020 0x04 (fun _ _ v => pairSplit v = some (p, g) ∧ g.length = 5139)) ∧
    (∃ (p : AnchorPair), WriteMet 0x1020 0x01 (fun q _ v => q.mgmt.owner = [] ∧ pairSplit v = some (p, []))) ∧
    (∃ (rs : List (Nat × AnchorPair)), WriteMet 0x1020 0x02 (fun _ _ v => rolesOf 4 0 v = some rs)) ∧
    (WriteMet 0xF000 0x01 (fun _ _ v => v.length = 5147)) ∧
    (WriteMet 0x8300 0x07 (fun q _ v => v.length = 8 ∧ q.timeParent = none ∧ q.part.booted = false)) ∧
    (WriteMet 0x8310 0x01 (fun _ _ v => v.length = 1 ∧ leNat v = 1)) ∧
    (∃ (th : Nat), WriteMet 0x8320 0x01 (fun q _ v => v.length = 8 ∧ q.dbg.hzState = 0 ∧ q.dbg.hzPropagate = false ∧ th = (if
      leNat v = 0 then q.now + 10000 else leNat v) ∧ q.now + 10000 ≤ th)) ∧
    (WriteMet 0x8320 0x05 (fun _ _ v => v.length = 1 ∧ leNat v = 1)) ∧
    (WriteMet 0x9010 0x03 (fun q _ v => v.length = 1 ∧ leNat v = 1 ∧ q.updateBar = 0 ∧ q.boot.stageState = 1 ∧ slotValid
      q.boot.minSecurity q.boot.otherSlot = true)) ∧
    (WriteMet 0x9010 0x04 (fun q _ v => v.length = 1 ∧ leNat v = 1 ∧ q.boot.phase = .full)) ∧
    (∃ (x : FwSlot), WriteMet 0x9010 0x05 (fun q _ v => v.length = 1 ∧ leNat v = 1 ∧ q.updateBar = 0 ∧ q.boot.otherSlot = some
      x ∧ q.boot.minSecurity.toNat ≤ x.image.securityVersion.toNat ∧ slotValid q.boot.minSecurity (some x) = true)) ∧
    (WriteMet 0x2010 0x02 (fun q _ v => v.length = 1 ∧ leNat v = 1 ∧ q.pwr.testSince = none)) ∧
    (∃ (on : Bool), WriteMet 0x2001 0x01 (fun q i v => v = [if on then 1 else 0] ∧ engineDomain i = true ∧ (on = true →
      q.pwr.domain.get (sliceOf i) 0 = 2))) ∧
    (∃ (on : Bool), WriteMet 0x2001 0x01 (fun q i v => v = [if on then 1 else 0] ∧ engineDomain i = false ∧ i < 80 ∧ (on =
      true → sliceOf i ≠ i → q.pwr.domain.get (sliceOf i) 0 = 2) ∧ (on = false → sliceOf i = i → ∀ e ∈ dependents i,
      q.pwr.domain.get e 0 = 0) ∧ (q.pwr.domain.get i 0 = (if on then 2 else 0) ∨ (i < 40 ∨ 72 ≤ i → q.part.booted = false) ∧
      (40 ≤ i → i < 72 → (q.link (BitVec.ofNat 6 (2 * (i - 40)))).state = .detect ∧ (q.link (BitVec.ofNat 6 (2 * (i - 40)) +
      1)).state = .detect)))) :=
  ⟨⟨stateOf (qAg sess), {}, sess, (entryAt 0x6010 0x01).getD default, List.replicate 32 0, 0, by decide +kernel⟩,
   ⟨stateOf (qAg sess), {}, sess, (entryAt 0x6010 0x03).getD default, [], 0, by decide +kernel⟩,
   ⟨stateOf (qAg sess), {}, sess, (entryAt 0x6040 0x02).getD default, List.replicate 8 0, 0, by decide +kernel⟩,
   ⟨stateOf (qAg meterSess), {}, meterSess, (entryAt 0x7010 0x01).getD default, natLe 8 1000000000, 0, by decide +kernel⟩,
   ⟨{}, ⟨stateOf (qAg meterSess { ens := { staged := some {}, stageState := 1 } }), {}, meterSess, (entryAt 0x7020 0x02).getD
      default, [1], 0, by decide +kernel⟩⟩,
   ⟨((pairSplit certPair).getD default).1, List.replicate 5139 0, ⟨stateOf (qAg meterSess), {}, meterSess, (entryAt 0x7020
      0x04).getD default, (certPair ++ List.replicate 5139 0), 0, by decide +kernel⟩⟩,
   ⟨((pairSplit certPair).getD default).1, ⟨stateOf (qAg sess), {}, sess, (entryAt 0x1020 0x01).getD default, certPair, 0,
      by decide +kernel⟩⟩,
   ⟨(rolesOf 4 0 (2 :: 1 :: certPair)).getD default, ⟨stateOf (qAg sess), {}, sess, (entryAt 0x1020 0x02).getD default, (2 :: 1
      :: certPair), 0, by decide +kernel⟩⟩,
   ⟨stateOf (qAg sess), {}, sess, (entryAt 0xF000 0x01).getD default, List.replicate 5147 0, 0, by decide +kernel⟩,
   ⟨stateOf { qAg sess with part := {} }, {}, sess, (entryAt 0x8300 0x07).getD default, List.replicate 8 0, 0, by decide +kernel⟩,
   ⟨stateOf (qAg sess), {}, sess, (entryAt 0x8310 0x01).getD default, [1], 0, by decide +kernel⟩,
   ⟨10000, ⟨stateOf (qAg sess), {}, sess, (entryAt 0x8320 0x01).getD default, List.replicate 8 0, 0, by decide +kernel⟩⟩,
   ⟨stateOf (qAg sess), {}, sess, (entryAt 0x8320 0x05).getD default, [1], 0, by decide +kernel⟩,
   ⟨stateOf qFw, {}, sess, (entryAt 0x9010 0x03).getD default, [1], 0, by decide +kernel⟩,
   ⟨stateOf (qAg sess), {}, sess, (entryAt 0x9010 0x04).getD default, [1], 0, by decide +kernel⟩,
   ⟨qFw.boot.slotB.getD default, ⟨stateOf qFw, {}, sess, (entryAt 0x9010 0x05).getD default, [1], 0, by decide +kernel⟩⟩,
   ⟨stateOf (qAg sess), {}, sess, (entryAt 0x2010 0x02).getD default, [1], 0, by decide +kernel⟩,
   ⟨true, ⟨stateOf (qAg { sess with selects := [(0x200100, 1)] } { pwr := { domain := [(0, 2)] } }), {},
      { sess with selects := [(0x200100, 1)] }, (entryAt 0x2001 0x01).getD default, [1], 1, by decide +kernel⟩⟩,
   ⟨true, ⟨stateOf (qAg sess { pwr := { domain := [(0, 2)] } }), {}, sess, (entryAt 0x2001 0x01).getD default, [1], 0,
      by decide +kernel⟩⟩⟩

/-- The hypotheses of PipelinesTakeEffect can be met. -/
theorem witness_PipelinesTakeEffect :
    (∃ (s : State) (origin : Ep) (qpn : Qpn) (n : QpKey) (w : BitVec 512) (y : Qp) (x : WorkReq) (q0 q1 : Qf), n = origin ++
      qpn ∧ (s.qf.touchQp n).qp n = y ∧ x = { index := y.ctx.sqConsumer, wr := w, seq := (s.qf.touchQp n).qps.useSeq } ∧ q0 =
      (s.qf.touchQp n).updQp n (fun z =>
      { z with fetched := none, work := z.work ++ [x], ctx := { z.ctx with sqConsumer := z.ctx.sqConsumer + 1 } }) ∧ q1 =
      q0.updWr n x.index (fun x => { x with todo := [{}] }) ∧ s.qf.startable n w 0x20 = true ∧ pipeFormOk w = true) ∧
    (∃ (s : State), s.qf.inService = true) ∧
    (∃ (s : State) (n : QpKey) (i : BitVec 16) (j : PipeJob) (w : WorkReq), s.qf.inService = true ∧ s.qf.job n i = some j ∧
      (s.qf.qp n).wrOf i = some w ∧ s.qf.acquiring n = false ∧ (Wr.release j.wr = false ∨ s.qf.writesBefore n w.seq = []) ∧
      ((j.phase = .outputs ∧ w.unresolved = 0 ∧ w.final = none) ∨ (j.phase = .stopped ∧ w.unresolved = 1))) ∧
    (∃ (s : State) (n : QpKey) (i : BitVec 16) (stage : BitVec 3) (o : BitVec 32) (j : PipeJob) (r : EngRead) (bins : List
      Nat) (factor : Nat), bins = s.qf.hist j.sector false (r.shard.getD 0) ∧ factor = j.par.getD 0 0 ∧ s.qf.inService = true
      ∧ s.qf.job n i = some j ∧ j.phase = .running ∧ j.reads.find? (fun r => keyOf r.key = (false, stage.toNat, o.toNat) &&
      r.alt && r.key % 2 ^ 58 != askLine) = some r ∧ 0 < factor ∧ (stage.toNat, o.toNat) ∉ j.backs ∧ max 1 (j.par.getD 1 0) ≤
      bins.length ∧ pastEdge (s.qf.now - r.sentAt) factor (shardP99 bins) = true ∧ 100 * ((j.backs.filter (fun b => b.1 =
      stage.toNat)).length + 1) ≤ j.par.getD 2 0 * stageRows j stage.toNat) ∧
    (∃ (s : State) (n : QpKey) (i : BitVec 16) (shard : BitVec 8) (j : PipeJob) (r : EngRead) (bins : List Nat) (factor :
      Nat), bins = s.qf.hist j.sector true (r.shard.getD 0) ∧ factor = j.par.getD 3 0 ∧ s.qf.inService = true ∧ s.qf.job n i =
      some j ∧ j.phase = .running ∧ j.reads.find? (fun r => !(keyOf r.key).1 && (keyOf r.key).2.2 = shard.toNat && r.alt &&
      r.key % 2 ^ 58 = askLine && !j.backs.contains (r.stage, shard.toNat)) = some r ∧ 0 < factor ∧ max 1 (j.par.getD 4 0) ≤
      bins.length ∧ pastEdge (s.qf.now - r.sentAt) factor (shardP99 bins) = true) :=
  ⟨⟨stateOf qPipes, 0, 0, _, runWr, _, _, _, _, rfl, rfl, rfl, rfl, rfl, by decide +kernel⟩,
   ⟨stateOf qPipes, by decide +kernel⟩,
   ⟨stateOf qPipes, 0, 0, ((stateOf qPipes).qf.job (0 : QpKey) (0 : BitVec 16)).getD default, (((stateOf qPipes).qf.qp (0 :
      QpKey)).wrOf (0 : BitVec 16)).getD default, by decide +kernel⟩,
   ⟨stateOf qPipes, 0, 1, 0, 0, ((stateOf qPipes).qf.job (0 : QpKey) (1 : BitVec 16)).getD default, ((((stateOf qPipes).qf.job (0
      : QpKey) (1 : BitVec 16)).getD default).reads.find? (fun r => keyOf r.key = (false, (0 : BitVec 3).toNat, (0 : BitVec
      32).toNat) && r.alt && r.key % 2 ^ 58 != askLine)).getD default, _, _, rfl, rfl, by decide +kernel⟩,
   ⟨stateOf qPipes, 0, 1, 0, ((stateOf qPipes).qf.job (0 : QpKey) (1 : BitVec 16)).getD default, ((((stateOf qPipes).qf.job (0 :
      QpKey) (1 : BitVec 16)).getD default).reads.find? (fun r => !(keyOf r.key).1 && (keyOf r.key).2.2 = (0 : BitVec 8).toNat
      && r.alt && r.key % 2 ^ 58 = askLine && !(((stateOf qPipes).qf.job (0 : QpKey) (1 : BitVec 16)).getD
      default).backs.contains (r.stage, (0 : BitVec 8).toNat))).getD default, _, _, rfl, rfl, by decide +kernel⟩⟩

set_option maxRecDepth 100000 in
/-- The hypotheses of SearchAndEncodeCommandsTakeEffect can be met. -/
theorem witness_SearchAndEncodeCommandsTakeEffect :
    (∃ (s : State) (i : Ingress) (p p' : Packet) (bs : List Byte) (q : Qf) (r : Nat) (k : Sector), r = leNat (slice bs 0 64) ∧
      k = BitVec.ofNat 3 (nfld r 185 16 + nfld r 496 8) ∧ s.qf.inService = true ∧ p.destEp = s.qf.ownEp ∧ (took s i p).msgIn p
      = (some (p', bs), q) ∧ q.check123 p' = none) ∧
    (∃ (s : State) (i : Ingress) (p p' : Packet) (bs : List Byte) (q : Qf) (r : OpenReq) (n : QpKey) (w : BitVec 16) (key :
      Nat) (st : BitVec 8), st = BitVec.ofNat 8 (nfld (leNat (slice bs 0 32)) 248 8) ∧ s.qf.inService = true ∧ p.destEp =
      s.qf.ownEp ∧ (took s i p).msgIn p = (some (p', bs), q) ∧ q.openFor p' = some r ∧ r.owner = .shardAsk n w key) ∧
    (∃ (s : State) (i : Ingress) (p p' : Packet) (bs : List Byte) (q : Qf) (a : Nat), p'.addr.toNat = a ∧ s.qf.inService =
      true ∧ p.destEp = s.qf.ownEp ∧ (took s i p).msgIn p = (some (p', bs), q) ∧ q.check123 p' = none ∧ a % 64 = 0) ∧
    (∃ (s : State) (m : MgrRef) (tenant : BitVec 16) (region : BitVec 32) (metric : BitVec 8) (r : RegionId) (a pr d : Nat)
      (q1 q2 : Qf), fld region 0 20 = r ∧ (MgrReady s.qf m ∧ inRange tenant 4096 = true ∧ inRange region 1048576 = true ∧
      inRange metric 3 = true ∧ s.qf.ver.recs.has r.toNat = true ∧ (s.qf.verRec r).lost = false ∧ (started s m).regionPva (fld
      tenant 0 12) r = some a ∧ (started s m).newProgress 5 2 0 = some (pr, q1)) ∧ q1.openDraft r = some (d, q2)) ∧
    (∃ (s : State) (m : MgrRef) (tenant : BitVec 16) (side : BitVec 64) (xs : List (BitVec 32)) (e : RtEntry) (a : BitVec 60)
      (q1 : Qf), (MgrReady s.qf m ∧ inRange tenant 4096 = true ∧ side.toNat < 2 ^ 56 ∧ side.toNat % 64 = 0 ∧ xs.length ≤ 8 ∧
      (started s m).translate 0 (fld tenant 0 12) true {} (fld side 0 60) = (.ok (e, a), q1)) ∧ (∀ x ∈ xs, inRange x 1048576 =
      true)) ∧
    (∃ (s : State) (m : MgrRef) (d : BitVec 512) (pr : Nat) (q : Qf), MgrReady s.qf m ∧ Fe.ok d = true ∧ (started s
      m).newProgress 6 3 (Fe.blocks d * (if Fe.build d then 2 else 1)) = some (pr, q)) :=
  ⟨⟨stateOf qSearch, .half 0, default, (default : Packet), [], took (stateOf qSearch) (.half 0 : Ingress) (default : Packet), _,
      _, rfl, rfl, by decide +kernel⟩,
   ⟨stateOf qSearch, .half 0, default, (default : Packet), [], took (stateOf qSearch) (.half 0 : Ingress) (default : Packet),
      ((took (stateOf qSearch) (.half 0 : Ingress) (default : Packet)).openFor (default : Packet)).getD default, 0, 0, 0, _,
      rfl, by decide +kernel⟩,
   ⟨stateOf qSearch, .half 0, default, (default : Packet), [], took (stateOf qSearch) (.half 0 : Ingress) (default : Packet), _,
      rfl, by decide +kernel⟩,
   ⟨stateOf qSearch, cmd, 0, 0, 0, _, ((started (stateOf qSearch) cmd).regionPva (fld (0 : BitVec 16) 0 12) (fld (0 : BitVec 32)
      0 20)).getD default, (((started (stateOf qSearch) cmd).newProgress 5 2 0).getD default).1, ((((((started (stateOf
      qSearch) cmd).newProgress 5 2 0).getD default).2).openDraft (fld (0 : BitVec 32) 0 20)).getD default).1, (((started
      (stateOf qSearch) cmd).newProgress 5 2 0).getD default).2, ((((((started (stateOf qSearch) cmd).newProgress 5 2 0).getD
      default).2).openDraft (fld (0 : BitVec 32) 0 20)).getD default).2, rfl, by decide +kernel, rfl⟩,
   ⟨stateOf qSearch, cmd, 0, 0, [1], RtEntry.ofBits (BitVec.ofNat 128 (15 * 2 ^ 124)), 0, ((started (stateOf qSearch)
      cmd).translate 0 (fld (0 : BitVec 16) 0 12) true {} (fld (0 : BitVec 64) 0 60)).2, by decide +kernel, (by simp; decide)⟩,
   ⟨stateOf qSearch, cmd, BitVec.ofNat 512 (2 ^ 508 + 1024 * 2 ^ 371 + 2 ^ 227), (((started (stateOf qSearch) cmd).newProgress 6
      3 (Fe.blocks (BitVec.ofNat 512 (2 ^ 508 + 1024 * 2 ^ 371 + 2 ^ 227)) * (if Fe.build (BitVec.ofNat 512 (2 ^ 508 + 1024 *
      2 ^ 371 + 2 ^ 227)) then 2 else 1))).getD default).1, (((started (stateOf qSearch) cmd).newProgress 6 3 (Fe.blocks
      (BitVec.ofNat 512 (2 ^ 508 + 1024 * 2 ^ 371 + 2 ^ 227)) * (if Fe.build (BitVec.ofNat 512 (2 ^ 508 + 1024 * 2 ^ 371 + 2 ^
      227)) then 2 else 1))).getD default).2, by decide +kernel⟩⟩

/-- The hypotheses of LinkTrainingTakesEffect can be met. -/
theorem witness_LinkTrainingTakesEffect :
    (∃ (s : State) (h : HalfPort) (q : Qf), q = s.qf.applyMode h ∧ s.qf.running = true ∧ s.qf.pwr.failState = 0 ∧
      q.pwr.failState = 0 ∧ TrainsIn q h .detect) ∧
    (∃ (s : State) (h : HalfPort), TrainsIn s.qf h .equalize) ∧
    (∃ (s : State) (h : HalfPort), TrainsIn s.qf h .frameLock) ∧
    (∃ (s : State) (h : HalfPort), TrainsIn s.qf h .capability ∧ s.qf.portMode h = 2) ∧
    (∃ (s : State) (h : HalfPort) (c : CapMsg) (v : BitVec 8) (q1 : Qf), q1 = s.qf.takeFree.2.updLink h (fun l =>
      { l with version := v, profile := if c.qfpm then 2 else 1, peerEp := c.ep, peerBooted := c.booted, peerQf := c.isQf960 && !c.qfpm, peerFull := c.fullRate, trayProt := c.qfpm && c.protect, trayChannels := if c.qfpm then c.channels.toNat else 0, trayCapacity := if c.qfpm then c.capacity.toNat else 0, lastControl := s.qf.now, sess := { num := s.qf.freeCount, helloSent := true, anchors := s.qf.linkAnchors, initiator := decide (s.qf.ownEp < c.ep) } })
      ∧ TrainsIn s.qf h .capability ∧ s.qf.portMode h ≠ 2 ∧ commonVersion (s.qf.link h).par.offered c.versions = some v ∧
      (s.qf.part.booted = true → c.booted = true → c.partitionId = s.qf.part.id) ∧ (c.qfpm = true → capTrayOk c = true)) ∧
    (∃ (s : State) (h : HalfPort) (c : HelloMsg) (q1 : Qf), q1 = s.qf.updLink h (fun l =>
      { l with sess := { l.sess with helloSeen := some c } }) ∧ TrainsIn s.qf h .session ∧ (s.qf.link h).peerEp ≠ s.qf.ownEp ∧
      (s.qf.link h).sess.helloSeen = none) ∧
    (∃ (s : State) (h : HalfPort) (ct : List Byte) (x y : Session), x = (s.qf.link h).sess ∧ y =
      { x with kem := ct, th := ({ x with kem := ct } : Session).transcript } ∧ TrainsIn s.qf h .session ∧ x.helloSeen.isSome
      = true ∧ x.kem = []) ∧
    (∃ (s : State) (h : HalfPort) (x : Session) (q1 : Qf), x = (s.qf.link h).sess ∧ q1 = s.qf.updLink h (fun l =>
      { l with lastControl := s.qf.now, sess := { x with active := true, tx := x.keys.1, rx := x.keys.2, peerPrint := (sha512 (Config.chainLeaf ((x.helloSeen.map HelloMsg.mldsaChain).getD []))).take 32 } })
      ∧ TrainsIn s.qf h .session ∧ x.th ≠ []) ∧
    (∃ (s : State) (h : HalfPort) (cs : List (BitVec 14)) (q1 : Qf), q1 = s.qf.updLink h (fun l =>
      { l with tx := { advertised := cs, creditsIn := true }, rx := { staged := l.rx.staged, ctl := l.rx.ctl } }) ∧ creditsOk
      cs = true ∧ TrainsIn s.qf h .creditInit) ∧
    (∃ (s : State) (h : HalfPort) (cs : List (BitVec 14)) (q1 : Qf), q1 = s.qf.updLink h (fun l =>
      { l with tx := { advertised := cs, creditsIn := true }, rx := { staged := l.rx.staged, ctl := l.rx.ctl } }) ∧ creditsOk
      cs = true ∧ TrainsIn s.qf h .session ∧ (s.qf.link h).profile = 2 ∧ (s.qf.link h).par.sessionRequired = false ∧
      (s.qf.link h).sess.helloSeen = none) ∧
    (∃ (s : State) (h : HalfPort) (l : Link) (q1 : Qf), l = s.qf.link h ∧ q1 = (if l.state = .active then s.qf.updLink h (fun
      l => l.sendControl s.qf.now 6) else s.qf) ∧ s.qf.running = true ∧ l.live = true ∧ l.rate = 1 ∧ l.peerFull = true ∧
      (s.qf.boot.phase = .reduced ∨ s.qf.boot.phase = .full) ∧ l.rateFails < 3) ∧
    (∃ (s : State) (h : HalfPort) (l : Link) (q1 : Qf), l = s.qf.link h ∧ q1 = (if l.state = .active then s.qf.updLink h (fun
      l => l.sendControl s.qf.now 6) else s.qf) ∧ s.qf.running = true ∧ l.live = true ∧ l.rate = 1 ∧ l.peerFull = true ∧
      (s.qf.boot.phase = .reduced ∨ s.qf.boot.phase = .full) ∧ l.rateFails < 3 ∧ l.rateFails < 2) ∧
    (∃ (s : State) (h : HalfPort) (l : Link) (q1 : Qf), l = s.qf.link h ∧ q1 = (if l.state = .active then s.qf.updLink h (fun
      l => l.sendControl s.qf.now 6) else s.qf) ∧ s.qf.running = true ∧ l.live = true ∧ l.rate = 1 ∧ l.peerFull = true ∧
      (s.qf.boot.phase = .reduced ∨ s.qf.boot.phase = .full) ∧ l.rateFails < 3 ∧ l.rateFails = 2) ∧
    (∃ (s : State), s.qf.running = true) ∧
    (∃ (s : State) (h : HalfPort) (t : Nat), s.qf.running = true ∧ (s.qf.link h).state.limit = some t ∧ (s.qf.link h).since +
      t ≤ s.qf.now) ∧
    (∃ (s : State) (h : HalfPort), s.qf.running = true ∧ (s.qf.link h).state ≠ .detect ∧ (s.qf.link h).state ≠ .equalize) ∧
    (∃ (s : State) (h : HalfPort), s.qf.running = true ∧ ((s.qf.link h).state = .capability ∨ (s.qf.link h).state = .session ∨
      (s.qf.link h).state = .creditInit) ∧ (s.qf.link h).lastControl + 1000 ≤ s.qf.now) :=
  ⟨⟨stateOf qTrain, 0, _, rfl, by decide +kernel⟩,
   ⟨stateOf qTrain, 2, by decide +kernel⟩,
   ⟨stateOf qTrain, 4, by decide +kernel⟩,
   ⟨stateOf qTrain, 6, by decide +kernel⟩,
   ⟨stateOf qTrain, 8, { versions := 7 }, (commonVersion ((stateOf qTrain).qf.link (8 : HalfPort)).par.offered ({ versions := 7 }
      : CapMsg).versions).getD default, _, rfl, by decide +kernel⟩,
   ⟨stateOf qTrain, 10, default, _, rfl, by decide +kernel⟩,
   ⟨stateOf qTrain, 12, [], _, _, rfl, rfl, by decide +kernel⟩,
   ⟨stateOf qTrain, 14, _, _, rfl, rfl, by decide +kernel⟩,
   ⟨stateOf qTrain, 16, (creditsOf false).map (BitVec.ofNat 14), _, rfl, by decide +kernel⟩,
   ⟨stateOf qTrain, 18, (creditsOf false).map (BitVec.ofNat 14), _, rfl, by decide +kernel⟩,
   ⟨stateOf qTrain, 20, _, _, rfl, rfl, by decide +kernel⟩,
   ⟨stateOf qTrain, 20, _, _, rfl, rfl, by decide +kernel⟩,
   ⟨stateOf qTrain, 22, _, _, rfl, rfl, by decide +kernel⟩,
   ⟨stateOf qTrain, by decide +kernel⟩,
   ⟨stateOf qTrain, 2, (((stateOf qTrain).qf.link (2 : HalfPort)).state.limit).getD default, by decide +kernel⟩,
   ⟨stateOf qTrain, 20, by decide +kernel⟩,
   ⟨stateOf qTrain, 8, by decide +kernel⟩⟩

set_option maxRecDepth 100000 in
/-- The hypotheses of LinkTrafficTakesEffect can be met. -/
theorem witness_LinkTrafficTakesEffect :
    (∃ (s : State) (h : HalfPort) (f : Flit) (l : Link) (slots : List (BitVec 128)) (q : Qf), l = s.qf.link h ∧ q =
      (s.qf.countFrame h).useHeader h f ∧ s.qf.running = true ∧ l.live = true ∧ l.profile ≠ 3 ∧ l.profile ≠ 4 ∧ l.openFlit f =
      some slots ∧ (q.link h).live = true ∧ flitSeq f = l.rx.expect ∧ flitType f = 1) ∧
    (∃ (s : State) (h : HalfPort) (f : Flit) (l : Link), l = s.qf.link h ∧ s.qf.running = true ∧ l.live = true ∧ l.profile ≠ 3
      ∧ l.profile ≠ 4 ∧ l.openFlit f = none) ∧
    (∃ (s : State) (h : HalfPort) (l : Link), l = s.qf.link h ∧ s.qf.running = true ∧ l.live = true ∧ l.tx.replay ≠ [] ∧
      l.tx.lastAck + l.par.replayTimeout.toNat ≤ s.qf.now) ∧
    (∃ (s : State) (h : HalfPort) (l : Link) (n : Nat), l = s.qf.link h ∧ n = max 1 l.par.rekeyInterval.toNat ∧ s.qf.running =
      true ∧ l.live = true ∧ l.sess.active = true ∧ l.version = 0x20 ∧ l.sess.rx.oldKey = none) ∧
    (∃ (s : State) (h : HalfPort) (l : Link) (n : Nat), l = s.qf.link h ∧ n = max 1 l.par.rekeyInterval.toNat ∧ s.qf.running =
      true ∧ l.live = true ∧ l.sess.active = true ∧ l.version = 0x20) ∧
    (∃ (s : State) (h : HalfPort) (c : TimeMsg), s.qf.running = true ∧ (s.qf.link h).timed = true ∧ (s.qf.link h).peerQf =
      true ∧ c.kind = 1) ∧
    (∃ (s : State) (h : HalfPort) (c : TimeMsg), s.qf.running = true ∧ (s.qf.link h).timed = true ∧ (s.qf.link h).peerQf =
      true ∧ c.kind = 2 ∧ s.qf.timeParent = some h ∧ c.seq = s.qf.obs.exchSeq ∧ s.qf.obs.reqT1 = some c.t1) ∧
    (∃ (s : State) (p : Packet), p.destEp = s.qf.ownEp ∧ (s.qf.inService = true ∨ (s.qf.running = true ∧ s.qf.pwr.failState =
      1))) ∧
    (∃ (s : State) (c : CxlReq) (a : BitVec 60) (p : Packet) (owned : List (BitVec 60)), owned = (s.qf.link
      c.halfport).cxl.owned ∧ p =
      { opcode := if c.want = 2 then Opc.rdOwn else if c.want = 1 then Opc.rdShared else Opc.rdNc, tag := c.tag, addr := a, srcEp := (s.qf.link c.halfport).peerEp }
      ∧ HostAsks s.qf c a p) ∧
    (∃ (s : State) (c : CxlReq) (a : BitVec 60) (p : Packet) (owned : List (BitVec 60)), owned = (s.qf.link
      c.halfport).cxl.owned ∧ p =
      { opcode := Opc.wrNc, tag := c.tag, addr := a, srcEp := (s.qf.link c.halfport).peerEp, aux := some { byteMask := c.mask } }
      ∧ HostAsks s.qf c a p) ∧
    (∃ (s : State) (c : CxlReq) (a : BitVec 60) (p : Packet) (owned : List (BitVec 60)), owned = (s.qf.link
      c.halfport).cxl.owned ∧ p = { opcode := Opc.wrFullNc, tag := c.tag, addr := a, srcEp := (s.qf.link c.halfport).peerEp }
      ∧ a ∉ owned ∧ HostAsks s.qf c a p) ∧
    (∃ (s : State) (c : CxlReq) (a : BitVec 60) (p : Packet) (owned : List (BitVec 60)), owned = (s.qf.link
      c.halfport).cxl.owned ∧ p = { opcode := Opc.wbDirty, tag := c.tag, addr := a, srcEp := (s.qf.link c.halfport).peerEp } ∧
      a ∈ owned ∧ HostAsks s.qf c a p) ∧
    (∃ (s : State) (h : HalfPort) (tag : Tag) (l : Link) (sn r : Packet) (line : BitVec 60), l = s.qf.link h ∧ line = sn.addr
      &&& ~~~(63 : BitVec 60) ∧ r = { (s.qf.reply sn Opc.snpRspI) with srcEp := sn.destEp, far := false } ∧ s.qf.inService =
      true ∧ l.live = true ∧ l.profile = 3 ∧ l.snoops.find? (fun p => p.tag = tag) = some sn ∧ l.cxl.crossing line = false) ∧
    (∃ (s : State) (c : CxlTrayCpl) (l : Link) (o o' : CxlTrayOp), l = s.qf.link c.halfport ∧ o' =
      { o with left := o.left - 1, bad := o.bad || c.error, line := if c.kind = 0 then some c.data else o.line, side := if c.kind = 1 then some c.data else o.side }
      ∧ s.qf.inService = true ∧ l.live = true ∧ l.profile = 4 ∧ l.cxl.trayOps.find? (fun o => o.tag = c.tag) = some o ∧ o.read
      = decide (c.kind.toNat ≤ 1) ∧ o'.left = 0) ∧
    (∃ (s : State) (c : CxlTrayCpl) (l : Link) (o o' : CxlTrayOp), l = s.qf.link c.halfport ∧ o' =
      { o with left := o.left - 1, bad := o.bad || c.error, line := if c.kind = 0 then some c.data else o.line, side := if c.kind = 1 then some c.data else o.side }
      ∧ s.qf.inService = true ∧ l.live = true ∧ l.profile = 4 ∧ l.cxl.trayOps.find? (fun o => o.tag = c.tag) = some o ∧ o.read
      = decide (c.kind.toNat ≤ 1) ∧ o'.left ≠ 0) :=
  ⟨⟨stateOf qTraffic, 0, flit0, _, (((stateOf qTraffic).qf.link (0 : HalfPort)).openFlit flit0).getD default, _, rfl, rfl,
      by decide +kernel⟩,
   ⟨stateOf qTraffic, 0, default, _, rfl, by decide +kernel⟩,
   ⟨stateOf qTraffic, 2, _, rfl, by decide +kernel⟩,
   ⟨stateOf qTraffic, 4, _, _, rfl, rfl, by decide +kernel⟩,
   ⟨stateOf qTraffic, 4, _, _, rfl, rfl, by decide +kernel⟩,
   ⟨stateOf qTraffic, 6, { kind := 1 }, by decide +kernel⟩,
   ⟨stateOf qTraffic, 6, { kind := 2 }, by decide +kernel⟩,
   ⟨stateOf qTraffic, default, by decide +kernel⟩,
   ⟨stateOf qTraffic, { halfport := 8, want := 2 }, 0, _, _, rfl, rfl, ⟨by decide +kernel, by decide +kernel, by decide +kernel,
      ⟨0, by decide +kernel⟩, by decide +kernel⟩⟩,
   ⟨stateOf qTraffic, { halfport := 8 }, 0, _, _, rfl, rfl, ⟨by decide +kernel, by decide +kernel, by decide +kernel, ⟨0,
      by decide +kernel⟩, by decide +kernel⟩⟩,
   ⟨stateOf qTraffic, { halfport := 8 }, 0, _, _, rfl, rfl, by decide +kernel, ⟨by decide +kernel, by decide +kernel,
      by decide +kernel, ⟨0, by decide +kernel⟩, by decide +kernel⟩⟩,
   ⟨stateOf qTraffic, { halfport := 8, hpa := 64 }, 64, _, _, rfl, rfl, by decide +kernel, ⟨by decide +kernel, by decide +kernel,
      by decide +kernel, ⟨64, by decide +kernel⟩, by decide +kernel⟩⟩,
   ⟨stateOf qTraffic, 8, 0, _, (((stateOf qTraffic).qf.link (8 : HalfPort)).snoops.find? (fun p => p.tag = (0 : Tag))).getD
      default, _, _, rfl, rfl, rfl, by decide +kernel⟩,
   ⟨stateOf qTraffic, { halfport := 10 }, _, (((stateOf qTraffic).qf.link ({ halfport := 10 } :
      CxlTrayCpl).halfport).cxl.trayOps.find? (fun o => o.tag = ({ halfport := 10 } : CxlTrayCpl).tag)).getD default, _, rfl,
      rfl, by decide +kernel⟩,
   ⟨stateOf qTraffic, { halfport := 12 }, _, (((stateOf qTraffic).qf.link ({ halfport := 12 } :
      CxlTrayCpl).halfport).cxl.trayOps.find? (fun o => o.tag = ({ halfport := 12 } : CxlTrayCpl).tag)).getD default, _, rfl,
      rfl, by decide +kernel⟩⟩

/-- The hypotheses of SwitchCommandsTakeEffect can be met. -/
theorem witness_SwitchCommandsTakeEffect :
    (∃ (s : State) (h : HalfPort) (vc : BitVec 3) (p : Packet) (o : Ingress) (r c : Bool × Qf), r = (took s (.half h)
      p).readCells ∧ c = (if vc = 0 then r.2.combine (.half h) p else (true, r.2)) ∧ s.qf.inService = true ∧
      s.qf.sw.stalled.any (fun u => u.inp = .half h && u.pkt.vc = vc) = false ∧ s.qf.stagedTransit h vc = some p ∧ s.qf.route
      p = some o ∧ s.qf.accepts (.half h) p [o] = true) ∧
    (∃ (s : State) (h : HalfPort) (vc : BitVec 3) (p : Packet) (o : Ingress) (r c : Bool × Qf), r = (took s (.half h)
      p).readCells ∧ c = (if vc = 0 then r.2.combine (.half h) p else (true, r.2)) ∧ s.qf.inService = true ∧
      s.qf.sw.stalled.any (fun u => u.inp = .half h && u.pkt.vc = vc) = false ∧ s.qf.stagedTransit h vc = some p ∧ s.qf.route
      p = some o ∧ s.qf.accepts (.half h) p [o] = true ∧ c.1 = true) ∧
    (∃ (s : State) (h : HalfPort) (vc : BitVec 3) (p : Packet) (o : Ingress) (r c : Bool × Qf), r = (took s (.half h)
      p).readCells ∧ c = (if vc = 0 then r.2.combine (.half h) p else (true, r.2)) ∧ s.qf.inService = true ∧
      s.qf.sw.stalled.any (fun u => u.inp = .half h && u.pkt.vc = vc) = false ∧ s.qf.stagedTransit h vc = some p ∧ s.qf.route
      p = some o ∧ s.qf.accepts (.half h) p [o] = true ∧ c.1 = false) ∧
    (∃ (s : State) (i : Ingress) (vc : BitVec 3), s.qf.inService = true ∧ s.qf.sw.stalled.any (fun u => u.inp = i && u.pkt.vc
      = vc) = true) ∧
    (∃ (s : State) (h : HalfPort) (q : Qf) (e : Egress) (c : Nat) (x : QPkt), q = s.qf.dropUnversioned h ∧ s.qf.running = true
      ∧ (s.qf.link h).state = .active ∧ q.choose h = (some (c, x), e)) ∧
    (∃ (s : State) (m : MgrRef) (first count : BitVec 16) (es : List (BitVec 64)), (MgrReady s.qf m ∧ first.toNat +
      count.toNat ≤ 16384 ∧ es.length = count.toNat) ∧ (∀ e ∈ es, routeOk e = true)) ∧
    (∃ (s : State) (m : MgrRef) (first count : BitVec 16) (es : List (BitVec 128)), (MgrReady s.qf m ∧ first.toNat +
      count.toNat ≤ 1024 ∧ es.length = count.toNat) ∧ (∀ e ∈ es, groupOk e = true)) ∧
    (∃ (s : State), s.qf.running = true ∧ s.qf.sw.previous.isSome = true ∧ s.qf.sw.prevSince + 1000000 ≤ s.qf.now) ∧
    (∃ (s : State) (h : HalfPort) (vc : BitVec 3) (q : Qf) (e : QPkt) (t : Nat), q = s.qf.noteWaits h ∧ s.qf.running = true ∧
      q.sw.queue.find? (fun e => e.out = .half h && e.pkt.vc = vc) = some e ∧ e.waitSince = some t ∧ t + q.sw.stuckTime.toNat
      ≤ q.now ∧ (h, vc) ∉ q.sw.stuck) ∧
    (∃ (s : State) (t : Tenant) (q : Qf) (x : Nat), q = s.qf.releasePoliced s.qf.sched.held.length t ∧ s.qf.inService = true ∧
      s.qf.policeOpen t = true ∧ q.sched.held.any (fun h => h.sent.tenant = t) = false ∧ (q.policer t).heldSince = some x) ∧
    (∃ (s : State) (h : HalfPort) (l : List (BitVec 64)) (cycle t : Nat), s.qf.running = true ∧ (s.qf.egress h).armed = some
      (l, cycle, t) ∧ t ≤ s.qf.now) :=
  ⟨⟨stateOf (qSwitch []), 0, 0, ((stateOf (qSwitch [])).qf.stagedTransit (0 : HalfPort) (0 : BitVec 3)).getD default, ((stateOf
      (qSwitch [])).qf.route (((stateOf (qSwitch [])).qf.stagedTransit (0 : HalfPort) (0 : BitVec 3)).getD default)).getD
      default, _, _, rfl, rfl, by decide +kernel⟩,
   ⟨stateOf (qSwitch []), 0, 0, ((stateOf (qSwitch [])).qf.stagedTransit (0 : HalfPort) (0 : BitVec 3)).getD default, ((stateOf
      (qSwitch [])).qf.route (((stateOf (qSwitch [])).qf.stagedTransit (0 : HalfPort) (0 : BitVec 3)).getD default)).getD
      default, _, _, rfl, rfl, by decide +kernel⟩,
   ⟨stateOf (qSwitch [{ first := { through with tag := 2 } }]), 0, 0, ((stateOf (qSwitch
      [{ first := { through with tag := 2 } }])).qf.stagedTransit (0 : HalfPort) (0 : BitVec 3)).getD default, ((stateOf
      (qSwitch [{ first := { through with tag := 2 } }])).qf.route (((stateOf (qSwitch
      [{ first := { through with tag := 2 } }])).qf.stagedTransit (0 : HalfPort) (0 : BitVec 3)).getD default)).getD default,
      _, _, rfl, rfl, by decide +kernel⟩,
   ⟨stateOf (qSwitch []), .unit 0, 0, by decide +kernel⟩,
   ⟨stateOf (qSwitch []), 2, _, (((stateOf (qSwitch [])).qf.dropUnversioned (2 : HalfPort)).choose (2 : HalfPort)).2,
      (((((stateOf (qSwitch [])).qf.dropUnversioned (2 : HalfPort)).choose (2 : HalfPort)).1).getD default).1, (((((stateOf
      (qSwitch [])).qf.dropUnversioned (2 : HalfPort)).choose (2 : HalfPort)).1).getD default).2, rfl, by decide +kernel⟩,
   ⟨stateOf (qSwitch []), cmd, 0, 1, [0], by decide +kernel, (by simp; decide)⟩,
   ⟨stateOf (qSwitch []), cmd, 0, 1, [0], by decide +kernel, (by simp; decide)⟩,
   ⟨stateOf (qSwitch []), by decide +kernel⟩,
   ⟨stateOf (qSwitch []), 4, 0, _, (((stateOf (qSwitch [])).qf.noteWaits (4 : HalfPort)).sw.queue.find? (fun e => e.out = .half
      (4 : HalfPort) && e.pkt.vc = (0 : BitVec 3))).getD default, (((((stateOf (qSwitch [])).qf.noteWaits (4 :
      HalfPort)).sw.queue.find? (fun e => e.out = .half (4 : HalfPort) && e.pkt.vc = (0 : BitVec 3))).getD
      default).waitSince).getD default, rfl, by decide +kernel⟩,
   ⟨stateOf (qSwitch []), 0, _, ((((stateOf (qSwitch [])).qf.releasePoliced (stateOf (qSwitch [])).qf.sched.held.length (0 :
      Tenant)).policer (0 : Tenant)).heldSince).getD default, rfl, by decide +kernel⟩,
   ⟨stateOf (qSwitch []), 0, ((((stateOf (qSwitch [])).qf.egress (0 : HalfPort)).armed).getD default).1, ((((stateOf (qSwitch
      [])).qf.egress (0 : HalfPort)).armed).getD default).2.1, ((((stateOf (qSwitch [])).qf.egress (0 : HalfPort)).armed).getD
      default).2.2, by decide +kernel⟩⟩

/-- The hypotheses of TableWritesReadBack can be met. -/
theorem witness_TableWritesReadBack :
    (∃ (s : State) (m : MgrRef) (first count : BitVec 16) (es : List (BitVec 64)), (MgrReady s.qf m ∧ first.toNat +
      count.toNat ≤ 16384 ∧ es.length = count.toNat) ∧ (∀ e ∈ es, routeOk e = true)) ∧
    (∃ (s : State) (m : MgrRef) (first count : BitVec 16) (es : List (BitVec 128)), (MgrReady s.qf m ∧ first.toNat +
      count.toNat ≤ 1024 ∧ es.length = count.toNat) ∧ (∀ e ∈ es, groupOk e = true)) :=
  ⟨⟨stateOf fullUp, cmd, 0, 1, [0], by decide +kernel, (by simp; decide)⟩,
   ⟨stateOf fullUp, cmd, 0, 1, [0], by decide +kernel, (by simp; decide)⟩⟩

/-- The hypotheses of DictionaryReadsTakeEffect can be met. -/
theorem witness_DictionaryReadsTakeEffect :
    (∃ (index : BitVec 16) (sub : BitVec 8) (e : Entry), AskMet (fun q x => Readable q x index sub e ∧ (q.valueFor x e).length
      ≤ 1128)) ∧
    (∃ (e : Entry), AskMet (fun q x => Readable q x 0x8101 0x01 e)) ∧
    (∃ (e : Entry), AskMet (fun q x => Readable q x 0x8200 0x02 e)) ∧
    (∃ (e : Entry), AskMet (fun q x => Readable q x 0x8020 0x01 e)) ∧
    (∃ (e : Entry), AskMet (fun q x => Readable q x 0x7010 0x04 e)) ∧
    (∃ (e : Entry), AskMet (fun q x => Readable q x 0x8311 0x02 e)) ∧
    (∃ (index : BitVec 16) (sub : BitVec 8) (e : Entry), AskMet (fun q x => Readable q x index sub e ∧ (q.valueFor x e).length
      ≤ 1024)) ∧
    (∃ (index : BitVec 16) (sub : BitVec 8) (g : Segment) (o : BitVec 64), AskMet (fun _ x => o ≠ 0 ∧ x.segs.find? (fun g =>
      g.is false index sub) = some g ∧ o.toNat ≤ g.data.length ∧ g.data.length ≤ o.toNat + 1024)) :=
  ⟨⟨0x3000, 1, (entryAt 0x3000 1).getD default, ⟨stateOf (qAg sess), {}, sess, by decide +kernel⟩⟩,
   ⟨(entryAt 0x8101 1).getD default, ⟨stateOf (qAg sess), {}, sess, by decide +kernel⟩⟩,
   ⟨(entryAt 0x8200 2).getD default, ⟨stateOf (qAg sess), {}, sess, by decide +kernel⟩⟩,
   ⟨(entryAt 0x8020 1).getD default, ⟨stateOf (qAg sess), {}, sess, by decide +kernel⟩⟩,
   ⟨(entryAt 0x7010 4).getD default, ⟨stateOf (qAg sess), {}, sess, by decide +kernel⟩⟩,
   ⟨(entryAt 0x8311 2).getD default, ⟨stateOf (qAg sess { dbg := { squalled := true } }), {}, sess, by decide +kernel⟩⟩,
   ⟨0x3000, 1, (entryAt 0x3000 1).getD default, ⟨stateOf (qAg sess), {}, sess, by decide +kernel⟩⟩,
   ⟨0x3000, 1, { write := false, index := 0x3000, sub := 1, data := [0, 0] }, 1, ⟨stateOf (qAg
      { sess with segs := [{ write := false, index := 0x3000, sub := 1, data := [0, 0] }] }), {},
      { sess with segs := [{ write := false, index := 0x3000, sub := 1, data := [0, 0] }] }, by decide +kernel⟩⟩⟩

/-- The hypotheses of DictionaryWritesTakeEffect can be met. -/
theorem witness_DictionaryWritesTakeEffect :
    (∃ (index : BitVec 16) (sub : BitVec 8) (v : List Byte) (e : Entry), (perSession index sub = true ∧ v.length ≤ 1128) ∧
      AskMet (fun q x => q.writeBar x index sub = .ok e ∧ v.length = e.type.width.getD 0 ∧ leNat v ≤ selectMax (entryKey index
      sub))) ∧
    (∃ (index : BitVec 16) (sub : BitVec 8) (v : List Byte) (e : Entry), (entryKey index sub ≠ 0x901001 ∧ v.length ≤ 1024) ∧
      AskMet (fun q x => q.writeBar x index sub = .ok e ∧ x.segs.find? (fun g => g.is true index sub) = none)) ∧
    (∃ (index : BitVec 16) (sub : BitVec 8) (o : BitVec 64) (v : List Byte) (e : Entry) (g : Segment), (o ≠ 0 ∧ v.length ≤
      1024 ∧ g.data.length = o.toNat) ∧ AskMet (fun q x => q.writeBar x index sub = .ok e ∧ x.segs.find? (fun g => g.is true
      index sub) = some g)) ∧
    (∃ (e : Entry), AskMet (fun q x => q.writeBar x 0x7020 0x01 = .ok e)) ∧
    (∃ (i : FwImage) (e : Entry) (k : Nat) (q1 : Qf → Qf), AskMet (fun q x => q.writeBar x 0x9010 0x01 = .ok e ∧ q.updateBar =
      0 ∧ q.newProgress 7 4 ((imageBytes i).length + 5139) = some (k, q1 q))) ∧
    (∃ (s : State) (port : Bool), s.qf.hostOn port = true ∧ s.qf.host.active = some port) ∧
    (∃ (index : BitVec 16) (sub : BitVec 8) (v w : List Byte) (e : Entry) (q' : Qf → AgSession → Qf) (ok : Qf → AgSession →
      Prop), perSession index sub = false ∧ v.length ≤ 1128 ∧ (∀ q x, ok q x ↔ q.writeBar x index sub = .ok e ∧ q.writeTyped e
      (x.sel (entryKey index sub)) v = ({}, q' q x)) ∧ AskMet ok ∧ AskMet (fun q x => ok q x ∧ x.version = 2 ∧ e.access ≠ .wo
      ∧ q.valueFor x e = w)) :=
  ⟨⟨0x3000, 0, [0], (entryAt 0x3000 0).getD default, by decide +kernel, ⟨stateOf (qAg sess), {}, sess, by decide +kernel⟩⟩,
   ⟨0x3000, 1, [0], (entryAt 0x3000 1).getD default, by decide +kernel, ⟨stateOf (qAg sess), {}, sess, by decide +kernel⟩⟩,
   ⟨0x3000, 1, 1, [0], (entryAt 0x3000 1).getD default, { index := 0x3000, sub := 1, data := [0] }, by decide +kernel, ⟨stateOf
      (qAg { sess with segs := [{ index := 0x3000, sub := 1, data := [0] }] }), {},
      { sess with segs := [{ index := 0x3000, sub := 1, data := [0] }] }, by decide +kernel⟩⟩,
   ⟨(entryAt 0x7020 1).getD default, ⟨stateOf (qAg meterSess), {}, meterSess, by decide +kernel⟩⟩,
   ⟨{}, (entryAt 0x9010 1).getD default, 0, fun q => ((q.newProgress 7 4 ((imageBytes {}).length + 5139)).getD default).2,
      ⟨stateOf qFw, {}, sess, by decide +kernel⟩⟩,
   ⟨stateOf qEpoch, ((stateOf qEpoch).qf.host.active).getD default, by decide +kernel⟩,
   ⟨0x4030, 2, [60], (fullUp.valueFor sess ((entryAt 0x4030 2).getD default)), (entryAt 0x4030 2).getD default, fun q x =>
      (q.writeTyped ((entryAt 0x4030 2).getD default) (x.sel (entryKey 0x4030 2)) [60]).2, _, by decide, by decide, fun _ _ =>
      Iff.rfl, ⟨stateOf (qAg sess), {}, sess, by decide +kernel⟩, ⟨stateOf (qAg sess), {}, sess, by decide +kernel⟩⟩⟩

/-- The hypotheses of SessionCommandsTakeEffect can be met. -/
theorem witness_SessionCommandsTakeEffect :
    (∃ (s : State) (c : DtlsMsg), s.qf.agLive = true ∧ c.suite = 0x1302 ∧ c.group = 0x0018 ∧ c.scheme = 0x0806 ∧ c.cookie =
      true ∧ s.qf.session c.session = none) ∧
    (∃ (s : State) (a : AgwenRef) (vs : BitVec 8) (lo hi : BitVec 16) (x : AgSession) (q : Qf) (v r : Nat), q = heard s.qf a ∧
      Awaits s.qf a x 1 ∧ (q.mgmt.sessions.filter (fun y => 2 ≤ y.phase)).length < 16 ∧ helloChoice vs lo hi = some (v, r)) ∧
    (∃ (s : State) (a : AgwenRef) (x : AgSession) (q : Qf), q = heard s.qf a ∧ Awaits s.qf a x 2) ∧
    (AskMet (fun _ _ => True)) ∧
    (∃ (mask : BitVec 32), AskMet (fun _ _ => mask.toNat ≤ 63)) ∧
    (AskMet (fun _ _ => True)) ∧
    (∃ (s : State) (a : AgwenRef) (x : AgSession) (q : Qf), q = heard s.qf a ∧ Fresh s.qf a x) ∧
    (∃ (s : State), s.qf.agLive = true) ∧
    (∃ (s : State) (n : Nat) (x : AgSession) (seq : BitVec 32) (body : List Byte) (t k : Nat), s.qf.agLive = true ∧
      s.qf.session n = some x ∧ x.events = [(seq, body, t, k)] ∧ t + 200000000 ≤ s.qf.now ∧ k ≤ 5) ∧
    (∃ (s : State) (n : Nat) (x : AgSession) (g : Segment), s.qf.session n = some x ∧ x.segs = [g] ∧ g.write = true ∧ g.last +
      10000000000 ≤ s.qf.now) :=
  ⟨⟨stateOf qSessions, { session := 9, suite := 0x1302, group := 0x0018, scheme := 0x0806, cookie := true }, by decide +kernel⟩,
   ⟨stateOf qSessions, default, 3, 1, 2, { sess with phase := 1 }, _, 2, 2, rfl, by decide +kernel⟩,
   ⟨stateOf qSessions, { session := 1 }, { sess with id := 1, phase := 2 }, _, rfl, by decide +kernel⟩,
   ⟨stateOf (qAg sess), {}, sess, by decide +kernel⟩,
   ⟨0, ⟨stateOf (qAg sess), {}, sess, by decide +kernel⟩⟩,
   ⟨stateOf (qAg sess), {}, sess, by decide +kernel⟩,
   ⟨stateOf (qAg sess), default, sess, _, rfl, by decide +kernel⟩,
   ⟨stateOf qSessions, by decide +kernel⟩,
   ⟨stateOf qSessions, 2, { sess with id := 2, events := [(1, [], 0, 0)] }, 1, [], 0, 0, by decide +kernel⟩,
   ⟨stateOf qSessions, 3, { sess with id := 3, segs := [{}] }, {}, by decide +kernel⟩⟩

/-- The hypotheses of ManagementNetworkTakesEffect can be met. -/
theorem witness_ManagementNetworkTakesEffect :
    (∃ (s : State) (port : Bool) (up : List Bool), up = setPort s.qf.mgmt.mgUp (!port) false ∧ s.qf.agLive = true ∧
      s.qf.mgmt.activePort = !port ∧ getPort up port false = true) ∧
    (∃ (s : State) (port : Bool) (up : List Bool), up = setPort s.qf.mgmt.mgUp port true ∧ s.qf.agLive = true ∧ getPort up
      s.qf.mgmt.activePort false = true) ∧
    (∃ (s : State) (port : Bool) (up : List Bool), up = setPort s.qf.mgmt.mgUp port true ∧ s.qf.agLive = true ∧ getPort up
      s.qf.mgmt.activePort false = false) ∧
    (∃ (s : State) (v6 : Bool) (n : BitVec 32) (t : Nat), t = s.qf.now + n.toNat * 1000000000 ∧ s.qf.agLive = true ∧ leases
      s.qf.mgmt.addrMode v6 = true) ∧
    (∃ (s : State) (t : Nat), s.qf.agLive = true ∧ t ≤ s.qf.now ∧ s.qf.mgmt.lease6 = some t) ∧
    (∃ (s : State) (t : Nat), s.qf.agLive = true ∧ t ≤ s.qf.now ∧ s.qf.mgmt.lease4 = some t) ∧
    (∃ (s : State) (a : BitVec 32) (b : BitVec 128) (mac : List Byte), mac = Config.macOf s.qf.mgmt.activePort ∧ s.qf.agLive =
      true ∧ a ≠ 0 ∧ b ≠ 0 ∧ bitsOf 32 (s.qf.mgmt.ipv4.take 4) = a) ∧
    (∃ (s : State) (a : BitVec 32) (b : BitVec 128) (mac : List Byte), mac = Config.macOf s.qf.mgmt.activePort ∧ s.qf.agLive =
      true ∧ a ≠ 0 ∧ b ≠ 0 ∧ bitsOf 128 (s.qf.mgmt.ipv6.take 16) = b) :=
  ⟨⟨stateOf qNet, true, _, rfl, by decide +kernel⟩,
   ⟨stateOf qNet, false, _, rfl, by decide +kernel⟩,
   ⟨stateOf fullUp, true, _, rfl, by decide +kernel⟩,
   ⟨stateOf qNet, false, 0, _, rfl, by decide +kernel⟩,
   ⟨stateOf qNet, ((stateOf qNet).qf.mgmt.lease6).getD default, by decide +kernel⟩,
   ⟨stateOf qNet, ((stateOf qNet).qf.mgmt.lease4).getD default, by decide +kernel⟩,
   ⟨stateOf qNet, bitsOf 32 [1, 2, 3, 4], bitsOf 128 (List.replicate 16 1), _, rfl, by decide +kernel⟩,
   ⟨stateOf qNet, bitsOf 32 [1, 2, 3, 4], bitsOf 128 (List.replicate 16 1), _, rfl, by decide +kernel⟩⟩

/-- The hypotheses of FenceMessagesTakeEffect can be met. -/
theorem witness_FenceMessagesTakeEffect :
    (∃ (s : State) (h : HalfPort) (l : Link) (q : Qf), l = s.qf.link h ∧ q = inFlt (s.qf.takeOp h Opc.heartbeat) (fun f =>
      { f with heard := f.heard.set l.peerEp.toNat (s.qf.takeOp h Opc.heartbeat).now }) ∧ s.qf.inService = true ∧ l.live =
      true ∧ l.peerQf = true ∧ q.suspects l.peerEp = true) ∧
    (∃ (s : State) (h : HalfPort) (l : Link) (q : Qf), l = s.qf.link h ∧ q = inFlt (s.qf.takeOp h Opc.heartbeat) (fun f =>
      { f with heard := f.heard.set l.peerEp.toNat (s.qf.takeOp h Opc.heartbeat).now }) ∧ s.qf.inService = true ∧ l.live =
      true ∧ l.peerQf = true ∧ q.suspects l.peerEp = false) ∧
    (∃ (s : State) (q : Qf), q = inFlt s.qf (fun f => { f with lastBeat := s.qf.now }) ∧ s.qf.inService = true ∧
      s.qf.flt.lastBeat + s.qf.flt.heartbeat.toNat ≤ s.qf.now) ∧
    (∃ (s : State) (x : Ep), s.qf.inService = true ∧ s.qf.isNeighbour x = true ∧ s.qf.isSilent x = true ∧ x ≠ s.qf.ownEp ∧ x ∉
      s.qf.flt.fencedEps ∧ x ∉ s.qf.flt.suspected ∧ s.qf.flt.mode = 0) ∧
    (∃ (s : State) (x : Ep), s.qf.inService = true ∧ s.qf.isNeighbour x = true ∧ s.qf.isSilent x = true ∧ x ≠ s.qf.ownEp ∧ x ∉
      s.qf.flt.fencedEps ∧ x ∉ s.qf.flt.suspected ∧ s.qf.flt.mode ≠ 0 ∧ (∀ p ∈ s.qf.flt.proposals, p.suspect = x →
      s.qf.ownEp.toNat ≤ p.proposer.toNat)) ∧
    (∃ (s : State) (h : HalfPort) (p : Packet) (x : Ep) (q : Qf), Floods s h p x q ∧ x ≠ q.ownEp ∧ q.isNeighbour x = true ∧
      p.srcEp ≠ q.ownEp ∧ (∀ y ∈ q.flt.proposals, y.suspect = x → y.proposer ≠ q.ownEp ∧ y.proposer ≠ p.srcEp) ∧ (q.flt.mode =
      0 ∨ q.suspects x = false)) ∧
    (∃ (s : State) (h : HalfPort) (p : Packet) (x : Ep) (q r : Qf), r = inFlt q (fun f =>
      { f with proposals := f.proposals ++ [{ suspect := x, proposer := p.srcEp, opened := q.now, evidence := BitVec.ofNat 4 (fenceUp p.payload) }] })
      ∧ Floods s h p x q ∧ x ≠ q.ownEp ∧ q.isNeighbour x = true ∧ p.srcEp ≠ q.ownEp ∧ (∀ y ∈ q.flt.proposals, y.suspect = x →
      y.proposer ≠ q.ownEp ∧ y.proposer ≠ p.srcEp) ∧ q.flt.mode ≠ 0 ∧ q.suspects x = true) ∧
    (∃ (s : State) (p : Packet) (h : HalfPort), s.qf.inService = true ∧ s.qf.stagedAt p = some h ∧ p.destEp ≠ s.qf.ownEp) ∧
    (∃ (s : State) (p : Packet) (h : HalfPort) (q : Qf) (x : Ep) (y : Proposal), q = s.qf.take (.half h) p ∧ x = fenceSuspect
      p.payload ∧ s.qf.inService = true ∧ s.qf.stagedAt p = some h ∧ p.destEp = s.qf.ownEp ∧ q.flt.proposals.find? (fun y =>
      y.is x q.ownEp) = some y ∧ fenceUp p.payload % 2 = 1 ∧ p.srcEp ∉ y.votes ∧ p.srcEp ≠ x ∧ q.now ≤ y.opened + 1000000) ∧
    (∃ (s : State) (x by_ : Ep) (y : Proposal) (q : Qf), q = inFlt s.qf (fun f =>
      { f with proposals := f.proposals.filter (fun y => !y.is x by_) }) ∧ s.qf.inService = true ∧ s.qf.flt.proposals.find?
      (fun y => y.is x by_) = some y ∧ y.opened + 1000000 ≤ s.qf.now ∧ by_ = s.qf.ownEp) ∧
    (∃ (s : State) (x by_ : Ep) (y : Proposal) (q : Qf), q = inFlt s.qf (fun f =>
      { f with proposals := f.proposals.filter (fun y => !y.is x by_) }) ∧ s.qf.inService = true ∧ s.qf.flt.proposals.find?
      (fun y => y.is x by_) = some y ∧ y.opened + 1000000 ≤ s.qf.now ∧ by_ ≠ s.qf.ownEp ∧ y.voted = false) ∧
    (∃ (s : State) (x by_ : Ep) (y : Proposal) (q : Qf), q = inFlt s.qf (fun f =>
      { f with proposals := f.proposals.filter (fun y => !y.is x by_) }) ∧ s.qf.inService = true ∧ s.qf.flt.proposals.find?
      (fun y => y.is x by_) = some y ∧ y.opened + 1000000 ≤ s.qf.now ∧ by_ ≠ s.qf.ownEp ∧ y.voted = true) ∧
    (∃ (s : State) (h : HalfPort) (p : Packet) (x : Ep) (q : Qf), Floods s h p x q) :=
  ⟨⟨stateOf (qFence 1 [(0, 0)]), 0, _, _, rfl, rfl, by decide +kernel⟩,
   ⟨stateOf (qFence 1), 0, _, _, rfl, rfl, by decide +kernel⟩,
   ⟨stateOf (qFence 1), _, rfl, by decide +kernel⟩,
   ⟨stateOf (qFence 0), 5, by decide +kernel⟩,
   ⟨stateOf (qFence 1), 5, by decide +kernel⟩,
   ⟨stateOf (qFence 0), 0, fenceMsg Opc.fencePropose, fenceSuspect (fenceMsg Opc.fencePropose).payload, (((stateOf (qFence
      0)).qf.take (.half (0 : HalfPort)) (fenceMsg Opc.fencePropose)).noteFence (fenceMsg Opc.fencePropose).opcode
      (fenceSuspect (fenceMsg Opc.fencePropose).payload) (fenceMsg Opc.fencePropose).srcEp).flood (fenceMsg
      Opc.fencePropose).opcode (fenceMsg Opc.fencePropose).srcEp (fenceMsg Opc.fencePropose).payload (some (0 : HalfPort)),
      by decide +kernel⟩,
   ⟨stateOf (qFence 1), 0, fenceMsg Opc.fencePropose, fenceSuspect (fenceMsg Opc.fencePropose).payload, (((stateOf (qFence
      1)).qf.take (.half (0 : HalfPort)) (fenceMsg Opc.fencePropose)).noteFence (fenceMsg Opc.fencePropose).opcode
      (fenceSuspect (fenceMsg Opc.fencePropose).payload) (fenceMsg Opc.fencePropose).srcEp).flood (fenceMsg
      Opc.fencePropose).opcode (fenceMsg Opc.fencePropose).srcEp (fenceMsg Opc.fencePropose).payload (some (0 : HalfPort)), _,
      rfl, by decide +kernel⟩,
   ⟨stateOf (qFence 1), vote 1, 0, by decide +kernel⟩,
   ⟨stateOf (qFence 1), vote 0, 0, _, _, (((stateOf (qFence 1)).qf.take (.half (0 : HalfPort)) (vote 0)).flt.proposals.find? (fun
      y => y.is (fenceSuspect (vote 0).payload) ((stateOf (qFence 1)).qf.take (.half (0 : HalfPort)) (vote 0)).ownEp)).getD
      default, rfl, rfl, by decide +kernel⟩,
   ⟨stateOf (qFence 1), 7, 0, ((stateOf (qFence 1)).qf.flt.proposals.find? (fun y => y.is (7 : Ep) (0 : Ep))).getD default, _,
      rfl, by decide +kernel⟩,
   ⟨stateOf (qFence 1), 7, 9, ((stateOf (qFence 1)).qf.flt.proposals.find? (fun y => y.is (7 : Ep) (9 : Ep))).getD default, _,
      rfl, by decide +kernel⟩,
   ⟨stateOf (qFence 1), 8, 9, ((stateOf (qFence 1)).qf.flt.proposals.find? (fun y => y.is (8 : Ep) (9 : Ep))).getD default, _,
      rfl, by decide +kernel⟩,
   ⟨stateOf (qFence 1), 0, fenceMsg Opc.fenceCommit, fenceSuspect (fenceMsg Opc.fenceCommit).payload, (((stateOf (qFence
      1)).qf.take (.half (0 : HalfPort)) (fenceMsg Opc.fenceCommit)).noteFence (fenceMsg Opc.fenceCommit).opcode (fenceSuspect
      (fenceMsg Opc.fenceCommit).payload) (fenceMsg Opc.fenceCommit).srcEp).flood (fenceMsg Opc.fenceCommit).opcode (fenceMsg
      Opc.fenceCommit).srcEp (fenceMsg Opc.fenceCommit).payload (some (0 : HalfPort)), by decide +kernel⟩⟩

/-- The hypotheses of FaultEventsTakeEffect can be met. -/
theorem witness_FaultEventsTakeEffect :
    (∃ (s : State) (k : Sector) (q : Qf), q = s.qf.fault 7 { sector := k, unit := 8, status := Status.timeout.code } ∧
      s.qf.running = true) ∧
    (∃ (s : State), s.qf.running = true) ∧
    (∃ (s : State) (k : Sector) (u : UnitCode) (i : BitVec 4) (n d : Nat) (f : FaultInfo) (q r : Qf), n = (k.toNat * 16 +
      u.toNat) * 16 + i.toNat ∧ q = inFlt s.qf (fun f =>
      { f with unitTimes := (f.unitTimes.filter (fun (t : Nat × Nat) => t.1 != n)) ++ [(n, s.qf.now)] }) ∧ f =
      { sector := k, unit := u, status := Status.uncorrectable.code, detail := i.zeroExtend 16 } ∧ d = 5 * k.toNat + u.toNat -
      3 ∧ r = (q.fault 8 f).failUnit k u i ∧ s.qf.running = true ∧ 4 ≤ u.toNat ∧ u.toNat ≤ 7 ∧ (∀ t ∈ s.qf.flt.unitTimes, t.1
      = n → t.2 + 1000000000 < s.qf.now) ∧ r.domainOn d = true) ∧
    (∃ (s : State) (k : Sector) (u : UnitCode) (i : BitVec 4) (n d : Nat) (f : FaultInfo) (q r : Qf), n = (k.toNat * 16 +
      u.toNat) * 16 + i.toNat ∧ q = inFlt s.qf (fun f =>
      { f with unitTimes := (f.unitTimes.filter (fun (t : Nat × Nat) => t.1 != n)) ++ [(n, s.qf.now)] }) ∧ f =
      { sector := k, unit := u, status := Status.uncorrectable.code, detail := i.zeroExtend 16 } ∧ d = 5 * k.toNat + u.toNat -
      3 ∧ r = (q.fault 8 f).failUnit k u i ∧ s.qf.running = true ∧ 4 ≤ u.toNat ∧ u.toNat ≤ 7 ∧ (∃ t ∈ s.qf.flt.unitTimes, t.1
      = n ∧ s.qf.now ≤ t.2 + 1000000000) ∧ d ∉ r.pwr.offByFault) ∧
    (∃ (s : State) (k : Sector) (u : UnitCode) (i : BitVec 4) (n d : Nat) (f : FaultInfo) (q r : Qf), n = (k.toNat * 16 +
      u.toNat) * 16 + i.toNat ∧ q = inFlt s.qf (fun f =>
      { f with unitTimes := (f.unitTimes.filter (fun (t : Nat × Nat) => t.1 != n)) ++ [(n, s.qf.now)] }) ∧ f =
      { sector := k, unit := u, status := Status.uncorrectable.code, detail := i.zeroExtend 16 } ∧ d = 5 * k.toNat + u.toNat -
      3 ∧ r = (q.fault 8 f).failUnit k u i ∧ s.qf.running = true ∧ (u.toNat ≤ 3 ∨ u = 8) ∧ (∃ t ∈ s.qf.flt.unitTimes, t.1 = n
      ∧ s.qf.now ≤ t.2 + 1000000000)) ∧
    (∃ (s : State) (k : Sector) (u : UnitCode) (i : BitVec 4) (n d : Nat) (f : FaultInfo) (q r : Qf), n = (k.toNat * 16 +
      u.toNat) * 16 + i.toNat ∧ q = inFlt s.qf (fun f =>
      { f with unitTimes := (f.unitTimes.filter (fun (t : Nat × Nat) => t.1 != n)) ++ [(n, s.qf.now)] }) ∧ f =
      { sector := k, unit := u, status := Status.uncorrectable.code, detail := i.zeroExtend 16 } ∧ d = 5 * k.toNat + u.toNat -
      3 ∧ r = (q.fault 8 f).failUnit k u i ∧ s.qf.running = true ∧ (u.toNat ≤ 3 ∨ u = 8) ∧ (∀ t ∈ s.qf.flt.unitTimes, t.1 = n
      → t.2 + 1000000000 < s.qf.now)) ∧
    (∃ (s : State) (k : Sector) (u : UnitCode) (i : BitVec 4) (n d : Nat) (f : FaultInfo) (q r : Qf), n = (k.toNat * 16 +
      u.toNat) * 16 + i.toNat ∧ q = inFlt s.qf (fun f =>
      { f with unitTimes := (f.unitTimes.filter (fun (t : Nat × Nat) => t.1 != n)) ++ [(n, s.qf.now)] }) ∧ f =
      { sector := k, unit := u, status := Status.uncorrectable.code, detail := i.zeroExtend 16 } ∧ d = 5 * k.toNat + u.toNat -
      3 ∧ r = (q.fault 8 f).failUnit k u i ∧ s.qf.running = true ∧ 9 ≤ u.toNat ∧ u.toNat ≤ 12) ∧
    (∃ (s : State) (q : Qf), q = inDbg (inPwr s.qf (fun w => { w with inputUp := false })) (fun d =>
      { d with squalled := false }) ∧ s.qf.boot.phase ≠ .off ∧ s.qf.pwr.failState = 0) ∧
    (∃ (s : State) (d : BitVec 7), s.qf.zenithOn = true ∧ s.qf.pwr.failState = 0 ∧ d.toNat < domainCount) ∧
    (∃ (s : State) (q : Qf), q = (inPwr s.qf (fun w =>
      { w with failState := 2, lastDrainTime := BitVec.ofNat 64 (s.qf.now - w.t0), lastDrainBytes := BitVec.ofNat 64 w.drainBytes })).sessionEvent
      3 [2] ∧ s.qf.pwr.failState = 1 ∧ s.qf.protectedPending = 0) ∧
    (∃ (s : State) (q : Qf), q = (inPwr s.qf (fun w =>
      { w with failState := 2, lastDrainTime := BitVec.ofNat 64 (s.qf.now - w.t0), lastDrainBytes := BitVec.ofNat 64 w.drainBytes })).sessionEvent
      3 [2] ∧ s.qf.pwr.failState = 1 ∧ s.qf.protectedPending = 0 ∧ s.qf.pwr.resetHeld = false) ∧
    (∃ (s : State) (src : Ep) (tag : Tag) (r : OpenReq) (h : HalfPort) (q : Qf), q = (s.qf.resolved r
      Status.timeout.code).restale ∧ s.qf.inService = true ∧ src ≠ s.qf.ownEp ∧ s.qf.edge.reqs.find? (fun r => r.src = src &&
      r.tag = tag) = some r ∧ r.sentAt + s.qf.flt.requestTimeout.toNat ≤ s.qf.now ∧ r.ing = .half h) :=
  ⟨⟨stateOf qFault, 0, _, rfl, by decide +kernel⟩,
   ⟨stateOf qFault, by decide +kernel⟩,
   ⟨stateOf qFault, 0, 4, 0, _, _, _, _, _, rfl, rfl, rfl, rfl, rfl, by decide +kernel⟩,
   ⟨stateOf qFault, 0, 4, 1, _, _, _, _, _, rfl, rfl, rfl, rfl, rfl, by decide +kernel⟩,
   ⟨stateOf qFault, 0, 0, 0, _, _, _, _, _, rfl, rfl, rfl, rfl, rfl, by decide +kernel⟩,
   ⟨stateOf qFault, 0, 1, 0, _, _, _, _, _, rfl, rfl, rfl, rfl, rfl, by decide +kernel⟩,
   ⟨stateOf qFault, 0, 9, 0, _, _, _, _, _, rfl, rfl, rfl, rfl, rfl, by decide +kernel⟩,
   ⟨stateOf qFault, _, rfl, by decide +kernel⟩,
   ⟨stateOf qFault, 0, by decide +kernel⟩,
   ⟨stateOf qDrain, _, rfl, by decide +kernel⟩,
   ⟨stateOf qDrain, _, rfl, by decide +kernel⟩,
   ⟨stateOf qFault, 5, 0, ((stateOf qFault).qf.edge.reqs.find? (fun r => r.src = (5 : Ep) && r.tag = (0 : Tag))).getD default, 2,
      _, rfl, by decide +kernel⟩⟩

/-- The hypotheses of MeterEventsTakeEffect can be met. -/
theorem witness_MeterEventsTakeEffect :
    (∃ (s : State), s.qf.running = true ∧ s.qf.sec.ephemeralUntil ≤ s.qf.now) ∧
    (∃ (s : State), s.qf.running = true ∧ s.qf.sec.debugUntil ≠ 0 ∧ s.qf.sec.debugUntil.toNat ≤ s.qf.now) ∧
    (∃ (s : State) (k : Sector), s.qf.zenithOn = true ∧ s.qf.dbg.squalled = false ∧ s.qf.pwr.failState = 0 ∧
      s.qf.ens.flushed.get k.toNat 0 ≠ tapPeriod s.qf.now) ∧
    (∃ (s : State) (k : Sector) (r : BitVec 256), s.qf.ensignUp = true ∧ s.qf.ens.taps.find? (fun x => x.1 = k) = some (k, r)
      ∧ tapTime r < s.qf.ens.intervalEnd) ∧
    (∃ (s : State), s.qf.ensignUp = true ∧ s.qf.ens.intervalEnd ≤ s.qf.now) ∧
    (∃ (s : State) (x : (BitVec 64 × List Byte) × Qf), x = s.qf.closeInterval (s.qf.pwr.t0 + 5000) 2 ∧ s.qf.pwr.failState ≠ 0
      ∧ s.qf.ens.finalArea = none ∧ s.qf.pwr.t0 + 5000 ≤ s.qf.now) :=
  ⟨⟨stateOf qMeter, by decide +kernel⟩,
   ⟨stateOf qMeter, by decide +kernel⟩,
   ⟨stateOf qMeter, 0, by decide +kernel⟩,
   ⟨stateOf qMeter, 0, 0, by decide +kernel⟩,
   ⟨stateOf qMeter, by decide +kernel⟩,
   ⟨stateOf qDrain, _, rfl, by decide +kernel⟩⟩

/-- The hypotheses of HostRegistersTakeEffect can be met. -/
theorem witness_HostRegistersTakeEffect :
    (∃ (s : State) (port : Bool) (t : Tenant) (v : BitVec 64) (q : Qf), q = inEdge s.qf (fun e =>
      { e with records := e.records.set t.toNat (v &&& 0xFFFFFFFFFFFFFFC0), cache := e.cache.filter (fun c => c.tenant != t) })
      ∧ s.qf.hostOn port = true ∧ s.qf.host.active = some port ∧ s.qf.dbg.squalled = false ∧ recEnable v = true) ∧
    (∃ (s : State) (port : Bool) (t : Tenant) (v : BitVec 64) (q : Qf), q = inEdge s.qf (fun e =>
      { e with records := e.records.set t.toNat (v &&& 0xFFFFFFFFFFFFFFC0), cache := e.cache.filter (fun c => c.tenant != t) })
      ∧ s.qf.hostOn port = true ∧ s.qf.host.active = some port ∧ s.qf.dbg.squalled = false ∧ recEnable v = false ∧ (∀ x ∈
      q.qps.qps, x.2.ctx.tenant = t → x.2.ctx.state ≠ .ready)) ∧
    (∃ (s : State) (port : Bool) (t : Tenant) (v : BitVec 64) (q : Qf) (n : Nat) (x : Qp), q = inEdge s.qf (fun e =>
      { e with records := e.records.set t.toNat (v &&& 0xFFFFFFFFFFFFFFC0), cache := e.cache.filter (fun c => c.tenant != t) })
      ∧ x.ctx.tenant = t ∧ s.qf.hostOn port = true ∧ s.qf.host.active = some port ∧ s.qf.dbg.squalled = false ∧ recEnable v =
      false ∧ q.qps.qps = [(n, x)] ∧ x.ctx.state = .ready) ∧
    (∃ (s : State) (port : Bool) (o : BitVec 36) (n : Nat), s.qf.hostOn port = true ∧ s.qf.dbg.squalled = false ∧ 0x80000000 ≤
      o.toNat ∧ o.toNat + n ≤ 0x2C0000000) ∧
    (∃ (s : State) (port : Bool) (o : BitVec 36) (n : Nat), s.qf.hostOn port = true ∧ s.qf.dbg.squalled = false ∧ (o.toNat <
      0x80000000 ∨ 0x2C0000000 < o.toNat + n)) ∧
    (∃ (s : State) (port : Bool) (o : BitVec 36) (bs : List Byte), s.qf.hostOn port = true ∧ s.qf.host.active = some port ∧
      s.qf.dbg.squalled = false ∧ 0x80000000 ≤ o.toNat ∧ o.toNat + bs.length ≤ 0x280000000) ∧
    (∃ (s : State) (port : Bool) (o : BitVec 36) (bs : List Byte), s.qf.hostOn port = true ∧ s.qf.host.active = some port ∧
      s.qf.dbg.squalled = false ∧ (o.toNat < 0x80000000 ∨ 0x280000000 < o.toNat + bs.length)) ∧
    (∃ (s : State) (port : Bool) (k : BitVec 3) (v : BitVec 64) (q : Qf), q = s.qf.updMq port k (fun m =>
      { m with cmdProducer := fld v 48 16, cplConsumer := fld v 32 16 }) ∧ s.qf.hostOn port = true ∧ s.qf.host.active = some
      port) ∧
    (∃ (s : State) (port : Bool) (k : BitVec 3) (v c : BitVec 64), c = v &&& 0xFFFFF80000000000 ∧ s.qf.hostOn port = true ∧
      s.qf.host.active = some port ∧ cfgEnable (s.qf.mq port k).config = false ∧ cfgSizesOk c = true ∧ cfgEnable c = true) ∧
    (∃ (s : State) (port : Bool) (k : BitVec 3) (v c : BitVec 64), c = v &&& 0xFFFFF80000000000 ∧ s.qf.hostOn port = true ∧
      s.qf.host.active = some port ∧ cfgEnable (s.qf.mq port k).config = false ∧ cfgSizesOk c = true ∧ cfgEnable c = false) ∧
    (∃ (s : State) (port : Bool) (k : BitVec 3) (v : BitVec 64), s.qf.hostOn port = true ∧ s.qf.host.active = some port ∧
      cfgEnable (s.qf.mq port k).config = true ∧ cfgEnable v = false ∧ cfgSizesOk (s.qf.mq port k).config = true) ∧
    (∃ (s : State) (port : Bool) (v : BitVec 64) (q : Qf), q = inHost s.qf (fun h =>
      { h with eqConsumer := setPort h.eqConsumer port (fld v 48 16) }) ∧ s.qf.hostOn port = true ∧ s.qf.host.active = some
      port) ∧
    (∃ (s : State) (port : Bool) (v : BitVec 64), s.qf.hostOn port = true ∧ fld v 0 32 = s.qf.host.generation ∧ s.qf.unstarted
      = [] ∧ (∀ x ∈ s.qf.host.mqs, x.2.waiting = [])) :=
  ⟨⟨stateOf qHost, false, 0, 0x8000000000000000, _, rfl, by decide +kernel⟩,
   ⟨stateOf qHost, false, 0, 0, _, rfl, by decide +kernel⟩,
   ⟨stateOf (qQps [(0, ready)]), false, _, 0, _, 0, ready, rfl, rfl, by decide +kernel⟩,
   ⟨stateOf qHost, false, 0x80000000, 0, by decide +kernel⟩,
   ⟨stateOf qHost, false, 0, 0, by decide +kernel⟩,
   ⟨stateOf qHost, false, 0x80000000, [], by decide +kernel⟩,
   ⟨stateOf qHost, false, 0, [], by decide +kernel⟩,
   ⟨stateOf qHost, false, 0, 0, _, rfl, by decide +kernel⟩,
   ⟨stateOf qHost, false, 1, 0x8000000000000000, _, rfl, by decide +kernel⟩,
   ⟨stateOf qHost, false, 1, 0, _, rfl, by decide +kernel⟩,
   ⟨stateOf qHost, false, 0, 0, by decide +kernel⟩,
   ⟨stateOf qHost, false, 0, _, rfl, by decide +kernel⟩,
   ⟨stateOf qHost, false, 0, by decide +kernel⟩⟩

/-- The hypotheses of ManagerQueuesTakeEffect can be met. -/
theorem witness_ManagerQueuesTakeEffect :
    (∃ (s : State) (k : BitVec 3) (p : Bool) (x : Mq), x = s.qf.mq p k ∧ s.qf.host.active = some p ∧ s.qf.mgrLive = true ∧
      x.state = .running ∧ x.cmdProducer ≠ x.cmdConsumer) ∧
    (∃ (s : State) (k : BitVec 3) (p : Bool) (x : Mq) (q : Qf) (w : BitVec 1024) (f : Fetched), x = s.qf.mq p k ∧ f =
      { port := p, queue := k, index := x.cmdConsumer, words := w, generation := s.qf.host.generation } ∧ q = inHost
      (s.qf.updMq p k (fun m => { m with cmdConsumer := m.cmdConsumer + 1 })) (fun h =>
      { h with fetched := h.fetched ++ [f] }) ∧ s.qf.host.active = some p ∧ s.qf.mgrLive = true ∧ x.state = .running ∧
      x.cmdProducer ≠ x.cmdConsumer ∧ fld w 0 8 ∈ mgrOpcodes) ∧
    (∃ (s : State) (k : BitVec 3) (p : Bool) (x : Mq) (q : Qf) (w : BitVec 1024) (f : Fetched), x = s.qf.mq p k ∧ f =
      { port := p, queue := k, index := x.cmdConsumer, words := w, generation := s.qf.host.generation } ∧ q = inHost
      (s.qf.updMq p k (fun m => { m with cmdConsumer := m.cmdConsumer + 1 })) (fun h =>
      { h with fetched := h.fetched ++ [f] }) ∧ s.qf.host.active = some p ∧ s.qf.mgrLive = true ∧ x.state = .running ∧
      x.cmdProducer ≠ x.cmdConsumer ∧ fld w 0 8 ∉ mgrOpcodes) ∧
    (∃ (s : State) (m : MgrRef), MgrReady s.qf m) ∧
    (∃ (s : State) (p : Bool) (k : BitVec 3) (t : Nat), s.qf.mgrLive = true ∧ (s.qf.mq p k).state = .running ∧ (s.qf.mq p
      k).fullSince = some t ∧ t + 1000000000 ≤ s.qf.now) ∧
    (∃ (s : State) (n : BitVec 10) (p : Progress), s.qf.mgmt.progress.find? n.toNat = some p ∧ p.state ≠ 0 ∧ ((∃ t,
      p.readFinal = some t ∧ t + 60000000000 ≤ s.qf.now) ∨ (p.readFinal = none ∧ ∃ t, p.ended = some t ∧ t + 600000000000 ≤
      s.qf.now))) :=
  ⟨⟨stateOf qHost, 0, ((stateOf qHost).qf.host.active).getD default, _, rfl, by decide +kernel⟩,
   ⟨stateOf qHost, 0, ((stateOf qHost).qf.host.active).getD default, _, _, 1, _, rfl, rfl, rfl, by decide +kernel⟩,
   ⟨stateOf qHost, 0, ((stateOf qHost).qf.host.active).getD default, _, _, 0, _, rfl, rfl, rfl, by decide +kernel⟩,
   ⟨stateOf qHost, cmd, by decide +kernel⟩,
   ⟨stateOf qHost, false, 0, (((stateOf qHost).qf.mq false (0 : BitVec 3)).fullSince).getD default, by decide +kernel⟩,
   ⟨stateOf qHost, 0, ((stateOf qHost).qf.mgmt.progress.find? (0 : BitVec 10).toNat).getD default, by decide +kernel⟩⟩

/-- The hypotheses of ClockEventsTakeEffect can be met. -/
theorem witness_ClockEventsTakeEffect :
    (∃ (s : State) (h : HalfPort) (l : Link), l = s.qf.link h ∧ s.qf.timeParent = some h ∧ s.qf.running = true ∧ l.timed =
      false) ∧
    (∃ (s : State) (h : HalfPort) (l : Link) (c : TimeMsg), l = s.qf.link h ∧ c =
      { kind := 1, seq := s.qf.obs.exchSeq + 1, t1 := stamp80 s.qf.now } ∧ s.qf.timeParent = some h ∧ s.qf.running = true ∧
      l.timed = true ∧ (l.state = .creditInit → s.qf.obs.lastSync < l.since ∨ s.qf.obs.lastSync = 0) ∧ (l.state ≠ .creditInit
      → s.qf.obs.lastSync + s.qf.obs.syncInterval.toNat ≤ s.qf.now)) ∧
    (∃ (s : State) (stamp : BitVec 64) (near : Nat), near = (stamp.toNat + 500000000) / 1000000000 * 1000000000 ∧ s.qf.running
      = true ∧ s.qf.timeParent = none ∧ s.qf.obs.ppsIn = true) ∧
    (∃ (s : State) (t : Nat), s.qf.running = true ∧ s.qf.obs.ppsIn = true ∧ s.qf.obs.ppsState = 1 ∧ s.qf.obs.ppsLast = some t
      ∧ t + 1100000000 ≤ s.qf.now) ∧
    (∃ (s : State), s.qf.clockRuns = true ∧ s.qf.obs.ppsHigh = none ∧ s.qf.obs.ppsOut = true ∧ s.qf.now % 1000000000 <
      1000000) ∧
    (∃ (s : State) (t : Nat), s.qf.clockRuns = true ∧ s.qf.obs.ppsHigh = some t ∧ t + 1000000 ≤ s.qf.now) :=
  ⟨⟨stateOf { qTraffic with obs := { parent := 20 } }, ((stateOf { qTraffic with obs := { parent := 20 } }).qf.timeParent).getD
      default, _, rfl, by decide +kernel⟩,
   ⟨stateOf qTraffic, ((stateOf qTraffic).qf.timeParent).getD default, _, _, rfl, rfl, by decide +kernel⟩,
   ⟨stateOf qPps, 0, _, rfl, by decide +kernel⟩,
   ⟨stateOf qPps, ((stateOf qPps).qf.obs.ppsLast).getD default, by decide +kernel⟩,
   ⟨stateOf qPps, by decide +kernel⟩,
   ⟨stateOf (qPps (some 0)), 0, by decide +kernel⟩⟩

/-- The hypotheses of DebugPortCommandsTakeEffect can be met. -/
theorem witness_DebugPortCommandsTakeEffect :
    (∃ (s : State) (h : HalfPort) (p : Packet), s.qf.running = true ∧ (s.qf.link h).live = true ∧ (took s (.half h)
      p).dbg.accept = true) ∧
    (∃ (s : State) (h : HalfPort) (p : Packet), s.qf.running = true ∧ (s.qf.link h).live = true ∧ (took s (.half h)
      p).dbg.accept = false) ∧
    (∃ (s : State) (q : Qf), q = inDbg s.qf (fun d => { d with tapIr := 0x10 }) ∧ s.qf.boot.phase ≠ .off ∧ s.qf.boot.phase ≠
      .secFail ∧ s.qf.dbg.tapEnable = true ∧ q.running = true) ∧
    (∃ (s : State), s.qf.boot.phase ≠ .off ∧ s.qf.boot.phase ≠ .secFail ∧ s.qf.dbg.tapEnable = true) ∧
    (∃ (s : State), s.qf.boot.phase ≠ .off ∧ s.qf.boot.phase ≠ .secFail ∧ s.qf.dbg.tapEnable = true) ∧
    (∃ (s : State), s.qf.boot.phase ≠ .off ∧ s.qf.boot.phase ≠ .secFail ∧ s.qf.dbg.tapEnable = true ∧ s.qf.dbg.squalled = true
      ∧ s.qf.dbg.tapChain.toNat < 48) ∧
    (∃ (s : State), s.qf.boot.phase ≠ .off ∧ s.qf.boot.phase ≠ .secFail ∧ s.qf.dbg.tapEnable = true ∧ (s.qf.dbg.squalled =
      false ∨ 48 ≤ s.qf.dbg.tapChain.toNat)) ∧
    (∃ (s : State), s.qf.boot.phase ≠ .off ∧ (s.qf.dbg.tapEnable = false ∨ s.qf.boot.phase = .secFail)) ∧
    (∃ (s : State), s.qf.boot.phase ≠ .off ∧ (s.qf.dbg.tapEnable = false ∨ s.qf.boot.phase = .secFail)) ∧
    (∃ (s : State), s.qf.boot.phase ≠ .off) ∧
    (∃ (s : State), s.qf.boot.phase ≠ .off ∧ s.qf.boot.phase ≠ .secFail) ∧
    (∃ (s : State), s.qf.boot.phase ≠ .off ∧ s.qf.boot.phase ≠ .secFail ∧ s.qf.part.booted = false) ∧
    (∃ (s : State), s.qf.boot.phase ≠ .off ∧ (s.qf.boot.phase = .secFail ∨ s.qf.part.booted = true)) :=
  ⟨⟨stateOf (fullUp { dbg := { accept := true }, links := [(0, { state := .active })] }), 0, default, by decide +kernel⟩,
   ⟨stateOf qTraffic, 0, default, by decide +kernel⟩,
   ⟨stateOf (fullUp { dbg := { tapEnable := true } }), _, rfl, by decide +kernel⟩,
   ⟨stateOf (fullUp { dbg := { tapEnable := true, squalled := true }, links := [(0, { state := .active, peerQf := true })] }),
      by decide +kernel⟩,
   ⟨stateOf (fullUp { dbg := { tapEnable := true, squalled := true }, links := [(0, { state := .active, peerQf := true })] }),
      by decide +kernel⟩,
   ⟨stateOf (fullUp { dbg := { tapEnable := true, squalled := true }, links := [(0, { state := .active, peerQf := true })] }),
      by decide +kernel⟩,
   ⟨stateOf (fullUp { dbg := { tapEnable := true } }), by decide +kernel⟩,
   ⟨stateOf fullUp, by decide +kernel⟩,
   ⟨stateOf fullUp, by decide +kernel⟩,
   ⟨stateOf (fullUp { dbg := { tapEnable := true, squalled := true }, links := [(0, { state := .active, peerQf := true })] }),
      by decide +kernel⟩,
   ⟨stateOf (fullUp { dbg := { tapEnable := true, squalled := true }, links := [(0, { state := .active, peerQf := true })] }),
      by decide +kernel⟩,
   ⟨stateOf { fullUp with part := {} }, by decide +kernel⟩,
   ⟨stateOf (fullUp { dbg := { tapEnable := true, squalled := true }, links := [(0, { state := .active, peerQf := true })] }),
      by decide +kernel⟩⟩

/-- The hypotheses of SnapshotEventsTakeEffect can be met. -/
theorem witness_SnapshotEventsTakeEffect :
    (∃ (s : State) (h : HalfPort) (p : Packet) (o : Ep) (n : BitVec 32) (th : Nat), s.qf.inService = true ∧ (s.qf.link
      h).peerQf = true ∧ horizonOf p = (o, n, th) ∧ (o, n) ∈ (took s (.half h) p).dbg.hzSeen) ∧
    (∃ (s : State) (h : HalfPort) (p : Packet) (q : Qf) (o : Ep) (n : BitVec 32) (th : Nat), q = (inDbg (took s (.half h) p)
      (fun d => { d with hzSeen := d.hzSeen ++ [(o, n)] })).flood Opc.horizon p.srcEp p.payload (some h) ∧ s.qf.inService =
      true ∧ (s.qf.link h).peerQf = true ∧ horizonOf p = (o, n, th) ∧ (o, n) ∉ (took s (.half h) p).dbg.hzSeen ∧ q.dbg.hzState
      = 0) ∧
    (∃ (s : State) (h : HalfPort) (p : Packet) (q : Qf) (o : Ep) (n : BitVec 32) (th : Nat), q = (inDbg (took s (.half h) p)
      (fun d => { d with hzSeen := d.hzSeen ++ [(o, n)] })).flood Opc.horizon p.srcEp p.payload (some h) ∧ s.qf.inService =
      true ∧ (s.qf.link h).peerQf = true ∧ horizonOf p = (o, n, th) ∧ (o, n) ∉ (took s (.half h) p).dbg.hzSeen ∧ q.dbg.hzState
      ≠ 0) ∧
    (∃ (s : State), s.qf.dbg.hzState = 1 ∧ s.qf.clockRuns = true ∧ (s.qf.dbg.squalled = true ∨ s.qf.dbg.hzTh.toNat ≤
      s.qf.now)) ∧
    (∃ (s : State), s.qf.dbg.hzState = 2 ∧ s.qf.clockRuns = true) ∧
    (∃ (s : State) (t : Tenant) (a : BitVec 64) (ms : Nat) (q : Qf) (x : Option Status × Qf), a = s.qf.obs.pages.get t.toNat 0
      ∧ ms = s.qf.now / 1000000 ∧ q = inEdge (inObs s.qf (fun o => { o with pageAt := o.pageAt.set t.toNat ms })) (fun e =>
      { e with nextMsg := e.nextMsg + 1 }) ∧ x = q.engWrite { sector := 0, tenant := t, stream := streamOf 3 0 } (.counterPage
      t) 0 a.toNat (lineBytes (BitVec.ofNat 512 (packHi [(64, ms * 1000000), (64, s.qf.coarse t 0), (64, s.qf.coarse t 1),
      (64, s.qf.coarse t 2), (256, 0)]))) { msgId := s.qf.edge.nextMsg, totalLen := 64 } ∧ s.qf.inService = true ∧ a ≠ 0 ∧
      s.qf.obs.pageAt.get t.toNat 0 ≠ ms ∧ x.1 = none) ∧
    (∃ (s : State) (t : Tenant) (a : BitVec 64) (ms : Nat) (q : Qf) (x : Option Status × Qf), a = s.qf.obs.pages.get t.toNat 0
      ∧ ms = s.qf.now / 1000000 ∧ q = inEdge (inObs s.qf (fun o => { o with pageAt := o.pageAt.set t.toNat ms })) (fun e =>
      { e with nextMsg := e.nextMsg + 1 }) ∧ x = q.engWrite { sector := 0, tenant := t, stream := streamOf 3 0 } (.counterPage
      t) 0 a.toNat (lineBytes (BitVec.ofNat 512 (packHi [(64, ms * 1000000), (64, s.qf.coarse t 0), (64, s.qf.coarse t 1),
      (64, s.qf.coarse t 2), (256, 0)]))) { msgId := s.qf.edge.nextMsg, totalLen := 64 } ∧ s.qf.inService = true ∧ a ≠ 0 ∧
      s.qf.obs.pageAt.get t.toNat 0 ≠ ms ∧ x.1 ≠ none) :=
  ⟨⟨stateOf (fullUp { links := [(6, { state := .active, peerQf := true })], dbg := { hzSeen := [(0, 0)] } }), 6, default,
      (horizonOf (default : Packet)).1, (horizonOf (default : Packet)).2.1, (horizonOf (default : Packet)).2.2,
      by decide +kernel⟩,
   ⟨stateOf (fullUp { links := [(6, { state := .active, peerQf := true })] }), 6, default, _, (horizonOf (default : Packet)).1,
      (horizonOf (default : Packet)).2.1, (horizonOf (default : Packet)).2.2, rfl, by decide +kernel⟩,
   ⟨stateOf (fullUp { links := [(6, { state := .active, peerQf := true })], dbg := { hzState := 1 } }), 6, default, _, (horizonOf
      (default : Packet)).1, (horizonOf (default : Packet)).2.1, (horizonOf (default : Packet)).2.2, rfl, by decide +kernel⟩,
   ⟨stateOf (fullUp { dbg := { hzState := 1 } }), by decide +kernel⟩,
   ⟨stateOf (fullUp { dbg := { hzState := 2 } }), by decide +kernel⟩,
   ⟨stateOf { qHome with obs := { pages := [(0, 64)], zenith := 1000000 } }, 0, _, _, _, _, rfl, rfl, rfl, rfl,
      by decide +kernel⟩,
   ⟨stateOf (fullUp { obs := { pages := [(0, 64)], zenith := 1000000 } }), 0, _, _, _, _, rfl, rfl, rfl, rfl, by decide +kernel⟩⟩

set_option maxRecDepth 100000 in
/-- The hypotheses of BringUpTakesEffect can be met. -/
theorem witness_BringUpTakesEffect :
    (∃ (s : State), s.qf.boot.phase = .off) ∧
    (∃ (s : State), s.qf.boot.phase ≠ .off) ∧
    (∃ (s : State) (q : Qf), q = (s.qf.stepClock 0).beginInterval ∧ s.qf.boot.phase = .holding ∧ s.qf.pwr.resetLow = false ∧
      s.qf.pwr.failState = 0) ∧
    (∃ (s : State), s.qf.boot.phase = .starting ∧ s.qf.dbg.squalled = false ∧ s.qf.pwr.failState = 0) ∧
    (∃ (s : State), s.qf.boot.phase = .reduced ∧ s.qf.dbg.squalled = false) ∧
    (∃ (s : State) (q : Qf), q = inCum (inBoot s.qf (fun b => { b with phase := .full, releaseTime := s.qf.obs.zenith })) (fun
      c => { c with canonical := true }) ∧ s.qf.boot.phase = .reduced ∧ s.qf.dbg.squalled = false ∧ (∀ r ∈
      s.qf.boot.stackRate, r = 2) ∧ (∀ r ∈ s.qf.boot.selfTest, r = 1) ∧ (∀ h ∈ allHalves, (s.qf.link h).settled = true) ∧
      s.qf.boot.stackRate.length = 8) ∧
    (∃ (s : State) (m : MgrRef) (pt : BitVec 8) (ep epoch count : BitVec 16) (cs : List (BitVec 32)) (fs : List Byte) (rs :
      List (BitVec 64)) (gs : List (BitVec 128)) (ms : List (BitVec 64)) (z q : Qf) (b : Bank), b =
      { label := epoch, routes := writeTable [] 0 rs, groups := writeTable [] 0 gs } ∧ z = allHalves.foldl (fun q h =>
      q.lowerLink h 9) (started s m).zeroSystem.slicesOn ∧ q =
      { z with sw := { z.sw with current := b, previous := none, pending := { b with label := epoch + 1 } }, flt := { z.flt with mode := 1 }, part := { booted := true, id := fld pt 0 6, ep := fld ep 0 14, kinds := kindsOf cs, fences := fencesOf cs fs, masks := ms.map (fun x => fld x 0 34), epoch := epoch, advancedAt := z.now, bootCmd := some m } }
      ∧ MgrReady s.qf m ∧ bootArgsOk pt ep count cs fs rs gs ms = true ∧ s.qf.boot.phase ≠ .starting ∧ s.qf.part.booted =
      false ∧ q.timeParent.isSome = true) ∧
    (∃ (s : State) (m : MgrRef) (pt : BitVec 8) (ep epoch count : BitVec 16) (cs : List (BitVec 32)) (fs : List Byte) (rs :
      List (BitVec 64)) (gs : List (BitVec 128)) (ms : List (BitVec 64)) (z q : Qf) (b : Bank), b =
      { label := epoch, routes := writeTable [] 0 rs, groups := writeTable [] 0 gs } ∧ z = allHalves.foldl (fun q h =>
      q.lowerLink h 9) (started s m).zeroSystem.slicesOn ∧ q =
      { z with sw := { z.sw with current := b, previous := none, pending := { b with label := epoch + 1 } }, flt := { z.flt with mode := 1 }, part := { booted := true, id := fld pt 0 6, ep := fld ep 0 14, kinds := kindsOf cs, fences := fencesOf cs fs, masks := ms.map (fun x => fld x 0 34), epoch := epoch, advancedAt := z.now, bootCmd := some m } }
      ∧ MgrReady s.qf m ∧ bootArgsOk pt ep count cs fs rs gs ms = true ∧ s.qf.boot.phase ≠ .starting ∧ s.qf.part.booted =
      false ∧ q.timeParent = none) ∧
    (∃ (s : State) (t : Nat), s.qf.boot.resetAt = some t ∧ t ≤ s.qf.now) ∧
    (∃ (s : State) (q : Qf), q = inPwr s.qf (fun w => { w with resetLow := true }) ∧ s.qf.boot.phase ≠ .off ∧ s.qf.boot.phase
      ≠ .secFail ∧ s.qf.pwr.failState = 0) ∧
    (∃ (s : State) (q : Qf), q = inPwr s.qf (fun w => { w with resetLow := true }) ∧ s.qf.boot.phase ≠ .off ∧ s.qf.boot.phase
      ≠ .secFail ∧ s.qf.pwr.failState = 1) ∧
    (∃ (s : State) (q : Qf), q = inPwr s.qf (fun w => { w with resetLow := true }) ∧ s.qf.boot.phase ≠ .off ∧ s.qf.boot.phase
      ≠ .secFail ∧ s.qf.pwr.failState = 2 ∧ s.qf.pwr.inputUp = true) ∧
    (∃ (s : State) (q : Qf), q = inPwr s.qf (fun w => { w with resetLow := false }) ∧ s.qf.pwr.resetLow = true ∧
      s.qf.boot.phase = .holding ∧ s.qf.pwr.failState = 0) ∧
    (∃ (s : State) (q : Qf), q = inPwr s.qf (fun w => { w with resetLow := false }) ∧ s.qf.pwr.resetLow = true ∧
      s.qf.boot.phase ≠ .holding) ∧
    (∃ (s : State), (s.qf.boot.phase = .reduced ∨ s.qf.boot.phase = .full) ∧ s.qf.pwr.failState = 0) :=
  ⟨⟨stateOf {}, by decide +kernel⟩,
   ⟨stateOf (qPhase .reduced), by decide +kernel⟩,
   ⟨stateOf (qPhase .holding), _, rfl, by decide +kernel⟩,
   ⟨stateOf (qPhase .starting), by decide +kernel⟩,
   ⟨stateOf (qPhase .reduced), by decide +kernel⟩,
   ⟨stateOf
      { boot := { phase := .reduced, stackRate := List.replicate 8 2, selfTest := List.replicate 8 1 }, links := allHalves.map (fun h => (h.toNat, { state := .active })) },
      _, rfl, by decide +kernel⟩,
   ⟨stateOf { fullUp with part := {}, obs := { parent := 6 } }, cmd, 0, 0, 0, 0, [], [], [], [], List.replicate 8 1, _, _, _,
      rfl, rfl, rfl, by decide +kernel⟩,
   ⟨stateOf { fullUp with part := {} }, cmd, 0, 0, 0, 0, [], [], [], [], List.replicate 8 1, _, _, _, rfl, rfl, rfl,
      by decide +kernel⟩,
   ⟨stateOf { boot := { phase := .full, resetAt := some 0 } }, ((stateOf
      { boot := { phase := .full, resetAt := some 0 } }).qf.boot.resetAt).getD default, by decide +kernel⟩,
   ⟨stateOf (qPhase .reduced), _, rfl, by decide +kernel⟩,
   ⟨stateOf (qPhase .full { pwr := { failState := 1 } }), _, rfl, by decide +kernel⟩,
   ⟨stateOf (qPhase .full { pwr := { failState := 2, inputUp := true } }), _, rfl, by decide +kernel⟩,
   ⟨stateOf (qPhase .holding { pwr := { resetLow := true } }), _, rfl, by decide +kernel⟩,
   ⟨stateOf (qPhase .full { pwr := { resetLow := true } }), _, rfl, by decide +kernel⟩,
   ⟨stateOf (qPhase .reduced), by decide +kernel⟩⟩

/-- The hypotheses of PowerEventsTakeEffect can be met. -/
theorem witness_PowerEventsTakeEffect :
    (∃ (s : State), s.qf.zenithOn = true ∧ s.qf.pwr.testSince = none ∧ s.qf.pwr.testDue ≤ s.qf.now ∧ s.qf.pwr.failState = 0) ∧
    (∃ (s : State) (t droop : Nat), s.qf.pwr.testSince = some t ∧ (t + 200000 ≤ s.qf.now ∨ 2000 ≤ droop) ∧ 0 < droop) ∧
    (∃ (s : State) (d : BitVec 7), engineDomain d.toNat = true ∧ s.qf.pwr.enable.get d.toNat true = false ∧
      (s.qf.pwr.domain.get d.toNat 0 = 2 ∨ s.qf.pwr.domain.get d.toNat 0 = 3) ∧ s.qf.unitIdle d.toNat = true) ∧
    (∃ (s : State) (d : BitVec 7), engineDomain d.toNat = true ∧ s.qf.pwr.enable.get d.toNat true = false ∧
      (s.qf.pwr.domain.get d.toNat 0 = 2 ∨ s.qf.pwr.domain.get d.toNat 0 = 3) ∧ s.qf.unitIdle d.toNat = false) ∧
    (∃ (s : State) (d : BitVec 7), engineDomain d.toNat = true ∧ s.qf.pwr.domain.get d.toNat 0 = 1 ∧ s.qf.domainOn (sliceOf
      d.toNat) = true ∧ s.qf.pwr.waking.get d.toNat 0 + 20000 ≤ s.qf.now ∧ s.qf.running = true ∧ s.qf.pwr.failState = 0) ∧
    (∃ (s : State) (die : BitVec 16) (ts : List (BitVec 16)) (st : Nat) (q : Qf), st = thermalNext s.qf.pwr.thermal
      s.qf.pwr.tjThrottle.toNat die.toNat (hottest ts) ∧ q = inPwr s.qf (fun w =>
      { w with tjMax := die, stackMax := BitVec.ofNat 16 (hottest ts), lastThermal := s.qf.now, thermal := st, throttleTime := w.throttleTime + (if w.thermal = 1 then s.qf.now - w.lastThermal else 0), stackHot := hotStacks w.stackHot ts, refreshDouble := warmStacks ts })
      ∧ s.qf.zenithOn = true ∧ s.qf.pwr.lastThermal + 1000000 ≤ s.qf.now ∧ s.qf.pwr.thermal ≠ 2 ∧ s.qf.pwr.failState = 0 ∧ st
      = s.qf.pwr.thermal) ∧
    (∃ (s : State) (die : BitVec 16) (ts : List (BitVec 16)) (st : Nat) (q : Qf), st = thermalNext s.qf.pwr.thermal
      s.qf.pwr.tjThrottle.toNat die.toNat (hottest ts) ∧ q = inPwr s.qf (fun w =>
      { w with tjMax := die, stackMax := BitVec.ofNat 16 (hottest ts), lastThermal := s.qf.now, thermal := st, throttleTime := w.throttleTime + (if w.thermal = 1 then s.qf.now - w.lastThermal else 0), stackHot := hotStacks w.stackHot ts, refreshDouble := warmStacks ts })
      ∧ s.qf.zenithOn = true ∧ s.qf.pwr.lastThermal + 1000000 ≤ s.qf.now ∧ s.qf.pwr.thermal ≠ 2 ∧ s.qf.pwr.failState = 0 ∧ st
      ≠ s.qf.pwr.thermal ∧ st ≠ 2) ∧
    (∃ (s : State) (die : BitVec 16) (ts : List (BitVec 16)) (st : Nat) (q : Qf), st = thermalNext s.qf.pwr.thermal
      s.qf.pwr.tjThrottle.toNat die.toNat (hottest ts) ∧ q = inPwr s.qf (fun w =>
      { w with tjMax := die, stackMax := BitVec.ofNat 16 (hottest ts), lastThermal := s.qf.now, thermal := st, throttleTime := w.throttleTime + (if w.thermal = 1 then s.qf.now - w.lastThermal else 0), stackHot := hotStacks w.stackHot ts, refreshDouble := warmStacks ts })
      ∧ s.qf.zenithOn = true ∧ s.qf.pwr.lastThermal + 1000000 ≤ s.qf.now ∧ s.qf.pwr.thermal ≠ 2 ∧ s.qf.pwr.failState = 0 ∧ st
      = 2) :=
  ⟨⟨stateOf (fullUp { obs := { zenith := 1000000 }, pwr := { domain := [(1, 2)], enable := [(1, false)] } }), by decide +kernel⟩,
   ⟨stateOf (fullUp { pwr := { testSince := some 0 } }), 0, 2000, by decide +kernel⟩,
   ⟨stateOf (fullUp { obs := { zenith := 1000000 }, pwr := { domain := [(1, 2)], enable := [(1, false)] } }), 1,
      by decide +kernel⟩,
   ⟨stateOf (fullUp
      { cum := { groups := [(0, { inst := { members := [{ buf := [0] }] } })] }, pwr := { domain := [(1, 2)], enable := [(1, false)] } }),
      1, by decide +kernel⟩,
   ⟨stateOf (fullUp { obs := { zenith := 1000000 }, pwr := { domain := [(0, 2), (1, 1)] } }), 1, by decide +kernel⟩,
   ⟨stateOf (fullUp { obs := { zenith := 1000000 }, pwr := { domain := [(1, 2)], enable := [(1, false)] } }), 0, [], _, _, rfl,
      rfl, by decide +kernel⟩,
   ⟨stateOf (fullUp { obs := { zenith := 1000000 }, pwr := { domain := [(1, 2)], enable := [(1, false)] } }), 1100, [], _, _,
      rfl, rfl, by decide +kernel⟩,
   ⟨stateOf (fullUp { obs := { zenith := 1000000 }, pwr := { domain := [(1, 2)], enable := [(1, false)] } }), 1200, [], _, _,
      rfl, rfl, by decide +kernel⟩⟩

/-- The hypotheses of EventsWaitUpTo4096 can be met. -/
theorem witness_EventsWaitUpTo4096 :
    (∃ (q : Qf), (∀ p, q.host.active = some p → q.eventRoom p = false) ∧ q.host.waitingEvents.length < 4096) ∧
    (∃ (q : Qf), (∀ p, q.host.active = some p → q.eventRoom p = false) ∧ 4096 ≤ q.host.waitingEvents.length) ∧
    (∃ (q : Qf) (p : Bool), q.host.active = some p ∧ q.eventRoom p = true ∧ q.host.waitingEvents = [] ∧ q.host.lostReport ≠ 0) ∧
    (∃ (q : Qf) (p : Bool), q.host.active = some p ∧ q.eventRoom p = true ∧ q.host.waitingEvents = [] ∧ q.host.lostReport = 0) :=
  ⟨⟨fullUp, by decide +kernel⟩,
   ⟨fullUp { host := { waitingEvents := List.replicate 4096 0 } }, by decide +kernel⟩,
   ⟨fullUp { host := { active := some false, eqConfig := [0x8000000000000000, 0], lostReport := 1 } }, false, by decide +kernel⟩,
   ⟨fullUp { host := { active := some false, eqConfig := [0x8000000000000000, 0] } }, false, by decide +kernel⟩⟩

/-- The hypotheses of RightsAreChecked can be met. -/
theorem witness_RightsAreChecked :
    (∃ (s : State) (a : AgwenRef) (x : AgSession) (e : Entry) (index : BitVec 16) (sub : BitVec 8), Fresh s.qf a x ∧ (heard
      s.qf a).entryFor x index sub = some e ∧ mayWrite x e = false) ∧
    (∃ (s : State) (a : AgwenRef) (x : AgSession) (e : Entry) (index : BitVec 16) (sub : BitVec 8), Fresh s.qf a x ∧ (heard
      s.qf a).entryFor x index sub = some e ∧ mayWrite x e = false ∧ x.version = 2) ∧
    (∃ (s : State) (a : AgwenRef) (x : AgSession) (e : Entry) (index : BitVec 16) (sub : BitVec 8), Fresh s.qf a x ∧ (heard
      s.qf a).entryFor x index sub = some e ∧ (heard s.qf a).mayRead x e = false) ∧
    (∃ (q : Qf) (x : AgSession) (index : BitVec 16) (sub : BitVec 8) (e : Entry), q.entryFor x index sub = some e ∧ e.secure =
      true ∧ index.toNat < 0xF000 ∧ x.role ≠ 1) ∧
    (∃ (q : Qf) (x : AgSession) (index : BitVec 16) (sub : BitVec 8) (e : Entry), q.entryFor x index sub = some e ∧ e.secure =
      true ∧ index.toNat < 0xF000 ∧ x.role ≠ 1 ∧ (x.role ≠ 4 ∨ index.toNat < 0x8000 ∨ 0x9000 ≤ index.toNat ∨ q.debugOn =
      false)) :=
  ⟨⟨stateOf (qAg meterSess), default, meterSess, ((heard (stateOf (qAg meterSess)).qf (default : AgwenRef)).entryFor meterSess
      (0x3000 : BitVec 16) (1 : BitVec 8)).getD default, 0x3000, 1, by decide +kernel⟩,
   ⟨stateOf (qAg meterSess), default, meterSess, ((heard (stateOf (qAg meterSess)).qf (default : AgwenRef)).entryFor meterSess
      (0x3000 : BitVec 16) (1 : BitVec 8)).getD default, 0x3000, 1, by decide +kernel⟩,
   ⟨stateOf (qAg { sess with role := 0 }), default, { sess with role := 0 }, ((heard (stateOf (qAg { sess with role := 0 })).qf
      (default : AgwenRef)).entryFor ({ sess with role := 0 } : AgSession) (0x3000 : BitVec 16) (1 : BitVec 8)).getD default,
      0x3000, 1, by decide +kernel⟩,
   ⟨fullUp, meterSess, 0x2000, 2, (fullUp.entryFor meterSess (0x2000 : BitVec 16) (2 : BitVec 8)).getD default,
      by decide +kernel⟩,
   ⟨fullUp, meterSess, 0x2000, 2, (fullUp.entryFor meterSess (0x2000 : BitVec 16) (2 : BitVec 8)).getD default,
      by decide +kernel⟩⟩

/-- The hypotheses of RefusedRequestsChangeNothing can be met. -/
theorem witness_RefusedRequestsChangeNothing :
    (∃ (s : State) (a : AgwenRef) (x : AgSession) (q : Qf) (index : BitVec 16) (sub : BitVec 8), q = heard s.qf a ∧ Fresh s.qf
      a x ∧ q.entryFor x index sub = none) ∧
    (∃ (s : State) (a : AgwenRef) (x : AgSession) (q : Qf), q = heard s.qf a ∧ Fresh s.qf a x ∧ x.version ≠ 2) ∧
    (∃ (s : State) (a : AgwenRef) (x : AgSession) (q : Qf) (index : BitVec 16) (sub : BitVec 8) (e : Entry), q = heard s.qf a
      ∧ Fresh s.qf a x ∧ q.entryFor x index sub = some e ∧ q.mayRead x e = true ∧ e.access = .wo) ∧
    (∃ (s : State) (a : AgwenRef) (x : AgSession) (q : Qf) (index : BitVec 16) (sub : BitVec 8) (e : Entry), q = heard s.qf a
      ∧ Fresh s.qf a x ∧ q.entryFor x index sub = some e ∧ mayWrite x e = true ∧ (e.access = .ro ∨ e.access = .const)) ∧
    (∃ (s : State) (a : AgwenRef) (x : AgSession) (q : Qf) (index : BitVec 16) (sub : BitVec 8) (v : List Byte) (e : Entry) (n
      : Nat), q = heard s.qf a ∧ Fresh s.qf a x ∧ q.writeBar x index sub = .ok e ∧ perSession index sub = false ∧ e.type.width
      = some n ∧ v.length ≠ n) ∧
    (∃ (s : State) (a : AgwenRef) (x : AgSession) (q : Qf) (index : BitVec 16) (sub : BitVec 8) (v : List Byte) (e : Entry), q
      = heard s.qf a ∧ Fresh s.qf a x ∧ q.writeBar x index sub = .ok e ∧ 1128 < v.length) ∧
    (∃ (s : State) (a : AgwenRef) (x : AgSession) (q : Qf) (index : BitVec 16) (sub : BitVec 8) (e : Entry), q = heard s.qf a
      ∧ Fresh s.qf a x ∧ q.writeBar x index sub = .ok e ∧ x.version = 2 ∧ e.access = .wo) ∧
    (∃ (s : State) (a : AgwenRef) (x : AgSession) (q : Qf) (index : BitVec 16) (sub : BitVec 8) (w : List Byte) (e : Entry), q
      = heard s.qf a ∧ Fresh s.qf a x ∧ q.writeBar x index sub = .ok e ∧ x.version = 2 ∧ e.access ≠ .wo ∧ q.valueFor x e ≠ w) ∧
    (∃ (s : State) (a : AgwenRef) (x : AgSession) (q : Qf) (e : Entry), q = heard s.qf a ∧ Fresh s.qf a x ∧ q.entryFor x
      0x8311 0x02 = some e ∧ q.mayRead x e = true ∧ q.dbg.squalled = false) :=
  ⟨⟨stateOf (qAg sess), default, sess, _, 0, 1, rfl, by decide +kernel⟩,
   ⟨stateOf (qAg { sess with version := 1 }), default, { sess with version := 1 }, _, rfl, by decide +kernel⟩,
   ⟨stateOf (qAg sess), default, sess, _, 0x3110, 4, ((heard (stateOf (qAg sess)).qf (default : AgwenRef)).entryFor sess (0x3110
      : BitVec 16) (4 : BitVec 8)).getD default, rfl, by decide +kernel⟩,
   ⟨stateOf (qAg sess), default, sess, _, 0x1000, 3, ((heard (stateOf (qAg sess)).qf (default : AgwenRef)).entryFor sess (0x1000
      : BitVec 16) (3 : BitVec 8)).getD default, rfl, by decide +kernel⟩,
   ⟨stateOf (qAg sess), default, sess, _, 0x4030, 2, [], (entryAt 0x4030 2).getD default, 1, rfl, by decide +kernel⟩,
   ⟨stateOf (qAg sess), default, sess, _, 0x4030, 2, List.replicate 1129 0, (entryAt 0x4030 2).getD default, rfl,
      by decide +kernel⟩,
   ⟨stateOf (qAg sess), default, sess, _, 0x3110, 4, (entryAt 0x3110 4).getD default, rfl, by decide +kernel⟩,
   ⟨stateOf (qAg sess), default, sess, _, 0x4030, 2, [], (entryAt 0x4030 2).getD default, rfl, by decide +kernel⟩,
   ⟨stateOf (qAg sess), default, sess, _, (entryAt 0x8311 2).getD default, rfl, by decide +kernel⟩⟩

/-- The hypotheses of Bar2WritesStoreTheirBytes can be met. -/
theorem witness_Bar2WritesStoreTheirBytes :
    (∃ (s : State) (port : Bool) (o : BitVec 36) (bs : List Byte), s.qf.hostOn port = true ∧ s.qf.host.active = some port ∧
      s.qf.dbg.squalled = false ∧ Memory.wf s.qf.sys = true ∧ 0x80000000 ≤ o.toNat ∧ o.toNat + bs.length ≤ 0x280000000) ∧
    (∃ (s : State) (port : Bool), s.qf.hostOn port = true ∧ s.qf.host.active = some port ∧ s.qf.dbg.squalled = true) :=
  ⟨⟨stateOf qHost, false, 0x80000000, [1], by decide +kernel⟩,
   ⟨stateOf { qHost with dbg := { squalled := true } }, false, by decide +kernel⟩⟩

/-- The hypotheses of SelectionsAreApart can be met. -/
theorem witness_SelectionsAreApart :
    (∃ (index : BitVec 16) (sub : BitVec 8), perSession index sub = true) :=
  ⟨0, 0, by decide +kernel⟩

/-- The hypotheses of PurgedQueuesAreEmpty can be met. -/
theorem witness_PurgedQueuesAreEmpty :
    (∃ (s : State) (a : AgwenRef) (x : AgSession) (e : Entry) (v : List Byte) (h : HalfPort) (vc : BitVec 3) (f : QPkt →
      Bool), h = BitVec.ofNat 6 (x.sel (entryKey 0x3110 0x04)) ∧ vc = BitVec.ofNat 3 (leNat v) ∧ f = (fun e => decide (e.out =
      .half h) && decide (e.pkt.vc = vc)) ∧ Fresh s.qf a x ∧ (heard s.qf a).writeBar x 0x3110 0x04 = .ok e ∧ v.length = 1 ∧
      leNat v ≤ 5) :=
  ⟨stateOf (qAg sess), default, sess, (entryAt 0x3110 4).getD default, [5], _, _, _, rfl, rfl, rfl, by decide +kernel⟩

/-- The hypotheses of IdleStepIsOneTick can be met. -/
theorem witness_IdleStepIsOneTick :
    (∃ (s : State), s.pending = []) :=
  ⟨stateOf fullUp, by decide +kernel⟩

/-- The hypotheses of EveryStepKeepsTheBlockSound can be met. -/
theorem witness_EveryStepKeepsTheBlockSound :
    (∃ s t : State, Safety.Sound s.qf ∧ s.pending ≠ [] ∧ step s = .next t) :=
  ⟨{ pending := [.powerUp], qf := fullUp }, _, ⟨by decide +kernel, by decide +kernel, by decide +kernel, by decide +kernel⟩, by
    decide, rfl⟩

/-- The hypotheses of ViolationLogReplacesTheOldest can be met. -/
theorem witness_ViolationLogReplacesTheOldest :
    (∃ (q : Qf), q.mgmt.violations.length < 1024) ∧
    (∃ (q : Qf), q.mgmt.violations.length = 1024) :=
  ⟨⟨default, by decide +kernel⟩,
   ⟨fullUp { mgmt := { violations := List.replicate 1024 0 } }, by decide +kernel⟩⟩

/-- The hypotheses of ShortWatermarksStayApart can be met. -/
theorem witness_ShortWatermarksStayApart :
    (∃ (s : State) (a : AgwenRef) (x : AgSession) (e : Entry) (sub : BitVec 8) (v : List Byte), Fresh s.qf a x ∧ v.length = 1
      ∧ ((sub = 1 ∧ s.qf.pool.lowMark.toNat ≤ leNat v) ∨ (sub = 2 ∧ leNat v ≤ s.qf.pool.highMark.toNat)) ∧ (heard s.qf
      a).writeBar x 0x4030 sub = .ok e) :=
  ⟨stateOf (qAg sess), default, sess, (entryAt 0x4030 2).getD default, 2, [0], by decide +kernel⟩

/-- The hypotheses of FullServiceAtEightSeconds can be met. -/
theorem witness_FullServiceAtEightSeconds :
    (∃ (s : State), s.qf.boot.phase = .reduced ∧ s.qf.dbg.squalled = false ∧ s.qf.boot.releaseAt + 8000000000 ≤ s.qf.now) ∧
    (∃ (s : State), s.qf.now < s.qf.boot.releaseAt + 8000000000) :=
  ⟨⟨stateOf (qPhase .reduced { obs := { zenith := 8000000000 } }), by decide +kernel⟩,
   ⟨stateOf fullUp, by decide +kernel⟩⟩

/-- The hypotheses of RemovedAnchorsEndTheirSessions can be met. -/
theorem witness_RemovedAnchorsEndTheirSessions :
    (∃ (s : State) (a : AgwenRef) (x : AgSession) (e : Entry) (v : List Byte) (rs : List (Nat × AnchorPair)), Fresh s.qf a x ∧
      (heard s.qf a).writeBar x 0x1020 0x02 = .ok e ∧ rolesOf 4 0 v = some rs) :=
  ⟨stateOf (qAg sess), default, sess, (entryAt 0x1020 2).getD default, [], (rolesOf 4 0 ([] : List Byte)).getD default,
    by decide +kernel⟩

/-- The hypotheses of StandbyWritesAreDropped can be met. -/
theorem witness_StandbyWritesAreDropped :
    (∃ (s : State) (port : Bool), s.qf.hostOn port = true ∧ s.qf.host.active ≠ some port) :=
  ⟨stateOf (fullUp { host := { active := some false, ready := [true, true] } }), true, by decide +kernel⟩

/-- The hypotheses of RepeatedRequestsDoNothing can be met. -/
theorem witness_RepeatedRequestsDoNothing :
    (∃ (s : State) (a : AgwenRef) (x : AgSession) (k : AgFrame), s.qf.session a.session = some x ∧ s.qf.agLive = true ∧
      x.kept.find? (fun f => f.seq = a.seq) = some k) :=
  ⟨stateOf (qAg { sess with kept := [{}] }), default, { sess with kept := [{}] }, {}, by decide +kernel⟩

end Sys2Proof.Tests
end

/-! The shortage watermarks stay apart (R68): how a request of an established session that awaits its answer is answered, how a
write that its entry refuses ends, and what the two watermarks refuse. -/

namespace Sys2Proof.Proofs
open Sys2Proof.Machine Sys2Proof.Claims

/-! ### Requests of an established session (R445, R453) -/

/-- The answer to a request, as a frame of its session. -/
def replyFrame (a : AgwenRef) (op : BitVec 8) (r : Reply) : AgFrame :=
  { session := a.session, opcode := op ||| 0x80, seq := a.seq, status := r.verdict.status.code, detail := r.verdict.detail
    final := r.final, payload := r.payload }

/-- A sequence number that no kept answer has, and that is not older than all of them, is taken up (R453). -/
theorem awaited_not_answered_or_stale {q : Qf} {a : AgwenRef} {x : AgSession} {n : Nat} (h : Awaits q a x n) :
    x.kept.find? (fun k => k.seq = a.seq) = none ∧
    (x.kept != [] && x.kept.all (fun k => decide (a.seq.toNat < k.seq.toNat))) = false := by
  obtain ⟨-, -, -, hnew, hrecent⟩ := h
  constructor
  · simpa [List.find?_eq_none] using hnew
  · rcases hrecent with hnil | ⟨k, hk, hle⟩
    · simp [hnil]
    · have hnot : ¬ ∀ k ∈ x.kept, a.seq.toNat < k.seq.toNat := fun hall => by
        have := hall k hk
        omega
      rw [Bool.and_eq_false_iff]
      exact .inr (by simpa using hnot)

/-- A fresh request of an established session is carried out once its frame is heard, and answered. -/
theorem agRequest_of_fresh {q : Qf} {a : AgwenRef} {x : AgSession} (h : Fresh q a x) (op : BitVec 8) (early : Bool)
    (f : AgSession → Qf → Reply × Qf) :
    q.agRequest a op early f =
      (f x (heard q a)).2.answerFrame a.session (replyFrame a op (f x (heard q a)).1) := by
  obtain ⟨hunanswered, hnotstale⟩ := awaited_not_answered_or_stale h
  obtain ⟨hsession, hlive, hphase, -, -⟩ := h
  simp [Qf.agRequest, hsession, hlive, hphase, hunanswered, hnotstale, replyFrame]

/-! ### Writes that their entry refuses (R454, R456) -/

/-- A write that its session may make, of an entry that no session holds for itself, is what the entry makes of it, where the
entry refuses it. -/
theorem dictWrite_of_refused {q : Qf} {x : AgSession} {index : BitVec 16} {sub : BitVec 8} {e : Entry} {bs : List Byte}
    {v : Verdict} (hbar : q.writeBar x index sub = .ok e) (hps : perSession index sub = false) (hv : v.status ≠ .ok)
    (hw : q.writeTyped e (x.sel (entryKey index sub)) bs = (v, q)) : q.dictWrite x index sub bs = (v, q) := by
  simp [Qf.dictWrite, Qf.writeWith, hbar, hps, hw, hv]

/-- AGWEN_WRITE of a short value and REGISTER_WRITE answer what the session's write gives, and change what it changes. -/
theorem entryWrites_of_fresh {s : State} {a : AgwenRef} {x : AgSession} {index : BitVec 16} {sub : BitVec 8} {bs : List Byte}
    {v : Verdict} {t : Qf} (hf : Fresh s.qf a x) (hlen : bs.length ≤ 1128)
    (hw : (heard s.qf a).dictWrite x index sub bs = (v, t)) :
    ∀ c ∈ [Instr.agwenWrite a index sub bs, .registerWrite (.dict a index sub bs)],
      To c s (t.answerFrame a.session (replyFrame a 0x04 { verdict := v })) := by
  have hwrite : s.qf.agWrite a 0x04 index sub bs = t.answerFrame a.session (replyFrame a 0x04 { verdict := v }) := by
    rw [Qf.agWrite, agRequest_of_fresh hf, hw, plainReply]
  have hagwen : exec (.agwenWrite a index sub bs) s = .next { s with qf := s.qf.agWrite a 0x04 index sub bs } := by
    simp only [exec, execAgwenWrite, done, Qf.agWrite, if_neg (Nat.not_lt.2 hlen)]
  have hregister : exec (.registerWrite (.dict a index sub bs)) s = .next { s with qf := s.qf.agWrite a 0x04 index sub bs } :=
    rfl
  rw [hwrite] at hagwen hregister
  exact List.forall_mem_cons.2 ⟨hagwen, List.forall_mem_singleton.2 hregister⟩

/-! ### The entry that a write names -/

/-- What a session may write at an index and sub-index is the dictionary's entry there. -/
theorem entryAt_of_writeBar {q : Qf} {x : AgSession} {index : BitVec 16} {sub : BitVec 8} {e : Entry}
    (h : q.writeBar x index sub = .ok e) : entryAt index sub = some e := by
  have hfor : q.entryFor x index sub = some e := by
    unfold Qf.writeBar at h
    split at h
    · cases h
    · rename_i e' he
      repeat' split at h
      all_goals cases h
      exact he
  unfold Qf.entryFor at hfor
  split at hfor
  · rename_i e' he
    split at hfor
    · cases hfor
    · rw [he, hfor]
  · cases hfor

/-! ### The watermarks (R68, Table POOL-14) -/

/-- The high watermark refuses a value that the low one does not exceed. -/
theorem writePool_highMark_refused {q : Qf} {v : Nat} (sel : Nat) (h : q.pool.lowMark.toNat ≤ v) :
    q.writePool sel 0x403001 v = q.badAns := by
  have hbad : ¬ v < q.pool.lowMark.toNat := Nat.not_lt.2 h
  simp [Qf.writePool, Qf.ranged, hbad]

/-- The low watermark refuses a value that does not exceed the high one. -/
theorem writePool_lowMark_refused {q : Qf} {v : Nat} (sel : Nat) (h : v ≤ q.pool.highMark.toNat) :
    q.writePool sel 0x403002 v = q.badAns := by
  have hbad : ¬ q.pool.highMark.toNat < v := Nat.not_lt.2 h
  simp [Qf.writePool, Qf.ranged, hbad]

theorem entryAt_highMark : entryAt 0x4030 1 = some ⟨0x4030, 1, .u8, .rw, false⟩ := by decide +kernel

theorem entryAt_lowMark : entryAt 0x4030 2 = some ⟨0x4030, 2, .u8, .rw, false⟩ := by decide +kernel

/-- Both watermarks are one byte wide, and a write of one byte to either is a write of Table POOL-14. -/
theorem writeTyped_watermark {sub : BitVec 8} (hsub : sub = 1 ∨ sub = 2) {e : Entry} (he : entryAt 0x4030 sub = some e)
    (q : Qf) (sel : Nat) {v : List Byte} (hv : v.length = 1) :
    q.writeTyped e sel v = q.writePool sel (0x403000 + sub.toNat) (leNat v) := by
  rcases hsub with rfl | rfl
  · obtain rfl := Option.some.inj (entryAt_highMark.symm.trans he)
    simp [Qf.writeTyped, EntryType.width, Qf.writeEntry, hv]
  · obtain rfl := Option.some.inj (entryAt_lowMark.symm.trans he)
    simp [Qf.writeTyped, EntryType.width, Qf.writeEntry, hv]

/-- A write that would make the low watermark not greater than the high one is refused, and nothing is changed. -/
theorem writeTyped_watermark_refused {q : Qf} {sub : BitVec 8} {e : Entry} {v : List Byte}
    (he : entryAt 0x4030 sub = some e) (hv : v.length = 1)
    (hbad : (sub = 1 ∧ q.pool.lowMark.toNat ≤ leNat v) ∨ (sub = 2 ∧ leNat v ≤ q.pool.highMark.toNat)) (sel : Nat) :
    q.writeTyped e sel v = q.badAns := by
  rcases hbad with ⟨rfl, hlow⟩ | ⟨rfl, hhigh⟩
  · exact (writeTyped_watermark (.inl rfl) he q sel hv).trans (writePool_highMark_refused sel hlow)
  · exact (writeTyped_watermark (.inr rfl) he q sel hv).trans (writePool_lowMark_refused sel hhigh)

/-- Settles O55: the watermark's own range test refuses the value before anything is changed, and the session is answered
ACCESS_VIOLATION. -/
theorem shortWatermarksStayApart : Obligations.ShortWatermarksStayApart := by
  unfold Obligations.ShortWatermarksStayApart
  intro s a x e sub v hf hv hbad hbar
  have hps : perSession 0x4030 sub = false := by
    rcases hbad with ⟨rfl, -⟩ | ⟨rfl, -⟩ <;> decide
  have hrefused : (heard s.qf a).writeTyped e (x.sel (entryKey 0x4030 sub)) v = (heard s.qf a).badAns :=
    writeTyped_watermark_refused (entryAt_of_writeBar hbar) hv (by simpa using hbad) _
  exact entryWrites_of_fresh hf (by omega) (dictWrite_of_refused hbar hps (by decide) hrefused)

end Sys2Proof.Proofs

/-! Events wait for room in the ring of the active port, and lost ones are reported (R477). -/

namespace Sys2Proof.Proofs
open Sys2Proof.Machine Sys2Proof.Claims

/-- No port is active whose event ring has room. -/
def NoEventRoom (q : Qf) : Prop := ∀ p, q.host.active = some p → q.eventRoom p = false

/-- Room depends on the event rings alone: what waits and what was lost does not change it. -/
theorem NoEventRoom.of_counts {q : Qf} (h : NoEventRoom q) (waiting : List (BitVec 256)) (lost : BitVec 32) (report : Nat) :
    NoEventRoom (inHost q (fun h => { h with waitingEvents := waiting, eventsLost := lost, lostReport := report })) := h

/-- Where there is no room, nothing is written. -/
theorem drainEvents_of_noEventRoom {q : Qf} (h : NoEventRoom q) (n : Nat) : Qf.drainEvents n q = q := by
  cases n with
  | zero => rfl
  | succ n =>
    cases hactive : q.host.active with
    | none => simp [Qf.drainEvents, hactive]
    | some p => simp [Qf.drainEvents, hactive, h p hactive]

/-- An event that finds no room waits where fewer than 4,096 do. -/
theorem event_waits {q : Qf} (h : NoEventRoom q) (hlen : q.host.waitingEvents.length < 4096) (kind : Nat) (st : BitVec 8)
    (n wr : BitVec 16) (ep : Ep) (d : Nat) :
    q.event kind st n wr ep d = inHost q (fun h => { h with
      waitingEvents := h.waitingEvents ++ [eventEntry kind st n wr ep q.now d] }) := by
  rw [Qf.event, if_neg (Nat.not_le.2 hlen)]
  exact drainEvents_of_noEventRoom (h.of_counts _ _ _) 2

/-- An event that finds no room and 4,096 waiting is lost and counted. -/
theorem event_lost {q : Qf} (h : NoEventRoom q) (hlen : 4096 ≤ q.host.waitingEvents.length) (kind : Nat) (st : BitVec 8)
    (n wr : BitVec 16) (ep : Ep) (d : Nat) :
    q.event kind st n wr ep d = inHost q (fun h => { h with
      eventsLost := h.eventsLost + 1, lostReport := h.lostReport + 1 }) := by
  rw [Qf.event, if_pos hlen]
  exact drainEvents_of_noEventRoom (h.of_counts _ _ _) 2

/-- Where there is room and nothing waits, the losses that are not yet reported are, by one event. -/
theorem drainEvents_of_none_waiting {q : Qf} {p : Bool} (hactive : q.host.active = some p) (hroom : q.eventRoom p = true)
    (hwaiting : q.host.waitingEvents = []) (n : Nat) :
    q.drainEvents (n + 1) = if q.host.lostReport = 0 then q else
      (inHost q (fun h => { h with lostReport := 0 })).writeEvent p (eventEntry 6 0 0 0 0 q.now q.host.lostReport) := by
  simp [Qf.drainEvents, inHost, hactive, hroom, hwaiting]

/-- Settles O39: without room the event is kept or counted and nothing is written; with room and nothing waiting, what was lost
is written as one event. -/
theorem eventsWaitUpTo4096 : Obligations.EventsWaitUpTo4096 := by
  unfold Obligations.EventsWaitUpTo4096
  refine ⟨fun q kind st n wr ep d hno => ⟨fun hlen => ?_, fun hlen => ?_⟩,
    fun q p k hactive hroom hwaiting => ⟨fun hlost => ?_, fun hnone => ?_⟩⟩
  · exact event_waits hno hlen kind st n wr ep d
  · exact event_lost hno hlen kind st n wr ep d
  · rw [drainEvents_of_none_waiting hactive hroom hwaiting, if_neg hlost]
  · rw [drainEvents_of_none_waiting hactive hroom hwaiting, if_pos hnone]

end Sys2Proof.Proofs

/-! The violation log (R465) and the session events that tell of its records (R459). -/

namespace Sys2Proof.Proofs
open Sys2Proof.Machine Sys2Proof.Claims

/-- A session event leaves the violation log as it is. -/
@[simp] theorem sessionEvent_violations (q : Qf) (cls : Nat) (record : List Byte) :
    (q.sessionEvent cls record).mgmt.violations = q.mgmt.violations ∧
    (q.sessionEvent cls record).mgmt.violationsLost = q.mgmt.violationsLost :=
  ⟨rfl, rfl⟩

/-- A violation adds one record to the log, in the oldest one's place where 1,024 or more are held, which is counted. -/
theorem violation_log (q : Qf) (a : BitVec 60) (world : Bool) (o : Ep) (n : Qpn) (psn : Psn) (home : Bool) (t : Tenant) :
    ∃ r : BitVec 256,
      (q.violation a world o n psn home t).mgmt.violations =
        (if 1024 ≤ q.mgmt.violations.length then q.mgmt.violations.drop 1 else q.mgmt.violations) ++ [r] ∧
      (q.violation a world o n psn home t).mgmt.violationsLost =
        if 1024 ≤ q.mgmt.violations.length then q.mgmt.violationsLost + 1 else q.mgmt.violationsLost := by
  simp [Qf.violation]

/-- Settles O54: the record that the log gains, in the case that has room and in the case that has none. -/
theorem violationLogReplacesTheOldest : Obligations.ViolationLogReplacesTheOldest := by
  unfold Obligations.ViolationLogReplacesTheOldest
  intro q a world o n psn home t
  obtain ⟨r, hlog, hlost⟩ := violation_log q a world o n psn home t
  refine ⟨r, fun hroom => ?_, fun hfull => ?_⟩
  · rw [if_neg (Nat.not_le.2 hroom)] at hlog hlost
    exact ⟨hlog, hlost⟩
  · rw [if_pos hfull.ge] at hlog hlost
    exact ⟨hlog, hlost⟩

end Sys2Proof.Proofs

/-! A write of ROLE_ANCHORS ends the sessions whose anchor pair it removes (R446, R449, R460): what each operation on sessions
leaves of the anchors and of what the sessions bound with. -/

namespace Sys2Proof.Proofs
open Sys2Proof.Machine Sys2Proof.Claims

/-! ### Anchors and what the sessions bound with -/

/-- What BIND fixes of a session (R446), with its name and its phase. -/
structure Binding where
  id : Nat
  phase : Nat
  role : Nat
  pair : AnchorPair

/-- What a session bound with. -/
def binding (x : AgSession) : Binding := ⟨x.id, x.phase, x.role, x.pair⟩

/-- What R449 speaks of: the anchors, and what each session bound with. -/
structure Anchoring where
  owner : List AnchorPair
  roles : List (Nat × AnchorPair)
  bindings : List Binding

/-- The anchors of the block and what its sessions bound with. -/
def anchoring (q : Qf) : Anchoring := ⟨q.mgmt.owner, q.mgmt.roles, q.mgmt.sessions.map binding⟩

/-- A binding is anchored: it is not established, has no role, or its pair is listed under its role. -/
def anchored (owner : List AnchorPair) (roles : List (Nat × AnchorPair)) (b : Binding) : Bool :=
  b.phase != 3 || b.role == 0 || (owner.map (fun p => (1, p)) ++ roles).contains (b.role, b.pair)

/-! ### What leaves them as they are -/

theorem map_updFirst_of_keeps {α β : Type} {p : α → Bool} {f : α → α} {g : α → β} (h : ∀ x, g (f x) = g x) (xs : List α) :
    (updFirst p f xs).map g = xs.map g := by
  induction xs with
  | nil => rfl
  | cons x xs ih =>
    unfold updFirst
    split
    · simp [h]
    · simp [ih]

/-- A fold that adds one element for each it reads, of the same value under f, adds those values in order. -/
theorem map_foldl_of_appends {α β γ : Type} {f : α → γ} {step : List α × β → α → List α × β}
    (h : ∀ acc x, (step acc x).1.map f = acc.1.map f ++ [f x]) (xs : List α) (acc : List α × β) :
    (xs.foldl step acc).1.map f = acc.1.map f ++ xs.map f := by
  induction xs generalizing acc with
  | nil => simp
  | cons x xs ih => simp [ih, h]

theorem anchoring_updSession (q : Qf) (id : Nat) {f : AgSession → AgSession} (h : ∀ x, binding (f x) = binding x) :
    anchoring (q.updSession id f) = anchoring q := by
  simp [anchoring, Qf.updSession, map_updFirst_of_keeps h]

@[simp] theorem anchoring_heard (q : Qf) (a : AgwenRef) : anchoring (heard q a) = anchoring q :=
  anchoring_updSession q a.session fun _ => rfl

@[simp] theorem anchoring_answerFrame (q : Qf) (id : Nat) (f : AgFrame) : anchoring (q.answerFrame id f) = anchoring q :=
  anchoring_updSession _ id fun _ => rfl

@[simp] theorem anchoring_sessionEvent (q : Qf) (cls : Nat) (record : List Byte) :
    anchoring (q.sessionEvent cls record) = anchoring q := by
  simp only [anchoring, Qf.sessionEvent, Anchoring.mk.injEq, true_and]
  refine (map_foldl_of_appends (fun acc x => ?_) _ _).trans (List.nil_append _)
  split
  · exact List.map_append
  · exact List.map_append

@[simp] theorem anchoring_updProgress (q : Qf) (i : Option Nat) (f : Progress → Progress) :
    anchoring (q.updProgress i f) = anchoring q := by
  cases i <;> rfl

@[simp] theorem anchoring_endProgress (q : Qf) (i : Option Nat) (state : Nat) (status : BitVec 8) :
    anchoring (q.endProgress i state status) = anchoring q := by
  cases i with
  | none => rfl
  | some k => simp [Qf.endProgress]

@[simp] theorem anchoring_storeSetting (q : Qf) (e : Entry) (sel : Nat) : anchoring (q.storeSetting e sel) = anchoring q := by
  unfold Qf.storeSetting
  split <;> rfl

/-! ### Ending sessions -/

/-- The staging writes that end with their sessions leave the anchors and the sessions (R460). -/
theorem anchoring_foldl_endProgress (ks : List Nat) (q : Qf) (state : Nat) (status : BitVec 8) :
    anchoring (ks.foldl (fun q k => q.endProgress (some k) state status) q) = anchoring q := by
  induction ks generalizing q with
  | nil => rfl
  | cons k ks ih => simp [ih]

/-- Where what a session bound with decides whether it ends, those that do not end are left, in their order. -/
theorem anchoring_endSessions (q : Qf) {gone : AgSession → Bool} {stays : Binding → Bool}
    (h : ∀ x, (!gone x) = stays (binding x)) :
    anchoring (q.endSessions gone) = { anchoring q with bindings := (anchoring q).bindings.filter stays } := by
  have hkeep : (fun x => !gone x) = stays ∘ binding := funext h
  rw [← anchoring_foldl_endProgress ((q.mgmt.sessions.filter gone).flatMap (fun x => x.segs.filterMap (fun g => g.progress))) q 3
    Status.aborted.code]
  simp [anchoring, Qf.endSessions, List.filter_map, hkeep]

theorem anchoring_endUnanchored (q : Qf) :
    anchoring q.endUnanchored =
      { anchoring q with
        bindings := (anchoring q).bindings.filter (anchored (anchoring q).owner (anchoring q).roles) } :=
  anchoring_endSessions q fun x => Bool.eq_iff_iff.2 (by simp [anchored, binding, anchoring, Mgmt.allRoles])

/-- New roles change nothing of the owner's pairs, nor of what the sessions bound with. -/
theorem anchoring_setRoles (q : Qf) (rs : List (Nat × AnchorPair)) :
    anchoring (inMgmt q (fun m => { m with roles := rs })) = { anchoring q with roles := rs } := rfl

/-! ### The write -/

theorem entryAt_roleAnchors : entryAt 0x1020 2 = some ⟨0x1020, 2, .blob, .rw, true⟩ := by decide +kernel

/-- ROLE_ANCHORS takes a value that lists roles: the roles become those, and the sessions that they anchor no more end. -/
theorem writeTyped_roleAnchors {e : Entry} (he : entryAt 0x1020 2 = some e) (q : Qf) (sel : Nat) {v : List Byte}
    {rs : List (Nat × AnchorPair)} (hv : rolesOf 4 0 v = some rs) :
    q.writeTyped e sel v = (inMgmt q (fun m => { m with roles := rs })).endUnanchored.okAns := by
  obtain rfl := Option.some.inj (entryAt_roleAnchors.symm.trans he)
  simp [Qf.writeTyped, EntryType.width, Qf.writeEntry, Qf.writeMgmt, Qf.setRoles, hv]

/-- A write that its session may make, of an entry that no session holds for itself, is kept as a setting where the entry takes
the value. -/
theorem dictWrite_of_taken {q : Qf} {x : AgSession} {index : BitVec 16} {sub : BitVec 8} {e : Entry} {bs : List Byte}
    {t : Qf} (hbar : q.writeBar x index sub = .ok e) (hps : perSession index sub = false)
    (hw : q.writeTyped e (x.sel (entryKey index sub)) bs = t.okAns) :
    q.dictWrite x index sub bs = (t.storeSetting e (x.sel (entryKey index sub))).okAns := by
  simp [Qf.dictWrite, Qf.writeWith, hbar, hps, hw, Qf.okAns]

/-- After a fresh write of ROLE_ANCHORS the roles are those written, and the sessions are those that the owner's pairs and these
roles anchor. -/
theorem anchoring_agWrite_roleAnchors {q : Qf} {a : AgwenRef} {x : AgSession} {e : Entry} {v : List Byte}
    {rs : List (Nat × AnchorPair)} (hf : Fresh q a x) (hbar : (heard q a).writeBar x 0x1020 2 = .ok e)
    (hv : rolesOf 4 0 v = some rs) :
    anchoring (q.agWrite a 0x04 0x1020 2 v) =
      ⟨q.mgmt.owner, rs, (q.mgmt.sessions.map binding).filter (anchored q.mgmt.owner rs)⟩ := by
  have hw := dictWrite_of_taken hbar (by decide) (writeTyped_roleAnchors (entryAt_of_writeBar hbar) _ _ hv)
  rw [Qf.agWrite, agRequest_of_fresh hf, hw]
  simp only [plainReply, Qf.okAns, anchoring_answerFrame, anchoring_storeSetting, anchoring_endUnanchored,
    anchoring_setRoles, anchoring_heard]
  rfl

/-- Settles O57: the write leaves the anchored sessions and no others, each with what it bound with. -/
theorem removedAnchorsEndTheirSessions : Obligations.RemovedAnchorsEndTheirSessions := by
  unfold Obligations.RemovedAnchorsEndTheirSessions
  intro s a x e v rs hf hbar hv
  refine ⟨{ s with qf := s.qf.agWrite a 0x04 0x1020 2 v }, rfl, rfl, ?_⟩
  have hafter := anchoring_agWrite_roleAnchors hf hbar hv
  generalize s.qf.agWrite a 0x04 0x1020 2 v = t at hafter
  simp only [anchoring, Anchoring.mk.injEq] at hafter
  obtain ⟨howner, hroles, hsessions⟩ := hafter
  refine ⟨hroles, fun y hy hphase hrole => ?_, ?_⟩
  · have hb : binding y ∈ (s.qf.mgmt.sessions.map binding).filter (anchored s.qf.mgmt.owner rs) :=
      hsessions ▸ List.mem_map_of_mem hy
    have hanchored := List.of_mem_filter hb
    simpa [anchored, binding, hphase, hrole, Mgmt.allRoles, howner, hroles] using hanchored
  · have hpairs := congrArg (List.map fun b => (b.id, b.role, b.pair)) hsessions
    rw [List.filter_map, List.map_map, List.map_map] at hpairs
    exact hpairs

end Sys2Proof.Proofs

/-! FULL is entered at 8 s after reset release, and not before (R510): what FULL_TIMEOUT does on either side of that time. -/

namespace Sys2Proof.Proofs
open Sys2Proof.Machine Sys2Proof.Claims

/-- The faults that entering FULL raises leave the phase to it. -/
@[simp] theorem enterFull_phase (q : Qf) : q.enterFull.boot.phase = .full := rfl

/-- From 8 s on, REDUCED ends: nothing is asked of the stacks, links and self-tests, as FULL_SERVICE does (R507, R510). The
block is not squalled (log 79). -/
theorem execFullTimeout_of_due {s : State} (hphase : s.qf.boot.phase = .reduced) (hsquall : s.qf.dbg.squalled = false)
    (hdue : s.qf.boot.releaseAt + 8000000000 ≤ s.qf.now) :
    execFullTimeout s = .next { s with qf := s.qf.enterFull } := by
  simp [execFullTimeout, done, hphase, hsquall, hdue]

/-- Before 8 s the timeout changes nothing, in any phase. -/
theorem execFullTimeout_of_early {s : State} (hearly : s.qf.now < s.qf.boot.releaseAt + 8000000000) :
    execFullTimeout s = .next s := by
  have hnotdue : ¬ s.qf.boot.releaseAt + 8000000000 ≤ s.qf.now := Nat.not_le.2 hearly
  simp [execFullTimeout, done, hnotdue]

/-- Settles O56: a due timeout enters FULL whatever calibration has reached, an early one leaves the block as it is. -/
theorem fullServiceAtEightSeconds : Obligations.FullServiceAtEightSeconds := by
  unfold Obligations.FullServiceAtEightSeconds
  constructor
  · intro s hphase hsquall hdue
    exact ⟨{ s with qf := s.qf.enterFull }, execFullTimeout_of_due hphase hsquall hdue, rfl, enterFull_phase s.qf⟩
  · intro s hearly
    exact execFullTimeout_of_early hearly

end Sys2Proof.Proofs

/-! How a command's meaning settles what it does, and what every command keeps. -/

namespace Sys2Proof.Proofs
open Sys2Proof.Machine Sys2Proof.Claims Sys2Proof.Safety

/-! ### From a command's meaning to its effect -/

/-- A command whose meaning changes the block by f leaves f of the block. -/
theorem to_of_done {c : Instr} {s : State} {q : Qf} {f : Qf → Qf} (hc : exec c s = done f s) (hf : f s.qf = q) : To c s q := by
  rw [To, hc, done, hf]

/-- The same for a command of the meaning m, named where it is not plain to see. -/
theorem to_of_meaning {c : Instr} {s : State} {q : Qf} {f : Qf → Qf} (m : State → Out) (hc : exec c s = m s)
    (hm : m s = done f s) (hf : f s.qf = q) : To c s q :=
  to_of_done (hc.trans hm) hf

/-- What holds of the block that a command leaves, the command ends with. -/
theorem ends_of_to {c : Instr} {s : State} {q : Qf} {P : Qf → Prop} (hc : To c s q) (hp : P q) : Ends c s P :=
  ⟨{ s with qf := q }, hc, rfl, hp⟩

/-- What holds of the block that a command's meaning makes, the command ends with. -/
theorem ends_of_meaning {c : Instr} {s : State} {P : Qf → Prop} {f : Qf → Qf} (m : State → Out) (hc : exec c s = m s)
    (hm : m s = done f s) (hp : P (f s.qf)) : Ends c s P :=
  ends_of_to (to_of_meaning m hc hm rfl) hp

/-! ### Every command completes, and keeps the block sound -/

/-- Each command's meaning is done of some change of the block. -/
theorem exec_changes_qf (c : Instr) (s : State) : ∃ q, To c s q := by
  cases c <;> exact ⟨_, rfl⟩

/-- Settles O51: a command changes the block alone, so the commands that wait stay. -/
theorem everyCommandCompletes : Obligations.EveryCommandCompletes := by
  unfold Obligations.EveryCommandCompletes
  intro c s
  obtain ⟨q, hq⟩ := exec_changes_qf c s
  exact ⟨{ s with qf := q }, hq, rfl⟩

/-- A command keeps the block sound: each by the lemma of its own meaning. -/
theorem exec_sound {s : State} (h : Sound s.qf) (c : Instr) : ∃ q, To c s q ∧ Sound q := by
  cases c with
  | tenantRecord => exact execTenantRecord_sound h
  | bar2Access => exact execBar2Access_sound h
  | extentAssign => exact execExtentAssign_sound h
  | extentWithdraw => exact execExtentWithdraw_sound h
  | withdrawEffect => exact execWithdrawEffect_sound h
  | withdrawDrainEnd => exact execWithdrawDrainEnd_sound h
  | withdrawDrainTimeout => exact execWithdrawDrainTimeout_sound h
  | scrubDone => exact execScrubDone_sound h
  | trayFillTimeout => exact execTrayFillTimeout_sound h
  | extentMove => exact execExtentMove_sound h
  | moveCopyPass => exact execMoveCopyPass_sound h
  | placeT0 => exact execPlaceT0_sound h
  | t0FillDone => exact execT0FillDone_sound h
  | cirrusRegister => exact execCirrusRegister_sound h
  | cirrusReplicate => exact execCirrusReplicate_sound h
  | cirrusReplicaComplete => exact execCirrusReplicaComplete_sound h
  | reclaim => exact execReclaim_sound h
  | reclaimAck => exact execReclaimAck_sound h
  | extentRestore => exact execExtentRestore_sound h
  | openVersion => exact execOpenVersion_sound h
  | closeVersion => exact execCloseVersion_sound h
  | foldPage t => exact execFoldPage_sound (_tenant := t) h
  | openDraft => exact execOpenDraft_sound h
  | publish => exact execPublish_sound h
  | abandon => exact execAbandon_sound h
  | throttle => exact execThrottle_sound h
  | throttleRenew => exact execThrottleRenew_sound h
  | throttleLapse => exact execThrottleLapse_sound h
  | skewHot => exact execSkewHot_sound h
  | replicaIdleDrop => exact execReplicaIdleDrop_sound h
  | epochRetire => exact execEpochRetire_sound h
  | epochRetireEarly => exact execEpochRetireEarly_sound h
  | advance => exact execAdvance_sound h
  | retireEarly => exact execRetireEarly_sound h
  | placed => exact execPlaced_sound h
  | pennant => exact execPennant_sound h
  | pennantDone => exact execPennantDone_sound h
  | streamReset => exact execStreamReset_sound h
  | waitRegister => exact execWaitRegister_sound h
  | waitTimeout => exact execWaitTimeout_sound h
  | waitRegisterResend => exact execWaitRegisterResend_sound h
  | waitPoll => exact execWaitPoll_sound h
  | waitDone => exact execWaitDone_sound h
  | cancel => exact execCancel_sound h
  | reassemblyClear => exact execReassemblyClear_sound h
  | clearedPairExpiry => exact execClearedPairExpiry_sound h
  | rdNc => exact execRdNc_sound h
  | rdShared => exact execRdShared_sound h
  | rdOwn => exact execRdOwn_sound h
  | upgrade => exact execUpgrade_sound h
  | wrNc => exact execWrNc_sound h
  | wrFullNc => exact execWrFullNc_sound h
  | wrBulk => exact execWrBulk_sound h
  | rdBulk => exact execRdBulk_sound h
  | wbDirty => exact execWbDirty_sound h
  | evictClean => exact execEvictClean_sound h
  | atomic => exact execAtomic_sound h
  | snpRspI => exact execSnpRspI_sound h
  | snpRspS => exact execSnpRspS_sound h
  | snpRspWrittenBack => exact execSnpRspWrittenBack_sound h
  | snpRspKeep => exact execSnpRspKeep_sound h
  | dataDirty => exact execDataDirty_sound h
  | dataWrite => exact execDataWrite_sound h
  | dataClean => exact execDataClean_sound h
  | cmpAck => exact execCmpAck_sound h
  | grantM => exact execGrantM_sound h
  | atomicResult => exact execAtomicResult_sound h
  | fail => exact execFail_sound h
  | wbDone => exact execWbDone_sound h
  | snoopTimeout => exact execSnoopTimeout_sound h
  | retryBackoff => exact execRetryBackoff_sound h
  | qpDoorbell => exact execQpDoorbell_sound h
  | doorbell => exact execDoorbell_sound h
  | write => exact execWrite_sound h
  | read => exact execRead_sound h
  | copy => exact execCopy_sound h
  | qpAtomic => exact execQpAtomic_sound h
  | pennantWrite => exact execPennantWrite_sound h
  | wait => exact execWait_sound h
  | flush => exact execFlush_sound h
  | signal => exact execSignal_sound h
  | ackTimeout => exact execAckTimeout_sound h
  | peerSlotReopen => exact execPeerSlotReopen_sound h
  | qpClose => exact execQpClose_sound h
  | qpCreate => exact execQpCreate_sound h
  | qpReset => exact execQpReset_sound h
  | qpDestroy => exact execQpDestroy_sound h
  | qpAbort => exact execQpAbort_sound h
  | abortResolve => exact execAbortResolve_sound h
  | pipeCreate => exact execPipeCreate_sound h
  | renew => exact execRenew_sound h
  | release => exact execRelease_sound h
  | transfer => exact execTransfer_sound h
  | claim => exact execClaim_sound h
  | ownAnswer => exact execOwnAnswer_sound h
  | leaseRenewal => exact execLeaseRenewal_sound h
  | leaseEnd => exact execLeaseEnd_sound h
  | ownerLeaseStop => exact execOwnerLeaseStop_sound h
  | keyRetireDeadline => exact execKeyRetireDeadline_sound h
  | keySlotZeroise => exact execKeySlotZeroise_sound h
  | keyRetireTimeout => exact execKeyRetireTimeout_sound h
  | groupArm => exact execGroupArm_sound h
  | groupDisarm => exact execGroupDisarm_sound h
  | colAbortCommand => exact execColAbortCommand_sound h
  | colLaunch => exact execColLaunch_sound h
  | colExp => exact execColExp_sound h
  | colEbcast => exact execColEbcast_sound h
  | colData => exact execColData_sound h
  | colPartial => exact execColPartial_sound h
  | colCommit => exact execColCommit_sound h
  | colResult => exact execColResult_sound h
  | colAbortReq => exact execColAbortReq_sound h
  | colAbort => exact execColAbort_sound h
  | colAbortAnswer => exact execColAbortAnswer_sound h
  | collectiveTimeout => exact execCollectiveTimeout_sound h
  | runPipeline => exact execRunPipeline_sound h
  | pipelineStart => exact execPipelineStart_sound h
  | pipelineComplete => exact execPipelineComplete_sound h
  | gatherBackup => exact execGatherBackup_sound h
  | searchShard => exact execSearchShard_sound h
  | searchAnswer => exact execSearchAnswer_sound h
  | searchBackup => exact execSearchBackup_sound h
  | sideAppend => exact execSideAppend_sound h
  | indexMerge m t r x k => simpa only [To, exec] using execIndexMerge_sound (m := m) (tenant := t) (region := r) (t := x) (metric := k) h
  | sideReclaim => exact execSideReclaim_sound h
  | frbEncode m d => simpa only [To, exec] using execFrbEncode_sound (m := m) (descriptor := d) h
  | linkDetect => exact execLinkDetect_sound h
  | equalizeDone => exact execEqualizeDone_sound h
  | frameLock => exact execFrameLock_sound h
  | cap => exact execCap_sound h
  | sessionHello => exact execSessionHello_sound h
  | sessionKem => exact execSessionKem_sound h
  | sessionFinish => exact execSessionFinish_sound h
  | creditInit => exact execCreditInit_sound h
  | time => exact execTime_sound h
  | rekey => exact execRekey_sound h
  | rekeyInterval => exact execRekeyInterval_sound h
  | rateUp => exact execRateUp_sound h
  | down => exact execDown_sound h
  | linkStateTimeout => exact execLinkStateTimeout_sound h
  | frameLockLoss => exact execFrameLockLoss_sound h
  | flitReceive => exact execFlitReceive_sound h
  | replayTimeout => exact execReplayTimeout_sound h
  | portMode => exact execPortMode_sound h
  | trayDone => exact execTrayDone_sound h
  | memRd => exact execMemRd_sound h
  | memWr => exact execMemWr_sound h
  | memWrPtl => exact execMemWrPtl_sound h
  | biRsp => exact execBiRsp_sound h
  | packetAdmit => exact execPacketAdmit_sound h
  | packetDepart => exact execPacketDepart_sound h
  | routeWrite => exact execRouteWrite_sound h
  | groupWrite => exact execGroupWrite_sound h
  | routeBankEmpty => exact execRouteBankEmpty_sound h
  | stuckQueue => exact execStuckQueue_sound h
  | queuePurge => exact execQueuePurge_sound h
  | samplerN => exact execSamplerN_sound h
  | sampleRecord => exact execSampleRecord_sound h
  | reconfiguration => exact execReconfiguration_sound h
  | policerRelease => exact execPolicerRelease_sound h
  | gateArm => exact execGateArm_sound h
  | gateTakeover => exact execGateTakeover_sound h
  | gateEntryChange x => exact execGateEntryChange_sound (_h := x) h
  | attestChallenge => exact execAttestChallenge_sound h
  | ephemeralKeyExpiry => exact execEphemeralKeyExpiry_sound h
  | tenantEnrol => exact execTenantEnrol_sound h
  | debugAuthorise => exact execDebugAuthorise_sound h
  | debugExpiry => exact execDebugExpiry_sound h
  | keyLoad => exact execKeyLoad_sound h
  | keyRotate => exact execKeyRotate_sound h
  | sweepDone => exact execSweepDone_sound h
  | keyRetire => exact execKeyRetire_sound h
  | tenantRemove => exact execTenantRemove_sound h
  | removalDeadline => exact execRemovalDeadline_sound h
  | removalWithdraw => exact execRemovalWithdraw_sound h
  | faultHeartbeat => exact execFaultHeartbeat_sound h
  | heartbeatSend => exact execHeartbeatSend_sound h
  | silentNeighbour => exact execSilentNeighbour_sound h
  | fencePropose => exact execFencePropose_sound h
  | fenceVote => exact execFenceVote_sound h
  | fenceVoteWindow => exact execFenceVoteWindow_sound h
  | fenceCommit => exact execFenceCommit_sound h
  | fenceAbandon => exact execFenceAbandon_sound h
  | fenceEndpoint => exact execFenceEndpoint_sound h
  | portFence => exact execPortFence_sound h
  | lineClear => exact execLineClear_sound h
  | ownMirror => exact execOwnMirror_sound h
  | ownMirrorAck => exact execOwnMirrorAck_sound h
  | ownershipBackupEp => exact execOwnershipBackupEp_sound h
  | faultRecord => exact execFaultRecord_sound h
  | requestTimeout => exact execRequestTimeout_sound h
  | watchdog => exact execWatchdog_sound h
  | unitFault => exact execUnitFault_sound h
  | undervoltage => exact execUndervoltage_sound h
  | drainDone => exact execDrainDone_sound h
  | meterTapFlush => exact execMeterTapFlush_sound h
  | meterTap => exact execMeterTap_sound h
  | intervalEnd => exact execIntervalEnd_sound h
  | intervalLength => exact execIntervalLength_sound h
  | fwStage => exact execFwStage_sound h
  | ensignFwActivate => exact execEnsignFwActivate_sound h
  | authorityKeys => exact execAuthorityKeys_sound h
  | recordAtCursor => exact execRecordAtCursor_sound h
  | ensignFinalRecord => exact execEnsignFinalRecord_sound h
  | dtlsHandshake => exact execDtlsHandshake_sound h
  | agwenHello => exact execAgwenHello_sound h
  | bind => exact execBind_sound h
  | agwenRead => exact execAgwenRead_sound h
  | agwenWrite => exact execAgwenWrite_sound h
  | compareWrite => exact execCompareWrite_sound h
  | readSeg => exact execReadSeg_sound h
  | writeSeg => exact execWriteSeg_sound h
  | segmentTimeout => exact execSegmentTimeout_sound h
  | subscribe => exact execSubscribe_sound h
  | eventAck => exact execEventAck_sound h
  | eventRepeat => exact execEventRepeat_sound h
  | keepalive => exact execKeepalive_sound h
  | close => exact execClose_sound h
  | sessionIdle => exact execSessionIdle_sound h
  | mgmtPortTakeover => exact execMgmtPortTakeover_sound h
  | dhcpLeaseExpiry => exact execDhcpLeaseExpiry_sound h
  | ownerClaim => exact execOwnerClaim_sound h
  | roleAnchors => exact execRoleAnchors_sound h
  | releaseRecord => exact execReleaseRecord_sound h
  | hostTakeover => exact execHostTakeover_sound h
  | mqDoorbell => exact execMqDoorbell_sound h
  | mqConfig => exact execMqConfig_sound h
  | eqDoorbell => exact execEqDoorbell_sound h
  | commandFetch => exact execCommandFetch_sound h
  | nop => exact execNop_sound h
  | completionRingFull => exact execCompletionRingFull_sound h
  | progressFree => exact execProgressFree_sound h
  | violationRecord => exact execViolationRecord_sound h
  | timeSync => exact execTimeSync_sound h
  | ppsIn => exact execPpsIn_sound h
  | ppsInLost => exact execPpsInLost_sound h
  | ppsOut => exact execPpsOut_sound h
  | zenithSet => exact execZenithSet_sound h
  | squallTrigger => exact execSquallTrigger_sound h
  | squallPacket => exact execSquallPacket_sound h
  | squall => exact execSquall_sound h
  | extest => exact execExtest_sound h
  | samplePreload => exact execSamplePreload_sound h
  | idcode => exact execIdcode_sound h
  | scanSelect => exact execScanSelect_sound h
  | scanRead => exact execScanRead_sound h
  | bypass => exact execBypass_sound h
  | scanData => exact execScanData_sound h
  | horizonCapture => exact execHorizonCapture_sound h
  | horizon => exact execHorizon_sound h
  | horizonLatch => exact execHorizonLatch_sound h
  | horizonReady => exact execHorizonReady_sound h
  | horizonRelease => exact execHorizonRelease_sound h
  | counterPage => exact execCounterPage_sound h
  | powerUp => exact execPowerUp_sound h
  | resetRelease => exact execResetRelease_sound h
  | reducedService => exact execReducedService_sound h
  | stackRetrain => exact execStackRetrain_sound h
  | cumulusSelfTest => exact execCumulusSelfTest_sound h
  | fullService => exact execFullService_sound h
  | fullTimeout => exact execFullTimeout_sound h
  | partitionBoot => exact execPartitionBoot_sound h
  | fwImage => exact execFwImage_sound h
  | fwActivate => exact execFwActivate_sound h
  | selfReset => exact execSelfReset_sound h
  | fwConfirm => exact execFwConfirm_sound h
  | fwRollback => exact execFwRollback_sound h
  | resetN => exact execResetN_sound h
  | perstN => exact execPerstN_sound h
  | inputLoss => exact execInputLoss_sound h
  | holdupTest => exact execHoldupTest_sound h
  | holdupTestEnd => exact execHoldupTestEnd_sound h
  | holdupTestNow => exact execHoldupTestNow_sound h
  | domainEnable => exact execDomainEnable_sound h
  | domainPowerDown => exact execDomainPowerDown_sound h
  | domainWake => exact execDomainWake_sound h
  | thermalSample => exact execThermalSample_sound h
  | registerWrite => exact execRegisterWrite_sound h
  | controlMessageRepeat => exact execControlMessageRepeat_sound h
  | regulatorFailure => exact execRegulatorFailure_sound h
  | dtlsAlert => exact execDtlsAlert_sound h
  | dhcpLease => exact execDhcpLease_sound h
  | arpNdIcmpEcho => exact execArpNdIcmpEcho_sound h
  | mgmtLinkUp => exact execMgmtLinkUp_sound h
  | cxlTrayMemCompletion => exact execCxlTrayMemCompletion_sound h

/-- Settles O53: the step of an empty queue is a tick and wear, any other is the front command's. -/
theorem everyStepKeepsTheBlockSound : Obligations.EveryStepKeepsTheBlockSound := by
  unfold Obligations.EveryStepKeepsTheBlockSound
  intro s t hs ht
  unfold step at ht
  split at ht
  · cases ht
    exact Qf.wear_sound (Qf.tick_sound hs)
  · rename_i c cs _
    obtain ⟨q, hq, hsound⟩ := exec_sound (s := { s with pending := cs }) hs c
    cases hq.symm.trans ht
    exact hsound

/-- Settles O52: after reset the system area, the rings and the waiting events are empty. -/
theorem resetIsSound : Obligations.ResetIsSound := by
  unfold Obligations.ResetIsSound Sound
  decide

/-- Settles O49: the definition of a step, on a queue that is not empty. -/
theorem stepRunsFront : Obligations.StepRunsFront := by
  unfold Obligations.StepRunsFront
  intro s c cs
  rfl

/-- Settles O50: the definition of a step, on an empty queue. -/
theorem idleStepIsOneTick : Obligations.IdleStepIsOneTick := by
  unfold Obligations.IdleStepIsOneTick
  intro s hnone
  rw [step, hnone]

end Sys2Proof.Proofs

/-! Requests of a session: how one is answered (R453), what its role allows (R447, Table MGMT-1), how a refused one is answered
(Table MGMT-4), and what a session's own commands leave as it was (R457). -/

namespace Sys2Proof.Proofs
open Sys2Proof.Machine Sys2Proof.Claims

/-! ### Answers -/

/-- A fresh request is answered with what its meaning gives on the block that has heard it. -/
theorem to_of_request {c : Instr} {s : State} {a : AgwenRef} {x : AgSession} {op : BitVec 8} {early : Bool} {r : Reply} {t : Qf}
    {f : AgSession → Qf → Reply × Qf} (hc : exec c s = done (fun q => q.agRequest a op early f) s) (hf : Fresh s.qf a x)
    (hr : f x (heard s.qf a) = (r, t)) : To c s (t.answerFrame a.session (replyFrame a op r)) :=
  to_of_done hc (by rw [agRequest_of_fresh hf, hr])

/-- A fresh request whose meaning refuses it is answered so, and the block has only heard it. -/
theorem denied_of_request {c : Instr} {s : State} {a : AgwenRef} {x : AgSession} {op : BitVec 8} {early : Bool} {detail : Nat}
    {st : Status} {bs : List Byte} {f : AgSession → Qf → Reply × Qf}
    (hc : exec c s = done (fun q => q.agRequest a op early f) s) (hf : Fresh s.qf a x)
    (hr : f x (heard s.qf a) = ({ verdict := { status := st, detail := BitVec.ofNat 8 detail }, payload := bs }, heard s.qf a)) :
    To c s (denied (heard s.qf a) a op detail st bs) :=
  to_of_request hc hf hr

/-- A request whose meaning, where ok holds, is an OK with a payload, asks as Asks states it. -/
theorem asks_of_request {c : AgwenRef → Instr} {op : BitVec 8} {early : Bool} {ok : Qf → AgSession → Prop}
    {f : AgSession → Qf → Reply × Qf} {g : Qf → AgSession → Qf} {r : Qf → AgSession → List Byte × Bool}
    (hc : ∀ a s, exec (c a) s = done (fun q => q.agRequest a op early f) s)
    (hr : ∀ q x, ok q x → f x q = ({ payload := (r q x).1, final := (r q x).2 }, g q x)) : Asks c op ok g r := by
  rintro s a x q hf rfl hok
  exact to_of_request (hc a s) hf (hr _ _ hok)

/-- A request answered before is answered again, and does nothing (R453). -/
theorem agRequest_of_answered {q : Qf} {a : AgwenRef} {x : AgSession} {k : AgFrame} (hx : q.session a.session = some x)
    (hlive : q.agLive = true) (hk : x.kept.find? (fun f => f.seq = a.seq) = some k) (op : BitVec 8) (early : Bool)
    (f : AgSession → Qf → Reply × Qf) :
    q.agRequest a op early f = inMgmt (heard q a) (fun m => { m with outbox := m.outbox ++ [k] }) := by
  simp [Qf.agRequest, hx, hlive, hk]

/-- Settles O59: each of the commands is a request of its session, whatever it asks. -/
theorem repeatedRequestsDoNothing : Obligations.RepeatedRequestsDoNothing := by
  unfold Obligations.RepeatedRequestsDoNothing
  intro s a x k hx hlive hk index sub v w off fin mask im c hc
  have again : ∀ {c : Instr} {op early f}, exec c s = done (fun q => q.agRequest a op early f) s →
      To c s (inMgmt (heard s.qf a) (fun m => { m with outbox := m.outbox ++ [k] })) :=
    fun hc => to_of_done hc (agRequest_of_answered hx hlive hk _ _ _)
  fin_cases hc <;> exact again rfl

/-! ### The entry that a request names -/

theorem entryAt_mem {index : BitVec 16} {sub : BitVec 8} {e : Entry} (h : entryAt index sub = some e) :
    e ∈ entries ∧ e.index = index ∧ e.sub = sub := by
  have hp := List.find?_some h
  simp only [Bool.and_eq_true, decide_eq_true_eq] at hp
  exact ⟨List.mem_of_find?_eq_some h, hp⟩

theorem entryAt_of_entryFor {q : Qf} {x : AgSession} {index : BitVec 16} {sub : BitVec 8} {e : Entry}
    (h : q.entryFor x index sub = some e) : entryAt index sub = some e := by
  unfold Qf.entryFor at h
  cases he : entryAt index sub with
  | none => simp [he] at h
  | some e' =>
    simp only [he] at h
    split at h
    · cases h
    · exact h

/-- An entry of world S is not one that a session holds for itself, one of the metering service, nor the owner's claim. -/
theorem secure_entries_reserved : ∀ e ∈ entries, e.secure = true → e.index.toNat < 0xF000 →
    perSession e.index e.sub = false ∧ ¬ (0x7000 ≤ e.index.toNat ∧ e.index.toNat < 0x8000) ∧
    ¬ (e.index = 0x1020 ∧ e.sub = 1) := by
  decide +kernel

/-! ### Roles (R447, Table MGMT-1) -/

/-- No role but the owner's writes an entry of world S. -/
theorem mayWrite_of_secure {x : AgSession} {e : Entry} (he : e ∈ entries) (hsec : e.secure = true) (hi : e.index.toNat < 0xF000)
    (hrole : x.role ≠ 1) : mayWrite x e = false := by
  obtain ⟨hps, hens, hclaim⟩ := secure_entries_reserved e he hsec hi
  have hclaim' : ¬ (e.index.toNat = 0x1020 ∧ e.sub = 1) := fun h => hclaim ⟨BitVec.eq_of_toNat_eq h.1, h.2⟩
  unfold mayWrite
  simp only [if_neg (Nat.not_le.2 hi), hps, Bool.false_eq_true, if_false, hsec, Bool.not_true, Bool.false_and]
  split
  · contradiction
  · rfl
  · simpa using hens
  · rfl
  · simpa using hclaim'

/-- No role but the owner's and the authorised debugger's reads an entry of world S. -/
theorem mayRead_of_secure {q : Qf} {x : AgSession} {e : Entry} (he : e ∈ entries) (hsec : e.secure = true)
    (hi : e.index.toNat < 0xF000) (hrole : x.role ≠ 1)
    (hdbg : x.role ≠ 4 ∨ e.index.toNat < 0x8000 ∨ 0x9000 ≤ e.index.toNat ∨ q.debugOn = false) : q.mayRead x e = false := by
  obtain ⟨hps, -, -⟩ := secure_entries_reserved e he hsec hi
  unfold Qf.mayRead
  simp only [if_neg (Nat.not_le.2 hi), hps, Bool.false_eq_true, if_false, hsec, Bool.not_true, Bool.false_or, Bool.and_false]
  split
  · contradiction
  · rfl
  · rfl
  · rename_i h4
    simp only [Bool.and_eq_false_iff, decide_eq_false_iff_not]
    rcases hdbg with h | h | h | h
    · exact absurd h4 h
    · exact .inl (.inl (by omega))
    · exact .inl (.inr (by omega))
    · exact .inr h
  · rfl

/-! ### What bars a write (R455) and a read (R447) -/

section
variable {q : Qf} {x : AgSession} {index : BitVec 16} {sub : BitVec 8} {e : Entry}

theorem writeBar_of_no_entry (h : q.entryFor x index sub = none) : q.writeBar x index sub = .error (unknown 5) := by
  simp [Qf.writeBar, h]

theorem writeBar_of_no_right (h : q.entryFor x index sub = some e) (hw : mayWrite x e = false) :
    q.writeBar x index sub = .error (deny 1) := by
  simp [Qf.writeBar, h, hw]

theorem writeBar_of_not_written (h : q.entryFor x index sub = some e) (hw : mayWrite x e = true)
    (ha : e.access = .ro ∨ e.access = .const) : q.writeBar x index sub = .error (deny 2) := by
  rcases ha with ha | ha <;> simp [Qf.writeBar, h, hw, ha]

theorem dictWrite_of_barred {v : Verdict} (h : q.writeBar x index sub = .error v) (bs : List Byte) :
    q.dictWrite x index sub bs = (v, q) := by
  simp [Qf.dictWrite, Qf.writeWith, h]

theorem writeSeg_of_barred {v : Verdict} (h : q.writeBar x index sub = .error v) (o : Nat) (fin : Bool) (bs : List Byte) :
    q.writeSeg x index sub o fin bs = (v, q) := by
  simp [Qf.writeSeg, h]

theorem dictRead_of_no_entry (h : q.entryFor x index sub = none) (most : Option Nat) :
    q.dictRead x index sub most = ({ verdict := unknown 5 }, q) := by
  simp [Qf.dictRead, h]

theorem dictRead_of_no_right (h : q.entryFor x index sub = some e) (hr : q.mayRead x e = false) (most : Option Nat) :
    q.dictRead x index sub most = ({ verdict := deny 1 }, q) := by
  simp [Qf.dictRead, h, hr]

theorem dictRead_of_write_only (h : q.entryFor x index sub = some e) (hr : q.mayRead x e = true) (ha : e.access = .wo)
    (most : Option Nat) : q.dictRead x index sub most = ({ verdict := deny 2 }, q) := by
  simp [Qf.dictRead, h, hr, ha]

/-- A scan chain is read while the block is squalled, and not else (R493). -/
theorem dictRead_scan_of_running (h : q.entryFor x 0x8311 0x02 = some e) (hr : q.mayRead x e = true) (ha : e.access ≠ .wo)
    (hs : q.dbg.squalled = false) (most : Option Nat) : q.dictRead x 0x8311 0x02 most = ({ verdict := deny 3 }, q) := by
  rw [Qf.dictRead, h]
  simp [hr, ha, hs, entryKey]

/-- The first segment of a read whose value is refused is refused as the read is. -/
theorem readSeg_of_refused {r : Reply} (h : q.dictRead x index sub none = (r, q)) (hr : r.verdict.status ≠ .ok) :
    q.readSeg x index sub 0 = (r, q) := by
  simp [Qf.readSeg, h, hr]

end

/-! ### AGWEN_WRITE and the other requests that write -/

/-- What AGWEN_WRITE makes of a value: one above 1,128 bytes is refused for its length. -/
def agwenWriteAns (q : Qf) (x : AgSession) (index : BitVec 16) (sub : BitVec 8) (v : List Byte) : Ans :=
  if 1128 < v.length then (match q.writeBar x index sub with | .error b => (b, q) | .ok _ => (deny 4, q))
  else q.dictWrite x index sub v

theorem exec_agwenWrite (a : AgwenRef) (index : BitVec 16) (sub : BitVec 8) (v : List Byte) (s : State) :
    exec (.agwenWrite a index sub v) s =
      done (fun q => q.agRequest a 0x04 false (fun x q => plainReply (agwenWriteAns q x index sub v))) s := rfl

theorem agwenWriteAns_of_barred {q : Qf} {x : AgSession} {index : BitVec 16} {sub : BitVec 8} {b : Verdict}
    (h : q.writeBar x index sub = .error b) (v : List Byte) : agwenWriteAns q x index sub v = (b, q) := by
  unfold agwenWriteAns
  split
  · simp [h]
  · exact dictWrite_of_barred h v

/-- What COMPARE_WRITE makes of an expected value and a new one. -/
def compareWriteAns (q : Qf) (x : AgSession) (index : BitVec 16) (sub : BitVec 8) (w v : List Byte) : Reply × Qf :=
  if x.version != 2 then ({ verdict := unknown 6 }, q)
  else match q.writeBar x index sub with
    | .error b => ({ verdict := b }, q)
    | .ok e =>
      if e.access = .wo then ({ verdict := deny 2 }, q)
      else if q.valueFor x e = w then plainReply (q.dictWrite x index sub v)
      else ({ verdict := { status := .versionConflict }, payload := q.valueFor x e }, q)

theorem exec_compareWrite (a : AgwenRef) (index : BitVec 16) (sub : BitVec 8) (w v : List Byte) (s : State) :
    exec (.compareWrite a index sub w v) s =
      done (fun q => q.agRequest a 0x05 false (fun x q => compareWriteAns q x index sub w v)) s := rfl

/-- Settles O40: the right is looked at before anything else of a request that names an entry. -/
theorem rightsAreChecked : Obligations.RightsAreChecked := by
  unfold Obligations.RightsAreChecked
  constructor
  · intro s a x e index sub v w o fin hf he
    refine ⟨fun hw => ?_, fun hr => ⟨?_, ?_⟩⟩
    · have hbar := writeBar_of_no_right he hw
      refine ⟨denied_of_request (exec_agwenWrite a index sub v s) hf ?_, denied_of_request rfl hf ?_, denied_of_request rfl hf ?_,
        fun h2 => denied_of_request (exec_compareWrite a index sub w v s) hf ?_⟩
      · rw [agwenWriteAns_of_barred hbar]
        rfl
      · rw [dictWrite_of_barred hbar]
        rfl
      · rw [writeSeg_of_barred hbar]
        rfl
      · simp [compareWriteAns, h2, hbar, deny]
    · refine denied_of_request rfl hf ?_
      exact dictRead_of_no_right he hr _
    · refine denied_of_request rfl hf ?_
      exact readSeg_of_refused (dictRead_of_no_right he hr none) (by decide)
  · intro q x index sub e he hsec hi hrole
    obtain ⟨hmem, rfl, rfl⟩ := entryAt_mem (entryAt_of_entryFor he)
    exact ⟨mayWrite_of_secure hmem hsec hi hrole, mayRead_of_secure hmem hsec hi hrole⟩

/-! ### Refusals (Table MGMT-4) -/

/-- A value of the wrong length is refused by every entry that a session does not hold for itself. -/
theorem dictWrite_of_wrong_length {q : Qf} {x : AgSession} {index : BitVec 16} {sub : BitVec 8} {e : Entry} {n : Nat}
    {v : List Byte} (hbar : q.writeBar x index sub = .ok e) (hps : perSession index sub = false) (hn : e.type.width = some n)
    (hv : v.length ≠ n) : q.dictWrite x index sub v = (deny 4, q) :=
  dictWrite_of_refused hbar hps (by decide) (by simp [Qf.writeTyped, hn, hv, deny])

theorem agwenWriteAns_of_long {q : Qf} {x : AgSession} {index : BitVec 16} {sub : BitVec 8} {e : Entry} {v : List Byte}
    (hbar : q.writeBar x index sub = .ok e) (hv : 1128 < v.length) : agwenWriteAns q x index sub v = (deny 4, q) := by
  simp [agwenWriteAns, hv, hbar]

theorem agwenWriteAns_of_short {q : Qf} {x : AgSession} {index : BitVec 16} {sub : BitVec 8} {v : List Byte}
    (hv : v.length ≤ 1128) : agwenWriteAns q x index sub v = q.dictWrite x index sub v :=
  if_neg (Nat.not_lt.2 hv)

theorem entryAt_scanData : entryAt 0x8311 0x02 = some ⟨0x8311, 2, .blob, .ro, false⟩ := by decide +kernel

/-- Settles O41: each refusal by the first test of the request that fails. -/
theorem refusedRequestsChangeNothing : Obligations.RefusedRequestsChangeNothing := by
  unfold Obligations.RefusedRequestsChangeNothing
  rintro s a x q index sub v w hf rfl
  have hwrite := exec_agwenWrite a index sub v s
  have hcompare := exec_compareWrite a index sub w v s
  refine ⟨fun hnone => ⟨denied_of_request rfl hf ?_, denied_of_request hwrite hf ?_⟩,
    fun hversion => denied_of_request hcompare hf ?_, fun e he hr ha => denied_of_request rfl hf ?_,
    fun e he hw ha => denied_of_request hwrite hf ?_, fun e n hbar hps hn hv => denied_of_request hwrite hf ?_,
    fun e hbar hlong => denied_of_request hwrite hf ?_, fun e hbar h2 ha => denied_of_request hcompare hf ?_,
    fun e hbar h2 ha hne => denied_of_request hcompare hf ?_, fun e he hr hs => denied_of_request rfl hf ?_⟩
  · exact dictRead_of_no_entry hnone _
  · rw [agwenWriteAns_of_barred (writeBar_of_no_entry hnone)]
    rfl
  · simp [compareWriteAns, hversion, unknown]
  · exact dictRead_of_write_only he hr ha _
  · rw [agwenWriteAns_of_barred (writeBar_of_not_written he hw ha)]
    rfl
  · rcases Nat.lt_or_ge 1128 v.length with hlong | hshort
    · rw [agwenWriteAns_of_long hbar hlong]
      rfl
    · rw [agwenWriteAns_of_short hshort, dictWrite_of_wrong_length hbar hps hn hv]
      rfl
  · rw [agwenWriteAns_of_long hbar hlong]
    rfl
  · simp [compareWriteAns, h2, hbar, ha, deny]
  · simp [compareWriteAns, h2, hbar, ha, hne]
  · obtain rfl := Option.some.inj (entryAt_scanData.symm.trans (entryAt_of_entryFor he))
    exact readSeg_of_refused (dictRead_scan_of_running he hr (by decide) hs none) (by decide)

end Sys2Proof.Proofs

/-! Reads of the dictionary (R453 to R455, R465, R493): the value that is answered, and what the read does. -/

namespace Sys2Proof.Proofs
open Sys2Proof.Machine Sys2Proof.Claims

section
variable {q : Qf} {x : AgSession} {index : BitVec 16} {sub : BitVec 8} {e : Entry}

/-- A read that nothing refuses answers the value and has the read's effect. -/
theorem dictRead_of_readable (h : Readable q x index sub e) :
    q.dictRead x index sub none = ({ payload := q.valueFor x e }, q.readEffect x (entryKey index sub)) := by
  obtain ⟨he, hr, ha, hscan⟩ := h
  have hopen : (decide (entryKey index sub = 0x831102) && !q.dbg.squalled) = false := by
    by_cases hk : entryKey index sub = 0x831102
    · simp [hscan hk]
    · simp [hk]
  simp [Qf.dictRead, he, hr, ha, hopen]

/-- A read of bounded length answers a value that keeps the bound. -/
theorem dictRead_of_readable_short {n : Nat} (h : Readable q x index sub e) (hlen : (q.valueFor x e).length ≤ n) :
    q.dictRead x index sub (some n) = ({ payload := q.valueFor x e }, q.readEffect x (entryKey index sub)) := by
  rw [← dictRead_of_readable h]
  obtain ⟨he, -⟩ := h
  simp [Qf.dictRead, he, Nat.not_lt.2 hlen]

/-- A value of at most 1,024 bytes is read in one segment (R455). -/
theorem readSeg_whole (h : Readable q x index sub e) (hlen : (q.valueFor x e).length ≤ 1024) :
    q.readSeg x index sub 0 =
      ({ payload := q.valueFor x e, final := true }, (q.readEffect x (entryKey index sub)).dropSegment x false index sub) := by
  simp [Qf.readSeg, dictRead_of_readable h, hlen, List.take_of_length_le hlen]

/-- The first segment of a longer value answers 1,024 bytes and keeps the value (R455). -/
theorem readSeg_first (h : Readable q x index sub e) (hlen : 1024 < (q.valueFor x e).length) :
    q.readSeg x index sub 0 =
      ({ payload := (q.valueFor x e).take 1024 },
       (q.readEffect x (entryKey index sub)).putSegment x {
        index, sub, data := q.valueFor x e, write := false, last := (q.readEffect x (entryKey index sub)).now }) := by
  simp [Qf.readSeg, dictRead_of_readable h, Nat.not_le.2 hlen]

/-- The last segment answers the rest of the value that the first one kept (R455). -/
theorem readSeg_last {o : Nat} {g : Segment} (ho : o ≠ 0) (hg : x.segs.find? (fun g => g.is false index sub) = some g)
    (hin : o ≤ g.data.length) (hend : g.data.length ≤ o + 1024) :
    q.readSeg x index sub o =
      ({ payload := (g.data.drop o).take 1024, final := true }, q.dropSegment x false index sub) := by
  simp [Qf.readSeg, ho, hg, Nat.not_lt.2 hin, hend]

end

/-! ### The entries whose reading does more than answer -/

theorem entryAt_sampleRecord : entryAt 0x8101 0x01 = some ⟨0x8101, 1, .blob, .ro, false⟩ := by decide +kernel

theorem entryAt_faultRecord : entryAt 0x8200 0x02 = some ⟨0x8200, 2, .blob, .ro, false⟩ := by decide +kernel

theorem entryAt_violationRecord : entryAt 0x8020 0x01 = some ⟨0x8020, 1, .blob, .ro, true⟩ := by decide +kernel

theorem entryAt_recordAtCursor : entryAt 0x7010 0x04 = some ⟨0x7010, 4, .signedRecord, .ro, false⟩ := by decide +kernel

/-- The entry that a session reads is the dictionary's there. -/
theorem entry_eq_of_readable {q : Qf} {x : AgSession} {index : BitVec 16} {sub : BitVec 8} {e e' : Entry}
    (h : Readable q x index sub e) (he : entryAt index sub = some e') : e = e' :=
  Option.some.inj ((entryAt_of_entryFor h.1).symm.trans he)

theorem valueFor_sampleRecord (q : Qf) (x : AgSession) :
    q.valueFor x ⟨0x8101, 1, .blob, .ro, false⟩ = (q.sw.samples.take 1).flatMap (bytesOf 192) := by
  cases h : q.sw.samples <;> simp [Qf.valueFor, perSession, entryKey, Qf.readEntry, Qf.readCore, h]

theorem valueFor_faultRecord (q : Qf) (x : AgSession) :
    q.valueFor x ⟨0x8200, 2, .blob, .ro, false⟩ = (q.flt.ring.take 1).flatMap (bytesOf 32) := by
  cases h : q.flt.ring <;> simp [Qf.valueFor, perSession, entryKey, Qf.readEntry, Qf.readFaults, h]

theorem valueFor_violationRecord (q : Qf) (x : AgSession) :
    q.valueFor x ⟨0x8020, 1, .blob, .ro, true⟩ = (q.mgmt.violations.take 1).flatMap (bytesOf 32) := by
  cases h : q.mgmt.violations <;> simp [Qf.valueFor, perSession, entryKey, Qf.readEntry, Qf.readMgmt, h]

theorem valueFor_recordAtCursor (q : Qf) (x : AgSession) :
    q.valueFor x ⟨0x7010, 4, .signedRecord, .ro, false⟩ = (q.ens.atCursor (x.selects.get 0x110001 0)).1 := by
  simp [Qf.valueFor, perSession, entryKey]

theorem valueFor_scanData (q : Qf) (x : AgSession) :
    q.valueFor x ⟨0x8311, 2, .blob, .ro, false⟩ = q.scanBytes (x.selects.get 0x831100 0) := by
  simp [Qf.valueFor, perSession, entryKey, Qf.readEntry, Qf.readObserve, AgSession.sel, selectOf]

/-- Settles O25: the request asks for the read, and the read is one of those above. -/
theorem dictionaryReadsTakeEffect : Obligations.DictionaryReadsTakeEffect := by
  unfold Obligations.DictionaryReadsTakeEffect
  refine ⟨fun index sub e => asks_of_request (fun _ _ => rfl) fun q x h => ?_,
    fun e => asks_of_request (fun _ _ => rfl) fun q x h => ?_, fun e => asks_of_request (fun _ _ => rfl) fun q x h => ?_,
    fun e => asks_of_request (fun _ _ => rfl) fun q x h => ?_, fun e => asks_of_request (fun _ _ => rfl) fun q x h => ?_,
    fun e => asks_of_request (fun _ _ => rfl) fun q x h => ?_, fun e => asks_of_request (fun _ _ => rfl) fun q x h => ?_,
    fun index sub e => asks_of_request (fun _ _ => rfl) fun q x h => ?_,
    fun index sub g o => asks_of_request (fun _ _ => rfl) fun q x h => ?_⟩
  · exact dictRead_of_readable_short h.1 h.2
  · rw [dictRead_of_readable h, entry_eq_of_readable h entryAt_sampleRecord, valueFor_sampleRecord]
    rfl
  · rw [dictRead_of_readable h, entry_eq_of_readable h entryAt_faultRecord, valueFor_faultRecord]
    rfl
  · rw [dictRead_of_readable h, entry_eq_of_readable h entryAt_violationRecord, valueFor_violationRecord]
    rfl
  · rw [dictRead_of_readable h, entry_eq_of_readable h entryAt_recordAtCursor, valueFor_recordAtCursor]
    rfl
  · obtain ⟨hread, hlen⟩ := h
    obtain rfl := entry_eq_of_readable hread entryAt_scanData
    rw [← valueFor_scanData] at hlen ⊢
    exact readSeg_whole hread hlen
  · obtain ⟨hread, hlen⟩ := h
    obtain rfl := entry_eq_of_readable hread entryAt_scanData
    rw [← valueFor_scanData] at hlen ⊢
    exact readSeg_first hread hlen
  · exact readSeg_whole h.1 h.2
  · obtain ⟨ho, hg, hin, hend⟩ := h
    have ho' : o.toNat ≠ 0 := fun h => ho (BitVec.eq_of_toNat_eq h)
    exact readSeg_last ho' hg hin hend

end Sys2Proof.Proofs

/-! Writes of the dictionary (R454 to R457, R467, R516), and the sessions that make them (R443 to R446, R452, R455, R459,
R460). -/

namespace Sys2Proof.Proofs
open Sys2Proof.Machine Sys2Proof.Claims

/-! ### Writes that their entry takes -/

section
variable {q : Qf} {x : AgSession} {index : BitVec 16} {sub : BitVec 8} {e : Entry} {v : List Byte}

/-- What a session may write, its entry is in the dictionary under the index and sub-index named. -/
theorem index_of_writeBar (h : q.writeBar x index sub = .ok e) : e.index = index ∧ e.sub = sub :=
  (entryAt_mem (entryAt_of_writeBar h)).2

/-- A selection within its range is kept for the session, and in no settings store (R457, R515). -/
theorem dictWrite_of_selection (hbar : q.writeBar x index sub = .ok e) (hps : perSession index sub = true)
    (hlen : v.length = e.type.width.getD 0) (hmax : leNat v ≤ selectMax (entryKey index sub)) :
    q.dictWrite x index sub v =
      ((q.updSession x.id (fun y => { y with selects := y.selects.set (entryKey index sub) (leNat v) })).storeSetting e
        (x.sel (entryKey index sub))).okAns := by
  obtain ⟨rfl, rfl⟩ := index_of_writeBar hbar
  simp [Qf.dictWrite, Qf.writeWith, hbar, hps, Qf.writeSelect, hlen, Nat.not_lt.2 hmax, Qf.okAns]

/-- COMPARE_WRITE in version 2 writes where the entry holds the value expected (R456). -/
theorem compareWriteAns_of_equal (hbar : q.writeBar x index sub = .ok e) (h2 : x.version = 2) (ha : e.access ≠ .wo) {w : List Byte}
    (hw : q.valueFor x e = w) : compareWriteAns q x index sub w v = plainReply (q.dictWrite x index sub v) := by
  simp [compareWriteAns, h2, hbar, ha, hw]

/-- The first segment of a write of an entry other than an image opens the write, and reserves the entry (R455). -/
theorem writeSeg_opens (hbar : q.writeBar x index sub = .ok e) (hkey : entryKey index sub ≠ 0x901001) (hlen : v.length ≤ 1024)
    (hnone : x.segs.find? (fun g => g.is true index sub) = none) :
    q.writeSeg x index sub 0 false v = (q.putSegment x { index, sub, data := v, last := q.now }).okAns := by
  simp [Qf.writeSeg, hbar, Nat.not_lt.2 hlen, hnone, hkey, Qf.segJoin, Qf.updProgress]

/-- A further segment, which starts where the write stands, joins it (R455). -/
theorem writeSeg_joins {o : Nat} {g : Segment} (hbar : q.writeBar x index sub = .ok e) (ho : o ≠ 0) (hlen : v.length ≤ 1024)
    (hg : x.segs.find? (fun g => g.is true index sub) = some g) (hend : g.data.length = o) :
    q.writeSeg x index sub o false v =
      ((q.updProgress g.progress (fun p => { p with position := g.data.length + v.length })).putSegment x
        { g with data := g.data ++ v, last := q.now }).okAns := by
  simp [Qf.writeSeg, hbar, Nat.not_lt.2 hlen, ho, hg, hend, Qf.segJoin]

/-- A write that ends with OK is kept in the settings store. -/
theorem writeWith_of_ok {f : Entry → Qf → Ans} {t : Qf} (hbar : q.writeBar x index sub = .ok e) (hf : f e q = t.okAns) :
    q.writeWith x index sub f = (t.storeSetting e (x.sel (entryKey index sub))).okAns := by
  simp [Qf.writeWith, hbar, hf, Qf.okAns]

/-- An image is staged where nothing bars an update and a progress object is free (R516, R517). -/
theorem stageImage_of_free {i : FwImage} {k : Nat} {t : Qf} (hbar : q.updateBar = 0)
    (hp : q.newProgress 7 4 ((imageBytes i).length + 5139) = some (k, t)) :
    q.stageImage i = (inBoot t (fun b => { b.putOther none with stageState := 0 })).stageEnd (some k) i := by
  simp [Qf.stageImage, Qf.stageOpen, hbar, hp, Qf.okAns]

end

/-- A staging write that ends is answered OK, good image or not (log 59). -/
theorem stageEnd_ok (q : Qf) (k : Option Nat) (i : FwImage) : q.stageEnd k i = (q.stageEnd k i).2.okAns := rfl

/-- A command that writes a session's value asks for what the write is where it is taken. -/
theorem asks_of_write {c : AgwenRef → Instr} {op : BitVec 8} {ok : Qf → AgSession → Prop} {f : AgSession → Qf → Ans}
    {g : Qf → AgSession → Qf} (hc : ∀ a s, exec (c a) s = done (fun q => q.agRequest a op false (fun x q => plainReply (f x q))) s)
    (hf : ∀ q x, ok q x → f x q = (g q x).okAns) : Asks c op ok g :=
  asks_of_request hc fun q x h => by
    rw [hf q x h]
    rfl

/-- Settles O26: each request is a write of its session, and the write is one of those above; a BAR0 write through the active
port is one of its register. -/
theorem dictionaryWritesTakeEffect : Obligations.DictionaryWritesTakeEffect := by
  unfold Obligations.DictionaryWritesTakeEffect
  refine ⟨fun index sub v w e q' ok hps hlen hok => ?_, fun index sub v e hps hlen => ?_,
    fun index sub v e hkey hlen => asks_of_write (fun _ _ => rfl) fun q x h => ?_,
    fun index sub o v e g ho hlen hend => asks_of_write (fun _ _ => rfl) fun q x h => ?_,
    fun i e => asks_of_write (fun _ _ => rfl) fun q x h => ?_, fun i e k q1 => asks_of_write (fun _ _ => rfl) fun q x h => ?_,
    fun s port o v hon hactive => to_of_done (f := fun q => q.bar0Write port (fun q => q.bar0Reg port o v)) rfl ?_⟩
  · have hwrite : ∀ q x, ok q x →
        q.dictWrite x index sub v = ((q' q x).storeSetting e (x.sel (entryKey index sub))).okAns := fun q x h => by
      obtain ⟨hbar, htaken⟩ := (hok q x).1 h
      exact dictWrite_of_taken hbar hps htaken
    refine ⟨asks_of_write (exec_agwenWrite · index sub v) fun q x h => ?_, asks_of_write (fun _ _ => rfl) hwrite,
      asks_of_request (exec_compareWrite · index sub w v) fun q x h => ?_⟩
    · rw [agwenWriteAns_of_short hlen, hwrite q x h]
    · obtain ⟨hx, h2, ha, hw⟩ := h
      rw [compareWriteAns_of_equal ((hok q x).1 hx).1 h2 ha hw, hwrite q x hx]
      rfl
  · refine asks_of_write (exec_agwenWrite · index sub v) fun q x h => ?_
    obtain ⟨hbar, hwidth, hmax⟩ := h
    rw [agwenWriteAns_of_short hlen, dictWrite_of_selection hbar hps hwidth hmax]
  · exact writeSeg_opens h.1 hkey hlen h.2
  · exact writeSeg_joins h.1 (fun h0 => ho (BitVec.eq_of_toNat_eq h0)) hlen h.2 hend
  · exact writeWith_of_ok h rfl
  · obtain ⟨hbar, hfree, hp⟩ := h
    exact writeWith_of_ok hbar ((stageImage_of_free hfree hp).trans (stageEnd_ok _ _ _))
  · simp [Qf.bar0Write, hon, hactive]

end Sys2Proof.Proofs

/-! Sessions open, go on and end (R443 to R446, R452, R455, R459, R460), and what their own commands leave as it was (R457). -/

namespace Sys2Proof.Proofs
open Sys2Proof.Machine Sys2Proof.Claims

/-! ### Requests before a session is established (R445) -/

/-- HELLO and BIND are carried out in the phase that awaits them. -/
theorem agRequest_of_awaited {q : Qf} {a : AgwenRef} {x : AgSession} {n : Nat} (h : Awaits q a x n) (op : BitVec 8)
    (f : AgSession → Qf → Reply × Qf) :
    q.agRequest a op true f = (f x (heard q a)).2.answerFrame a.session (replyFrame a op (f x (heard q a)).1) := by
  obtain ⟨hunanswered, hnotstale⟩ := awaited_not_answered_or_stale h
  obtain ⟨hsession, hlive, -⟩ := h
  simp [Qf.agRequest, hsession, hlive, hunanswered, hnotstale, replyFrame]

theorem session_id {q : Qf} {n : Nat} {x : AgSession} (h : q.session n = some x) : x.id = n := by
  simpa using List.find?_some h

/-- An open write of a session, silent for 10 s, is the only one discarded where it is the session's only segment (R455). -/
theorem segmentTimeout_of_due {s : State} {n : Nat} {x : AgSession} {g : Segment} (hx : s.qf.session n = some x)
    (hsegs : x.segs = [g]) (hdue : g.last + 10000000000 ≤ s.qf.now) :
    To (.segmentTimeout n g.index g.sub) s (s.qf.discardSegment x g) :=
  to_of_meaning (execSegmentTimeout n g.index g.sub) rfl rfl (by simp [hx, hsegs, hdue])

/-- Settles O27: a request that awaits its answer is carried out on the block that has heard it; the other commands find the
session they name, or all that their test picks. -/
theorem sessionCommandsTakeEffect : Obligations.SessionCommandsTakeEffect := by
  unfold Obligations.SessionCommandsTakeEffect
  refine ⟨fun s c hlive hsuite hgroup hscheme hcookie hchain hnew => ?_, fun s a vs role lo hi x q v r haw hq hroom hchoice => ?_,
    fun s a chain sig x q r haw hq hsig hchain hrole => ?_, asks_of_request (fun _ _ => rfl) fun q x _ => rfl,
    fun mask => asks_of_request (fun _ _ => rfl) fun q x h => if_neg (Nat.not_lt.2 h),
    fun event => asks_of_request (fun _ _ => rfl) fun q x _ => rfl, fun s a x q hf hq => ?_,
    fun s n hlive => ⟨to_of_done rfl (if_pos hlive), to_of_done rfl (if_pos hlive)⟩,
    fun s n x seq body t k hlive hx hevents hdue hk => ?_, fun s n x g hx hsegs hw hdue => ?_⟩
  · exact to_of_meaning (execDtlsHandshake c) rfl rfl (by
      simp [hlive, hsuite, hgroup, hscheme, hcookie, Option.isSome_iff_ne_none.1 hchain, hnew])
  · subst hq
    refine to_of_meaning (execAgwenHello a vs lo hi role) rfl rfl ?_
    obtain ⟨-, -, hphase, -⟩ := id haw
    simp only [agRequest_of_awaited haw]
    simp [hphase, Nat.not_le.2 hroom, hchoice]
    rfl
  · subst hq
    refine to_of_meaning (execBind a chain sig) rfl rfl ?_
    obtain ⟨-, -, hphase, -⟩ := id haw
    simp only [agRequest_of_awaited haw]
    simp [hphase, hsig, hchain, hrole]
    rfl
  · subst hq
    exact to_of_meaning (execClose a) rfl rfl (by simp only [agRequest_of_fresh hf]; rfl)
  · exact to_of_meaning (execEventRepeat n) rfl rfl (by simp [hx, hevents, hlive, hdue, hk]; rfl)
  · rw [← hw]
    exact segmentTimeout_of_due hx hsegs hdue

/-! ### The management network (R443, R444) -/

/-- Settles O28: each event by the branch of its meaning that its conditions name. -/
theorem managementNetworkTakesEffect : Obligations.ManagementNetworkTakesEffect := by
  unfold Obligations.ManagementNetworkTakesEffect
  refine ⟨fun s port up hlive hactive hup hlink => ?_, fun s port up hlive hup => ⟨fun hlink => ?_, fun hlink => ?_⟩,
    fun s v6 a n t hlive hmode ht => ?_, fun s t hlive ht => ⟨fun h6 => ?_, fun h4 => ?_⟩,
    fun s a b d mac hlive ha hb hmac => ⟨fun h4 => ⟨?_, ?_⟩, fun h6 => ⟨?_, ?_⟩⟩⟩
  · subst hup
    exact to_of_meaning (execMgmtPortTakeover port) rfl rfl (by simp [hlive, hactive, hlink])
  · subst hup
    exact to_of_meaning (execMgmtLinkUp port) rfl rfl (by simp [hlive, hlink])
  · subst hup
    exact to_of_meaning (execMgmtLinkUp port) rfl rfl (by simp [hlive, hlink])
  · subst ht
    exact to_of_meaning (execDhcpLease v6 a n) rfl rfl (by simp [hlive, hmode])
  · exact to_of_meaning (execDhcpLeaseExpiry true) rfl rfl (by simp [hlive, h6, ht])
  · exact to_of_meaning (execDhcpLeaseExpiry false) rfl rfl (by simp [hlive, h4, ht])
  all_goals
    subst hmac
    replace ha : ¬ a = 0#32 := ha
    replace hb : ¬ b = 0#128 := hb
  · exact to_of_meaning (execArpNdIcmpEcho (.arp a)) rfl rfl (by simp [hlive, ha, h4])
  · exact to_of_meaning (execArpNdIcmpEcho (.echo4 a d)) rfl rfl (by simp [hlive, ha, h4])
  · exact to_of_meaning (execArpNdIcmpEcho (.nd b)) rfl rfl (by simp [hlive, hb, h6])
  · exact to_of_meaning (execArpNdIcmpEcho (.echo6 b d)) rfl rfl (by simp [hlive, hb, h6])

/-! ### What a session's own commands leave as it was -/

/-- The block without its management state. -/
def besideMgmt (q : Qf) : Qf := { q with mgmt := {} }

/-- Two blocks that agree beside the management state differ in it alone. -/
theorem eq_of_besideMgmt {q t : Qf} (h : besideMgmt t = besideMgmt q) : t = { q with mgmt := t.mgmt } :=
  congrArg (fun r : Qf => { r with mgmt := t.mgmt }) h

@[simp] theorem besideMgmt_inMgmt (q : Qf) (f : Mgmt → Mgmt) : besideMgmt (inMgmt q f) = besideMgmt q := rfl

@[simp] theorem besideMgmt_updSession (q : Qf) (id : Nat) (f : AgSession → AgSession) :
    besideMgmt (q.updSession id f) = besideMgmt q := rfl

@[simp] theorem besideMgmt_answerFrame (q : Qf) (id : Nat) (f : AgFrame) : besideMgmt (q.answerFrame id f) = besideMgmt q := rfl

@[simp] theorem besideMgmt_announce (q : Qf) (port : Bool) : besideMgmt (q.announce port) = besideMgmt q := rfl

@[simp] theorem besideMgmt_dropSegment (q : Qf) (x : AgSession) (w : Bool) (index : BitVec 16) (sub : BitVec 8) :
    besideMgmt (q.dropSegment x w index sub) = besideMgmt q := rfl

@[simp] theorem besideMgmt_endProgress (q : Qf) (i : Option Nat) (state : Nat) (status : BitVec 8) :
    besideMgmt (q.endProgress i state status) = besideMgmt q := by
  cases i <;> rfl

@[simp] theorem besideMgmt_discardSegment (q : Qf) (x : AgSession) (g : Segment) :
    besideMgmt (q.discardSegment x g) = besideMgmt q := by
  simp [Qf.discardSegment]

/-- A fold of changes that each leave a part of the block as it was leaves it as it was. -/
theorem foldl_keeps {α β : Type} {p : Qf → β} {f : Qf → α → Qf} (h : ∀ q x, p (f q x) = p q) (xs : List α) (q : Qf) :
    p (xs.foldl f q) = p q := by
  induction xs generalizing q with
  | nil => rfl
  | cons x xs ih => rw [List.foldl_cons, ih, h]

@[simp] theorem besideMgmt_endSessions (q : Qf) (gone : AgSession → Bool) :
    besideMgmt (q.endSessions gone) = besideMgmt q :=
  foldl_keeps (fun q k => besideMgmt_endProgress q (some k) 3 Status.aborted.code) _ q

/-- A request whose meaning changes the management state only does so itself. -/
theorem besideMgmt_agRequest {f : AgSession → Qf → Reply × Qf} (q : Qf) (a : AgwenRef) (op : BitVec 8) (early : Bool)
    (h : ∀ x t, q.session a.session = some x → besideMgmt (f x t).2 = besideMgmt t) :
    besideMgmt (q.agRequest a op early f) = besideMgmt q := by
  unfold Qf.agRequest
  split
  · rfl
  · rename_i x hx
    split
    · rfl
    · dsimp only
      split
      · rfl
      · split
        · rfl
        · simp [h x _ hx]

/-- A command whose meaning leaves all beside the management state as it was changes the management state only. -/
theorem ends_besideMgmt {c : Instr} {s : State} {f : Qf → Qf} (m : State → Out) (hc : exec c s = m s) (hm : m s = done f s)
    (hf : besideMgmt (f s.qf) = besideMgmt s.qf) : Ends c s (fun q => q = { s.qf with mgmt := q.mgmt }) :=
  ends_of_meaning m hc hm (eq_of_besideMgmt hf)

/-- Settles O43: each command's changes of the block are ones of its sessions, its answers or its addresses. -/
theorem sessionCommandsKeepTheRest : Obligations.SessionCommandsKeepTheRest := by
  unfold Obligations.SessionCommandsKeepTheRest
  intro s a vs role lo hi index chain sig mask m n sub query port c hc
  fin_cases hc
  · refine ends_besideMgmt (execAgwenHello a vs lo hi role) rfl rfl ?_
    refine (besideMgmt_endSessions _ _).trans (besideMgmt_agRequest _ _ _ _ fun x t _ => ?_)
    repeat' split
    all_goals rfl
  · refine ends_besideMgmt (execBind a chain sig) rfl rfl ?_
    refine (besideMgmt_endSessions _ _).trans (besideMgmt_agRequest _ _ _ _ fun x t _ => ?_)
    dsimp only
    split <;> rfl
  · exact ends_besideMgmt (execKeepalive a) rfl rfl (besideMgmt_agRequest _ _ _ _ fun _ _ _ => rfl)
  · refine ends_besideMgmt (execSubscribe a mask) rfl rfl (besideMgmt_agRequest _ _ _ _ fun x t _ => ?_)
    split <;> rfl
  · exact ends_besideMgmt (execEventAck a mask) rfl rfl (besideMgmt_agRequest _ _ _ _ fun _ _ _ => rfl)
  · exact ends_besideMgmt (execClose a) rfl rfl
      ((besideMgmt_endSessions _ _).trans (besideMgmt_agRequest _ _ _ _ fun _ _ _ => rfl))
  · refine ends_besideMgmt (execDtlsHandshake m) rfl rfl ?_
    dsimp only
    split <;> rfl
  · refine ends_besideMgmt (execDtlsAlert n) rfl rfl ?_
    split
    · exact besideMgmt_endSessions _ _
    · rfl
  · refine ends_besideMgmt (execEventRepeat n) rfl rfl ?_
    dsimp only
    split
    · rfl
    · split <;> rfl
  · refine ends_besideMgmt (execSessionIdle n) rfl rfl ?_
    split
    · exact besideMgmt_endSessions _ _
    · rfl
  · refine ends_besideMgmt (execSegmentTimeout n index sub) rfl rfl ?_
    split
    · rfl
    · exact foldl_keeps (fun q g => besideMgmt_discardSegment q _ g) _ _
  · refine ends_besideMgmt (execArpNdIcmpEcho query) rfl rfl ?_
    dsimp only
    repeat' split
    all_goals rfl
  · refine ends_besideMgmt (execMgmtPortTakeover port) rfl rfl ?_
    dsimp only
    repeat' split
    all_goals rfl
  · refine ends_besideMgmt (execMgmtLinkUp port) rfl rfl ?_
    dsimp only
    repeat' split
    all_goals rfl

/-! ### Selections of other sessions (R457) -/

theorem find?_updFirst_of_ne {α : Type} {p r : α → Bool} {f : α → α} (hp : ∀ x, p x = true → r x = false)
    (hf : ∀ x, p x = true → r (f x) = false) (xs : List α) : (updFirst p f xs).find? r = xs.find? r := by
  induction xs with
  | nil => rfl
  | cons x xs ih =>
    unfold updFirst
    split
    · rename_i h
      simp [hp x h, hf x h]
    · simp [List.find?_cons, ih]

/-- A change of one session that keeps its name leaves every other session. -/
theorem session_updSession_of_ne {q : Qf} {m n : Nat} {f : AgSession → AgSession} (hne : n ≠ m) (hf : ∀ x, (f x).id = x.id) :
    (q.updSession m f).session n = q.session n :=
  find?_updFirst_of_ne (fun x h => by simpa [of_decide_eq_true h] using Ne.symm hne)
    (fun x h => by simpa [hf, of_decide_eq_true h] using Ne.symm hne) _

/-- An answer is kept for its own session. -/
theorem session_answerFrame_of_ne {q : Qf} {m n : Nat} {f : AgFrame} (hne : n ≠ m) :
    (q.answerFrame m f).session n = q.session n := by
  unfold Qf.answerFrame
  refine (session_updSession_of_ne hne ?_).trans rfl
  exact fun _ => rfl

/-- A request whose meaning leaves another session as it was leaves it so itself: the answer is kept for its own session. -/
theorem session_agRequest_of_ne {q : Qf} {a : AgwenRef} {n : Nat} (hne : n ≠ a.session) {op : BitVec 8} {early : Bool}
    {f : AgSession → Qf → Reply × Qf} (h : ∀ x t, q.session a.session = some x → (f x t).2.session n = t.session n) :
    (q.agRequest a op early f).session n = q.session n := by
  unfold Qf.agRequest
  split
  · rfl
  · rename_i x hx
    split
    · rfl
    · dsimp only
      have hheard := session_updSession_of_ne (q := q) (f := fun x => { x with last := q.now }) hne fun _ => rfl
      split
      · exact hheard
      · split
        · exact hheard
        · exact (session_answerFrame_of_ne hne).trans ((h x _ hx).trans hheard)

/-- A write of a selection changes that of its session, or nothing. -/
theorem dictWrite_perSession {q : Qf} {x : AgSession} {index : BitVec 16} {sub : BitVec 8} {v : List Byte}
    (hps : perSession index sub = true) :
    (q.dictWrite x index sub v).2 = q ∨
      ∃ k n, (q.dictWrite x index sub v).2 = q.updSession x.id (fun y => { y with selects := y.selects.set k n }) := by
  unfold Qf.dictWrite Qf.writeWith
  split
  · exact .inl rfl
  · rename_i e hbar
    obtain ⟨rfl, rfl⟩ := index_of_writeBar hbar
    simp only [hps, if_true, Qf.writeSelect]
    split
    · exact .inl rfl
    · split
      · exact .inl rfl
      · exact .inr ⟨entryKey e.index e.sub, leNat v, by simp [Qf.okAns, Qf.storeSetting, hps]⟩

/-- AGWEN_WRITE of a selection changes that of its session, or nothing. -/
theorem agwenWriteAns_perSession {q : Qf} {x : AgSession} {index : BitVec 16} {sub : BitVec 8} {v : List Byte}
    (hps : perSession index sub = true) :
    (agwenWriteAns q x index sub v).2 = q ∨
      ∃ k n, (agwenWriteAns q x index sub v).2 = q.updSession x.id (fun y => { y with selects := y.selects.set k n }) := by
  unfold agwenWriteAns
  split
  · left
    split <;> rfl
  · exact dictWrite_perSession hps

/-- Settles O46: the write is its own session's, so no other session is changed at all. -/
theorem selectionsAreApart : Obligations.SelectionsAreApart := by
  unfold Obligations.SelectionsAreApart
  intro s a index sub v hps
  refine ends_of_to (to_of_done (exec_agwenWrite a index sub v s) rfl) ⟨eq_of_besideMgmt ?_, fun n hn => ?_⟩
  · refine besideMgmt_agRequest _ _ _ _ fun x t _ => ?_
    rcases agwenWriteAns_perSession (q := t) (x := x) (v := v) hps with h | ⟨k, w, h⟩
    · simp [plainReply, h]
    · simp [plainReply, h]
  · refine congrArg (Option.map fun y => y.selects) (session_agRequest_of_ne hn fun x t hx => ?_)
    rcases agwenWriteAns_perSession (q := t) (x := x) (v := v) hps with h | ⟨k, w, h⟩
    · simp [plainReply, h]
    · simp [plainReply, h, session_updSession_of_ne (session_id hx ▸ hn)]

end Sys2Proof.Proofs

/-! The clock (R480 to R485), the test port and Squall (R488 to R493), snapshots and counter pages (R487, R494 to R496). -/

namespace Sys2Proof.Proofs
open Sys2Proof.Machine Sys2Proof.Claims

/-! ### The clock -/

/-- A time request is due where none was made at this CREDIT_INIT, or the interval has passed since the last (R482). -/
theorem timeSync_of_due {s : State} {h : HalfPort} (hparent : s.qf.timeParent = some h) (hrun : s.qf.running = true)
    (htimed : (s.qf.link h).timed = true)
    (hinit : (s.qf.link h).state = .creditInit → s.qf.obs.lastSync < (s.qf.link h).since ∨ s.qf.obs.lastSync = 0)
    (hlater : (s.qf.link h).state ≠ .creditInit → s.qf.obs.lastSync + s.qf.obs.syncInterval.toNat ≤ s.qf.now) :
    To .timeSync s ((inObs s.qf (fun o => { o with
      exchSeq := s.qf.obs.exchSeq + 1, reqT1 := some (stamp80 s.qf.now), lastSync := s.qf.now })).sendTime h
        { kind := 1, seq := s.qf.obs.exchSeq + 1, t1 := stamp80 s.qf.now }) := by
  refine to_of_meaning execTimeSync rfl rfl ?_
  by_cases hstate : (s.qf.link h).state = .creditInit
  · rcases hinit hstate with hnew | hnever
    · simp [hparent, hrun, htimed, hstate, Nat.not_le.2 hnew]
    · simp [hparent, hrun, htimed, hstate, hnever]
  · simp [hparent, hrun, htimed, hstate, Nat.not_lt.2 (hlater hstate)]

/-- Settles O34: each event by the branch of its meaning that its conditions name. -/
theorem clockEventsTakeEffect : Obligations.ClockEventsTakeEffect := by
  unfold Obligations.ClockEventsTakeEffect
  refine ⟨?_, ?_, ?_, fun s hclock => ⟨fun hlow hout hnow => ?_, fun t hhigh hdue => ?_⟩⟩
  · rintro s h l c hparent rfl hrun
    refine ⟨fun hdead => to_of_meaning execTimeSync rfl rfl (by simp [hparent, hrun, hdead]), fun htimed hinit hlater hc => ?_⟩
    subst hc
    exact timeSync_of_due hparent hrun htimed hinit hlater
  · rintro s stamp near hrun hroot hin rfl
    refine to_of_meaning (execPpsIn stamp) rfl rfl ((if_neg ?_).trans ?_)
    · simp [hrun, hroot, hin]
    · rw [show second / 2 = 500000000 from rfl, show second = 1000000000 from rfl]
  · intro s t hrun hin hstate hlast hdue
    have hlost : s.qf.obs.ppsLast.any (fun t => decide (t + 1100000000 ≤ s.qf.now)) = true :=
      (Option.any_eq_true _ _).2 ⟨t, hlast, decide_eq_true hdue⟩
    exact to_of_meaning execPpsInLost rfl rfl (if_pos (by simp [hrun, hin, hlost, hstate]))
  · refine to_of_meaning execPpsOut rfl rfl ?_
    rw [← show second = 1000000000 from rfl] at hnow ⊢
    simp [hclock, hlow, hout, hnow]
  · exact to_of_meaning execPpsOut rfl rfl (by simp [hclock, hhigh, hdue])

/-! ### The test port (R492, R493) -/

theorem tapOn_iff {q : Qf} : q.tapOn = true ↔ q.boot.phase ≠ .off := by
  simp [Qf.tapOn]

/-- A restricted instruction acts where TAP_ENABLE is set and the identity is up. -/
theorem tapPrivate_of_enabled {q : Qf} {ir : BitVec 8} {f : Qf → Qf} (hon : q.boot.phase ≠ .off)
    (hid : q.boot.phase ≠ .secFail) (hen : q.dbg.tapEnable = true) : q.tapPrivate ir f = f (q.tapIr ir) := by
  simp [Qf.tapPrivate, tapOn_iff.2 hon, hid, hen]

/-- Elsewhere it is BYPASS. -/
theorem tapPrivate_of_disabled {q : Qf} {ir : BitVec 8} {f : Qf → Qf} (hon : q.boot.phase ≠ .off)
    (hno : q.dbg.tapEnable = false ∨ q.boot.phase = .secFail) : q.tapPrivate ir f = q.tapBypass ir := by
  rcases hno with h | h
  · simp [Qf.tapPrivate, tapOn_iff.2 hon, h]
  · simp [Qf.tapPrivate, tapOn_iff.2 hon, h]

/-- Settles O35: a public instruction by its own meaning, a restricted one by whether it may act. -/
theorem debugPortCommandsTakeEffect : Obligations.DebugPortCommandsTakeEffect := by
  unfold Obligations.DebugPortCommandsTakeEffect
  refine ⟨fun s h p hrun hlive => ⟨fun hacc => ?_, fun hacc => ?_⟩,
    fun s q hon hid hen => ⟨?_, ?_, fun chain => ?_, fun hsq hchain => ?_, fun hno => ?_⟩,
    fun s hon hno => ⟨?_, fun chain => ?_, ?_⟩,
    fun s v hon => ⟨?_, ?_, fun hid => ?_, fun hid hboot => ?_, fun hno => ?_⟩⟩
  · exact to_of_meaning (execSquallPacket h p) rfl rfl (by simp [hrun, hlive, hacc])
  · exact to_of_meaning (execSquallPacket h p) rfl rfl (by simp [hrun, hlive, hacc])
  · rintro rfl hrun
    refine to_of_meaning (execSquall true) rfl rfl ((tapPrivate_of_enabled hon hid hen).trans ?_)
    rw [Bool.true_and, if_pos (show (s.qf.tapIr 0x10).running = true from hrun)]
    rfl
  · exact to_of_meaning (execSquall false) rfl rfl (tapPrivate_of_enabled hon hid hen)
  · exact to_of_meaning (execScanSelect chain) rfl rfl (tapPrivate_of_enabled hon hid hen)
  · refine to_of_meaning execScanRead rfl rfl ((tapPrivate_of_enabled hon hid hen).trans ?_)
    exact congrArg (fun out => inDbg s.qf (fun d => { d with tapIr := 0x12, tapOut := out }))
      (if_pos (by simp [Qf.tapIr, hsq, hchain]))
  · refine to_of_meaning execScanRead rfl rfl ((tapPrivate_of_enabled hon hid hen).trans ?_)
    refine congrArg (fun out => inDbg s.qf (fun d => { d with tapIr := 0x12, tapOut := out })) (if_neg ?_)
    rcases hno with h | h
    · simp [Qf.tapIr, h]
    · simp [Qf.tapIr, Nat.not_lt.2 h]
  · exact to_of_meaning (execSquall true) rfl rfl (tapPrivate_of_disabled hon hno)
  · exact to_of_meaning (execScanSelect chain) rfl rfl (tapPrivate_of_disabled hon hno)
  · exact to_of_meaning execScanRead rfl rfl (tapPrivate_of_disabled hon hno)
  · exact to_of_meaning execIdcode rfl rfl (by simp [tapOn_iff.2 hon, Qf.tapIr])
  · exact to_of_meaning execBypass rfl rfl (if_pos (tapOn_iff.2 hon))
  · exact to_of_meaning (execSamplePreload v) rfl rfl (by simp [tapOn_iff.2 hon, hid, Qf.tapIr])
  · exact to_of_meaning (execExtest v) rfl rfl (by simp [tapOn_iff.2 hon, hid, hboot, Qf.tapIr])
  · refine to_of_meaning (execExtest v) rfl rfl ?_
    rcases hno with h | h
    · simp [tapOn_iff.2 hon, h, Qf.tapBypass, Qf.tapIr]
    · simp [tapOn_iff.2 hon, h, Qf.tapBypass, Qf.tapIr]

/-- The block without the test port's own registers. -/
def besideTap (q : Qf) : Qf :=
  inDbg q (fun d => { d with tapIr := 0, tapChain := 0, tapOut := [], boundary := 0, bypass := false })

/-- Two blocks that agree beside the test port's registers differ in those alone. -/
theorem eq_of_besideTap {q t : Qf} (h : besideTap t = besideTap q) :
    t = inDbg q (fun d => { d with
      tapIr := t.dbg.tapIr, tapChain := t.dbg.tapChain, tapOut := t.dbg.tapOut, boundary := t.dbg.boundary
      bypass := t.dbg.bypass }) :=
  congrArg (a₁ := besideTap t) (a₂ := besideTap q) (fun r : Qf => inDbg r (fun d => { d with
    tapIr := t.dbg.tapIr, tapChain := t.dbg.tapChain, tapOut := t.dbg.tapOut, boundary := t.dbg.boundary
    bypass := t.dbg.bypass })) h

/-- A restricted instruction that changes the port's registers only does so itself, as BYPASS does. -/
theorem besideTap_tapPrivate {q : Qf} {ir : BitVec 8} {f : Qf → Qf} (h : ∀ t, besideTap (f t) = besideTap t) :
    besideTap (q.tapPrivate ir f) = besideTap q := by
  unfold Qf.tapPrivate
  split
  · rfl
  · split
    · exact h _
    · rfl

/-- Settles O44: every branch of each instruction changes the port's registers or nothing. -/
theorem testPortKeepsTheBlock : Obligations.TestPortKeepsTheBlock := by
  unfold Obligations.TestPortKeepsTheBlock
  intro s v chain c hc
  fin_cases hc
  · refine ends_of_meaning execIdcode rfl rfl (eq_of_besideTap ?_)
    dsimp only
    split <;> rfl
  · refine ends_of_meaning execBypass rfl rfl (eq_of_besideTap ?_)
    split <;> rfl
  · refine ends_of_meaning (execSamplePreload v) rfl rfl (eq_of_besideTap ?_)
    dsimp only
    repeat' split
    all_goals rfl
  · refine ends_of_meaning (execExtest v) rfl rfl (eq_of_besideTap ?_)
    dsimp only
    repeat' split
    all_goals rfl
  · exact ends_of_meaning (execScanSelect chain) rfl rfl (eq_of_besideTap (besideTap_tapPrivate fun _ => rfl))
  · exact ends_of_meaning execScanRead rfl rfl (eq_of_besideTap (besideTap_tapPrivate fun _ => rfl))
  · exact ends_of_meaning (execSquall false) rfl rfl (eq_of_besideTap (besideTap_tapPrivate fun _ => rfl))

/-! ### Snapshots and counter pages -/

/-- Settles O36: each event by the branch of its meaning that its conditions name. -/
theorem snapshotEventsTakeEffect : Obligations.SnapshotEventsTakeEffect := by
  unfold Obligations.SnapshotEventsTakeEffect
  refine ⟨fun s h p q o n th hserv hpeer hmsg => ⟨fun hseen => ?_, fun hnew hq => ⟨fun hidle => ?_, fun hbusy => ?_⟩⟩,
    fun s hstate hclock hdue => ?_, fun s hstate hclock => ?_, fun s t a ms q x hserv ha hne hms hnew hq hx => ?_⟩
  · exact to_of_meaning (execHorizon h p) rfl rfl (by simp [hserv, hpeer, hmsg, hseen])
  · subst hq
    exact to_of_meaning (execHorizon h p) rfl rfl (by simp [hserv, hpeer, hmsg, hnew, hidle])
  · subst hq
    exact to_of_meaning (execHorizon h p) rfl rfl (by simp [hserv, hpeer, hmsg, hnew, hbusy])
  · refine to_of_meaning execHorizonLatch rfl rfl ?_
    rcases hdue with h | h
    · simp [hstate, hclock, h]
    · simp [hstate, hclock, h]
  · exact to_of_meaning execHorizonReady rfl rfl (by simp [hstate, hclock])
  · subst hq ha hms
    have hdue : ¬ (!s.qf.inService || decide (s.qf.obs.pages.get t.toNat 0 = 0) ||
        decide (s.qf.obs.pageAt.get t.toNat 0 = s.qf.now / 1000000)) = true := by
      simpa [hserv] using And.intro hne hnew
    refine ⟨fun hsent => to_of_meaning (execCounterPage t) rfl rfl ((if_neg hdue).trans ?_),
      fun hfailed => to_of_meaning (execCounterPage t) rfl rfl ((if_neg hdue).trans ?_)⟩
    · subst hx
      dsimp only [Qf.takeMsg]
      split
      · rename_i h
        cases h.symm.trans hsent
      · rfl
    · subst hx
      dsimp only [Qf.takeMsg]
      split
      · rfl
      · rename_i h
        exact absurd h hfailed

end Sys2Proof.Proofs

/-! The host's registers, windows and queues (R36, R377, R463, R467 to R476). -/

namespace Sys2Proof.Proofs
open Sys2Proof.Machine Sys2Proof.Claims

/-! ### Manager commands (R473, R474) -/

/-- A change of the first picked element that keeps it picked is what is found there. -/
theorem find?_updFirst_self {α : Type} {p : α → Bool} {f : α → α} (hf : ∀ x, p (f x) = p x) (xs : List α) :
    (updFirst p f xs).find? p = (xs.find? p).map f := by
  induction xs with
  | nil => rfl
  | cons x xs ih =>
    unfold updFirst
    split
    · rename_i h
      simp [h, hf]
    · rename_i h
      simp [h, ih]

/-- Noting the start of a command changes nothing of the words it was fetched with. -/
@[simp] theorem fetchedOk_markStart (q : Qf) (m : MgrRef) (b : Bool) : (q.markStart m b).fetchedOk m = q.fetchedOk m := by
  simp only [Qf.fetchedOk, Qf.markStart]
  rw [find?_updFirst_self (p := isRef m) (f := fun x => { x with started := b }) fun _ => rfl]
  cases q.host.fetched.find? (isRef m) <;> rfl

/-- A command that may start, with its arguments in range, takes effect on the block in which it has started. -/
theorem mgr_of_ready {q : Qf} {m : MgrRef} (h : MgrReady q m) (op : BitVec 8) {ok : Bool} (hok : ok = true) (f : Qf → Qf) :
    q.mgr m op ok f = f (q.markStart m true) := by
  obtain ⟨hlive, hgen, hstart, hform, hfetched⟩ := h
  simp [Qf.mgr, hlive, hgen, hstart, hform, hfetched, hok]

/-! ### The registers of the active port (R467) -/

theorem bar0Write_of_active {q : Qf} {port : Bool} (hon : q.hostOn port = true) (hactive : q.host.active = some port)
    (f : Qf → Qf) : q.bar0Write port f = f q := by
  simp [Qf.bar0Write, hon, hactive]

theorem sectorWrite_of_active {q : Qf} {port : Bool} (hon : q.hostOn port = true) (hactive : q.host.active = some port)
    (hrun : q.dbg.squalled = false) (f : Qf → Qf) : q.sectorWrite port f = f q := by
  simp [Qf.sectorWrite, bar0Write_of_active hon hactive, hrun]

/-- Squall stops a write that acts in the sectors (R489). -/
theorem sectorWrite_of_squalled {q : Qf} {port : Bool} (hon : q.hostOn port = true) (hactive : q.host.active = some port)
    (hsq : q.dbg.squalled = true) (f : Qf → Qf) : q.sectorWrite port f = q := by
  simp [Qf.sectorWrite, bar0Write_of_active hon hactive, hsq]

/-! ### What the doorbells and configurations of the host's queues leave as it was -/

/-- The block without the host interface's queues and messages: which port is active, its generation and the commands that are
fetched stay. -/
def besideQueues (q : Qf) : Qf :=
  { q with host := { active := q.host.active, generation := q.host.generation, fetched := q.host.fetched } }

/-- Two blocks that agree beside the host's queues differ in the host interface alone. -/
theorem eq_of_besideQueues {q t : Qf} (h : besideQueues t = besideQueues q) :
    t = { q with host := t.host } ∧ t.host.active = q.host.active ∧ t.host.generation = q.host.generation ∧
      t.host.fetched = q.host.fetched :=
  ⟨congrArg (a₁ := besideQueues t) (a₂ := besideQueues q) (fun r : Qf => { r with host := t.host }) h,
   congrArg (a₁ := besideQueues t) (a₂ := besideQueues q) (fun r : Qf => r.host.active) h, congrArg (a₁ := besideQueues t) (a₂ := besideQueues q) (fun r : Qf => r.host.generation) h,
   congrArg (a₁ := besideQueues t) (a₂ := besideQueues q) (fun r : Qf => r.host.fetched) h⟩

@[simp] theorem besideQueues_updMq (q : Qf) (port : Bool) (k : BitVec 3) (f : Mq → Mq) :
    besideQueues (q.updMq port k f) = besideQueues q := rfl

@[simp] theorem besideQueues_post (q : Qf) (port : Bool) (a : BitVec 64) (bs : List Byte) :
    besideQueues (q.post port a bs) = besideQueues q := rfl

@[simp] theorem besideQueues_msix (q : Qf) (v : Nat) : besideQueues (q.msix v) = besideQueues q := by
  unfold Qf.msix
  split
  · rfl
  · dsimp only
    split <;> rfl

@[simp] theorem besideQueues_writeEvent (q : Qf) (port : Bool) (e : BitVec 256) :
    besideQueues (q.writeEvent port e) = besideQueues q := by
  unfold Qf.writeEvent
  dsimp only
  split
  · exact besideQueues_msix _ _
  · rfl

@[simp] theorem besideQueues_drainEvents (n : Nat) (q : Qf) : besideQueues (q.drainEvents n) = besideQueues q := by
  induction n generalizing q with
  | zero => rfl
  | succ n ih =>
    unfold Qf.drainEvents
    split
    · rfl
    · split
      · rfl
      · split
        · exact (ih _).trans (besideQueues_writeEvent _ _ _)
        · split
          · rfl
          · exact besideQueues_writeEvent _ _ _

@[simp] theorem besideQueues_drainCpl (port : Bool) (k : BitVec 3) (n : Nat) (q : Qf) :
    besideQueues (Qf.drainCpl port k n q) = besideQueues q := by
  induction n generalizing q with
  | zero => rfl
  | succ n ih =>
    unfold Qf.drainCpl
    dsimp only
    split
    · rfl
    · split
      · rfl
      · rw [ih]
        split
        · exact besideQueues_msix _ _
        · rfl

theorem besideQueues_bar0Write {q : Qf} {port : Bool} {f : Qf → Qf} (h : ∀ t, besideQueues (f t) = besideQueues t) :
    besideQueues (q.bar0Write port f) = besideQueues q := by
  unfold Qf.bar0Write
  split
  · rfl
  · split
    · exact h q
    · rfl

/-- Settles O45: each command's changes of the block are ones of a queue, of what is posted, or the count of dropped writes. -/
theorem hostQueuesKeepTheRest : Obligations.HostQueuesKeepTheRest := by
  unfold Obligations.HostQueuesKeepTheRest
  intro s port k v c hc
  fin_cases hc
  · exact ends_of_meaning (execMqDoorbell port k v) rfl rfl
      (eq_of_besideQueues (besideQueues_bar0Write fun _ => besideQueues_drainCpl _ _ _ _))
  · refine ends_of_meaning (execMqConfig port k v) rfl rfl (eq_of_besideQueues (besideQueues_bar0Write fun t => ?_))
    dsimp only
    repeat' split
    all_goals rfl
  · exact ends_of_meaning (execEqDoorbell port v) rfl rfl
      (eq_of_besideQueues (besideQueues_bar0Write fun _ => besideQueues_drainEvents _ _))
  · refine ends_of_meaning (execCompletionRingFull port k) rfl rfl (eq_of_besideQueues ?_)
    dsimp only
    split <;> rfl

/-! ### BAR2 (R377, R471) -/

/-- A write that reaches only the region tables stores its bytes, and drops the cached copies and the marks of what it
touches (R36, R471; log 201). -/
theorem bar2Write_of_reached {s : State} {port : Bool} {o : BitVec 36} {bs : List Byte} (hon : s.qf.hostOn port = true)
    (hactive : s.qf.host.active = some port) (hrun : s.qf.dbg.squalled = false) (hlow : 0x80000000 ≤ o.toNat)
    (hhigh : o.toNat + bs.length ≤ 0x280000000) :
    To (.bar2Access port o (.write bs)) s
      (inEdge { s.qf with sys := Mem.putAll s.qf.sys o.toNat bs } (fun e => { e with
        worn := e.worn.filter (fun b => !(decide (b < o.toNat + bs.length) && decide (o.toNat < b + 16)))
        cache := e.cache.filter (fun c =>
          !(decide (recBase (s.qf.tenantRec c.tenant) + 16 * c.ven.toNat < o.toNat + bs.length) &&
            decide (o.toNat < recBase (s.qf.tenantRec c.tenant) + 16 * c.ven.toNat + 16))) })) := by
  have hreach : bar2Reaches o.toNat bs.length true = true := by
    simp [bar2Reaches, hlow, hhigh]
  exact to_of_meaning (execBar2Access port o (.write bs)) rfl rfl
    ((sectorWrite_of_active hon hactive hrun _).trans (if_pos hreach))

/-- Settles O42: a byte of the range reads as it was written, and of the rest of the state only the copies and marks of what is
touched go. -/
theorem bar2WritesStoreTheirBytes : Obligations.Bar2WritesStoreTheirBytes := by
  unfold Obligations.Bar2WritesStoreTheirBytes
  intro s port o bs hon hactive
  refine ⟨fun hrun hwf hlow hhigh => ends_of_to (bar2Write_of_reached hon hactive hrun hlow hhigh) ⟨fun k => ?_, fun c hc => ?_,
    fun b => ?_, rfl⟩, fun hsq => ?_⟩
  · by_cases hk : k < 0x280000000
    · rw [Qf.sysRead, Qf.sysRead, if_pos hk, if_pos hk]
      exact get_putAll s.qf.sys o.toNat k bs hwf
    · rw [if_neg (show ¬ (o.toNat ≤ k ∧ k < o.toNat + bs.length) by omega), Qf.sysRead, Qf.sysRead, if_neg hk, if_neg hk]
      rfl
  · obtain ⟨hmem, hfree⟩ := List.mem_filter.1 hc
    refine ⟨hmem, ?_⟩
    simp only [Bool.not_eq_true', Bool.and_eq_false_iff, decide_eq_false_iff_not, not_lt] at hfree
    exact hfree
  · simp [List.mem_filter]
  · exact to_of_meaning (execBar2Access port o (.write bs)) rfl rfl (sectorWrite_of_squalled hon hactive hsq _)

/-! ### Configurations (Table MGMT-13) -/

/-- Clearing ENABLE, bit 63, clears no bit below it. -/
theorem getLsbD_clear_enable (c : BitVec 64) {i : Nat} (h : i < 63) :
    (c &&& ~~~((1 : BitVec 64) <<< 63)).getLsbD i = c.getLsbD i := by
  rw [BitVec.getLsbD_and, BitVec.getLsbD_not, BitVec.getLsbD_shiftLeft]
  simp [h, Nat.lt_succ_of_lt h]

theorem fld_clear_enable (c : BitVec 64) {lo n : Nat} (h : lo + n ≤ 63) :
    fld (c &&& ~~~((1 : BitVec 64) <<< 63)) lo n = fld c lo n := by
  ext i hi
  rw [fld, fld, BitVec.getElem_extractLsb', BitVec.getElem_extractLsb', getLsbD_clear_enable c (by omega)]

theorem cfgSizesOk_clear_enable (c : BitVec 64) : cfgSizesOk (c &&& ~~~((1 : BitVec 64) <<< 63)) = cfgSizesOk c := by
  rw [cfgSizesOk, cfgSizesOk, fld_clear_enable c (by decide), fld_clear_enable c (by decide)]

theorem cfgEnable_clear_enable (c : BitVec 64) : cfgEnable (c &&& ~~~((1 : BitVec 64) <<< 63)) = false := by
  rw [cfgEnable, BitVec.getLsbD_and, BitVec.getLsbD_not, BitVec.getLsbD_shiftLeft]
  simp

/-- While ENABLE is 0 a write is taken but for its reserved bits. -/
theorem cfgWrite_of_disabled {old v keep : BitVec 64} (h : cfgEnable old = false) : cfgWrite old v keep = v &&& keep := by
  simp [cfgWrite, h]

/-- While ENABLE is 1 a write that clears it changes nothing else. -/
theorem cfgWrite_of_stopped {old v keep : BitVec 64} (h : cfgEnable old = true) (hv : cfgEnable v = false) :
    cfgWrite old v keep = old &&& ~~~((1 : BitVec 64) <<< 63) := by
  simp [cfgWrite, h, hv]

/-- A configuration of a queue that was disabled starts it, or leaves it off (Table MGMT-13). -/
theorem mqConfig_of_disabled {s : State} {port : Bool} {k : BitVec 3} {v : BitVec 64} (hon : s.qf.hostOn port = true)
    (hactive : s.qf.host.active = some port) (hoff : cfgEnable (s.qf.mq port k).config = false)
    (hsize : cfgSizesOk (v &&& 0xFFFFF80000000000) = true) :
    To (.mqConfig port k v) s
      (if cfgEnable (v &&& 0xFFFFF80000000000) then s.qf.updMq port k (fun m => { m with
        config := v &&& 0xFFFFF80000000000, state := .running, errorStatus := 0
        cmdProducer := 0, cmdConsumer := 0, cplProducer := 0, cplConsumer := 0 })
       else s.qf.updMq port k (fun m => { m with config := v &&& 0xFFFFF80000000000, state := .off, fullSince := none })) := by
  refine to_of_meaning (execMqConfig port k v) rfl rfl ((bar0Write_of_active hon hactive _).trans ?_)
  dsimp only
  rw [cfgWrite_of_disabled hoff, hsize, hoff]
  cases cfgEnable (v &&& 0xFFFFF80000000000) <;> rfl

/-- A write that clears ENABLE stops the queue. -/
theorem mqConfig_of_stopped {s : State} {port : Bool} {k : BitVec 3} {v : BitVec 64} (hon : s.qf.hostOn port = true)
    (hactive : s.qf.host.active = some port) (hold : cfgEnable (s.qf.mq port k).config = true) (hv : cfgEnable v = false)
    (hsize : cfgSizesOk (s.qf.mq port k).config = true) :
    To (.mqConfig port k v) s (s.qf.updMq port k (fun m => { m with
      config := m.config &&& ~~~((1 : BitVec 64) <<< 63), state := .off, fullSince := none })) := by
  refine to_of_meaning (execMqConfig port k v) rfl rfl ((bar0Write_of_active hon hactive _).trans ?_)
  dsimp only
  rw [cfgWrite_of_stopped hold hv, cfgSizesOk_clear_enable, hsize, cfgEnable_clear_enable]
  rfl

/-! ### Tenant records (R36, R142) -/

/-- The block once a tenant's record is written and its cached entries are gone. -/
abbrev recordWritten (q : Qf) (t : Tenant) (v : BitVec 64) : Qf :=
  inEdge q (fun e => { e with
    records := e.records.set t.toNat (v &&& 0xFFFFFFFFFFFFFFC0), cache := e.cache.filter (fun c => c.tenant != t) })

theorem tenantRecord_of_active {s : State} {port : Bool} {t : Tenant} {v : BitVec 64} (hon : s.qf.hostOn port = true)
    (hactive : s.qf.host.active = some port) (hrun : s.qf.dbg.squalled = false) :
    To (.tenantRecord port t v) s
      (if recEnable v then recordWritten s.qf t v
       else ((recordWritten s.qf t v).qps.qps.filter (fun x => x.2.ctx.tenant = t && x.2.ctx.state = .ready)).foldl (fun q x =>
        (q.qpError (BitVec.ofNat 30 x.1) Status.accessViolation.code).settleQp (BitVec.ofNat 30 x.1))
        (recordWritten s.qf t v)) :=
  to_of_meaning (execTenantRecord port t v) rfl rfl (sectorWrite_of_active hon hactive hrun _)

/-! ### Takeover (R467, R468) -/

/-- A takeover that finds nothing waiting drops and reports nothing. -/
theorem hostTakeover_of_idle {s : State} {port : Bool} {v : BitVec 64} (hon : s.qf.hostOn port = true)
    (hgen : fld v 0 32 = s.qf.host.generation) (hnone : s.qf.unstarted = []) (hmq : ∀ x ∈ s.qf.host.mqs, x.2.waiting = []) :
    To (.hostTakeover port v) s
      (inHost { s.qf with
          pool := { s.qf.pool with waiting := [] }, qps := { s.qf.qps with waiting := [] }, cum := { s.qf.cum with later := [] } }
        (fun h => { h with
          active := some port, generation := h.generation + 1
          mqs := h.mqs.map (fun x => (x.1, { x.2 with
            state := .off, waiting := [], fullSince := none, config := x.2.config &&& ~~~((1 : BitVec 64) <<< 63) }))
          fetched := h.fetched.filter (fun f => f.started) })) := by
  have hlate : s.qf.host.mqs.flatMap (fun x => x.2.waiting.map Prod.fst) = [] :=
    List.flatMap_eq_nil_iff.2 fun x hx => by rw [hmq x hx, List.map_nil]
  refine to_of_meaning (execHostTakeover port v) rfl rfl ((if_neg (by simp [hon, hgen])).trans ?_)
  dsimp only
  rw [hlate, hnone]
  rfl

/-- Settles O32: a register's write through the active port by the rule above for it. -/
theorem hostRegistersTakeEffect : Obligations.HostRegistersTakeEffect := by
  unfold Obligations.HostRegistersTakeEffect
  refine ⟨?_, fun s port o n hon hrun => ⟨fun hlow hhigh => ?_, fun hout => ?_⟩,
    fun s port o bs hon hactive hrun => ⟨bar2Write_of_reached hon hactive hrun, fun hout => ?_⟩,
    fun s port k v hon hactive => ⟨?_, ?_, mqConfig_of_stopped hon hactive, ?_⟩,
    fun s port v hon hgen hnone hmq => hostTakeover_of_idle hon hgen hnone hmq⟩
  · rintro s port t v q hon hactive hrun rfl
    have hwrite := tenantRecord_of_active (t := t) (v := v) hon hactive hrun
    refine ⟨fun hen => ?_, fun hdis hnone => ?_, fun n x hdis hone ht hready => ?_⟩
    · rwa [if_pos hen] at hwrite
    · have hnone' : (recordWritten s.qf t v).qps.qps.filter (fun x => x.2.ctx.tenant = t && x.2.ctx.state = .ready) = [] :=
        List.filter_eq_nil_iff.2 fun x hx => by simpa using hnone x hx
      rwa [if_neg (ne_true_of_eq_false hdis), hnone'] at hwrite
    · have hone' : (recordWritten s.qf t v).qps.qps.filter (fun x => x.2.ctx.tenant = t && x.2.ctx.state = .ready) = [(n, x)] :=
        (congrArg (List.filter _) hone).trans (by simp [ht, hready])
      rwa [if_neg (ne_true_of_eq_false hdis), hone'] at hwrite
  · refine to_of_meaning (execBar2Access port o (.read n)) rfl rfl ?_
    simp [hrun, hon, bar2Reaches, hlow, hhigh]
  · have hreach : bar2Reaches o.toNat n false = false := by
      simp only [bar2Reaches, Bool.false_eq_true, if_false, Bool.and_eq_false_iff, decide_eq_false_iff_not]
      omega
    refine to_of_meaning (execBar2Access port o (.read n)) rfl rfl ?_
    simp [hrun, hon, hreach, Qf.bar2Refuse]
  · have hreach : bar2Reaches o.toNat bs.length true = false := by
      simp only [bar2Reaches, if_true, Bool.and_eq_false_iff, decide_eq_false_iff_not]
      omega
    exact to_of_meaning (execBar2Access port o (.write bs)) rfl rfl
      ((sectorWrite_of_active hon hactive hrun _).trans (by simp [hreach, Qf.bar2Refuse]))
  · rintro q rfl
    exact to_of_meaning (execMqDoorbell port k v) rfl rfl (bar0Write_of_active hon hactive _)
  · rintro c rfl hoff hsize
    have hconfig := mqConfig_of_disabled hon hactive hoff hsize
    refine ⟨fun hen => ?_, fun hdis => ?_⟩
    · rwa [if_pos hen] at hconfig
    · rwa [if_neg (ne_true_of_eq_false hdis)] at hconfig
  · rintro q rfl
    exact to_of_meaning (execEqDoorbell port v) rfl rfl (bar0Write_of_active hon hactive _)

/-! ### The manager queues (R463, R472, R475) -/

/-- Settles O33: each event by the branch of its meaning that its conditions name. -/
theorem managerQueuesTakeEffect : Obligations.ManagerQueuesTakeEffect := by
  unfold Obligations.ManagerQueuesTakeEffect
  refine ⟨?_, fun s m hm => to_of_meaning (execNop m) rfl rfl (mgr_of_ready hm _ rfl _), fun s p k t hlive hrun hfull hdue => ?_,
    fun s n p hp hended hdue => ?_⟩
  · rintro s k p x q hactive rfl hlive hrun hring
    refine ⟨?_, fun w f hf hq => ⟨fun hop => ?_, fun hop => ?_⟩⟩
    · exact to_of_meaning (execCommandFetch k none) rfl rfl (by simp [hactive, hlive, hrun, hring])
    all_goals
      subst hf hq
      refine to_of_meaning (execCommandFetch k (some w)) rfl rfl ?_
      simp only [hactive]
      refine (if_neg (by simp [hlive, hrun, hring])).trans ?_
    · exact if_pos (List.contains_iff_mem.2 hop)
    · exact if_neg (mt List.contains_iff_mem.1 hop)
  · have hlate : (s.qf.mq p k).fullSince.any (fun t => decide (t + 1000000000 ≤ s.qf.now)) = true :=
      (Option.any_eq_true _ _).2 ⟨t, hfull, decide_eq_true hdue⟩
    exact to_of_meaning (execCompletionRingFull p k) rfl rfl (if_pos (by simp [hlive, hrun, hlate]))
  · refine to_of_meaning (execProgressFree n) rfl rfl ?_
    rcases hdue with ⟨t, hread, hdue⟩ | ⟨hread, t, hended', hdue⟩
    · simp [hp, hended, hread, hdue]
    · simp [hp, hended, hread, hended', hdue]

end Sys2Proof.Proofs

/-! The commands on extents (R40, R43, R49, R51, R53, R540, R541). -/

namespace Sys2Proof.Proofs
open Sys2Proof.Machine Sys2Proof.Claims

/-! ### Extent commands of a slot that nothing changes -/

/-- An extent command that has started acts on a slot that nothing changes and no command waits for (R474, R540). -/
theorem extCmd_of_started {q : Qf} {m : MgrRef} {k : Slot} (hk : SlotStill q k) (c : ExtCmd) :
    (q.markStart m true).extCmd m k c = ((q.markStart m true).runExt m k c).settle := by
  obtain ⟨hbusy, hwait⟩ := hk
  rw [Qf.extCmd, if_neg]
  rw [show (q.markStart m true).slotBusy k = q.slotBusy k from rfl,
    show (q.markStart m true).pool.waiting = q.pool.waiting from rfl, hbusy, hwait]
  decide

section
variable {q : Qf} {m : MgrRef} {k : Slot}

/-- EXTENT_ASSIGN of a FREE slot assigns it (Table POOL-16). -/
theorem runExt_assign_of_free {tray x t : BitVec 16} {r : BitVec 32} {f : BitVec 8} (hlost : (q.extent k).lost = false)
    (hstate : (q.extent k).state = .free) :
    q.runExt m k (.assign tray x t r f) =
      (q.assign k (fld tray 0 14) (fld x 0 13) (fld t 0 12) (fld r 0 20) f).2.complete m 0x10
        (q.assign k (fld tray 0 14) (fld x 0 13) (fld t 0 12) (fld r 0 20) f).1 := by
  simp [Qf.runExt, hlost, hstate, extCode]

/-- What a command does with an ASSIGNED slot (Table POOL-16). -/
def assignedRun (q : Qf) (m : MgrRef) (k : Slot) : ExtCmd → Qf
  | .withdraw tw => q.startWithdraw m k tw.toNat
  | .move h n => q.moveStart m k (fld h 0 14) (fld n 0 18)
  | .placeT0 => q.placeT0 m k
  | .replicate l x => q.replicate m k (fld l 0 14) x
  | .assign .. => q.complete m 0x10 .accessViolation
  | .restore entry => q.restoreEntry m k entry

theorem runExt_of_assigned (hlost : (q.extent k).lost = false) (hstate : (q.extent k).state = .assigned) (c : ExtCmd) :
    q.runExt m k c = assignedRun q m k c := by
  cases c <;> simp [Qf.runExt, hlost, hstate, extCode, assignedRun]

/-- A slot is assigned to an extent of a tray that has room for it, within the tenant's quota (R40, R53, R541). -/
theorem assign_of_room {ep : Ep} {h : HalfPort} {n : BitVec 13} {t : Tenant} {r : RegionId} {flags : BitVec 8}
    (hto : q.halfTo ep = some h) (hprofile : (q.link h).profile = 2) (hprot : (q.link h).trayProt = true)
    (hcap : n.toNat < (q.link h).trayCapacity)
    (hfree : ∀ e ∈ q.pool.extents, e.2.state ≠ .free → e.2.trayEp = ep → e.2.trayExtent ≠ n)
    (hquota : (q.quota t).u1 < (q.quota t).q1.toNat) :
    q.assign k ep n t r flags =
      (.ok, (withRecord flags ((q.updExtent k (fun _ =>
          { state := .assigned, prot := flags.getLsbD 0, sealedX := flags.getLsbD 1, versioned := flags.getLsbD 2,
            trayEp := ep, trayExtent := n, tenant := t, region := r })).updQuota t (fun u => { u with u1 := u.u1 + 1 })) t r).meter
        0 t 4 1) := by
  have htaken : q.pool.extents.any (fun e => e.2.state != .free && e.2.trayEp = ep && e.2.trayExtent = n) = false := by
    simpa using hfree
  have hbad : ¬ ((!(decide ((q.link h).profile = 2) || decide ((q.link h).profile = 4)) ||
      decide ((q.link h).trayCapacity ≤ n.toNat) ||
      q.pool.extents.any (fun e => e.2.state != .free && e.2.trayEp = ep && e.2.trayExtent = n)) = true) := by
    simp [hprofile, hcap, htaken]
  rw [Qf.assign, hto]
  dsimp only
  rw [if_neg hbad, if_neg (by simp [hprofile, hprot]), if_neg (Nat.not_lt.2 hquota)]

/-- A progress object is taken at no time. -/
theorem now_newProgress {kind unit total pr : Nat} {q1 : Qf} (hp : q.newProgress kind unit total = some (pr, q1)) :
    q1.now = q.now := by
  obtain ⟨i, -, hi⟩ := Option.map_eq_some_iff.1 hp
  cases hi
  rfl

theorem startWithdraw_of_progress {tw pr : Nat} {q1 : Qf} (hp : q.newProgress 1 0 4194304 = some (pr, q1)) (hlater : q1.now < tw) :
    q.startWithdraw m k tw = q1.updWd k (fun _ => { tw := tw, cmd := some m, progress := some pr }) := by
  unfold Qf.startWithdraw
  split
  · rename_i h
    cases h.symm.trans hp
  · rename_i h
    cases h.symm.trans hp
    exact if_neg (Nat.not_le.2 hlater)

theorem moveStart_of_progress {h : Ep} {n : Slot} {pr : Nat} {q1 : Qf} (hp : q.newProgress 2 1 65536 = some (pr, q1)) :
    q.moveStart m k h n =
      (inPool q1 (fun p => { p with
        moves := p.moves.set k.toNat { newHome := h, newSlot := n, cmd := some m, progress := some pr } })).moveNext k := by
  unfold Qf.moveStart
  split
  · rename_i h
    cases h.symm.trans hp
  · rename_i h
    cases h.symm.trans hp
    rfl

/-- A tier-0 frame is taken where the home is not short, the quota has room and a frame is free (R49). -/
theorem placeT0_of_room {f pr : Nat} {q1 : Qf} (hnone : (q.extent k).t0Frame = 0xFFF) (hshort : q.pool.short = false)
    (hquota : (q.quota (q.extent k).tenant).u0 < (q.quota (q.extent k).tenant).q0.toNat)
    (hframe : (q.freeFrames 1).head? = some f) (hp : q.newProgress 8 0 4194304 = some (pr, q1)) :
    q.placeT0 m k =
      ((((((inPool (q1.updExtent k (fun e => { e with t0Frame := BitVec.ofNat 12 f }))
        (fun p => { p with frames := p.frames.set f { slot := k, progress := some pr } })).updQuota (q.extent k).tenant
          (fun u => { u with u0 := u.u0 + 1 })).meter 0 (q.extent k).tenant 3 1).checkShort.complete m 0x13 .ok (some pr) 1).fillNext
        f)) := by
  rw [Qf.placeT0]
  dsimp only
  rw [if_neg (by simp [hnone]), if_neg (by simp [hshort, hquota]), hframe]
  dsimp only
  rw [hp]

/-- A replica of a sealed extent is begun in a registered extent of the lender, within the tier-2 quota (R51). -/
theorem replicate_of_room {l : Ep} {x : BitVec 16} (hsealed : (q.extent k).sealedX = true)
    (hnone : (q.extent k).cirrusValid = false)
    (hreg : q.pool.cirrus.any (fun c => c.lender = l && c.extent = x && c.slot.isNone) = true)
    (hquota : ¬ (q.quota (q.extent k).tenant).q2.toNat ≤ (q.quota (q.extent k).tenant).u2 + q.replicating (q.extent k).tenant) :
    q.replicate m k l x =
      (inPool q (fun p => { p with
        cirrus := updFirst (fun c => c.lender = l && c.extent = x && c.slot.isNone) (fun c => { c with slot := some k }) p.cirrus
        replications := p.replications ++ ([{ slot := k, lender := l, extent := x, cmd := some m }] : List Replication) })).replicaNext
        k := by
  rw [Qf.replicate]
  dsimp only
  rw [if_neg (by rw [hreg]; simp [hsealed, hnone]), if_neg hquota]

end

/-- Settles O1: the command runs on its slot as Table POOL-16 has it, and what it does there is the rule above for it. -/
theorem extentCommandsTakeEffect : Obligations.ExtentCommandsTakeEffect := by
  unfold Obligations.ExtentCommandsTakeEffect
  refine ⟨?_, ?_, ?_, ?_, ?_⟩
  · rintro s m slot region tray x tenant flags h k t ep n rfl rfl rfl rfl hm hk hs htr hx ht hr hf hlost hstate hto hprofile hprot
      hcap hfree hquota
    refine to_of_meaning (execExtentAssign m slot tray x tenant region flags) rfl rfl
      ((mgr_of_ready hm 0x10 (by simp [hs, htr, hx, ht, hr, hf]) _).trans ((extCmd_of_started hk _).trans ?_))
    rw [runExt_assign_of_free (q := started s m) hlost hstate,
      assign_of_room (q := started s m) hto hprofile hprot hcap hfree hquota]
  · rintro s m slot tw pr q1 k rfl hm hk hs hreset hlost hstate hlater hp
    have hnow : q1.now < tw.toNat := (now_newProgress hp).trans_lt hlater
    have hrun : ¬ (started s m).boot.resetAt.isSome = true := by simp [Qf.markStart, hreset]
    refine to_of_meaning (execExtentWithdraw m slot tw) rfl rfl
      ((mgr_of_ready hm 0x11 hs _).trans ((if_neg hrun).trans ((extCmd_of_started hk _).trans ?_)))
    rw [runExt_of_assigned (q := started s m) hlost hstate]
    rw [assignedRun, startWithdraw_of_progress hp hnow]
  · rintro s m slot newSlot newHome pr q1 k rfl hm hk hs hh hn hreset hlost hstate hp
    have hrun : ¬ (started s m).boot.resetAt.isSome = true := by simp [Qf.markStart, hreset]
    refine to_of_meaning (execExtentMove m slot newHome newSlot) rfl rfl
      ((mgr_of_ready hm 0x12 (by simp [hs, hh, hn]) _).trans ((if_neg hrun).trans ((extCmd_of_started hk _).trans ?_)))
    rw [runExt_of_assigned (q := started s m) hlost hstate]
    rw [assignedRun, moveStart_of_progress hp]
  · rintro s m slot f pr q1 k e rfl rfl hm hk hs hlost hstate hnone hshort hquota hframe hp
    refine to_of_meaning (execPlaceT0 m slot) rfl rfl ((mgr_of_ready hm 0x13 hs _).trans ((extCmd_of_started hk _).trans ?_))
    rw [runExt_of_assigned (q := started s m) hlost hstate]
    exact congrArg Qf.settle (placeT0_of_room (q := started s m) hnone hshort hquota hframe hp)
  · rintro s m slot lender x k e l rfl rfl rfl hm hk hs hl hlost hstate hsealed hnone hreg hquota
    refine to_of_meaning (execCirrusReplicate m slot lender x) rfl rfl
      ((mgr_of_ready hm 0x15 (by simp [hs, hl]) _).trans ((extCmd_of_started hk _).trans ?_))
    rw [runExt_of_assigned (q := started s m) hlost hstate]
    exact congrArg Qf.settle (replicate_of_room (q := started s m) hsealed hnone hreg hquota)

end Sys2Proof.Proofs

/-! The events of withdrawals, scrubs and moves, and the commands of Cirrus, of versioned regions and of the map epochs
(R43 to R46, R51 to R66, R346, R369, R409, R470, R542). -/

namespace Sys2Proof.Proofs
open Sys2Proof.Machine Sys2Proof.Claims

/-! ### Withdrawals, scrubs and moves -/

/-- Settles O2: each event finds its withdrawal, fill or move, and is due. -/
theorem withdrawalAndMoveEventsTakeEffect : Obligations.WithdrawalAndMoveEventsTakeEffect := by
  unfold Obligations.WithdrawalAndMoveEventsTakeEffect
  refine ⟨?_, ?_, ?_, ?_, ?_, ?_, ?_⟩
  · intro s k w hw heff hstop hdue hrun
    refine to_of_meaning (execWithdrawEffect k) rfl rfl ?_
    simp only [hw]
    exact if_pos (by simp [heff, hstop, hdue, hrun])
  · intro s k w hw heff hstate hfly hrun
    refine to_of_meaning (execWithdrawDrainEnd k) rfl rfl ?_
    simp only [hw]
    exact if_pos (by simp [heff, hstate, hfly, hrun])
  · intro s k w hw heff hstate hdue hrun
    refine to_of_meaning (execWithdrawDrainTimeout k) rfl rfl ?_
    simp only [hw]
    exact if_pos (by simp [heff, hstate, hdue, hrun])
  · intro s k w m hw hstate hstop hpos hrun hcmd
    refine to_of_meaning (execScrubDone k) rfl rfl ?_
    simp only [hw, hcmd]
    exact if_pos (by simp [hstate, hstop, hpos, hrun])
  · intro s k w f hw hfill hdue hrun
    refine to_of_meaning (execTrayFillTimeout k) rfl rfl ?_
    simp only [hw, Option.bind_some, hfill]
    exact if_pos (by simp [hdue, hrun])
  · rintro s k f fr rfl hfr hpos hprog hrun
    refine to_of_meaning (execT0FillDone k) rfl rfl ?_
    simp only [hfr]
    exact if_pos (by simp [hpos, hprog, hrun])
  · intro s k v hv hpass htodo hrun hopen hdirty
    refine to_of_meaning (execMoveCopyPass k) rfl rfl ?_
    simp only [hv]
    rw [if_neg (by simp [hpass, htodo, hrun]), if_pos (by simp [hopen]), if_pos hdirty]

/-! ### Cirrus and restore -/

/-- Settles O3: a registration within the registry's size, a replica written, a reclaim at the home and its acknowledgement, and
a restore whose read is issued. -/
theorem cirrusCommandsTakeEffect : Obligations.CirrusCommandsTakeEffect := by
  unfold Obligations.CirrusCommandsTakeEffect
  refine ⟨?_, ?_, ?_, ?_, ?_⟩
  · rintro s m lender first count l new rfl hm hl hrange rfl hroom
    refine to_of_meaning (execCirrusRegister m lender first count) rfl rfl
      ((mgr_of_ready hm 0x14 (by simp [hl, hrange]) _).trans ?_)
    exact if_neg (Nat.not_lt.2 hroom)
  · intro s k r hr hpos hrun
    refine to_of_meaning (execCirrusReplicaComplete k) rfl rfl ?_
    simp only [hr]
    exact if_pos (by simp [hpos, hrun])
  · intro s i p hserve hdest
    refine to_of_meaning (execReclaim i p) rfl rfl ?_
    simp only [hserve, hdest, bne_self_eq_false, Bool.and_false, Bool.not_true, Bool.false_eq_true, if_false, if_true]
  · rintro s lender r q1 old hr hserve rfl rfl
    refine to_of_meaning (execReclaimAck lender) rfl rfl ?_
    simp only [hr]
    exact if_neg (by simp [hserve])
  · rintro s m slot image tenant k q1 rfl hm hs hi ht hissue
    refine to_of_meaning (execExtentRestore m slot image tenant) rfl rfl
      ((mgr_of_ready hm 0x16 (by rw [hs, hi, ht]; rfl) _).trans ?_)
    unfold inPool started at hissue
    simp only [hissue]

/-! ### Versions -/

/-- A version command acts on a record that is here (R37). -/
theorem versionOp_of_here {q : Qf} {m : MgrRef} {tenant : BitVec 16} {region : BitVec 32} {r : RegionId} {v : VersionRec}
    (hm : MgrReady q m) (hhere : RecordHere q tenant region r v) {ok : Bool} (hok : ok = true) (f : RegionId → Qf → Qf) :
    q.versionOp m tenant region ok f = f r (q.markStart m true) := by
  obtain ⟨ht, hr, rfl, hhas, hhome, rfl, hread⟩ := hhere
  refine (mgr_of_ready hm 0x17 (by simp [ht, hr, hok]) _).trans ?_
  have hhere' : ¬ (!(q.markStart m true).ver.recs.has (fld region 0 20).toNat ||
      (q.markStart m true).recordHome (fld tenant 0 12) (fld region 0 20) != (q.markStart m true).ownEp) = true := by
    rw [show (q.markStart m true).ver = q.ver from rfl, hhas,
      show (q.markStart m true).recordHome (fld tenant 0 12) (fld region 0 20) = (q.markStart m true).ownEp from hhome]
    simp
  have hread' : ¬ ((q.markStart m true).verRec (fld region 0 20)).lost = true := ne_true_of_eq_false hread
  exact (if_neg hhere').trans (if_neg hread')

/-- Settles O4: the record is here and readable, so that each command does what Table POOL-12 says. -/
theorem versionCommandsTakeEffect : Obligations.VersionCommandsTakeEffect := by
  unfold Obligations.VersionCommandsTakeEffect
  refine ⟨?_, ?_, ?_, ?_, ?_, ?_⟩
  · intro s m tenant region r v hm hhere
    refine to_of_meaning (execOpenVersion m tenant region) rfl rfl ((versionOp_of_here hm hhere rfl _).trans ?_)
    obtain ⟨-, -, -, -, -, rfl, -⟩ := hhere
    rfl
  · rintro s m tenant region slot r v w n hm hhere hslot rfl hn rfl
    refine to_of_meaning (execCloseVersion m tenant region slot) rfl rfl ((versionOp_of_here hm hhere hslot _).trans ?_)
    obtain ⟨-, -, -, -, -, rfl, -⟩ := hhere
    simp only [show (s.qf.markStart m true).verRec r = s.qf.verRec r from rfl, Bool.and_eq_true, bne_iff_ne, decide_eq_true_eq]
    exact if_neg hn
  · intro s m tenant region r v d hm hhere hd
    refine ⟨_, rfl, ?_⟩
    refine to_of_meaning (execOpenDraft m tenant region) rfl rfl ((versionOp_of_here hm hhere rfl _).trans ?_)
    obtain ⟨-, -, -, -, -, rfl, -⟩ := hhere
    have hopen : (started s m).openDraft r = some (d, _) := congrArg (Option.map _) hd
    simp only [show s.qf.markStart m true = started s m from rfl, hopen]
    rfl
  · intro s m tenant region draft r v k q1 hm hhere hdraft hopen hpub
    refine to_of_meaning (execPublish m tenant region draft v.current) rfl rfl ((versionOp_of_here hm hhere hdraft _).trans ?_)
    obtain ⟨-, -, -, -, -, rfl, -⟩ := hhere
    simp only [show (s.qf.markStart m true).verRec r = s.qf.verRec r from rfl, hopen, Bool.not_true, Bool.false_eq_true,
      if_false, bne_self_eq_false, show (s.qf.markStart m true).publishDraft r draft.toNat = some (k, q1) from hpub]
  · intro s m tenant region draft r v hm hhere hdraft hopen
    refine to_of_meaning (execAbandon m tenant region draft) rfl rfl ((versionOp_of_here hm hhere hdraft _).trans ?_)
    obtain ⟨-, -, -, -, -, rfl, -⟩ := hhere
    exact if_neg (by simp [show (s.qf.markStart m true).verRec r = s.qf.verRec r from rfl, hopen])
  · intro s t r hrun hhas
    refine to_of_meaning (execFoldPage t r) rfl rfl ?_
    exact if_pos (by simp [hrun, hhas])

/-! ### Shortage, skew and map epochs -/

/-- Where no extent has moved away, the previous epoch retires with no slot to free (Table POOL-6). -/
theorem retireEpoch_of_none_moved {q : Qf} (h : q.pool.extents.filter (fun x => x.2.state = .moved) = []) :
    q.retireEpoch = inPart q (fun p => { p with prevRetired := true, early := false }) := by
  simp only [Qf.retireEpoch, h, List.foldl_nil, inPart]

/-- A hot page's replica goes with its entry (R66). -/
theorem dropHot_eq (q : Qf) (page : BitVec 34) :
    q.dropHot page = inPool q (fun p => { p with hotPages := p.hotPages.filter (fun h => h.page != page) }) := rfl

/-- Settles O5: each event is due, and each of the host's writes reaches the sectors. -/
theorem epochAndSkewCommandsTakeEffect : Obligations.EpochAndSkewCommandsTakeEffect := by
  unfold Obligations.EpochAndSkewCommandsTakeEffect
  refine ⟨?_, ?_, ?_, ?_, ?_, ?_, ?_, ?_, ?_⟩
  · intro s home ts hserve
    exact to_of_meaning (execThrottle home false ts) rfl rfl (if_pos hserve)
  · intro s hserve hshort
    exact to_of_meaning execThrottleRenew rfl rfl (if_pos (by simp [hserve, hshort]))
  · intro s home hrun
    refine ends_of_meaning (execThrottleLapse home) rfl rfl ?_
    simp only [hrun, if_true]
    intro x hx y hy hhome
    obtain ⟨x, -, rfl⟩ := List.mem_map.1 hx
    by_contra hdue
    have hlapsed : decide (y.1 = home) && decide (y.2 ≤ s.qf.now) := by simp [hhome, Nat.not_lt.1 hdue]
    dsimp only at hy
    split at hy
    · obtain ⟨-, hkept⟩ := List.mem_filter.1 hy
      simp [hlapsed] at hkept
    · rename_i hnone
      exact hnone (List.any_eq_true.2 ⟨y, hy, hlapsed⟩)
  · intro s r ls hserve
    refine to_of_meaning (execSkewHot r false ls) rfl rfl ?_
    simp only [hserve, Bool.not_true, Bool.false_eq_true, if_false, Bool.not_false, if_true, inPool]
  · intro s page h hpage hidle hrun
    refine to_of_meaning (execReplicaIdleDrop page) rfl rfl ?_
    simp only [hpage]
    exact if_pos (by simp [hidle, hrun])
  · intro s hprev hdue hrun hnone
    refine to_of_meaning execEpochRetire rfl rfl ?_
    rw [if_pos (by simp [hprev, hdue, hrun]), retireEpoch_of_none_moved hnone]
  · intro s hprev hearly hfly hrun hnone
    refine to_of_meaning execEpochRetireEarly rfl rfl ?_
    rw [if_pos (by rw [hprev, hearly, hfly, hrun]; rfl), retireEpoch_of_none_moved hnone]
  · rintro s port value e hon hactive hadv rfl he hprev hboot hfree
    refine to_of_meaning (execAdvance port value) rfl rfl ((sectorWrite_of_active hon hactive hfree _).trans ?_)
    exact if_neg (by simp [hadv, he, hprev, hboot])
  · intro s port value hon hactive hadv hearly hepoch hprev hfree
    refine to_of_meaning (execRetireEarly port value) rfl rfl ((sectorWrite_of_active hon hactive hfree _).trans ?_)
    exact if_neg (by rw [hadv, hearly, hepoch, hprev]; simp)

end Sys2Proof.Proofs

/-! The switch: packets admitted and sent, the route and group tables, queues purged (R344 to R346, R355 to R373). -/

namespace Sys2Proof.Proofs
open Sys2Proof.Machine Sys2Proof.Claims

/-! ### Tables -/

section
variable {α : Type}

theorem find?_set (t : Tbl α) (k i : Nat) (v : α) : (t.set k v).find? i = if k = i then some v else t.find? i := by
  induction t with
  | nil => rfl
  | cons y t ih =>
    obtain ⟨j, w⟩ := y
    unfold Tbl.set
    split
    · rfl
    · split
      · subst j
        simp only [Tbl.find?]
        split <;> rfl
      · simp only [Tbl.find?, ih]
        split
        · rw [if_neg (by omega)]
        · rfl

theorem find?_del (t : Tbl α) (k i : Nat) : (t.del k).find? i = if k = i then none else t.find? i := by
  induction t with
  | nil => simp [Tbl.del, Tbl.find?]
  | cons y t ih =>
    obtain ⟨j, w⟩ := y
    unfold Tbl.del
    split
    · subst j
      rw [ih]
      simp only [Tbl.find?]
      split <;> rfl
    · simp only [Tbl.find?, ih]
      split
      · rw [if_neg (by omega)]
      · rfl

theorem get_upd_self (t : Tbl α) (k : Nat) (d : α) (f : α → α) : (t.upd k d f).get k d = f (t.get k d) := by
  simp [Tbl.upd, Tbl.get, find?_set]

end

section
variable {w : Nat}

/-- One entry written: a zero entry is one that the table does not list. -/
theorem get_put (t : Tbl (BitVec w)) (k i : Nat) (v : BitVec w) :
    (if v = 0 then t.del k else t.set k v).get i 0 = if k = i then v else t.get i 0 := by
  unfold Tbl.get
  split
  · rename_i hzero
    subst hzero
    rw [find?_del]
    split <;> rfl
  · rw [find?_set]
    split <;> rfl

/-- Entries written from an index on read back, and the others as they were. -/
theorem get_writeTable (t : Tbl (BitVec w)) (k : Nat) (es : List (BitVec w)) (i : Nat) :
    (writeTable t k es).get i 0 = if k ≤ i ∧ i < k + es.length then es.getD (i - k) 0 else t.get i 0 := by
  induction es generalizing t k with
  | nil => exact (if_neg (by simp)).symm
  | cons e es ih =>
    rw [writeTable, ih, get_put]
    rcases Nat.lt_trichotomy i k with hlt | rfl | hgt
    · rw [if_neg (by omega), if_neg (by omega), if_neg (by omega)]
    · rw [if_neg (by omega), if_pos rfl, if_pos (by simp), Nat.sub_self, List.getD_cons_zero]
    · obtain ⟨d, rfl⟩ : ∃ d, i = k + 1 + d := ⟨i - (k + 1), by omega⟩
      rw [show k + 1 + d - k = d + 1 by omega, Nat.add_sub_cancel_left, List.getD_cons_succ, List.length_cons]
      by_cases hin : d < es.length
      · rw [if_pos (by omega), if_pos (by omega)]
      · rw [if_neg (by omega), if_neg (by omega), if_neg (by omega)]

end

/-! ### Route and group tables -/

/-- Two blocks that agree beside the host's queues have one switch. -/
theorem sw_of_besideQueues {q t : Qf} (h : besideQueues t = besideQueues q) : t.sw = q.sw :=
  (congrArg (·.sw) (eq_of_besideQueues h).1).trans rfl

/-- A completion posts to the host and changes nothing of the switch. -/
theorem sw_complete (q : Qf) (m : MgrRef) (op : BitVec 8) (st : Status) (prog : Option Nat) (result : BitVec 128) :
    (q.complete m op st prog result).sw = q.sw := by
  unfold Qf.complete
  dsimp only
  split
  · exact (sw_of_besideQueues (besideQueues_drainCpl _ _ _ _)).trans rfl
  · refine (sw_of_besideQueues (besideQueues_drainEvents 2 _)).trans ?_
    split <;> rfl

theorem routeWrite_of_ok {s : State} {m : MgrRef} {first count : BitVec 16} {es : List (BitVec 64)} (hm : MgrReady s.qf m)
    (hrange : first.toNat + count.toNat ≤ 16384) (hlen : es.length = count.toNat) (hok : ∀ e ∈ es, routeOk e = true) :
    To (.routeWrite m first count es) s
      ((inSw (started s m) (fun w => { w with
        pending := { w.pending with routes := writeTable w.pending.routes first.toNat es } })).complete m 0x20 .ok) :=
  to_of_meaning (execRouteWrite m first count es) rfl rfl
    (mgr_of_ready hm 0x20 (by simpa [hrange, hlen] using hok) _)

theorem groupWrite_of_ok {s : State} {m : MgrRef} {first count : BitVec 16} {es : List (BitVec 128)} (hm : MgrReady s.qf m)
    (hrange : first.toNat + count.toNat ≤ 1024) (hlen : es.length = count.toNat) (hok : ∀ e ∈ es, groupOk e = true) :
    To (.groupWrite m first count es) s
      ((inSw (started s m) (fun w => { w with
        pending := { w.pending with groups := writeTable w.pending.groups first.toNat es } })).complete m 0x21 .ok) :=
  to_of_meaning (execGroupWrite m first count es) rfl rfl
    (mgr_of_ready hm 0x21 (by simpa [hrange, hlen] using hok) _)

/-- Settles O24: what the two commands write is the table as `get_writeTable` reads it. -/
theorem tableWritesReadBack : Obligations.TableWritesReadBack := by
  unfold Obligations.TableWritesReadBack
  refine ⟨?_, ?_⟩
  · intro s m first count es hm hrange hlen hok
    refine ends_of_to (routeWrite_of_ok hm hrange hlen hok) ?_
    rw [sw_complete]
    exact ⟨get_writeTable _ _ _, rfl⟩
  · intro s m first count es hm hrange hlen hok
    refine ends_of_to (groupWrite_of_ok hm hrange hlen hok) ?_
    rw [sw_complete]
    exact ⟨get_writeTable _ _ _, rfl⟩

/-! ### Packets and gates -/

/-- Settles O23: a packet that passes through is taken and its cells read; the scheduler's choice leaves; the tables are written
and the events are due. -/
theorem switchCommandsTakeEffect : Obligations.SwitchCommandsTakeEffect := by
  unfold Obligations.SwitchCommandsTakeEffect
  refine ⟨?_, ?_, ?_, fun s m first count es hm hr hl ho => routeWrite_of_ok hm hr hl ho,
    fun s m first count es hm hr hl ho => groupWrite_of_ok hm hr hl ho, ?_, ?_, ?_, ?_, ?_⟩
  · rintro s h vc p o r c hserve hstalled hstaged hroute haccepts rfl rfl
    have hexec : ∀ q, (if (took s (.half h) p).readCells.1 then (took s (.half h) p).readCells.2.badCells (.half h) p
        else if (if vc = 0 then (took s (.half h) p).readCells.2.combine (.half h) p
              else (true, (took s (.half h) p).readCells.2)).1 then
          ((if vc = 0 then (took s (.half h) p).readCells.2.combine (.half h) p
            else (true, (took s (.half h) p).readCells.2)).2).transit (.half h) p
        else (if vc = 0 then (took s (.half h) p).readCells.2.combine (.half h) p
          else (true, (took s (.half h) p).readCells.2)).2) = q → To (.packetAdmit (.half h) vc) s q := by
      intro q hq
      refine to_of_meaning (execPacketAdmit (.half h) vc) rfl rfl ?_
      dsimp only
      rw [if_neg (by simp [hserve]), if_neg (ne_true_of_eq_false hstalled)]
      simp only [hstaged, hroute, haccepts, Bool.not_true, Bool.false_eq_true, if_false]
      exact hq
    refine ⟨fun hbad => hexec _ (if_pos hbad), fun hgood hgo => hexec _ ?_, fun hgood hstop => hexec _ ?_⟩
    · rw [if_neg (ne_true_of_eq_false hgood), if_pos hgo]
    · rw [if_neg (ne_true_of_eq_false hgood), if_neg (ne_true_of_eq_false hstop)]
  · intro s i vc hserve hstalled
    refine to_of_meaning (execPacketAdmit i vc) rfl rfl ?_
    dsimp only
    rw [if_neg (by simp [hserve]), if_pos hstalled]
  · rintro s h q e c x hrun hactive rfl hchoose
    refine to_of_meaning (execPacketDepart h) rfl rfl ?_
    dsimp only
    rw [if_neg (by simp [hrun, hactive]), hchoose]
  · intro s hrun hprev hdue
    exact to_of_meaning execRouteBankEmpty rfl rfl (if_pos (by simp [hrun, hprev, hdue]))
  · rintro s h vc q e t hrun rfl he ht hdue hnew
    refine to_of_meaning (execStuckQueue h vc) rfl rfl ?_
    dsimp only
    rw [if_neg (by simp [hrun])]
    simp only [he, ht]
    exact if_pos (by simpa [hdue] using hnew)
  · rintro s t q x hserve hopen rfl hnone -
    refine to_of_meaning (execPolicerRelease t) rfl rfl ?_
    exact (if_neg (by simp [hserve, hopen])).trans (if_neg (ne_true_of_eq_false hnone))
  · intro s h l cycle t hrun harmed hdue
    refine to_of_meaning (execGateTakeover h) rfl rfl ?_
    simp only [harmed]
    exact if_pos (by simp [hrun, hdue])
  · intro s h
    exact to_of_meaning (execGateEntryChange h) rfl rfl rfl

/-! ### Purged queues (R356) -/

theorem queue_freeCells (q : Qf) (e : QPkt) : (q.freeCells e).sw.queue = q.sw.queue ∧ (q.freeCells e).sw.purged = q.sw.purged := by
  unfold Qf.freeCells
  split
  · exact ⟨rfl, rfl⟩
  · dsimp only
    split <;> exact ⟨rfl, rfl⟩

theorem dropFirst_of_find?_none {α : Type} {f : α → Bool} {xs : List α} (h : xs.find? f = none) : dropFirst f xs = xs := by
  induction xs with
  | nil => rfl
  | cons x xs ih =>
    simp only [List.find?_eq_none, List.forall_mem_cons] at h
    obtain ⟨hx, hxs⟩ := h
    rw [dropFirst, if_neg hx, ih (List.find?_eq_none.2 hxs)]

theorem queue_dequeue (q : Qf) (f : QPkt → Bool) :
    (q.dequeue f).sw.queue = dropFirst f q.sw.queue ∧ (q.dequeue f).sw.purged = q.sw.purged := by
  unfold Qf.dequeue
  split
  · rename_i hnone
    exact ⟨(dropFirst_of_find?_none hnone).symm, rfl⟩
  · exact queue_freeCells _ _

/-- Removing as many elements as a test picks leaves the others. -/
theorem iterate_dropFirst {α : Type} (f : α → Bool) (xs : List α) :
    (dropFirst f)^[(xs.filter f).length] xs = xs.filter (fun x => !f x) := by
  induction xs with
  | nil => rfl
  | cons x xs ih =>
    cases hx : f x with
    | true => simpa [hx, dropFirst] using ih
    | false =>
      have hkeep : ∀ n (ys : List α), (dropFirst f)^[n] (x :: ys) = x :: (dropFirst f)^[n] ys := by
        intro n
        induction n with
        | zero => exact fun _ => rfl
        | succ n ihn => exact fun ys => by rw [Function.iterate_succ_apply, dropFirst, if_neg (ne_true_of_eq_false hx), ihn, Function.iterate_succ_apply]
      simp [hx, hkeep, ih]

/-- The queue once one packet is removed for each of a list of packets for a half-port. -/
theorem queue_foldl_dequeue (h : HalfPort) (vc : BitVec 3) (es : List QPkt) (hes : ∀ e ∈ es, e.out = .half h) (q : Qf) :
    (es.foldl (fun q e => q.dequeue (fun x => x.out = e.out && x.pkt.vc = vc)) q).sw.queue =
        (dropFirst (fun x : QPkt => decide (x.out = .half h) && decide (x.pkt.vc = vc)))^[es.length] q.sw.queue ∧
      (es.foldl (fun q e => q.dequeue (fun x => x.out = e.out && x.pkt.vc = vc)) q).sw.purged = q.sw.purged := by
  induction es generalizing q with
  | nil => exact ⟨rfl, rfl⟩
  | cons e es ih =>
    obtain ⟨hqueue, hpurged⟩ := queue_dequeue q (fun x => x.out = e.out && x.pkt.vc = vc)
    obtain ⟨ihqueue, ihpurged⟩ := ih (fun e he => hes e (.tail _ he)) (q.dequeue (fun x => x.out = e.out && x.pkt.vc = vc))
    rw [List.foldl_cons, ihqueue, ihpurged, hqueue, hpurged, hes e (.head _), List.length_cons, Function.iterate_succ_apply]
    exact ⟨rfl, rfl⟩

/-- A purge discards what is queued for the half-port on the channel, and counts it. -/
theorem queue_purgeQueue (q : Qf) (h : HalfPort) (vc : BitVec 3) :
    (q.purgeQueue h vc).sw.queue = q.sw.queue.filter (fun e => !(decide (e.out = .half h) && decide (e.pkt.vc = vc))) ∧
      (q.purgeQueue h vc).sw.purged.get h.toNat 0 =
        q.sw.purged.get h.toNat 0 + (q.sw.queue.filter (fun e => decide (e.out = .half h) && decide (e.pkt.vc = vc))).length := by
  obtain ⟨hqueue, hpurged⟩ := queue_foldl_dequeue h vc
    (q.sw.queue.filter (fun e => decide (e.out = .half h) && decide (e.pkt.vc = vc))) (fun e he => by
      simp only [List.mem_filter, Bool.and_eq_true, decide_eq_true_eq] at he
      exact he.2.1) q
  refine ⟨hqueue.trans (iterate_dropFirst _ _), ?_⟩
  unfold Qf.purgeQueue
  dsimp only
  rw [hpurged, get_upd_self]

end Sys2Proof.Proofs

/-! The dictionary entries that act when they are written (Tables LINK-13, CORE-7, SCHED-5, SEC-8, FAULT-8, ENS-6, MGMT-7,
OBS-8, BOOT-7 and ELEC-9). -/

namespace Sys2Proof.Proofs
open Sys2Proof.Machine Sys2Proof.Claims

/-! ### A write of one entry -/

/-- Whether a value is one of its type (R454). -/
def Fits (ty : EntryType) (v : List Byte) : Prop := (∀ n, ty.width = some n → v.length = n) ∧ (ty = .bool → leNat v ≤ 1)

theorem fits_of_width {ty : EntryType} {v : List Byte} {n : Nat} (hw : ty.width = some n) (hb : ty ≠ .bool) (hlen : v.length = n) :
    Fits ty v :=
  ⟨fun _ h => hlen.trans (Option.some.inj (hw.symm.trans h)), fun h => absurd h hb⟩

theorem fits_bool {v : List Byte} (hlen : v.length = 1) (hv : leNat v ≤ 1) : Fits .bool v :=
  ⟨fun _ h => hlen.trans (Option.some.inj h), fun _ => hv⟩

theorem fits_one {v : List Byte} (hlen : v.length = 1) (hv : leNat v = 1) : Fits .bool v := fits_bool hlen (by omega)

theorem fits_blob (v : List Byte) : Fits .blob v := ⟨fun _ h => (nomatch h), fun h => (nomatch h)⟩

/-- A value of the entry's type is what the entry's table makes of it. -/
theorem writeTyped_of_fits {e : Entry} {ty : EntryType} {v : List Byte} {key : Nat} (hty : e.type = ty)
    (hkey : 256 * e.index.toNat + e.sub.toNat = key) (hfits : Fits ty v) (q : Qf) (sel : Nat) :
    q.writeTyped e sel v = q.writeEntry sel key v := by
  obtain ⟨hwidth, hbool⟩ := hfits
  subst hty hkey
  unfold Qf.writeTyped
  dsimp only
  split
  · rename_i n hn
    rw [if_neg (by simp [hwidth n hn]), if_neg (by simpa using hbool)]
  · rfl

/-- A fresh write of an entry that takes the value (R454, R455). -/
theorem writes_of_entry {c : AgwenRef → List Byte → Instr} {index : BitVec 16} {sub : BitVec 8}
    {ok : Qf → Nat → List Byte → Prop} {f : Qf → Nat → List Byte → Qf} {ty : EntryType} {key : Nat}
    (hty : (entryAt index sub).map Entry.type = some ty) (hkey : 256 * index.toNat + sub.toNat = key)
    (hps : perSession index sub = false)
    (hc : ∀ a v s, exec (c a v) s = done (fun q => q.agWrite a 0x04 index sub v) s)
    (hw : ∀ q i v, ok q i v → Fits ty v ∧ q.writeEntry i key v = (f q i v).okAns) : Writes c index sub ok f := by
  rintro s a x e v item q hf rfl hbar rfl hok
  obtain ⟨hfits, hentry⟩ := hw _ _ _ hok
  have he := entryAt_of_writeBar hbar
  obtain ⟨hindex, hsub⟩ := index_of_writeBar hbar
  rw [he] at hty
  have hwrite := (writeTyped_of_fits (Option.some.inj hty) (by rw [hindex, hsub, hkey]) hfits _ _).trans hentry
  refine to_of_done (hc a v s) ?_
  rw [Qf.agWrite, agRequest_of_fresh hf, dictWrite_of_taken hbar hps hwrite]
  rfl

theorem leNat_lt (v : List Byte) : leNat v < 256 ^ v.length := by
  induction v with
  | nil => decide
  | cons b v ih =>
    have hb := b.isLt
    rw [leNat, List.length_cons, Nat.pow_succ]
    omega

theorem toNat_leNat {v : List Byte} (hlen : v.length = 8) : (BitVec.ofNat 64 (leNat v)).toNat = leNat v := by
  have hlt := leNat_lt v
  rw [hlen] at hlt
  exact Nat.mod_eq_of_lt hlt

/-! ### The fabric's entries -/

/-- A pending gate list that is whole, and a start far enough ahead, is armed (R373). -/
theorem armGate_of_whole {q : Qf} {h : HalfPort} {l : List (BitVec 64)} (hmax : (q.egress h).pendEntries.toNat ≤ 256)
    (hlen : (q.egress h).pendEntries.toNat ≤ (q.egress h).pendList.length)
    (hl : l = (q.egress h).pendList.take (q.egress h).pendEntries.toNat) (hnz : ∀ x ∈ l, (fld x 0 32 : BitVec 32) ≠ 0)
    (hahead : q.now + 1000 ≤ (q.egress h).takeover.toNat) (hcycle : (q.egress h).pendEntries ≠ 0 → (q.egress h).pendCycle ≠ 0) :
    q.armGate h = (true, q.updEgress h (fun e => { e with
      pendState := 1, armed := some (l, e.pendCycle.toNat, e.takeover.toNat) })) := by
  subst hl
  have hzero : (q.egress h).pendEntries.toNat ≠ 0 → (q.egress h).pendCycle ≠ 0 := fun hn =>
    hcycle fun hz => hn (by rw [hz]; rfl)
  have hany : ((q.egress h).pendList.take (q.egress h).pendEntries.toNat).any (fun x => fld x 0 32 = (0 : BitVec 32)) = false := by
    simpa using hnz
  unfold Qf.armGate
  dsimp only
  rw [if_neg]
  rw [hany]
  simp only [Bool.or_eq_true, Bool.and_eq_true, decide_eq_true_eq, bne_iff_ne, Bool.false_eq_true]
  rintro ((((h | h) | h) | h) | ⟨h1, h2⟩)
  · omega
  · exact h
  · omega
  · omega
  · exact hzero h1 h2

/-- RATE, BURST and OVERHEAD of a bucket are taken in their ranges (R366). -/
theorem writes_of_bucket {c : AgwenRef → List Byte → Instr} {index : BitVec 16} {sub : BitVec 8} {ty : EntryType} {key n part : Nat}
    {f : Qf → Nat → List Byte → Qf} (hty : (entryAt index sub).map Entry.type = some ty)
    (hkey : 256 * index.toNat + sub.toNat = key) (hps : perSession index sub = false)
    (hc : ∀ a v s, exec (c a v) s = done (fun q => q.agWrite a 0x04 index sub v) s) (hwidth : ty.width = some n) (hb : ty ≠ .bool)
    (hentry : ∀ (q : Qf) i v, q.writeEntry i key v = q.ranged (bucketOk part (leNat v)) (f q i v)) :
    Writes c index sub (fun _ _ v => v.length = n ∧ bucketOk part (leNat v) = true) f :=
  writes_of_entry hty hkey hps hc fun q i v ⟨hlen, hok⟩ => ⟨fits_of_width hwidth hb hlen, (hentry q i v).trans (if_pos hok)⟩

/-- QUEUE_PURGE takes a channel (R356). -/
theorem writes_queuePurge : Writes .queuePurge 0x3110 0x04 (fun _ _ v => v.length = 1 ∧ leNat v ≤ 5)
    (fun q i v => q.purgeQueue (BitVec.ofNat 6 i) (BitVec.ofNat 3 (leNat v))) :=
  writes_of_entry (ty := .u8) (key := 0x311004) (by decide +kernel) rfl rfl (fun _ _ _ => rfl) fun _ _ _ ⟨hlen, hv⟩ =>
    ⟨fits_of_width rfl (by decide) hlen, if_neg (Nat.not_lt.2 hv)⟩

/-- Settles O17: each entry takes the value written. -/
theorem fabricEntriesTakeEffect : Obligations.FabricEntriesTakeEffect := by
  unfold Obligations.FabricEntriesTakeEffect
  refine ⟨?_, ?_, ?_, ?_, ?_, ?_, ?_, ?_, ?_, ?_, ?_, ?_⟩
  · refine writes_of_entry (ty := .u16) (key := 0x82000F) (by decide +kernel) rfl rfl (fun _ _ _ => rfl) ?_
    rintro q i v ⟨hlen, hv⟩
    exact ⟨fits_of_width rfl (by decide) hlen, if_neg (Nat.not_le.2 hv)⟩
  · refine writes_of_entry (ty := .enum) (key := 0x300001) (by decide +kernel) rfl rfl (fun _ _ _ => rfl) ?_
    rintro q i v ⟨hlen, hv, hhalf⟩
    refine ⟨fits_of_width rfl (by decide) hlen, if_neg ?_⟩
    simp only [Bool.or_eq_true, Bool.and_eq_true, decide_eq_true_eq]
    omega
  · exact writes_queuePurge
  · refine writes_of_entry (ty := .u16) (key := 0x810001) (by decide +kernel) rfl rfl (fun _ _ _ => rfl) ?_
    rintro q i v hlen
    exact ⟨fits_of_width rfl (by decide) hlen, rfl⟩
  · intro h l
    refine writes_of_entry (ty := .bool) (key := 0x321007) (by decide +kernel) rfl rfl (fun _ _ _ => rfl) ?_
    rintro q i v ⟨hlen, hv, rfl, hmax, hlist, hl, hnz, hahead, hcycle⟩
    refine ⟨fits_one hlen hv, (if_pos hv).trans ?_⟩
    exact congrArg takenAns (armGate_of_whole hmax hlist hl hnz hahead hcycle)
  · refine writes_of_entry (ty := .u16) (key := 0x820008) (by decide +kernel) rfl rfl (fun _ _ _ => rfl) ?_
    rintro q i v ⟨hlen, hv⟩
    exact ⟨fits_of_width rfl (by decide) hlen, if_neg (Nat.not_le.2 hv)⟩
  · refine writes_of_entry (ty := .bool) (key := 0x300010) (by decide +kernel) rfl rfl (fun _ _ _ => rfl) ?_
    rintro q i v ⟨hlen, hv⟩
    exact ⟨fits_bool hlen hv, rfl⟩
  · refine writes_of_entry (ty := .blob) (key := 0x82000B) (by decide +kernel) rfl rfl (fun _ _ _ => rfl) ?_
    rintro q i v ⟨hlen, hv⟩
    exact ⟨fits_blob v, (if_pos hlen).trans (if_neg (Nat.not_le.2 hv))⟩
  · refine writes_of_entry (ty := .u16) (key := 0x82000A) (by decide +kernel) rfl rfl (fun _ _ _ => rfl) ?_
    rintro q i v ⟨hlen, hv⟩
    refine ⟨fits_of_width rfl (by decide) hlen, if_neg ?_⟩
    simp only [Bool.and_eq_true, decide_eq_true_eq, bne_iff_ne]
    omega
  · intro p hp
    fin_cases hp
    · exact writes_of_bucket (ty := .u32) (key := 0x320003) (by decide +kernel) rfl rfl (fun _ _ _ => rfl) rfl (by decide) fun _ _ _ => rfl
    · exact writes_of_bucket (ty := .u32) (key := 0x320004) (by decide +kernel) rfl rfl (fun _ _ _ => rfl) rfl (by decide) fun _ _ _ => rfl
    · exact writes_of_bucket (ty := .u8) (key := 0x320005) (by decide +kernel) rfl rfl (fun _ _ _ => rfl) rfl (by decide) fun _ _ _ => rfl
  · intro p hp
    fin_cases hp
    · exact writes_of_bucket (ty := .u32) (key := 0x320101) (by decide +kernel) rfl rfl (fun _ _ _ => rfl) rfl (by decide) fun _ _ _ => rfl
    · exact writes_of_bucket (ty := .u32) (key := 0x320102) (by decide +kernel) rfl rfl (fun _ _ _ => rfl) rfl (by decide) fun _ _ _ => rfl
    · exact writes_of_bucket (ty := .u8) (key := 0x320103) (by decide +kernel) rfl rfl (fun _ _ _ => rfl) rfl (by decide) fun _ _ _ => rfl
  · intro p hp
    fin_cases hp
    · exact writes_of_bucket (ty := .u32) (key := 0x322001) (by decide +kernel) rfl rfl (fun _ _ _ => rfl) rfl (by decide) fun _ _ _ => rfl
    · exact writes_of_bucket (ty := .u32) (key := 0x322002) (by decide +kernel) rfl rfl (fun _ _ _ => rfl) rfl (by decide) fun _ _ _ => rfl
    · exact writes_of_bucket (ty := .u8) (key := 0x322003) (by decide +kernel) rfl rfl (fun _ _ _ => rfl) rfl (by decide) fun _ _ _ => rfl


theorem sw_storeSetting (q : Qf) (e : Entry) (item : Nat) : (q.storeSetting e item).sw = q.sw := by
  unfold Qf.storeSetting
  split <;> rfl

/-- Settles O47: the write purges the queue, and neither the answer nor the settings store touches the switch. -/
theorem purgedQueuesAreEmpty : Obligations.PurgedQueuesAreEmpty := by
  unfold Obligations.PurgedQueuesAreEmpty
  rintro s a x e v h vc f hf hbar hlen hv rfl rfl rfl
  refine ends_of_to (writes_queuePurge s a x e v _ _ hf rfl hbar rfl ⟨hlen, hv⟩) ?_
  have hsw : (answered (((heard s.qf a).purgeQueue (BitVec.ofNat 6 (x.sel (entryKey 0x3110 0x04)))
      (BitVec.ofNat 3 (leNat v))).storeSetting e (x.sel (entryKey 0x3110 0x04))) a 0x04).sw =
      ((heard s.qf a).purgeQueue (BitVec.ofNat 6 (x.sel (entryKey 0x3110 0x04))) (BitVec.ofNat 3 (leNat v))).sw :=
    sw_storeSetting _ _ _
  rw [hsw]
  exact queue_purgeQueue _ _ _

/-! ### The entries of security, metering, management, time, debug, firmware and power -/

/-- A write of 1 to an entry that acts. -/
theorem writes_of_acting {c : AgwenRef → List Byte → Instr} {index : BitVec 16} {sub : BitVec 8} {key : Nat}
    {ok : Qf → Nat → List Byte → Prop} {f : Qf → Nat → List Byte → Qf} {act : Qf → Ans}
    (hty : (entryAt index sub).map Entry.type = some .bool) (hkey : 256 * index.toNat + sub.toNat = key)
    (hps : perSession index sub = false) (hc : ∀ a v s, exec (c a v) s = done (fun q => q.agWrite a 0x04 index sub v) s)
    (hentry : ∀ (q : Qf) i v, q.writeEntry i key v = q.acting (leNat v) act)
    (hact : ∀ q i v, ok q i v → act q = (f q i v).okAns) :
    Writes c index sub (fun q i v => v.length = 1 ∧ leNat v = 1 ∧ ok q i v) f :=
  writes_of_entry hty hkey hps hc fun q i v ⟨hlen, hv, hok⟩ =>
    ⟨fits_one hlen hv, (hentry q i v).trans ((if_pos hv).trans (hact q i v hok))⟩

theorem takenAns_of_taken {x : Bool × Qf} {t : Qf} (h : x = (true, t)) : takenAns x = t.okAns := by
  subst h
  rfl

theorem setAuthority_of_signed {q : Qf} {v : List Byte} {p : AnchorPair} {g : List Byte} (hsplit : pairSplit v = some (p, g))
    (hlen : g.length = 5139)
    (hrsa : Config.rsaVerify q.ens.authorityKeys.1 (sha512 (v.take (v.length - 5139))) (slice g 0 512) = true)
    (hmldsa : Config.mldsaVerify q.ens.authorityKeys.2 (sha512 (v.take (v.length - 5139))) (slice g 512 4627) = true) :
    q.setAuthority v = (true, inEns q.sealEvent (fun e => { e with authority := some p })) := by
  simp only [Qf.setAuthority, hsplit, hlen, hrsa, hmldsa, decide_true, Bool.and_true, if_true, inEns]

/-- A capture of this block alone, at once or at least 10 us ahead (R494). -/
theorem horizonCapture_of_alone {q : Qf} {v : BitVec 64} {th : Nat} (hidle : q.dbg.hzState = 0)
    (hth : th = if v = 0 then q.now + 10000 else v.toNat) (hahead : q.now + 10000 ≤ th) :
    q.horizonCapture false v =
      (true, (inDbg q (fun d => { d with hzNext := d.hzNext + 1, hzSeen := d.hzSeen ++ [(q.ownEp, d.hzNext)] })).hzArm
        q.ownEp q.dbg.hzNext th false) := by
  subst hth
  refine if_neg ?_
  simp only [hidle, bne_self_eq_false, Bool.false_or, decide_eq_true_eq, Bool.false_eq_true, if_false]
  exact Nat.not_lt.2 hahead

/-- An engine's domain is enabled where its slice's domain is on, and disabled in any state (R27, R531). -/
theorem setDomain_of_engine {q : Qf} {i : Nat} {on : Bool} (hengine : engineDomain i = true)
    (hslice : on = true → q.pwr.domain.get (sliceOf i) 0 = 2) :
    q.setDomain i on = ((fun (r : Qf) =>
        if on then
          (if q.pwr.domain.get i 0 = 0 then r.putDomain i 1
           else if q.pwr.domain.get i 0 = 3 then (r.putDomain i 2).runUnit i else r)
        else if q.pwr.domain.get i 0 = 2 then r.putDomain i 3 else r)
      (inPwr q (fun w => { w with
        enable := w.enable.set i on, offByFault := if on then w.offByFault.filter (fun e => e != i) else w.offByFault }))).okAns := by
  obtain ⟨hlt, hmod⟩ : i < 40 ∧ ¬ i % 5 = 0 := by simpa [engineDomain] using hengine
  have hslice' : ¬ sliceOf i = i := by
    rw [sliceOf, if_pos hlt]
    omega
  have hallowed : ¬ (domainCount ≤ i) ∧ ¬ (40 ≤ i) ∧ ¬ (72 ≤ i) := by
    unfold domainCount
    omega
  obtain ⟨hcount, hlow, hhigh⟩ := hallowed
  unfold Qf.setDomain
  dsimp only
  rw [if_neg, hengine]
  · rfl
  · cases on with
    | true => simp [hcount, hlow, hhigh, hslice', hslice rfl]
    | false => simp [hcount, hlow, hhigh, hslice']

/-- Another unit's domain is put on or off where nothing of the block stands against it (R24, R27, R531). -/
theorem setDomain_of_unit {q : Qf} {i : Nat} {on : Bool} (hengine : engineDomain i = false) (hlt : i < 80)
    (hon : on = true → sliceOf i ≠ i → q.pwr.domain.get (sliceOf i) 0 = 2)
    (hoff : on = false → sliceOf i = i → ∀ e ∈ dependents i, q.pwr.domain.get e 0 = 0)
    (hsettled : q.pwr.domain.get i 0 = (if on then 2 else 0) ∨
      (i < 40 ∨ 72 ≤ i → q.part.booted = false) ∧
      (40 ≤ i → i < 72 → (q.link (BitVec.ofNat 6 (2 * (i - 40)))).state = .detect ∧
        (q.link (BitVec.ofNat 6 (2 * (i - 40)) + 1)).state = .detect)) :
    q.setDomain i on = ((fun (r : Qf) =>
        if on then (dependents i).foldl (fun q e => if engineDomain e && !q.unitIdle e then q.wantUnit e else q) r else r)
      ((inPwr q (fun w => { w with
        enable := w.enable.set i on
        offByFault := if on then w.offByFault.filter (fun e => e != i) else w.offByFault })).putDomain i (if on then 2 else 0))).okAns := by
  have hslice : sliceOf i = i → i < 40 := by
    unfold sliceOf
    split
    · exact fun _ => ‹_›
    · split <;> omega
  unfold Qf.setDomain
  dsimp only
  rw [if_neg, hengine]
  · rfl
  · simp only [Bool.or_eq_true, Bool.and_eq_true, decide_eq_true_eq, Bool.not_eq_true', domainCount]
    rintro (((hcount | hbreaks) | ⟨⟨hboot, hwhich⟩, hchange⟩) | ⟨⟨⟨hlow, hhigh⟩, hlinked⟩, hchange⟩)
    · exact Nat.not_le.2 hlt (of_decide_eq_true hcount)
    · cases on with
      | true => simp at hbreaks; exact hbreaks.2 (hon rfl hbreaks.1)
      | false =>
        simp at hbreaks
        obtain ⟨hown, e, he, hne⟩ := hbreaks
        exact hne (hoff rfl hown e he)
    · obtain hset | ⟨hfixed, -⟩ := hsettled
      · cases on <;> simp [hset] at hchange
      · exact absurd hboot (by rw [hfixed (hwhich.elim .inr fun h => .inl (hslice h))]; decide)
    · obtain hset | ⟨-, hdetect⟩ := hsettled
      · cases on <;> simp [hset] at hchange
      · obtain ⟨hleft, hright⟩ := hdetect hlow hhigh
        rw [hleft, hright] at hlinked
        exact hlinked.elim (by decide) (by decide)

/-- The byte of a BOOL. -/
theorem leNat_bool (on : Bool) : decide (leNat [if on then 1 else 0] = 1) = on := by
  cases on <;> rfl

theorem fits_domain (on : Bool) : Fits .bool [if on then 1 else 0] :=
  fits_bool rfl (by cases on <;> decide)

/-- Settles O18: each entry takes the value written. -/
theorem serviceEntriesTakeEffect : Obligations.ServiceEntriesTakeEffect := by
  unfold Obligations.ServiceEntriesTakeEffect
  refine ⟨?_, ?_, ?_, ?_, ?_, ?_, ?_, ?_, ?_, ?_, ?_, ?_, ?_, ?_, ?_, ?_, ?_, ?_, ?_⟩
  · refine writes_of_entry (ty := .blob) (key := 0x601001) (by decide +kernel) rfl rfl (fun _ _ _ => rfl) ?_
    exact fun q i v hlen => ⟨fits_blob v, if_pos hlen⟩
  · refine writes_of_entry (ty := .blob) (key := 0x601003) (by decide +kernel) rfl rfl (fun _ _ _ => rfl) ?_
    exact fun q i v _ => ⟨fits_blob v, rfl⟩
  · refine writes_of_entry (ty := .time) (key := 0x604002) (by decide +kernel) rfl rfl (fun _ _ _ => rfl) ?_
    exact fun q i v hlen => ⟨fits_of_width rfl (by decide) hlen, rfl⟩
  · refine writes_of_entry (ty := .time) (key := 0x701001) (by decide +kernel) rfl rfl (fun _ _ _ => rfl) ?_
    rintro q i v ⟨hlen, hmin, hmax, hwhole⟩
    refine ⟨fits_of_width rfl (by decide) hlen, congrArg takenAns (if_neg ?_)⟩
    rw [toNat_leNat hlen]
    simp [hwhole, Nat.not_lt.2 hmin, Nat.not_lt.2 hmax]
  · intro im
    refine writes_of_acting (key := 0x702002) (by decide +kernel) rfl rfl (fun _ _ _ => rfl) (fun _ _ _ => rfl) ?_
    rintro q i v ⟨hstaged, hstate⟩
    unfold Qf.ensignActivate
    simp only [hstaged]
    rw [if_neg (by simp [hstate])]
    rfl
  · intro p d g
    refine writes_of_entry (ty := .blob) (key := 0x702004) (by decide +kernel) rfl rfl (fun _ _ _ => rfl) ?_
    rintro q i v ⟨hsplit, hlen, rfl, hrsa, hmldsa⟩
    exact ⟨fits_blob v, takenAns_of_taken (setAuthority_of_signed hsplit hlen hrsa hmldsa)⟩
  · intro p
    refine writes_of_entry (ty := .blob) (key := 0x102001) (by decide +kernel) rfl rfl (fun _ _ _ => rfl) ?_
    rintro q i v ⟨hnone, hsplit⟩
    refine ⟨fits_blob v, (if_neg (by simp [hnone])).trans ?_⟩
    simp only [hsplit, if_true, inMgmt]
  · intro rs
    refine writes_of_entry (ty := .blob) (key := 0x102002) (by decide +kernel) rfl rfl (fun _ _ _ => rfl) ?_
    rintro q i v hroles
    refine ⟨fits_blob v, ?_⟩
    simp [Qf.writeEntry, Qf.writeMgmt, Qf.setRoles, hroles]
  · refine writes_of_entry (ty := .blob) (key := 0xF00001) (by decide +kernel) rfl rfl (fun _ _ _ => rfl) ?_
    rintro q i v ⟨hlen, hserial, hrsa, hmldsa⟩
    exact ⟨fits_blob v, if_pos (by rw [hrsa, hmldsa, hlen, hserial]; simp)⟩
  · refine writes_of_entry (ty := .time) (key := 0x830007) (by decide +kernel) rfl rfl (fun _ _ _ => rfl) ?_
    rintro q i v ⟨hlen, hparent, hboot⟩
    exact ⟨fits_of_width rfl (by decide) hlen, congrArg takenAns (if_neg (by simp [hparent, hboot]))⟩
  · refine writes_of_entry (ty := .bool) (key := 0x831001) (by decide +kernel) rfl rfl (fun _ _ _ => rfl) ?_
    exact fun q i v ⟨hlen, hv⟩ => ⟨fits_one hlen hv, if_pos hv⟩
  · intro th
    refine writes_of_entry (ty := .time) (key := 0x832001) (by decide +kernel) rfl rfl (fun _ _ _ => rfl) ?_
    rintro q i v ⟨hlen, hidle, hprop, hth, hahead⟩
    have hzero : (BitVec.ofNat 64 (leNat v) = 0) ↔ leNat v = 0 := by
      rw [BitVec.toNat_eq, toNat_leNat hlen]
      rfl
    have hcapture := horizonCapture_of_alone (v := BitVec.ofNat 64 (leNat v)) hidle
      (by rw [hth, toNat_leNat hlen]; simp only [hzero]) hahead
    rw [← hprop] at hcapture
    exact ⟨fits_of_width rfl (by decide) hlen, takenAns_of_taken (hcapture.trans (by rw [hprop]))⟩
  · refine writes_of_entry (ty := .bool) (key := 0x832005) (by decide +kernel) rfl rfl (fun _ _ _ => rfl) ?_
    exact fun q i v ⟨hlen, hv⟩ => ⟨fits_one hlen hv, if_pos hv⟩
  · refine writes_of_acting (key := 0x901003) (by decide +kernel) rfl rfl (fun _ _ _ => rfl) (fun _ _ _ => rfl) ?_
    rintro q i v ⟨hbar, hstate, hvalid⟩
    simp [Qf.activate, hbar, hstate, hvalid, inBoot]
  · refine writes_of_acting (key := 0x901004) (by decide +kernel) rfl rfl (fun _ _ _ => rfl) (fun _ _ _ => rfl) ?_
    exact fun q i v hfull => if_neg (by simp [hfull])
  · intro x
    refine writes_of_acting (key := 0x901005) (by decide +kernel) rfl rfl (fun _ _ _ => rfl) (fun _ _ _ => rfl) ?_
    rintro q i v ⟨hbar, hother, hsec, hvalid⟩
    simp [Qf.rollBack, hbar, hother, Nat.not_lt.2 hsec, hvalid, inBoot]
  · refine writes_of_acting (key := 0x201002) (by decide +kernel) rfl rfl (fun _ _ _ => rfl) (fun _ _ _ => rfl) ?_
    exact fun q i v hnone => if_neg (by simp [hnone])
  · intro on
    refine writes_of_entry (ty := .bool) (key := 0x200101) (by decide +kernel) rfl rfl (fun _ _ _ => rfl) ?_
    rintro q i v ⟨rfl, hengine, hslice⟩
    exact ⟨fits_domain on, (congrArg (q.setDomain i) (leNat_bool on)).trans (setDomain_of_engine hengine hslice)⟩
  · intro on
    refine writes_of_entry (ty := .bool) (key := 0x200101) (by decide +kernel) rfl rfl (fun _ _ _ => rfl) ?_
    rintro q i v ⟨rfl, hengine, hlt, hon, hoff, hsettled⟩
    exact ⟨fits_domain on, (congrArg (q.setDomain i) (leNat_bool on)).trans (setDomain_of_unit hengine hlt hon hoff hsettled)⟩

end Sys2Proof.Proofs

/-! Fences and faults, and the meters' events (R389, R400, R404 to R408, R415 to R418, R426, R434 to R440). -/

namespace Sys2Proof.Proofs
open Sys2Proof.Machine Sys2Proof.Claims

/-! ### Meters and authorisations -/

/-- Settles O31: each event is due. -/
theorem meterEventsTakeEffect : Obligations.MeterEventsTakeEffect := by
  unfold Obligations.MeterEventsTakeEffect
  refine ⟨?_, ?_, ?_, ?_, ?_, ?_⟩
  · intro s hrun hdue
    exact to_of_meaning execEphemeralKeyExpiry rfl rfl (if_pos (by simp [hrun, hdue]))
  · intro s hrun hset hdue
    exact to_of_meaning execDebugExpiry rfl rfl (if_pos (by simpa [hrun, hdue] using hset))
  · intro s k hup hfree hfail hnew
    exact to_of_meaning (execMeterTapFlush k) rfl rfl (if_neg (by simp [hup, hfree, hfail, hnew]))
  · intro s k r hup htap hbefore
    refine to_of_meaning (execMeterTap k) rfl rfl ?_
    simp only [htap]
    exact if_pos (by simp [hup, hbefore])
  · intro s hup hdue
    exact to_of_meaning execIntervalEnd rfl rfl (if_pos (by simp [hup, hdue]))
  · rintro s x hfail hnone hdue rfl
    exact to_of_meaning execEnsignFinalRecord rfl rfl (if_neg (by simp [hfail, hnone, Nat.not_lt.2 hdue]))

/-! ### Suspicion and fences -/

/-- A flooded fence message that is new here has its effect once it is forwarded (R416). -/
theorem onFence_of_floods {s : State} {h : HalfPort} {p : Packet} {x : Ep} {q : Qf} (hf : Floods s h p x q) (f : Ep → Qf → Qf) :
    s.qf.onFence h p f = f x q := by
  obtain ⟨hserve, hpeer, rfl, hnew, rfl⟩ := hf
  simp [Qf.onFence, hserve, hpeer, hnew]

/-- A neighbour that is silent is suspected, once (R415). -/
theorem suspect_of_new {q : Qf} {x : Ep} (hx : x ≠ q.ownEp) (hneighbour : q.isNeighbour x = true) (hfenced : x ∉ q.flt.fencedEps)
    (hnew : x ∉ q.flt.suspected) (n : Nat) :
    q.suspect x n =
      (let r := inFlt q (fun f => { f with suspected := f.suspected ++ [x] })
       if q.flt.mode = 0 then
         if n = 2 then r.fault 5 { unit := 9, status := Status.timeout.code, peer := x } else r
       else if q.flt.proposals.any (fun p => p.suspect = x && decide (p.proposer.toNat < q.ownEp.toNat)) then r.voteYes x
       else
         ((inFlt r (fun f => { f with
             proposals := f.proposals ++ [{ suspect := x, proposer := q.ownEp, opened := q.now, votes := [q.ownEp]
                                            voted := true, mine := true, evidence := BitVec.ofNat 4 n }] })).floodFence
           Opc.fencePropose x n).tally x) :=
  if_neg (by simp [hx, hneighbour, hfenced, hnew])

/-- What a proposal does that gives way to none of this QF960's own, and replaces none (R417). -/
theorem proposals_of_new {q : Qf} {x p : Ep} (hnew : ∀ y ∈ q.flt.proposals, y.suspect = x → y.proposer ≠ q.ownEp ∧ y.proposer ≠ p) :
    q.flt.proposals.any (fun y => y.is x q.ownEp) = false ∧
      q.flt.proposals.filter (fun y => !y.is x p) = q.flt.proposals := by
  constructor
  · simp only [List.any_eq_false, Proposal.is, Bool.and_eq_true, decide_eq_true_eq, not_and]
    exact fun y hy hx => (hnew y hy hx).1
  · simp only [List.filter_eq_self, Proposal.is, Bool.not_eq_true', Bool.and_eq_false_iff, decide_eq_false_iff_not]
    intro y hy
    by_cases hx : y.suspect = x
    · exact .inr (hnew y hy hx).2
    · exact .inl hx

/-- Settles O29: heartbeats in service, what a neighbour's silence does, and each message of the fence protocol that is new. -/
theorem fenceMessagesTakeEffect : Obligations.FenceMessagesTakeEffect := by
  unfold Obligations.FenceMessagesTakeEffect
  refine ⟨?_, ?_, ?_, ?_, ?_, ?_, ?_⟩
  · rintro s h l q rfl hserve hlive hpeer rfl
    have hgo : ¬ (!(s.qf.inService && (s.qf.link h).live && (s.qf.link h).peerQf)) = true := by simp [hserve, hlive, hpeer]
    refine ⟨fun hsus => ?_, fun hsus => ?_⟩
    · exact to_of_meaning (execFaultHeartbeat h) rfl rfl ((if_neg hgo).trans (if_pos hsus))
    · exact to_of_meaning (execFaultHeartbeat h) rfl rfl ((if_neg hgo).trans (if_neg (ne_true_of_eq_false hsus)))
  · rintro s q hserve hdue rfl
    exact to_of_meaning execHeartbeatSend rfl rfl (if_neg (by simp [hserve, Nat.not_lt.2 hdue]))
  · intro s x hserve hneighbour hsilent hown hfenced hnew
    have hexec : ∀ q, s.qf.suspect x 2 = q → To (.silentNeighbour x) s q := fun q hq =>
      to_of_meaning (execSilentNeighbour x) rfl rfl ((if_pos (by simp [hserve, hneighbour, hsilent])).trans hq)
    refine ⟨fun hmode => hexec _ ?_, fun hmode hfirst => hexec _ ?_⟩
    · exact (suspect_of_new hown hneighbour hfenced hnew 2).trans (if_pos hmode)
    · have hlowest : s.qf.flt.proposals.any (fun p => p.suspect = x && decide (p.proposer.toNat < s.qf.ownEp.toNat)) = false := by
        simpa using hfirst
      exact (suspect_of_new hown hneighbour hfenced hnew 2).trans
        ((if_neg hmode).trans (if_neg (ne_true_of_eq_false hlowest)))
  · intro s h p x q hf hx hneighbour hsrc hnew
    obtain ⟨hmine, hrest⟩ := proposals_of_new hnew
    have hexec : ∀ r, (if q.flt.mode != 0 && q.suspects x then
          ((inFlt q (fun f => { f with
            proposals := f.proposals ++ [{ suspect := x, proposer := p.srcEp, opened := q.now
                                           evidence := BitVec.ofNat 4 (fenceUp p.payload) }] })).updProposal x p.srcEp
            (fun y => { y with voted := true })).vote x p.srcEp true
        else inFlt q (fun f => { f with
            proposals := f.proposals ++ [{ suspect := x, proposer := p.srcEp, opened := q.now
                                           evidence := BitVec.ofNat 4 (fenceUp p.payload) }] })) = r →
        To (.fencePropose h p) s r := by
      intro r hr
      refine to_of_meaning (execFencePropose h p) rfl rfl ((onFence_of_floods hf _).trans ?_)
      dsimp only
      rw [hmine, if_neg (by simp [hx, hneighbour, hsrc])]
      simp only [Bool.false_eq_true, if_false, hrest]
      exact hr
    refine ⟨fun hquiet => hexec _ (if_neg ?_), ?_⟩
    · rcases hquiet with hmode | hsus
      · simp [hmode]
      · simp [hsus]
    · rintro r hmode hsus rfl
      exact hexec _ (if_pos (by simpa [hsus] using hmode))
  · intro s p h q x y hserve hstaged
    refine ⟨fun hdest => ?_, ?_⟩
    · refine to_of_meaning (execFenceVote p) rfl rfl ?_
      dsimp only
      rw [if_neg (by simp [hserve]), if_pos (by simpa using hdest), hstaged]
    · rintro hdest rfl rfl hfound hyes hfirst hsrc hopen
      refine to_of_meaning (execFenceVote p) rfl rfl ?_
      dsimp only
      rw [if_neg (by simp [hserve]), if_neg (by simp [hdest]), hstaged]
      simp only [hfound]
      exact if_pos (by simp [hyes, hfirst, hsrc, hopen])
  · rintro s x by_ y q hserve hfound hdue rfl
    have hgo : ¬ (!s.qf.inService || decide (s.qf.now < y.opened + 1000000)) = true := by simp [hserve, Nat.not_lt.2 hdue]
    refine ⟨fun hby => ?_, fun hby hvoted => ?_, fun hby hvoted => ?_⟩
    all_goals
      refine to_of_meaning (execFenceVoteWindow x by_) rfl rfl ?_
      simp only [hfound]
      refine (if_neg hgo).trans ?_
    · exact if_pos hby
    · exact (if_neg hby).trans (if_pos (by simp [hvoted]))
    · exact (if_neg hby).trans (if_neg (by simp [hvoted]))
  · intro s h p x q hf
    exact ⟨to_of_meaning (execFenceCommit h p) rfl rfl (onFence_of_floods hf _),
      to_of_meaning (execFenceAbandon h p) rfl rfl (onFence_of_floods hf _)⟩

/-! ### Faults -/

/-- The last time of each unit's fault, once a fault of unit n is noted (R405). -/
abbrev unitNoted (q : Qf) (n : Nat) : Qf :=
  inFlt q (fun f => { f with unitTimes := (f.unitTimes.filter (fun (t : Nat × Nat) => t.1 != n)) ++ [(n, q.now)] })

/-- Whether unit n had a fault within the last second (R405). -/
def unitAgain (q : Qf) (n : Nat) : Bool := q.flt.unitTimes.any (fun (t : Nat × Nat) => t.1 = n && decide (q.now ≤ t.2 + 1000000000))

theorem unitAgain_of_exists {q : Qf} {n : Nat} (h : ∃ t ∈ q.flt.unitTimes, t.1 = n ∧ q.now ≤ t.2 + 1000000000) :
    unitAgain q n = true := by
  obtain ⟨t, ht, hn, hnow⟩ := h
  exact List.any_eq_true.2 ⟨t, ht, by rw [hn, decide_eq_true hnow]; simp⟩

theorem unitAgain_of_all {q : Qf} {n : Nat} (h : ∀ t ∈ q.flt.unitTimes, t.1 = n → t.2 + 1000000000 < q.now) :
    unitAgain q n = false := by
  refine List.any_eq_false.2 fun t ht => ?_
  simp only [Bool.and_eq_true, decide_eq_true_eq, not_and, Nat.not_le]
  exact h t ht

/-- What a unit's fault does, by the unit and whether it recurs (R405). -/
theorem unitFault_eq (q : Qf) (i : FaultInfo) (index : BitVec 4) {n d : Nat}
    (hn : n = (i.sector.toNat * 16 + i.unit.toNat) * 16 + index.toNat) (hd : d = 5 * i.sector.toNat + i.unit.toNat - 3) {r : Qf}
    (hr : r = ((unitNoted q n).fault 8 i).failUnit i.sector i.unit index) :
    q.unitFault i index =
      if 4 ≤ i.unit.toNat && i.unit.toNat ≤ 7 then
        if unitAgain q n then
          inPwr r (fun w => { w with
            domain := w.domain.set d 0, waking := w.waking.del d
            offByFault := if w.offByFault.contains d then w.offByFault else w.offByFault ++ [d] })
        else if r.domainOn d then inPwr r (fun w => { w with domain := w.domain.set d 1, waking := w.waking.set d r.now })
        else r
      else if (i.unit.toNat ≤ 3 || i.unit = 8) && unitAgain q n then (unitNoted q n).fatal 8 i
      else r := by
  subst hn hd hr
  rfl

/-- Settles O30: each fault is of a running block, and each time limit has passed. -/
theorem faultEventsTakeEffect : Obligations.FaultEventsTakeEffect := by
  unfold Obligations.FaultEventsTakeEffect
  refine ⟨?_, ?_, ?_, ?_, ?_, ?_, ?_⟩
  · rintro s k q hrun rfl
    exact to_of_meaning (execWatchdog (.sector k)) rfl rfl (if_neg (by simp [hrun]))
  · intro s c hrun
    exact to_of_meaning (execWatchdog (.mgmt c)) rfl rfl (if_neg (by simp [hrun]))
  · rintro s k u i n d f q r hrun hn rfl rfl rfl rfl
    have hexec : ∀ {t : Qf}, u.toNat < 13 → s.qf.unitFault { sector := k, unit := u, status := Status.uncorrectable.code, detail := i.zeroExtend 16 } i = t →
        To (.unitFault k u i) s t := fun hu ht =>
      to_of_meaning (execUnitFault k u i) rfl rfl ((if_neg (by simp [hrun, hu])).trans ht)
    have heq := unitFault_eq s.qf { sector := k, unit := u, status := Status.uncorrectable.code, detail := i.zeroExtend 16 } i hn rfl rfl
    have hlow : u.toNat ≤ 3 ∨ u = 8 → u.toNat < 13 ∧ ¬ (4 ≤ u.toNat && u.toNat ≤ 7) = true := by
      rintro (h | rfl)
      · simp; omega
      · decide
    refine ⟨fun h4 h7 hnone hon => ?_, fun h4 h7 hagain hoff => ?_, fun hu hagain => ?_, fun hu hnone => ?_, fun h9 h12 => ?_⟩
    · refine hexec (by omega) (heq.trans ?_)
      rw [if_pos (by simp [h4, h7]), if_neg (ne_true_of_eq_false (unitAgain_of_all hnone)), if_pos hon]
    · refine hexec (by omega) (heq.trans ?_)
      rw [if_pos (by simp [h4, h7]), if_pos (unitAgain_of_exists hagain)]
      simp only [inPwr, List.contains_eq_mem, hoff, decide_false, Bool.false_eq_true, if_false]
    · refine hexec (hlow hu).1 (heq.trans ?_)
      rw [if_neg (hlow hu).2, if_pos (by simpa [unitAgain_of_exists hagain] using hu)]
    · refine hexec (hlow hu).1 (heq.trans ?_)
      rw [if_neg (hlow hu).2, if_neg (by simp [unitAgain_of_all hnone])]
    · refine hexec (by omega) (heq.trans ?_)
      have h8 : u ≠ 8 := by
        rintro rfl
        exact absurd h9 (by decide)
      have h7 : ¬ u.toNat ≤ 7 := by omega
      have h3 : ¬ u.toNat ≤ 3 := by omega
      rw [if_neg (by simp [h7]), if_neg (by rw [decide_eq_false h3, decide_eq_false h8]; simp)]
  · rintro s q hphase hfail rfl
    exact to_of_meaning execUndervoltage rfl rfl (if_neg (by simp [hphase, hfail]))
  · intro s d hup hfail hd
    exact to_of_meaning (execRegulatorFailure d) rfl rfl (if_neg (by simp [hup, hfail, hd]))
  · rintro s q hfail hdrained rfl
    have hexec := to_of_meaning (c := .drainDone) (s := s) execDrainDone rfl rfl (if_neg (by simp [hfail, hdrained]))
    refine ⟨hexec, fun hheld => ?_⟩
    refine to_of_meaning execDrainDone rfl rfl ((if_neg (by simp [hfail, hdrained])).trans (if_pos ?_))
    exact congrArg (fun b => !b || _) hheld
  · rintro s src tag r h q hserve hsrc hfound hdue hing rfl
    refine to_of_meaning (execRequestTimeout src tag) rfl rfl ?_
    dsimp only
    rw [if_neg (by simp [hserve, hsrc])]
    simp only [hfound, hing]
    exact if_neg (Nat.not_lt.2 hdue)

end Sys2Proof.Proofs

/-! Bring-up and resets, and the module's power and temperature (R27, R503 to R512, R518, R525 to R536). -/

namespace Sys2Proof.Proofs
open Sys2Proof.Machine Sys2Proof.Claims

/-! ### Bring-up and resets -/

/-- Where every stack is at full rate and every self-test passed, FULL raises no fault and Cumulus is canonical (R507, R510). -/
theorem enterFull_of_calibrated {q : Qf} (hlen : q.boot.stackRate.length = 8) (hrate : ∀ r ∈ q.boot.stackRate, r = 2)
    (htest : ∀ r ∈ q.boot.selfTest, r = 1) :
    q.enterFull = inCum (inBoot q (fun b => { b with phase := .full, releaseTime := q.obs.zenith }))
      (fun c => { c with canonical := true }) := by
  have hstack : ∀ k < 8, q.boot.stackRate.getD k 0 = 2 := fun k hk => by
    have hk' : k < q.boot.stackRate.length := hlen ▸ hk
    rw [List.getD_eq_getElem _ _ hk']
    exact hrate _ (List.getElem_mem hk')
  have hself : ∀ k, q.boot.selfTest.getD k 0 ≠ 2 := fun k => by
    by_cases hk : k < q.boot.selfTest.length
    · rw [List.getD_eq_getElem _ _ hk, htest _ (List.getElem_mem hk)]
      decide
    · rw [List.getD_eq_default _ _ (Nat.not_lt.1 hk)]
      decide
  have hall : q.boot.selfTest.all (· = 1) = true := by simpa using htest
  have hquiet : ∀ ks : List Nat, (∀ k ∈ ks, k < 8) → ks.foldl (fun (r : Qf) k =>
      if q.boot.selfTest.getD k 0 = 2 then
        (if q.boot.stackRate.getD k 0 = 2 then r else r.unitFault { sector := BitVec.ofNat 3 k, unit := 3 } 0).unitFault
          { sector := BitVec.ofNat 3 k, unit := 4 } 0
      else if q.boot.stackRate.getD k 0 = 2 then r else r.unitFault { sector := BitVec.ofNat 3 k, unit := 3 } 0) q = q := by
    intro ks hks
    induction ks with
    | nil => rfl
    | cons k ks ih =>
      rw [List.foldl_cons, if_neg (hself k), if_pos (hstack k (hks k (.head _)))]
      exact ih fun j hj => hks j (.tail _ hj)
  unfold Qf.enterFull
  dsimp only
  rw [hquiet (List.range 8) (fun k hk => List.mem_range.1 hk), hall]

/-- Settles O37: each event in its phase. -/
theorem bringUpTakesEffect : Obligations.BringUpTakesEffect := by
  unfold Obligations.BringUpTakesEffect
  refine ⟨?_, ?_, ?_, ?_, ?_, ?_, ?_, ?_, ?_, ?_, ?_⟩
  · intro s
    exact ⟨fun hoff => to_of_meaning execPowerUp rfl rfl (if_pos hoff), fun hon => to_of_meaning execPowerUp rfl rfl (if_neg hon)⟩
  · rintro s q hphase hlow hfail rfl
    refine to_of_meaning execResetRelease rfl rfl ?_
    rw [if_neg (by simp [hphase, hlow, hfail])]
  · intro s hphase hfree hfail
    exact to_of_meaning execReducedService rfl rfl (if_neg (by simp [hphase, hfree, hfail]))
  · intro s k good hphase hfree
    have hgo : ¬ (s.qf.boot.phase != .reduced || s.qf.dbg.squalled) = true := by simp [hphase, hfree]
    exact ⟨to_of_meaning (execStackRetrain k good) rfl rfl (if_neg hgo),
      to_of_meaning (execCumulusSelfTest k good) rfl rfl (if_neg hgo)⟩
  · rintro s q hphase hfree hrate htest hlinks rfl hlen
    have hcal : s.qf.calibrated = true := by
      simp only [Qf.calibrated, Bool.and_eq_true, List.all_eq_true, decide_eq_true_eq]
      exact ⟨⟨hrate, htest⟩, hlinks⟩
    exact to_of_meaning execFullService rfl rfl
      ((if_pos (by simp [hphase, hfree, hcal])).trans (enterFull_of_calibrated hlen hrate htest))
  · intro s m pt ep epoch count cs fs rs gs ms z q b hm hargs hphase hboot hb hz hq
    subst hq
    have hz' : allHalves.foldl (fun q h => q.lowerLink h 9) (s.qf.markStart m true).zeroSystem.slicesOn = z := hz.symm
    refine ⟨fun hparent => ?_, fun hroot => ?_⟩
    all_goals
      refine to_of_meaning (execPartitionBoot m pt ep epoch count cs fs rs gs ms) rfl rfl
        ((mgr_of_ready hm 0x28 hargs _).trans ((if_neg hphase).trans ((if_neg (ne_true_of_eq_false hboot)).trans ?_)))
      rw [hz', ← hb]
    · exact if_pos hparent
    · refine (if_neg ?_).trans ?_
      · rw [hroot]
        decide
      · rfl
  · intro s t ht hdue
    refine to_of_meaning execSelfReset rfl rfl ?_
    simp only [ht]
    exact if_pos hdue
  · rintro s q rfl hoff hsec
    have hgo : ¬ (s.qf.boot.phase = .off || s.qf.boot.phase = .secFail) = true := by simp [hoff, hsec]
    refine ⟨fun hfail => ?_, fun hfail => ?_, fun hfail hup => ?_⟩
    all_goals refine to_of_meaning (execResetN true) rfl rfl ((if_neg hgo).trans ?_)
    · exact (if_neg (by simp [hfail])).trans (if_neg (by simp [hfail]))
    · exact if_pos hfail
    · exact (if_neg (by simp [hfail])).trans (if_neg (by simp [hup]))
  · rintro s q rfl hlow
    have hgo : ¬ (!s.qf.pwr.resetLow) = true := by simp [hlow]
    refine ⟨fun hphase hfail => ?_, fun hphase => ?_⟩
    all_goals refine to_of_meaning (execResetN false) rfl rfl ((if_neg hgo).trans ?_)
    · exact if_pos (by simp [hphase, hfail])
    · exact if_neg (by simp [hphase])
  · intro s port
    refine ⟨to_of_meaning (execPerstN port true) rfl rfl rfl, fun hphase hfail => to_of_meaning (execPerstN port false) rfl rfl ?_⟩
    have hup : (!false && (decide (s.qf.boot.phase = .reduced) || decide (s.qf.boot.phase = .full)) &&
        decide (s.qf.pwr.failState = 0)) = true := by simpa [hfail] using hphase
    dsimp only
    rw [hup]
  · intro s
    exact to_of_meaning execInputLoss rfl rfl rfl

/-! ### Power and temperature -/

/-- Settles O38: each event is due, and a sample's state follows from the temperatures. -/
theorem powerEventsTakeEffect : Obligations.PowerEventsTakeEffect := by
  unfold Obligations.PowerEventsTakeEffect
  refine ⟨?_, ?_, ?_, ?_, ?_⟩
  · intro s hup hnone hdue hfail
    refine to_of_meaning execHoldupTest rfl rfl ((if_pos (by simp [hup, hnone, hdue, hfail])).trans ?_)
    unfold Qf.startHoldup
    by_cases hvolts : 45000 ≤ s.qf.senses.2.1
    · rw [if_pos (by simp [hvolts, hfail]), if_pos hvolts]
    · rw [if_neg (by simp [hvolts]), if_neg hvolts]
  · intro s t charge droop ht hdue hdroop
    refine to_of_meaning (execHoldupTestEnd charge droop) rfl rfl ?_
    simp only [ht]
    rw [if_neg (by simp only [Bool.and_eq_true, decide_eq_true_eq]; omega), Qf.holdupCap, holdupHealthOf,
      if_neg (Nat.pos_iff_ne_zero.1 hdroop), if_neg (Nat.pos_iff_ne_zero.1 hdroop)]
  · intro s d hengine henable hon
    have hgo : ¬ (!engineDomain d.toNat || s.qf.pwr.enable.get d.toNat true ||
        (s.qf.pwr.domain.get d.toNat 0 != 2 && s.qf.pwr.domain.get d.toNat 0 != 3)) = true := by
      rcases hon with h | h <;> simp [hengine, henable, h]
    refine ⟨fun hidle => ?_, fun hbusy => ?_⟩
    · exact to_of_meaning (execDomainPowerDown d) rfl rfl ((if_neg hgo).trans (if_pos hidle))
    · exact to_of_meaning (execDomainPowerDown d) rfl rfl ((if_neg hgo).trans (if_neg (ne_true_of_eq_false hbusy)))
  · intro s d hengine hwaking hslice hdue hrun hfail
    exact to_of_meaning (execDomainWake d) rfl rfl (if_pos (by simp [hengine, hwaking, hslice, hdue, hrun, hfail]))
  · rintro s die ts st q hup hdue hnot hfail hst rfl
    have hnext : (if s.qf.pwr.thermal = 2 then 2 else thermalNext s.qf.pwr.thermal s.qf.pwr.tjThrottle.toNat die.toNat (hottest ts)) =
        st := (if_neg hnot).trans hst.symm
    have hgo : ¬ (!s.qf.zenithOn || decide (s.qf.now < s.qf.pwr.lastThermal + 1000000)) = true := by
      simp [hup, Nat.not_lt.2 hdue]
    have hkeep : (if decide (st = 2) && s.qf.pwr.failState != 0 then s.qf.pwr.thermal else st) = st := if_neg (by simp [hfail])
    refine ⟨fun hsame => ?_, fun hnew hlow => ?_, fun htop => ?_⟩
    all_goals
      refine to_of_meaning (execThermalSample die ts) rfl rfl ((if_neg hgo).trans ?_)
      dsimp only
      rw [hnext, hkeep]
    · exact if_pos hsame
    · exact (if_neg hnew).trans (if_neg hlow)
    · exact (if_neg fun h => hnot (h.symm.trans htop)).trans (if_pos htop)

end Sys2Proof.Proofs

/-! What the dictionary reads after reset. -/

namespace Sys2Proof.Proofs
open Sys2Proof.Machine Sys2Proof.Claims

/-- Settles O48: the machine after reset is closed, and its entries are read one by one. -/
theorem resetReadsTheDefaults : Obligations.ResetReadsTheDefaults := by
  unfold Obligations.ResetReadsTheDefaults
  refine ⟨rfl, rfl, ?_, ?_⟩
  · decide +kernel
  · decide +kernel

end Sys2Proof.Proofs

/-! Requests, writes and snoop answers at their home (R42, R71 to R73, R79 to R93, R108 to R114, R139, R304, R543, R544). -/

namespace Sys2Proof.Proofs
open Sys2Proof.Machine Sys2Proof.Claims

/-! ### Packets for this QF960 -/

section
variable {q : Qf} {i : Ingress} {p : Packet}

/-- A request for this QF960 that is not its client's is taken and goes to its home. -/
theorem request_of_forUs (h : ForUs q i p) (home : Qf → Qf) : q.request i p home = home (q.take i p) := by
  obtain ⟨hserve, hedge, hdest⟩ := h
  cases i <;> simp [Qf.request, hserve, hedge, hdest]

/-- One half of a write is taken with its mate, or waits for it (R544). -/
theorem paired_of_forUs (h : ForUs q i p) (home : Packet → Packet → Qf → Qf) :
    q.paired i p home = (q.take i p).withMate i p home := by
  obtain ⟨hserve, hedge, hdest⟩ := h
  cases i <;> simp [Qf.paired, hserve, hedge, hdest]

theorem forHome_of_here (hserve : q.inService = true) (hdest : p.destEp = q.ownEp) (f : Qf → Qf) :
    q.forHome i p f = f (q.take i p) := by
  simp [Qf.forHome, hserve, hdest]

theorem withMate_of_request {x : Ingress × Packet} {q1 : Qf} (hpair : q.pair i p = (some x, q1)) (hvc : p.vc ≠ 3)
    (f : Packet → Packet → Qf → Qf) : q.withMate i p f = f p x.2 q1 := by
  simp only [Qf.withMate, hpair]
  exact if_neg hvc

theorem withMate_of_data {x : Ingress × Packet} {q1 : Qf} (hpair : q.pair i p = (some x, q1)) (hvc : p.vc = 3)
    (f : Packet → Packet → Qf → Qf) : q.withMate i p f = f x.2 p q1 := by
  simp [Qf.withMate, hpair, hvc]

theorem withMate_of_alone (hnone : q.home.unpaired.find? (isMate p) = none) (f : Packet → Packet → Qf → Qf) :
    q.withMate i p f = inHome q (fun h => { h with unpaired := h.unpaired ++ [(i, p)] }) := by
  simp [Qf.withMate, Qf.pair, hnone]

end

/-! ### Requests that the home accepts -/

section
variable {q q1 q2 : Qf} {p : Packet}

/-- A request on one line that the home accepts joins the line's queue, where there is room (R42, R111, R139). -/
theorem homeLine_of_accepts {n : LineNo} (h : Accepts q p q1 q2) (hview : q2.viewLine p (lineNo p.addr) = n)
    (hroom : (q2.takeIn p).queueFull n = false) (op : LineOp) :
    q.homeLine op p = ((q2.takeIn p).order { op := op, line := n, pkt := p }).settle := by
  obtain ⟨hcleared, hmove, htarget, hchecks, hdraft⟩ := h
  subst hview
  simp [Qf.homeLine, hcleared, hmove, htarget, hchecks, hdraft, Qf.orderAll, hroom]

/-- The requests of one operation are ordered line by line (R304). -/
theorem orderBulk_of_ordered {b : BulkOp} {rs ls : List LineReq}
    (hls : rs.map (fun r => { r with bulk := some q.home.nextBulk }) = ls) (hne : ls ≠ [])
    (hall : (inHome (q.takeIn b.pkt) (fun h => { h with
      nextBulk := q.home.nextBulk + 1, bulks := h.bulks.set q.home.nextBulk { b with left := ls.length } })).orderAll ls = some q2) :
    q.orderBulk b rs = some q2.settle := by
  subst hls
  have hne' : rs ≠ [] := fun h => hne (by rw [h, List.map_nil])
  rw [List.length_map] at hall
  simp only [Qf.orderBulk, inHome] at hall ⊢
  rw [hall, Option.map_some, if_neg hne']

/-- The target record that the home holds for a packet's queue pair cancels the PSNs listed (R546). -/
theorem cancelAll_of_target {h : QpHdr} {t : TargetRec} (ht : q.target h = some t) (psns : List Psn) :
    q.cancelAll p h psns = psns.foldl (fun q x => q.cancelPsn p h x) (q.updTarget h (fun t => t.cancel psns)) := by
  simp only [Qf.cancelAll, ht]

end

/-- Settles O6: a request for this QF960 goes to its home, whose checks accept it. -/
theorem homeRequestsAreOrdered : Obligations.HomeRequestsAreOrdered := by
  unfold Obligations.HomeRequestsAreOrdered
  refine ⟨?_, ?_, ?_, ?_, ?_⟩
  · intro c hc s i p q1 q2 n hus haccepts hview hroom
    have hexec : ∀ op : LineOp, s.qf.request i p (fun q => q.homeLine op p) =
        ((q2.takeIn p).order { op := op, line := n, pkt := p }).settle := fun op =>
      (request_of_forUs hus _).trans (homeLine_of_accepts haccepts hview hroom op)
    fin_cases hc
    · exact to_of_meaning (execRdNc i p) rfl rfl (hexec _)
    · exact to_of_meaning (execRdShared i p) rfl rfl (hexec _)
    · exact to_of_meaning (execRdOwn i p) rfl rfl (hexec _)
    · exact to_of_meaning (execUpgrade i p) rfl rfl (hexec _)
    · exact to_of_meaning (execEvictClean i p) rfl rfl (hexec _)
    · exact to_of_meaning (execAtomic i p) rfl rfl (hexec _)
    · exact to_of_meaning (execPennant i p) rfl rfl (hexec _)
  · intro s i p q1 q2 ls hus hcleared htarget hchecks hls hne hall
    refine to_of_meaning (execRdBulk i p) rfl rfl ((request_of_forUs hus _).trans ?_)
    have hbulk := orderBulk_of_ordered (q := q1) (b := { pkt := p, read := true }) (rs := (List.range (ceilDiv
        ((fld p.addr 0 6 : BitVec 6).toNat + reqLen p none) 64)).map (fun k =>
          { op := .rdNc, line := q1.viewLine p (lineNo p.addr + BitVec.ofNat 40 k), pkt := p }))
      (by rw [← hls, List.map_map]; rfl) hne hall
    simp only [Qf.homeReadBulk, hcleared, htarget, hchecks, Bool.false_eq_true, if_false, Bool.not_true, hbulk, Option.getD_some]
  · rintro s i p r ws x hus hchecks rfl rfl rfl hroom
    refine to_of_meaning (execWaitRegister i p) rfl rfl ((request_of_forUs hus _).trans ?_)
    simp only [Qf.homeWait, hchecks]
    exact if_neg (Nat.not_le.2 hroom)
  · rintro s i p h t t1 psns q1 hus hmsg hqp ht hread hepoch rfl ht1 rfl
    refine to_of_meaning (execCancel i p) rfl rfl ((request_of_forUs hus _).trans ?_)
    simp only [Qf.homeCancel, hmsg, hqp, ht, hread, Bool.false_eq_true, if_false]
    rw [if_neg (BitVec.not_lt.2 hepoch)]
    exact cancelAll_of_target ht1 _
  · intro s h p hserve hedge
    refine to_of_meaning (execStreamReset (.half h) p) rfl rfl ?_
    simp only [hserve, hedge, Bool.not_true, Bool.false_eq_true, if_false, if_true]

/-! ### Writes and their data -/

section
variable {q q1 q2 q3 q4 q5 : Qf} {p r d : Packet}

/-- A write that is whole and that the home accepts has each of its lines ordered (R72, R90, R139). -/
theorem homeWrite_of_accepts {ls : List LineReq}
    (hr : r = { p with payload := d.payload, msg := p.msg.or d.msg, pennant := p.pennant.or d.pennant, qp := p.qp.or d.qp })
    (hcleared : q1.isCleared r = false) (hmove : q1.moveBlocks r = false) (htarget : q1.targetCheck r = (true, q2))
    (hmsg : q2.openMsg r = some q3) (hchecks : q3.homeChecks r = none) (hdraft : q3.draftPage r = some q4)
    (hls : (writePieces r d.payload).map (fun y => ({ op := .write, line := q4.viewLine r y.1, pkt := r, data := y.2.1, mask := y.2.2
                                                      bulk := some (q4.noteMove r).home.nextBulk } : LineReq)) = ls) (hne : ls ≠ [])
    (hall : (inHome ((q4.noteMove r).takeIn r) (fun h => { h with
        nextBulk := (q4.noteMove r).home.nextBulk + 1
        bulks := h.bulks.set (q4.noteMove r).home.nextBulk { pkt := r, left := ls.length } })).orderAll ls = some q5) :
    q1.homeWrite p d = q5.settle := by
  subst hr
  have hbulk := orderBulk_of_ordered (q := q4.noteMove _) (b := { pkt := _ }) (rs := (writePieces _ d.payload).map (fun x =>
      { op := .write, line := q4.viewLine _ x.1, pkt := _, data := x.2.1, mask := x.2.2 }))
    (by rw [← hls, List.map_map]; rfl) hne hall
  simp only [Qf.homeWrite, hcleared, hmove, htarget, hmsg, hchecks, hdraft, Bool.false_eq_true, if_false, Bool.not_true, hbulk,
    Option.getD_some]

/-- A write-back by the recorded owner of an idle line is served at once (R114). -/
theorem homeWriteBack_of_owner {n : LineNo} (hchecks : q.homeChecks p = none) (hview : q.viewLine p (lineNo p.addr) = n)
    (hidle : (q.lineQ n).bind BlockedLine.txn = none) (hfree : ∀ b, q.lineQ n = some b → b.stuck = false)
    (howner : q.wbOwner n p.srcEp = true) {l : LineReq}
    (hl : l = { op := .wbDirty, line := n, pkt := p, data := lineOf (slice d.payload 0 64), ordered := q.now }) :
    q.homeWriteBack p d = ((q.dropHotFor l).serve n l).settle := by
  subst hview hl
  have hfree' : ¬ (match q.lineQ (q.viewLine p (lineNo p.addr)) with | some b => b.stuck | none => false) = true := by
    split
    · exact ne_true_of_eq_false (hfree _ ‹_›)
    · decide
  simp only [Qf.homeWriteBack, hchecks, hidle]
  exact (if_neg hfree').trans (if_pos howner)

end

/-- Settles O7: a write is taken with what arrived first. -/
theorem writesAreTakenWithTheirData : Obligations.WritesAreTakenWithTheirData := by
  unfold Obligations.WritesAreTakenWithTheirData
  refine ⟨?_, ?_, ?_, ?_, ?_⟩
  · intro c hc s i p r x q1 q2 q3 q4 q5 ls hus hpair hvc hr hcleared hmove htarget hmsg hchecks hdraft hls hne hall
    have hexec : s.qf.paired i p (fun r d q => q.homeWrite r d) = q5.settle :=
      (paired_of_forUs hus _).trans ((withMate_of_request hpair hvc _).trans
        (homeWrite_of_accepts hr hcleared hmove htarget hmsg hchecks hdraft hls hne hall))
    fin_cases hc
    · exact to_of_meaning (execWrNc i p) rfl rfl hexec
    · exact to_of_meaning (execWrFullNc i p) rfl rfl hexec
    · exact to_of_meaning (execWrBulk i p) rfl rfl hexec
  · intro c hc s i p hus hnone
    have hexec : ∀ f, s.qf.paired i p f = inHome (took s i p) (fun h => { h with unpaired := h.unpaired ++ [(i, p)] }) := fun f =>
      (paired_of_forUs hus f).trans (withMate_of_alone hnone f)
    fin_cases hc
    · exact to_of_meaning (execWrNc i p) rfl rfl (hexec _)
    · exact to_of_meaning (execWrFullNc i p) rfl rfl (hexec _)
    · exact to_of_meaning (execWrBulk i p) rfl rfl (hexec _)
    · exact to_of_meaning (execWbDirty i p) rfl rfl (hexec _)
    · exact to_of_meaning (execDataWrite i p) rfl rfl (hexec _)
  · intro s i p x q1 n r hus hpair hvc hchecks hview hidle hfree howner hr
    exact to_of_meaning (execWbDirty i p) rfl rfl ((paired_of_forUs hus _).trans ((withMate_of_request hpair hvc _).trans
      (homeWriteBack_of_owner hchecks hview hidle hfree howner hr)))
  · intro s i p x q1 hus hpair hvc
    exact to_of_meaning (execDataWrite i p) rfl rfl ((paired_of_forUs hus _).trans (withMate_of_data hpair hvc _))
  · rintro s i p n t x ⟨hserve, hedge, hdest⟩ hsnooped hanswered hwant
    refine to_of_meaning (execDataDirty i p) rfl rfl ?_
    rw [if_neg (by simp [hserve]), if_neg (by simp [hedge]), if_pos hdest]
    simp only [Qf.homeDirty, hsnooped, hanswered, hwant, if_true]

/-! ### Snoop answers -/

/-- A holder's answer without data changes the directory and counts the snoop as answered (R108, R544). -/
theorem snoopAnswer_of_snooped {q : Qf} {p : Packet} {n : LineNo} {t : Txn} {x : Snoop} (hsnooped : q.snoopedLine p = some (n, t, x))
    (hfar : p.far = false) (f : LineNo → Qf → Qf) (wb : Bool) :
    q.snoopAnswer p f wb =
      (((f n q).updTxn n (fun t => { t with
        snoops := t.snoops.map (fun y => if y.ep = p.srcEp && y.tag = p.tag then
          { y with answered := true, wantData := false, wantWb := wb && q.wbOwner n p.srcEp && !y.wbSeen } else y) })).checkSnoops
        n).settle := by
  simp only [Qf.snoopAnswer, hsnooped, hfar, Bool.and_false, Bool.false_and, Bool.false_eq_true, if_false]

/-- Settles O8: an answer is for the line whose transaction sent the snoop; the one snoop that is late stays unanswered. -/
theorem snoopAnswersAdvanceTheLine : Obligations.SnoopAnswersAdvanceTheLine := by
  unfold Obligations.SnoopAnswersAdvanceTheLine
  refine ⟨?_, ?_, ?_⟩
  · intro c hc s i p n t x hserve hdest hsnooped hfar
    have hexec : ∀ f wb, s.qf.forHome i p (fun q => q.snoopAnswer p f wb) = _ := fun f wb =>
      (forHome_of_here hserve hdest _).trans (snoopAnswer_of_snooped hsnooped hfar f wb)
    fin_cases hc
    · exact to_of_meaning (execSnpRspI i p) rfl rfl (hexec _ _)
    · exact to_of_meaning (execSnpRspS i p) rfl rfl (hexec _ _)
    · exact to_of_meaning (execSnpRspWrittenBack i p) rfl rfl (hexec _ _)
    · exact to_of_meaning (execSnpRspKeep i p) rfl rfl (hexec _ _)
  · intro s i p x t hserve hdest hfound ht
    refine to_of_meaning (execCmpAck i p) rfl rfl ((forHome_of_here hserve hdest _).trans ?_)
    simp only [Qf.cmpAck, hfound, ht, Option.bind_some]
  · intro s n b t x hserve hb ht hwaiters hrecall hfree hphase hsnoops hopen hlate
    have hwaiting : t.snoops.filter (fun x => !x.answered || x.wantData || x.wantWb) = [x] := by
      simp [hsnoops, hopen]
    have hlateOnes : [x].filter (fun x => decide (x.since + s.qf.home.snoopTimeout.toNat ≤ s.qf.now)) = [x] := by
      simp [hlate]
    refine to_of_meaning (execSnoopTimeout n) rfl rfl ?_
    dsimp only
    rw [if_neg (by simp [hserve])]
    simp only [hb, Option.bind_some, ht, Option.map_some, hwaiting, hlateOnes]
    rw [if_neg (by simp [hphase, hfree])]
    simp only [List.foldl_cons, List.foldl_nil, hwaiters, hrecall]

end Sys2Proof.Proofs

/-! Responses to open requests, and the timers of requests and waits (R61, R81 to R93, R110, R111, R119 to R121, R141, R347, R543). -/

namespace Sys2Proof.Proofs
open Sys2Proof.Machine Sys2Proof.Claims

/-! ### Responses -/

section
variable {q : Qf} {i : Ingress} {p : Packet} {r : OpenReq}

/-- A response to a request of this QF960 itself, for which its switch combined none, is its own. -/
theorem response_of_answersOwn (h : AnswersOwn q i p r) (hlocal : ¬ (p.opcode = Opc.fail && ((q.take i p).home.trayWrites.any
    (fun w => w.is p.srcEp p.tag) || ((q.take i p).fillSlot p.srcEp p.tag).isSome)) = true) :
    q.response i p = ((q.take i p).ownResponse p).restale := by
  obtain ⟨hserve, hfail, hdest, hcombines, hreads, -⟩ := h
  have hdrain : ¬ (q.running && q.pwr.failState = 1 && p.destEp = q.ownEp) = true := by simp [hfail]
  have hhere : (q.take i p).answerHere p = (q.take i p).ownResponse p := by
    simp only [Qf.answerHere, hreads]
    exact if_neg hlocal
  rw [Qf.response, if_neg hdrain, if_neg (by simp [hserve])]
  simp only [Qf.uncombine, hcombines]
  rw [Qf.deliver, if_pos hdest, hhere]

/-- An own request that is answered, with no status that is tried again, gives its engine the outcome (R81, R82). -/
theorem ownResponse_of_final {st : BitVec 8} (hst : (if p.opcode = Opc.fail then p.status else 0) = st) (hopen : q.openFor p = some r)
    (hretry : st ≠ Status.retry.code) (hstale : st ≠ Status.epochStale.code) (hdown : st ≠ Status.linkDown.code) :
    q.ownResponse p = q.finalAnswer r p st := by
  subst hst
  simp only [Qf.ownResponse, Qf.answered, hopen, hretry, hstale, hdown, decide_false, Bool.false_and, Bool.false_eq_true, if_false]
  split <;> rfl

/-- A response to a request of this QF960 itself that reports success. -/
theorem response_of_success (h : AnswersOwn q i p r) (hop : p.opcode ≠ Opc.fail) :
    q.response i p = ((q.take i p).finalAnswer r p 0).restale := by
  obtain ⟨-, -, -, -, -, hopen⟩ := id h
  rw [response_of_answersOwn h (by simp [hop]), ownResponse_of_final (if_neg hop) hopen (by decide) (by decide) (by decide)]

/-- A response that resolves a client's request goes on to the client (R347). -/
theorem response_of_answersClient (h : AnswersClient q i p r) (hst : answerStatus p ≠ Status.epochStale.code) :
    q.response i p = (((q.take i p).resolved r (answerStatus p)).transit i p).restale := by
  obtain ⟨hserve, hnot, hdest, hclient, hcombines, hopen, hresolves⟩ := h
  have hdrain : ¬ (q.running && q.pwr.failState = 1 && p.destEp = q.ownEp) = true := by simp [hnot]
  rw [Qf.response, if_neg hdrain, if_neg (by simp [hserve])]
  simp only [Qf.uncombine, hcombines]
  rw [Qf.deliver, if_neg hdest, if_pos hclient]
  simp only [Qf.clientResponse, hopen]
  rw [if_pos hresolves, if_neg (by simp [hst])]

end

/-- Settles O9: each response takes the request it answers out of the open ones. -/
theorem responsesResolveRequests : Obligations.ResponsesResolveRequests := by
  unfold Obligations.ResponsesResolveRequests
  refine ⟨?_, ?_, ?_, ?_, ?_, ?_⟩
  · intro c hc s i p r hans hop
    have hexec := response_of_success hans hop
    fin_cases hc
    · exact to_of_meaning (execPlaced i p) rfl rfl hexec
    · exact to_of_meaning (execWaitDone i p) rfl rfl hexec
    · exact to_of_meaning (execAtomicResult i p) rfl rfl hexec
    · exact to_of_meaning (execWbDone i p) rfl rfl hexec
    · exact to_of_meaning (execGrantM i p) rfl rfl hexec
  · intro s i p r hans hop
    have hclean : p.opcode ≠ Opc.fail := by
      rw [hop]
      decide
    exact to_of_meaning (execDataClean i p) rfl rfl (congrArg Qf.settle (response_of_success hans hclean))
  · intro s i p r hans hop hretry hstale hdown hwrites hfill
    obtain ⟨-, -, -, -, -, hopen⟩ := id hans
    refine to_of_meaning (execFail i p) rfl rfl (congrArg Qf.settle ?_)
    rw [response_of_answersOwn hans (by simp [hwrites, hfill]), ownResponse_of_final (if_pos hop) hopen hretry hstale hdown]
  · intro s i p r hserve hdest hopen hstale
    refine to_of_meaning (execPennantDone i p) rfl rfl ?_
    rw [if_neg (by simp [hserve]), if_pos hdest]
    simp only [hopen]
    rw [if_neg hstale]
  · intro c hc s i p r hans hst
    have hexec := response_of_answersClient hans hst
    fin_cases hc
    · exact to_of_meaning (execPlaced i p) rfl rfl hexec
    · exact to_of_meaning (execWaitDone i p) rfl rfl hexec
    · exact to_of_meaning (execAtomicResult i p) rfl rfl hexec
    · exact to_of_meaning (execWbDone i p) rfl rfl hexec
    · exact to_of_meaning (execGrantM i p) rfl rfl hexec
    · obtain ⟨hserve, hnot, -⟩ := hans
      refine to_of_meaning (execPennantDone i p) rfl rfl ?_
      rw [if_neg (by simp [hserve]), if_neg hnot]
      exact hexec
  · intro c hc s i p r hans hst
    have hexec := response_of_answersClient hans hst
    fin_cases hc
    · exact to_of_meaning (execDataClean i p) rfl rfl (congrArg Qf.settle hexec)
    · exact to_of_meaning (execFail i p) rfl rfl (congrArg Qf.settle hexec)

/-! ### Timers -/

/-- A packet of a live queue pair whose answer is overdue is sent again, up to seven times (R141). -/
theorem sentTimeout_of_due {q : Qf} {n : QpKey} {x : SentPkt} {r : OpenReq} (hdue : r.ackAt ≤ q.now) (hstale : x.stale = false)
    (hlease : q.leaseOver n = false) (hready : (q.qp n).ctx.state = .ready) (hcancelled : x.cancelled = false)
    (habort : ((q.qp n).wrOf x.wr).any (fun w => w.aborting.isSome) = false) (htries : x.tries < 7) :
    q.sentTimeout n x r = q.resendSent n r := by
  simp [Qf.sentTimeout, Nat.not_lt.2 hdue, hstale, hlease, hready, hcancelled, habort, Nat.not_le.2 htries]

/-- Settles O10: each timer is due. -/
theorem retryEventsTakeEffect : Obligations.RetryEventsTakeEffect := by
  unfold Obligations.RetryEventsTakeEffect
  refine ⟨?_, ?_, ?_, ?_, ?_, ?_⟩
  · intro s ep tag w d hserve hfound hd hdue
    refine to_of_meaning (execWaitTimeout ep tag) rfl rfl ?_
    rw [if_neg (by simp [hserve])]
    simp only [hfound]
    exact if_neg (by simp [hd, hdue])
  · intro s src id
    refine ends_of_meaning (execClearedPairExpiry src id) rfl rfl fun c => ?_
    simp only [List.mem_filter, Bool.not_eq_true', Bool.and_eq_false_iff, decide_eq_false_iff_not]
    tauto
  · rintro s n e w p p' q1 he hpoll hdue hserve hlease hopen hw rfl hcheck
    refine to_of_meaning (execWaitRegisterResend n) rfl rfl ?_
    simp only [he]
    rw [if_neg (by simp [hpoll, Nat.not_lt.2 hdue, hserve, hlease, hopen])]
    simp only [hw, hcheck]
  · rintro s n e tag p p' q1 q2 he hpoll hdue hserve hlease hover htag rfl hcheck
    refine to_of_meaning (execWaitPoll n) rfl rfl ?_
    simp only [he]
    rw [if_neg (by simp [hpoll, Nat.not_lt.2 hdue, hserve, hlease]), if_neg (ne_true_of_eq_false hover)]
    simp only [htag, hcheck]
  · intro s tag r t hserve hfound ht hdue howner
    refine to_of_meaning (execRetryBackoff tag) rfl rfl ?_
    rw [if_neg (by simp [hserve])]
    simp only [hfound]
    rw [if_neg (by simp [ht, hdue])]
    simp only [howner, Option.bind_none]
  · intro s tag n x r hserve hfound hresend hfresh hstore hdue hstale hlease hready hcancelled habort htries
    refine to_of_meaning (execAckTimeout tag) rfl rfl ?_
    dsimp only
    rw [if_neg (by simp [hserve])]
    simp only [hfound]
    rw [if_neg (by simp [hresend, hfresh])]
    simp only [hstore, sentTimeout_of_due hdue hstale hlease hready hcancelled habort htries]
    rfl

end Sys2Proof.Proofs

/-! Queue pairs: work requests, doorbells and the commands on contexts (R79 to R96, R125 to R145, R151, R187). -/

namespace Sys2Proof.Proofs
open Sys2Proof.Machine Sys2Proof.Claims

/-! ### Work requests -/

/-- A work request that may start, on engines that are awake, takes its place in ring order and does what its opcode says. -/
theorem startWr_of_startable {q : Qf} {n : QpKey} {w : BitVec 512} {op : Nat} {y : Qp} {x : WorkReq} (hstart : q.startable n w op = true)
    (hon : q.domainOn (5 * (qpSector n).toNat + 4) = true) (hy : (q.touchQp n).qp n = y)
    (hx : x = { index := y.ctx.sqConsumer, wr := w, seq := (q.touchQp n).qps.useSeq
                final := if op = 7 && y.broken != 0 then some y.broken else none }) (f : WorkReq → Qf → Qf) :
    q.startWr n w op f = (f x ((q.touchQp n).updQp n (fun z => { z with
      fetched := none, work := z.work ++ [x], ctx := { z.ctx with sqConsumer := z.ctx.sqConsumer + 1 } }))).settleQp n := by
  subst hy hx
  simp only [Qf.startWr, hstart, hon, Bool.not_true, Bool.and_false, Bool.false_eq_true, if_false]

/-- Settles O11: each opcode's work request starts. -/
theorem workRequestsStart : Obligations.WorkRequestsStart := by
  unfold Obligations.WorkRequestsStart
  intro c hc s n w y x hstart hon hy hx
  fin_cases hc
  · exact to_of_meaning (execWrite n w) rfl rfl (startWr_of_startable hstart hon hy hx _)
  · exact to_of_meaning (execRead n w) rfl rfl (startWr_of_startable hstart hon hy hx _)
  · exact to_of_meaning (execCopy n w) rfl rfl (startWr_of_startable hstart hon hy hx _)
  · exact to_of_meaning (execQpAtomic n w) rfl rfl (startWr_of_startable hstart hon hy hx _)
  · exact to_of_meaning (execPennantWrite n w) rfl rfl (startWr_of_startable hstart hon hy hx _)
  · exact to_of_meaning (execWait n w) rfl rfl (startWr_of_startable hstart hon hy hx _)
  · exact to_of_meaning (execFlush n w) rfl rfl (startWr_of_startable hstart hon hy hx _)
  · exact to_of_meaning (execSignal n w) rfl rfl (startWr_of_startable hstart hon hy hx _)

/-! ### Doorbells and commands on contexts -/

/-- A live queue pair takes a doorbell's values (R130). -/
theorem ring_of_live {q : Qf} {n : QpKey} {w : BitVec 64} {k : Qpn} {a b r : BitVec 16} (hw : doorbellWord w = (k, a, b, r))
    (hhas : q.hasQp n = true) (hlive : (q.qp n).ctx.state = .ready ∨ (q.qp n).ctx.state = .error) :
    q.ring n w = (q.updQp n (fun x => { x with ctx := { x.ctx with sqProducer := a }, cqConsumer := b })).settleQp n := by
  simp only [Qf.ring, hw]
  exact if_pos (by simpa [hhas] using hlive)

/-- A manager command on a queue pair that no other command changes runs (R474). -/
theorem qpCmd_of_idle {q : Qf} {m : MgrRef} {w : QpWaiting} (hreset : (q.qp w.pair).resetting = none)
    (hwait : q.qps.waiting.any (fun v => v.pair = w.pair) = false) :
    (q.markStart m true).qpCmd w = ((q.markStart m true).runQpCmd w).resetTurn w.pair := by
  refine if_neg ?_
  rw [show (q.markStart m true).qp w.pair = q.qp w.pair from rfl, show (q.markStart m true).qps = q.qps from rfl, hreset, hwait]
  decide

/-- A context that passes its checks is made, with its ownership record (R125, R147). -/
theorem createNow_of_checked {q : Qf} {m : MgrRef} {n : QpKey} {ctx : BitVec 512} {e : BitVec 32} (hcheck : q.createCheck n ctx = none)
    (he : ((q.qps.own.find? n.toNat).map OwnRec.ownEpoch).getD 1 = e) (pipe : Bool) :
    q.createNow m n ctx pipe =
      ({ q with qps := { q.qps with
          qps := q.qps.qps.set n.toNat { ctx := { QpCtx.ofBits ctx with originEp := q.ownEp, ownEpoch := e }, pipe := pipe }
          own := q.qps.own.set n.toNat
            { ownerEp := q.ownEp, ownEpoch := e, qpn := qpnOf n, leaseEnd := BitVec.ofNat 64 (q.now + 100000) } } } : Qf).complete m
        (if pipe then 0x34 else 0x30) .ok := by
  subst he
  simp only [Qf.createNow, hcheck]

/-- Settles O12: the queue pair is in the state that each doorbell or command asks for. -/
theorem queuePairCommandsTakeEffect : Obligations.QueuePairCommandsTakeEffect := by
  unfold Obligations.QueuePairCommandsTakeEffect
  refine ⟨?_, ?_, ?_, ?_, ?_, ?_, ?_, ?_, ?_⟩
  · intro s port w k n a b r hw hn hon hfree hactive hserve htenant hhas hlive
    refine to_of_meaning (execQpDoorbell port w) rfl rfl ((sectorWrite_of_active hon hactive hfree _).trans ?_)
    have hpair : s.qf.ownPair (doorbellWord w).1 = n := by rw [hw, hn]
    simp only [hpair]
    rw [if_neg (by simp [hserve]), if_neg (ne_true_of_eq_false htenant), ring_of_live hw hhas hlive]
  · intro s h p k n a b r hw hserve hn hbound hhas hlive
    refine to_of_meaning (execDoorbell (.half h) p) rfl rfl ?_
    have hpair : s.qf.pairOf (doorbellWord (bitsOf 64 (slice p.payload 0 8))).1
        (fun x => x.ctx.boundEp = (s.qf.link h).peerEp && x.ctx.state != .reset) = n := by rw [hw, hn]
    dsimp only
    rw [if_neg (by simp [hserve]), hpair, if_pos hbound, ring_of_live hw hhas hlive]
  · intro c hc s m k n ctx e hm hn hreset hwait hcheck he
    subst hn
    have hrun : ∀ kind, (s.qf.markStart m true).qpCmd { pair := s.qf.ownPair k, cmd := m, kind := kind, context := ctx } =
        ((s.qf.markStart m true).runQpCmd { pair := s.qf.ownPair k, cmd := m, kind := kind, context := ctx }).resetTurn
          (s.qf.ownPair k) := fun kind =>
      qpCmd_of_idle (w := { pair := s.qf.ownPair k, cmd := m, kind := kind, context := ctx }) hreset hwait
    fin_cases hc
    · refine to_of_meaning (execQpCreate m k ctx) rfl rfl ((mgr_of_ready hm 0x30 rfl _).trans ((hrun 0).trans ?_))
      exact congrArg (Qf.resetTurn · _) (createNow_of_checked hcheck he false)
    · refine to_of_meaning (execPipeCreate m k ctx) rfl rfl ((mgr_of_ready hm 0x34 rfl _).trans ((hrun 1).trans ?_))
      exact congrArg (Qf.resetTurn · _) (createNow_of_checked hcheck he true)
  · intro s m k n hm hn hreset hwait hhas hstate
    subst hn
    refine to_of_meaning (execQpReset m k) rfl rfl ((mgr_of_ready hm 0x31 rfl _).trans
      ((qpCmd_of_idle (w := { pair := s.qf.pairIn k .error, cmd := m, kind := 2 }) hreset hwait).trans ?_))
    refine congrArg (Qf.resetTurn · _) (if_pos ?_)
    rw [show (s.qf.markStart m true).hasQp _ = true from hhas, show ((s.qf.markStart m true).qp _).ctx.state = .error from hstate]
    decide
  · intro s m k n hm hn hreset hwait hhas hstate hheld
    subst hn
    refine to_of_meaning (execQpDestroy m k) rfl rfl ((mgr_of_ready hm 0x32 rfl _).trans
      ((qpCmd_of_idle (w := { pair := s.qf.pairIn k .reset, cmd := m, kind := 3 }) hreset hwait).trans ?_))
    refine congrArg (Qf.resetTurn · _) (if_pos ?_)
    rw [show (s.qf.markStart m true).hasQp _ = true from hhas, show ((s.qf.markStart m true).qp _).ctx.state = .reset from hstate,
      show (s.qf.markStart m true).heldElsewhere _ = false from hheld]
    simp
  · rintro s src k n i x hn rfl hserve hhas hready hbound hnone hposted hpre hlater
    have hpair : s.qf.pairOf k (fun x => (x.ctx.state = .ready || x.ctx.state = .error) &&
        ((none : Option MgrRef).isSome || x.ctx.boundEp = src)) = n := hn
    refine to_of_meaning (execQpAbort none src k i) rfl rfl ?_
    dsimp only
    rw [hpair]
    refine (if_pos (by simp [hserve, hhas, hready, hbound])).trans ?_
    simp only [hnone]
    refine (if_neg ?_).trans (if_neg ?_)
    · rw [decide_eq_true hposted, hpre]
      decide
    · simp [hlater]
  · intro s n w m hserve hdue habort hdelivered
    refine to_of_meaning (execAbortResolve n) rfl rfl ?_
    rw [if_neg (by simp [hserve])]
    simp only [hdue, List.foldl_cons, List.foldl_nil, habort, Option.getD_some, hdelivered, Bool.false_eq_true, if_false]
    exact if_neg (List.cons_ne_nil _ _)
  · intro s i p h hus hqp hepoch
    refine to_of_meaning (execQpClose i p) rfl rfl ((request_of_forUs hus _).trans ?_)
    simp only [hqp]
    refine if_neg fun hany => ?_
    obtain ⟨t, ht, hlt⟩ := (Option.any_eq_true _ _).1 hany
    exact BitVec.not_lt.2 (hepoch t ht) (of_decide_eq_true hlt)
  · rintro s n peer x y p q1 rfl hy hcheck hneeds hidle hopen hserve hready hfull hlease
    refine to_of_meaning (execPeerSlotReopen n peer) rfl rfl ?_
    simp only [hy, hcheck]
    exact if_pos (by rw [hserve, hready, hlease, hneeds, hidle, hopen]; simpa using hfull)

end Sys2Proof.Proofs

/-! Ownership of queue pairs between QF960s (R147 to R150, R421 to R423). -/

namespace Sys2Proof.Proofs
open Sys2Proof.Machine Sys2Proof.Claims

theorem ownMsg_of_here {q : Qf} {i : Ingress} {p : Packet} (hserve : q.inService = true) (hdest : p.destEp = q.ownEp) (f : Qf → Qf) :
    q.ownMsg i p f = f (q.take i p) := by
  simp [Qf.ownMsg, hserve, hdest]

/-! ### At the record's keeper -/

section
variable {q : Qf} {p : Packet} {m : OwnMsg} {r : OwnRec}

/-- A message of the owner in force, at the record's epoch, is not refused (R150). -/
theorem not_refused_of_owner (hreleased : r.released = false) (howner : r.ownerEp = p.srcEp) (hepoch : r.ownEpoch = m.epoch)
    (hkeeps : q.keepsOwn m = true) :
    ¬ (r.released || r.ownerEp != p.srcEp || r.ownEpoch != m.epoch || !q.keepsOwn m) = true := by
  simp [hreleased, howner, hepoch, hkeeps]

theorem takeRenew_of_owner (hr : q.ownRec? m.pair = some r)
    (hgo : ¬ (r.released || r.ownerEp != p.srcEp || r.ownEpoch != m.epoch || !q.keepsOwn m) = true) {q1 : Qf}
    (hq1 : q1 = q.updOwn m.pair (fun r => { r with
      leaseEnd := q.newLease, ckConsumer := m.consumer, ckProducer := m.producer, ckPeers := m.peers })) :
    q.takeRenew p m = q1.ownChanged m.pair (some (q1.ownAnswer p m.pair r.ownEpoch q1.newLease .ok)) := by
  subst hq1
  simp only [Qf.takeRenew, hr]
  exact if_neg hgo

theorem takeRelease_of_owner (hr : q.ownRec? m.pair = some r)
    (hgo : ¬ (r.released || r.ownerEp != p.srcEp || r.ownEpoch != m.epoch || !q.keepsOwn m) = true) {q1 : Qf}
    (hq1 : q1 = q.updOwn m.pair (fun x => { x with
      released := true, ownerEp := m.grantee, ownEpoch := r.ownEpoch + 1, leaseEnd := q.newLease
      ckConsumer := m.consumer, ckProducer := m.producer, ckPeers := m.peers })) :
    q.takeRelease p m = q1.ownChanged m.pair (some (q1.ownAnswer p m.pair (r.ownEpoch + 1) q1.newLease .ok)) := by
  subst hq1
  simp only [Qf.takeRelease, hr]
  exact if_neg hgo

/-- A claim by the grantee of a released record, within its lease, takes effect (R149). -/
theorem takeClaim_of_grantee (hr : q.ownRec? m.pair = some r) (hreleased : r.released = true) (howner : r.ownerEp = p.srcEp)
    (hepoch : r.ownEpoch = m.epoch) (hlease : q.now < r.leaseEnd.toNat) (hkeeps : q.keepsOwn m = true) {q1 : Qf}
    (hstate : (q.qp m.pair).ctx.state ≠ .released)
    (hq1 : q1 = q.updOwn m.pair (fun r => { r with released := false, leaseEnd := q.newLease })) :
    q.takeClaim p m = q1.ownChanged m.pair (some (q1.ownAnswer p m.pair r.ownEpoch q1.newLease .ok)) := by
  have hgo : ¬ (!r.released || r.ownerEp != p.srcEp || r.ownEpoch != m.epoch || decide (r.leaseEnd.toNat ≤ q.now) || !q.keepsOwn m) = true := by
    simp [hreleased, howner, hepoch, hkeeps, Nat.not_le.2 hlease]
  have hstate' : ¬ (q1.qp m.pair).ctx.state = .released := by
    rw [hq1]
    exact hstate
  subst hq1
  simp only [Qf.takeClaim, hr]
  rw [if_neg hgo, if_neg hstate']

end

/-- An answer without a failure sets a live owner's lease (R148, R422). -/
theorem takeAnswer_of_ready {q : Qf} {p : Packet} {n : QpKey} {h : QpHdr} (hreqs : q.edge.reqs = []) (hqp : p.qp = some h)
    (hn : h.originEp ++ h.qpn = n) (hhas : q.hasQp n = true) (hst : p.status = 0) (hstate : (q.qp n).ctx.state = .ready) :
    q.takeAnswer p = ((inEdge q (fun e => { e with reqs := [] })).updQp n (fun x => { x with
      leaseEnd := leNat (slice p.payload 4 8), authority := if p.srcEp = originOf n then none else some p.srcEp })).settleQp n := by
  subst hn
  have hhas' : ¬ (!(inEdge q (fun e => { e with reqs := [] })).hasQp (h.originEp ++ h.qpn)) = true := by
    rw [show (inEdge q (fun e => { e with reqs := [] })).hasQp (h.originEp ++ h.qpn) = true from hhas]
    decide
  have hstate' : ((inEdge q (fun e => { e with reqs := [] })).qp (h.originEp ++ h.qpn)).ctx.state = .ready := hstate
  simp only [Qf.takeAnswer, hreqs, List.find?_nil, dropFirst, hqp, Option.map_some, hst]
  rw [if_neg hhas', if_neg (by decide)]
  simp only [hstate']

/-- Settles O13: each message is for this QF960, whose record or context stands as the rule asks. -/
theorem ownershipMessagesTakeEffect : Obligations.OwnershipMessagesTakeEffect := by
  unfold Obligations.OwnershipMessagesTakeEffect
  refine ⟨?_, ?_, ?_, ?_, ?_, ?_, ?_, ?_, ?_, ?_, ?_⟩
  · rintro s i p m r hserve hdest rfl hr hreleased howner hepoch hkeeps
    exact ⟨_, rfl, to_of_meaning (execRenew i p) rfl rfl ((ownMsg_of_here hserve hdest _).trans
      (takeRenew_of_owner hr (not_refused_of_owner hreleased howner hepoch hkeeps) rfl))⟩
  · rintro s i p m r hserve hdest hsrc rfl hr hreleased howner hepoch hkeeps
    refine ⟨_, rfl, to_of_meaning (execRelease i p) rfl rfl ((if_neg (by simp [hsrc])).trans ?_)⟩
    exact (ownMsg_of_here hserve hdest _).trans
      (takeRelease_of_owner hr (not_refused_of_owner hreleased howner hepoch hkeeps) rfl)
  · rintro s i p m hserve hsrc rfl hstate
    exact to_of_meaning (execRelease i p) rfl rfl (if_pos (by simp [hserve, hsrc, hstate]))
  · rintro s i p m hserve hdest rfl hhas hstate
    refine to_of_meaning (execTransfer i p) rfl rfl ((ownMsg_of_here hserve hdest _).trans ?_)
    simp only [Qf.takeTransfer, hhas, hstate, bne_self_eq_false, Bool.and_false, Bool.false_eq_true, if_false, if_true]
  · rintro s i p m r hserve hdest rfl hr hreleased howner hepoch hlease hkeeps hstate
    exact ⟨_, rfl, to_of_meaning (execClaim i p) rfl rfl ((ownMsg_of_here hserve hdest _).trans
      (takeClaim_of_grantee hr hreleased howner hepoch hlease hkeeps hstate rfl))⟩
  · intro s i p n h hserve hdest hreqs hqp hn hhas hst hstate
    exact to_of_meaning (execOwnAnswer i p) rfl rfl ((ownMsg_of_here hserve hdest _).trans
      (takeAnswer_of_ready hreqs hqp hn hhas hst hstate))
  · rintro s n x rfl hserve hhas hstate hdue
    have hexec : ∀ {r : Qf}, (if originOf n = s.qf.ownEp && s.qf.qps.backupEp != 0xFFFF then (s.qf.checkpoint n).ownChanged n none
        else s.qf.checkpoint n) = r → To (.leaseRenewal n) s r := fun hr => by
      refine to_of_meaning (execLeaseRenewal n) rfl rfl ((if_pos ?_).trans hr)
      rw [hserve, hhas, hstate]
      cases hsent : (s.qf.qp n).renewSent with
      | none => rfl
      | some t => simpa using hdue t hsent
    exact ⟨fun horigin => hexec ((if_neg (by simp [horigin])).trans (if_neg horigin)),
      fun horigin hbackup => hexec ((if_neg (by simp [hbackup])).trans (if_pos horigin))⟩
  · intro s n r hr hserve hdue howner
    refine to_of_meaning (execLeaseEnd n) rfl rfl ?_
    simp only [hr]
    exact if_pos (by simpa [hserve, hdue] using howner)
  · rintro s n x rfl hhas horigin hdue hrun hstate
    exact to_of_meaning (execOwnerLeaseStop n) rfl rfl
      ((if_neg (by simp [hhas, horigin, Nat.not_lt.2 hdue, hrun])).trans (if_pos hstate))
  · intro s i p seq r hserve hdest hmirror
    refine ⟨_, rfl, to_of_meaning (execOwnMirror i p) rfl rfl ((ownMsg_of_here hserve hdest _).trans ?_)⟩
    simp only [Qf.takeMirror, hmirror]
  · rintro s i p n seq a hserve hdest rfl rfl hpending
    refine to_of_meaning (execOwnMirrorAck i p) rfl rfl ((ownMsg_of_here hserve hdest _).trans ?_)
    simp only [hpending, if_true]

end Sys2Proof.Proofs

/-! Cumulus: the commands on groups, and the packets of a group's running collective (R154 to R184). -/

namespace Sys2Proof.Proofs
open Sys2Proof.Machine Sys2Proof.Claims

/-! ### Commands on groups -/

/-- A command on a group that no disarm changes and no command waits for runs (R474). -/
theorem groupCmd_of_still {q : Qf} {m : MgrRef} {g : Nat} (h : GroupStill q g) (c : GroupCmd) :
    (q.markStart m true).groupCmd m g c = (q.markStart m true).runGroupCmd m g c := by
  obtain ⟨hdisarm, hlater⟩ := h
  refine if_neg ?_
  rw [show (q.markStart m true).group g = q.group g from rfl, show (q.markStart m true).cum = q.cum from rfl, hdisarm, hlater]
  decide

/-- A group is armed where its slots and frames are free, within its tenant's quota (R156, R157). -/
theorem armNow_of_room {q : Qf} {m : MgrRef} {r : BitVec 256} {g n : Nat} {x : Group} {fs : List Nat}
    (hx : Group.ofRecord r = x) (hg : (fld r 244 12).toNat = g) (hnew : q.cum.groups.has g = false)
    (hslots : q.colReserved + x.window ≤ 4096) (hn : (fld r 8 12).toNat = n) (hfs : (if n = 0 then [] else q.freeFrames n) = fs)
    (hframes : n ≤ fs.length) (hquota : n = 0 ∨ (q.quota x.tenant).u0 + n ≤ (q.quota x.tenant).q0.toNat) {q1 : Qf}
    (hq1 : inCum q (fun u => { u with groups := u.groups.set g { x with frames := fs } }) = q1) :
    q.armNow m r =
      (if n = 0 then q1 else (q1.updQuota x.tenant (fun u => { u with u0 := u.u0 + n })).meter 0 x.tenant 3 n).complete m 0x40 .ok := by
  subst hx hg hn hfs hq1
  have hquota' : ¬ ((fld r 8 12).toNat != 0 &&
      decide ((q.quota (Group.ofRecord r).tenant).q0.toNat < (q.quota (Group.ofRecord r).tenant).u0 + (fld r 8 12).toNat)) = true := by
    rcases hquota with h | h
    · simp [h]
    · simp [Nat.not_lt.2 h]
  refine (if_neg (ne_true_of_eq_false hnew)).trans ((if_neg (Nat.not_lt.2 hslots)).trans ((if_neg hquota').trans ?_))
  exact if_neg (Nat.not_lt.2 hframes)

/-- An abort of the running collective is decided here (R183). -/
theorem abortNow_of_current {q : Qf} {g : Nat} (hhas : q.cum.groups.has g = true) {inst : BitVec 32}
    (hinst : inst = (q.group g).nextSeq) (m : MgrRef) :
    q.abortNow m g inst =
      ((q.colOpen g).colAbortAsk g 1 Status.aborted.code (some { cmd := some m, ep := q.ownEp })).colTurn g := by
  have hd : (inst - (q.group g).nextSeq).toNat = 0 := by
    rw [hinst, BitVec.sub_self]
    rfl
  refine (if_neg (by rw [hhas]; decide)).trans ((if_neg ?_).trans (if_neg ?_))
  · rw [hd]
    decide
  · rw [hd]
    decide

/-- Settles O15: each command is of a group that nothing changes, and the timeout is due. -/
theorem collectiveCommandsTakeEffect : Obligations.CollectiveCommandsTakeEffect := by
  unfold Obligations.CollectiveCommandsTakeEffect
  refine ⟨?_, ?_, ?_, ?_⟩
  · intro s m r g n x fs q1 hm hok hx hversion hg hstill hnew hslots hn hfs hframes hquota hq1
    have hargs : (recordOk r && !((Group.ofRecord r).modes.getLsbD 0 && s.qf.oldTreeLink (Group.ofRecord r))) = true := by
      rw [hok, hx]
      rcases hversion with h | h
      · rw [h]
        rfl
      · rw [h, Bool.and_false]
        rfl
    have hstill' : GroupStill s.qf (fld r 244 12).toNat := by
      rw [hg]
      exact hstill
    exact to_of_meaning (execGroupArm m r) rfl rfl ((mgr_of_ready hm 0x40 hargs _).trans ((groupCmd_of_still hstill' _).trans
      (armNow_of_room (q := started s m) hx hg hnew hslots hn hfs hframes hquota hq1)))
  · intro s m group hm hrange hhas hstill
    refine to_of_meaning (execGroupDisarm m group) rfl rfl ((mgr_of_ready hm 0x41 hrange _).trans
      ((groupCmd_of_still hstill _).trans (if_neg ?_)))
    rw [show (s.qf.markStart m true).cum = s.qf.cum from rfl, hhas]
    decide
  · intro s m group inst hm hrange hhas hstill hinst
    exact to_of_meaning (execColAbortCommand m group inst) rfl rfl ((mgr_of_ready hm 0x42 hrange _).trans
      ((groupCmd_of_still hstill _).trans (abortNow_of_current (q := started s m) hhas hinst m)))
  · intro s group hserve hlive hlimit hdue
    refine to_of_meaning (execCollectiveTimeout group) rfl rfl (if_pos ?_)
    rw [hserve, decide_eq_true hdue]
    simpa using And.intro hlive hlimit

/-! ### Packets of the running collective -/

section
variable {s : State} {q : Qf} {h : HalfPort} {p : Packet} {c : ColHdr} {g : Nat}

/-- A packet of the running collective is taken, and what follows in its group runs (R158, R159). -/
theorem colArrive_of_current (hcur : Current s h p c g q) {r : Qf} (htry : q.colTry h p = some r) :
    s.qf.colArrive h p = r.colRun g := by
  obtain ⟨hserve, hcol, rfl, rfl, hwaiting, hsome, -, -⟩ := hcur
  obtain ⟨r0, hr0⟩ := Option.isSome_iff_exists.1 hsome
  rw [Qf.colArrive, if_neg (by simp [hserve])]
  simp only [hcol, Option.getD_some, hwaiting, List.any_nil, Bool.false_and, Bool.false_eq_true, if_false, hr0, htry]

/-- A packet of the running collective is taken by its opcode (R159). -/
theorem colTry_of_current (hcur : Current s h p c g q) (hlaunch : p.opcode = Opc.colLaunch →
      (q.group g).memberMask.getLsbD h.toNat = true ∧ ((q.link h).bind.map Binding.tenant).getD p.tenant = (q.group g).tenant) :
    q.colTry h p = q.colNow g h p c := by
  obtain ⟨-, hcol, rfl, -, -, -, hhas, hseq⟩ := hcur
  have hd : (c.instanceSeq - (q.group c.groupId.toNat).nextSeq).toNat = 0 := by
    rw [hseq, BitVec.sub_self]
    rfl
  simp only [Qf.colTry, hcol]
  refine (if_neg (by rw [hhas]; decide)).trans ((if_neg ?_).trans ((if_neg (by rw [hd]; decide)).trans (if_neg (by rw [hd]; decide))))
  by_cases hop : p.opcode = Opc.colLaunch
  · obtain ⟨hmember, htenant⟩ := hlaunch hop
    simp only [hmember, htenant]
    simp
  · simp [hop]

end

end Sys2Proof.Proofs

/-! The packets of a group's running collective, by their opcodes (R161 to R184). -/

namespace Sys2Proof.Proofs
open Sys2Proof.Machine Sys2Proof.Claims

section
variable {s : State} {q : Qf} {h : HalfPort} {p : Packet} {c : ColHdr} {g : Nat} {op : BitVec 8}

/-- A packet of the running collective other than a launch does what its opcode's rule says (R159). -/
theorem colArrive_of_now (hcur : Current s h p c g q) (hop : p.opcode = op) (hne : op ≠ Opc.colLaunch) {r : Qf}
    (hnow : q.colNow g h p c = some r) : s.qf.colArrive h { p with opcode := op } = r.colRun g := by
  subst hop
  exact colArrive_of_current hcur ((colTry_of_current hcur (fun hl => absurd hl hne)).trans hnow)

/-- A launch of a member that has not launched yet joins the collective (R161). -/
theorem colLaunchNow_of_new {x : Group} (hx : q.group g = x) (hnew : x.inst.members.any (fun m => m.half = h) = false)
    (hmode : LDesc.mode (bitsOf 512 p.payload) = false ∨ q.cum.canonical = true)
    (hok : launchOk x.modes (bitsOf 512 p.payload) = true) (hstate : x.istate ≠ .aborting) :
    q.colLaunchNow g h p c =
      ((q.updInst g (fun i => { i with members := i.members ++
        [{ half := h, ep := p.srcEp, tag := p.tag, desc := bitsOf 512 p.payload }] })).colSign g
        (LDesc.sig (bitsOf 512 p.payload))).2 := by
  subst hx
  have hcanonical : (LDesc.mode (bitsOf 512 p.payload) && !q.cum.canonical) = false := by
    rcases hmode with h | h
    · rw [h, Bool.false_and]
    · rw [h, Bool.not_true, Bool.and_false]
  refine (if_neg (ne_true_of_eq_false hnew)).trans ((if_neg (ne_true_of_eq_false hcanonical)).trans ((if_neg ?_).trans (if_neg hstate)))
  rw [hok]
  decide

/-- A child's exponents are folded in the prepass (R166). -/
theorem colExpNow_of_prepass {x : Group} {q1 : Qf} (hx : q.group g = x) (hchild : x.children.getLsbD h.toNat = true)
    (hstate : x.istate = .prepass) (hsign : q.colSign g (hdrSig c) = (true, q1)) (hstate1 : (q1.group g).istate = .prepass) :
    q.colExpNow g h p c = q1.colPutExps g h c.firstBlock.toNat p.payload := by
  subst hx
  refine (if_neg ?_).trans ?_
  · rw [hchild, hstate]
    decide
  · rw [hsign]
    exact if_pos (by rw [hstate1]; rfl)

/-- The parent's shared exponents are taken in the prepass (R166). -/
theorem colEbcastNow_of_prepass {x : Group} {q1 : Qf} (hx : q.group g = x) (hstate : x.istate = .prepass)
    (hq1 : q1 = q.updInst g (fun i => { i with
      eFinal := (p.payload.zipIdx).foldl (fun t v => t.set (c.firstBlock.toNat + v.2) v.1) i.eFinal })) :
    q.colEbcastNow g p c = some ((if x.qfChildren = [] then q1 else q1.sendCol (unitOf (colSector g 0)) x.qfChildren
      (q1.colPkt g Opc.colEbcast (q1.colHdr g true c.firstBlock.toNat c.run.toNat) p.payload)).colExps g) := by
  subst hx hq1
  refine (if_neg ?_).trans ((if_neg ?_).trans rfl)
  · rw [hstate]
    decide
  · rw [hstate]
    decide

/-- Blocks of a member that has launched, under the collective's signature, are folded (R158, R168). -/
theorem colDataNow_of_member {x : Group} {q1 : Qf} {m : ColMember} {sig : ColSig} (hop : p.opcode = Opc.colData)
    (hx : q.group g = x) (hchild : x.children.getLsbD h.toNat = true) (hmember : x.memberMask.getLsbD h.toNat = true)
    (hstate : x.istate = .summing) (hm : x.inst.members.find? (fun m => m.half = h) = some m) (hsig : x.inst.sig = some sig)
    (htable : sig.inFmt ≠ 4 ∨ m.table.isSome = true) (hhdr : hdrSig c = sig) (hsome : q.colSome g h p c true m sig = (true, q1)) :
    q.colDataNow g h p c = some q1 := by
  subst hx
  have hdata : decide (p.opcode = Opc.colData) = true := decide_eq_true hop
  have hstep : q.colDataStep g h p c = (true, q1) := by
    rw [Qf.colDataStep]
    simp only [hdata, hm, hsig, hchild, hmember, hstate, hhdr, if_true, Option.getD_some, Option.isNone_some, Bool.false_or,
      Bool.true_and]
    rw [if_neg (by decide), if_neg (by decide), if_neg ?_, if_neg (by simp), if_neg (by decide), hsome]
    rcases htable with h | h
    · rw [decide_eq_false h, Bool.false_and]
      decide
    · obtain ⟨t, ht⟩ := Option.isSome_iff_exists.1 h
      simp [ht]
  rw [Qf.colDataNow, hstep]
  rfl

/-- Blocks of a child, under the collective's signature, are folded (R158, R169). -/
theorem colDataNow_of_child {x : Group} {q1 : Qf} {sig : ColSig} (hop : p.opcode = Opc.colPartial)
    (hx : q.group g = x) (hchild : x.children.getLsbD h.toNat = true) (hmember : x.memberMask.getLsbD h.toNat = false)
    (hstate : x.istate = .summing) (hm : x.inst.members.find? (fun m => m.half = h) = none) (hsig : x.inst.sig = some sig)
    (hhdr : hdrSig c = sig) (hsome : q.colSome g h p c false {} sig = (true, q1)) : q.colDataNow g h p c = some q1 := by
  subst hx
  have hdata : decide (p.opcode = Opc.colData) = false := by
    rw [hop]
    decide
  have hsign : q.colSign g sig = (true, q) := by
    rw [Qf.colSign, hsig]
    exact if_pos rfl
  have hstep : q.colDataStep g h p c = (true, q1) := by
    rw [Qf.colDataStep]
    simp only [hdata, hm, hchild, hmember, hstate, hhdr, hsign, hsig, Option.getD_some, Option.getD_none, Bool.false_and,
      Bool.false_eq_true, if_false]
    rw [if_neg (by decide), if_neg (by decide), if_neg (by decide), hsome]
  rw [Qf.colDataNow, hstep]
  rfl

/-- The parent's commit ends the sum (R179). -/
theorem colCommitNow_of_summing {x : Group} {q1 : Qf} (hx : q.group g = x) (hstate : x.istate = .summing)
    (hq1 : q1 = q.updGroup g (fun x => { x with
        istate := .committed
        inst := { x.inst with blocks := [], commitTime := c.commitTime.toNat
                              contributions := leNat (slice p.payload 0 4), overflow := leNat (slice p.payload 4 4) } })) :
    q.colCommitNow g p c = if x.qfChildren = [] then q1 else q1.sendCol (unitOf (colSector g 0)) x.qfChildren
      (q1.colPkt g Opc.colCommit { (q1.colHdr g true 0 0) with commitTime := c.commitTime } p.payload) := by
  subst hx hq1
  exact if_pos hstate

/-- The parent's results are delivered after the commit (R178, R180). -/
theorem colResultNow_of_committed {x : Group} (hx : q.group g = x) (hstate : x.istate = .committed) :
    q.colResultNow g p c = some (x.inst.members.foldl (fun q m => q.memberFinish g m.half)
      ((List.range c.run.toNat).foldl (fun (a : Nat × Qf) k =>
        (a.1 + (x.inst.sig.getD {}).elems (c.firstBlock.toNat + k) * (x.inst.sig.getD {}).outBytes,
          if (x.inst.sig.getD {}).blocks ≤ c.firstBlock.toNat + k || c.firstBlock.toNat + k < (a.2.group g).inst.resNext ||
              (a.2.group g).inst.resAhead.contains (c.firstBlock.toNat + k) then a.2
          else a.2.colDeliver g (c.firstBlock.toNat + k)
            (slice p.payload a.1 ((x.inst.sig.getD {}).elems (c.firstBlock.toNat + k) * (x.inst.sig.getD {}).outBytes)))) (0, q)).2) := by
  subst hx
  refine (if_neg ?_).trans ((if_neg ?_).trans rfl)
  · rw [hstate]
    decide
  · rw [hstate]
    decide

/-- The parent's abort is acknowledged, and the collective aborts (Table CUM-8). -/
theorem colAbortFrom_of_summing {x : Group} (hx : q.group g = x) (hstate : x.istate = .summing) :
    q.colAbortFrom g h p c = (q.sendCol (unitOf (colSector g 0)) [h]
        { (q.colPkt g Opc.colAbortAnswer { (q.colHdr g true 0 0) with reason := c.reason } []) with
          destEp := (q.link h).peerEp }).colAbortNow g c.reason p.status := by
  subst hx
  refine if_pos ?_
  rw [hstate]
  decide

/-- The parent's packets come from above. -/
theorem fromParent {x : Group} (hroot : x.root = false) (hparent : h = x.parent) : (!x.root && decide (h = x.parent)) = true := by
  simp [hroot, hparent]

end

/-- Settles O16: every packet is of its group's running collective, and its opcode's rule takes it. -/
theorem collectivePacketsTakeEffect : Obligations.CollectivePacketsTakeEffect := by
  unfold Obligations.CollectivePacketsTakeEffect
  refine ⟨?_, ?_, ?_, ?_, ?_, ?_, ?_, ?_, ?_, ?_⟩
  · intro s h p c g x q q1 hcur hop hx hmember htenant hnew hmode hok hstate hq1
    subst hx hq1
    have hp : { p with opcode := Opc.colLaunch } = p := by rw [← hop]
    refine to_of_meaning (execColLaunch h p) rfl rfl ?_
    rw [hp]
    refine colArrive_of_current hcur ((colTry_of_current hcur fun _ => ⟨hmember, htenant⟩).trans ((if_pos hop).trans ?_))
    rw [colLaunchNow_of_new rfl hnew hmode hok hstate]
  · intro s h p c g x q q1 hcur hop hx hchild hstate hsign hstate1
    refine to_of_meaning (execColExp h p) rfl rfl (colArrive_of_now hcur hop (by decide) ?_)
    rw [← colExpNow_of_prepass hx hchild hstate hsign hstate1, Qf.colNow, hop]
    rfl
  · intro s h p c g x q hcur hop hx hroot hparent hstate
    refine ⟨_, rfl, to_of_meaning (execColEbcast h p) rfl rfl (colArrive_of_now hcur hop (by decide) ?_)⟩
    rw [← colEbcastNow_of_prepass hx hstate rfl, Qf.colNow, hop, hx, fromParent hroot hparent]
    rfl
  · intro s h p c g x q q1 m sig hcur hop hx hchild hmember hstate hm hsig htable hhdr hsome
    refine to_of_meaning (execColData h p) rfl rfl (colArrive_of_now hcur hop (by decide) ?_)
    rw [← colDataNow_of_member hop hx hchild hmember hstate hm hsig htable hhdr hsome, Qf.colNow, hop]
    rfl
  · intro s h p c g x q q1 sig hcur hop hx hchild hmember hstate hsig hhdr hm hsome
    refine to_of_meaning (execColPartial h p) rfl rfl (colArrive_of_now hcur hop (by decide) ?_)
    rw [← colDataNow_of_child hop hx hchild hmember hstate hm hsig hhdr hsome, Qf.colNow, hop]
    rfl
  · intro s h p c g x q hcur hop hx hroot hparent hstate
    refine ⟨_, rfl, to_of_meaning (execColCommit h p) rfl rfl (colArrive_of_now hcur hop (by decide) ?_)⟩
    rw [← colCommitNow_of_summing hx hstate rfl, Qf.colNow, hop, hx, fromParent hroot hparent]
    rfl
  · intro s h p c g x q q1 hcur hop hx hroot hparent hstate hq1
    subst hq1
    refine to_of_meaning (execColResult h p) rfl rfl (colArrive_of_now hcur hop (by decide) ?_)
    rw [← colResultNow_of_committed hx hstate, Qf.colNow, hop, hx, fromParent hroot hparent]
    rfl
  · intro s h p c g x q hcur hop hx hchild hmember hroot
    refine to_of_meaning (execColAbortReq h p) rfl rfl (colArrive_of_now hcur hop (by decide) ?_)
    have hreq : q.colAbortReqNow g h p c false = q.colAbortAsk g c.reason p.status
        (if c.reason = 1 then some { half := some h, ep := p.srcEp, tag := p.tag } else none) := by
      rw [Qf.colAbortReqNow, hx, hroot]
      rfl
    rw [← hreq, Qf.colNow, hop, hx, hchild, hmember]
    rfl
  · intro s h p c g x q hcur hop hx hmember hroot hparent hstate
    refine to_of_meaning (execColAbort h p) rfl rfl (colArrive_of_now hcur hop (by decide) ?_)
    rw [← colAbortFrom_of_summing (c := c) (p := p) hx hstate, Qf.colNow, hop, hx, fromParent hroot hparent, hmember]
    rfl
  · intro s h p c g x q hcur hop hx hup hchild
    refine to_of_meaning (execColAbortAnswer h p) rfl rfl (colArrive_of_now hcur hop (by decide) ?_)
    have hchildUp : (!x.root && decide (h = x.parent)) = false := by
      rcases hup with h | h
      · rw [h]
        rfl
      · rw [decide_eq_false h, Bool.and_false]
    rw [Qf.colNow, hop, hx, hchildUp]
    refine congrArg some ?_
    rw [Qf.colAnswerNow, hx, hchild]
    rfl

end Sys2Proof.Proofs

/-! Pipelines, shard queries, side lists, merges and encodes (R187 to R261). -/

namespace Sys2Proof.Proofs
open Sys2Proof.Machine Sys2Proof.Claims

/-! ### Pipelines -/

/-- A RUN_PIPELINE that may start takes its place in ring order; it does not wait for the copy engines (R187). -/
theorem startWr_pipeline {q : Qf} {n : QpKey} {w : BitVec 512} {y : Qp} {x : WorkReq} (hstart : q.startable n w 0x20 = true)
    (hy : (q.touchQp n).qp n = y) (hx : x = { index := y.ctx.sqConsumer, wr := w, seq := (q.touchQp n).qps.useSeq })
    (f : WorkReq → Qf → Qf) :
    q.startWr n w 0x20 f = (f x ((q.touchQp n).updQp n (fun z => { z with
      fetched := none, work := z.work ++ [x], ctx := { z.ctx with sqConsumer := z.ctx.sqConsumer + 1 } }))).settleQp n := by
  subst hy hx
  refine (if_neg ?_).trans rfl
  rw [hstart]
  decide

/-- Settles O19: each command runs where its conditions hold. -/
theorem pipelinesTakeEffect : Obligations.PipelinesTakeEffect := by
  unfold Obligations.PipelinesTakeEffect
  refine ⟨?_, ?_, ?_, ?_, ?_⟩
  · intro s origin qpn n w y x q0 q1 hn hstart hy hx hq0 hform hq1
    subst hn hq1 hq0
    refine to_of_meaning (f := fun q => q.startWr (origin ++ qpn) w 0x20 _) (execRunPipeline origin qpn w) rfl rfl ?_
    refine (startWr_pipeline hstart hy hx _).trans ?_
    rw [if_neg (by rw [hform]; decide)]
  · intro s k hserve
    exact to_of_meaning (execPipelineStart k) rfl rfl (if_neg (by rw [hserve]; decide))
  · intro s n i j w hserve hj hw hacquire hrelease hphase
    refine to_of_meaning (execPipelineComplete n i) rfl rfl ?_
    simp only [hj, hw]
    refine (if_neg ?_).trans (if_pos (by simpa [and_assoc] using hphase))
    rcases hrelease with h | h <;> simp [hserve, hacquire, h]
  · intro s n i stage o j r bins factor hserve hj hphase hr hbins hfactor hpos hnew hmin hlate hshare
    subst hbins hfactor
    refine to_of_meaning (execGatherBackup n i stage o) rfl rfl ?_
    simp only [hj, hr]
    have hnotBack : j.backs.contains (stage.toNat, o.toNat) = false := by simpa using hnew
    refine if_neg ?_
    simp only [hserve, hphase, decide_eq_false (Nat.ne_of_gt hpos), hnotBack, decide_eq_false (Nat.not_lt.2 hmin), hlate,
      decide_eq_false (Nat.not_lt.2 hshare)]
    decide
  · intro s n i shard j r bins factor hserve hj hphase hr hbins hfactor hpos hmin hlate
    subst hbins hfactor
    refine to_of_meaning (execSearchBackup n i shard) rfl rfl ?_
    simp only [hj, hr]
    refine if_neg ?_
    simp only [hserve, hphase, decide_eq_false (Nat.ne_of_gt hpos), decide_eq_false (Nat.not_lt.2 hmin), hlate]
    decide

/-! ### Messages and manager commands of the engines -/

/-- A packet for this QF960 is taken (R89). -/
theorem arriveMsg_here {q : Qf} {i : Ingress} {p : Packet} (hserve : q.inService = true) (hdest : p.destEp = q.ownEp) (f : Qf → Qf) :
    q.arriveMsg i p f = f (q.take i p) :=
  (if_neg (by rw [hserve]; decide)).trans (if_pos hdest)

/-- Settles O20: each message is whole and served, and each manager command finds what it needs. -/
theorem searchAndEncodeCommandsTakeEffect : Obligations.SearchAndEncodeCommandsTakeEffect := by
  unfold Obligations.SearchAndEncodeCommandsTakeEffect
  refine ⟨?_, ?_, ?_, ?_, ?_, ?_⟩
  · intro s i p p' bs q r k hserve hdest hmsg hcheck hr hk
    subst hr hk
    refine to_of_meaning (execSearchShard i p) rfl rfl ((arriveMsg_here hserve hdest _).trans ?_)
    simp only [hmsg, hcheck]
  · intro s i p p' bs q r n w key st hserve hdest hmsg hopen howner hst
    subst hst
    refine to_of_meaning (execSearchAnswer i p) rfl rfl ((arriveMsg_here hserve hdest _).trans ?_)
    simp only [hmsg, hopen, howner]
  · intro s i p p' bs q a hserve hdest hmsg hcheck ha halign
    subst ha
    refine to_of_meaning (execSideAppend i p) rfl rfl ((arriveMsg_here hserve hdest _).trans ?_)
    simp only [hmsg, hcheck]
    exact if_neg (by simp [halign])
  · intro s m tenant region t metric r a pr d q1 q2 hm htenant hregion hmetric hr hhas hlost hpva hprogress hdraft
    subst hr
    refine to_of_meaning (execIndexMerge m tenant region t metric) rfl rfl ((mgr_of_ready hm 0x51
      (by rw [htenant, hregion, hmetric]; rfl) _).trans ?_)
    refine (if_neg ?_).trans ((if_neg ?_).trans ?_)
    · rw [show (s.qf.markStart m true).ver = s.qf.ver from rfl, hhas]
      decide
    · rw [show (s.qf.markStart m true).verRec (fld region 0 20) = s.qf.verRec (fld region 0 20) from rfl, hlost]
      decide
    · simp only [hpva, hprogress, hdraft]
  · intro s m tenant side r xs e a q1 hm htenant hside halign hlen hxs htranslate
    have hargs : (inRange tenant 4096 && decide (side.toNat < 2 ^ 56) && decide (side.toNat % 64 = 0) &&
        decide (xs.length ≤ 8) && xs.all (fun x => inRange x 1048576)) = true := by
      rw [htenant, decide_eq_true hside, decide_eq_true halign, decide_eq_true hlen, List.all_eq_true.2 hxs]
      rfl
    refine to_of_meaning (execSideReclaim m tenant side r xs) rfl rfl ((mgr_of_ready hm 0x52 hargs _).trans ?_)
    simp only [htranslate]
  · intro s m d pr q hm hok hprogress
    refine to_of_meaning (execFrbEncode m d) rfl rfl ((mgr_of_ready hm 0x50 rfl _).trans ((if_neg (by rw [hok]; decide)).trans ?_))
    simp only [hprogress]
    rfl

end Sys2Proof.Proofs

/-! Links: training, sessions and rates (R289, R311 to R315, R319, R394 to R396). -/

namespace Sys2Proof.Proofs
open Sys2Proof.Machine Sys2Proof.Claims

/-- A training event of a half-port that trains in its state takes effect (R311). -/
theorem train_of_trainsIn {q : Qf} {h : HalfPort} {st : LinkState} (hin : TrainsIn q h st) (f : Qf → Qf) : q.train h st f = f q := by
  obtain ⟨hrun, hused, hon, hfence, hst⟩ := hin
  exact if_pos (by rw [hrun, hused, hon, hfence, decide_eq_true hst]; rfl)

/-- The state of a half-port that trains in it. -/
theorem state_of_trainsIn {q : Qf} {h : HalfPort} {st : LinkState} (hin : TrainsIn q h st) : (q.link h).state = st := by
  obtain ⟨-, -, -, -, hst⟩ := hin
  exact hst

section
variable {s : State} {h : HalfPort}

/-- A failed attempt at the full rate counts; the third leaves the link at the reduced rate (R313). -/
theorem execRateUp_of_due {l : Link} (hl : l = s.qf.link h) (hrun : s.qf.running = true) (hlive : l.live = true)
    (hrate : l.rate = 1) (hfull : l.peerFull = true) (hphase : s.qf.boot.phase = .reduced ∨ s.qf.boot.phase = .full)
    (hfails : l.rateFails < 3) {q1 : Qf}
    (hq1 : q1 = if l.state = .active then s.qf.updLink h (fun l => l.sendControl s.qf.now 6) else s.qf) (good : Bool) :
    To (.rateUp h good) s (if good then
        (q1.updLink h (fun l => { l with rate := 2, rateFails := 0, rateUpSent := false })).setState h .active
      else
        let q := q1.updLink h (fun x => { x with rateFails := l.rateFails + 1, rateUpSent := decide (l.rateFails + 1 < 3) })
        if l.rateFails + 1 < 3 then q.setState h .rateUp
        else (q.setState h .active).fault 3 { sector := halfSector h, half := h, peer := l.peerEp }) := by
  subst hl hq1
  have hboot : (decide (s.qf.boot.phase = .reduced) || decide (s.qf.boot.phase = .full)) = true := by simpa using hphase
  refine to_of_meaning (execRateUp h good) rfl rfl (if_neg ?_)
  rw [hrun, hlive, decide_eq_true hrate, hfull, hboot, decide_eq_true hfails]
  decide

end

/-- Settles O21: each event is of a link in its state, or is due. -/
theorem linkTrainingTakesEffect : Obligations.LinkTrainingTakesEffect := by
  unfold Obligations.LinkTrainingTakesEffect
  refine ⟨?_, ?_, ?_, ?_, ?_, ?_, ?_, ?_, ?_, ?_, ?_, ?_, ?_, ?_⟩
  · intro s h q hrun _ hq hfail hin
    refine to_of_meaning (execLinkDetect h) rfl rfl ?_
    simp only [hrun, if_true, ← hq, hfail]
    exact (if_neg (by decide)).trans (train_of_trainsIn hin _)
  · intro s h hin
    exact to_of_meaning (execEqualizeDone h true) rfl rfl ((if_pos rfl).trans (train_of_trainsIn hin _))
  · intro s h hin
    exact to_of_meaning (execFrameLock h true) rfl rfl ((if_pos rfl).trans (train_of_trainsIn hin _))
  · intro s h c hin hmode
    exact to_of_meaning (execCap h c) rfl rfl ((train_of_trainsIn hin _).trans (if_pos hmode))
  · intro s h c v hin hmode hversion hpart htray
    refine ⟨_, rfl, to_of_meaning (execCap h c) rfl rfl ((train_of_trainsIn hin _).trans ((if_neg hmode).trans ?_))⟩
    have hgood : (s.qf.part.booted && c.booted && c.partitionId != s.qf.part.id || c.qfpm && !capTrayOk c) = false := by
      simp only [Bool.or_eq_false_iff, Bool.and_eq_false_iff, bne_eq_false_iff_eq, Bool.not_eq_false']
      grind
    simp only [hversion]
    exact if_neg (ne_true_of_eq_false hgood)
  · intro s h c hin hpeer hseen
    refine ⟨_, rfl, to_of_meaning (execSessionHello h c) rfl rfl ((train_of_trainsIn hin _).trans ((if_neg hpeer).trans (if_neg ?_)))⟩
    rw [hseen]
    decide
  · intro s h ct x y hin hx hseen hkem hy
    subst hx hy
    refine to_of_meaning (execSessionKem h ct) rfl rfl ((train_of_trainsIn hin _).trans (if_neg ?_))
    rw [hkem, Option.isNone_eq_false_iff.2 hseen]
    decide
  · intro s h a b x hin hx hth hverified
    subst hx
    refine ⟨_, rfl, to_of_meaning (execSessionFinish h a b) rfl rfl ((train_of_trainsIn hin _).trans ((if_neg hth).trans (if_neg ?_)))⟩
    rw [hverified]
    decide
  · intro s h cs hcs
    refine ⟨_, rfl, fun hin => ?_, fun hin hprofile hrequired hseen => ?_⟩
    · have hskip : (decide ((s.qf.link h).state = .session) && decide ((s.qf.link h).profile = 2) &&
          !(s.qf.link h).par.sessionRequired && (s.qf.link h).sess.helloSeen.isNone) = false := by
        rw [state_of_trainsIn hin]
        rfl
      refine to_of_meaning (execCreditInit h cs) rfl rfl ?_
      simp only [hskip, Bool.false_eq_true, if_false]
      exact (train_of_trainsIn hin _).trans (if_neg (by rw [hcs]; decide))
    · have hskip : (decide ((s.qf.link h).state = .session) && decide ((s.qf.link h).profile = 2) &&
          !(s.qf.link h).par.sessionRequired && (s.qf.link h).sess.helloSeen.isNone) = true := by
        rw [state_of_trainsIn hin, hprofile, hrequired, hseen]
        rfl
      refine to_of_meaning (execCreditInit h cs) rfl rfl ?_
      simp only [hskip, if_true]
      exact (train_of_trainsIn hin _).trans (if_neg (by rw [hcs]; decide))
  · intro s h l q1 hl hrun hlive hrate hfull hphase hfails hq1
    have hdue := execRateUp_of_due hl hrun hlive hrate hfull hphase hfails hq1
    refine ⟨hdue true, fun hless => ?_, fun heq => ?_⟩
    · have hagain : l.rateFails + 1 < 3 := Nat.succ_lt_succ hless
      simpa [hagain] using hdue false
    · simpa [heq] using hdue false
  · intro s h hrun
    exact to_of_meaning (execDown h) rfl rfl (if_pos hrun)
  · intro s h t hrun hlimit hdue
    refine to_of_meaning (execLinkStateTimeout h) rfl rfl ?_
    simp only [hlimit, hrun, decide_eq_true hdue]
    rfl
  · intro s h hrun hdetect hequalize
    refine to_of_meaning (execFrameLockLoss h) rfl rfl (if_pos ?_)
    rw [hrun, bne_iff_ne.2 hdetect, bne_iff_ne.2 hequalize]
    rfl
  · intro s h hrun hstate hdue
    refine to_of_meaning (execControlMessageRepeat h) rfl rfl (if_pos ?_)
    rw [hrun, decide_eq_true hdue]
    simpa [or_assoc] using hstate

end Sys2Proof.Proofs

/-! What a live link carries: flits, keys, time and CXL (R293, R294, R316, R320 to R325, R481). -/

namespace Sys2Proof.Proofs
open Sys2Proof.Machine Sys2Proof.Claims

/-! ### Hosts behind CXL ports -/

/-- Two changes of a link that agree on the link as it is are the same. -/
theorem updLink_congr {q : Qf} {h : HalfPort} {f g : Link → Link} (hfg : f (q.link h) = g (q.link h)) : q.updLink h f = q.updLink h g := by
  have hupd : ∀ k : Link → Link, q.updLink h k = { q with links := q.links.set h.toNat (k (q.link h)) } := fun _ => rfl
  rw [hupd, hupd, hfg]

section
variable {c : CxlReq} {a : BitVec 60} {p : Packet} {owned : List (BitVec 60)} {aux : Option AuxHdr}

/-- A host whose client is open is remembered under its tag, and its request goes on as a client's (R322). -/
theorem hostRequest_of_asks {q : Qf} (hasks : HostAsks q c a p) {op : BitVec 60 → BitVec 8}
    (hp : p = { opcode := op a, tag := c.tag, addr := a, srcEp := (q.link c.halfport).peerEp, aux := aux })
    (howned : owned = if op a = Opc.wbDirty then (q.link c.halfport).cxl.owned.filter (· != a) else (q.link c.halfport).cxl.owned)
    (data : Option (BitVec 8)) :
    q.hostRequest c op aux data = (remembered q c owned).clientRequest c.halfport p
      (data.map (fun d => { p with opcode := d, vc := 3, payload := slice c.data 0 64 })) := by
  subst hp
  obtain ⟨hserve, hlive, hprofile, ⟨x, hx, ha⟩, -, -, -, hopen⟩ := hasks
  have hlink : q.updLink c.halfport (fun l => { l with cxl := { l.cxl with
      openReqs := l.cxl.openReqs ++ [(c.tag, c)]
      owned := if op a = Opc.wbDirty then l.cxl.owned.filter (· != a) else l.cxl.owned } }) = remembered q c owned :=
    updLink_congr (by rw [howned])
  rw [Qf.hostRequest]
  refine (if_neg ?_).trans ?_
  · rw [hserve, hlive, hprofile]
    decide
  · simp only [hx, ha]
    rw [hlink]
    refine if_neg ?_
    rw [hopen]
    decide

/-- A request that gives no ownership back leaves the owned lines as they are. -/
theorem owned_kept {o : BitVec 8} (ho : o ≠ Opc.wbDirty) (xs ys : List (BitVec 60)) : xs = if o = Opc.wbDirty then ys else xs :=
  (if_neg ho).symm

end

/-- The response of a host that answers state I or S, and without data, is a snoop's answer at the line's home (R322). -/
theorem biRsp_of_snooped {s : State} {h : HalfPort} {tag : Tag} {l : Link} {sn r : Packet} {line : BitVec 60} (hl : l = s.qf.link h)
    (hserve : s.qf.inService = true) (hlive : l.live = true) (hprofile : l.profile = 3)
    (hsn : l.snoops.find? (fun p => p.tag = tag) = some sn) (hline : line = sn.addr &&& ~~~(63 : BitVec 60))
    (hcross : l.cxl.crossing line = false) {state : BitVec 2} (hstate : state = 0 ∨ state = 1)
    (hr : r = { (s.qf.reply sn (if state = 0 then Opc.snpRspI else Opc.snpRspS)) with srcEp := sn.destEp, far := false }) :
    To (.biRsp h tag state []) s
      ((s.qf.updLink h (fun l => { l with
          snoops := dropFirst (fun p => p.tag = tag) l.snoops
          cxl := { l.cxl with owned := l.cxl.owned.filter (· != line) } })).forHome (.half h) r
        (if state = 0 then fun q => q.snoopAnswer r (fun n q => q.dropHolder n r.srcEp) false
         else fun q => q.snoopAnswer r (fun n q => q.ownerShares n r.srcEp) false)) := by
  subst hl hline hr
  refine to_of_meaning (execBiRsp h tag state []) rfl rfl ?_
  simp only [hsn]
  refine (if_neg (by rw [hserve, hlive, hprofile]; decide)).trans ?_
  simp only [hcross]
  rcases hstate with rfl | rfl <;> rfl

/-- Settles O22: each event is of a live link, and finds what it is for. -/
theorem linkTrafficTakesEffect : Obligations.LinkTrafficTakesEffect := by
  unfold Obligations.LinkTrafficTakesEffect
  refine ⟨?_, ?_, ?_, ?_, ?_, ?_, ?_, ?_, ?_⟩
  · intro s h f l slots q hl hrun hlive hnotHost hnotTray hopen hq hlive1 hseq htype
    subst hl hq
    have hd : (flitSeq f - (s.qf.link h).rx.expect).toNat = 0 := by
      rw [hseq, BitVec.sub_self]
      rfl
    refine to_of_meaning (execFlitReceive h f) rfl rfl ((if_neg ?_).trans ?_)
    · rw [hrun, hlive, bne_iff_ne.2 hnotHost, bne_iff_ne.2 hnotTray]
      decide
    · simp only [hopen]
      refine (if_neg ?_).trans ((if_pos hd).trans (if_pos htype))
      rw [hlive1, htype]
      decide
  · intro s h f l hl hrun hlive hnotHost hnotTray hopen
    subst hl
    refine to_of_meaning (execFlitReceive h f) rfl rfl ((if_neg ?_).trans ?_)
    · rw [hrun, hlive, bne_iff_ne.2 hnotHost, bne_iff_ne.2 hnotTray]
      decide
    · simp only [hopen]
  · intro s h l hl hrun hlive hreplay hdue
    subst hl
    refine to_of_meaning (execReplayTimeout h) rfl rfl (if_pos ?_)
    rw [hrun, hlive, bne_iff_ne.2 hreplay, decide_eq_true hdue]
    rfl
  · intro s h l n hl hrun hlive hactive hversion hn
    subst hl hn
    refine ⟨fun hold => ?_, ?_⟩
    · refine to_of_meaning (execRekey h) rfl rfl ((if_neg ?_).trans (if_neg ?_))
      · rw [hrun, hlive, hactive, hversion]
        decide
      · rw [hold]
        decide
    · refine to_of_meaning (execRekeyInterval h) rfl rfl ((if_neg ?_).trans (if_pos hversion))
      rw [hrun, hlive, hactive]
      decide
  · intro s h c hrun htimed hpeer
    have hopen : ¬ (!s.qf.running || !(s.qf.link h).timed || !(s.qf.link h).peerQf) = true := by
      rw [hrun, htimed, hpeer]
      decide
    refine ⟨fun hkind => ?_, fun hkind hparent hseq hreq => ?_⟩
    · exact to_of_meaning (execTime h c) rfl rfl ((if_neg hopen).trans (if_pos hkind))
    · refine to_of_meaning (execTime h c) rfl rfl ((if_neg hopen).trans ((if_neg (by rw [hkind]; decide)).trans ((if_pos ?_).trans ?_)))
      · rw [hkind, hparent, hseq]
        simp
      · simp only [hreq, if_true]
  · intro s i p hdest hserve
    exact to_of_meaning (execTrayDone i p) rfl rfl ((if_pos hdest).trans (if_pos (by simpa using hserve)))
  · intro s c a p owned howned
    subst howned
    refine ⟨fun hp hasks => ?_, fun hp hasks => ?_, fun hp hasks hnot => ?_, fun hp hasks hown => ?_⟩
    · refine to_of_meaning (execMemRd c) rfl rfl (hostRequest_of_asks hasks hp (owned_kept ?_ _ _) none)
      split_ifs <;> decide
    · exact to_of_meaning (execMemWrPtl c) rfl rfl (hostRequest_of_asks hasks hp (owned_kept (by decide) _ _) (some Opc.dataWrite))
    · have hasks' : HostAsks s.qf { c with want := 0 } a p := hasks
      obtain ⟨-, -, -, ⟨x, hx, ha⟩, -⟩ := hasks
      refine to_of_meaning (execMemWr c) rfl rfl ?_
      have hown : (s.qf.link c.halfport).cxl.owned.contains a = false := by simpa using hnot
      simp only [hx, ha, hown, Bool.false_eq_true, if_false]
      exact hostRequest_of_asks hasks' hp (owned_kept (by decide) _ _) (some Opc.dataWrite)
    · have hasks' : HostAsks s.qf { c with want := 3 } a p := hasks
      obtain ⟨-, -, -, ⟨x, hx, ha⟩, -⟩ := hasks
      refine to_of_meaning (execMemWr c) rfl rfl ?_
      have hown' : (s.qf.link c.halfport).cxl.owned.contains a = true := by simpa using hown
      simp only [hx, ha, hown', if_true]
      exact hostRequest_of_asks hasks' hp rfl (some Opc.dataDirty)
  · intro s h tag l sn r line hl hserve hlive hprofile hsn hline hcross hr
    subst hr
    exact ⟨biRsp_of_snooped hl hserve hlive hprofile hsn hline hcross (Or.inl rfl) rfl,
      biRsp_of_snooped hl hserve hlive hprofile hsn hline hcross (Or.inr rfl) rfl⟩
  · intro s c l o o' hl hserve hlive hprofile ho hread ho'
    subst hl ho'
    have hnone : ¬ (!s.qf.inService || !(s.qf.link c.halfport).live || (s.qf.link c.halfport).profile != 4 ||
        o.read != decide (c.kind.toNat ≤ 1)) = true := by
      rw [hserve, hlive, hprofile, hread]
      simp
    refine ⟨fun hlast => ?_, fun hmore => ?_⟩
    · refine to_of_meaning (execCxlTrayMemCompletion c) rfl rfl ?_
      simp only [ho]
      exact (if_neg hnone).trans (if_pos hlast)
    · refine to_of_meaning (execCxlTrayMemCompletion c) rfl rfl ?_
      simp only [ho]
      exact (if_neg hnone).trans (if_neg hmore)

end Sys2Proof.Proofs
